-- ==== Sys2Proof/Word.lean ====
section
/-! DEFINITION. The word types of the machine: the widths the reference gives registers, masks and memory units (R1, R61). -/

namespace Sys2Proof

/-- One byte of memory. -/
abbrev Byte := BitVec 8
/-- One 32-bit lane of a vector register, an IMM32, a scratchpad word. -/
abbrev Word := BitVec 32
/-- A scalar register, an address, a 64-bit control register. -/
abbrev DWord := BitVec 64
/-- A lane mask: bit `i` stands for lane `i` (R61). -/
abbrev Mask := BitVec 32
/-- An 8-bit operand field of instruction word 0 (R45). -/
abbrev RegNo := BitVec 8
/-- A 10-bit trap cause: class × 64 + code (R58). -/
abbrev Cause := BitVec 10
/-- A peer number: 12 bits (R160). -/
abbrev Peer := BitVec 12
/-- A context id: 12 bits (R326). -/
abbrev CtxId := BitVec 12

end Sys2Proof
end

