-- ==== Sys2Proof/Config.lean ====
section
/-! DEFINITION. The free values: what the reference leaves open and the machine nevertheless delivers. Each is an
opaque constant with no body, applied to the operands it depends on or to a plain counter of State. -/

namespace Sys2Proof.Config

/-- The functions whose mapping from operand bits to result bits R115 leaves unpublished. -/
inductive Trans where
  | rcp | rsq | exp2 | log2 | sin | cos | tanh
deriving DecidableEq, Repr

/-- R115: the fixed, unpublished choice among the values that the accuracy bound admits, by function, type (0 f32,
1 f16, 2 bf16) and operand bits (log entry 10). -/
opaque transStep : Trans → Nat → Word → Nat

/-- R111 after IEEE 754-2019: whether 0 × ∞ with a NaN addend raises NV in a fused multiply-add. -/
opaque fmaNanInvalid : Bool

/-- Nanoseconds of fabric time that pass before the step numbered by the argument (R320: never negative). -/
opaque elapsed : Nat → Nat

/-- R165: whether an access uses a cached translation although a fresh walk might answer otherwise. -/
opaque useCached : Nat → Bool

/-- R370: whether a load from a cached-remote page uses the die's canopy copy. -/
opaque useCopy : Nat → Bool

/-- R345, R393: REASON of a save that DBG_CMD asks for, to which no cause is assigned. -/
opaque debugReason : BitVec 10

/-- R398: the die that a discard record names where no die's failure caused the discard, modulo 4. -/
opaque reportDie : Nat → Nat

/-- R396: the fields LREC, WID, PC, CORE and SLOT (numbered 0 to 4) of a trace record that no warp stands behind. -/
opaque noWarp : Nat → Nat → BitVec 64

/-- R357: whether some chain of links beyond the neighbours reaches a peer at a step. -/
opaque reach : BitVec 12 → Nat → Bool

/-- R347: which of the links that carry packets a packet takes, by a running count. -/
opaque route : Nat → Nat

/-- R348: how many flits beyond one a packet fills, by its number. -/
opaque flits : Nat → Nat

/-- R379: ADDR of a trap for which no rule names an address or an operand. -/
opaque noAddr : Nat → BitVec 64

end Sys2Proof.Config
end

