-- ==== Sys2Proof/Machine/Tab.lean ====
section
/-! DEFINITION. Sparse tables by number, in one canonical form: keys strictly rising, and no entry equal to the value an
unlisted key reads as. Memory, register files and the tables of the package are such tables (R9, R61). -/

namespace Sys2Proof.Machine

/-- A sparse table; what an unlisted key reads as is named where the table is read. -/
abbrev Tab (α : Type) := List (Nat × α)

/-- The entry of key `n`, or `d`. -/
def Tab.get {α : Type} (d : α) : Tab α → Nat → α
  | [], _ => d
  | (k, v) :: t, n => if n = k then v else Tab.get d t n

/-- The table with `n` listed as `v`. -/
def Tab.put {α : Type} (n : Nat) (v : α) : Tab α → Tab α
  | [] => [(n, v)]
  | (k, w) :: t => if n = k then (n, v) :: t else if n < k then (n, v) :: (k, w) :: t else (k, w) :: Tab.put n v t

/-- The table with `n` unlisted. -/
def Tab.del {α : Type} (n : Nat) : Tab α → Tab α
  | [] => []
  | (k, w) :: t => if n = k then Tab.del n t else (k, w) :: Tab.del n t

/-- The table after writing `v` at `n`, in canonical form for the default `d`. -/
def Tab.set {α : Type} [DecidableEq α] (d : α) (t : Tab α) (n : Nat) (v : α) : Tab α :=
  if v = d then Tab.del n t else Tab.put n v t

/-- Keys strictly rise, above `lo` where one is given. -/
def Tab.rising {α : Type} : Option Nat → Tab α → Bool
  | _, [] => true
  | none, (k, _) :: t => Tab.rising (some k) t
  | some l, (k, _) :: t => decide (l < k) && Tab.rising (some k) t

/-- The canonical form: keys strictly rising and no entry equal to the default. -/
def Tab.wf {α : Type} [DecidableEq α] (d : α) (t : Tab α) : Bool :=
  Tab.rising none t && t.all (fun e => decide (e.2 ≠ d))

/-- Every listed value changed by `f`. -/
def Tab.map {α : Type} (f : Nat → α → α) (t : Tab α) : Tab α :=
  List.map (fun e => (e.1, f e.1 e.2)) t

/-- The table without the keys that `p` names. -/
def Tab.drop {α : Type} (p : Nat → Bool) (t : Tab α) : Tab α := t.filter (fun e => !p e.1)

/-- `count` successive writes from `n` upward. -/
def Tab.setRun {α : Type} [DecidableEq α] (d : α) (t : Tab α) (n : Nat) : List α → Tab α
  | [] => t
  | v :: vs => Tab.setRun d (Tab.set d t n v) (n + 1) vs

/-- `count` successive reads from `n` upward. -/
def Tab.getRun {α : Type} (d : α) (t : Tab α) (n count : Nat) : List α :=
  (List.range count).map (fun i => Tab.get d t (n + i))

end Sys2Proof.Machine
end

