-- ==== Sys2Proof/Machine/Bits.lean ====
section
/-! DEFINITION. Lane masks, bytes and signed numbers (R1, R61): the bit helpers that the meanings share. -/

namespace Sys2Proof.Machine

/-- The lanes below `n` that `p` names, as a mask (R61: bit i for lane i). -/
def maskBelow (p : Nat → Bool) : Nat → Mask
  | 0 => 0
  | n + 1 => maskBelow p n ||| (if p n then (1 : Mask) <<< n else 0)

/-- The lanes that `p` names, as a mask. -/
def maskOf (p : Nat → Bool) : Mask := maskBelow p 32

/-- The lanes 0 to 31, ascending. -/
def allLanes : List Nat := List.range 32

/-- The lanes of a mask, ascending. -/
def lanesOf (m : Mask) : List Nat := allLanes.filter (fun i => m.getLsbD i)

/-- The lowest lane of a mask. -/
def lowLane (m : Mask) : Option Nat := allLanes.find? (fun i => m.getLsbD i)

/-- The mask of one lane. -/
def laneBit (i : Nat) : Mask := (1 : Mask) <<< i

/-- Every lane. -/
def fullMask : Mask := 0xFFFFFFFF

/-- The number of lanes of a mask. -/
def popMask (m : Mask) : Nat := (lanesOf m).length

/-- Bytes of a number, least significant first (R1). -/
def bytesLE : Nat → Nat → List Byte
  | 0, _ => []
  | n + 1, v => BitVec.ofNat 8 v :: bytesLE n (v / 256)

/-- The number that bytes spell, least significant first (R1). -/
def natLE : List Byte → Nat
  | [] => 0
  | b :: bs => b.toNat + 256 * natLE bs

/-- The value of a mask, or of bits, at a bit position within a word. -/
def field (w : DWord) (lo n : Nat) : Nat := (w.toNat >>> lo) % 2 ^ n

/-- A 64-bit value from its two registers (R61). -/
def pairOf (lo hi : Word) : DWord := hi ++ lo
/-- Bits 31 to 0. -/
def loWord (x : DWord) : Word := x.setWidth 32
/-- Bits 63 to 32. -/
def hiWord (x : DWord) : Word := x.extractLsb' 32 32

/-- Byte `k` of a word, least significant first (R1). -/
def byteOf (x : Word) (k : Nat) : Byte := (x >>> (8 * k)).setWidth 8

/-- A signed 32-bit number extended to 64 bits. -/
def sx64 (x : Word) : DWord := x.signExtend 64
/-- An unsigned 32-bit number extended to 64 bits. -/
def zx64 (x : Word) : DWord := x.setWidth 64

/-- Distinct values in ascending order (R142). -/
def insertAsc (x : Nat) : List Nat → List Nat
  | [] => [x]
  | y :: ys => if x < y then x :: y :: ys else if x = y then y :: ys else y :: insertAsc x ys

/-- See `insertAsc`. -/
def ascending (xs : List Nat) : List Nat := xs.foldl (fun a x => insertAsc x a) []

end Sys2Proof.Machine
end

