-- ==== Sys2Proof/Syntax.lean ====
section
/-! DEFINITION. The instructions as data: the operand shapes, and the one inductive Instr with a constructor for every
row of the opcode table. A decoded instruction carries exactly the fields its words carry (03_encoding.md R45 to R56); an
event step carries what the outside delivers with it. -/

namespace Sys2Proof

/-- Integer TYPE (R49). -/
inductive ITy where
  | b32 | s32 | b64 | s64
deriving DecidableEq, Repr

/-- Floating-point TYPE (R49). -/
inductive FTy where
  | f32 | f16 | bf16 | f64
deriving DecidableEq, Repr

/-- Rounding mode RND (R49, R88). -/
inductive Rnd where
  | rne | rz | rd | ru | rs
deriving DecidableEq, Repr

/-- Condition of ICMP (R106). -/
inductive ICond where
  | eq | ne | lt | le | gt | ge
deriving DecidableEq, Repr

/-- Condition of FCMP and DCMP (R113). -/
inductive FCond where
  | eq | lt | le | gt | ge
deriving DecidableEq, Repr

/-- Cross-lane mode (R51). -/
inductive XMode where
  | none | bc | xor | up | dn | idx | rot
deriving DecidableEq, Repr

/-- Cross-lane source modifier: mode and 5-bit parameter (R51). -/
structure XL where
  mode : XMode
  par : BitVec 5
deriving DecidableEq, Repr

/-- Guard: predicate number and negation (R25); `p7` without negation is the unguarded form. -/
structure Guard where
  neg : Bool
  p : BitVec 3
deriving DecidableEq, Repr

/-- Guard and switch marker, which nearly every instruction carries (R45). -/
structure Hdr where
  g : Guard
  sw : Bool
deriving DecidableEq, Repr

/-- Integer instruction of one source (R104). -/
structure Int2 where
  h : Hdr
  s : Bool
  ty : ITy
  sat : Bool
  xl : XL
  d : RegNo
  a : RegNo
deriving DecidableEq, Repr

/-- Integer instruction of two sources (R104). -/
structure Int3 where
  h : Hdr
  s : Bool
  ty : ITy
  sat : Bool
  xl : XL
  d : RegNo
  a : RegNo
  b : RegNo
deriving DecidableEq, Repr

/-- Integer instruction whose second source is IMM32 (R55). -/
structure Int3I where
  h : Hdr
  s : Bool
  ty : ITy
  sat : Bool
  xl : XL
  d : RegNo
  a : RegNo
  imm : Word
deriving DecidableEq, Repr

/-- Integer instruction of three sources (R104). -/
structure Int4 where
  h : Hdr
  s : Bool
  ty : ITy
  sat : Bool
  xl : XL
  d : RegNo
  a : RegNo
  b : RegNo
  c : RegNo
deriving DecidableEq, Repr

/-- Integer instruction of three sources, the second IMM32 (R55). -/
structure Int4I where
  h : Hdr
  s : Bool
  ty : ITy
  sat : Bool
  xl : XL
  d : RegNo
  a : RegNo
  imm : Word
  c : RegNo
deriving DecidableEq, Repr

/-- ICMP (R106). -/
structure ICmp where
  h : Hdr
  cond : ICond
  sgn : Bool
  xl : XL
  d : RegNo
  a : RegNo
  b : RegNo
deriving DecidableEq, Repr

/-- ICMP with IMM32 (R106). -/
structure ICmpI where
  h : Hdr
  cond : ICond
  sgn : Bool
  xl : XL
  d : RegNo
  a : RegNo
  imm : Word
deriving DecidableEq, Repr

/-- SEL (R106). -/
structure Sel where
  h : Hdr
  xl : XL
  d : RegNo
  a : RegNo
  b : RegNo
  c : RegNo
deriving DecidableEq, Repr

/-- SEL with IMM32 (R106). -/
structure SelI where
  h : Hdr
  xl : XL
  d : RegNo
  a : RegNo
  imm : Word
  c : RegNo
deriving DecidableEq, Repr

/-- The operand forms of MOV 0x019 (R110). -/
inductive MovForm where
  | plain | lo | hi | tos | tohi
deriving DecidableEq, Repr

/-- MOV 0x019 (R110). -/
structure MovReg where
  h : Hdr
  form : MovForm
  s : Bool
  ty : ITy
  xl : XL
  d : RegNo
  a : RegNo
deriving DecidableEq, Repr

/-- MOVI 0x039 (R55, R110). -/
structure MovI where
  h : Hdr
  s : Bool
  ty : ITy
  xl : XL
  d : RegNo
  imm : Word
deriving DecidableEq, Repr

/-- LEA; `wide` is TYPE .b64 of the scalar form (R107). -/
structure Lea where
  h : Hdr
  s : Bool
  wide : Bool
  xl : XL
  d : RegNo
  a : RegNo
  b : RegNo
  sh : RegNo
deriving DecidableEq, Repr

/-- LEA with IMM32 (R107). -/
structure LeaI where
  h : Hdr
  s : Bool
  wide : Bool
  xl : XL
  d : RegNo
  a : RegNo
  imm : Word
  sh : RegNo
deriving DecidableEq, Repr

/-- Narrow width of ICVT (R109). -/
inductive CvtW where
  | w8 | w16 | w32
deriving DecidableEq, Repr

/-- ICVT (R109). -/
structure ICvt where
  h : Hdr
  s : Bool
  ty : ITy
  sat : Bool
  w : CvtW
  xl : XL
  d : RegNo
  a : RegNo
deriving DecidableEq, Repr

/-- Floating-point instruction of one source (R114, R115). -/
structure Fp2 where
  h : Hdr
  sat : Bool
  ftz : Bool
  ty : FTy
  rnd : Rnd
  xl : XL
  d : RegNo
  a : RegNo
deriving DecidableEq, Repr

/-- Floating-point instruction of two sources (R111). -/
structure Fp3 where
  h : Hdr
  sat : Bool
  ftz : Bool
  ty : FTy
  rnd : Rnd
  xl : XL
  d : RegNo
  a : RegNo
  b : RegNo
deriving DecidableEq, Repr

/-- Floating-point instruction whose second source is IMM32 (R55). -/
structure Fp3I where
  h : Hdr
  sat : Bool
  ftz : Bool
  ty : FTy
  rnd : Rnd
  xl : XL
  d : RegNo
  a : RegNo
  imm : Word
deriving DecidableEq, Repr

/-- Floating-point instruction of three sources (R111). -/
structure Fp4 where
  h : Hdr
  sat : Bool
  ftz : Bool
  ty : FTy
  rnd : Rnd
  xl : XL
  d : RegNo
  a : RegNo
  b : RegNo
  c : RegNo
deriving DecidableEq, Repr

/-- Floating-point instruction of three sources, the second IMM32 (R55). -/
structure Fp4I where
  h : Hdr
  sat : Bool
  ftz : Bool
  ty : FTy
  rnd : Rnd
  xl : XL
  d : RegNo
  a : RegNo
  imm : Word
  c : RegNo
deriving DecidableEq, Repr

/-- FCMP and DCMP (R113). -/
structure FCmp where
  h : Hdr
  neg : Bool
  ftz : Bool
  ty : FTy
  cond : FCond
  xl : XL
  d : RegNo
  a : RegNo
  b : RegNo
deriving DecidableEq, Repr

/-- FCMP with IMM32 (R113). -/
structure FCmpI where
  h : Hdr
  neg : Bool
  ftz : Bool
  ty : FTy
  cond : FCond
  xl : XL
  d : RegNo
  a : RegNo
  imm : Word
deriving DecidableEq, Repr

/-- FCVT, FTOI and ITOF; `bit` is DIR or SGN (R118). -/
structure FConv where
  h : Hdr
  sat : Bool
  bit : Bool
  ty : FTy
  rnd : Rnd
  xl : XL
  d : RegNo
  a : RegNo
deriving DecidableEq, Repr

/-- QPACK (R122). -/
structure QPack where
  h : Hdr
  sat : Bool
  j : BitVec 3
  rnd : Rnd
  xl : XL
  d : RegNo
  a : RegNo
  b : RegNo
  c : RegNo
deriving DecidableEq, Repr

/-- QUNPACK (R123). -/
structure QUnpack where
  h : Hdr
  xl : XL
  d : RegNo
  a : RegNo
  j : RegNo
  c : RegNo
deriving DecidableEq, Repr

/-- BSCALE; `div` is KIND .div (R124). -/
structure BScale where
  h : Hdr
  sat : Bool
  ftz : Bool
  div : Bool
  rnd : Rnd
  xl : XL
  d : RegNo
  a : RegNo
  b : RegNo
deriving DecidableEq, Repr

/-- Guard, cross-lane modifier and source A (SRSEED, R125). -/
structure HXA where
  h : Hdr
  xl : XL
  a : RegNo
deriving DecidableEq, Repr

/-- PERM (R126). -/
structure Perm where
  h : Hdr
  byte : Bool
  d : RegNo
  a : RegNo
  b : RegNo
deriving DecidableEq, Repr

/-- Mode of VOTE (R127). -/
inductive VoteMode where
  | ballot | any | all | uni
deriving DecidableEq, Repr

/-- VOTE (R127). -/
structure Vote where
  h : Hdr
  mode : VoteMode
  d : RegNo
  a : RegNo
deriving DecidableEq, Repr

/-- Operation of WRED and WSCAN (R128). -/
inductive RedOp where
  | iadd | iminS | imaxS | iminB | imaxB | and | or | xor | fadd | fmin | fmax
deriving DecidableEq, Repr

/-- WRED (R128). -/
structure WRed where
  h : Hdr
  op : RedOp
  d : RegNo
  a : RegNo
deriving DecidableEq, Repr

/-- WSCAN (R128). -/
structure WScan where
  h : Hdr
  excl : Bool
  op : RedOp
  d : RegNo
  a : RegNo
deriving DecidableEq, Repr

/-- MATCH (R129). -/
structure MatchOp where
  h : Hdr
  b64 : Bool
  d : RegNo
  a : RegNo
deriving DecidableEq, Repr

/-- MOVX and MOVXW: `scalar` is M[7], `e` the B field (R64). -/
structure MovX where
  h : Hdr
  scalar : Bool
  b64 : Bool
  d : RegNo
  a : RegNo
  e : RegNo
deriving DecidableEq, Repr

/-- SPILL, always unguarded (R74). -/
structure Spill where
  sw : Bool
  raw : Bool
  sp : Bool
  a : RegNo
  b : RegNo
  off : Word
deriving DecidableEq, Repr

/-- FILL, always unguarded (R74). -/
structure Fill where
  sw : Bool
  sp : Bool
  d : RegNo
  b : RegNo
  off : Word
deriving DecidableEq, Repr

/-- BRA: the two displacements of EXT64 (R52). -/
structure Bra where
  h : Hdr
  target : Word
  join : Word
deriving DecidableEq, Repr

/-- Guard and D field. -/
structure HD where
  h : Hdr
  d : RegNo
deriving DecidableEq, Repr

/-- Guard and A field. -/
structure HA where
  h : Hdr
  a : RegNo
deriving DecidableEq, Repr

/-- Guard and B field. -/
structure HB where
  h : Hdr
  b : RegNo
deriving DecidableEq, Repr

/-- Guard and IMM32. -/
structure HI where
  h : Hdr
  imm : Word
deriving DecidableEq, Repr

/-- Guard, D and A fields. -/
structure HDA where
  h : Hdr
  d : RegNo
  a : RegNo
deriving DecidableEq, Repr

/-- Guard, D and B fields. -/
structure HDB where
  h : Hdr
  d : RegNo
  b : RegNo
deriving DecidableEq, Repr

/-- Guard, D field and IMM32. -/
structure HDI where
  h : Hdr
  d : RegNo
  imm : Word
deriving DecidableEq, Repr

/-- Guard, A field and IMM32. -/
structure HAI where
  h : Hdr
  a : RegNo
  imm : Word
deriving DecidableEq, Repr

/-- Guard, A and B fields and IMM32. -/
structure HABI where
  h : Hdr
  a : RegNo
  b : RegNo
  imm : Word
deriving DecidableEq, Repr

/-- Guard, D and A fields and IMM32. -/
structure HDAI where
  h : Hdr
  d : RegNo
  a : RegNo
  imm : Word
deriving DecidableEq, Repr

/-- TRAMP: the 46-bit displacement of R54. -/
structure Tramp where
  sw : Bool
  disp : BitVec 46
deriving DecidableEq, Repr

/-- SPACE of a memory access (R50). -/
inductive Space where
  | dflt | gc | sp
deriving DecidableEq, Repr

/-- SCOPE (R50, R189). -/
inductive Scope where
  | warp | team | grove | die | package | clearing
deriving DecidableEq, Repr

/-- ORD (R50). -/
inductive MOrd where
  | plain | acq | rel | acqrel
deriving DecidableEq, Repr

/-- SIZE (R50). -/
inductive Size where
  | b8 | b16 | b32 | b64 | b128
deriving DecidableEq, Repr

/-- Bytes of a SIZE (R173). -/
def Size.bytes : Size → Nat
  | .b8 => 1 | .b16 => 2 | .b32 => 4 | .b64 => 8 | .b128 => 16

/-- Memory-operand descriptor (R53): base scalar, index vector with log2 scale, displacement, remote core. -/
structure MemOp where
  base : Option (BitVec 6)
  index : Option (RegNo × BitVec 3)
  disp : Word
  core : Option (BitVec 4)
deriving DecidableEq, Repr

/-- A load: LD, LDS, LDFE, LDFF, FEQ (R169). -/
structure Load where
  h : Hdr
  sx : Bool
  space : Space
  scope : Scope
  ord : MOrd
  size : Size
  d : RegNo
  m : MemOp
deriving DecidableEq, Repr

/-- A store: ST, STS, STEF, STF (R169). -/
structure Store where
  h : Hdr
  scope : Scope
  ord : MOrd
  size : Size
  a : RegNo
  m : MemOp
deriving DecidableEq, Repr

/-- FEST: the state in the B field (R177). -/
structure FeSet where
  h : Hdr
  scope : Scope
  ord : MOrd
  full : Bool
  m : MemOp
deriving DecidableEq, Repr

/-- PFCH and CFLUSH (R185). -/
structure Line where
  h : Hdr
  m : MemOp
deriving DecidableEq, Repr

/-- Atomic operation AOP (R50, R181). -/
inductive AOp where
  | add | minS | maxS | minB | maxB | and | or | xor | exch | cas | fadd
deriving DecidableEq, Repr

/-- ATOM (R169, R181). -/
structure Atom where
  h : Hdr
  aop : AOp
  sp : Bool
  scope : Scope
  ord : MOrd
  wide : Bool
  a : RegNo
  b : RegNo
  m : MemOp
deriving DecidableEq, Repr

/-- ATOMR (R169, R181). -/
structure AtomR where
  h : Hdr
  aop : AOp
  sp : Bool
  scope : Scope
  ord : MOrd
  wide : Bool
  d : RegNo
  a : RegNo
  b : RegNo
  m : MemOp
deriving DecidableEq, Repr

/-- FENCE (R199). -/
structure Fence where
  h : Hdr
  scope : Scope
  ord : MOrd
deriving DecidableEq, Repr

/-- FENCEP with its path sets: bit 0 V, 1 M, 2 C, 3 X (R374). -/
structure FenceP where
  h : Hdr
  scope : Scope
  ord : MOrd
  eset : BitVec 4
  lset : BitVec 4
deriving DecidableEq, Repr

/-- PROMOTE (R200). -/
structure Promote where
  h : Hdr
  sp : Bool
  scope : Scope
  wide : Bool
  m : MemOp
deriving DecidableEq, Repr

/-- BANDACQ (R215). -/
structure BandAcq where
  h : Hdr
  two : Bool
  d : RegNo
deriving DecidableEq, Repr

/-- OBRES: SIZE and SOFF in units (R220). -/
structure ObRes where
  h : Hdr
  d : RegNo
  a : RegNo
  size : BitVec 10
  soff : BitVec 10
deriving DecidableEq, Repr

/-- Source of a matrix operand (R227). -/
inductive MatSrc where
  | ob
  | sp
  | remote (core : BitVec 4) (group : Option (BitVec 4))
deriving DecidableEq, Repr

/-- Matrix-operand specifier (R227). -/
structure MatSpec where
  src : MatSrc
  recNo : BitVec 5
  off : BitVec 16
deriving DecidableEq, Repr

/-- MMA (R227). -/
structure Mma where
  h : Hdr
  band : BitVec 2
  half : Bool
  z : Bool
  n64 : Bool
  kc : BitVec 7
  sa : Bool
  sb : Bool
  sreg : BitVec 6
  aop : MatSpec
  bop : MatSpec
deriving DecidableEq, Repr

/-- Columns of ACCZ (R230). -/
inductive AccPart where
  | all | lo | hi
deriving DecidableEq, Repr

/-- ACCZ (R230). -/
structure AccZ where
  h : Hdr
  band : BitVec 2
  part : AccPart
deriving DecidableEq, Repr

/-- ACCRD and ACCWR: register, band, first column, count minus 1 (R230). -/
structure AccMove where
  h : Hdr
  reg : RegNo
  band : BitVec 2
  col : BitVec 6
  nm1 : BitVec 6
deriving DecidableEq, Repr

/-- QCMD (R241). -/
structure QCmd where
  h : Hdr
  q : BitVec 4
  guard : Option (BitVec 4)
  succ : Option (BitVec 4)
  hold : Bool
  sreg : BitVec 6
  body : Word
  tag : BitVec 16
deriving DecidableEq, Repr

/-- GCLR; `u` resolves to unresolved (R247). -/
structure GClr where
  h : Hdr
  u : Bool
  d : RegNo
deriving DecidableEq, Repr

/-- TKPUT: queue number die*64 + queue (R253). -/
structure TkPut where
  h : Hdr
  a : RegNo
  queue : BitVec 8
deriving DecidableEq, Repr

/-- HREC (R261). -/
structure HRec where
  h : Hdr
  d : RegNo
  a : RegNo
  sp : Bool
  disp : Word
deriving DecidableEq, Repr

/-- Direction of a copy (R263). -/
inductive CopyDir where
  | g2s | s2g | g2o
deriving DecidableEq, Repr

/-- COPY: status, record, destination and source scalars (R263). -/
structure CopyOp where
  h : Hdr
  d : RegNo
  hreg : RegNo
  dst : RegNo
  src : RegNo
  dir : CopyDir
  bar : Option (BitVec 5)
deriving DecidableEq, Repr

/-- SLOOP (R279). -/
structure SLoop where
  h : Hdr
  a : RegNo
  w : RegNo
  lim : BitVec 16
  tag : BitVec 3
  cs : Bool
  coh : Bool
deriving DecidableEq, Repr

/-- WAITL immediate (R279). -/
structure WaitL where
  h : Hdr
  s : BitVec 16
deriving DecidableEq, Repr

/-- VAT (R299). -/
structure VAt where
  h : Hdr
  sx : Bool
  scope : Scope
  ord : MOrd
  size : Size
  d : RegNo
  b : RegNo
  m : MemOp
deriving DecidableEq, Repr

/-- LDRED; `acq` is ORD .acq at scope .clearing (R359). -/
structure LdRed where
  h : Hdr
  acq : Bool
  size : Size
  d : RegNo
  b : RegNo
  m : MemOp
deriving DecidableEq, Repr

/-- STMC; `rel` is ORD .rel at scope .clearing (R359). -/
structure StMc where
  h : Hdr
  rel : Bool
  size : Size
  a : RegNo
  b : RegNo
  m : MemOp
deriving DecidableEq, Repr

/-- AGQ: group, and a rank for QRY 1 (R358). -/
structure Agq where
  h : Hdr
  d : RegNo
  group : BitVec 8
  rank : Option (BitVec 12)
deriving DecidableEq, Repr

/-- FTIME (R341). -/
structure FTime where
  h : Hdr
  epoch : Bool
  d : RegNo
deriving DecidableEq, Repr

/-- SYSC (R342). -/
structure Sysc where
  h : Hdr
  service : BitVec 16
deriving DecidableEq, Repr

/-- TRAP (R384). -/
structure TrapOp where
  h : Hdr
  n : BitVec 5
deriving DecidableEq, Repr

/-- RETT, always unguarded (R383). -/
structure RetT where
  sw : Bool
  next : Bool
deriving DecidableEq, Repr

/-- CSRR (R387). -/
structure CsrR where
  h : Hdr
  d : RegNo
  csr : BitVec 12
deriving DecidableEq, Repr

/-- CSRW (R387). -/
structure CsrW where
  h : Hdr
  a : RegNo
  csr : BitVec 12
deriving DecidableEq, Repr

/-- A word that fails an encoding check: the cause, the length its LEN field states, and its bytes (R59, R379). -/
structure Illegal where
  cause : Cause
  len : Nat
  w0 : DWord
  ext : DWord
deriving DecidableEq, Repr

/-- A tool-reserved word: its index 0 to 15 and its whole payload (R60). -/
structure Tool where
  index : BitVec 4
  w0 : DWord
  ext : DWord
deriving DecidableEq, Repr

/-! ### What the event steps carry -/

/-- A command port of a core: 0 to 3 the bands, 4 and 5 the copy ports of the tenants (R334). -/
structure PortRef where
  core : Nat
  port : Nat
deriving DecidableEq, Repr

/-- A fault record at the host, by the number the package gave it when it was written (R134). -/
structure FaultRef where
  id : Nat
deriving DecidableEq, Repr

/-- Part of a long result that returns now: the warp, the number of the result, and its lanes; for a result that
another package supplies, the bytes of each lane (R138, R139). -/
structure LoadResponse where
  warp : Nat
  id : Nat
  lanes : Mask
  bytes : List (Nat × Byte)
deriving DecidableEq, Repr

/-- A remote load or store packet at ingress port `port` (R355). -/
structure RemoteAccess where
  port : Nat
  src : Peer
  ctx : CtxId
  gen : BitVec 16
  stream : Option Nat
  ordered : Bool
  store : List (Nat × Byte)
  loads : List Nat
  tag : Nat
deriving DecidableEq, Repr

/-- Acknowledgement of a remote access of a warp or a copy (R368). -/
structure RemoteAck where
  port : Nat
  tag : Nat
deriving DecidableEq, Repr

/-- A remote atomic at ingress port `port` (R356). -/
structure RemoteAtomic where
  src : Peer
  ctx : CtxId
  gen : BitVec 16
  stream : Nat
  ordered : Bool
  port : Nat
  addr : Nat
  aop : AOp
  wide : Bool
  a : DWord
  b : DWord
  tag : Nat
deriving DecidableEq, Repr

/-- A response to a remote copy source read: bytes by global element address (R273). -/
structure CopyData where
  port : Nat
  tag : Nat
  bytes : List Byte
deriving DecidableEq, Repr

/-- A watermark frame (R307). -/
structure Watermark where
  peer : Peer
  pw : DWord
deriving DecidableEq, Repr

/-- A write of 8 bytes at a window offset or, for a per-die register, of its window image. -/
structure RegWrite where
  off : Nat
  val : DWord
deriving DecidableEq, Repr

/-- The 32-byte launch descriptor (R313). -/
structure Submit where
  recva : DWord
  ctrl : DWord
  ft0 : DWord
  ft1 : DWord
deriving DecidableEq, Repr

/-- Another package's RESULT (R317). -/
structure ResultFrame where
  ctx : CtxId
  gen : BitVec 16
  recva : DWord
  rank : Nat
  result : DWord
deriving DecidableEq, Repr

/-- A request for this package's contribution to a reduction, arrived at a port (R363). -/
structure LdRedRequest where
  port : Nat
  src : Peer
  ctx : CtxId
  gen : BitVec 16
  gid : BitVec 16
  word : DWord
  size : Size
  lanes : Mask
  eas : List DWord
  tag : Nat
deriving DecidableEq, Repr

/-- One member's contribution: a failure code, or the raw elements in order, the block scales and the block checksums (R96, R363). -/
structure Contribution where
  member : BitVec 12
  code : Cause
  elems : List Word
  scales : List Word
  sums : List (BitVec 64)
deriving DecidableEq, Repr

/-- The contributions of the other members for an outstanding LDRED (R363, R364). -/
structure LdRedReply where
  warp : Nat
  id : Nat
  contribs : List Contribution
deriving DecidableEq, Repr

/-- A multicast store at a member (R365). -/
structure StMcDelivery where
  src : Peer
  ctx : CtxId
  gen : BitVec 16
  gid : BitVec 16
  group : BitVec 8
  stream : Nat
  ordered : Bool
  port : Nat
  lanes : Mask
  eas : List DWord
  data : List (List Byte)
  tag : Nat
deriving DecidableEq, Repr

/-- The driver's reply to a system call (R343). -/
structure SyscReply where
  ctx : CtxId
  gen : BitVec 16
  core : Nat
  slot : Nat
  s2 : DWord
  s3 : DWord
deriving DecidableEq, Repr

/-- A write of watch register `k` (R390). -/
structure WatchWrite where
  k : BitVec 3
  val : BitVec 128
deriving DecidableEq, Repr

/-- A warp slot named by DBG_CMD (R393). -/
structure DbgWarp where
  ctx : CtxId
  core : BitVec 8
  slot : BitVec 4
deriving DecidableEq, Repr

/-- DBG_CMD OP 5 (R393). -/
structure DbgWmode where
  ctx : CtxId
  core : BitVec 8
  slot : BitVec 4
  bar : BitVec 5
  wmode : BitVec 2
deriving DecidableEq, Repr

/-- A bill entry as published (R324). -/
structure BillEntry where
  ft : DWord
  w : DWord
deriving DecidableEq, Repr

/-- What a late packet carries (R338). -/
inductive LatePacket where
  | copyData (port tag : Nat) (bytes : List Byte)
  | copyAck (port tag : Nat)
  | atomResult (port warp id lane : Nat) (bytes : List Byte)
  | ldredResult (port : Nat) (r : LdRedReply)
  | storeAck (port tag : Nat)
  /-- What answers an access that the package has given up: a load cut off by a save, or an access of a discarded context. -/
  | orphan (port tag : Nat)
deriving DecidableEq, Repr

/-- A timing frame: the signed rate correction in parts per million, and how far the package's FT lies from the grandmaster's, in
FT units of 1/64 ns (R321). -/
structure PtpFrame where
  ppm : Int
  offset : Int
deriving DecidableEq, Repr

/-- Candidates of an election: priority and peer number (R323). -/
structure Election where
  candidates : List (BitVec 16 × Peer)
deriving DecidableEq, Repr

/-- LINK_CTL.ENABLE written, and whether a laser module is fitted (R350). -/
structure LinkEnable where
  port : Nat
  on : Bool
  laser : Bool
deriving DecidableEq, Repr

/-- A port and the outcome of the controller's work on it (R350). -/
structure PortFlag where
  port : Nat
  ok : Bool
deriving DecidableEq, Repr

/-- A port and the neighbour whose identity it verified (R350). -/
structure PortPeer where
  port : Nat
  peer : Peer
deriving DecidableEq, Repr

/-- A flit as received: its header, and whether its CRC and its run's tag hold (R348). -/
structure FlitIn where
  port : Nat
  hdr : DWord
  crcOk : Bool
  tagOk : Bool
deriving DecidableEq, Repr

/-- A port and a link sequence number (R349). -/
structure PortSeq where
  port : Nat
  seq : BitVec 24
deriving DecidableEq, Repr

/-- What bring-up finds: the step that fails (0 for none), and what the configuration record says (R399). -/
structure PowerOn where
  failStep : Nat
  peer : Peer
  prio : BitVec 16
  spares : BitVec 16
deriving DecidableEq, Repr

/-- What the scrubber found on one pass: the compute die and the address of each corrected word (R400). -/
structure ScrubPass where
  corrected : List (Nat × DWord)
deriving DecidableEq, Repr

/-- Where an error lies (R400, R235): a band's accumulators, an operand-buffer unit or a reservation record of a core, or the
registers or control of one of its warp slots; other state of a context, or memory that it maps; a canopy copy, by its line and
the package that the line lies on; memory that no context maps; or anything else. -/
inductive SoftPlace where
  | band (core band : Nat)
  | obUnit (core unit : Nat)
  | record (core n : Nat)
  | slot (core slot : Nat)
  | context (ctx : CtxId)
  | canopyCopy (die : Nat) (peer : Peer) (line : Nat)
  | memory (addr : Nat)
  | other
deriving DecidableEq, Repr

/-- An ECC error (R400). -/
structure SoftError where
  corrected : Bool
  place : SoftPlace
  addr : DWord
  die : Nat
deriving DecidableEq, Repr

/-- A write of package memory by system software (R326, R327). -/
structure HostWrite where
  addr : Nat
  bytes : List Byte
deriving DecidableEq, Repr

/-- The rings the resident driver reads (R343, R166, R396). -/
inductive Ring where
  | fault | sysc | trace
deriving DecidableEq, Repr

/-- Records consumed from a ring. -/
structure RingRead where
  ring : Ring
  n : Nat
deriving DecidableEq, Repr

/-- Every row of the opcode table: the decoded instructions and the event steps. -/
inductive Instr where
  /-- IADD 0x000 (R104). -/
  | iadd (i : Int3)
  /-- IADD_IMM 0x020 (R104). -/
  | iaddImm (i : Int3I)
  /-- ISUB 0x001 (R104). -/
  | isub (i : Int3)
  /-- ISUB_IMM 0x021 (R104). -/
  | isubImm (i : Int3I)
  /-- IMUL 0x002 (R104). -/
  | imul (i : Int3)
  /-- IMUL_IMM 0x022 (R104). -/
  | imulImm (i : Int3I)
  /-- IMULHI 0x003 (R104). -/
  | imulhi (i : Int3)
  /-- IMULHI_IMM 0x023 (R104). -/
  | imulhiImm (i : Int3I)
  /-- IMAD 0x004 (R104). -/
  | imad (i : Int4)
  /-- IMAD_IMM 0x024 (R104). -/
  | imadImm (i : Int4I)
  /-- IMIN 0x005 (R104). -/
  | imin (i : Int3)
  /-- IMIN_IMM 0x025 (R104). -/
  | iminImm (i : Int3I)
  /-- IMAX 0x006 (R104). -/
  | imax (i : Int3)
  /-- IMAX_IMM 0x026 (R104). -/
  | imaxImm (i : Int3I)
  /-- IABS 0x007 (R104). -/
  | iabs (i : Int2)
  /-- INEG 0x008 (R104). -/
  | ineg (i : Int2)
  /-- AND 0x009 (R104). -/
  | and (i : Int3)
  /-- AND_IMM 0x029 (R104). -/
  | andImm (i : Int3I)
  /-- OR 0x00A (R104). -/
  | or (i : Int3)
  /-- OR_IMM 0x02A (R104). -/
  | orImm (i : Int3I)
  /-- XOR 0x00B (R104). -/
  | xor (i : Int3)
  /-- XOR_IMM 0x02B (R104). -/
  | xorImm (i : Int3I)
  /-- NOT 0x00C (R104). -/
  | not (i : Int2)
  /-- ANDN 0x00D (R104). -/
  | andn (i : Int3)
  /-- ANDN_IMM 0x02D (R104). -/
  | andnImm (i : Int3I)
  /-- SHL 0x00E (R104). -/
  | shl (i : Int3)
  /-- SHL_IMM 0x02E (R104). -/
  | shlImm (i : Int3I)
  /-- SHR 0x00F (R104). -/
  | shr (i : Int3)
  /-- SHR_IMM 0x02F (R104). -/
  | shrImm (i : Int3I)
  /-- SAR 0x010 (R104). -/
  | sar (i : Int3)
  /-- SAR_IMM 0x030 (R104). -/
  | sarImm (i : Int3I)
  /-- ROT 0x011 (R104). -/
  | rot (i : Int3)
  /-- ROT_IMM 0x031 (R104). -/
  | rotImm (i : Int3I)
  /-- POPC 0x012 (R104). -/
  | popc (i : Int2)
  /-- CLZ 0x013 (R104). -/
  | clz (i : Int2)
  /-- BREV 0x014 (R104). -/
  | brev (i : Int2)
  /-- BFE 0x015 (R105). -/
  | bfe (i : Int3)
  /-- BFE_IMM 0x035 (R105). -/
  | bfeImm (i : Int3I)
  /-- BFI 0x016 (R105). -/
  | bfi (i : Int4)
  /-- BFI_IMM 0x036 (R105). -/
  | bfiImm (i : Int4I)
  /-- ICMP 0x017 (R106). -/
  | icmp (i : ICmp)
  /-- ICMP_IMM 0x037 (R106). -/
  | icmpImm (i : ICmpI)
  /-- SEL 0x018 (R106). -/
  | sel (i : Sel)
  /-- SEL_IMM 0x038 (R106). -/
  | selImm (i : SelI)
  /-- MOV_REG 0x019 (R110). -/
  | movReg (i : MovReg)
  /-- MOVI 0x039 (R110). -/
  | movi (i : MovI)
  /-- MOV_SPECIAL_SOURCE 0x01A (R110). -/
  | movSpecialSource (i : HDA)
  /-- MOV_SPECIAL_DESTINATION 0x01F (R110). -/
  | movSpecialDestination (i : HDA)
  /-- LEA 0x01B (R107). -/
  | lea (i : Lea)
  /-- LEA_IMM 0x03B (R107). -/
  | leaImm (i : LeaI)
  /-- IADD64 0x01C (R108). -/
  | iadd64 (i : Int3)
  /-- IADD64_IMM 0x03C (R108). -/
  | iadd64Imm (i : Int3I)
  /-- IMAD64 0x01D (R108). -/
  | imad64 (i : Int4)
  /-- IMAD64_IMM 0x03D (R108). -/
  | imad64Imm (i : Int4I)
  /-- ICVT 0x01E (R109). -/
  | icvt (i : ICvt)
  /-- FADD 0x040 (R111). -/
  | fadd (i : Fp3)
  /-- FADD_IMM 0x060 (R111). -/
  | faddImm (i : Fp3I)
  /-- FSUB 0x041 (R111). -/
  | fsub (i : Fp3)
  /-- FSUB_IMM 0x061 (R111). -/
  | fsubImm (i : Fp3I)
  /-- FMUL 0x042 (R111). -/
  | fmul (i : Fp3)
  /-- FMUL_IMM 0x062 (R111). -/
  | fmulImm (i : Fp3I)
  /-- FFMA 0x043 (R111). -/
  | ffma (i : Fp4)
  /-- FFMA_IMM 0x063 (R111). -/
  | ffmaImm (i : Fp4I)
  /-- FMIN 0x044 (R112). -/
  | fmin (i : Fp3)
  /-- FMIN_IMM 0x064 (R112). -/
  | fminImm (i : Fp3I)
  /-- FMAX 0x045 (R112). -/
  | fmax (i : Fp3)
  /-- FMAX_IMM 0x065 (R112). -/
  | fmaxImm (i : Fp3I)
  /-- FCMP 0x046 (R113). -/
  | fcmp (i : FCmp)
  /-- FCMP_IMM 0x066 (R113). -/
  | fcmpImm (i : FCmpI)
  /-- FCLASS 0x047 (R114). -/
  | fclass (i : Fp2)
  /-- FRCP 0x048 (R115). -/
  | frcp (i : Fp2)
  /-- FRSQ 0x049 (R115). -/
  | frsq (i : Fp2)
  /-- FSQRT 0x04A (R115). -/
  | fsqrt (i : Fp2)
  /-- FDIVS 0x04B (R117). -/
  | fdivs (i : Fp2)
  /-- FEXP2 0x04C (R115). -/
  | fexp2 (i : Fp2)
  /-- FLOG2 0x04D (R115). -/
  | flog2 (i : Fp2)
  /-- FSIN 0x04E (R115). -/
  | fsin (i : Fp2)
  /-- FCOS 0x04F (R115). -/
  | fcos (i : Fp2)
  /-- FTANH 0x050 (R115). -/
  | ftanh (i : Fp2)
  /-- FRND 0x051 (R117). -/
  | frnd (i : Fp2)
  /-- FCVT 0x052 (R118). -/
  | fcvt (i : FConv)
  /-- FTOI 0x053 (R118). -/
  | ftoi (i : FConv)
  /-- ITOF 0x054 (R118). -/
  | itof (i : FConv)
  /-- DADD 0x055 (R119). -/
  | dadd (i : Fp3)
  /-- DMUL 0x056 (R119). -/
  | dmul (i : Fp3)
  /-- DFMA 0x057 (R119). -/
  | dfma (i : Fp4)
  /-- DCMP 0x058 (R113). -/
  | dcmp (i : FCmp)
  /-- HADD2 0x059 (R120). -/
  | hadd2 (i : Fp3)
  /-- HADD2_IMM 0x079 (R120). -/
  | hadd2Imm (i : Fp3I)
  /-- HMUL2 0x05A (R120). -/
  | hmul2 (i : Fp3)
  /-- HMUL2_IMM 0x07A (R120). -/
  | hmul2Imm (i : Fp3I)
  /-- HFMA2 0x05B (R120). -/
  | hfma2 (i : Fp4)
  /-- HFMA2_IMM 0x07B (R120). -/
  | hfma2Imm (i : Fp4I)
  /-- HMIN2 0x05C (R120). -/
  | hmin2 (i : Fp3)
  /-- HMIN2_IMM 0x07C (R120). -/
  | hmin2Imm (i : Fp3I)
  /-- HMAX2 0x05D (R120). -/
  | hmax2 (i : Fp3)
  /-- HMAX2_IMM 0x07D (R120). -/
  | hmax2Imm (i : Fp3I)
  /-- QFMT 0x080 (R121). -/
  | qfmt (i : HDA)
  /-- QFMT_IMM 0x085 (R121). -/
  | qfmtImm (i : HDI)
  /-- QPACK 0x081 (R122). -/
  | qpack (i : QPack)
  /-- QUNPACK 0x082 (R123). -/
  | qunpack (i : QUnpack)
  /-- BSCALE 0x083 (R124). -/
  | bscale (i : BScale)
  /-- SRSEED 0x084 (R125). -/
  | srseed (i : HXA)
  /-- PERM 0x088 (R126). -/
  | perm (i : Perm)
  /-- VOTE 0x089 (R127). -/
  | vote (i : Vote)
  /-- WRED 0x08A (R128). -/
  | wred (i : WRed)
  /-- WSCAN 0x08B (R128). -/
  | wscan (i : WScan)
  /-- MATCH 0x08C (R129). -/
  | matchLanes (i : MatchOp)
  /-- MOVX 0x08D (R130). -/
  | movx (i : MovX)
  /-- MOVXW 0x08E (R130). -/
  | movxw (i : MovX)
  /-- SPILL 0x090 (R75). -/
  | spill (i : Spill)
  /-- FILL 0x091 (R76). -/
  | fill (i : Fill)
  /-- BRA 0x0A0 (R147). -/
  | bra (i : Bra)
  /-- BRX 0x0A1 (R147). -/
  | brx (i : HAI)
  /-- CALL 0x0A2 (R147). -/
  | call (i : HDI)
  /-- CALLX 0x0A3 (R147). -/
  | callx (i : HDAI)
  /-- RET 0x0A4 (R147). -/
  | ret (i : HA)
  /-- EXIT 0x0A5 (R149). -/
  | exit (i : Hdr)
  /-- YIELD 0x0A6 (R150). -/
  | yield (i : Hdr)
  /-- YIELD_EXPIRY (R150). -/
  | yieldExpiry (i : Nat)
  /-- NOP 0x0A7 (R150). -/
  | nop (i : Hdr)
  /-- BKPT 0x0A8 (R386). -/
  | bkpt (i : HB)
  /-- TRAMP 0x0A9 (R151). -/
  | tramp (i : Tramp)
  /-- TRET 0x0AA (R151). -/
  | tret (i : Bool)
  /-- SYNCW 0x0AB (R152). -/
  | syncw (i : HA)
  /-- SYNCW_IMM 0x0AC (R152). -/
  | syncwImm (i : HI)
  /-- LD 0x0C0 (R175). -/
  | ld (i : Load)
  /-- ST 0x0C1 (R175). -/
  | st (i : Store)
  /-- LDS 0x0C2 (R175). -/
  | lds (i : Load)
  /-- STS 0x0C3 (R175). -/
  | sts (i : Store)
  /-- LDFE 0x0C4 (R177). -/
  | ldfe (i : Load)
  /-- LDFF 0x0C5 (R177). -/
  | ldff (i : Load)
  /-- STEF 0x0C6 (R177). -/
  | stef (i : Store)
  /-- STF 0x0C7 (R177). -/
  | stf (i : Store)
  /-- FEST 0x0C8 (R177). -/
  | fest (i : FeSet)
  /-- FEQ 0x0C9 (R177). -/
  | feq (i : Load)
  /-- FE_TIMEOUT_EXPIRY (R179). -/
  | feTimeoutExpiry (i : Nat)
  /-- PFCH 0x0CA (R185). -/
  | pfch (i : Line)
  /-- CFLUSH 0x0CB (R185). -/
  | cflush (i : Line)
  /-- ATOM 0x0CC (R181). -/
  | atom (i : Atom)
  /-- ATOMR 0x0CD (R181). -/
  | atomr (i : AtomR)
  /-- FENCE 0x0E0 (R199). -/
  | fence (i : Fence)
  /-- FENCEP 0x0E1 (R375). -/
  | fencep (i : FenceP)
  /-- PROMOTE 0x0E2 (R200). -/
  | promote (i : Promote)
  /-- FAULT_RECORD_ENQUEUE (R166). -/
  | faultRecordEnqueue
  /-- FAULT_RESOLVED (R134). -/
  | faultResolved (i : FaultRef)
  /-- FAULT_UNRESOLVABLE (R134). -/
  | faultUnresolvable (i : FaultRef)
  /-- LOAD_RESPONSE (R139). -/
  | loadResponse (i : LoadResponse)
  /-- REMOTE_ACCESS_INGRESS (R355). -/
  | remoteAccessIngress (i : RemoteAccess)
  /-- REMOTE_ACK (R368). -/
  | remoteAck (i : RemoteAck)
  /-- REMOTE_ATOMIC_INGRESS (R356). -/
  | remoteAtomicIngress (i : RemoteAtomic)
  /-- LEASE_EXPIRY (R356). -/
  | leaseExpiry (i : Nat)
  /-- INSTRUCTION_FETCH (R47). -/
  | instructionFetch (i : Nat)
  /-- ILLEGAL_ENCODING (R59). -/
  | illegalEncoding (i : Illegal)
  /-- TOOL_64 (R60). -/
  | tool64 (i : Tool)
  /-- TOOL_96 (R60). -/
  | tool96 (i : Tool)
  /-- TOOL_128 (R60). -/
  | tool128 (i : Tool)
  /-- BINIT 0x100 (R207). -/
  | binit (i : HABI)
  /-- BARV 0x101 (R207). -/
  | barv (i : HAI)
  /-- BARX 0x102 (R207). -/
  | barx (i : HABI)
  /-- BWAIT 0x103 (R207). -/
  | bwait (i : HAI)
  /-- BTEST 0x104 (R207). -/
  | btest (i : HDAI)
  /-- BDROP 0x105 (R207). -/
  | bdrop (i : HAI)
  /-- BANDACQ 0x110 (R216). -/
  | bandacq (i : BandAcq)
  /-- BANDREL 0x111 (R217). -/
  | bandrel (i : HA)
  /-- OBRES 0x112 (R221). -/
  | obres (i : ObRes)
  /-- OBREL 0x113 (R222). -/
  | obrel (i : HA)
  /-- OBLD 0x114 (R223). -/
  | obld (i : HABI)
  /-- MMA 0x115 (R228). -/
  | mma (i : Mma)
  /-- ACCZ 0x116 (R231). -/
  | accz (i : AccZ)
  /-- ACCRD 0x117 (R231). -/
  | accrd (i : AccMove)
  /-- ACCWR 0x118 (R231). -/
  | accwr (i : AccMove)
  /-- BAND_CMD_MMA (R93). -/
  | bandCmdMma (i : PortRef)
  /-- BAND_CMD_ACCZ (R231). -/
  | bandCmdAccz (i : PortRef)
  /-- BAND_CMD_ACCRD (R231). -/
  | bandCmdAccrd (i : PortRef)
  /-- BAND_CMD_ACCWR (R231). -/
  | bandCmdAccwr (i : PortRef)
  /-- BAND_CMD_COLRD (R243). -/
  | bandCmdColrd (i : PortRef)
  /-- QBIND 0x120 (R239). -/
  | qbind (i : HDI)
  /-- QCMD 0x121 (R241). -/
  | qcmd (i : QCmd)
  /-- QSTAT 0x122 (R250). -/
  | qstat (i : HDA)
  /-- QDRAIN 0x123 (R250). -/
  | qdrain (i : HA)
  /-- GSET 0x124 (R247). -/
  | gset (i : HD)
  /-- GCLR 0x125 (R247). -/
  | gclr (i : GClr)
  /-- QUEUE_HEAD_DISPATCH (R246). -/
  | queueHeadDispatch (i : PortRef)
  /-- ENGINE_COMMAND_COMPLETE (R246). -/
  | engineCommandComplete (i : PortRef)
  /-- TKPUT 0x131 (R253). -/
  | tkput (i : TkPut)
  /-- TKGET 0x130 (R253). -/
  | tkget (i : HD)
  /-- TKDONE 0x132 (R253). -/
  | tkdone (i : HA)
  /-- USHER_PASS (R254). -/
  | usherPass (i : Nat)
  /-- HREC 0x128 (R262). -/
  | hrec (i : HRec)
  /-- COPY 0x129 (R264). -/
  | copy (i : CopyOp)
  /-- COPY_PART (R266). -/
  | copyPart (i : PortRef)
  /-- COPY_READ_RESPONSE (R273). -/
  | copyReadResponse (i : CopyData)
  /-- COPY_COMPLETE (R267). -/
  | copyComplete (i : PortRef)
  /-- CBATCH 0x12A (R269). -/
  | cbatch (i : HD)
  /-- CWAIT 0x12B (R269). -/
  | cwait (i : HI)
  /-- CCANCEL 0x12C (R270). -/
  | ccancel (i : HA)
  /-- SLOOP 0x140 (R280). -/
  | sloop (i : SLoop)
  /-- SNEXT 0x141 (R281). -/
  | snext (i : HDB)
  /-- SADV 0x142 (R282). -/
  | sadv (i : HA)
  /-- SJMP 0x143 (R282). -/
  | sjmp (i : HA)
  /-- WAITL 0x144 (R283). -/
  | waitl (i : WaitL)
  /-- WAITL_REG 0x147 (R283). -/
  | waitlReg (i : HA)
  /-- SRET 0x145 (R284). -/
  | sret (i : Hdr)
  /-- SCLOSE 0x146 (R284). -/
  | sclose (i : Hdr)
  /-- HELD_COPY_ENTER_PORT (R287). -/
  | heldCopyEnterPort (i : Nat)
  /-- SNAP 0x150 (R298). -/
  | snap (i : HA)
  /-- SNAPX 0x151 (R298). -/
  | snapx (i : Hdr)
  /-- TXB 0x152 (R301). -/
  | txb (i : HA)
  /-- TXC 0x153 (R304). -/
  | txc (i : HD)
  /-- TXC_COMMIT_WAIT_END (R304). -/
  | txcCommitWaitEnd (i : Nat)
  /-- TXA 0x154 (R305). -/
  | txa (i : Hdr)
  /-- TXQ 0x155 (R305). -/
  | txq (i : HD)
  /-- VAT 0x156 (R299). -/
  | vat (i : VAt)
  /-- VERSION_INSTALL_DONE (R294). -/
  | versionInstallDone (i : Nat)
  /-- FORAGER_PASS (R307). -/
  | foragerPass (i : Nat)
  /-- WATERMARK_FRAME_SEND (R307). -/
  | watermarkFrameSend
  /-- WATERMARK_FRAME_RECEIVE (R307). -/
  | watermarkFrameReceive (i : Watermark)
  /-- POOL_STALL_EXPIRY (R308). -/
  | poolStallExpiry (i : Nat)
  /-- VPOOL_CFG_WRITE (R293). -/
  | vpoolCfgWrite (i : RegWrite)
  /-- POSTW 0x160 (R316). -/
  | postw (i : HA)
  /-- LAUNCH_SUBMIT (R313). -/
  | launchSubmit (i : Submit)
  /-- LAUNCH_ACCEPT (R312). -/
  | launchAccept
  /-- COHORT_PLACEMENT (R315). -/
  | cohortPlacement (i : Nat)
  /-- WARP_RETIRE (R134). -/
  | warpRetire (i : Nat)
  /-- LAUNCH_COMPLETE (R317). -/
  | launchComplete (i : Nat)
  /-- RESULT_EXCHANGE_FRAME (R317). -/
  | resultExchangeFrame (i : ResultFrame)
  /-- LDRED 0x168 (R363). -/
  | ldred (i : LdRed)
  /-- LDRED_CONTRIBUTION (R363). -/
  | ldredContribution (i : LdRedRequest)
  /-- LDRED_RESULT (R364). -/
  | ldredResult (i : LdRedReply)
  /-- STMC 0x169 (R365). -/
  | stmc (i : StMc)
  /-- STMC_DELIVERY (R365). -/
  | stmcDelivery (i : StMcDelivery)
  /-- AGQ 0x16A (R358). -/
  | agq (i : Agq)
  /-- FTIME 0x16B (R341). -/
  | ftime (i : FTime)
  /-- SYSC 0x182 (R342). -/
  | sysc (i : Sysc)
  /-- SYSC_REPLY (R343). -/
  | syscReply (i : SyscReply)
  /-- HALT 0x185 (R344). -/
  | halt (i : Hdr)
  /-- TRAP 0x180 (R384). -/
  | trap (i : TrapOp)
  /-- RETT 0x181 (R385). -/
  | rett (i : RetT)
  /-- CSRR 0x183 (R387). -/
  | csrr (i : CsrR)
  /-- CSRW 0x184 (R387). -/
  | csrw (i : CsrW)
  /-- DEBUG_REVOKE (R395). -/
  | debugRevoke (i : CtxId)
  /-- WATCH_WRITE (R390). -/
  | watchWrite (i : WatchWrite)
  /-- DBG_STOP (R393). -/
  | dbgStop (i : CtxId)
  /-- DBG_SAVE (R393). -/
  | dbgSave (i : CtxId)
  /-- DBG_RESTORE (R394). -/
  | dbgRestore (i : CtxId)
  /-- DBG_STEP (R393). -/
  | dbgStep (i : DbgWarp)
  /-- DBG_SET_WMODE (R393). -/
  | dbgSetWmode (i : DbgWmode)
  /-- BILL_ENTRY_RECEIVE (R324). -/
  | billEntryReceive (i : BillEntry)
  /-- BILL_ENTRY_PERFORM (R325). -/
  | billEntryPerform
  /-- SLOT_END (R325). -/
  | slotEnd
  /-- CONTEXT_SWITCH (R328). -/
  | contextSwitch
  /-- SAVE_COMPLETE (R327). -/
  | saveComplete
  /-- RESTORE_COMPLETE (R327). -/
  | restoreComplete
  /-- LATE_PACKET_APPLY (R338). -/
  | latePacketApply (i : LatePacket)
  /-- CTX_CMD_PREEMPT (R339). -/
  | ctxCmdPreempt (i : CtxId)
  /-- CTX_CMD_END_PREEMPT (R339). -/
  | ctxCmdEndPreempt
  /-- CTX_CMD_RESUME (R339). -/
  | ctxCmdResume (i : CtxId)
  /-- CTX_CMD_DISCARD (R398). -/
  | ctxCmdDiscard (i : CtxId)
  /-- PTP_FRAME (R321). -/
  | ptpFrame (i : PtpFrame)
  /-- RINGMASTER_ELECTION (R323). -/
  | ringmasterElection (i : Election)
  /-- SHOOTDOWN_START (R167). -/
  | shootdownStart (i : CtxId)
  /-- SHOOTDOWN_DONE (R167). -/
  | shootdownDone
  /-- CORE_RETIRE_REQUEST (R402). -/
  | coreRetireRequest (i : BitVec 8)
  /-- LINK_ENABLE (R350). -/
  | linkEnable (i : LinkEnable)
  /-- LINK_RETRAIN (R350). -/
  | linkRetrain (i : Nat)
  /-- LINK_ROTATE (R354). -/
  | linkRotate (i : Nat)
  /-- KEY_AUTO_ROTATE (R354). -/
  | keyAutoRotate (i : Nat)
  /-- RING_CALIBRATION_DONE (R350). -/
  | ringCalibrationDone (i : PortFlag)
  /-- CALIBRATION_TIMEOUT (R350). -/
  | calibrationTimeout (i : Nat)
  /-- LINK_TRAINING_DONE (R350). -/
  | linkTrainingDone (i : PortPeer)
  /-- HEATER_SATURATION (R350). -/
  | heaterSaturation (i : PortFlag)
  /-- LOSS_OF_LIGHT (R350). -/
  | lossOfLight (i : Nat)
  /-- FLIT_RECEIVE (R348). -/
  | flitReceive (i : FlitIn)
  /-- ACK_RECEIVE (R349). -/
  | ackReceive (i : PortSeq)
  /-- NAK_RECEIVE (R349). -/
  | nakReceive (i : PortSeq)
  /-- ACK_TIMEOUT (R349). -/
  | ackTimeout (i : Nat)
  /-- KEY_ANNOUNCE (R354). -/
  | keyAnnounce (i : PortSeq)
  /-- POWER_ON (R399). -/
  | powerOn (i : PowerOn)
  /-- SCRUB_PASS (R400). -/
  | scrubPass (i : ScrubPass)
  /-- SOFT_ERROR (R400). -/
  | softError (i : SoftError)
  /-- COOLANT_OVERTEMP (R404). -/
  | coolantOvertemp
  /-- REGISTER_WRITE (R3). -/
  | registerWrite (i : RegWrite)
  /-- HOST_MEMORY_WRITE (R327). -/
  | hostMemoryWrite (i : HostWrite)
  /-- RESIDENT_DRIVER_RING_READ (R343). -/
  | residentDriverRingRead (i : RingRead)
  /-- INTERNAL_ERROR (R377). -/
  | internalError (i : CtxId)
  /-- COMMIT_STAMP_NEXT_NANOSECOND (R292). -/
  | commitStampNextNanosecond (i : Nat)
  /-- COOLANT_BELOW_RATED_INLET (R404). -/
  | coolantBelowRatedInlet
deriving DecidableEq, Repr

end Sys2Proof
end

