-- ==== Sys2Proof/WellFormed.lean ====
section
/-! DEFINITION. Which instructions the encoding tables can express: operand classes (R48), legal modifier combinations
(R49, R50 and the entries), cross-lane settings (R51) and reserved fields. An event step is always well formed. -/

namespace Sys2Proof

/-- R25, R45: G = 0b1111 is illegal. -/
def Guard.ok (g : Guard) : Bool := !(g.neg && g.p == 7)

/-- R51: the parameter that a cross-lane mode accepts. -/
def XL.ok (x : XL) : Bool :=
  match x.mode with
  | .none => x.par == 0
  | .up | .dn | .rot => x.par != 0
  | .bc | .xor | .idx => true

/-- R51: no modifier. -/
def XL.off : XL := ⟨.none, 0⟩

/-- Class s (R48). -/
def sOk (n : RegNo) : Bool := decide (n.toNat < 64)
/-- Class w: even (R48). -/
def wOk (n : RegNo) : Bool := n.toNat % 2 == 0
/-- Class s4 (R48). -/
def s4Ok (n : RegNo) : Bool := decide (n.toNat ≤ 60) && n.toNat % 4 == 0
/-- Class p as a source (R48). -/
def pOk (n : RegNo) : Bool := decide (n.toNat < 8)
/-- Class p as a destination (R48). -/
def pdOk (n : RegNo) : Bool := decide (n.toNat < 7)
/-- Classes q, g, h (R48). -/
def qOk (n : RegNo) : Bool := decide (n.toNat < 16)
/-- Class f (R48). -/
def fOk (n : RegNo) : Bool := decide (n.toNat < 8)
/-- Class y (R48). -/
def yOk (s : Bool) (n : RegNo) : Bool := !s || sOk n
/-- Class v, or w when `wide` (R48). -/
def vwOk (wide : Bool) (n : RegNo) : Bool := !wide || wOk n
/-- Class z (R48). -/
def zOk (sz : Size) (n : RegNo) : Bool :=
  match sz with
  | .b64 => n.toNat % 2 == 0
  | .b128 => n.toNat % 4 == 0
  | .b8 | .b16 | .b32 => true
/-- Shift amount of LEA (R107). -/
def shOk (n : RegNo) : Bool := decide (n.toNat ≤ 4)
/-- Element number of QUNPACK (R123). -/
def elemOk (n : RegNo) : Bool := decide (n.toNat < 8)
/-- Slots of SLOOP (R279). -/
def slotsOk (n : RegNo) : Bool := decide (1 ≤ n.toNat) && decide (n.toNat ≤ 64)
/-- A full/empty bit in a register field (R169). -/
def bitOk (n : RegNo) : Bool := decide (n.toNat ≤ 1)
/-- Band number in a register field (R230). -/
def bandOk (n : RegNo) : Bool := decide (n.toNat < 4)
/-- Special registers as a source (R48). -/
def nSrcOk (n : RegNo) : Bool := decide (n.toNat ≤ 6) || (decide (16 ≤ n.toNat) && decide (n.toNat < 32))
/-- Special registers as a destination (R48). -/
def nDstOk (n : RegNo) : Bool := decide (n.toNat ≤ 2) || (decide (16 ≤ n.toNat) && decide (n.toNat < 32))

/-- TYPE is 64 bits wide (R104). -/
def ITy.wide : ITy → Bool
  | .b32 | .s32 => false
  | .b64 | .s64 => true
/-- TYPE is signed (R104). -/
def ITy.sgn : ITy → Bool
  | .b32 | .b64 => false
  | .s32 | .s64 => true

/-- Which TYPE and SAT an integer entry lists (R104): unsigned, signed, and .sat with each. -/
structure IntLegal where
  b : Bool
  s : Bool
  satB : Bool
  satS : Bool
deriving DecidableEq, Repr

/-- R98, R104: a 64-bit TYPE needs the scalar form. -/
def IntLegal.ok (l : IntLegal) (sc : Bool) (ty : ITy) (sat : Bool) : Bool :=
  (if ty.sgn then l.s else l.b) && (!sat || (if ty.sgn then l.satS else l.satB)) && (!ty.wide || sc)

/-- IADD, ISUB, IMUL, IMAD. -/
def legArith : IntLegal := ⟨true, true, true, true⟩
/-- IMULHI, IMIN, IMAX, BFE. -/
def legPlain : IntLegal := ⟨true, true, false, false⟩
/-- IABS. -/
def legAbs : IntLegal := ⟨false, true, false, true⟩
/-- INEG. -/
def legNeg : IntLegal := ⟨true, true, false, true⟩
/-- Logic, shifts, counts, BFI. -/
def legLogic : IntLegal := ⟨true, false, false, false⟩
/-- SAR. -/
def legSar : IntLegal := ⟨false, true, false, false⟩

/-- R49, R51: in the scalar form there is no cross-lane modifier. -/
def xlY (s : Bool) (x : XL) : Bool := if s then x == XL.off else x.ok

/-- Integer shapes: TYPE and SAT, modifier, classes. -/
def wfInt2 (l : IntLegal) (i : Int2) : Bool :=
  i.h.g.ok && l.ok i.s i.ty i.sat && xlY i.s i.xl && yOk i.s i.d && yOk i.s i.a
/-- See `wfInt2`. -/
def wfInt3 (l : IntLegal) (i : Int3) : Bool :=
  i.h.g.ok && l.ok i.s i.ty i.sat && xlY i.s i.xl && yOk i.s i.d && yOk i.s i.a && yOk i.s i.b
/-- See `wfInt2`. -/
def wfInt3I (l : IntLegal) (i : Int3I) : Bool :=
  i.h.g.ok && l.ok i.s i.ty i.sat && xlY i.s i.xl && yOk i.s i.d && yOk i.s i.a
/-- See `wfInt2`. -/
def wfInt4 (l : IntLegal) (i : Int4) : Bool :=
  i.h.g.ok && l.ok i.s i.ty i.sat && xlY i.s i.xl && yOk i.s i.d && yOk i.s i.a && yOk i.s i.b && yOk i.s i.c
/-- See `wfInt2`. -/
def wfInt4I (l : IntLegal) (i : Int4I) : Bool :=
  i.h.g.ok && l.ok i.s i.ty i.sat && xlY i.s i.xl && yOk i.s i.d && yOk i.s i.a && yOk i.s i.c

/-- R108: vector form, TYPE .b64 or .s64. -/
def wfI64 (s : Bool) (ty : ITy) (x : XL) : Bool := !s && ty.wide && x.ok

/-- R110: MOV register forms. -/
def wfMovReg (i : MovReg) : Bool :=
  i.h.g.ok &&
  match i.form with
  | .plain => (!i.ty.wide || i.s) && xlY i.s i.xl && yOk i.s i.d && yOk i.s i.a
  | .lo | .hi => !i.s && i.ty == .b32 && i.xl == XL.off && sOk i.a
  | .tos | .tohi => !i.s && i.ty == .b32 && i.xl.ok && sOk i.d

/-- R109: .w32 needs the scalar form with a 64-bit TYPE. -/
def wfICvt (i : ICvt) : Bool :=
  i.h.g.ok && (!i.ty.wide || i.s) && (i.w != .w32 || (i.s && i.ty.wide)) && xlY i.s i.xl && yOk i.s i.d && yOk i.s i.a

/-- Which TYPE, RND, SAT and FTZ a floating-point entry lists (R111 to R120). -/
structure FpLegal where
  tys : List FTy
  rnds : List Rnd
  sat : Bool
  ftz : Bool
deriving DecidableEq, Repr

/-- R49. -/
def FpLegal.ok (l : FpLegal) (ty : FTy) (rnd : Rnd) (sat ftz : Bool) : Bool :=
  l.tys.contains ty && l.rnds.contains rnd && (!sat || l.sat) && (!ftz || l.ftz)

/-- Every rounding mode. -/
def rndAll : List Rnd := [.rne, .rz, .rd, .ru, .rs]
/-- The three 32-bit and 16-bit types. -/
def ty3 : List FTy := [.f32, .f16, .bf16]
/-- R111. -/
def legFp : FpLegal := ⟨ty3, rndAll, true, true⟩
/-- R112. -/
def legMinMax : FpLegal := ⟨ty3, [.rne], false, true⟩
/-- R114. -/
def legClass : FpLegal := ⟨ty3, [.rne], false, false⟩
/-- R115: FRCP, FRSQ, FEXP2, FLOG2, FSIN, FCOS, FTANH. -/
def legFun : FpLegal := ⟨ty3, [.rne], true, true⟩
/-- R115: FSQRT. -/
def legSqrt : FpLegal := ⟨ty3, [.rne, .rz, .rd, .ru], true, true⟩
/-- R115: FRND. -/
def legRnd : FpLegal := ⟨ty3, [.rne, .rz, .rd, .ru], false, false⟩
/-- R119. -/
def legF64 : FpLegal := ⟨[.f64], rndAll, true, true⟩
/-- R120. -/
def legPacked : FpLegal := ⟨[.f16, .bf16], rndAll, true, true⟩
/-- R120: HMIN2, HMAX2. -/
def legPackedMM : FpLegal := ⟨[.f16, .bf16], [.rne], false, true⟩
/-- R118: FCVT, with DIR in the place of FTZ. -/
def legCvt : FpLegal := ⟨[.f16, .bf16, .f64], rndAll, true, false⟩
/-- R118: FTOI. -/
def legFtoi : FpLegal := ⟨[.f32, .f16, .bf16, .f64], rndAll, false, false⟩
/-- R118: ITOF. -/
def legItof : FpLegal := ⟨[.f32, .f16, .bf16, .f64], rndAll, true, false⟩

/-- Floating-point shapes; `w` says that the operands are pairs (R48, R119). -/
def wfFp2 (l : FpLegal) (i : Fp2) : Bool := i.h.g.ok && l.ok i.ty i.rnd i.sat i.ftz && i.xl.ok
/-- See `wfFp2`. -/
def wfFp3 (l : FpLegal) (w : Bool) (i : Fp3) : Bool :=
  i.h.g.ok && l.ok i.ty i.rnd i.sat i.ftz && i.xl.ok && vwOk w i.d && vwOk w i.a && vwOk w i.b
/-- See `wfFp2`. -/
def wfFp4 (l : FpLegal) (w : Bool) (i : Fp4) : Bool :=
  i.h.g.ok && l.ok i.ty i.rnd i.sat i.ftz && i.xl.ok && vwOk w i.d && vwOk w i.a && vwOk w i.b && vwOk w i.c
/-- R55: for .f16 and .bf16 the upper half of IMM32 is 0, unless the instruction is packed. -/
def immF (packed : Bool) (ty : FTy) (imm : Word) : Bool := packed || ty == .f32 || imm.toNat < 65536
/-- See `wfFp2`. -/
def wfFp3I (l : FpLegal) (packed : Bool) (i : Fp3I) : Bool :=
  i.h.g.ok && l.ok i.ty i.rnd i.sat i.ftz && i.xl.ok && immF packed i.ty i.imm
/-- See `wfFp2`. -/
def wfFp4I (l : FpLegal) (packed : Bool) (i : Fp4I) : Bool :=
  i.h.g.ok && l.ok i.ty i.rnd i.sat i.ftz && i.xl.ok && immF packed i.ty i.imm

/-- R118: which side of a conversion is a pair: destination, source. -/
def convD (op : Nat) (ty : FTy) (bit : Bool) : Bool := ty == .f64 && (op == 0x54 || (op == 0x52 && !bit))
/-- See `convD`. -/
def convA (op : Nat) (ty : FTy) (bit : Bool) : Bool := ty == .f64 && (op == 0x53 || (op == 0x52 && bit))
/-- R118. -/
def wfConv (op : Nat) (l : FpLegal) (i : FConv) : Bool :=
  i.h.g.ok && l.ok i.ty i.rnd i.sat false && i.xl.ok && vwOk (convD op i.ty i.bit) i.d && vwOk (convA op i.ty i.bit) i.a

/-- R53: a memory-operand descriptor; `rmt` says that a remote core is allowed. -/
def MemOp.ok (m : MemOp) (rmt : Bool) : Bool :=
  (m.base.isSome || m.index.isSome) && (match m.index with | some (_, s) => decide (s.toNat ≤ 4) | none => true) &&
  (m.core.isNone || rmt)

/-- R50: SCOPE is 000 when ORD is 00. -/
def ordOk (o : MOrd) (s : Scope) : Bool := o != .plain || s == .warp
/-- R169: ORD of a load. -/
def loadOrd (o : MOrd) : Bool := o == .plain || o == .acq
/-- R169: ORD of a store. -/
def storeOrd (o : MOrd) : Bool := o == .plain || o == .rel
/-- R169: .sx only with b8 and b16. -/
def sxOk (sx : Bool) (z : Size) : Bool := !sx || z == .b8 || z == .b16

/-- R169: LD (with `gc` allowed) and LDS. -/
def wfLoad (gc rmt : Bool) (i : Load) : Bool :=
  i.h.g.ok && loadOrd i.ord && ordOk i.ord i.scope && sxOk i.sx i.size && (i.space == .dflt || (gc && i.space == .gc)) &&
  zOk i.size i.d && i.m.ok rmt
/-- R169: LDFE, LDFF, FEQ. -/
def wfLoadFe (i : Load) : Bool := wfLoad false true i && i.size == .b32 && !i.sx
/-- R169: ST and STS. -/
def wfStore (rmt : Bool) (i : Store) : Bool :=
  i.h.g.ok && storeOrd i.ord && ordOk i.ord i.scope && zOk i.size i.a && i.m.ok rmt
/-- R169: STEF, STF. -/
def wfStoreFe (i : Store) : Bool := wfStore true i && i.size == .b32
/-- R169: SIZE of an atomic. -/
def atomSize (wide : Bool) : Size := if wide then .b64 else .b32
/-- R169: the B field of an atomic. -/
def casB (op : AOp) (wide : Bool) (b : RegNo) : Bool := if op == .cas then zOk (atomSize wide) b else b == 0
/-- R169: ATOM. -/
def wfAtom (i : Atom) : Bool :=
  i.h.g.ok && ordOk i.ord i.scope && (i.aop != .fadd || !i.wide) && zOk (atomSize i.wide) i.a &&
  casB i.aop i.wide i.b && i.m.ok i.sp
/-- R169: ATOMR. -/
def wfAtomR (i : AtomR) : Bool :=
  i.h.g.ok && ordOk i.ord i.scope && (i.aop != .fadd || !i.wide) && zOk (atomSize i.wide) i.d &&
  zOk (atomSize i.wide) i.a && casB i.aop i.wide i.b && i.m.ok i.sp

/-- Register-number checks of the engine and system shapes. -/
def wfHDI (dOk : RegNo → Bool) (iOk : Word → Bool) (i : HDI) : Bool := i.h.g.ok && dOk i.d && iOk i.imm
/-- Any IMM32. -/
def immAny (_ : Word) : Bool := true
/-- Any register. -/
def vAny (_ : RegNo) : Bool := true

/-- R239: the port word. -/
def portWordOk (w : Word) : Bool :=
  let kind := (w.extractLsb' 0 4).toNat
  let index := (w.extractLsb' 4 4).toNat
  w.extractLsb' 17 15 == 0 && decide (kind < 6) &&
  (if kind == 1 || kind == 2 then decide (index < 4) else index == 0) && (kind == 5 || w.extractLsb' 8 9 == 0)

/-- R60: the opcode and LEN of a tool-reserved word. -/
def wfTool (len : BitVec 2) (t : Tool) : Bool :=
  t.w0.extractLsb' 7 9 == (0x1F : BitVec 5) ++ t.index && t.w0.extractLsb' 0 2 == len

/-- Whether the encoding tables can express an instruction. -/
def wellFormed : Instr → Bool
  | .iadd i | .isub i | .imul i => wfInt3 legArith i
  | .iaddImm i | .isubImm i | .imulImm i => wfInt3I legArith i
  | .imulhi i | .imin i | .imax i | .bfe i => wfInt3 legPlain i
  | .imulhiImm i | .iminImm i | .imaxImm i | .bfeImm i => wfInt3I legPlain i
  | .imad i => wfInt4 legArith i
  | .imadImm i => wfInt4I legArith i
  | .iabs i => wfInt2 legAbs i
  | .ineg i => wfInt2 legNeg i
  | .and i | .or i | .xor i | .andn i | .shl i | .shr i | .rot i => wfInt3 legLogic i
  | .andImm i | .orImm i | .xorImm i | .andnImm i | .shlImm i | .shrImm i | .rotImm i => wfInt3I legLogic i
  | .not i | .popc i | .clz i | .brev i => wfInt2 legLogic i
  | .sar i => wfInt3 legSar i
  | .sarImm i => wfInt3I legSar i
  | .bfi i => wfInt4 legLogic i
  | .bfiImm i => wfInt4I legLogic i
  | .icmp i => i.h.g.ok && i.xl.ok && pdOk i.d
  | .icmpImm i => i.h.g.ok && i.xl.ok && pdOk i.d
  | .sel i => i.h.g.ok && i.xl.ok && pOk i.c
  | .selImm i => i.h.g.ok && i.xl.ok && pOk i.c
  | .movReg i => wfMovReg i
  | .movi i => i.h.g.ok && (!i.ty.wide || i.s) && xlY i.s i.xl && yOk i.s i.d
  | .movSpecialSource i => i.h.g.ok && nSrcOk i.a
  | .movSpecialDestination i => i.h.g.ok && nDstOk i.d
  | .lea i => i.h.g.ok && (!i.wide || i.s) && xlY i.s i.xl && yOk i.s i.d && yOk i.s i.a && yOk i.s i.b &&
      shOk i.sh
  | .leaImm i => i.h.g.ok && (!i.wide || i.s) && xlY i.s i.xl && yOk i.s i.d && yOk i.s i.a && shOk i.sh
  | .iadd64 i => i.h.g.ok && wfI64 i.s i.ty i.xl && wOk i.d && wOk i.a && wOk i.b
  | .iadd64Imm i => i.h.g.ok && wfI64 i.s i.ty i.xl && wOk i.d && wOk i.a
  | .imad64 i => i.h.g.ok && wfI64 i.s i.ty i.xl && wOk i.d && wOk i.c
  | .imad64Imm i => i.h.g.ok && wfI64 i.s i.ty i.xl && wOk i.d && wOk i.c
  | .icvt i => wfICvt i
  | .fadd i | .fsub i | .fmul i => wfFp3 legFp false i
  | .faddImm i | .fsubImm i | .fmulImm i => wfFp3I legFp false i
  | .ffma i => wfFp4 legFp false i
  | .ffmaImm i => wfFp4I legFp false i
  | .fmin i | .fmax i => wfFp3 legMinMax false i
  | .fminImm i | .fmaxImm i => wfFp3I legMinMax false i
  | .fcmp i => i.h.g.ok && ty3.contains i.ty && i.xl.ok && pdOk i.d
  | .fcmpImm i => i.h.g.ok && ty3.contains i.ty && i.xl.ok && pdOk i.d && immF false i.ty i.imm
  | .fclass i | .fdivs i => wfFp2 legClass i
  | .frcp i | .frsq i | .fexp2 i | .flog2 i | .fsin i | .fcos i | .ftanh i => wfFp2 legFun i
  | .fsqrt i => wfFp2 legSqrt i
  | .frnd i => wfFp2 legRnd i
  | .fcvt i => wfConv 0x52 legCvt i
  | .ftoi i => wfConv 0x53 legFtoi i
  | .itof i => wfConv 0x54 legItof i
  | .dadd i | .dmul i => wfFp3 legF64 true i
  | .dfma i => wfFp4 legF64 true i
  | .dcmp i => i.h.g.ok && i.ty == .f64 && i.xl.ok && pdOk i.d && wOk i.a && wOk i.b
  | .hadd2 i | .hmul2 i => wfFp3 legPacked false i
  | .hadd2Imm i | .hmul2Imm i => wfFp3I legPacked true i
  | .hfma2 i => wfFp4 legPacked false i
  | .hfma2Imm i => wfFp4I legPacked true i
  | .hmin2 i | .hmax2 i => wfFp3 legPackedMM false i
  | .hmin2Imm i | .hmax2Imm i => wfFp3I legPackedMM true i
  | .qfmt i => i.h.g.ok && fOk i.d && sOk i.a
  | .qfmtImm i => wfHDI fOk immAny i
  | .qpack i => i.h.g.ok && i.xl.ok && fOk i.c
  | .qunpack i => i.h.g.ok && i.xl.ok && elemOk i.j && fOk i.c
  | .bscale i => i.h.g.ok && i.xl.ok
  | .srseed i => i.h.g.ok && i.xl.ok
  | .perm i => i.h.g.ok
  | .vote i => i.h.g.ok && sOk i.d && pOk i.a
  | .wred i => i.h.g.ok
  | .wscan i => i.h.g.ok
  | .matchLanes i => i.h.g.ok && vwOk i.b64 i.a
  | .movx i => i.h.g.ok && yOk i.scalar i.a
  | .movxw i => i.h.g.ok && yOk i.scalar i.d
  | .spill i => sOk i.b
  | .fill i => sOk i.b
  | .bra i => i.h.g.ok
  | .brx i => i.h.g.ok && wOk i.a
  | .call i => wfHDI wOk immAny i
  | .callx i => i.h.g.ok && wOk i.d && wOk i.a
  | .ret i => i.h.g.ok && wOk i.a
  | .exit i | .yield i | .nop i => i.g.ok
  | .bkpt i => i.h.g.ok
  | .tramp _ | .tret _ | .rett _ => true
  | .syncw i => i.h.g.ok
  | .syncwImm i => i.h.g.ok
  | .ld i => wfLoad true false i
  | .lds i => wfLoad false true i
  | .ldfe i | .ldff i | .feq i => wfLoadFe i
  | .st i => wfStore false i
  | .sts i => wfStore true i
  | .stef i | .stf i => wfStoreFe i
  | .fest i => i.h.g.ok && storeOrd i.ord && ordOk i.ord i.scope && i.m.ok true
  | .pfch i | .cflush i => i.h.g.ok && i.m.ok false
  | .atom i => wfAtom i
  | .atomr i => wfAtomR i
  | .fence i => i.h.g.ok && i.ord != .plain
  | .fencep i => i.h.g.ok && i.ord != .plain && i.eset != 0 && i.lset != 0
  | .promote i => i.h.g.ok && i.scope != .warp && i.scope != .team && i.m.ok i.sp
  | .binit i | .barx i => i.h.g.ok && sOk i.a && sOk i.b
  | .barv i | .bwait i | .bdrop i => i.h.g.ok && sOk i.a
  | .btest i => i.h.g.ok && pdOk i.d && sOk i.a
  | .bandacq i => i.h.g.ok && sOk i.d
  | .bandrel i | .obrel i | .tkdone i | .ccancel i | .sadv i | .sjmp i | .waitlReg i | .snap i | .txb i | .postw i =>
      i.h.g.ok && sOk i.a
  | .obres i => i.h.g.ok && sOk i.d && sOk i.a
  | .obld i => i.h.g.ok && sOk i.b
  | .mma i => i.h.g.ok && (i.sa || i.sb || i.sreg == 0)
  | .accz i => i.h.g.ok
  | .accrd i | .accwr i => i.h.g.ok
  | .qbind i => wfHDI qOk portWordOk i
  | .qcmd i => i.h.g.ok
  | .qstat i => i.h.g.ok && sOk i.d && qOk i.a
  | .qdrain i => i.h.g.ok && qOk i.a
  | .gset i => i.h.g.ok && qOk i.d
  | .gclr i => i.h.g.ok && qOk i.d
  | .hrec i => i.h.g.ok && qOk i.d && sOk i.a
  | .copy i => i.h.g.ok && sOk i.d && qOk i.hreg && sOk i.dst && sOk i.src
  | .cbatch i | .txc i | .txq i => i.h.g.ok && sOk i.d
  | .cwait i => i.h.g.ok
  | .tkget i => i.h.g.ok && s4Ok i.d
  | .tkput i => i.h.g.ok && s4Ok i.a
  | .sloop i => i.h.g.ok && sOk i.a && slotsOk i.w
  | .snext i => i.h.g.ok && sOk i.d && pdOk i.b
  | .waitl i => i.h.g.ok
  | .sret i | .sclose i | .snapx i | .txa i | .halt i => i.g.ok
  | .vat i => i.h.g.ok && loadOrd i.ord && ordOk i.ord i.scope && sxOk i.sx i.size && zOk i.size i.d && sOk i.b &&
      i.m.ok false
  | .ldred i => i.h.g.ok && zOk i.size i.d && sOk i.b && i.m.ok false
  | .stmc i => i.h.g.ok && zOk i.size i.a && sOk i.b && i.m.ok false
  | .agq i => i.h.g.ok && sOk i.d
  | .ftime i => i.h.g.ok && sOk i.d
  | .sysc i => i.h.g.ok
  | .trap i => i.h.g.ok
  | .csrr i => i.h.g.ok && sOk i.d
  | .csrw i => i.h.g.ok && sOk i.a
  | .tool64 t => wfTool 0 t && decide (t.index.toNat < 8) && t.ext == 0
  | .tool96 t => wfTool 1 t && decide (8 ≤ t.index.toNat) && decide (t.index.toNat < 12) && t.ext.extractLsb' 32 32 == 0
  | .tool128 t => wfTool 2 t && decide (12 ≤ t.index.toNat)
    | .faultRecordEnqueue | .watermarkFrameSend | .launchAccept | .billEntryPerform | .slotEnd | .contextSwitch |
      .saveComplete | .restoreComplete | .ctxCmdEndPreempt | .shootdownDone | .coolantOvertemp |
      .coolantBelowRatedInlet => true
    | .yieldExpiry _ | .feTimeoutExpiry _ | .faultResolved _ | .faultUnresolvable _ | .loadResponse _ |
      .remoteAccessIngress _ | .remoteAck _ | .remoteAtomicIngress _ | .leaseExpiry _ | .instructionFetch _ |
      .illegalEncoding _ | .bandCmdMma _ | .bandCmdAccz _ | .bandCmdAccrd _ | .bandCmdAccwr _ | .bandCmdColrd _ |
      .queueHeadDispatch _ | .engineCommandComplete _ | .usherPass _ | .copyPart _ | .copyReadResponse _ |
      .copyComplete _ | .heldCopyEnterPort _ | .txcCommitWaitEnd _ | .versionInstallDone _ | .foragerPass _ |
      .watermarkFrameReceive _ | .poolStallExpiry _ | .vpoolCfgWrite _ | .launchSubmit _ | .cohortPlacement _ |
      .warpRetire _ | .launchComplete _ | .resultExchangeFrame _ | .ldredContribution _ | .ldredResult _ |
      .stmcDelivery _ | .syscReply _ | .debugRevoke _ | .watchWrite _ | .dbgStop _ | .dbgSave _ | .dbgRestore _ |
      .dbgStep _ | .dbgSetWmode _ | .billEntryReceive _ | .latePacketApply _ | .ctxCmdPreempt _ | .ctxCmdResume _ |
      .ctxCmdDiscard _ | .ptpFrame _ | .ringmasterElection _ | .shootdownStart _ | .coreRetireRequest _ |
      .linkEnable _ | .linkRetrain _ | .linkRotate _ | .keyAutoRotate _ | .ringCalibrationDone _ |
      .calibrationTimeout _ | .linkTrainingDone _ | .heaterSaturation _ | .lossOfLight _ | .flitReceive _ |
      .ackReceive _ | .nakReceive _ | .ackTimeout _ | .keyAnnounce _ | .powerOn _ | .scrubPass _ | .softError _ |
      .registerWrite _ | .hostMemoryWrite _ | .residentDriverRingRead _ | .internalError _ |
      .commitStampNextNanosecond _ => true

end Sys2Proof
end

