-- ==== Sys2Proof/Machine/Fp.lean ====
section
/-! DEFINITION. Numbers of 05_numbers.md: exact values, formats, Decode (R78, R84), Round (R88 to R91), block scales (R86),
the collective sum (R95) and the matrix chunk (R93). -/

namespace Sys2Proof.Machine

/-- An exact value: NaN, an infinity, or (-1)^neg × num / den × 2^exp with den positive. -/
inductive Num where
  | nan
  | inf (neg : Bool)
  | fin (neg : Bool) (num den : Nat) (exp : Int)
deriving DecidableEq, Repr

/-- How the all-ones exponent field reads (R82). -/
inductive FSpec where
  | ieee | finite | nanonly
deriving DecidableEq, Repr

/-- A format: sign present, exponent width, mantissa width, bias, reading (R78, R82). -/
structure Fmt where
  s : Bool
  e : Nat
  m : Nat
  bias : Int
  spec : FSpec
deriving DecidableEq, Repr

/-- binary32 (R78). -/
def f32 : Fmt := ⟨true, 8, 23, 127, .ieee⟩
/-- binary16 (R78). -/
def f16 : Fmt := ⟨true, 5, 10, 15, .ieee⟩
/-- BF16 (R78). -/
def bf16 : Fmt := ⟨true, 8, 7, 127, .ieee⟩
/-- binary64 (R78). -/
def f64 : Fmt := ⟨true, 11, 52, 1023, .ieee⟩

/-- The format of a floating-point TYPE. -/
def fmtOf : FTy → Fmt
  | .f32 => f32 | .f16 => f16 | .bf16 => bf16 | .f64 => f64

/-- Width of a code. -/
def Fmt.width (f : Fmt) : Nat := (if f.s then 1 else 0) + f.e + f.m
/-- Exponent of the smallest normal value. -/
def Fmt.emin (f : Fmt) : Int := 1 - f.bias
/-- Quantum of the subnormal or integer grid. -/
def Fmt.qmin (f : Fmt) : Int := if f.e = 0 then -f.bias else 1 - f.bias - f.m
/-- Magnitude code of the largest finite value. -/
def Fmt.maxCode (f : Fmt) : Nat :=
  if f.e = 0 then 2 ^ f.m - 1
  else match f.spec with
    | .ieee => (2 ^ f.e - 1) * 2 ^ f.m - 1
    | .finite => 2 ^ (f.e + f.m) - 1
    | .nanonly => 2 ^ (f.e + f.m) - 2
/-- The sign placed in a code. -/
def Fmt.signed (f : Fmt) (neg : Bool) (mag : Nat) : Nat := if neg && f.s then 2 ^ (f.e + f.m) + mag else mag
/-- The canonical NaN, where the format has one (R78, R89). -/
def Fmt.nan (f : Fmt) : Option Nat :=
  if f.e = 0 then none
  else match f.spec with
    | .ieee => if f.m = 0 then none else some ((2 ^ f.e - 1) * 2 ^ f.m + 2 ^ (f.m - 1))
    | .finite => none
    | .nanonly => some (2 ^ (f.e + f.m) - 1)
/-- CanonNaN of a standard type (R92). -/
def Fmt.canonNaN (f : Fmt) : Nat := f.nan.getD 0

/-- A narrow-format descriptor, where it is valid (R82, R83). -/
def narrowFmt (d : Word) : Option Fmt :=
  let s := d.getLsbD 7
  let e := (d.extractLsb' 4 3).toNat
  let m := (d.extractLsb' 0 3).toNat
  let w := (if s then 1 else 0) + e + m
  let spec := match (d.extractLsb' 16 2).toNat with
    | 0 => some FSpec.ieee | 1 => some FSpec.finite | 2 => some FSpec.nanonly | _ => none
  if d.extractLsb' 18 14 ≠ 0 ∨ d.getLsbD 3 = true ∨ w < 2 ∨ 8 < w then none
  else match spec with
    | none => none
    | some sp => if e = 0 ∧ sp ≠ .finite then none else some ⟨s, e, m, (d.extractLsb' 8 8).toInt, sp⟩

/-- Decode of R84; a subnormal reads as a signed zero under `ftz` (R81). -/
def Fmt.decode (f : Fmt) (ftz : Bool) (c : Nat) : Num :=
  let neg := f.s && c.testBit (f.e + f.m)
  let e := c / 2 ^ f.m % 2 ^ f.e
  let m := c % 2 ^ f.m
  if f.e = 0 then .fin neg m 1 (-f.bias)
  else if f.spec = .ieee ∧ e = 2 ^ f.e - 1 then (if m = 0 then .inf neg else .nan)
  else if f.spec = .nanonly ∧ e = 2 ^ f.e - 1 ∧ m = 2 ^ f.m - 1 then .nan
  else if e = 0 then .fin neg (if ftz then 0 else m) 1 f.qmin
  else .fin neg (2 ^ f.m + m) 1 ((e : Int) - f.bias - f.m)

/-! ### Flags (R90, R101) -/

/-- NX. -/
def flNX : BitVec 5 := 1
/-- UF. -/
def flUF : BitVec 5 := 2
/-- OF. -/
def flOF : BitVec 5 := 4
/-- DZ. -/
def flDZ : BitVec 5 := 8
/-- NV. -/
def flNV : BitVec 5 := 16

/-! ### Exact arithmetic -/

/-- num / den × 2^exp as a quotient of naturals. -/
def ratOf (num den : Nat) (exp : Int) : Nat × Nat :=
  if 0 ≤ exp then (num * 2 ^ exp.toNat, den) else (num, den * 2 ^ (-exp).toNat)

/-- floor(log2) of a positive num / den × 2^exp. -/
def log2Rat (num den : Nat) (exp : Int) : Int :=
  let k : Int := (Nat.log2 num : Int) - Nat.log2 den
  let ge : Bool := if 0 ≤ k then decide (den * 2 ^ k.toNat ≤ num) else decide (den ≤ num * 2 ^ (-k).toNat)
  (if ge then k else k - 1) + exp

/-- The value with its sign turned. -/
def Num.neg : Num → Num
  | .nan => .nan
  | .inf s => .inf !s
  | .fin s n d e => .fin (!s) n d e

/-- Exact sum; `rd` gives an exact zero sum the sign of .rd (R111). -/
def Num.add (x y : Num) (rd : Bool) : Num × BitVec 5 :=
  match x, y with
  | .nan, _ => (.nan, 0)
  | _, .nan => (.nan, 0)
  | .inf s, .inf t => if s = t then (.inf s, 0) else (.nan, flNV)
  | .inf s, .fin _ _ _ _ => (.inf s, 0)
  | .fin _ _ _ _, .inf t => (.inf t, 0)
  | .fin s n d e, .fin t m c f =>
    let lo := min e f
    let a := n * c * 2 ^ (e - lo).toNat
    let b := m * d * 2 ^ (f - lo).toNat
    if s = t then
      (.fin s (a + b) (d * c) lo, 0)
    else if a = b then (.fin rd 0 1 lo, 0)
    else if b < a then (.fin s (a - b) (d * c) lo, 0)
    else (.fin t (b - a) (d * c) lo, 0)

/-- Exact product (R111). -/
def Num.mul (x y : Num) : Num × BitVec 5 :=
  match x, y with
  | .nan, _ => (.nan, 0)
  | _, .nan => (.nan, 0)
  | .inf s, .inf t => (.inf (s != t), 0)
  | .inf s, .fin t m _ _ => if m = 0 then (.nan, flNV) else (.inf (s != t), 0)
  | .fin s n _ _, .inf t => if n = 0 then (.nan, flNV) else (.inf (s != t), 0)
  | .fin s n d e, .fin t m c f => (.fin (s != t) (n * m) (d * c) (e + f), 0)

/-- a × b + c exactly. Whether 0 × ∞ beside a NaN addend raises NV is left to the implementation by IEEE 754-2019, which
R111 names; the free value `Config.fmaNanInvalid` decides. -/
def Num.fma (a b c : Num) (rd : Bool) : Num × BitVec 5 :=
  let p := a.mul b
  let x := p.1.add c rd
  (x.1, (if c = .nan ∧ p.1 = .nan ∧ p.2 ≠ 0 ∧ !Config.fmaNanInvalid then 0 else p.2) ||| x.2)

/-- Order of two values; none when either is NaN, and zeros are equal (R113). -/
def Num.cmp (x y : Num) : Option Ordering :=
  match x, y with
  | .nan, _ => none
  | _, .nan => none
  | .inf s, .inf t => some (if s = t then .eq else if s then .lt else .gt)
  | .inf s, .fin _ _ _ _ => some (if s then .lt else .gt)
  | .fin _ _ _ _, .inf t => some (if t then .gt else .lt)
  | .fin s n d e, .fin t m c f =>
    let lo := min e f
    let a : Int := (n * c * 2 ^ (e - lo).toNat : Nat)
    let b : Int := (m * d * 2 ^ (f - lo).toNat : Nat)
    some (compare (if s then -a else a) (if t then -b else b))

/-! ### Rounding (R88 to R91) -/

/-- The grid on which a magnitude is rounded: quantum, floor, remainder and its divisor. -/
structure Grid where
  q : Int
  lo : Nat
  rem : Nat
  den : Nat
deriving DecidableEq, Repr

/-- num / den × 2^exp on the grid of quantum 2^q. -/
def gridAt (q : Int) (num den : Nat) (exp : Int) : Grid :=
  let r := ratOf num den (exp - q)
  ⟨q, r.1 / r.2, r.1 % r.2, r.2⟩

/-- Quantum for T's precision, with the subnormal or integer grid below (R89 step 3). -/
def Fmt.quantum (f : Fmt) (num den : Nat) (exp : Int) : Int :=
  if f.e = 0 then f.qmin else max (log2Rat num den exp - f.m) f.qmin

/-- Magnitude code of `lo` on the grid of quantum q. -/
def Fmt.magCode (f : Fmt) (g : Grid) : Nat :=
  if f.e = 0 then g.lo else (g.q - f.qmin).toNat * 2 ^ f.m + g.lo

/-- A rounding choice: RND with the lane's draw, or a neighbour named outright (R115). -/
inductive RMode where
  | rnd (r : Rnd) (draw : Word)
  | pick (up : Bool)
deriving DecidableEq, Repr

/-- Whether a magnitude between neighbours rounds to the farther one; `odd` is the lowest code bit of the nearer (R88, R91). -/
def RMode.up (r : RMode) (neg odd : Bool) (g : Grid) : Bool :=
  if g.rem = 0 then false
  else match r with
    | .rnd .rne _ => decide (g.den < 2 * g.rem) || (decide (2 * g.rem = g.den) && odd)
    | .rnd .rz _ => false
    | .rnd .rd _ => neg
    | .rnd .ru _ => !neg
    | .rnd .rs d => decide (2 ^ 32 ≤ g.rem * 2 ^ 32 / g.den + d.toNat)
    | .pick u => u

/-- Whether an overflow goes away from zero (R89 step 4). -/
def RMode.away (r : RMode) (neg : Bool) : Bool :=
  match r with
  | .rnd .rne _ => true
  | .rnd .rs _ => true
  | .rnd .rz _ => false
  | .rnd .rd _ => neg
  | .rnd .ru _ => !neg
  | .pick _ => true

/-- A result and the flags it raises. -/
structure FRes where
  val : Nat
  fl : BitVec 5
deriving DecidableEq, Repr

/-- The overflow table of R89. -/
def Fmt.overflow (f : Fmt) (neg away sat isInf : Bool) : FRes :=
  let big := f.signed neg f.maxCode
  if sat || !(away || isInf) then ⟨big, flOF ||| flNX⟩
  else if f.e = 0 then ⟨big, flOF ||| flNX⟩
  else match f.spec with
    | .ieee => ⟨f.signed neg ((2 ^ f.e - 1) * 2 ^ f.m), if isInf then 0 else flOF ||| flNX⟩
    | .nanonly => ⟨f.canonNaN, flOF ||| flNX⟩
    | .finite => ⟨big, flOF ||| flNX⟩

/-- The rounded magnitude code of a positive value, the exponent range unbounded above, and whether it is inexact. -/
def Fmt.roundMag (f : Fmt) (r : RMode) (neg : Bool) (num den : Nat) (exp : Int) : Nat × Bool :=
  let g := gridAt (f.quantum num den exp) num den exp
  let c := f.magCode g
  (if r.up neg (c % 2 == 1) g then c + 1 else c, g.rem ≠ 0)

/-- Tiny: rounded with an unbounded exponent range, below the smallest normal (R89). In a format that has no normal value the model takes
2^(1 - BIAS) for it, and a result that overflows is not tiny: its choice (log entry 96). -/
def Fmt.tiny (f : Fmt) (r : RMode) (neg : Bool) (num den : Nat) (exp : Int) : Bool :=
  let k := log2Rat num den exp
  if f.e = 0 ∨ f.emin ≤ k then false
  else if k < f.emin - 1 then true
  else
    let g := gridAt (k - f.m) num den exp
    let odd := if f.m = 0 then (k + f.bias) % 2 == 1 else g.lo % 2 == 1
    decide ((if r.up neg odd g then g.lo + 1 else g.lo) < 2 ^ (f.m + 1))

/-- Round(x, T, mode, sat) of R89. -/
def Fmt.round (f : Fmt) (x : Num) (r : RMode) (sat : Bool) : FRes :=
  match x with
  | .nan => match f.nan with
    | some c => ⟨c, 0⟩
    | none => ⟨0, flNV⟩
  | .inf neg => if neg && !f.s then ⟨0, flNV⟩ else f.overflow neg (r.away neg) sat true
  | .fin neg num den exp =>
    if num = 0 then ⟨f.signed neg 0, 0⟩
    else
      let c := f.roundMag r neg num den exp
      if neg && !f.s then ⟨0, if c.1 = 0 then flNX else flNV⟩
      else if f.maxCode < c.1 then f.overflow neg (r.away neg) sat false
      else if !c.2 then ⟨f.signed neg c.1, 0⟩
      else ⟨f.signed neg c.1, if f.tiny r neg num den exp then flNX ||| flUF else flNX⟩

/-- A subnormal result becomes a zero of its sign under `.ftz`, with UF and NX (R81). -/
def Fmt.flush (f : Fmt) (ftz : Bool) (r : FRes) : FRes :=
  let mag := r.val % 2 ^ (f.e + f.m)
  if ftz ∧ mag ≠ 0 ∧ mag < 2 ^ f.m then ⟨r.val - mag, r.fl ||| flUF ||| flNX⟩ else r

/-- RoundF32 (R92). -/
def roundF32 (x : Num) : Word := BitVec.ofNat 32 (f32.round x (.rnd .rne 0) false).val

/-- SRNext of R91: the next state, which is also the value returned. -/
def srNext (x : Word) : Word :=
  let x := x ^^^ (x <<< 13)
  let x := x ^^^ (x >>> 17)
  x ^^^ (x <<< 5)

/-! ### Block scales (R86) -/

/-- SEXP of a scale. -/
def scaleExp (s : Word) : Nat := (s.extractLsb' 16 8).toNat
/-- SFRAC of a scale. -/
def scaleFrac (s : Word) : Nat := (s.extractLsb' 0 16).toNat
/-- ScaleMul (R86): 1 for SEXP 0 and 255. -/
def scaleMul (s : Word) : Num :=
  if scaleExp s = 0 ∨ scaleExp s = 255 then .fin false 1 1 0
  else .fin false (65536 + scaleFrac s) 1 ((scaleExp s : Int) - 127 - 16)
/-- The exact quotient x ÷ ScaleMul(s). -/
def scaleDiv (x : Num) (s : Word) : Num :=
  match x, scaleMul s with
  | .fin n num den e, .fin _ a _ f => .fin n num (den * a) (e - f)
  | x, _ => x

/-! ### Collective sum (R95) -/

/-- RoundF32(x + y) on codes. -/
def addF32 (x y : Word) : Word := roundF32 ((f32.decode false x.toNat).add (f32.decode false y.toNat) false).1

/-- One level of TreeSum. -/
def treeLevel : List Word → List Word
  | x :: y :: r => addF32 x y :: treeLevel r
  | r => r

/-- TreeSum (R95) by levels; a single value stands as it is. -/
def treeSumN : Nat → List Word → Word
  | 0, xs => xs.headD 0
  | n + 1, xs => match xs with
    | [] => 0
    | [x] => x
    | xs => treeSumN n (treeLevel xs)

/-- TreeSum of a list of binary32 codes. -/
def treeSum (xs : List Word) : Word := treeSumN xs.length xs

/-! ### The matrix chunk (R93) -/

/-- One chunk of an accumulator element: the products' operands, and the two scales. -/
def chunkStep (acc : Word) (ps : List (Num × Num)) (sa sb : Num) : Word :=
  let xs := ps.map (fun e => (e.1.mul e.2).1)
  let a := f32.decode false acc.toNat
  if a = .nan then acc
  else if xs.contains .nan || (xs.contains (.inf false) && xs.contains (.inf true)) then BitVec.ofNat 32 f32.canonNaN
  else if xs.contains (.inf false) then roundF32 (a.add (.inf false) false).1
  else if xs.contains (.inf true) then roundF32 (a.add (.inf true) false).1
  else
    let sum : Num := xs.foldl (fun (t x : Num) => (t.add x false).1) (Num.fin false 0 1 0)
    match sum with
    | .fin _ n _ _ => if n = 0 then acc else roundF32 (a.add ((sum.mul sa).1.mul sb).1 false).1
    | _ => acc

end Sys2Proof.Machine
end

