-- ==== Sys2Proof/Machine/State.lean ====
section
/-! DEFINITION. The state of one package as plain data: everything the reference gives the machine, and the state after
reset. INVENTORY.md lists every field with the rule that names it. -/

namespace Sys2Proof.Machine

/-- KIND of a reconvergence stack entry (R141). -/
inductive EntryKind where
  | join | path | wait
deriving DecidableEq, Repr

/-- A reconvergence stack entry (R141). -/
structure StackEntry where
  kind : EntryKind
  pc : DWord
  mask : Mask
  join : DWord
  smask : Mask
deriving DecidableEq, Repr

/-- The map of TRAP_STATE0 to TRAP_STATE9 (R379). -/
structure TrapMap where
  valid : Bool := false
  cause : Cause := 0
  len : BitVec 8 := 0
  pc : DWord := 0
  em : Mask := 0
  flm : Mask := 0
  done : Mask := 0
  exited : Mask := 0
  addr : DWord := 0
  cj : DWord := 0
  instLo : DWord := 0
  instHi : DWord := 0
  ft : DWord := 0
  tb : BitVec 9 := 0
  spin : BitVec 7 := 0
deriving DecidableEq, Repr

/-- STAT of a warp slot (R333). -/
inductive WStat where
  | free | ready | parked | replayable | retiring | halted
deriving DecidableEq, Repr

/-- A byte that a remote load asks for: its place, lane*16 + byte, where it lies, and whether the die's canopy may keep a copy
of it (R370). -/
structure Ask where
  place : Nat
  peer : Peer
  addr : Nat
  copy : Bool
deriving DecidableEq, Repr

/-- What a long result is waiting for (R57, R138). -/
inductive PendKind where
  /-- Values captured at issue: vector writes by reg*32 + lane, and scalar writes. -/
  | value (v : List (Nat × Word)) (s : List (Nat × DWord))
  /-- A remote load: first register, size, sign extension, word 0, each lane's address (R329), the bytes of a lane
  that were read on this package, by lane*16 + place, the lines of this package that they lie on (R192), the bytes asked for, and
  the die's copy epoch at issue (R370). -/
  | remote (d : Nat) (size : Size) (sx : Bool) (w0 : DWord) (eas : Tab DWord) (got : List (Nat × Byte)) (own : List Nat)
      (asks : List Ask) (epoch : Nat) (tag : Nat)
  /-- A FILL from another package's memory: register, word 0, slot address, the bytes read on this package (R77), and what `remote`
  has of the bytes asked for. -/
  | fill (d : Nat) (w0 : DWord) (ea : DWord) (got : List (Nat × Byte)) (asks : List Ask) (epoch : Nat) (tag : Nat)
  /-- An HREC whose image lies on another package: h register and address (R262), and what `remote` has of the bytes asked for. -/
  | hrec (d : Nat) (ea : DWord) (asks : List Ask) (epoch : Nat) (tag : Nat)
  /-- A remote ATOMR result (R186). -/
  | atomr (d : Nat) (wide : Bool) (tag : Nat)
  /-- A COPY status, written when copy `id` leaves its queue (R264). -/
  | copy (id : Nat) (sreg : Nat)
  /-- An ACCRD, written when band command `id` executes (R231). -/
  | accrd (id : Nat)
  /-- An LDRED: first register, size, scalar, group word, addresses of the lanes (R363). -/
  | ldred (d : Nat) (size : Size) (sreg : Nat) (word : DWord) (eas : Tab DWord) (em : Mask) (tag : Nat)
  /-- The deliveries of an STMC that are not finished, by tag (R365). -/
  | stmc (tags : List Nat)
  /-- A stack entry whose spill area lies on another package: its depth (R145), and what `remote` has of the bytes asked for. -/
  | entry (depth : Nat) (asks : List Ask) (epoch : Nat) (tag : Nat)
  /-- The result of an instruction that the core holds while the warp goes on (R199). -/
  | held
deriving DecidableEq, Repr

/-- A long result outstanding: the lanes that have not returned (R139). -/
structure Pending where
  id : Nat
  lanes : Mask
  kind : PendKind
deriving DecidableEq, Repr

/-- State of a warp's transaction (R300, R305). -/
inductive TxState where
  | none | active | committed | doomed | aborted
deriving DecidableEq, Repr

/-- A fetched instruction: its length in bytes by LEN, word 0 and the following bytes (R47). -/
structure Fetched where
  len : Nat
  w0 : DWord
  ext : DWord
deriving DecidableEq, Repr

/-- What a FENCE or an outstanding acquire of a warp holds back (R193, R199, R233, R373): later accesses of the paths V and X wait for
all their earlier ones, or for their loads; later stores of these paths for the band commands named, and later band commands and
copies for those named. -/
structure FenceHold where
  v : Bool := false
  vLoads : Bool := false
  vBand : Bool := false
  x : Bool := false
  xLoads : Bool := false
  xBand : Bool := false
  bands : List Nat := []
  copies : List Nat := []
deriving DecidableEq, Repr

/-- A translation as the caches hold it (R160, R165). -/
structure Trans where
  peer : Peer
  amode : BitVec 2
  okind : BitVec 2
  vers : Bool
  /-- Target address of the 4 KiB page. -/
  page : Nat
  priv : Bool
  exec : Bool
  write : Bool
  read : Bool
deriving DecidableEq, Repr

/-- An issued memory instruction that the core holds behind the warp's band commands while the warp goes on with instructions that do
not access memory (R137, R199, R233): its number, the instruction with its place and em, what it has done so far, the registers that
it reads, what the warp's fences were, the band commands before it, and the translations that it has made. -/
structure Deferred where
  id : Nat
  pc : DWord
  ir : Fetched
  em : Mask
  done : Mask
  stored : List (Nat × Nat)
  promotes : List (Nat × Nat)
  counted : List Nat
  sregs : Tab DWord
  vregs : Tab Word
  preds : Tab Mask
  fence : FenceHold
  relFence : Bool
  bands : List Nat
  pins : List (Nat × Trans)
deriving DecidableEq, Repr

/-- A warp slot: the warp control block and registers of R61, R141 and R333, and what the core holds in flight for it. -/
structure Warp where
  stat : WStat := .free
  /-- Park reason (R418). -/
  reason : Nat := 0
  trapMode : Bool := false
  /-- Opportunities for which a yielding warp still stands back; 0 when it does not yield (R150). -/
  yielding : Nat := 0
  /-- STAT.REPLAY (R344). -/
  replay : Bool := false
  pc : DWord := 0
  cj : DWord := 0
  em : Mask := 0
  exited : Mask := 0
  /-- The top entries, at most 32, topmost first (R145). -/
  stack : List StackEntry := []
  /-- D, counting the entries in the spill area (R145). -/
  depth : Nat := 0
  spin : BitVec 7 := 0
  trap : TrapMap := {}
  /-- Done mask of the instruction at PC (R155). -/
  done : Mask := 0
  /-- Lanes waiting at a full/empty word (R333). -/
  waiting : Mask := 0
  fpFlags : BitVec 5 := 0
  fpTrapen : BitVec 5 := 0
  keep : Bool := false
  trampLink : DWord := 0
  lstackLimit : DWord := 0
  fmt : Tab Word := []
  snap : DWord := 0
  stg : Word := 0
  widBase : DWord := 0
  sr : Tab Word := []
  sregs : Tab DWord := []
  /-- Vector registers by reg*32 + lane (R61). -/
  vregs : Tab Word := []
  preds : Tab Mask := []
  hregs : Tab (BitVec 256) := []
  guards : Tab (BitVec 2) := []
  qbind : Tab Word := []
  draw : Word := 0
  qids : List (BitVec 8) := []
  member : Option Nat := none
  batch : Word := 0
  /-- Batch records, newest first: number and copies not yet left (R269). -/
  batches : List (Word × List Nat) := []
  openCopies : List Nat := []
  statusPort : List (DWord × BitVec 16) := []
  arrivals : Tab (Option (BitVec 16)) := []
  txState : TxState := .none
  txStart : DWord := 0
  txLines : Nat := 0
  txCode : BitVec 6 := 0
  txConf : BitVec 41 := 0
  /-- The commit stamp that a TXC waits to deliver, and its destination (R304). -/
  txWait : Option (DWord × RegNo) := none
  snapIx : Option (Nat × Nat) := none
  /-- Reissue record: word 0, lanes, and their addresses (R329). -/
  reissue : Option (DWord × Mask × Tab DWord) := none
  /-- The held watch hit of the instruction at PC, and in trap mode that of the instruction that trapped (R391). -/
  watch : Option (Mask × DWord) := none
  trapWatch : Option (Mask × DWord) := none
  pending : List Pending := []
  /-- Fault records of this warp still at the host (R166). -/
  records : List Nat := []
  /-- The instruction fetched and not yet executed (R47). -/
  ir : Option Fetched := none
  /-- Perform the next instruction without a breakpoint check (R389). -/
  skipBreak : Bool := false
  /-- Halt again with 0x2C2 once one instruction completes or parks (R393). -/
  stepping : Bool := false
  /-- The instruction after whose issue it parked for a queue carries SW (R139, R244). -/
  marked : Bool := false
  /-- The band command whose end it then awaits (R229), and the port that it filled with the commands that stood there (R244). -/
  waitBand : Option Nat := none
  waitPort : Option Nat := none
  waitIds : List Nat := []
  /-- The core holds its memory instruction, issued, behind earlier accesses (R199, R368, R369). -/
  held : Bool := false
  /-- The memory instructions and releases that the core holds while the warp goes on, oldest first (R199). While one of them is tried,
  the band commands before it and the translations that it has made stand in the two fields below. -/
  deferred : List Deferred := []
  bandsBefore : Option (List Nat) := none
  pins : List (Nat × Trans) := []
  /-- What later accesses wait for. -/
  fence : FenceHold := {}
  /-- It has performed a FENCE.rel or FENCE.acqrel: its later stores are releases (R194). -/
  relFence : Bool := false
  /-- Acquires on the paths V and X whose accesses are outstanding: 0 none, 1 below `.die`, 2 up to `.package`, 3 `.clearing`
  (R194, R370). -/
  acqV : Nat := 0
  acqX : Nat := 0
  /-- Lanes of the store at PC that still wait, with the virtual lines on which they have performed (R303). -/
  stored : List (Nat × Nat) := []
  /-- Lanes of the PROMOTE at PC that await their confirmation, by tag (R200). -/
  promotes : List (Nat × Nat) := []
  /-- Stack entries that have come from a spill area on another package, by depth (R145). -/
  entries : Tab (List Byte) := []
  /-- Pages that R168 has counted for the instruction at PC. -/
  counted : List Nat := []
  /-- The service of the SYSC that it waits in (R342). -/
  service : BitVec 16 := 0
  /-- The time of the SNAP or TXB that waits for a table entry (R298, R301). -/
  snapWait : Option DWord := none
  /-- FT from which the present wait counts, the FT it has counted before that, and the LIMIT that it started under: a wait
  counts only time in which the context runs (R179, R308). -/
  since : DWord := 0
  waited : Nat := 0
  limit : BitVec 16 := 0
  /-- Times a pool stall has been waited out, 0 to 2 (R308). -/
  stalls : Nat := 0
  /-- Opportunities on which it was passed over while Ready (R136). -/
  passed : Nat := 0
  /-- Key of its team, and its number within the team (R131). -/
  team : Nat := 0
  index : Nat := 0
  ctx : CtxId := 0
deriving DecidableEq, Repr

/-- A barrier object (R202). -/
structure Barrier where
  valid : Bool := false
  drop : BitVec 16 := 0
  pend : BitVec 16 := 0
  expect : BitVec 16 := 0
  phase : BitVec 16 := 0
  wmode : BitVec 2 := 0
  txb : BitVec 36 := 0
deriving DecidableEq, Repr

/-- A placed team (R131, R334). -/
structure Team where
  used : Bool := false
  slots : BitVec 16 := 0
  index : Nat := 0
  base : Nat := 0
  size : Nat := 0
  roc : Nat := 0
  feTimeout : BitVec 16 := 0
  lrec : DWord := 0
  cohIx : DWord := 0
  cohort : Nat := 0
  launch : Nat := 0
  ctx : CtxId := 0
  tenant : Nat := 0
  warps : Nat := 0
  bars : Tab Barrier := []
  /-- Lines held by the read-only cache, by physical line (R172). -/
  rocLines : Tab (List Byte) := []
deriving DecidableEq, Repr

/-- A placed cohort: its teams' keys in team order, and its grove barrier objects (R131, R201). -/
structure Cohort where
  used : Bool := false
  ctx : CtxId := 0
  launch : Nat := 0
  index : DWord := 0
  grove : Nat := 0
  teams : List Nat := []
  objects : Nat := 0
  bars : Tab Barrier := []
deriving DecidableEq, Repr

/-- STATE of a region (R276). -/
inductive RegState where
  | free | opened | closing
deriving DecidableEq, Repr

/-- A counter slot (R277). -/
structure Slot where
  st : BitVec 2 := 0
  pendc : Nat := 0
  fcode : Cause := 0
  stage : BitVec 16 := 0
  iter : Word := 0
deriving DecidableEq, Repr

/-- A staged region (R276). -/
structure Region where
  state : RegState := .free
  memb : Nat := 0
  left : Nat := 0
  /-- The warps that LEFT counts. -/
  gone : List Nat := []
  /-- Key of the group's team, or of team 0 of a cohort. -/
  anchor : Nat := 0
  pro : Nat := 0
  count : Word := 0
  next : Word := 0
  low : Word := 0
  lim : BitVec 16 := 0
  w : Nat := 0
  tag : BitVec 3 := 0
  cs : Bool := false
  coh : Bool := false
  slots : Tab Slot := []
  /-- Held copies: iteration, entry, stage (R287). -/
  held : List (Nat × Nat × Nat) := []
  /-- Layout records built at the open, by entry (R280). -/
  recs : Tab (BitVec 256) := []
deriving DecidableEq, Repr

/-- State of a band or of a reservation record (R214, R219). -/
inductive HoldState where
  | free | held | releasing
deriving DecidableEq, Repr

/-- A reservation record (R218). -/
structure Resv where
  state : HoldState := .free
  fmt : Word := 0
  kind : BitVec 3 := 0
  blk : BitVec 3 := 0
  soff : Nat := 0
  size : Nat := 0
  base : Nat := 0
  owner : Nat := 0
  /-- The context of that team, which may have retired before the record is Free (R235). -/
  ctx : CtxId := 0
deriving DecidableEq, Repr

/-- Band control (R214, R236). -/
structure Band where
  state : HoldState := .free
  owner : Nat := 0
  /-- The context of that team, which may have retired before the band is Free (R235). -/
  ctx : CtxId := 0
deriving DecidableEq, Repr

/-- A copy as it was issued (R264, R265). -/
structure CopyReq where
  hreg : Nat
  dir : CopyDir
  gbase : DWord
  lbase : Nat
  recNo : Nat
  bar : Option (BitVec 5)
  snap : DWord
  /-- A scheduled copy: region, iteration, and the record it captured (R286). -/
  sched : Option (Nat × Nat)
  layout : Option (BitVec 256)
deriving DecidableEq, Repr

/-- An engine command body (R243, R265). -/
inductive CmdBody where
  | mma (half z n64 : Bool) (kc : BitVec 7) (oa ob : DWord) (sa sb : MatSpec)
  | accz (part : AccPart)
  | accrd (d col n : Nat)
  | accwr (col n : Nat) (vals : Tab Word)
  | colrd (col : Nat)
  | copy (c : CopyReq)
deriving DecidableEq, Repr

/-- Where a copy's status goes (R264, R265, R286). -/
inductive CmdDest where
  | none | sreg (n : Nat) | port
deriving DecidableEq, Repr

/-- A command in a queue: the command word's fields with slot and lanes (R240). -/
structure Cmd where
  id : Nat
  slot : Nat
  /-- The key of its warp's team (R131). -/
  team : Nat
  lanes : Mask
  guard : Option (BitVec 4)
  /-- Its guard slot went with its warp, unresolved or false: it is discarded at the head (R247). -/
  dead : Bool := false
  /-- Its warp has retired, so that a later warp of the slot does not own it (R134). -/
  gone : Bool := false
  /-- A copy that a cancel or a QDRAIN has discarded, its bytes taken from its barrier: it leaves once its status port has room
  (R265, R270). -/
  out : Bool := false
  /-- That subtraction saturated TXB (R205). -/
  ovf : Bool := false
  hold : Bool
  succ : Option Nat
  /-- SQ of its word (R240). -/
  sq : BitVec 4 := 0
  /-- Earlier commands and accesses of its warp behind which a FENCE or a held OBLD puts it, by number: it waits for them at its
  head (R199, R232). -/
  after : List Nat := []
  afterAcq : Bool := false
  tag : BitVec 16
  dest : CmdDest
  body : CmdBody
deriving DecidableEq, Repr

/-- A copy part read from other packages whose responses are outstanding: its elements, and the SRAM bytes of the core that
the response bytes fill, in order (R273). -/
structure RemotePart where
  tag : Nat
  elems : Nat
  dests : List Nat
  /-- An element lies on a strongly ordered page (R194). -/
  strong : Bool := false
deriving DecidableEq, Repr

/-- Progress of an executing copy (R272). -/
structure CopyProg where
  layout : BitVec 256 := 0
  /-- Elements of completed parts, in ascending L. -/
  done : Nat := 0
  /-- Destination bytes written. -/
  bytes : Nat := 0
  ovf : Bool := false
  canc : Bool := false
  /-- The bytes that it does not write have left its barrier (R205). -/
  left : Bool := false
  code : Cause := 0
  /-- The fault record it is stalled on (R268). -/
  stalled : Option Nat := none
  /-- A remote part whose responses are outstanding (R273). -/
  remote : Option RemotePart := none
  /-- Pages that have been counted for it (R168). -/
  pages : List Nat := []
deriving DecidableEq, Repr

/-- A command port (R238, R248). -/
structure Port where
  queue : List Cmd := []
  exec : Option Cmd := none
  /-- The executing band command has had its effect. -/
  acted : Bool := false
  prog : CopyProg := {}
  rels : BitVec 8 := 0
  relovf : Bool := false
deriving DecidableEq, Repr

/-- One core (R10, R18). -/
structure Core where
  scratch : Tab Byte := []
  /-- Full words by word number; an unlisted word is empty (R177). -/
  full : Tab Bool := []
  ob : Tab Byte := []
  /-- Accumulators by band*2048 + row*64 + column (R213). -/
  acc : Tab Word := []
  resv : Tab Resv := []
  bands : Tab Band := []
  ports : Tab Port := []
  /-- Band result ports, oldest entry first (R238). -/
  results : Tab (List (List Word)) := []
  split : DWord := 0
  active : Bool := false
  /-- The copy port whose copy the engine has moved last in split mode (R266). -/
  copyTurn : Nat := 5
  /-- PERF_CTL and PERF_CNT0 to 7 by tenant*16 + number (R397). -/
  perf : Tab DWord := []
  /-- Arithmetic clock in MHz (R14). -/
  clock : Nat := 1200
  /-- The instruction cache by physical line: the launch that fetched it, and its bytes (R10, R140). -/
  icache : Tab (Nat × List Byte) := []
  /-- The slot that issued last, by quadrant (R136). -/
  issued : Tab Nat := []
  lastSlot : Nat := 0
deriving DecidableEq, Repr

/-- A snapshot table entry (R296). -/
structure Snap where
  used : Bool := false
  ft : DWord := 0
  ctx : CtxId := 0
  count : BitVec 16 := 0
  expired : Bool := false
deriving DecidableEq, Repr

/-- A task entry (R252). -/
structure Task where
  w0 : DWord
  w1 : DWord
  w2 : DWord
  w3 : DWord
deriving DecidableEq, Repr

/-- A task queue with its descriptor (R251). -/
structure TaskQueue where
  desc : BitVec 128 := 0
  entries : List Task := []
  outstanding : Nat := 0
deriving DecidableEq, Repr

/-- One compute die. -/
structure Die where
  snaps : Tab Snap := []
  vpool : DWord := 0
  /-- Warps waiting for a pool entry, oldest first (R308). -/
  poolWait : List Nat := []
  migrThr : BitVec 16 := 0
  /-- Remote access counters by index: context, page, count (R168). -/
  migr : List (Option (CtxId × Nat × Nat)) := []
  /-- Canopy copies of AMODE 10 lines, byte by byte, by peer*2^40 + address: context, byte, and the number of the access that brought
  it, one number for bytes that were read or written together (R174, R370). -/
  copies : Tab (Option (CtxId × Byte × Nat)) := []
  /-- The next such number. -/
  fills : Nat := 0
  /-- Lines of copies that another die of this package has stored to since they were made, as address numbers divided by 128. -/
  older : List Nat := []
  /-- Times a store or a drop has made bytes on their way here unfit for a copy (R370). -/
  epoch : Nat := 0
  tasks : Tab TaskQueue := []
  usherAt : DWord := 0
  foragerAt : DWord := 0
deriving DecidableEq, Repr

/-- A commit stamp (R291). -/
structure Stamp where
  ft : DWord
  peer : Peer
deriving DecidableEq, Repr

/-- The version chain of a line; the newest committed version stands in memory (R291). -/
structure Chain where
  stamp : Stamp := ⟨0, 0⟩
  olds : List (Stamp × List Byte) := []
  /-- The owner, ctx*4096 + warp, and the bytes. -/
  tentative : Option (Nat × List Byte) := none
  /-- A commit still being installed: the stamp it installs (R294). -/
  installing : Bool := false
deriving DecidableEq, Repr

/-- Progress of a launch on the package (R313, R317). -/
inductive LState where
  | queued | running | ended
deriving DecidableEq, Repr

/-- A launch (R311 to R319). -/
structure Launch where
  id : Nat
  ctx : CtxId
  recva : DWord
  prank : Nat
  pcnt : Nat
  ft0 : DWord
  ft1 : DWord
  ft2 : DWord
  state : LState
  /-- The record's bytes as read at acceptance (R311). -/
  bytes : Tab Byte
  /-- FTL in force: the record's, or the FT of acceptance (R311). -/
  ftl : DWord
  nextCohort : Nat
  result : DWord
  /-- The cohort placed last, plus 1, and its die (R315). -/
  placedIx : Nat
  placedDie : Nat
  /-- PART2 to PART5 in ns (R319). -/
  part2 : Nat
  part3 : Nat
  part4 : Nat
  part5 : Nat
  /-- Bytes of its record that have come from other packages, and the requests still out: peer*2^40 + address (R311). -/
  got : List (Nat × Byte) := []
  asked : List (Nat × List Nat) := []
deriving DecidableEq, Repr

/-- STATE of a context (R327). -/
inductive CState where
  | free | idle | restoring | running | stopped | saving | saved | discarding
deriving DecidableEq, Repr

/-- An address group as a restore of its context read it: group tag and members in rank order (R357). -/
structure Group where
  valid : Bool := false
  gid : BitVec 16 := 0
  peers : List Peer := []
deriving DecidableEq, Repr

/-- What the package holds of a context (R326, R380, R392). -/
structure Ctx where
  state : CState := .free
  gen : BitVec 16 := 0
  save : DWord := 0
  troot : DWord := 0
  range : DWord := 0
  resident : Bool := false
  trapBase : DWord := 0
  toolBase : DWord := 0
  dbgRight : BitVec 2 := 0
  /-- The address groups whose CTX it is, by number (R357). -/
  groups : Tab Group := []
  /-- Presence changes by group since the restore (R358). -/
  changes : Tab (BitVec 12) := []
deriving DecidableEq, Repr

/-- A fault record (R166), numbered by the package. -/
structure FaultRec where
  id : Nat
  va : DWord
  cause : Cause
  kind : Nat
  acc : Nat
  ctx : CtxId
  gen : BitVec 16
  core : Nat
  slot : Nat
  lanes : Mask
  ft : DWord
deriving DecidableEq, Repr

/-- A system-call record (R343). -/
structure SyscRec where
  service : BitVec 16
  ctx : CtxId
  gen : BitVec 16
  core : Nat
  slot : Nat
  ft : DWord
  args : List DWord
deriving DecidableEq, Repr

/-- A trace record (R396). -/
structure TraceRec where
  ft : DWord
  kind : Nat
  cause : Cause
  ctx : CtxId
  gen : BitVec 16
  lrec : DWord
  wid : DWord
  pc : DWord
  core : Nat
  slot : Nat
  inSysc : Bool
  trapMode : Bool
  service : BitVec 16
  em : Mask
  flm : Mask
deriving DecidableEq, Repr

/-- A packet that this package sends (R347, R355). -/
inductive PacketBody where
  | load (addrs : List Nat)
  | store (bytes : List (Nat × Byte))
  | atomic (addr : Nat) (aop : AOp) (wide : Bool) (a b : DWord)
  | ldred (gid : BitVec 16) (word : DWord) (size : Size) (lanes : Mask) (eas : List DWord)
  | stmc (gid : BitVec 16) (group : BitVec 8) (lanes : Mask) (eas : List DWord) (data : List (List Byte))
  | data (bytes : List Byte)
  | contribution (c : Contribution)
  | ack
  | refusal
  | watermark (pw : DWord)
  | result (recva : DWord) (rank : Nat) (value : DWord)
  | billAck (ft : DWord)
deriving DecidableEq, Repr

/-- Routing of a packet that this package sends (R348, R355). -/
structure Packet where
  dst : Peer
  ctx : CtxId
  gen : BitVec 16
  stream : Option Nat
  ordered : Bool
  tag : Nat
  body : PacketBody
  /-- The core and the tenant that send it, where a warp or a copy does (R397). -/
  src : Option (Nat × Nat) := none
deriving DecidableEq, Repr

/-- A remote access not yet acknowledged (R368): who made it, on which path, and the target line. -/
structure RemoteOp where
  tag : Nat
  /-- The warp, or for a copy the warp that issued it, and its context. -/
  warp : Nat
  ctx : CtxId
  /-- Path letter: 0 V, 1 M, 2 C, 3 X (R372). -/
  path : Nat
  peer : Peer
  line : Nat
  /-- A copy write: the number of its part (R414). -/
  copy : Option Nat
  /-- And the number of its copy (R249). -/
  cmd : Nat := 0
  /-- The generation of its packet (R337). -/
  gen : BitVec 16 := 0
  /-- A copy write: the launch of its copy (R318). -/
  launch : Nat := 0
deriving DecidableEq, Repr

/-- A flit as it is sent and as a replay buffer keeps it: the fields of its header, the packet that it belongs to, by its number
in `out`, and for a tag flit what the nonce of its run holds beside the port and KEYEP: the SEQ of the run's first flit and the
count of SEQ wraps (R348, R349, R353). -/
structure Flit where
  type : BitVec 4
  seq : BitVec 24
  keyep : Bool
  vc : BitVec 2 := 0
  first : Bool := false
  last : Bool := false
  pkt : Option Nat := none
  nonce : Option (BitVec 24 × Nat) := none
deriving DecidableEq, Repr

/-- One optical port (R350, R352). -/
structure Link where
  /-- LINK_STAT.STATE: 0 Dark, 1 Calibrating, 2 Training, 3 Keyed, 4 Up, 5 Degraded, 6 Replaying, 7 Down. -/
  state : Nat := 0
  enable : Bool := false
  spares : Nat := 0
  keygen : BitVec 8 := 0
  /-- The transmitter retains its previous key (R354). -/
  keyold : Bool := false
  replays : BitVec 16 := 0
  crcErr : BitVec 11 := 0
  gendrop : BitVec 16 := 0
  peer : Peer := 0
  /-- Replay buffer, oldest first (R349). -/
  buffer : List Flit := []
  /-- SEQ of the next flit sent, and of the next flit expected. -/
  nextSeq : BitVec 24 := 0
  expSeq : BitVec 24 := 0
  /-- SEQ wraps of the flits sent, and runs sent under the present key (R353, R354). -/
  wraps : Nat := 0
  runs : Nat := 0
  /-- KEYEP of the flits sent, and of the flits expected. -/
  keyep : Bool := false
  rxKeyep : Bool := false
  /-- The boundary that the neighbour has announced, while flits below it are still to come (R354). -/
  rxBoundary : Option (BitVec 24) := none
  /-- Replays in a row that did not advance the acknowledged SEQ. -/
  fruitless : Nat := 0
  /-- SEQ of the last replayed flit still to be acknowledged; a flit naked by the receiver is still to come (R349, R350). -/
  replay : Option (BitVec 24) := none
  gap : Bool := false
  /-- Every flit sent, oldest first. -/
  sent : List Flit := []
deriving DecidableEq, Repr

/-- A copy part on its way that outlives the copy or its context's run: responses that fill SRAM bytes (`ob`: of the operand
buffer), or, with no bytes to fill, acknowledgements of its writes; `n` bytes then leave the barrier's count (R273, R338,
R414). -/
structure LateCopy where
  tag : Nat
  ctx : CtxId
  gen : BitVec 16
  core : Nat
  slot : Nat
  bar : Option (BitVec 5)
  ob : Bool
  dests : List Nat
  n : Nat
  /-- The number of its copy, and the key of its team. -/
  cmd : Nat := 0
  team : Nat := 0
deriving DecidableEq, Repr

/-- What a saved warp keeps beside its image: FT counted by a wait at a full/empty word and its LIMIT (R179), whether its
parked instruction carries SW and the port that it filled (R139, R244), stg (R62), its batch records and open copies (R333), stack entries that have no
spill area (R145), what it owes to a fetch breakpoint (R389) and a FENCE (R194, R199), the lines on which a waiting store has
performed (R303), and the pages counted for its instruction (R168). -/
structure KeptWarp where
  ctx : CtxId
  key : Nat
  waited : Nat
  limit : BitVec 16
  marked : Bool
  stg : Word
  batches : List (Word × List Nat)
  openCopies : List Nat
  stack : List StackEntry
  waitPort : Option Nat
  skipBreak : Bool
  fence : FenceHold
  relFence : Bool
  stored : List (Nat × Nat)
  counted : List Nat
  /-- In trap mode, a hit of the handler's own instruction beside the held one (R391). -/
  ownWatch : Option (Mask × DWord)
  /-- The service of the SYSC that it waits in (R343), the band command that it awaits (R229), and its place (R131). -/
  service : BitVec 16
  waitBand : Option Nat
  index : Nat
  /-- The time of the SNAP or TXB that waits (R298). -/
  snapWait : Option DWord
  /-- The memory instructions that the core holds behind its saved band commands, and their results (R199). -/
  deferred : List Deferred
  heldRes : List Pending
deriving DecidableEq, Repr

/-- A port of a saved context as its image stands for it (R334). -/
structure KeptPort where
  ctx : CtxId
  core : Nat
  port : Nat
  what : Port
deriving DecidableEq, Repr

/-- The bands and records of a saved core that are Releasing while commands of theirs stand in its queue images, which show them Free
(R214, R219, R236, R255). -/
structure KeptHold where
  ctx : CtxId
  core : Nat
  bands : Tab Band
  recs : Tab Resv
deriving DecidableEq, Repr

/-- A result of the fabric that a saved warp still waits for, with the generation of its requests (R186, R337, R366). -/
structure LateRes where
  ctx : CtxId
  gen : BitVec 16
  warp : Nat
  pend : Pending
deriving DecidableEq, Repr

/-- A lease of an ingress atomic cache (R356). -/
structure Lease where
  line : Nat
  port : Nat
  till : DWord
deriving DecidableEq, Repr

/-- A numbered store as it arrives (R355). -/
inductive Arrived where
  | store (r : RemoteAccess)
  | atomic (r : RemoteAtomic)
  | mcast (d : StMcDelivery)
deriving DecidableEq, Repr

/-- A store waiting at ingress for lower-numbered ones (R355). -/
structure Waiting where
  stream : Nat
  what : Arrived
deriving DecidableEq, Repr

/-- Ingress state of a stream: the lowest store number not applied, those applied above it, those waiting (R347). -/
structure Stream where
  next : Nat := 0
  applied : List Nat := []
  waiting : List Waiting := []
deriving DecidableEq, Repr

/-- A switch in progress for a tenant (R328). -/
structure Switch where
  tenant : Nat
  src : Option CtxId
  dst : Option CtxId
  /-- 0 not begun, 1 halted and saving, 2 restoring. -/
  phase : Nat
  /-- The cause of the save; none where the reference names none for it (R345, R393). -/
  reason : Option Cause
  /-- FT at which the halt began (R331). -/
  since : DWord
  /-- The old context leaves Stopped (R327). -/
  stopped : Bool
  /-- The new context was Idle: it restores empty cores (R327). -/
  fresh : Bool
deriving DecidableEq, Repr

/-- A command that waits for the switch in progress to end (R339, R393). -/
inductive HeldCmd where
  | preempt (c : CtxId)
  | endPreempt
  | dbgSave (c : CtxId)
  | dbgRestore (c : CtxId)
deriving DecidableEq, Repr

/-- A bill entry waiting in the ring (R324). -/
structure Entry where
  ft : DWord
  ctx : CtxId
  kind : BitVec 2
  gen : BitVec 16
  len : Word
deriving DecidableEq, Repr

/-- A cached translation (R165). -/
structure TlbEntry where
  /-- The die that caches it; 4 for a fabric die or the sequencer. -/
  die : Nat
  ctx : CtxId
  vpage : Nat
  trans : Trans
deriving DecidableEq, Repr

/-- Everything one package holds. -/
structure State where
  mem : Tab Byte := []
  ft : DWord := 0
  epochs : BitVec 16 := 0
  syncErr : Bool := false
  /-- Rate correction in parts per million (R320). -/
  ppm : Int := 0
  /-- The offset of FT from the grandmaster's as last measured, in 1/64 ns (R321). -/
  offset : Int := 0
  peer : Peer := 0
  clearing : List Peer := []
  prio : BitVec 16 := 0
  ringmaster : Option Peer := none
  warps : Tab Warp := []
  teams : Tab Team := []
  cohorts : Tab Cohort := []
  regions : Tab Region := []
  cores : Tab Core := []
  dies : Tab Die := []
  ctxs : Tab Ctx := []
  chains : Tab Chain := []
  launches : List Launch := []
  submitDropped : Bool := false
  /-- RESULT frames of other packages not yet used (R317). -/
  frames : List ResultFrame := []
  faultQ : List FaultRec := []
  faultHeld : List FaultRec := []
  /-- Records of KIND 0 that the host has not answered (R166). -/
  faultOpen : List FaultRec := []
  syscQ : List SyscRec := []
  traceQ : List TraceRec := []
  traceHeld : List TraceRec := []
  traceDropped : Nat := 0
  bill : List Entry := []
  late : BitVec 16 := 0
  /-- The latest bill entry whose FT has passed (R339). -/
  lastEntry : Option Entry := none
  run : Option CtxId := none
  slotEnd : Option DWord := none
  preempt : Option CtxId := none
  /-- FT at which the command that began the pre-emption ended: an entry due by then is still performed (R339). -/
  preemptFrom : DWord := 0
  switch : Option Switch := none
  /-- Commands accepted and not begun, in order of their writes: at most one of CTX_CMD and one of DBG_CMD (R339, R393). -/
  heldCmds : List HeldCmd := []
  /-- Contexts whose debug right is revoked once the command in progress has ended (R395). -/
  revokes : List CtxId := []
  /-- Software-written window registers without a field of their own, by offset (R3). -/
  win : Tab DWord := []
  watches : Tab (BitVec 128) := []
  /-- Versioned pages that translations have led to, as context, virtual page and target page, until a shootdown of the virtual page finds
  that it no longer leads there (R167, R291). -/
  mapped : List (CtxId × Nat × Nat) := []
  sdBusy : Bool := false
  sdCtx : CtxId := 0
  links : Tab Link := []
  /-- Peers that some chain of links beyond the neighbours reaches at present (R357). -/
  far : List Peer := []
  leases : List Lease := []
  streams : Tab Stream := []
  outSeq : Tab Nat := []
  out : List Packet := []
  /-- Packets of `out` taken up by the fabric dies, and those of them waiting for a link, by number (R347, R351). -/
  taken : Nat := 0
  unsent : List Nat := []
  remotes : List RemoteOp := []
  /-- Accesses given up by a save or a discard whose answers are still on their way: tag, context, generation (R329, R337). -/
  cutOff : List (Nat × CtxId × BitVec 16) := []
  reduce : List LatePacket := []
  /-- Results of atomics and reductions still outstanding for warps of saved contexts (R186, R366). -/
  lateRes : List LateRes := []
  /-- Regions as they were saved, by context and region number (R335). -/
  keptRegions : List (CtxId × Nat × Region) := []
  /-- Copy parts still in the fabric (R273, R338, R414). -/
  lateCopies : List LateCopy := []
  /-- Barrier transitions that a watch saw in a saved image: context, core, slot (R210). -/
  barHits : List (CtxId × Nat × Nat) := []
  /-- What saved warps keep beside their images. -/
  keptWarps : List KeptWarp := []
  /-- Ports of saved contexts as their images stand for them (R334). -/
  keptPorts : List KeptPort := []
  keptHolds : List KeptHold := []
  tlb : List TlbEntry := []
  repairCore : BitVec 8 := 0
  repairBusy : Bool := false
  repairFail : Bool := false
  /-- The retired-core map of the configuration record, as service has rewritten it: logical core numbers (R399, R402). -/
  retired : List (BitVec 8) := []
  step : BitVec 3 := 1
  ready : Bool := false
  fail : Bool := false
  fcode : BitVec 8 := 0
  spareCores : BitVec 16 := 0
  stallLimit : BitVec 16 := 100
  snapMaxAge : Word := 0
  lastStamp : DWord := 0
  rf : DWord := 0
  pws : Tab (Option DWord) := []
  pwSentAt : DWord := 0
  /-- Words of memory whose burst keeps a poisoned ECC, and the accesses of contexts to them in the last step (R400). -/
  poison : List Nat := []
  poisonHits : List (CtxId × Nat) := []
  hot : Bool := false
  /-- Numbers given to records, commands, results, tags, cohorts and launches. -/
  nextId : Nat := 0
  /-- The event steps that the outside delivers next. -/
  agenda : List Instr := []
  /-- The warp whose instruction is being executed. -/
  cur : Nat := 0
  /-- Parked warps to be looked at again before the next issue. -/
  recheck : List Nat := []
  /-- Free values taken so far. -/
  ticks : Nat := 0
  /-- The quadrant (core*4 + quadrant) that has the next opportunity. -/
  turn : Nat := 0
deriving DecidableEq, Repr

/-- The reasons for which the machine itself stops. -/
inductive Fault where
  /-- Raised by HOST_MEMORY_WRITE for a byte outside the 768 GiB of R9. Safe: the reference gives no such byte. -/
  | noSuchAddress (addr : Nat)
deriving DecidableEq, Repr

/-- The reasons for which a step has no meaning. -/
inductive Refusal where
  /-- Answered by the arms of exec whose instruction has no meaning yet. Safe: nothing is claimed. -/
  | notModelled (mnemonic : String)
deriving DecidableEq, Repr

/-- The package right after power is applied: DEV_STATUS.STEP 1, SD_CTL.DONE 1, ATOM_LEASE 125,
VPOOL_STALL_LIMIT 100, REPAIR_CTL.DONE 1, and every other register 0 (R399 and the register maps; log entries 12 to 14). -/
def State.reset : State := { win := [(0x9400, 125)] }

end Sys2Proof.Machine
end

