-- ==== Sys2Proof/Machine/Ops.lean ====
section
/-! DEFINITION. Named operations over the state: the parts of the package by number, registers, records, taking an exception
(21_trap.md R378 to R382), stopping a context (18_context.md R344) and retiring an instruction (07_group.md R139). -/

namespace Sys2Proof.Machine

/-! ### The parts of the package -/

/-- The warp in slot `k % 16` of core `k / 16`. -/
def State.warp (s : State) (k : Nat) : Warp := Tab.get {} s.warps k
/-- See `State.warp`. -/
def State.setWarp (s : State) (k : Nat) (w : Warp) : State := { s with warps := Tab.set {} s.warps k w }
/-- The warp whose instruction is being executed. -/
def State.w (s : State) : Warp := s.warp s.cur
/-- That warp changed. -/
def State.upd (s : State) (f : Warp → Warp) : State := s.setWarp s.cur (f s.w)
/-- The team whose key is `k`. -/
def State.team (s : State) (k : Nat) : Team := Tab.get {} s.teams k
/-- See `State.team`. -/
def State.setTeam (s : State) (k : Nat) (t : Team) : State := { s with teams := Tab.set {} s.teams k t }
/-- The cohort numbered `k`. -/
def State.cohort (s : State) (k : Nat) : Cohort := Tab.get {} s.cohorts k
/-- See `State.cohort`. -/
def State.setCohort (s : State) (k : Nat) (c : Cohort) : State := { s with cohorts := Tab.set {} s.cohorts k c }
/-- Region `k % 64` of grove `k / 64`. -/
def State.region (s : State) (k : Nat) : Region := Tab.get {} s.regions k
/-- See `State.region`. -/
def State.setRegion (s : State) (k : Nat) (r : Region) : State := { s with regions := Tab.set {} s.regions k r }
/-- Package core `k` (R7). -/
def State.core (s : State) (k : Nat) : Core := Tab.get {} s.cores k
/-- See `State.core`. -/
def State.setCore (s : State) (k : Nat) (c : Core) : State := { s with cores := Tab.set {} s.cores k c }
/-- Compute die `k`. -/
def State.die (s : State) (k : Nat) : Die := Tab.get {} s.dies k
/-- See `State.die`. -/
def State.setDie (s : State) (k : Nat) (d : Die) : State := { s with dies := Tab.set {} s.dies k d }
/-- Context `c`. -/
def State.ctx (s : State) (c : CtxId) : Ctx := Tab.get {} s.ctxs c.toNat
/-- See `State.ctx`. -/
def State.setCtx (s : State) (c : CtxId) (x : Ctx) : State := { s with ctxs := Tab.set {} s.ctxs c.toNat x }

/-- The package core of a warp or team key. -/
def coreOf (k : Nat) : Nat := k / 16
/-- The slot of a warp key. -/
def slotOf (k : Nat) : Nat := k % 16
/-- The grove, counted over the package, of a core. -/
def groveOf (core : Nat) : Nat := core / 16
/-- The die of a core (R7). -/
def dieOf (core : Nat) : Nat := core / 64

/-- The team of the executing warp. -/
def State.myTeam (s : State) : Team := s.team s.w.team
/-- The executing warp's core. -/
def State.myCore (s : State) : Core := s.core (coreOf s.cur)
/-- The context and die of the executing warp. -/
def State.myCtx (s : State) : CtxId := s.w.ctx
/-- See `State.myCtx`. -/
def State.myDie (s : State) : Nat := dieOf (coreOf s.cur)
/-- The executing warp's team changed. -/
def State.updTeam (s : State) (f : Team → Team) : State := s.setTeam s.w.team (f s.myTeam)
/-- The executing warp's core changed. -/
def State.updCore (s : State) (f : Core → Core) : State := s.setCore (coreOf s.cur) (f s.myCore)
/-- Tenant of the executing warp (R18). -/
def State.tenant (s : State) : Nat := s.myTeam.tenant
/-- FT with the sequence field 0, as every record writes it (R320). -/
def State.now (s : State) : DWord := s.ft &&& ~~~(0x3F : DWord)

/-! ### Physical memory (R9) -/

/-- Bytes of the package's physical memory. -/
def memTop : Nat := 0xC000000000
/-- The canonical form of memory: addresses strictly rising, no entry equal to what an unlisted address reads as. -/
def Memory.wf (m : Tab Byte) : Bool := Tab.wf 0 m
/-- One byte of memory; an unlisted address reads as 0 (R399; log entry 13). -/
def State.byte (s : State) (a : Nat) : Byte := Tab.get 0 s.mem a
/-- One byte of memory written. -/
def State.setByte (s : State) (a : Nat) (b : Byte) : State := { s with mem := Tab.set 0 s.mem a b }
/-- Successive bytes read. -/
def State.bytes (s : State) (a n : Nat) : List Byte := Tab.getRun 0 s.mem a n
/-- Successive bytes written. -/
def State.setBytes (s : State) (a : Nat) (bs : List Byte) : State := { s with mem := Tab.setRun 0 s.mem a bs }
/-- A little-endian number read (R1). -/
def State.num (s : State) (a n : Nat) : Nat := natLE (s.bytes a n)
/-- A 64-bit value read. -/
def State.dword (s : State) (a : Nat) : DWord := BitVec.ofNat 64 (s.num a 8)
/-- A 64-bit value written. -/
def State.setDword (s : State) (a : Nat) (v : DWord) : State := s.setBytes a (bytesLE 8 v.toNat)

/-! ### Window registers without a field of their own -/

/-- 8 bytes of the package control window. -/
def State.reg (s : State) (off : Nat) : DWord := Tab.get 0 s.win off
/-- See `State.reg`. -/
def State.setReg (s : State) (off : Nat) (v : DWord) : State := { s with win := Tab.set 0 s.win off v }

/-! ### Registers of a warp (R61) -/

/-- Vector register `r` in lane `i`. -/
def Warp.v (w : Warp) (r i : Nat) : Word := Tab.get 0 w.vregs (r * 32 + i)
/-- The pair `r`, `r` + 1 in lane `i`. -/
def Warp.v64 (w : Warp) (r i : Nat) : DWord := pairOf (w.v r i) (w.v (r + 1) i)
/-- Scalar register. -/
def Warp.s (w : Warp) (r : Nat) : DWord := Tab.get 0 w.sregs r
/-- Predicate register; p7 reads true (R61). -/
def Warp.p (w : Warp) (r : Nat) : Mask := if r = 7 then fullMask else Tab.get 0 w.preds r
/-- Lane `i` of vector register `r` written. -/
def Warp.setV (w : Warp) (r i : Nat) (x : Word) : Warp := { w with vregs := Tab.set 0 w.vregs (r * 32 + i) x }
/-- Scalar register written. -/
def Warp.setS (w : Warp) (r : Nat) (x : DWord) : Warp := { w with sregs := Tab.set 0 w.sregs r x }
/-- Predicate register written. -/
def Warp.setP (w : Warp) (r : Nat) (x : Mask) : Warp := { w with preds := Tab.set 0 w.preds r x }

/-- Writes `f i` at `r * 32 + i` for the lanes `i` below `n` of `m`. -/
def putLanes (m : Mask) (r : Nat) (f : Nat → Word) : Nat → Tab Word → Tab Word
  | 0, t => t
  | n + 1, t =>
    let t := putLanes m r f n t
    if m.getLsbD n then Tab.set 0 t (r * 32 + n) (f n) else t

/-- Vector register `r` written in the lanes of `m`. -/
def Warp.setLanes (w : Warp) (m : Mask) (r : Nat) (f : Nat → Word) : Warp :=
  { w with vregs := putLanes m r f 32 w.vregs }
/-- The pair `r`, `r` + 1 written in the lanes of `m`. -/
def Warp.setLanes64 (w : Warp) (m : Mask) (r : Nat) (f : Nat → DWord) : Warp :=
  (w.setLanes m r (fun i => loWord (f i))).setLanes m (r + 1) (fun i => hiWord (f i))
/-- Predicate `r` written in the lanes of `m` only. -/
def Warp.setPLanes (w : Warp) (m : Mask) (r : Nat) (x : Mask) : Warp := w.setP r ((w.p r &&& ~~~m) ||| (x &&& m))

/-- The lanes in which a guard holds (R25). -/
def Warp.guard (w : Warp) (g : Guard) : Mask :=
  if g.neg then ~~~(w.p g.p.toNat) else w.p g.p.toNat

/-- The lanes that participate and have not performed already (R98, R155). -/
def Warp.parts (w : Warp) (h : Hdr) : Mask := w.em &&& w.guard h.g &&& ~~~w.done

/-- Whether a per-warp result is delivered: some lane participates (R98). -/
def Warp.any (w : Warp) (h : Hdr) : Bool := w.parts h != 0

/-- The work identifier of lane `i` (R132). -/
def Warp.wid (w : Warp) (i : Nat) : DWord := w.widBase ||| BitVec.ofNat 64 i

/-! ### Retiring an instruction -/

/-- A marked instruction parks until every long result has returned (R139). -/
def Warp.mark (w : Warp) (sw : Bool) : Warp :=
  if sw && !w.pending.isEmpty then { w with stat := .parked, reason := 1 } else { w with stat := .ready, reason := 0 }

/-- A warp that waited at its instruction for bytes of another package is Ready to perform it. -/
def Warp.wake (w : Warp) : Warp := if w.stat = .parked ∧ w.reason = 1 then { w with stat := .ready, reason := 0 } else w
/-- The warp keeps nothing for an instruction any more. -/
def Warp.clear (w : Warp) : Warp :=
  { w with done := 0, waiting := 0, replay := false, ir := none, held := false, stored := [], promotes := [],
           entries := [], counted := [], snapWait := none }
/-- The instruction has performed in every participating lane and PC stands where the warp goes on. -/
def Warp.finish (w : Warp) (sw : Bool) : Warp := w.clear.mark sw

/-- The instruction at PC, `len` bytes long, has performed in every participating lane. -/
def Warp.retire (w : Warp) (len : Nat) (sw : Bool) : Warp :=
  { w with pc := w.pc + BitVec.ofNat 64 len }.finish sw

/-- The executing warp retires its instruction. -/
def State.retire (s : State) (len : Nat) (sw : Bool) : State := s.upd (fun w => w.retire len sw)

/-- FT that the present wait has counted (R179, R308). -/
def Warp.elapsed (w : Warp) (ft : DWord) : Nat := w.waited + (ft - w.since).toNat

/-- The warp waits for reason `r`; a wait that goes on keeps its count. -/
def Warp.wait (w : Warp) (r : Nat) (ft : DWord) (limit : BitVec 16) : Warp :=
  if w.reason = r then { w with stat := .parked }
  else { w with stat := .parked, reason := r, since := ft, waited := 0, limit := limit, stalls := 0 }

/-- The executing warp waits at its instruction for reason `r` (R418). -/
def State.park (s : State) (r : Nat) : State := s.upd (fun w => w.wait r s.ft (s.team w.team).feTimeout)

/-- The executing warp's memory instruction is held: issued, it waits in the core for earlier accesses and uses no issue
opportunity (R137, R199, R368, R369). -/
def State.hold (s : State) : State := s.upd (fun w => { w with held := true })

/-- The accesses of warp `k` on the paths V and X that are not yet acknowledged: its stores and atomics (R368). -/
def State.openOps (s : State) (k : Nat) : List RemoteOp :=
  s.remotes.filter (fun r => r.warp == k && r.ctx == (s.warp k).ctx && r.copy.isNone)
/-- Those on path `p`: 0 V, 3 X (R372). -/
def State.openOn (s : State) (k p : Nat) : List RemoteOp := (s.openOps k).filter (fun r => r.path == p)

/-- Unfinished band commands of the executing warp that its present instruction may wait for: all, but for an instruction that the
core holds those before it (R199, R233). -/
def Warp.bandsSeen (w : Warp) (ids : List Nat) : List Nat :=
  match w.bandsBefore with
  | none => ids
  | some bs => ids.filter (fun i => bs.contains i)

/-- A remote load of the warp is outstanding (R329). -/
def Warp.loadAway (w : Warp) : Bool :=
  w.pending.any (fun p => match p.kind with
    | .remote .. => true
    | .fill .. => true
    | .hrec .. => true
    | .entry .. => true
    | .value .. => false
    | .atomr .. => false
    | .copy .. => false
    | .accrd .. => false
    | .ldred .. => false
    | .stmc _ => false
    | .held => false)

/-- An LDRED of the warp is outstanding. -/
def Warp.ldredAway (w : Warp) : Bool :=
  w.pending.any (fun p => match p.kind with
    | .ldred .. => true
    | .atomr .. => false
    | .remote .. => false
    | .fill .. => false
    | .hrec .. => false
    | .entry .. => false
    | .value .. => false
    | .copy .. => false
    | .accrd .. => false
    | .stmc _ => false
    | .held => false)

/-- A remote atomic with a result, or an LDRED, of the warp is outstanding. -/
def Warp.fabricAway (w : Warp) : Bool :=
  w.pending.any (fun p => match p.kind with
    | .atomr .. => true
    | .ldred .. => true
    | .remote .. => false
    | .fill .. => false
    | .hrec .. => false
    | .entry .. => false
    | .value .. => false
    | .copy .. => false
    | .accrd .. => false
    | .stmc _ => false
    | .held => false)

/-- Some access of warp `k` has not performed at `.package` scope. -/
def State.accessOpen (s : State) (k : Nat) : Bool :=
  !(s.openOps k).isEmpty || (s.warp k).loadAway || (s.warp k).fabricAway

/-! ### Ports and the access paths M and C (R238, R372) -/

/-- Port of a core. -/
def Core.port (c : Core) (p : Nat) : Port := Tab.get {} c.ports p
/-- See `Core.port`. -/
def Core.setPort (c : Core) (p : Nat) (x : Port) : Core := { c with ports := Tab.set {} c.ports p x }
/-- Port of core `k`. -/
def State.port (s : State) (k p : Nat) : Port := (s.core k).port p
/-- See `State.port`. -/
def State.setPort (s : State) (k p : Nat) (x : Port) : State := s.setCore k ((s.core k).setPort p x)
/-- Every command of a port, the executing one first. -/
def Port.all (x : Port) : List Cmd := x.exec.toList ++ x.queue
/-- Whether a command of warp slot `k` stands on a port: a band command, or a copy that the warp issued or pushed. -/
def Cmd.mine (c : Cmd) (k : Nat) : Bool :=
  c.slot == k && !c.gone && (match c.body with
    | .copy q => q.sched.isNone
    | .mma .. => true
    | .accz _ => true
    | .accrd .. => true
    | .accwr .. => true
    | .colrd _ => true)
/-- Unfinished band commands of warp slot `k`, by number (R229). -/
def Core.bandIds (c : Core) (k : Nat) : List Nat :=
  (List.range 4).flatMap (fun p => (((c.port p).all.filter (fun x => x.slot == k && !x.gone)).map (·.id)))
/-- Unfinished copies of warp slot `k` that are no scheduled ones, by number. -/
def Core.copyIds (c : Core) (k : Nat) : List Nat :=
  [4, 5].flatMap (fun p => (((c.port p).all.filter (fun x => x.mine k)).map (·.id)))
/-- Whether a warp holds a claimed iteration (R282). -/
def Warp.claims (w : Warp) : Bool := w.stg.getLsbD 31
/-- Scheduled copies of the iteration that the executing warp claims which have not left (R372). -/
def State.claimedCopies (s : State) : Bool :=
  match s.w.member with
  | none => false
  | some k => s.w.claims && (Tab.get ({} : Slot) (s.region k).slots (field (zx64 s.w.stg) 16 6)).pendc != 0

/-- Whether an access of warp `k` on path V, 0, or X, 3, has not performed; one that the core holds counts for both. -/
def State.pathOpen (s : State) (k p : Nat) : Bool :=
  !(s.openOn k p).isEmpty || !(s.warp k).deferred.isEmpty || (if p = 0 then (s.warp k).loadAway else (s.warp k).fabricAway)
/-- Whether an access of warp `k` on path V, 0, or X, 3, that may be an acquire has not come back: its loads, or its atomics. -/
def State.acqOpen (s : State) (k p : Nat) : Bool :=
  if p = 0 then (s.warp k).loadAway else !(s.openOn k 3).isEmpty || (s.warp k).fabricAway
/-- Unfinished band commands of the executing warp, as `Warp.bandsSeen` has them. -/
def State.myBandIds (s : State) : List Nat := s.w.bandsSeen (s.myCore.bandIds (slotOf s.cur))
/-- Whether some of the named band commands of the executing warp are unfinished. -/
def State.bandsOpen (s : State) (ids : List Nat) : Bool := s.myBandIds.any (fun i => ids.contains i)
/-- Copies of the executing warp that have not left, or of which a write is unacknowledged, by number. -/
def State.copiesNow (s : State) : List Nat :=
  s.myCore.copyIds (slotOf s.cur) ++
    (s.remotes.filter (fun r => r.warp == s.cur && r.ctx == s.w.ctx && r.path == 2)).map (·.cmd)

/-- Whether some access of the executing warp, a band command or a copy among them, has not performed (R342, R372). -/
def State.workOpen (s : State) : Bool :=
  s.accessOpen s.cur || !s.w.deferred.isEmpty || !s.myBandIds.isEmpty || !s.copiesNow.isEmpty

/-! ### Performance counters (R397) and trace records (R396) -/

/-- A record for warp `k` in the trace ring. -/
def State.traceOf (s : State) (k kind : Nat) (cause : Cause) (flm : Mask) : TraceRec :=
  let w := s.warp k
  { ft := s.now, kind := kind, cause := cause, ctx := w.ctx, gen := (s.ctx w.ctx).gen, lrec := (s.team w.team).lrec,
    wid := w.wid ((lowLane (if flm = 0 then w.em else flm)).getD 0), pc := w.pc, core := coreOf k, slot := slotOf k,
    inSysc := decide (20 ≤ w.reason) && decide (w.reason ≤ 22), trapMode := w.trapMode,
    service := if 20 ≤ w.reason ∧ w.reason ≤ 22 then w.service else 0,
    em := w.em, flm := flm }

/-- A full ring holds every record except samples, which are dropped and counted (R396). -/
def State.trace (s : State) (r : TraceRec) : State :=
  if s.traceQ.length < 4096 then { s with traceQ := s.traceQ ++ [r] }
  else if r.kind = 1 then { s with traceDropped := s.traceDropped + 1 }
  else { s with traceHeld := s.traceHeld ++ [r] }

/-- The event that counter `k` counts, if PERF_CTL counts at all (R397). -/
def perfEvent (ctl : DWord) (k : Nat) : Nat := if ctl.getLsbD 48 then field ctl (6 * k) 6 else 0

/-- The counters of one tenant after `n` occurrences of event `e`. -/
def perfAdd (perf : Tab DWord) (tenant e n : Nat) : Tab DWord :=
  (List.range 8).foldl (fun t k =>
    if perfEvent (Tab.get 0 perf (tenant * 16)) k = e then
      Tab.set 0 t (tenant * 16 + 1 + k) (Tab.get 0 t (tenant * 16 + 1 + k) + BitVec.ofNat 64 n)
    else t) perf

/-- The samples that PERF_CNT0 calls for as it rises from `old` to `new` under PERF_CTL `ctl`: one each time that its low SSHIFT bits become 0
(R397). -/
def samples (ctl old new : DWord) : Nat :=
  let sh := field ctl 50 6
  if sh = 0 then 0 else (old.toNat + (new - old).toNat) / 2 ^ sh - old.toNat / 2 ^ sh
/-- `n` sample records of core `core`. -/
def State.sample (s : State) (core : Nat) : Nat → State
  | 0 => s
  | n + 1 => State.sample (s.trace (s.traceOf (core * 16 + (s.core core).lastSlot) 1 0 0)) core n

/-- `n` occurrences of event `e` on a core for a tenant, with the samples that PERF_CNT0 calls for (R397). -/
def State.count (s : State) (core tenant e n : Nat) : State :=
  let c := s.core core
  let old := Tab.get 0 c.perf (tenant * 16 + 1)
  let perf := perfAdd c.perf tenant e n
  (s.setCore core { c with perf := perf }).sample core
    (samples (Tab.get 0 perf (tenant * 16)) old (Tab.get 0 perf (tenant * 16 + 1)))

/-! ### Fault records (R166) -/

/-- Appends a fault record under a number of its own; a full queue holds it at the die. -/
def State.fault (s : State) (r : FaultRec) : State :=
  let r := { r with id := s.nextId }
  let s := { s with nextId := s.nextId + 1 }
  let s := if s.faultQ.length < 4096 ∧ s.faultHeld = [] then { s with faultQ := s.faultQ ++ [r] }
    else { s with faultHeld := s.faultHeld ++ [r] }
  if r.kind = 0 then { s with faultOpen := s.faultOpen ++ [r] } else s

/-- A record that names warp `k`. -/
def State.recOf (s : State) (k kind : Nat) (cause : Cause) (va : DWord) (lanes : Mask) (acc : Nat) : FaultRec :=
  { id := 0, va := va, cause := cause, kind := kind, acc := acc, ctx := (s.warp k).ctx,
    gen := (s.ctx (s.warp k).ctx).gen, core := coreOf k, slot := slotOf k, lanes := lanes, ft := s.now }

/-- A record of a die or fabric die. -/
def State.recDie (s : State) (c : CtxId) (kind : Nat) (cause : Cause) (va : DWord) (core : Nat) : FaultRec :=
  { id := 0, va := va, cause := cause, kind := kind, acc := 0, ctx := c, gen := (s.ctx c).gen, core := core, slot := 0,
    lanes := 0, ft := s.now }

/-! ### Contexts -/

/-- Address of the descriptor of a context: CTX_TABLE bits 39 to 17 (R326). -/
def State.descAddr (s : State) (c : CtxId) : Nat := field (s.reg 0x6200) 17 23 * 2 ^ 17 + 32 * c.toNat

/-- The code of a context state (R327). -/
def CState.code : CState → Nat
  | .free => 0 | .idle => 1 | .restoring => 2 | .running => 3 | .stopped => 4 | .saving => 5 | .saved => 6
  | .discarding => 7

/-- A context enters a state, which the package writes to byte 26 of its descriptor (R326, R327). -/
def State.setCState (s : State) (c : CtxId) (st : CState) : State :=
  (s.setCtx c { s.ctx c with state := st }).setByte (s.descAddr c + 26) (BitVec.ofNat 8 st.code)

/-- A Ready or Parked warp of the context halts with STAT 5; a Parked one keeps its reason, and its wait stops counting
(R344, R179). -/
def Warp.stop (w : Warp) (ft : DWord) : Warp :=
  match w.stat with
  | .ready => { w with stat := .halted, reason := 0 }
  | .parked => { w with stat := .halted, waited := w.elapsed ft, since := ft }
  | .free | .replayable | .retiring | .halted => w

/-- Every warp of the context halts and the context becomes Stopped (R344). -/
def State.stopCtx (s : State) (c : CtxId) : State :=
  { s with warps := Tab.map (fun _ w => if w.ctx = c then w.stop s.ft else w) s.warps }.setCState c .stopped

/-! ### Taking an exception -/

/-- The trap state map of R379, from the warp and the instruction fetched for it. -/
def State.trapMap (s : State) (cause : Cause) (flm done : Mask) (addr : DWord) : TrapMap :=
  let w := s.w
  { valid := true, cause := cause, len := BitVec.ofNat 8 (match w.ir with | some f => f.len | none => 0), pc := w.pc,
    em := w.em, flm := flm, done := done, exited := w.exited, addr := addr, cj := w.cj,
    instLo := (match w.ir with | some f => f.w0 | none => 0), instHi := (match w.ir with | some f => f.ext | none => 0),
    ft := s.now, tb := BitVec.ofNat 9 w.depth, spin := w.spin }

/-- The map is written unless the warp is in trap mode (R379). -/
def State.writeMap (s : State) (m : TrapMap) : State :=
  if s.w.trapMode then s else s.upd (fun w => { w with trap := m })

/-- DoubleTrap and NoHandler: the warp halts, the context becomes Stopped, one record of KIND 3 names the triggering
cause, and one trace record is written (R382, R396). -/
def State.noHandler (s : State) (rec kind : Nat) (cause : Cause) (flm : Mask) : State :=
  let k := s.cur
  let s := s.upd (fun w => { w with stat := .halted, reason := 0, ir := none })
  let s := s.stopCtx s.w.ctx
  let s := s.fault (s.recOf k 3 (BitVec.ofNat 10 rec) (cause.setWidth 64) flm 0)
  s.trace (s.traceOf k kind (BitVec.ofNat 10 rec) flm)

/-- Handler base of a cause: TOOL_BASE for 0x2E0 to 0x2EF, else TRAP_BASE (R380). -/
def State.handlerBase (s : State) (cause : Cause) : DWord :=
  let x := s.ctx s.w.ctx
  if 0x2E0 ≤ cause.toNat ∧ cause.toNat ≤ 0x2EF then x.toolBase else x.trapBase

/-- em of the handler: the fault lanes, else the lowest lane not exited (R380). -/
def handlerMask (flm exited : Mask) : Mask :=
  if flm ≠ 0 then flm else match lowLane (~~~exited) with | some i => laneBit i | none => 0

/-- Enter of R380 with the map already made: the executing warp takes a trap on the handler route. -/
def State.enterMap (s : State) (cause : Cause) (m : TrapMap) : State :=
  let base := s.handlerBase cause
  if s.w.trapMode then s.noHandler 0x322 4 cause m.flm
  else
    let s := s.writeMap m
    if !base.getLsbD 0 then s.noHandler 0x323 5 cause m.flm
    else
      let s := s.upd (fun w =>
        { w.clear with trapMode := true, pc := base &&& ~~~(0x1F : DWord), em := handlerMask m.flm w.exited,
                       cj := 0xFFFFFFFFFFFFFFFF, spin := 0, stat := .ready, reason := 0, records := [], watch := none,
                       trapWatch := w.watch })
      s.count (coreOf s.cur) s.tenant 8 1

/-- See `State.enterMap`: the map describes the instruction that the warp has fetched (R379). -/
def State.enter (s : State) (cause : Cause) (flm done : Mask) (addr : DWord) : State :=
  s.enterMap cause (s.trapMap cause flm done addr)

/-- Whether the debug right of a context is being revoked, while a command in progress completes: no debug stop takes effect but the end
of that command (R395). -/
def State.revoking (s : State) (c : CtxId) : Bool := s.revokes.contains c

/-- A debug stop of the executing warp, with the map already made (R389). -/
def State.stopMap (s : State) (m : TrapMap) : State :=
  let k := s.cur
  let s := s.writeMap m
  let s := s.upd (fun w => { w with stat := .halted, stepping := false })
  let s := s.stopCtx s.w.ctx
  let s := s.fault (s.recOf k 2 m.cause m.pc m.flm 0)
  s.trace (s.traceOf k 0 m.cause m.flm)
/-- A debug stop at the instruction that the executing warp has fetched. -/
def State.debugStop (s : State) (cause : Cause) (flm done : Mask) (addr : DWord) : State :=
  s.stopMap (s.trapMap cause flm done addr)

/-- ADDR of a trap that has neither an address nor an operand that its rule names: the reference states no value (R379). -/
def State.noAddr (s : State) : DWord := Config.noAddr s.ticks

/-- A precise trap before any lane performs, on the handler route (R378). -/
def State.precise (s : State) (cause : Cause) (flm : Mask) (addr : DWord) : State := s.enter cause flm 0 addr

/-- An operation on warp `k`, made as if it were the executing one. -/
def State.at (s : State) (k : Nat) (f : State → State) : State := { f { s with cur := k } with cur := s.cur }

end Sys2Proof.Machine
end

