-- ==== Sys2Proof/Machine/Mem.lean ====
section
/-! DEFINITION. Translation of virtual addresses (08_page.md R157 to R168), scratchpad places (09_access.md R170), and what a
Replayable fault leaves (R166). -/

namespace Sys2Proof.Machine

/-- What an access needs of a page (R163). -/
structure Want where
  rd : Bool
  wr : Bool
  fx : Bool
deriving DecidableEq, Repr

/-- A read. -/
def wantR : Want := ⟨true, false, false⟩
/-- A write. -/
def wantW : Want := ⟨false, true, false⟩
/-- The read and the write of an atomic. -/
def wantRW : Want := ⟨true, true, false⟩
/-- A fetch. -/
def wantX : Want := ⟨false, false, true⟩

/-- The attributes of an entry for target page `page` (R160). -/
def transOf (e : DWord) (page : Nat) : Trans :=
  { peer := e.extractLsb' 52 12, amode := e.extractLsb' 50 2, okind := e.extractLsb' 48 2, vers := e.getLsbD 47,
    page := page, priv := e.getLsbD 6, exec := e.getLsbD 5, write := e.getLsbD 4, read := e.getLsbD 3 }

/-- The checks of R162 that a leaf and a range entry share, in the order 0x0C3, 0x0C4: own peer number, clearing and
accessing die are those of the package. -/
def State.attrCheck (s : State) (die : Nat) (e : DWord) (target : Nat) : Except Cause Trans :=
  let t := transOf e (target / 4096 * 4096)
  let own := t.peer == s.peer
  if e.extractLsb' 40 7 ≠ 0 ∨ e.extractLsb' 8 4 ≠ 0 ∨ e.getLsbD 2 = true then .error 0x0C3
  else if t.okind = 3 then .error 0x0C3
  else if t.amode = 0 ∧ !own then .error 0x0C3
  else if t.amode ≠ 0 ∧ own ∧ target / 0x3000000000 = die then .error 0x0C3
  else if t.vers ∧ t.amode ≠ 0 then .error 0x0C3
  else if !own && !s.clearing.contains t.peer then .error 0x0C4
  else .ok t

/-- A matching range entry (R158): its conditions, then the attributes. -/
def State.rangeCheck (s : State) (die : Nat) (base limit off attr : DWord) (va : Nat) : Except Cause Trans :=
  let target := va - base.toNat + off.toNat
  if base.extractLsb' 0 12 ≠ 0 ∨ limit.extractLsb' 0 12 ≠ 0xFFF ∨ limit.toNat < base.toNat ∨ off.extractLsb' 0 12 ≠ 0 ∨
      off.extractLsb' 40 24 ≠ 0 ∨ attr.extractLsb' 12 28 ≠ 0 ∨ attr.getLsbD 1 = true ∨ attr.getLsbD 7 = true ∨
      memTop ≤ target then .error 0x0C3
  else s.attrCheck die attr target

/-- The first valid range entry among `n` from entry `i` that covers the address, checked (R157). -/
def State.ranges (s : State) (table die va : Nat) : Nat → Nat → Option (Except Cause Trans)
  | 0, _ => none
  | n + 1, i =>
    let a := table + 32 * i
    let base := s.dword a
    let limit := s.dword (a + 8)
    let attr := s.dword (a + 24)
    if attr.getLsbD 0 && decide (base.toNat ≤ va) && decide (va ≤ limit.toNat) then
      some (s.rangeCheck die base limit (s.dword (a + 16)) attr va)
    else State.ranges s table die va n (i + 1)

/-- Bytes that a leaf at a level maps (R159). -/
def pageSize (level : Nat) (sz64 : Bool) : Nat :=
  match level with
  | 0 => if sz64 then 65536 else 4096
  | 1 => 0x200000
  | _ => 0x40000000

/-- A leaf (R162). -/
def State.leaf (s : State) (die level va : Nat) (e : DWord) : Except Cause Trans :=
  let sz64 := e.getLsbD 7
  let pfn := field e 12 28 * 4096
  let size := pageSize level sz64
  if 3 ≤ level ∨ (sz64 ∧ level ≠ 0) ∨ pfn % size ≠ 0 ∨ memTop < pfn + size then .error 0x0C3
  else s.attrCheck die e (pfn + va % size)

/-- The walk from the table at `table`, `n` levels remaining (R159). -/
def State.walk (s : State) (die va : Nat) : Nat → Nat → Except Cause Trans
  | 0, _ => .error 0x0C3
  | n + 1, table =>
    let e := s.dword (table + 8 * (va / 2 ^ (12 + 9 * n) % 512))
    if !e.getLsbD 0 then .error 0x0C1
    else if e.getLsbD 1 then
      if n = 0 ∨ e.extractLsb' 40 24 ≠ 0 ∨ e.extractLsb' 2 10 ≠ 0 then .error 0x0C3
      else State.walk s die va n (field e 12 28 * 4096)
    else s.leaf die n va e

/-- A fresh translation by the range table and the translation root of a context, without protection (R157). -/
def State.freshBy (s : State) (range troot die : Nat) (va : DWord) : Except Cause Trans :=
  if va.extractLsb' 48 16 ≠ 0 then .error 0x0C2
  else match s.ranges range die va.toNat 64 0 with
    | some r => r
    | none => s.walk die va.toNat 4 troot
/-- A fresh translation for a context, without protection (R157). -/
def State.fresh (s : State) (c : CtxId) (die : Nat) (va : DWord) : Except Cause Trans :=
  s.freshBy (s.ctx c).range.toNat (s.ctx c).troot.toNat die va

/-- R163: the lowest protection cause. -/
def protCause (t : Trans) (want : Want) (c : CtxId) : Option Cause :=
  if want.rd ∧ !t.read then some 0x110
  else if want.wr ∧ !t.write then some 0x111
  else if want.fx ∧ (!t.exec ∨ t.amode ≠ 0) then some 0x112
  else if t.priv ∧ c ≠ 0 then some 0x113
  else none

/-- The translations of a page that a die and its cores have cached, oldest first (R165). -/
def State.cached (s : State) (c : CtxId) (die : Nat) (va : DWord) : List Trans :=
  (s.tlb.filter (fun e => e.die == die && e.ctx == c && e.vpage == va.toNat / 4096)).map (·.trans)

/-- The first of some cached translations that the access happens to use (log entry 7). -/
def pickCached (seed : Nat) : List Trans → Option Trans
  | [] => none
  | t :: ts => if Config.useCached seed then some t else pickCached (seed + 1) ts

/-- The translation an access uses, without protection: that which an instruction that the core holds has made, a cached one still in
use, or a fresh one (R165). A cached one that leads outside the present clearing faults (R346). `i` names the element. -/
def State.lookup (s : State) (c : CtxId) (die i : Nat) (va : DWord) : Except Cause Trans :=
  match s.w.pins.find? (fun e => e.1 == va.toNat / 4096) with
  | some e => .ok e.2
  | none => match pickCached (s.ticks * 65536 + i * 256) (s.cached c die va) with
    | some t => if va.extractLsb' 48 16 ≠ 0 then .error 0x0C2
      else if t.peer != s.peer && !s.clearing.contains t.peer then .error 0x0C4 else .ok t
    | none => s.fresh c die va

/-- The translation an access uses, and its protection (R157, R163). -/
def State.translate (s : State) (c : CtxId) (die : Nat) (want : Want) (i : Nat) (va : DWord) : Except Cause Trans :=
  match s.lookup c die i va with
  | .error e => .error e
  | .ok t => match protCause t want c with
    | some e => .error e
    | none => .ok t

/-- The target address of `va` under a translation. -/
def Trans.addr (t : Trans) (va : DWord) : Nat := t.page + va.toNat % 4096

/-- An access of a context from a die to `va` used `t`: the die and the core may cache the translation (R165), and a versioned page that it
leads to is known as mapped (R291). -/
def State.cache (s : State) (c : CtxId) (die : Nat) (va : DWord) (t : Trans) : State :=
  let e : TlbEntry := ⟨die, c, va.toNat / 4096, t⟩
  let m := (c, va.toNat / 4096, t.page / 4096)
  let s := if t.vers && !s.mapped.contains m then { s with mapped := s.mapped ++ [m] } else s
  if s.tlb.contains e then s else { s with tlb := s.tlb ++ [e] }

/-- An access of a context touches `n` bytes of this package's memory from `a` on: the poisoned words in the bursts of those
bytes are noted, once each (R400). -/
def State.touch (s : State) (c : CtxId) (a n : Nat) : State :=
  if n = 0 then s
  else
    let hit := s.poison.filter (fun w => decide (a / 32 ≤ w / 32) && decide (w / 32 ≤ (a + n - 1) / 32))
    { s with poisonHits := s.poisonHits ++ (hit.map (fun w => (c, w))).filter (fun h => !s.poisonHits.contains h) }

/-- The range entries that a fresh translation reads: up to the one that covers the address (R157). -/
def State.rangeReads (s : State) (table va : Nat) : Nat → Nat → List (Nat × Nat)
  | 0, _ => []
  | n + 1, i =>
    let a := table + 32 * i
    if (s.dword (a + 24)).getLsbD 0 && decide ((s.dword a).toNat ≤ va) && decide (va ≤ (s.dword (a + 8)).toNat) then [(a, 32)]
    else (a, 32) :: State.rangeReads s table va n (i + 1)
/-- The table entries that a walk reads (R159). -/
def State.walkReads (s : State) (va : Nat) : Nat → Nat → List (Nat × Nat)
  | 0, _ => []
  | n + 1, table =>
    let a := table + 8 * (va / 2 ^ (12 + 9 * n) % 512)
    let e := s.dword a
    (a, 8) :: (if e.getLsbD 0 && e.getLsbD 1 then State.walkReads s va n (field e 12 28 * 4096) else [])
/-- The words of the tables that a context's access to `va` from a die reads, where no translation of the page is cached, are noted if they
are poisoned (R400). -/
def State.touchWalk (s : State) (c : CtxId) (die : Nat) (va : DWord) : State :=
  if s.poison = [] ∨ va.extractLsb' 48 16 ≠ 0 ∨ s.cached c die va ≠ [] then s
  else
    let x := s.ctx c
    let rs := s.rangeReads x.range.toNat va.toNat 64 0
    let rs := if (s.ranges x.range.toNat die va.toNat 64 0).isSome then rs else rs ++ s.walkReads va.toNat 4 x.troot.toNat
    rs.foldl (fun s r => s.touch c r.1 r.2) s

/-- An access of a context to `n` bytes of one page under a translation: tables, cache and bytes. -/
def State.use (s : State) (c : CtxId) (die : Nat) (va : DWord) (n : Nat) (t : Trans) : State :=
  let s := (s.touchWalk c die va).cache c die va t
  if t.peer = s.peer then s.touch c (t.page + va.toNat % 4096) n else s

/-- One page part of an access: its first address, its bytes, its place among the access's bytes (R174). -/
structure Part where
  va : DWord
  off : Nat
  n : Nat
deriving DecidableEq, Repr

/-- The page parts of an access of `n` bytes, `n` at most 4096 (R174). -/
def partsOf (ea : DWord) (n : Nat) : List Part :=
  let room := 4096 - ea.toNat % 4096
  if n ≤ room then [⟨ea, 0, n⟩] else [⟨ea, 0, room⟩, ⟨ea + BitVec.ofNat 64 room, room, n - room⟩]

/-- A lane that faults: cause, the address formed for the lane, and the faulting byte's address. -/
structure LaneFault where
  lane : Nat
  cause : Cause
  ea : DWord
  va : DWord
deriving DecidableEq, Repr

/-- The translated parts of one lane's access, or the faults of those that fault: each part is translated and checked on its
own (R174, R176). -/
def State.transParts (s : State) (c : CtxId) (die : Nat) (want : Want) (lane : Nat) (ea : DWord) :
    List Part → Except (List LaneFault) (List (Part × Trans))
  | [] => .ok []
  | p :: ps =>
    match s.translate c die want (lane * 2 + if p.off = 0 then 0 else 1) p.va, State.transParts s c die want lane ea ps with
    | .error e, .error fs => .error (⟨lane, e, ea, p.va⟩ :: fs)
    | .error e, .ok _ => .error [⟨lane, e, ea, p.va⟩]
    | .ok _, .error fs => .error fs
    | .ok t, .ok r => .ok ((p, t) :: r)

/-! ### Faults that make the warp Replayable -/

/-- The pages, ascending by the lowest lane, with their lanes (R166). -/
def faultPages : List LaneFault → List (LaneFault × Mask) → List (LaneFault × Mask)
  | [], acc => acc
  | f :: fs, acc =>
    let same := fun (e : LaneFault × Mask) => e.1.va.toNat / 4096 == f.va.toNat / 4096
    if acc.any same then faultPages fs (acc.map (fun e => if same e then (e.1, e.2 ||| laneBit f.lane) else e))
    else faultPages fs (acc ++ [(f, laneBit f.lane)])

/-- One record for each page (R166); the answer lists their numbers. -/
def State.faultRecs (s : State) (acc : Nat) : List (LaneFault × Mask) → State × List Nat
  | [] => (s, [])
  | (f, m) :: r =>
    let id := s.nextId
    let (s, ids) := State.faultRecs (s.fault (s.recOf s.cur 0 f.cause f.va m acc)) acc r
    (s, id :: ids)

/-- The lanes of some faults. -/
def faultMask (fs : List LaneFault) : Mask := fs.foldl (fun m f => m ||| laneBit f.lane) 0

/-- The executing warp becomes Replayable: `fs` in ascending lane order, not empty, `done` the lanes that have performed
(R154, R155, R166). -/
def State.replayable (s : State) (fs : List LaneFault) (done : Mask) (acc : Nat) : State :=
  match fs with
  | [] => s
  | f :: _ =>
    let s := fs.foldl (fun s f => s.touchWalk s.w.ctx s.myDie f.va) s
    let s := s.writeMap (s.trapMap f.cause (faultMask fs) done f.ea)
    let (s, ids) := s.faultRecs acc (faultPages fs [])
    s.upd (fun w => { w with stat := .replayable, reason := 0, done := done, waiting := 0, records := ids })

/-! ### Scratchpad places (R170) -/

/-- The team of the cohort of team `t` on logical core `n` of the grove. -/
def State.remoteTeam (s : State) (t : Team) (n : Nat) : Option Nat :=
  ((s.cohort t.cohort).teams.filter (fun k =>
    coreOf k % 16 == n && (s.team k).used && (s.team k).cohort == t.cohort && (s.team k).warps != 0)).head?

/-- The team a scratchpad access names: its own, or the one on the core of the descriptor. -/
def State.spTeam (s : State) (core : Option (BitVec 4)) : Option Nat :=
  match core with
  | none => some s.w.team
  | some c => s.remoteTeam s.myTeam c.toNat

/-- R170: the cause of an access of `n` bytes at offset `ea` of a team. -/
def spCause (t : Option Team) (ea : DWord) (n : Nat) : Option Cause :=
  match t with
  | none => some 0x115
  | some t => if ea.toNat + n ≤ t.size then none else some 0x114

/-- Bytes of the scratchpad of the core of team `k` at an offset of its allocation. -/
def State.spBytes (s : State) (k off n : Nat) : List Byte :=
  Tab.getRun 0 (s.core (coreOf k)).scratch ((s.team k).base + off) n
/-- See `State.spBytes`. -/
def State.setSpBytes (s : State) (k off : Nat) (bs : List Byte) : State :=
  let c := s.core (coreOf k)
  s.setCore (coreOf k) { c with scratch := Tab.setRun 0 c.scratch ((s.team k).base + off) bs }
/-- The full/empty bit of the word at an offset (R177). -/
def State.isFull (s : State) (k off : Nat) : Bool :=
  Tab.get false (s.core (coreOf k)).full (((s.team k).base + off) / 4)
/-- See `State.isFull`. -/
def State.setFull (s : State) (k off : Nat) (b : Bool) : State :=
  let c := s.core (coreOf k)
  s.setCore (coreOf k) { c with full := Tab.set false c.full (((s.team k).base + off) / 4) b }

/-! ### Remote access counters (R168) -/

/-- The index that a new page takes: the lowest free one, else that of the entry of lowest count, lowest index first (R168; log
entry 68). -/
def migrIndex (t : List (Option (CtxId × Nat × Nat))) : Nat :=
  match t.findIdx? (·.isNone) with
  | some i => i
  | none =>
    if t.length < 4096 then t.length
    else
      let low := t.foldl (fun (b : Option Nat) e => match b, e with
        | none, some x => some x.2.2
        | some m, some x => some (min m x.2.2)
        | b, none => b) none
      (t.findIdx? (fun e => e.map (fun x => x.2.2) == low)).getD 0

/-- One access to a page under AMODE 11 outside the accessing die is counted (R168). -/
def State.countRemote (s : State) (c : CtxId) (die : Nat) (va : DWord) : State :=
  let d := s.die die
  let page := va.toNat / 4096
  if d.migrThr = 0 then s
  else
    let same := fun (e : Option (CtxId × Nat × Nat)) => e.elim false (fun e => e.1 == c && e.2.1 == page)
    let i := (d.migr.findIdx? same).getD (migrIndex d.migr)
    let n := match d.migr.find? same with
      | some (some e) => e.2.2 + 1
      | _ => 1
    let t := if i < d.migr.length then d.migr else d.migr ++ [none]
    if d.migrThr.toNat ≤ n then
      let s := s.setDie die { d with migr := t.set i none }
      s.fault (s.recDie c 1 0 (BitVec.ofNat 64 (page * 4096)) (0x8000 + die))
    else s.setDie die { d with migr := t.set i (some (c, page, n)) }

/-- Whether R168 counts an access under a translation. -/
def State.counts (s : State) (die : Nat) (t : Trans) : Bool :=
  t.amode == 3 && (t.peer != s.peer || t.page / 0x3000000000 != die)

/-- Every counted page of one instruction or copy, once each (R168). -/
def State.countPages (s : State) (c : CtxId) (die : Nat) (ps : List (DWord × Trans)) : State :=
  let pages := ascending ((ps.filter (fun e => s.counts die e.2)).map (fun e => e.1.toNat / 4096))
  pages.foldl (fun s p => s.countRemote c die (BitVec.ofNat 64 (p * 4096))) s

end Sys2Proof.Machine
end

