-- ==== Sys2Proof/Machine/Operands.lean ====
section
/-! DEFINITION. Operand forms: the cross-lane source modifier (04_registers.md R66, R67), scalar and vector integer operands
(R98, R104), immediates (03_encoding.md R55), memory operands (09_access.md R170) and the registers of a memory access (R173). -/

namespace Sys2Proof

open Sys2Proof.Machine

/-! ### Integer types -/

/-- Width of a TYPE (R104). -/
def ITy.width : ITy → Nat
  | .b32 | .s32 => 32
  | .b64 | .s64 => 64

/-- A `ty` source as the number it stands for (R104). -/
def ITy.rd (ty : ITy) (x : Nat) : Int :=
  if ty.sgn && decide (2 ^ (ty.width - 1) ≤ x) then (x : Int) - (2 ^ ty.width : Nat) else x

/-- The clamp of SAT (R104). -/
def ITy.clamp (ty : ITy) (x : Int) : Int :=
  let hi : Int := if ty.sgn then (2 ^ (ty.width - 1) : Nat) - 1 else (2 ^ ty.width : Nat) - 1
  let lo : Int := if ty.sgn then -((2 ^ (ty.width - 1) : Nat) : Int) else 0
  if x < lo then lo else if hi < x then hi else x

/-- An exact result narrowed: clamped with SAT, else modulo 2^w (R104). -/
def ITy.wr (ty : ITy) (sat : Bool) (x : Int) : Nat :=
  ((if sat then ty.clamp x else x) % (2 ^ ty.width : Nat)).toNat

/-- IMM32 extended to the width of a TYPE (R55). -/
def ITy.imm (ty : ITy) (x : Word) : Nat :=
  match ty with
  | .b32 | .s32 | .b64 => x.toNat
  | .s64 => (sx64 x).toNat

/-- A w-bit result as a scalar register holds it: zero-extended, or sign-extended for .s32 (R98). -/
def ITy.toScalar (ty : ITy) (x : Nat) : DWord :=
  match ty with
  | .s32 => sx64 (BitVec.ofNat 32 x)
  | .b32 => zx64 (BitVec.ofNat 32 x)
  | .b64 | .s64 => BitVec.ofNat 64 x

end Sys2Proof

namespace Sys2Proof.Machine

/-! ### Cross-lane source modifier -/

/-- The source lane of lane `i`, or none when it is out of range (R66). -/
def Warp.srcLane (w : Warp) (x : XL) (i : Nat) : Option Nat :=
  let n := x.par.toNat
  match x.mode with
  | .none => some i
  | .bc => some n
  | .xor => some (i ^^^ n)
  | .up => if n ≤ i then some (i - n) else none
  | .dn => if i + n ≤ 31 then some (i + n) else none
  | .idx => if (w.v n i).toNat ≤ 31 then some (w.v n i).toNat else none
  | .rot => some ((i + n) % 32)

/-- The A value delivered to lane `i` (R66, R67). -/
def Warp.aLane (w : Warp) (x : XL) (r i : Nat) : Word :=
  match w.srcLane x i with
  | some j => w.v r j
  | none => if w.keep then w.v r i else 0

/-- The A pair delivered to lane `i`: both registers from one lane (R66). -/
def Warp.aLane64 (w : Warp) (x : XL) (r i : Nat) : DWord :=
  pairOf (w.aLane x r i) (w.aLane x (r + 1) i)

/-! ### Integer operands -/

/-- A scalar source: bits 31 to 0 for a 32-bit TYPE (R98). -/
def Warp.sSrc (w : Warp) (ty : ITy) (r : Nat) : Nat := (w.s r).toNat % 2 ^ ty.width

/-- Source A of an integer instruction in lane `i`, or the scalar A (R66, R98). -/
def Warp.intA (w : Warp) (s : Bool) (ty : ITy) (x : XL) (r : RegNo) (i : Nat) : Nat :=
  if s then w.sSrc ty r.toNat else (w.aLane x r.toNat i).toNat

/-- A source without a modifier, in lane `i`, or scalar. -/
def Warp.intB (w : Warp) (s : Bool) (ty : ITy) (r : RegNo) (i : Nat) : Nat :=
  if s then w.sSrc ty r.toNat else (w.v r.toNat i).toNat

/-- Writes an integer result, `f i` for lane `i` or `f 0` for the scalar destination, and retires (R97, R98). -/
def Warp.putInt (w : Warp) (h : Hdr) (s : Bool) (ty : ITy) (d : RegNo) (len : Nat) (f : Nat → Nat) : Warp :=
  (if s then (if w.any h then w.setS d.toNat (ty.toScalar (f 0)) else w)
   else w.setLanes (w.parts h) d.toNat (fun i => BitVec.ofNat 32 (f i))).retire len h.sw

/-- Writes a per-lane 32-bit result and retires (R97). -/
def Warp.putV (w : Warp) (h : Hdr) (d : RegNo) (len : Nat) (f : Nat → Word) : Warp :=
  (w.setLanes (w.parts h) d.toNat f).retire len h.sw

/-- Writes a per-lane pair and retires (R97, R61). -/
def Warp.putV64 (w : Warp) (h : Hdr) (d : RegNo) (len : Nat) (f : Nat → DWord) : Warp :=
  (w.setLanes64 (w.parts h) d.toNat f).retire len h.sw

/-- Writes a scalar once if any lane participates, and retires (R98). -/
def Warp.putS (w : Warp) (h : Hdr) (d : RegNo) (len : Nat) (x : DWord) : Warp :=
  (if w.any h then w.setS d.toNat x else w).retire len h.sw

/-- Writes a predicate in the participating lanes and retires (R106, R113). -/
def Warp.putP (w : Warp) (h : Hdr) (d : RegNo) (len : Nat) (f : Nat → Bool) : Warp :=
  (w.setPLanes (w.parts h) d.toNat (maskOf f)).retire len h.sw

/-! ### Memory operands -/

/-- EA(i) of R170. -/
def Warp.ea (w : Warp) (m : MemOp) (i : Nat) : DWord :=
  (match m.base with | some b => w.s b.toNat | none => 0) +
  (match m.index with | some (r, sc) => sx64 (w.v r.toNat i) <<< sc.toNat | none => 0) + sx64 m.disp

/-- The bytes that lane `i` stores (R173). -/
def Warp.storeData (w : Warp) (sz : Size) (r : RegNo) (i : Nat) : List Byte :=
  (List.range sz.bytes).map (fun k => byteOf (w.v (r.toNat + k / 4) i) (k % 4))

/-- The registers that `n` loaded bytes fill, from register `r`: one, or several whole words (R173). -/
def loadWords (sz : Size) (sx : Bool) (bs : List Byte) : List Word :=
  match sz with
  | .b8 => [if sx then (BitVec.ofNat 8 (natLE bs)).signExtend 32 else BitVec.ofNat 32 (natLE bs)]
  | .b16 => [if sx then (BitVec.ofNat 16 (natLE bs)).signExtend 32 else BitVec.ofNat 32 (natLE bs)]
  | .b32 => [BitVec.ofNat 32 (natLE bs)]
  | .b64 => [BitVec.ofNat 32 (natLE (bs.take 4)), BitVec.ofNat 32 (natLE (bs.drop 4))]
  | .b128 => [BitVec.ofNat 32 (natLE (bs.take 4)), BitVec.ofNat 32 (natLE ((bs.drop 4).take 4)),
              BitVec.ofNat 32 (natLE ((bs.drop 8).take 4)), BitVec.ofNat 32 (natLE (bs.drop 12))]

/-- The register writes, by reg * 32 + lane, that deliver loaded bytes to lane `i` (R173). -/
def loadWrites (d : RegNo) (sz : Size) (sx : Bool) (i : Nat) (bs : List Byte) : List (Nat × Word) :=
  (loadWords sz sx bs).zipIdx.map (fun e => ((d.toNat + e.2) * 32 + i, e.1))

end Sys2Proof.Machine
end

