-- ==== Sys2Proof/Machine/Area.lean ====
section
/-! DEFINITION. Where the image of a context lies in its save area (18_context.md R331 to R335), and edits of an image that
arrive while its context is saved (R338). -/

namespace Sys2Proof.Machine

/-- SAVE of the descriptor of a context (R326). -/
def State.areaOf (s : State) (c : CtxId) : Nat := s.num (s.descAddr c) 8
/-- The record of core `k` (R331). -/
def State.recAddr (s : State) (c : CtxId) (k : Nat) : Nat := s.areaOf c + 0x1000 + k * 0x128000
/-- The control block of warp `k` (R332). -/
def State.wcbAddr (s : State) (c : CtxId) (k : Nat) : Nat := s.recAddr c (coreOf k) + 0x800 * slotOf k
/-- Register `r` of lane `i` of warp `k` in an image (R332). -/
def State.vregAddr (s : State) (c : CtxId) (k r i : Nat) : Nat :=
  s.recAddr c (coreOf k) + 0x8000 + 0x8000 * slotOf k + 128 * r + 4 * i

/-- Bytes of a number written to memory. -/
def State.putNum (s : State) (a n v : Nat) : State := s.setBytes a (bytesLE n v)

/-- Whether the context's state stands in its save area. -/
def State.isSaved (s : State) (c : CtxId) : Bool := (s.ctx c).state == .saved || (s.ctx c).state == .restoring

/-- Whether the state that the context has on a core stands in its save area: of a running RESIDENT context, that of a core
which does not serve it (R340). -/
def State.savedOn (s : State) (c : CtxId) (core : Nat) : Bool :=
  let x := s.ctx c
  let k := s.core core
  s.isSaved c || (x.resident && (x.state == .running || x.state == .stopped) &&
    !(k.active && k.split.extractLsb' 32 12 == c))

/-- VALID of a save area's header (R331). -/
def State.headerValid (s : State) (c : CtxId) : Bool := (s.num (s.areaOf c) 8).testBit 32

/-! ### Times across epoch renewals (R322) -/

/-- An FT after one renewal. -/
def rebase1 (t : DWord) : DWord := if t.toNat < 2 ^ 62 then 0 else t - BitVec.ofNat 64 (2 ^ 62)
/-- An FT after `n` renewals. -/
def rebase : Nat → DWord → DWord
  | 0, t => t
  | n + 1, t => rebase n (rebase1 t)
/-- Renewals since the save of a context, at most 4, after which every time is 0. -/
def State.renewals (s : State) (c : CtxId) : Nat :=
  min 4 ((s.epochs - BitVec.ofNat 16 (s.num (s.areaOf c + 0x18) 8)).toNat)

/-! ### Warps of an image -/

/-- The warp slot of an image is in use: its CORESUM bit (R331). -/
def State.slotSaved (s : State) (c : CtxId) (k : Nat) : Bool :=
  s.savedOn c (coreOf k) && s.headerValid c && (s.num (s.areaOf c + 0x100 + 8 * coreOf k) 2).testBit (slotOf k)

/-- STAT word of a saved warp (R333). -/
def State.savedStat (s : State) (c : CtxId) (k : Nat) : Nat := s.num (s.wcbAddr c k + 0x18) 4

/-- LATE of the header counts one packet applied to the image (R331). -/
def State.countLate (s : State) (c : CtxId) : State :=
  let a := s.areaOf c + 0x28
  s.putNum a 8 (s.num a 8 + 1)

/-- An event about warp `k` of context `c`: on the live warp, or on the image when the context is saved. -/
def State.liveWarp (s : State) (c : CtxId) (k : Nat) : Bool :=
  !s.savedOn c (coreOf k) && (s.warp k).ctx == c && (s.warp k).stat != .free

end Sys2Proof.Machine
end

