-- ==== Sys2Proof/Machine/Version.lean ====
section
/-! DEFINITION. Versioned lines (16_version.md R291 to R308): version chains, the pool, commit stamps, snapshots, and what a
read or a store of a versioned line does. -/

namespace Sys2Proof.Machine

/-- Compute die whose near memory holds an address (R9). -/
def dieOfAddr (a : Nat) : Nat := a / 0x3000000000
/-- The chain of a line that has not been written since its page was mapped: one version with stamp (0, own peer) (R291). -/
def State.newChain (s : State) : Chain := { stamp := ⟨0, s.peer⟩ }
/-- The version chain of line `l` = address / 128. -/
def State.chain (s : State) (l : Nat) : Chain := Tab.get s.newChain s.chains l
/-- See `State.chain`. -/
def State.setChain (s : State) (l : Nat) (c : Chain) : State := { s with chains := Tab.set s.newChain s.chains l c }
/-- The owner of a tentative version: a warp of a context. -/
def ownerOf (c : CtxId) (k : Nat) : Nat := c.toNat * 4096 + k
/-- The executing warp as an owner. -/
def State.me (s : State) : Nat := ownerOf s.w.ctx s.cur

/-! ### The pool (R293, R308) -/

/-- Versions in the pool of a die: older and tentative ones (R291). -/
def State.poolUsed (s : State) (die : Nat) : Nat :=
  s.chains.foldl (fun n e =>
    if dieOfAddr (e.1 * 128) = die then n + e.2.olds.length + (if e.2.tentative.isSome then 1 else 0) else n) 0
/-- Versions that the pool of a die can hold; none while it is not in use (R293). -/
def State.poolSize (s : State) (die : Nat) : Nat :=
  let v := (s.die die).vpool
  if v.getLsbD 0 then field v 34 15 * 8192 else 0
/-- Whether owner `o` gets a pool entry now: freed entries go to those who wait, oldest first (R308). -/
def State.poolRoom (s : State) (die o : Nat) : Bool :=
  s.poolUsed die + ((s.die die).poolWait.takeWhile (fun x => x != o)).length < s.poolSize die
/-- Owner `o` waits for the pool of a die. -/
def State.waitPool (s : State) (die o : Nat) : State :=
  let d := s.die die
  if d.poolWait.contains o then s else s.setDie die { d with poolWait := d.poolWait ++ [o] }
/-- Owner `o` waits for no pool. -/
def State.leavePool (s : State) (o : Nat) : State :=
  { s with dies := Tab.map (fun _ (d : Die) => { d with poolWait := d.poolWait.filter (fun x => x != o) }) s.dies }

/-- The executing warp has its pool entry: it waits for none, and its next wait starts anew (R308). -/
def State.gotEntry (s : State) : State :=
  (s.leavePool s.me).upd (fun w => { w with reason := if w.reason = 18 then 0 else w.reason })

/-! ### Commit stamps (R292) -/

/-- The stamp that a commit takes now, or none when the nanosecond's 64 are used. -/
def State.freshStamp (s : State) : Option DWord :=
  if s.lastStamp.toNat / 64 < s.now.toNat / 64 then some s.now
  else if s.lastStamp.toNat % 64 < 63 then some (s.lastStamp + 1) else none

/-- Stamps are ordered by FT, then by peer. -/
def Stamp.le (a b : Stamp) : Bool := a.ft.toNat < b.ft.toNat || (a.ft == b.ft && a.peer.toNat ≤ b.peer.toNat)

/-! ### Snapshots (R296, R298) -/

/-- The snapshot table entry `i` of a die. -/
def State.snapEntry (s : State) (die i : Nat) : Snap := Tab.get {} (s.die die).snaps i
/-- See `State.snapEntry`. -/
def State.setSnap (s : State) (die i : Nat) (e : Snap) : State :=
  let d := s.die die
  s.setDie die { d with snaps := Tab.set {} d.snaps i e }
/-- One share of an entry is released; the entry is freed at COUNT 0. -/
def State.dropShare (s : State) (die i : Nat) : State :=
  let e := s.snapEntry die i
  s.setSnap die i (if e.count.toNat ≤ 1 then {} else { e with count := e.count - 1 })
/-- The executing warp releases its entry, if any. -/
def State.releaseSnap (s : State) : State :=
  match s.w.snapIx with
  | none => s
  | some (die, i) => (s.dropShare die i).upd (fun w => { w with snapIx := none })
/-- The entry that a snapshot at `t` shares or takes (R296). One whose COUNT is full is not shared. -/
def State.snapPlace (s : State) (die : Nat) (c : CtxId) (t : DWord) : Option Nat :=
  match (List.range 1024).find? (fun i =>
      let e := s.snapEntry die i
      e.used && e.ft == t && e.ctx == c && e.count != 0xFFFF) with
  | some i => some i
  | none => (List.range 1024).find? (fun i => !(s.snapEntry die i).used)
/-- A share of entry `i` for a snapshot at `t`. -/
def State.shareSnap (s : State) (die : Nat) (c : CtxId) (t : DWord) (i : Nat) : State :=
  let e := s.snapEntry die i
  s.setSnap die i { used := true, ft := t, ctx := c, count := e.count + 1, expired := e.used && e.expired }
/-- Whether the warp's entry has been expired (R294). -/
def State.snapExpired (s : State) (w : Warp) : Bool :=
  match w.snapIx with
  | none => false
  | some (die, i) => (s.snapEntry die i).expired
/-- The package watermark PW (R307). -/
def State.pwNow (s : State) : DWord :=
  s.dies.foldl (fun m d => d.2.snaps.foldl (fun (m : DWord) e =>
    if e.2.used && !e.2.expired && e.2.ft.toNat < m.toNat then e.2.ft else m) m) s.now
/-- RF after a recomputation: max(RF, min(CW, PW)), CW the smallest of PW and the PW last received from each other package of
the clearing; one that has sent none holds CW at 0 (R307). -/
def State.floorNow (s : State) : DWord :=
  let cw := (s.clearing.filter (fun p => p != s.peer)).foldl (fun (m : DWord) p =>
    let x := (Tab.get none s.pws p.toNat).getD 0
    if x.toNat < m.toNat then x else m) s.pwNow
  if s.rf.toNat < cw.toNat then cw else s.rf

/-! ### Transactions (R300 to R305) -/

/-- Whether the warp's transaction is Active or Doomed. -/
def Warp.inTx (w : Warp) : Bool := w.txState == .active || w.txState == .doomed
/-- STATE of TXQ (R305). -/
def TxState.code : TxState → Nat
  | .none => 0 | .active => 1 | .committed => 2 | .doomed => 3 | .aborted => 3
/-- The TXQ value (R305). -/
def Warp.txq (w : Warp) : DWord :=
  BitVec.ofNat 64 (w.txState.code * 2 ^ 62 + w.txCode.toNat * 2 ^ 56 + w.txLines % 1024 * 2 ^ 46 + w.txConf.toNat)
/-- Every tentative version of an owner dropped. -/
def State.dropTentative (s : State) (o : Nat) : State :=
  { s with chains := List.filter (fun e => e.2 != s.newChain) (Tab.map (fun _ (c : Chain) =>
      match c.tentative with
      | some (p, _) => if p = o then { c with tentative := none, installing := false } else c
      | none => c) s.chains) }
/-- START of an owner's transaction, live or in its image, where it dates from before the renewals since the save (R292, R309). -/
def State.startOf (s : State) (o : Nat) : DWord :=
  let c : CtxId := BitVec.ofNat 12 (o / 4096)
  if s.savedOn c (coreOf (o % 4096)) then rebase (s.renewals c) (s.dword (s.wcbAddr c (o % 4096) + 0xC8))
  else (s.warp (o % 4096)).txStart
/-- An Active transaction is doomed with a CODE and a CONF, live or in its image (R300, R302). -/
def State.doom (s : State) (o : Nat) (code : BitVec 6) (conf : BitVec 41) : State :=
  let c : CtxId := BitVec.ofNat 12 (o / 4096)
  let k := o % 4096
  let s := (s.dropTentative o).leavePool o
  if s.savedOn c (coreOf (o % 4096)) then
    let a := s.wcbAddr c k + 0xD0
    s.setDword a (BitVec.ofNat 64 (3 * 2 ^ 62 + code.toNat * 2 ^ 56 + field (s.dword a) 46 10 * 2 ^ 46 + conf.toNat))
  else
    s.setWarp k { s.warp k with txState := .doomed, txCode := code, txConf := conf }
/-- CONF of a line: virtual address bits [47:7]. -/
def confOf (va : DWord) : BitVec 41 := va.extractLsb' 7 41
/-- The stamp that the owner of an installing tentative version commits (R304). -/
def State.installStamp (s : State) (o : Nat) : DWord :=
  match (s.warp (o % 4096)).txWait with
  | some (t, _) => t
  | none => s.lastStamp

/-! ### Reading (R294) -/

/-- The time at which a read of a versioned page looks. -/
inductive View where
  /-- snap 0 and no transaction. -/
  | plain
  /-- A time, the owner whose tentative version it sees, and whether the snapshot entry has been expired. -/
  | time (t : DWord) (own : Option Nat) (expired : Bool)
deriving DecidableEq, Repr

/-- The view of the executing warp's loads. -/
def State.view (s : State) : View :=
  let w := s.w
  if w.inTx then .time w.txStart (if w.txState = .active then some s.me else none) (s.snapExpired w)
  else if w.snap ≠ 0 then .time w.snap none (s.snapExpired w)
  else .plain

/-- What a read of a place gives. -/
inductive Got where
  | bytes (b : List Byte)
  /-- The place lies on another package. -/
  | away
  /-- The lane waits with a reason of R418. -/
  | wait (r : Nat)
  | fail (c : Cause)
deriving DecidableEq, Repr

/-- The newest old version with FT at most `t`. -/
def newestAt (t : DWord) (vs : List (Stamp × List Byte)) : Option (List Byte) :=
  (vs.foldl (fun (b : Option (Stamp × List Byte)) v =>
    if v.1.ft.toNat ≤ t.toNat then
      match b with
      | none => some v
      | some u => if u.1.le v.1 then some v else b
    else b) none).map (·.2)

/-- The bytes of a versioned line as a view sees them. -/
def State.readLine (s : State) (v : View) (l : Nat) : Got :=
  let c := s.chain l
  let inPlace := s.bytes (l * 128) 128
  match v with
  | .plain => .bytes inPlace
  | .time t own expired =>
    let mine : Option (List Byte) := match own, c.tentative with
      | some o, some (p, b) => if o = p then some b else none
      | _, _ => none
    match mine with
    | some b => .bytes b
    | none =>
      let installing : Bool := match c.tentative with
        | some (o, _) => c.installing && decide ((s.installStamp o).toNat ≤ t.toNat)
        | none => false
      if expired then .fail 0x204
      else if installing then .wait 17
      else if c.stamp.ft.toNat ≤ t.toNat then .bytes inPlace
      else match newestAt t c.olds with
        | some b => .bytes b
        | none => .fail 0x203

/-- `n` bytes from an address on a versioned page, over the lines that they touch. -/
def State.readVersioned (s : State) (v : View) (a n : Nat) : Got :=
  let lines := (List.range ((a + n + 127) / 128 - a / 128)).map (fun i => a / 128 + i)
  match lines.foldl (fun (g : Got) l =>
      match g with
      | .bytes b => match s.readLine v l with
        | .bytes x => .bytes (b ++ x)
        | g => g
      | g => g) (.bytes []) with
  | .bytes b => .bytes ((b.drop (a % 128)).take n)
  | g => g

/-! ### Storing (R302, R303) -/

/-- What a store to one versioned line came to. -/
inductive Stored where
  | ok (s : State)
  /-- The lanes that touch the line wait, with a reason of R418. -/
  | wait (s : State) (r : Nat)

/-- Bytes by address written over the bytes of line `l`. -/
def overlay (l : Nat) (ws : List (Nat × Byte)) (b : List Byte) : List Byte :=
  ws.foldl (fun b w => b.set (w.1 - l * 128) w.2) b

/-- Bytes by address written to memory. -/
def State.writeCells (s : State) (ws : List (Nat × Byte)) : State :=
  ws.foldl (fun s w => s.setByte w.1 w.2) s

/-- R302: a store of an Active transaction to a line. -/
def State.txStore (s : State) (va : DWord) (l : Nat) (ws : List (Nat × Byte)) : Stored :=
  let c := s.chain l
  let w := s.w
  let die := dieOfAddr (l * 128)
  let clash : Option (BitVec 6) :=
    if c.tentative.isSome then some 1
    else if w.txStart.toNat < c.stamp.ft.toNat then some 2
    else if w.txLines = 512 then some 3 else none
  match c.tentative, clash with
  | some (o, b), _ =>
    if o = s.me then .ok (s.setChain l { c with tentative := some (o, overlay l ws b) })
    else .ok (s.doom s.me (clash.getD 1) (confOf va))
  | none, some code => .ok (s.doom s.me code (confOf va))
  | none, none =>
    if !s.poolRoom die s.me then .wait (s.waitPool die s.me) 18
    else .ok ((s.gotEntry.setChain l
      { c with tentative := some (s.me, overlay l ws (s.bytes (l * 128) 128)) }).upd
        (fun w => { w with txLines := w.txLines + 1 }))

/-- R303: a store of a warp with no transaction commits its line. One that waits for a transaction's line waits for no pool entry meanwhile
(R308). -/
def State.lineCommit (s : State) (l : Nat) (ws : List (Nat × Byte)) : Stored :=
  let c := s.chain l
  let die := dieOfAddr (l * 128)
  if c.tentative.isSome then .wait (s.leavePool s.me) 17
  else if !s.poolRoom die s.me then .wait (s.waitPool die s.me) 18
  else match s.freshStamp with
    | none => .wait s 17
    | some t =>
      .ok ((({ s.gotEntry with lastStamp := t }).setChain l
        { c with stamp := ⟨t, s.peer⟩, olds := (c.stamp, s.bytes (l * 128) 128) :: c.olds }).writeCells ws)

/-- A store to a versioned line (R300, R302, R303). -/
def State.storeLine (s : State) (va : DWord) (l : Nat) (ws : List (Nat × Byte)) : Stored :=
  match s.w.txState with
  | .doomed => .ok s
  | .active => s.txStore va l ws
  | .none | .committed | .aborted => s.lineCommit l ws

end Sys2Proof.Machine
end

