-- ==== Sys2Proof/Machine/Lanes.lean ====
section
/-! DEFINITION. What every lane-wise memory instruction shares (09_access.md R176, 20_order_far.md R368 to R373): the accesses
that are held back, the checks before any lane performs, translation, canopy copies, packets to other packages, watches
(21_trap.md R390, R391), and the end of one pass over the lanes. -/

namespace Sys2Proof

/-- How far a SCOPE reaches: 1 below `.die`, 2 up to `.package`, 3 `.clearing`. -/
def Scope.reach : Scope → Nat
  | .warp | .team | .grove => 1
  | .die | .package => 2
  | .clearing => 3
end Sys2Proof

namespace Sys2Proof.Machine

/-! ### Accesses that are held back -/

/-- Whether a FENCE or an outstanding acquire of the executing warp holds its next access on path V, 0, or X, 3 (R193, R199,
R368, R373). -/
def State.fenceHolds (s : State) (p : Nat) : Bool :=
  let f := s.w.fence
  if p = 0 then f.v && s.pathOpen s.cur 0 || f.vLoads && s.w.loadAway
  else f.x && s.pathOpen s.cur 3 || f.xLoads && s.w.ldredAway
/-- An access on that path goes on: nothing earlier is left for its successors to wait for. -/
def FenceHold.pass (f : FenceHold) (p : Nat) : FenceHold :=
  if p = 0 then { f with v := false, vLoads := false } else { f with x := false, xLoads := false }
/-- See `FenceHold.pass`. -/
def State.passFence (s : State) (p : Nat) : State := s.upd (fun w => { w with fence := w.fence.pass p })
/-- A memory instruction of the executing warp on path V or X: held while its accesses must wait. -/
def State.memory (s : State) (p : Nat) (f : State → State) : Host.Outcome State Fault Refusal :=
  if s.fenceHolds p then .next s.hold else .next (f (s.passFence p))

/-- Unfinished band commands of the executing warp, which a release awaits (R233). -/
def State.bandBusy (s : State) : Bool := !s.myBandIds.isEmpty
/-- Whether a store of the executing warp on path V, 0, or X, 3, which a FENCE.rel has made a release, waits for the band commands
before that FENCE (R194, R233). -/
def State.fenceBand (s : State) (p : Nat) : Bool :=
  (if p = 0 then s.w.fence.vBand else s.w.fence.xBand) && s.bandsOpen s.w.fence.bands
/-- Whether the remote accesses before a release are open. -/
def State.remoteHolds (s : State) (dst : Option Peer) : Bool :=
  s.w.loadAway || s.w.fabricAway || (s.openOps s.cur).any (fun r => some r.peer != dst)
/-- Whether a release waits for an earlier remote access or band command (R193, R233, R368): all but earlier stores of the one
stream `dst` that it goes to. -/
def State.releaseHolds (s : State) (dst : Option Peer) : Bool :=
  s.remoteHolds dst || s.bandBusy
/-- The same for a release that is itself an access on path V: of the remote accesses, those of its path (R373). -/
def State.releaseV (s : State) (dst : Option Peer) : Bool :=
  s.w.loadAway || (s.openOn s.cur 0).any (fun r => some r.peer != dst) || s.bandBusy
/-- The same for one on path X that goes to the peers `dst`. -/
def State.releaseX (s : State) (dst : List Peer) : Bool :=
  s.w.ldredAway || (s.openOn s.cur 3).any (fun r => dst.any (fun p => r.peer != p)) || s.bandBusy
/-- Whether a strongly ordered access waits for an earlier one, on either path: all but earlier stores of the one stream `dst` that it
goes to (R197, R355). -/
def State.strongHolds (s : State) (dst : Option Peer) : Bool :=
  s.w.loadAway || s.w.ldredAway || (s.openOps s.cur).any (fun r => some r.peer != dst)
/-- Where the deliveries of an STMC to a member stand among unacknowledged stores: the lines are the member's own. -/
def anyLine : Nat := 2 ^ 40
/-- Whether an earlier store of the warp to a line of another package is unacknowledged (R369; log entry 69). -/
def State.lineHolds (s : State) (p : Peer) (line : Nat) : Bool :=
  (s.openOps s.cur).any (fun r => r.peer == p && (r.line == line || r.line == anyLine))
/-- Whether a remote load of the warp to a line of another package is outstanding (R192). -/
def Warp.lineAway (w : Warp) (p : Peer) (line : Nat) : Bool :=
  w.pending.any (fun q => match q.kind with
    | .remote _ _ _ _ _ _ _ asks _ _ => asks.any (fun a => a.peer == p && a.addr / 128 == line)
    | _ => false)
/-- Whether a remote load of the warp that is outstanding has read bytes of a line of this package, which a reissue reads again
(R192, R329). -/
def Warp.lineOwn (w : Warp) (line : Nat) : Bool :=
  w.pending.any (fun q => match q.kind with
    | .remote _ _ _ _ _ _ own _ _ _ => own.contains line
    | _ => false)

/-! ### Caches of lines (R172, R356, R370) -/

/-- Leases on the lines of `n` bytes end: a local access writes them back (R356). -/
def State.endLeases (s : State) (a n : Nat) : State :=
  { s with leases := s.leases.filter (fun l => l.line < a / 128 || (a + n + 127) / 128 ≤ l.line) }
/-- The number of a canopy copy of a byte: peer and address. -/
def copyKey (p : Peer) (a : Nat) : Nat := p.toNat * 2 ^ 40 + a
/-- Whether the accessing die's canopy may keep copies under a translation: AMODE 10, not strongly ordered (R370). -/
def Trans.copies (t : Trans) : Bool := t.amode == 2 && t.okind != 0
/-- Whether a store, an atomic or a delivery of a warp of a die to a line is unacknowledged: how its home orders it among others is
not known yet (R191, R369). -/
def State.lineOpen (s : State) (die : Nat) (p : Peer) (line : Nat) : Bool :=
  s.remotes.any (fun r => decide (r.warp < 4096) && dieOf (coreOf r.warp) == die && r.peer == p &&
    (r.line == line || r.line == anyLine))
/-- The canopy copy of a byte on the executing warp's die, if its context has one, with the number of the access that brought it. -/
def State.copyByte (s : State) (p : Peer) (a : Nat) : Option (Byte × Nat) :=
  match Tab.get none (s.die s.myDie).copies (copyKey p a) with
  | some (c, x) => if c = s.w.ctx then some x else none
  | none => none
/-- The copies of `n` successive bytes, if all are there, those of an aligned 16-byte block from one access (R174), and no store of the
die to their lines is under way. -/
def State.copyRun (s : State) (p : Peer) (a n : Nat) : Option (List Byte) :=
  let xs := (List.range n).filterMap (fun k => s.copyByte p (a + k))
  let torn := (List.range (n - 1)).any (fun k =>
    (a + k + 1) % 16 != 0 && (xs[k]?).map (·.2) != (xs[k + 1]?).map (·.2))
  if xs.length ≠ n ∨ torn ∨ s.lineOpen s.myDie p (a / 128) ∨ s.lineOpen s.myDie p ((a + n - 1) / 128) then none
  else some (xs.map (·.1))
/-- Bytes by address become copies of a context on a die. -/
def Die.fillCopy (d : Die) (c : CtxId) (p : Peer) (ws : List (Nat × Byte)) : Die :=
  { d with
    copies := ws.foldl (fun t w => Tab.set none t (copyKey p w.1) (some (c, w.2, d.fills))) d.copies
    fills := d.fills + 1 }
/-- Bytes by address enter the copies that there are of them. -/
def Die.patchCopy (d : Die) (p : Peer) (ws : List (Nat × Byte)) : Die :=
  { d with
    copies := ws.foldl (fun t w => match Tab.get none t (copyKey p w.1) with
      | some (c, _) => Tab.set none t (copyKey p w.1) (some (c, w.2, d.fills))
      | none => t) d.copies
    fills := d.fills + 1 }
/-- Whether the byte of a copy lies on a line of a package, or with `anyLine` on any. -/
def onCopyLine (p : Peer) (line key : Nat) : Bool :=
  if line = anyLine then key / 2 ^ 40 == p.toNat else key / 128 == copyKey p (line * 128) / 128
/-- A die's copies of a line are dropped; bytes on their way become no copies. -/
def Die.dropLine (d : Die) (p : Peer) (line : Nat) : Die :=
  { d with copies := d.copies.filter (fun e => !onCopyLine p line e.1), epoch := d.epoch + 1 }
/-- A die's copies of a line are older than a store of another die; bytes on their way become no copies. -/
def Die.ageLine (d : Die) (p : Peer) (line : Nat) : Die :=
  { d with
    older := ascending (d.older ++ (d.copies.filter (fun e => onCopyLine p line e.1)).map (fun e => e.1 / 128))
    epoch := d.epoch + 1 }
/-- A store of a die to a line writes its copies, too (R370). While another one of the die to the line is under way it drops them: which
of the two the home applies last is not known (R191). -/
def State.storeCopy (s : State) (die : Nat) (p : Peer) (line : Nat) (ws : List (Nat × Byte)) : State :=
  let d := s.die die
  s.setDie die (if s.lineOpen die p line then d.dropLine p line else { d.patchCopy p ws with epoch := d.epoch + 1 })
/-- A store of die `die` to a line of another package has been applied: it is in the die's own copies, but for an atomic or a delivery
on path X, which drops them; those of the other dies are older. -/
def State.storeDone (s : State) (die path : Nat) (p : Peer) (line : Nat) : State :=
  (List.range 4).foldl (fun s n =>
    let d := s.die n
    s.setDie n (if n ≠ die then d.ageLine p line
      else if path = 3 then d.dropLine p line else { d with epoch := d.epoch + 1 })) s
/-- A line's copies dropped on a die. -/
def State.dropCopy (s : State) (die : Nat) (p : Peer) (line : Nat) : State := s.setDie die ((s.die die).dropLine p line)
/-- The AMODE 10 copies of a context on a die dropped: those of this package's lines and those older than a store of another die, or
those of all lines (R195, R196, R370). -/
def State.dropCopies (s : State) (c : CtxId) (die : Nat) (all : Bool) : State :=
  let d := s.die die
  let left := d.copies.filter (fun e => !(e.2.elim false (fun x => x.1 == c)) ||
    !(all || e.1 / 2 ^ 40 == s.peer.toNat || d.older.contains (e.1 / 128)))
  s.setDie die { d with
    copies := left
    older := d.older.filter (fun l => left.any (fun e => e.1 / 128 == l))
    epoch := d.epoch + 1 }

/-- An acquire of a warp takes place: its die drops the copies of the context that the scope lets be stale, at `.die` and `.package`
this package's lines and those that another die has stored to (R195, R196; log entry 70), all lines at `.clearing` (R370). -/
def State.acquireOf (s : State) (k reach : Nat) : State :=
  if reach < 2 then s else s.dropCopies (s.warp k).ctx (dieOf (coreOf k)) (reach == 3)
/-- An acquire of the executing warp with nothing outstanding. -/
def State.acquire (s : State) (reach : Nat) : State := s.acquireOf s.cur reach
/-- An acquire of the executing warp, which takes place again when its outstanding accesses on a path have come back. -/
def State.acquireOn (s : State) (p reach : Nat) : State :=
  (s.acquire reach).upd (fun w =>
    if !s.acqOpen s.cur p then w
    else if p = 0 then { w with acqV := max w.acqV reach } else { w with acqX := max w.acqX reach })
/-- Something of warp `k` has come back: its outstanding acquires take place. -/
def State.backAt (s : State) (k : Nat) : State :=
  let w := s.warp k
  let s := s.acquireOf k (max w.acqV w.acqX)
  s.setWarp k { s.warp k with acqV := if s.acqOpen k 0 then w.acqV else 0, acqX := if s.acqOpen k 3 then w.acqX else 0 }

/-! ### Lanes of an instruction -/

/-- A lane's access with its translated parts. -/
structure Lane where
  lane : Nat
  ea : DWord
  parts : List (Part × Trans)
deriving DecidableEq, Repr

/-- The accesses of `n` bytes of some lanes, translated, and the lanes that fault (R174, R176). -/
def State.transLanes (s : State) (want : Want) (n : Nat) (ea : Nat → DWord) : List Nat → List Lane × List LaneFault
  | [] => ([], [])
  | i :: is =>
    let r := State.transLanes s want n ea is
    match s.transParts s.w.ctx s.myDie want i (ea i) (partsOf (ea i) n) with
    | .ok ps => (⟨i, ea i, ps⟩ :: r.1, r.2)
    | .error fs => (r.1, fs ++ r.2)

/-- The translated parts of all lanes. -/
def partsAll (ls : List Lane) : List (Part × Trans) := ls.flatMap (·.parts)
/-- Pages that R168 counts and that the instruction at PC has not counted yet. -/
def State.countFor (s : State) (ps : List (DWord × Trans)) : State :=
  let fresh := ps.filter (fun e => s.counts s.myDie e.2 && !s.w.counted.contains (e.1.toNat / 4096))
  (s.countPages s.w.ctx s.myDie fresh).upd (fun w =>
    { w with counted := ascending (w.counted ++ fresh.map (fun e => e.1.toNat / 4096)) })
/-- The executing warp's translations become cached, poisoned words are noted, and its remote accesses are counted (R165, R168,
R400). -/
def State.noteParts (s : State) (count : Bool) (ps : List (Part × Trans)) : State :=
  let s1 := ps.foldl (fun s p => s.use s.w.ctx s.myDie p.1.va p.1.n p.2) s
  if count then s1.countFor (ps.map (fun p => (p.1.va, p.2))) else s1

/-- The lowest cause that some lane fails, with the lanes that fail it (R176). -/
def lowestCause (m : Mask) (f : Nat → List Cause) : Option (Cause × Mask) :=
  match (lanesOf m).flatMap f with
  | [] => none
  | c :: cs =>
    let low := cs.foldl (fun (a b : Cause) => if b.toNat < a.toNat then b else a) c
    some (low, maskOf (fun i => m.getLsbD i && (f i).contains low))

/-- Cause 0x089 for an address that is not naturally aligned (R174). -/
def alignCause (ea : DWord) (n : Nat) : List Cause := if ea.toNat % n = 0 then [] else [0x089]
/-- Cause 0x0C2 for bytes beyond the virtual address space (R157). -/
def vaCause (ea : DWord) (n : Nat) : List Cause := if ea.toNat + n ≤ 2 ^ 48 then [] else [0x0C2]

/-- A check of R176 that fails for accesses of `n` bytes. Cause 0x0C2 takes the route of its class (R378), with no lane performed: each
part beyond the virtual address space faults (R166, R174; log entry 17). -/
def State.checkFails (s : State) (c : Cause) (flm : Mask) (n : Nat) (ea : Nat → DWord) (acc : Nat) : State :=
  if c = 0x0C2 then
    s.replayable ((lanesOf flm).flatMap (fun i => ((partsOf (ea i) n).filter (fun p => decide (2 ^ 48 ≤ p.va.toNat))).map
      (fun p => ⟨i, c, ea i, p.va⟩))) s.w.done acc
  else s.precise c flm ((lowLane flm).elim 0 ea)

/-! ### Packets to other packages -/

/-- Whether a translation leads to another package. -/
def State.away (s : State) (t : Trans) : Bool := t.peer != s.peer
/-- A fresh number for a record, result or tag. -/
def State.fresh1 (s : State) : State := { s with nextId := s.nextId + 1 }
/-- Generation of the executing warp's context. -/
def State.myGen (s : State) : BitVec 16 := (s.ctx s.w.ctx).gen
/-- The key of a stream: the other package, and the context with its generation (R355). -/
def streamKey (p : Peer) (c : CtxId) (g : BitVec 16) : Nat := (p.toNat * 4096 + c.toNat) * 65536 + g.toNat
/-- A packet without a stream number (R355): loads and contribution reads. -/
def State.send (s : State) (dst : Peer) (tag : Nat) (body : PacketBody) : State :=
  { s with out := s.out ++ [⟨dst, s.w.ctx, s.myGen, none, false, tag, body, some (coreOf s.cur, s.tenant)⟩] }
/-- A numbered store packet of the executing warp on a path, with the access it leaves unacknowledged (R355, R368). -/
def State.sendStore (s : State) (dst : Peer) (line path : Nat) (ordered : Bool) (body : PacketBody) : State :=
  let key := streamKey dst s.w.ctx s.myGen
  let n := Tab.get 0 s.outSeq key
  let tag := s.nextId
  { s.fresh1 with
    outSeq := Tab.set 0 s.outSeq key (n + 1)
    out := s.out ++ [⟨dst, s.w.ctx, s.myGen, some n, ordered, tag, body, some (coreOf s.cur, s.tenant)⟩]
    remotes := s.remotes ++ [⟨tag, s.cur, s.w.ctx, path, dst, line, none, 0, s.myGen, s.myTeam.launch⟩] }

/-- A long result of the executing warp becomes outstanding. -/
def State.addPending (s : State) (lanes : Mask) (kind : PendKind) : State :=
  if lanes = 0 then s
  else s.fresh1.upd (fun w => { w with pending := w.pending ++ [⟨s.nextId, lanes, kind⟩] })

/-! ### Watches (R390, R391) -/

/-- Whether watch register `v` watches an access of a context to `n` bytes. -/
def watchFires (v : BitVec 128) (c : CtxId) (rd wr : Bool) (va n : Nat) : Bool :=
  let kind := (v.extractLsb' 108 3).toNat
  let base := (v.extractLsb' 0 48).toNat
  let len := (v.extractLsb' 64 32).toNat + 1
  (kind == 3 && (rd || wr) || kind == 1 && rd || kind == 2 && wr) && v.extractLsb' 96 12 == c &&
    decide (base < va + n) && decide (va < base + len)
/-- Whether a data watch fires on an access. -/
def State.watched (s : State) (c : CtxId) (rd wr : Bool) (va : DWord) (n : Nat) : Bool :=
  !s.revoking c && s.watches.any (fun e => watchFires e.2 c rd wr va.toNat n)
/-- A watch hit held until the instruction completes: the union of the watched lanes, the address of the lowest (R391). -/
def holdHit (old : Option (Mask × DWord)) (m : Mask) (ea : Nat → DWord) : Option (Mask × DWord) :=
  match lowLane m, old with
  | none, o => o
  | some i, none => some (m, ea i)
  | some i, some (n, a) => some (n ||| m, match lowLane n with
    | some j => if i < j then ea i else a
    | none => ea i)
/-- One access for the whole warp that a data watch watches, held in the lanes `m`. -/
def State.noteHit (s : State) (m : Mask) (rd wr : Bool) (va : DWord) (n : Nat) : State :=
  if s.watched s.w.ctx rd wr va n then s.upd (fun w => { w with watch := holdHit w.watch m (fun _ => va) }) else s
/-- The lanes of `m` that a data watch watches, held in the warp. -/
def State.noteHits (s : State) (m : Mask) (rd wr : Bool) (n : Nat) (ea : Nat → DWord) : State :=
  let hit := maskOf (fun i => m.getLsbD i && s.watched s.w.ctx rd wr (ea i) n)
  s.upd (fun w => { w with watch := holdHit w.watch hit ea })

/-! ### The end of a pass -/

/-- What one pass over the lanes of an instruction came to: the lanes that performed, those that fault, those that fail by
R295, those that wait with their reason, and those that the core holds, not issued yet (R192, R193, R369). -/
structure Pass where
  s : State
  perf : Mask := 0
  faults : List LaneFault := []
  fails : List (Nat × Cause) := []
  waits : Mask := 0
  reason : Nat := 0
  left : Mask := 0

/-- Lanes that fail by R295: the cause of the lowest one, without a record. -/
def State.failLanes (s : State) (fs : List (Nat × Cause)) (done : Mask) (ea : Nat → DWord) : State :=
  match fs with
  | [] => s
  | (i, c) :: _ => s.enter c (fs.foldl (fun m f => m ||| laneBit f.1) 0) done (ea i)

/-- The instruction has performed in every lane of `all`: a held watch hit is reported before it retires. -/
def State.complete (s : State) (all : Mask) (len : Nat) (sw : Bool) : State :=
  match (if s.revoking s.w.ctx then none else s.w.watch) with
  | none => s.retire len sw
  | some (m, a) =>
    ((s.upd (fun w => { w with watch := none })).debugStop 0x2C1 m all a).upd
      (fun w => { w with done := all, waiting := 0, reason := 0 })

/-- The end of one pass: a fault is reported first, then a failure, then the warp waits, else the instruction completes
(R155, R166, R295, R178, R391). `all` holds every participating lane, performed before or not. -/
def Pass.finish (p : Pass) (all : Mask) (acc len : Nat) (sw : Bool) (ea : Nat → DWord) : State :=
  let done := p.s.w.done ||| p.perf
  if p.faults ≠ [] then p.s.replayable p.faults done acc
  else if p.fails ≠ [] then p.s.failLanes p.fails done ea
  else if p.waits ≠ 0 then (p.s.park p.reason).upd (fun w => { w with done := done, waiting := p.waits })
  else if p.left ≠ 0 then (p.s.upd (fun w => { w with done := done })).hold
  else p.s.complete all len sw

/-- Every lane that participates, performed before or not. -/
def Warp.allParts (w : Warp) (h : Hdr) : Mask := w.em &&& w.guard h.g

end Sys2Proof.Machine
end

