-- ==== Sys2Proof/Machine/Access.lean ====
section
/-! DEFINITION. Loads, stores and atomics of global memory (09_access.md R169 to R185), VAT (16_version.md R299), SPILL and
FILL (04_registers.md R74 to R77), FENCE and PROMOTE (10_order_near.md R199, R200). -/

namespace Sys2Proof.Machine

/-- ORD holds an acquire. -/
def isAcq : MOrd → Bool
  | .acq | .acqrel => true
  | .plain | .rel => false
/-- ORD holds a release. -/
def isRel : MOrd → Bool
  | .rel | .acqrel => true
  | .plain | .acq => false
/-- How far the acquire of an ORD and SCOPE reaches; 0 for none. -/
def acqReach (o : MOrd) (s : Scope) : Nat := if isAcq o then s.reach else 0

/-- Word 0 of the instruction that the executing warp has fetched. -/
def Warp.word0 (w : Warp) : DWord :=
  match w.ir with
  | some f => f.w0
  | none => 0

/-! ### Reading -/

/-- `n` bytes by address from `a` on. -/
def cellsFrom (a : Nat) (bs : List Byte) : List (Nat × Byte) := bs.zipIdx.map (fun e => (a + e.2, e.1))

/-- A line as a plain load reads it: memory, or the die's canopy copy of an AMODE 10 line; a read of memory renews the copies that
the die has (R191, R370). -/
def State.plainLine (s : State) (t : Trans) (seed line : Nat) : State × List Byte :=
  let mem := s.bytes (line * 128) 128
  let cells := cellsFrom (line * 128) mem
  if t.copies then
    match s.copyRun t.peer (line * 128) 128 with
    | some b => if Config.useCopy seed then (s, b) else (s.setDie s.myDie ((s.die s.myDie).fillCopy s.w.ctx t.peer cells), mem)
    | none => (s.setDie s.myDie ((s.die s.myDie).fillCopy s.w.ctx t.peer cells), mem)
  else (s.setDie s.myDie ((s.die s.myDie).patchCopy t.peer cells), mem)

/-- A line as LD.gc reads it: a plain load, or the line that the team's read-only cache holds (R172). A strongly ordered page is
read as it stands (R197). -/
def State.rocLine (s : State) (t : Trans) (seed line : Nat) : State × List Byte :=
  let r := s.plainLine t seed line
  let fresh := (r.1.updTeam (fun m => { m with rocLines := Tab.set [] m.rocLines line r.2 }), r.2)
  match Tab.get [] s.myTeam.rocLines line with
  | [] => fresh
  | b => if t.okind != 0 && Config.useCopy (seed + 1) then (s, b) else fresh

/-- `n` lines from line `l`. -/
def State.readLines (s : State) (gc : Bool) (t : Trans) (seed : Nat) : Nat → Nat → State × List Byte
  | 0, _ => (s, [])
  | n + 1, l =>
    let r := if gc then s.rocLine t seed l else s.plainLine t seed l
    let q := State.readLines r.1 gc t (seed + 2) n (l + 1)
    (q.1, r.2 ++ q.2)

/-- The bytes of one translated part; `gc` when they come through the read-only cache. Those of another package come from it, or
from the copies that the die has of an AMODE 10 line (R370). -/
def State.readPart (s : State) (v : View) (gc : Bool) (seed : Nat) (p : Part × Trans) : State × Got :=
  let a := p.2.addr p.1.va
  if s.away p.2 then
    match (if p.2.copies && Config.useCopy seed then s.copyRun p.2.peer a p.1.n else none) with
    | some b => (s, .bytes b)
    | none => (s, .away)
  else
    let s := s.endLeases a p.1.n
    if p.2.vers then (s, s.readVersioned v a p.1.n)
    else
      let r := s.readLines (gc && s.myTeam.roc != 0) p.2 seed ((a + p.1.n + 127) / 128 - a / 128) (a / 128)
      (r.1, .bytes ((r.2.drop (a % 128)).take p.1.n))

/-- The bytes of several parts. -/
def State.readParts (s : State) (v : View) (gc : Bool) (seed : Nat) :
    List (Part × Trans) → State × List (Part × Trans × Got)
  | [] => (s, [])
  | p :: ps =>
    let r := s.readPart v gc seed p
    let q := State.readParts r.1 v gc (seed + 256) ps
    (q.1, (p.1, p.2, r.2) :: q.2)

/-- What the parts of one lane came to: a failure first, then a wait, then another package, else all bytes. -/
def gotAll (ps : List (Part × Trans × Got)) : Got :=
  ps.foldl (fun g p => match g, p.2.2 with
    | .fail c, _ => .fail c
    | _, .fail c => .fail c
    | .wait r, _ => .wait r
    | _, .wait r => .wait r
    | .away, _ => .away
    | _, .away => .away
    | .bytes b, .bytes x => .bytes (b ++ x)) (.bytes [])

/-- The bytes that a lane has read on this package, by lane*16 + place. -/
def gotHere (lane : Nat) (ps : List (Part × Trans × Got)) : List (Nat × Byte) :=
  ps.flatMap (fun p => match p.2.2 with
    | .bytes b => b.zipIdx.map (fun e => (lane * 16 + p.1.off + e.2, e.1))
    | .away => []
    | .wait _ => []
    | .fail _ => [])
/-- The bytes that a lane asks other packages for, by place. -/
def asksOf (lane : Nat) (ps : List (Part × Trans × Got)) : List Ask :=
  ps.flatMap (fun p => match p.2.2 with
    | .away => (List.range p.1.n).map (fun k => ⟨lane * 16 + p.1.off + k, p.2.1.peer, p.2.1.addr p.1.va + k, p.2.1.copies⟩)
    | .bytes _ => []
    | .wait _ => []
    | .fail _ => [])

/-- The lines of this package of which a lane has read bytes. -/
def ownLines (ps : List (Part × Trans × Got)) : List Nat :=
  ps.flatMap (fun p => match p.2.2 with
    | .bytes _ => [p.2.1.addr p.1.va / 128, (p.2.1.addr p.1.va + p.1.n - 1) / 128]
    | .away => []
    | .wait _ => []
    | .fail _ => [])

/-- What the lanes of a load came to. -/
structure Loads where
  s : State
  writes : List (Nat × Word) := []
  perf : Mask := 0
  away : Mask := 0
  got : List (Nat × Byte) := []
  own : List Nat := []
  asks : List Ask := []
  eas : Tab DWord := []
  fails : List (Nat × Cause) := []
  waits : Mask := 0
  reason : Nat := 0

/-- One lane of a load: `put` gives its register writes. -/
def Loads.lane (a : Loads) (v : View) (gc : Bool) (put : Nat → List Byte → List (Nat × Word)) (l : Lane) : Loads :=
  let r := a.s.readParts v gc (a.s.ticks * 65536 + l.lane * 1024) l.parts
  let a := { a with s := r.1 }
  match gotAll r.2 with
  | .bytes b => { a with writes := a.writes ++ put l.lane b, perf := a.perf ||| laneBit l.lane }
  | .away => { a with away := a.away ||| laneBit l.lane, got := a.got ++ gotHere l.lane r.2, own := ascending (a.own ++ ownLines r.2),
                      asks := a.asks ++ asksOf l.lane r.2,
                      eas := Tab.set 0 a.eas l.lane l.ea }
  | .wait n => { a with waits := a.waits ||| laneBit l.lane, reason := n }
  | .fail c => { a with fails := a.fails ++ [(l.lane, c)] }

/-- Load packets for the bytes asked, one for each peer (R355). -/
def State.sendLoads (s : State) (tag : Nat) (asks : List Ask) : State :=
  (ascending (asks.map (·.peer.toNat))).foldl (fun s p =>
    s.send (BitVec.ofNat 12 p) tag (.load ((asks.filter (fun e => e.peer.toNat == p)).map (·.addr)))) s

/-- Whether some part lies on another package at a line that `f` names. -/
def State.anyAway (s : State) (f : Peer → Nat → Bool) (ps : List (Part × Trans)) : Bool :=
  ps.any (fun p => s.away p.2 &&
    (f p.2.peer (p.2.addr p.1.va / 128) || f p.2.peer ((p.2.addr p.1.va + p.1.n - 1) / 128)))

/-- Whether some part lies on another package at a line to which an earlier store of the warp is unacknowledged (R369). -/
def State.lanesHeld (s : State) (ls : List Lane) : Bool := s.anyAway s.lineHolds (partsAll ls)

/-- The one peer to which every part goes, if there is one (R368). -/
def State.streamOf (s : State) (ps : List (Part × Trans)) : Option Peer :=
  match ps with
  | [] => none
  | p :: _ => if ps.all (fun q => s.away q.2 && q.2.peer == p.2.peer) then some p.2.peer else none

/-- The lanes that an ordered instruction issues now, of lanes in ascending order: those on this package, then those of one other
package; later lanes come after them in program order (R188, R193). `p` is that package, once a lane has gone there. -/
def State.firstRun (s : State) : Option Peer → List Lane → List Lane
  | _, [] => []
  | p, l :: ls =>
    if l.parts.all (fun q => !s.away q.2) then
      match p with
      | none => l :: State.firstRun s none ls
      | some _ => []
    else match p, s.streamOf l.parts with
      | none, none => [l]
      | none, some q => l :: State.firstRun s (some q) ls
      | some _, none => []
      | some p, some q => if p = q then l :: State.firstRun s (some p) ls else []

/-- The lanes that an instruction issues now. -/
def State.runOf (s : State) (ordered : Bool) (ls : List Lane) : List Lane := if ordered then s.firstRun none ls else ls
/-- The lanes of some accesses. -/
def laneMask (ls : List Lane) : Mask := maskOf (fun i => ls.any (fun l => l.lane == i))

/-- The results of a load become outstanding. -/
def Loads.issue (a : Loads) (d : RegNo) (sz : Size) (sx : Bool) : State :=
  let s := a.s.addPending a.perf (.value a.writes [])
  if a.away = 0 then s
  else
    let tag := s.nextId
    (s.addPending a.away (.remote d.toNat sz sx s.w.word0 a.eas a.got a.own a.asks (s.die s.myDie).epoch tag)).sendLoads tag a.asks

/-- LD, LD.gc and VAT of the participating lanes that have not performed (R175, R176). -/
def State.load (s : State) (h : Hdr) (v : View) (gc sx acq : Bool) (reach : Nat) (sz : Size) (d : RegNo) (ea : Nat → DWord)
    (more : List Cause) : State :=
  let m := s.w.parts h
  let all := s.w.allParts h
  if m = 0 then s.complete all 16 h.sw
  else match lowestCause m (fun i => vaCause (ea i) sz.bytes ++ more) with
    | some (c, flm) => s.checkFails c flm sz.bytes ea 0
    | none =>
      let r := s.transLanes wantR sz.bytes ea (lanesOf m)
      let strong := (partsAll r.1).any (fun p => p.2.okind == 0)
      let ordered := (acq && (partsAll r.1).any (fun p => p.2.okind != 2)) || strong
      let ls := s.runOf ordered r.1
      if (partsAll ls).any (fun p => s.away p.2) && s.w.loadAway then s.park 24
      else if s.lanesHeld ls || (strong && s.strongHolds none) then s.hold
      else
        let a := ls.foldl (fun (a : Loads) l => a.lane v gc (fun i b => loadWrites d sz sx i b) l)
          { s := s.noteParts true (partsAll ls) }
        let t := (a.issue d sz sx).noteHits (a.perf ||| a.away) true false sz.bytes ea
        let t := if ordered then (t.acquireOn 0 (if strong then 3 else reach)).upd (fun w =>
            { w with fence := { w.fence with vLoads := w.fence.vLoads || a.away != 0 } })
          else t
        Pass.finish { s := t, perf := a.perf ||| a.away, faults := r.2, fails := a.fails, waits := a.waits,
                      reason := a.reason, left := laneMask r.1 &&& ~~~laneMask ls } all 0 16 h.sw ea

/-- LD (R175); LD.gc (R172). -/
def execLd (i : Load) (s : State) : Host.Outcome State Fault Refusal :=
  s.memory 0 (fun s => s.load i.h s.view (i.space == .gc) i.sx (isAcq i.ord) i.scope.reach i.size i.d
    (fun n => s.w.ea i.m n) [])

/-- VAT (R299): its own time, 0 for now. -/
def execVat (i : VAt) (s : State) : Host.Outcome State Fault Refusal :=
  s.memory 0 (fun s =>
    let t := s.w.s i.b.toNat
    s.load i.h (.time (if t = 0 then s.now else t) none false) false i.sx (isAcq i.ord) i.scope.reach i.size i.d
      (fun n => s.w.ea i.m n) (if s.now.toNat < t.toNat then [0x202] else []))

/-! ### Storing -/

/-- Bytes by address, of one part of a lane's data, data by place in the access. -/
def cellsOf (p : Part × Trans) (data : List (Nat × Byte)) : List (Nat × Byte) :=
  (data.filter (fun e => decide (p.1.off ≤ e.1) && decide (e.1 < p.1.off + p.1.n))).map
    (fun e => (p.2.addr p.1.va + (e.1 - p.1.off), e.2))

/-- Distinct lines of some bytes, in the order of the bytes. -/
def linesOf (ws : List (Nat × Byte)) : List Nat :=
  ws.foldl (fun a w => if a.contains (w.1 / 128) then a else a ++ [w.1 / 128]) []

/-- The bytes on a line. -/
def onLine (l : Nat) (ws : List (Nat × Byte)) : List (Nat × Byte) := ws.filter (fun w => w.1 / 128 == l)

/-- A store of bytes on one unversioned page of this package, with the copies of lines that the die has (R370). -/
def State.storeHere (s : State) (t : Trans) (ws : List (Nat × Byte)) : State :=
  (linesOf ws).foldl (fun s l =>
    ((s.writeCells (onLine l ws)).endLeases (l * 128) 128).storeCopy s.myDie t.peer l (onLine l ws)) s

/-- Whether a store to a page is an ordered one: a release, or to a strongly ordered page (R194, R355). -/
def isOrdered (rel : Bool) (t : Trans) : Bool := t.okind == 0 || (rel && t.okind != 2)

/-- Stores of bytes on unversioned pages of other packages, in ascending lane order, as packets, one a line. Those to one peer go
together, so that a byte keeps the value of the highest lane; where one of them is an ordered store, each goes as one, in lane order
(R175, R355). -/
def State.storeAway (s : State) (rel : Bool) (cs : List (Trans × List (Nat × Byte))) : State :=
  let send := fun (s : State) (p : Peer) (ordered : Bool) (ws : List (Nat × Byte)) => (linesOf ws).foldl (fun s l =>
    (s.storeCopy s.myDie p l (onLine l ws)).sendStore p l 0 ordered (.store (onLine l ws))) s
  (ascending (cs.map (fun c => c.1.peer.toNat))).foldl (fun s p =>
    let here := cs.filter (fun c => c.1.peer.toNat == p)
    if here.any (fun c => isOrdered rel c.1) then here.foldl (fun s c => send s c.1.peer true c.2) s
    else send s (BitVec.ofNat 12 p) false (here.flatMap (·.2))) s

/-- A byte that a lane stores to a versioned page: lane, virtual address of the line's page part, address, byte. -/
structure VCell where
  lane : Nat
  va : DWord
  addr : Nat
  b : Byte
deriving DecidableEq, Repr

/-- Stores to versioned lines, each line once, in the order in which the lanes touch them; those from the first one that
waits onward are left: the bytes that wait, and their reason (R302, R303, R292). -/
def State.storeLines (s : State) (cs : List VCell) : List Nat → State × List VCell × Nat
  | [] => (s, [], 0)
  | l :: ls =>
    let here := cs.filter (fun c => c.addr / 128 == l)
    let va := (here.head?.map (fun c => c.va)).getD 0
    match s.storeLine va l (here.map (fun c => (c.addr, c.b))) with
    | .ok t => State.storeLines t cs ls
    | .wait t r => (t, cs.filter (fun c => (l :: ls).contains (c.addr / 128)), r)

/-- The bytes of one lane on versioned pages. -/
def Lane.vcells (l : Lane) (data : List (Nat × Byte)) : List VCell :=
  (l.parts.filter (fun p => p.2.vers)).flatMap (fun p => (cellsOf p data).map (fun e =>
    ⟨l.lane, p.1.va + BitVec.ofNat 64 (e.1 - p.2.addr p.1.va), e.1, e.2⟩))

/-- The virtual line of byte `k` of an access at `ea`. -/
def lineOfByte (ea : DWord) (k : Nat) : Nat := (ea + BitVec.ofNat 64 k).toNat / 128

/-- Stores of translated lanes in ascending order; the answer names the lanes that wait and their reason, and the warp keeps the
lines on which those have performed (R175, R303). -/
def State.storeLanes (s : State) (ls : List Lane) (rel : Bool) (data : Nat → List (Nat × Byte)) : State × Mask × Nat :=
  let old := s.w.stored
  let data := fun (l : Lane) => (data l.lane).filter (fun e => !old.contains (l.lane, lineOfByte l.ea e.1))
  let plain := ls.flatMap (fun l => (l.parts.filter (fun p => !p.2.vers)).map (fun p => (p.2, cellsOf p (data l))))
  let s := (plain.filter (fun c => !s.away c.1)).foldl (fun s c => s.storeHere c.1 c.2) s
  let s := s.storeAway rel (plain.filter (fun c => s.away c.1))
  let cs := ls.flatMap (fun l => l.vcells (data l))
  let s := cs.foldl (fun s c => s.endLeases c.addr 1) s
  let r := s.storeLines cs (linesOf (cs.map (fun c => (c.addr, c.b))))
  let waits := r.2.1.foldl (fun m c => m ||| laneBit c.lane) (0 : Mask)
  let done := (ls.filter (fun l => waits.getLsbD l.lane)).flatMap (fun l =>
    (ascending ((data l).map (fun e => lineOfByte l.ea e.1))).filter (fun v =>
      !r.2.1.any (fun c => c.lane == l.lane && c.va.toNat / 128 == v)) |>.map (fun v => (l.lane, v)))
  (r.1.upd (fun w => { w with stored := old ++ done }), waits, r.2.2)

/-- Whether a store is a release: by its ORD, or after a FENCE.rel (R194). -/
def State.relNow (s : State) (rel : Bool) : Bool := rel || s.w.relFence

/-- Whether a store on path V is held: one after a FENCE.rel, one with release, or one to a strongly ordered page (R193, R194). -/
def State.storeHeld (s : State) (rel : Bool) (ps : List (Part × Trans)) : Bool :=
  s.fenceBand 0 || ps.any (fun p => isOrdered rel p.2) && s.releaseV (s.streamOf ps) ||
    ps.any (fun p => p.2.okind == 0) && s.strongHolds (s.streamOf ps)

/-- Whether some part lies on this package at a line that an outstanding load of the warp has read in part (R192). -/
def State.ownBehind (s : State) (ps : List (Part × Trans)) : Bool :=
  ps.any (fun p => !s.away p.2 &&
    (s.w.lineOwn (p.2.addr p.1.va / 128) || s.w.lineOwn ((p.2.addr p.1.va + p.1.n - 1) / 128)))

/-- Whether a store stands behind an earlier access of its path to one of its lines: a load that is outstanding, or on another package
an unacknowledged store, behind which ingress would not keep one that is not ordered (R191 to R193, R355; log entry 82). -/
def State.storeBehind (s : State) (rel : Bool) (ps : List (Part × Trans)) : Bool :=
  s.ownBehind ps || s.anyAway s.w.lineAway ps ||
    s.anyAway (fun p line => (s.openOn s.cur 0).any (fun r => r.peer == p && r.line == line))
      (ps.filter (fun p => !isOrdered (s.relNow rel) p.2))

/-- ST of the participating lanes that have not performed (R175, R176). -/
def State.store (s : State) (h : Hdr) (rel : Bool) (n : Nat) (ea : Nat → DWord) (data : Nat → List (Nat × Byte)) : State :=
  let m := s.w.parts h
  let all := s.w.allParts h
  if m = 0 then s.complete all 16 h.sw
  else match lowestCause m (fun i => vaCause (ea i) n) with
    | some (c, flm) => s.checkFails c flm n ea 1
    | none =>
      let r := s.transLanes wantW n ea (lanesOf m)
      let ls := s.runOf ((partsAll r.1).any (fun p => isOrdered rel p.2)) r.1
      if s.storeHeld rel (partsAll ls) || s.storeBehind rel (partsAll ls) then s.hold
      else
        let a := (s.noteParts true (partsAll ls)).storeLanes ls (s.relNow rel) data
        let perf := laneMask ls &&& ~~~a.2.1
        Pass.finish { s := a.1.noteHits perf false true n ea, perf := perf, faults := r.2, waits := a.2.1,
                      reason := a.2.2, left := laneMask r.1 &&& ~~~laneMask ls } all 1 16 h.sw ea

/-- ST (R175). -/
def execSt (i : Store) (s : State) : Host.Outcome State Fault Refusal :=
  s.memory 0 (fun s => s.store i.h (isRel i.ord) i.size.bytes (fun n => s.w.ea i.m n)
    (fun n => (s.w.storeData i.size i.a n).zipIdx.map (fun e => (e.2, e.1))))

/-! ### Atomics (R181 to R183) -/

/-- Two's complement value of `w` bits. -/
def signedOf (w x : Nat) : Int := if 2 ^ (w - 1) ≤ x then (x : Int) - (2 ^ w : Nat) else x

/-- new of R181, for `w` = 32 or 64 bits. -/
def aopNew (op : AOp) (w old a b : Nat) : Nat :=
  match op with
  | .add => (old + a) % 2 ^ w
  | .minS => if signedOf w a < signedOf w old then a else old
  | .maxS => if signedOf w old < signedOf w a then a else old
  | .minB => min old a
  | .maxB => max old a
  | .and => old &&& a
  | .or => old ||| a
  | .xor => old ^^^ a
  | .exch => a
  | .cas => if old = a then b else old
  | .fadd => (addF32 (BitVec.ofNat 32 old) (BitVec.ofNat 32 a)).toNat

/-- The w-bit register operand of lane `i`. -/
def Warp.atomSrc (w : Warp) (wide : Bool) (r : RegNo) (i : Nat) : Nat :=
  if wide then (w.v64 r.toNat i).toNat else (w.v r.toNat i).toNat

/-- The register writes that deliver an old value. -/
def oldWrites (d : Option RegNo) (wide : Bool) (i old : Nat) : List (Nat × Word) :=
  match d with
  | none => []
  | some r =>
    (r.toNat * 32 + i, BitVec.ofNat 32 old) ::
      (if wide then [((r.toNat + 1) * 32 + i, BitVec.ofNat 32 (old / 2 ^ 32))] else [])

/-- The fields that ATOM and ATOMR share; `d` only in ATOMR. -/
structure AtomIn where
  h : Hdr
  aop : AOp
  reach : Nat
  ord : MOrd
  wide : Bool
  d : Option RegNo
  a : RegNo
  b : RegNo
  m : MemOp

/-- What the lanes of a global atomic came to. -/
structure Atoms where
  s : State
  writes : List (Nat × Word) := []
  here : Mask := 0
  away : Mask := 0

/-- One lane of a global atomic: at the canopy slice on this package, else a packet (R182). The die keeps no copy of its line. -/
def Atoms.lane (x : Atoms) (i : AtomIn) (l : Lane) : Atoms :=
  match l.parts with
  | [] => x
  | p :: _ =>
    let n := if i.wide then 8 else 4
    let addr := p.2.addr p.1.va
    let s := x.s.dropCopy x.s.myDie p.2.peer (addr / 128)
    let a := s.w.atomSrc i.wide i.a l.lane
    let b := s.w.atomSrc i.wide i.b l.lane
    if s.away p.2 then
      { x with
        s := s.sendStore p.2.peer (addr / 128) 3 (isOrdered (isRel i.ord) p.2)
          (.atomic addr i.aop i.wide (BitVec.ofNat 64 a) (BitVec.ofNat 64 b))
        away := x.away ||| laneBit l.lane }
    else
      let old := s.num addr n
      { x with
        s := (s.setBytes addr (bytesLE n (aopNew i.aop (8 * n) old a b))).endLeases addr n
        writes := x.writes ++ oldWrites i.d i.wide l.lane old
        here := x.here ||| laneBit l.lane }

/-- Of lanes in ascending order, those whose atomics go out together: a lane that goes to another package unordered follows no other
one of its container, or with `one` no other one at all; it waits until those are acknowledged (R183, R188). -/
def State.apart (s : State) (one rel : Bool) : List (Peer × Nat) → List Lane → List Lane
  | _, [] => []
  | seen, l :: ls =>
    match l.parts with
    | [] => State.apart s one rel seen ls
    | p :: _ =>
      let k := (p.2.peer, p.2.addr p.1.va / 8)
      if !s.away p.2 then l :: State.apart s one rel seen ls
      else if isOrdered rel p.2 then l :: State.apart s one rel (k :: seen) ls
      else
        if (one && !seen.isEmpty) || seen.contains k then State.apart s one rel seen ls
        else l :: State.apart s one rel (k :: seen) ls

/-- Whether an atomic's next lanes, on the paths V and X, are held behind earlier accesses of the warp: on path X behind an LDRED, which
may read their locations, too (R192, R193, R197, R199, R369, R373). -/
def State.atomHeld (s : State) (rel ordered : Bool) (ls : List Lane) : Bool :=
  let ps := partsAll ls
  let v := ps.any (fun p => p.2.amode == 0)
  let x := ps.any (fun p => p.2.amode != 0)
  v && (s.fenceHolds 0 || s.fenceBand 0 || s.ownBehind ps) || x && (s.fenceHolds 3 || s.fenceBand 3 || s.w.ldredAway) || ordered && s.lanesHeld ls ||
    ps.any (fun p => isOrdered rel p.2) && (v && s.releaseV none || x && s.releaseX (ps.map (fun p => p.2.peer))) ||
    ps.any (fun p => p.2.okind == 0) && s.strongHolds (s.streamOf ps)

/-- Whether the page of lane `k` of an atomic or a PROMOTE is versioned, whatever its protection (R176, R187). -/
def State.versionedAt (s : State) (k : Nat) (ea : DWord) : Bool :=
  match s.lookup s.w.ctx s.myDie (k * 2) ea with
  | .ok t => t.vers
  | .error _ => false

/-- The lanes of an atomic that go now: a lane of a line with an unacknowledged store of the warp is held (R369). -/
def State.atomRun (s : State) (acq rel : Bool) (r : List Lane) : List Lane :=
  let ps := partsAll r
  let strong := ps.any (fun p => p.2.okind == 0)
  let acq := acq && ps.any (fun p => p.2.okind != 2)
  let ordered := acq || strong || ps.any (fun p => isOrdered rel p.2)
  let ls := s.runOf ordered r
  s.apart acq rel [] (if ordered then ls else ls.filter (fun l => !s.lanesHeld [l]))

/-- A global atomic of the participating lanes that have not performed. -/
def State.atomic (s : State) (i : AtomIn) : State :=
  let m := s.w.parts i.h
  let all := s.w.allParts i.h
  let ea := fun n => s.w.ea i.m n
  let n := if i.wide then 8 else 4
  if m = 0 then s.complete all 16 i.h.sw
  else
    match lowestCause m (fun k => alignCause (ea k) n ++ vaCause (ea k) n ++ (if s.versionedAt k (ea k) then [0x08A] else [])) with
    | some (c, flm) => s.checkFails c flm n ea 2
    | none =>
      let r := s.transLanes wantRW n ea (lanesOf m)
      let strong := (partsAll r.1).any (fun p => p.2.okind == 0)
      let acq := (isAcq i.ord && (partsAll r.1).any (fun p => p.2.okind != 2)) || strong
      let ordered := acq || (partsAll r.1).any (fun p => isOrdered (isRel i.ord) p.2)
      let ls := s.atomRun (isAcq i.ord) (isRel i.ord) r.1
      let ps := partsAll ls
      if s.atomHeld (isRel i.ord) ordered ls then s.hold
      else
        let x := ls.foldl (fun (x : Atoms) l => x.lane i l) { s := s.noteParts true ps }
        let t := match i.d with
          | none => x.s
          | some d =>
            let t := x.s.addPending x.here (.value x.writes [])
            t.addPending x.away (.atomr d.toNat i.wide t.nextId)
        let t := t.noteHits (x.here ||| x.away) true true n ea
        let t := if ps.any (fun p => p.2.amode == 0) then t.passFence 0 else t
        let t := if ps.any (fun p => p.2.amode != 0) then t.passFence 3 else t
        let t := if acq then (t.acquireOn 3 (if strong then 3 else i.reach)).upd (fun w =>
            { w with fence := { w.fence with x := w.fence.x || x.away != 0 } })
          else t
        Pass.finish { s := t, perf := x.here ||| x.away, faults := r.2, left := laneMask r.1 &&& ~~~laneMask ls } all 2 16 i.h.sw ea

/-! ### Scratchpad (R170, R173, R177) -/

/-- The checks of a scratchpad access of `n` bytes; `aligned` for full/empty words and atomics. -/
def State.spChecks (s : State) (core : Option (BitVec 4)) (aligned : Bool) (n : Nat) (ea : DWord) : List Cause :=
  (if aligned then alignCause ea n else []) ++ (spCause ((s.spTeam core).map s.team) ea n).toList

/-- What the lanes of a scratchpad instruction came to. -/
structure SpAcc where
  s : State
  writes : List (Nat × Word) := []
  perf : Mask := 0
  waits : Mask := 0

/-- A scratchpad instruction: `f k x i` performs lane `i` on team `k`, or leaves it waiting. Its results are long. -/
def State.scratch (s : State) (h : Hdr) (m : MemOp) (aligned : Bool) (n : Nat)
    (f : Nat → SpAcc → Nat → SpAcc) (reach : Nat) : State :=
  let parts := s.w.parts h
  let all := s.w.allParts h
  let ea := fun i => s.w.ea m i
  if parts = 0 then s.complete all 16 h.sw
  else match lowestCause parts (fun i => s.spChecks m.core aligned n (ea i)) with
    | some (c, flm) => s.precise c flm ((lowLane flm).elim 0 ea)
    | none =>
      let k := (s.spTeam m.core).getD 0
      let x := (lanesOf parts).foldl (fun x i => f k x i) { s := s }
      let t := x.s.addPending (if x.writes = [] then 0 else x.perf) (.value x.writes [])
      Pass.finish { s := t.acquire reach, perf := x.perf, waits := x.waits, reason := 5 } all 0 16 h.sw ea

/-- Whether a scratchpad store that is a release waits for remote accesses or band commands (R193, R194, R233, R368). -/
def State.spHeld (s : State) (ord : MOrd) : Bool := s.fenceBand 0 || isRel ord && s.releaseV none

/-- LDS (R175). -/
def execLds (i : Load) (s : State) : Host.Outcome State Fault Refusal :=
  s.memory 0 (fun s => s.scratch i.h i.m false i.size.bytes (fun k x n =>
    { x with writes := x.writes ++ loadWrites i.d i.size i.sx n (s.spBytes k (s.w.ea i.m n).toNat i.size.bytes),
             perf := x.perf ||| laneBit n }) (acqReach i.ord i.scope))

/-- STS (R175). -/
def execSts (i : Store) (s : State) : Host.Outcome State Fault Refusal :=
  s.memory 0 (fun s => if s.spHeld i.ord then s.hold else s.scratch i.h i.m false i.size.bytes (fun k x n =>
    { x with s := x.s.setSpBytes k (s.w.ea i.m n).toNat (s.w.storeData i.size i.a n), perf := x.perf ||| laneBit n }) 0)

/-- A step of a full/empty word: the bit and the word before; the bit and the word after and the result, or none to wait. -/
abbrev FeStep := Bool → Word → Option (Bool × Word × Option Word)

/-- One lane of a full/empty instruction on its word (R177). -/
def SpAcc.fe (x : SpAcc) (k off : Nat) (d : RegNo) (i : Nat) (f : FeStep) : SpAcc :=
  let word := BitVec.ofNat 32 (natLE (x.s.spBytes k off 4))
  match f (x.s.isFull k off) word with
  | none => { x with waits := x.waits ||| laneBit i }
  | some (full, new, r) =>
    { s := (x.s.setSpBytes k off (bytesLE 4 new.toNat)).setFull k off full,
      writes := x.writes ++ (match r with
        | some v => [(d.toNat * 32 + i, v)]
        | none => []),
      perf := x.perf ||| laneBit i, waits := x.waits }

/-- A full/empty instruction (R177, R178). -/
def State.fullEmpty (s : State) (h : Hdr) (m : MemOp) (ord : MOrd) (scope : Scope) (d : RegNo) (f : Nat → FeStep) :
    Host.Outcome State Fault Refusal :=
  s.memory 0 (fun s => if s.spHeld ord then s.hold else
    s.scratch h m true 4 (fun k x i => x.fe k (s.w.ea m i).toNat d i (f i)) (acqReach ord scope))

/-- LDFE (R177). -/
def execLdfe (i : Load) (s : State) : Host.Outcome State Fault Refusal :=
  s.fullEmpty i.h i.m i.ord i.scope i.d (fun _ full w => if full then some (false, w, some w) else none)
/-- LDFF (R177). -/
def execLdff (i : Load) (s : State) : Host.Outcome State Fault Refusal :=
  s.fullEmpty i.h i.m i.ord i.scope i.d (fun _ full w => if full then some (true, w, some w) else none)
/-- STEF (R177). -/
def execStef (i : Store) (s : State) : Host.Outcome State Fault Refusal :=
  s.fullEmpty i.h i.m i.ord i.scope 0 (fun n full _ =>
    if full then none else some (true, s.w.v i.a.toNat n, none))
/-- STF (R177). -/
def execStf (i : Store) (s : State) : Host.Outcome State Fault Refusal :=
  s.fullEmpty i.h i.m i.ord i.scope 0 (fun n _ _ => some (true, s.w.v i.a.toNat n, none))
/-- FEST (R177). -/
def execFest (i : FeSet) (s : State) : Host.Outcome State Fault Refusal :=
  s.fullEmpty i.h i.m i.ord i.scope 0 (fun _ _ w => some (i.full, w, none))
/-- FEQ (R177). -/
def execFeq (i : Load) (s : State) : Host.Outcome State Fault Refusal :=
  s.fullEmpty i.h i.m i.ord i.scope i.d (fun _ full w => some (full, w, some (if full then 1 else 0)))

/-- An atomic with `.sp`: the bank's atomic unit; the full/empty bit stays (R180, R181). -/
def State.spAtomic (s : State) (i : AtomIn) : State :=
  let n := if i.wide then 8 else 4
  if s.spHeld i.ord then s.hold
  else s.scratch i.h i.m true n (fun k x l =>
    let off := (s.w.ea i.m l).toNat
    let old := natLE (x.s.spBytes k off n)
    { x with
      s := x.s.setSpBytes k off (bytesLE n (aopNew i.aop (8 * n) old (s.w.atomSrc i.wide i.a l) (s.w.atomSrc i.wide i.b l)))
      writes := x.writes ++ oldWrites i.d i.wide l old
      perf := x.perf ||| laneBit l }) (if isAcq i.ord then i.reach else 0)

/-- ATOM (R181). -/
def execAtom (i : Atom) (s : State) : Host.Outcome State Fault Refusal :=
  let x : AtomIn := ⟨i.h, i.aop, i.scope.reach, i.ord, i.wide, none, i.a, i.b, i.m⟩
  if i.sp then s.memory 0 (fun s => s.spAtomic x) else .next (s.atomic x)
/-- ATOMR (R181). -/
def execAtomr (i : AtomR) (s : State) : Host.Outcome State Fault Refusal :=
  let x : AtomIn := ⟨i.h, i.aop, i.scope.reach, i.ord, i.wide, some i.d, i.a, i.b, i.m⟩
  if i.sp then s.memory 0 (fun s => s.spAtomic x) else .next (s.atomic x)

/-! ### Prefetch and flush (R185) -/

/-- The line of lane `i`. -/
def lineVa (ea : DWord) : DWord := ea &&& ~~~(0x7F : DWord)

/-- PFCH: brings an AMODE 10 line of this package into the accessing die's canopy, an access that ends a lease on it; else nothing
that a load could see (R185, R356, R400). -/
def execPfch (i : Line) (s : State) : Host.Outcome State Fault Refusal :=
  let t := (lanesOf (s.w.parts i.h)).foldl (fun s n =>
    let va := lineVa (s.w.ea i.m n)
    match s.translate s.w.ctx s.myDie wantR n va with
    | .error _ => s
    | .ok t =>
      if s.away t || t.vers then s
      else
        let s := (s.use s.w.ctx s.myDie va 128 t).endLeases (t.addr va) 128
        if t.copies then
          s.setDie s.myDie ((s.die s.myDie).fillCopy s.w.ctx t.peer (cellsFrom (t.addr va) (s.bytes (t.addr va) 128)))
        else s) s
  .next (t.retire 16 i.h.sw)

/-- CFLUSH: faults as a read; drops the line from the team's read-only cache and from the die's canopy copy. -/
def execCflush (i : Line) (s : State) : Host.Outcome State Fault Refusal :=
  let m := s.w.parts i.h
  let all := s.w.allParts i.h
  let ea := fun n => s.w.ea i.m n
  if m = 0 then .next (s.complete all 16 i.h.sw)
  else match lowestCause m (fun n => vaCause (ea n) 1) with
    | some (c, flm) => .next (s.checkFails c flm 1 ea 0)
    | none =>
      let r := s.transLanes wantR 1 ea (lanesOf m)
      let t := (partsAll r.1).foldl (fun s p =>
        let line := p.2.addr p.1.va / 128
        let s := s.dropCopy s.myDie p.2.peer line
        if s.away p.2 then s
        else s.updTeam (fun g => { g with rocLines := Tab.set [] g.rocLines line [] })) (s.noteParts true (partsAll r.1))
      .next (Pass.finish { s := t, perf := laneMask r.1, faults := r.2 } all 0 16 i.h.sw ea)

/-! ### Fences -/

/-- What the executing warp's later accesses wait for after a FENCE of an ORD, beyond what they wait for already: on each path
the earlier accesses of that path, of which FENCE.acq orders loads alone; the band commands and copies that are unfinished; and
stores after a FENCE.rel, which are releases, for the band commands (R193, R194, R199, R233, R373; log entry 71). -/
def State.fenceAfter (s : State) (o : MOrd) : FenceHold :=
  let f := s.w.fence
  let bands := s.myBandIds
  { v := f.v || (isRel o && s.pathOpen s.cur 0), vLoads := f.vLoads || s.w.loadAway
    vBand := f.vBand || (isRel o && !bands.isEmpty), x := f.x || (isRel o && s.pathOpen s.cur 3)
    xLoads := f.xLoads || s.w.ldredAway, xBand := f.xBand || (isRel o && !bands.isEmpty)
    bands := bands, copies := s.copiesNow }
/-- The executing warp stands behind a FENCE. -/
def State.fenced (s : State) (o : MOrd) : State :=
  s.upd (fun w => { w with fence := s.fenceAfter o, relFence := w.relFence || isRel o })

/-- FENCE (R199): never parks; later accesses wait for earlier ones. With an acquire it takes place on every path. -/
def execFence (i : Fence) (s : State) : Host.Outcome State Fault Refusal :=
  if s.w.any i.h then
    let t := if isAcq i.ord then (s.acquireOn 0 i.scope.reach).acquireOn 3 i.scope.reach else s
    .next ((t.fenced i.ord).retire 8 i.h.sw)
  else .next (s.retire 8 i.h.sw)

/-- PROMOTE of global memory: its read, an acquire and a release at SCOPE (R200). A lane that reads on another package is done
when its answer confirms it; until then the core holds the warp at the PROMOTE. -/
def State.promoteGlobal (s : State) (i : Promote) : State :=
  let m := s.w.parts i.h
  let all := s.w.allParts i.h
  let ea := fun n => s.w.ea i.m n
  let n := if i.wide then 8 else 4
  if m = 0 then (if all = 0 then s else s.acquire i.scope.reach).complete all 16 i.h.sw
  else
    match lowestCause m (fun k => alignCause (ea k) n ++ vaCause (ea k) n ++ (if s.versionedAt k (ea k) then [0x08A] else [])) with
    | some (c, flm) => s.checkFails c flm n ea 0
    | none =>
      let sent := maskOf (fun k => s.w.promotes.any (fun e => e.2 == k))
      let r := s.transLanes wantR n ea (lanesOf (m &&& ~~~sent))
      if sent = 0 && s.releaseV none || s.lanesHeld r.1 then s.hold
      else
        let ps := partsAll r.1
        let t := r.1.foldl (fun s l => l.parts.foldl (fun s p =>
          let a := p.2.addr p.1.va
          if s.away p.2 then
            ({ (s.fresh1.send p.2.peer s.nextId (.load ((List.range n).map (fun k => a + k)))) with
              remotes := s.remotes ++ [⟨s.nextId, s.cur, s.w.ctx, 0, p.2.peer, a / 128, none, 0, s.myGen, s.myTeam.launch⟩] } : State).upd (fun w =>
                { w with promotes := w.promotes ++ [(s.nextId, l.lane)] })
          else s.endLeases a n) s) (s.noteParts true ps)
        let here := laneMask (r.1.filter (fun l => l.parts.all (fun p => !s.away p.2)))
        let t := (t.noteHits (laneMask r.1) true false n ea).acquire i.scope.reach
        Pass.finish { s := t, perf := here, faults := r.2, left := (laneMask r.1 ||| sent) &&& ~~~here } all 0 16 i.h.sw ea

/-- PROMOTE (R200). -/
def execPromote (i : Promote) (s : State) : Host.Outcome State Fault Refusal :=
  s.memory 0 (fun s =>
    if i.sp then
      if s.releaseV none then s.hold
      else s.scratch i.h i.m true (if i.wide then 8 else 4) (fun _ x n => { x with perf := x.perf ||| laneBit n }) i.scope.reach
    else s.promoteGlobal i)

/-! ### SPILL and FILL (R74 to R77) -/

/-- Signed difference from lane 0. -/
def spillDiff (v : Nat → Word) (i : Nat) : Int := (v i - v 0).toInt

/-- The format byte and the data bytes by place that SPILL writes (R75). -/
def spillForm (raw : Bool) (v : Nat → Word) : Nat × List Byte :=
  let fits (lo hi : Int) := allLanes.all (fun i => decide (lo ≤ spillDiff v i) && decide (spillDiff v i ≤ hi))
  if raw then (0, allLanes.flatMap (fun i => bytesLE 4 (v i).toNat))
  else if fits 0 0 then (1, bytesLE 4 (v 0).toNat)
  else if fits (-128) 127 then (2, bytesLE 4 (v 0).toNat ++ allLanes.flatMap (fun i => bytesLE 1 (v i - v 0).toNat))
  else if fits (-32768) 32767 then (3, bytesLE 4 (v 0).toNat ++ allLanes.flatMap (fun i => bytesLE 2 (v i - v 0).toNat))
  else (0, allLanes.flatMap (fun i => bytesLE 4 (v i).toNat))

/-- The bytes of a slot that a format byte names (R75). -/
def fillLen (fmt : Nat) : Nat :=
  match fmt with
  | 0 => 128 | 1 => 4 | 2 => 36 | _ => 68

/-- Every lane's value from the 132 bytes of a slot, or none for an invalid format byte (R76). -/
def fillValues (b : List Byte) : Option (Nat → Word) :=
  let at4 (k : Nat) : Word := BitVec.ofNat 32 (natLE ((b.drop k).take 4))
  match natLE ((b.drop 128).take 1) with
  | 0 => some (fun i => at4 (4 * i))
  | 1 => some (fun _ => at4 0)
  | 2 => some (fun i => at4 0 + (BitVec.ofNat 8 (natLE ((b.drop (4 + i)).take 1))).signExtend 32)
  | 3 => some (fun i => at4 0 + (BitVec.ofNat 16 (natLE ((b.drop (4 + 2 * i)).take 2))).signExtend 32)
  | _ => none

/-- The checks of R75 on a slot at E. -/
def State.slotCause (s : State) (sp : Bool) (e : DWord) : Option Cause :=
  if e.toNat % 4 ≠ 0 then some 0x085
  else if sp then (if s.myTeam.size < e.toNat + 132 then some 0x114 else none)
  else if 2 ^ 48 < e.toNat + 132 then some 0x0C2 else none

/-- The same fault in every lane: SPILL and FILL act on all 32 lanes (R77). -/
def everyLane (fs : List LaneFault) : List LaneFault := allLanes.flatMap (fun i => fs.map (fun f => { f with lane := i }))

/-- The slot's two runs of bytes that are touched: data, and the format byte onward. -/
def State.slotHit (s : State) (rd : Bool) (e : DWord) (data fmt : Nat) : State :=
  if s.watched s.w.ctx rd (!rd) e data || s.watched s.w.ctx rd (!rd) (e + 128) fmt then
    s.upd (fun w => { w with watch := holdHit w.watch fullMask (fun _ => e) })
  else s

/-- SPILL (R75). -/
def State.spill (s : State) (i : Spill) : State :=
  let e := s.w.s i.b.toNat + sx64 i.off
  let f := spillForm i.raw (fun l => s.w.v i.a.toNat l)
  let data : List (Nat × Byte) := f.2.zipIdx.map (fun x => (x.2, x.1)) ++
    (bytesLE 4 f.1).zipIdx.map (fun x => (128 + x.2, x.1))
  if s.w.done = fullMask then s.complete fullMask 12 i.sw
  else match s.slotCause i.sp e with
    | some c => s.precise c fullMask e
    | none =>
      if i.sp then
        ((s.setSpBytes s.w.team e.toNat f.2).setSpBytes s.w.team (e.toNat + 128) (bytesLE 4 f.1)).complete fullMask 12 i.sw
      else match s.transParts s.w.ctx s.myDie wantW 0 e (partsOf e 132) with
        | .error x => s.replayable (everyLane x) 0 1
        | .ok ps =>
          if s.storeHeld false ps || s.storeBehind false ps then s.hold
          else
            let a := (s.noteParts true ps).storeLanes [⟨0, e, ps⟩] s.w.relFence (fun _ => data)
            if a.2.1 = 0 then (a.1.slotHit false e f.2.length 4).complete fullMask 12 i.sw
            else a.1.park a.2.2

/-- SPILL (R75). -/
def execSpill (i : Spill) (s : State) : Host.Outcome State Fault Refusal := s.memory 0 (fun s => s.spill i)

/-- The register writes of a FILL. -/
def fillWrites (d : Nat) (v : Nat → Word) : List (Nat × Word) := allLanes.map (fun i => (d * 32 + i, v i))

/-- FILL with the 132 bytes of its slot (R76). Cause 0x084 records all 32 lanes: the model's choice (log entry 73). -/
def State.fillBytes (s : State) (i : Fill) (e : DWord) (b : List Byte) : State :=
  match fillValues b with
  | none => s.precise 0x084 fullMask e
  | some v =>
    let t := s.addPending fullMask (.value (fillWrites i.d.toNat v) [])
    let t := if i.sp then t else t.slotHit true e (fillLen (natLE ((b.drop 128).take 1))) 1
    t.complete fullMask 12 i.sw

/-- FILL (R76). From another package's memory the warp waits at the FILL until its bytes have come, so that 0x084 stays
precise; the response marks every lane as done. -/
def State.fill (s : State) (i : Fill) : State :=
  let e := s.w.s i.b.toNat + sx64 i.off
  if s.w.done = fullMask then s.complete fullMask 12 i.sw
  else match s.slotCause i.sp e with
    | some c => s.precise c fullMask e
    | none =>
      if i.sp then s.fillBytes i e (s.spBytes s.w.team e.toNat 132)
      else match s.transParts s.w.ctx s.myDie wantR 0 e (partsOf e 132) with
        | .error x => s.replayable (everyLane x) 0 0
        | .ok ps =>
          if ps.any (fun p => s.away p.2) && s.w.loadAway then s.park 24
          else if s.lanesHeld [⟨0, e, ps⟩] || (ps.any (fun p => p.2.okind == 0) && s.strongHolds none) then s.hold
          else
            let r := (s.noteParts true ps).readParts s.view false (s.ticks * 65536) ps
            let acq := fun (t : State) => if ps.any (fun p => p.2.okind == 0) then t.acquireOn 0 3 else t
            match gotAll r.2 with
            | .bytes b => (acq r.1).fillBytes i e b
            | .wait n => r.1.park n
            | .fail c => r.1.enter c fullMask 0 e
            | .away =>
              let tag := r.1.nextId
              let asks := asksOf 0 r.2
              let t := r.1.addPending 1 (.fill i.d.toNat s.w.word0 e (gotHere 0 r.2) asks (r.1.die s.myDie).epoch tag)
              ((acq (t.sendLoads tag asks)).slotHit true e 132 1).park 1

/-- FILL (R76). -/
def execFill (i : Fill) (s : State) : Host.Outcome State Fault Refusal := s.memory 0 (fun s => s.fill i)

end Sys2Proof.Machine
end

