-- ==== Sys2Proof/Machine/Barrier.lean ====
section
/-! DEFINITION. Barrier objects and the barrier instructions (11_barrier.md R201 to R211). -/

namespace Sys2Proof.Machine

/-- Object `b` of a team: team barrier `b`, or grove barrier `b` - 16 of its cohort (R201). -/
def State.bar (s : State) (team b : Nat) : Barrier :=
  if b < 16 then Tab.get {} (s.team team).bars b else Tab.get {} (s.cohort (s.team team).cohort).bars (b - 16)
/-- See `State.bar`. -/
def State.setBar (s : State) (team b : Nat) (o : Barrier) : State :=
  let t := s.team team
  if b < 16 then s.setTeam team { t with bars := Tab.set {} t.bars b o }
  else
    let c := s.cohort t.cohort
    s.setCohort t.cohort { c with bars := Tab.set {} c.bars (b - 16) o }

/-- The flip of R204. -/
def Barrier.flip (o : Barrier) : Barrier :=
  let e := o.expect - o.drop
  let o := { o with phase := o.phase + 1, expect := e, drop := 0 }
  if e = 0 then { o with valid := false } else { o with pend := e }

/-- The object after an operation, and whether it flipped (R204). -/
def Barrier.settle (o : Barrier) : Barrier × Bool :=
  if o.valid && o.pend == 0 && o.txb == 0 then (o.flip, true) else (o, false)

/-- An operation on an object: the object, and the transitions that it made, arrival, last arrival, flip (R210). -/
structure BarOp where
  o : Barrier
  arrival : Bool := false
  last : Bool := false
  flip : Bool := false
deriving DecidableEq, Repr

/-- An arrival with bytes announced; `drop` for BDROP (R207). -/
def Barrier.arrive (o : Barrier) (bytes : Nat) (drop : Bool) : BarOp :=
  let o := { o with pend := o.pend - 1, txb := o.txb + BitVec.ofNat 36 bytes, drop := if drop then o.drop + 1 else o.drop }
  let r := o.settle
  ⟨r.1, true, o.pend == 0, r.2⟩

/-- Bytes of an attached copy subtracted: TXB saturates at -2^35 (R205). The second answer reports the overflow. -/
def Barrier.subtract (o : Barrier) (n : Nat) : BarOp × Bool :=
  let x := o.txb.toInt - n
  let low : Int := -(2 ^ 35)
  let o := { o with txb := BitVec.ofInt 36 (if x < low then low else x) }
  let r := o.settle
  (⟨r.1, false, false, r.2⟩, decide (x < low))

/-- Whether the watch WMODE fires on an operation (R210). -/
def BarOp.fires (r : BarOp) : Bool :=
  match r.o.wmode.toNat with
  | 1 => r.arrival
  | 2 => r.last
  | 3 => r.flip
  | _ => false

/-- A barrier instruction: object number, and its body on an object below 32 (R207). -/
def State.barrier (s : State) (h : Hdr) (a : RegNo) (imm : Word) (f : Nat → State) : Host.Outcome State Fault Refusal :=
  let m := s.w.parts h
  let b := s.w.s a.toNat + sx64 imm
  if m = 0 then .next (s.retire 12 h.sw)
  else if 32 ≤ b.toNat then .next (s.precise 0x189 m s.noAddr)
  else .next (f b.toNat)

/-- The warp's arrival record for `b` (R203). -/
def Warp.arrival (w : Warp) (b : Nat) : Option (BitVec 16) := Tab.get none w.arrivals b
/-- See `Warp.arrival`. -/
def Warp.setArrival (w : Warp) (b : Nat) (r : Option (BitVec 16)) : Warp := { w with arrivals := Tab.set none w.arrivals b r }

/-- The instruction has performed on the object: it retires, or a watched transition stops the warp with its replay
performing nothing (R210). -/
def State.barDone (s : State) (h : Hdr) (b : Nat) (r : BarOp) : State :=
  let m := s.w.parts h
  let t := s.setBar s.w.team b r.o
  if r.fires && !s.revoking s.w.ctx then (t.debugStop 0x2C8 m m s.noAddr).upd (fun w => { w with done := m, reason := 0 })
  else t.retire 12 h.sw

/-- The warps of the group that an object of the executing warp belongs to: its team, or its cohort. -/
def State.barGroup (s : State) (b k : Nat) : Bool :=
  if b < 16 then (s.warp k).team == s.w.team
  else (s.team (s.warp k).team).cohort == s.myTeam.cohort

/-- BINIT of object `b` (R207). A release (R209). -/
def State.binit (s : State) (h : Hdr) (count : DWord) (b : Nat) : State :=
  let m := s.w.parts h
  let o := s.bar s.w.team b
  if count = 0 ∨ 65535 < count.toNat then s.precise 0x18B m s.noAddr
  else if o.valid && (o.pend != o.expect || o.txb != 0 || o.drop != 0) then s.precise 0x18C m s.noAddr
  else if s.releaseHolds none then s.hold
  else
    let n : BitVec 16 := count.setWidth 16
    let t := s.setBar s.w.team b { o with valid := true, drop := 0, pend := n, expect := n, phase := 0, txb := 0 }
    let t := { t with warps := Tab.map (fun k (w : Warp) =>
      if w.stat != WStat.free && s.barGroup b k then w.setArrival b none else w) t.warps }
    t.retire 12 h.sw

/-- BINIT (R207). -/
def execBinit (i : HABI) (s : State) : Host.Outcome State Fault Refusal :=
  s.barrier i.h i.a i.imm (fun b => s.binit i.h (s.w.s i.b.toNat) b)

/-- An arrival of the executing warp at object `b`: BARV, BARX (R207). A release: held behind remote accesses (R209, R368). -/
def State.arrive (s : State) (h : Hdr) (bytes : DWord) (b : Nat) : State :=
  let m := s.w.parts h
  let o := s.bar s.w.team b
  if !o.valid then s.precise 0x18A m s.noAddr
  else if 2 ^ 35 - 1 < bytes.toNat ∨ (2 : Int) ^ 35 - 1 < o.txb.toInt + bytes.toNat then s.precise 0x18E m s.noAddr
  else if o.pend = 0 then s.precise 0x18F m s.noAddr
  else if s.releaseHolds none then s.hold
  else (s.upd (fun w => w.setArrival b (some o.phase))).barDone h b (o.arrive bytes.toNat false)

/-- BARV (R207). -/
def execBarv (i : HAI) (s : State) : Host.Outcome State Fault Refusal :=
  s.barrier i.h i.a i.imm (fun b => s.arrive i.h 0 b)
/-- BARX (R207). -/
def execBarx (i : HABI) (s : State) : Host.Outcome State Fault Refusal :=
  s.barrier i.h i.a i.imm (fun b => s.arrive i.h (s.w.s i.b.toNat) b)

/-- BDROP of object `b` (R207). -/
def State.bdrop (s : State) (h : Hdr) (b : Nat) : State :=
  let m := s.w.parts h
  let o := s.bar s.w.team b
  if !o.valid then s.precise 0x18A m s.noAddr
  else if o.pend = 0 then s.precise 0x18F m s.noAddr
  else if s.releaseHolds none then s.hold
  else (s.upd (fun w => w.setArrival b none)).barDone h b (o.arrive 0 true)

/-- BDROP (R207). -/
def execBdrop (i : HAI) (s : State) : Host.Outcome State Fault Refusal :=
  s.barrier i.h i.a i.imm (fun b => s.bdrop i.h b)

/-- Whether the phase of an arrival record has passed (R207). -/
def Barrier.passed (o : Barrier) (r : BitVec 16) : Bool := o.phase != r || !o.valid

/-- BWAIT of object `b` (R207). -/
def State.bwait (s : State) (h : Hdr) (b : Nat) : State :=
  match s.w.arrival b with
  | none => s.precise 0x18D (s.w.parts h) s.noAddr
  | some r =>
    if (s.bar s.w.team b).passed r then s.upd (fun w => (w.setArrival b none).retire 12 h.sw) else s.park 6

/-- BWAIT (R207). -/
def execBwait (i : HAI) (s : State) : Host.Outcome State Fault Refusal :=
  s.barrier i.h i.a i.imm (fun b => s.bwait i.h b)

/-- BTEST of object `b` (R207). -/
def State.btest (s : State) (h : Hdr) (d : RegNo) (b : Nat) : State :=
  match s.w.arrival b with
  | none => s.precise 0x18D (s.w.parts h) s.noAddr
  | some r =>
    let yes := (s.bar s.w.team b).passed r
    s.upd (fun w =>
      ((if yes then w.setArrival b none else w).setPLanes (w.parts h) d.toNat (if yes then fullMask else 0)).retire 12 h.sw)

/-- BTEST (R207). -/
def execBtest (i : HDAI) (s : State) : Host.Outcome State Fault Refusal :=
  s.barrier i.h i.a i.imm (fun b => s.btest i.h i.d b)

/-! ### Attached copies (R205, R210) -/

/-- The team on a core that holds a warp slot. -/
def State.teamOfSlot (s : State) (core slot : Nat) : Option Nat :=
  ((List.range 16).map (fun n => core * 16 + n)).find? (fun k => (s.team k).used && (s.team k).slots.getLsbD slot)

/-- The debug record of a transition that a copy of a warp slot of context `c` made: no warp stops (R210). It names the slot from which the
copy came, with VA 0 and no lanes, and its trace record shows the warp that holds that slot now (log entry 98). -/
def State.copyHit (s : State) (c : CtxId) (core slot : Nat) : State :=
  let k := core * 16 + slot
  (s.fault { s.recOf k 2 0x2C8 0 0 0 with ctx := c, gen := (s.ctx c).gen }).trace
    { s.traceOf k 0 0x2C8 0 with ctx := c, gen := (s.ctx c).gen }

/-- Bytes of an attached copy of a slot of team `k` subtracted from object `b`; the second answer reports an overflow. -/
def State.txSub (s : State) (k slot b n : Nat) : State × Bool :=
  if !(s.team k).used then (s, false)
  else
    let r := (s.bar k b).subtract n
    let u := s.setBar k b r.1.o
    (if r.1.fires && !s.revoking (s.team k).ctx then u.copyHit (s.team k).ctx (coreOf k) slot else u, r.2)

end Sys2Proof.Machine
end

