-- ==== Sys2Proof/Decode.lean ====
section
/-! DEFINITION. Decoding of any word by the field maps of 03_encoding.md, with the checks of R59 in their order, and
after it the encoder, written from the same maps. -/

namespace Sys2Proof

/-- The fields of an instruction: word 0 by R45, and IMM32 or EXT64 (R46). -/
structure Raw where
  x : BitVec 8
  m : BitVec 8
  c : BitVec 8
  b : BitVec 8
  a : BitVec 8
  d : BitVec 8
  op : BitVec 9
  g : BitVec 4
  sw : Bool
  len : BitVec 2
  ext : DWord
deriving DecidableEq, Repr

/-- Bytes of an instruction by its LEN field; 4 for a pad word (R45, R47). -/
def lenBytes (len : BitVec 2) : Nat :=
  if len = 0 then 8 else if len = 1 then 12 else if len = 2 then 16 else 4

/-- The bytes beyond the stated length read as 0 (R379). -/
def trimExt (len : BitVec 2) (ext : DWord) : DWord :=
  if len = 0 then 0 else if len = 1 then (ext.setWidth 32).setWidth 64 else ext

/-- The fields of word 0 and the extension (R45). -/
def unpack (w ext : DWord) : Raw where
  x := w.extractLsb' 56 8
  m := w.extractLsb' 48 8
  c := w.extractLsb' 40 8
  b := w.extractLsb' 32 8
  a := w.extractLsb' 24 8
  d := w.extractLsb' 16 8
  op := w.extractLsb' 7 9
  g := w.extractLsb' 3 4
  sw := w.getLsbD 2
  len := w.extractLsb' 0 2
  ext := trimExt (w.extractLsb' 0 2) ext

/-- A one-bit field. -/
def bit1 (b : Bool) : BitVec 1 := if b then 1 else 0

/-- Word 0 of the fields (R45). -/
def pack (r : Raw) : DWord :=
  (r.x ++ r.m ++ r.c ++ r.b ++ r.a ++ r.d ++ r.op ++ r.g ++ bit1 r.sw ++ r.len).setWidth 64

/-! ### Fields -/

/-- Guard and marker (R25, R26). -/
def Raw.hdr (r : Raw) : Hdr := ⟨⟨r.g.getLsbD 3, r.g.extractLsb' 0 3⟩, r.sw⟩

/-- G of a guard (R25). -/
def Guard.bits (g : Guard) : BitVec 4 := bit1 g.neg ++ g.p

/-- The answer of a check: `c` unless `b`. -/
def need (b : Bool) (c : Cause) : Except Cause Unit := if b then .ok () else .error c

/-- Integer TYPE (R49). -/
def ITy.ofBits (b : BitVec 3) : Except Cause ITy :=
  if b = 0 then .ok .b32 else if b = 1 then .ok .s32 else if b = 2 then .ok .b64 else if b = 3 then .ok .s64
  else .error 0x045
/-- See `ITy.ofBits`. -/
def ITy.bits : ITy → BitVec 3
  | .b32 => 0 | .s32 => 1 | .b64 => 2 | .s64 => 3

/-- Floating-point TYPE (R49). -/
def FTy.ofBits (b : BitVec 3) : Except Cause FTy :=
  if b = 0 then .ok .f32 else if b = 1 then .ok .f16 else if b = 2 then .ok .bf16 else if b = 3 then .ok .f64
  else .error 0x045
/-- See `FTy.ofBits`. -/
def FTy.bits : FTy → BitVec 3
  | .f32 => 0 | .f16 => 1 | .bf16 => 2 | .f64 => 3

/-- RND (R49). -/
def Rnd.ofBits (b : BitVec 3) : Except Cause Rnd :=
  if b = 0 then .ok .rne else if b = 1 then .ok .rz else if b = 2 then .ok .rd else if b = 3 then .ok .ru
  else if b = 4 then .ok .rs else .error 0x045
/-- See `Rnd.ofBits`. -/
def Rnd.bits : Rnd → BitVec 3
  | .rne => 0 | .rz => 1 | .rd => 2 | .ru => 3 | .rs => 4

/-- Condition of ICMP (R106). -/
def ICond.ofBits (b : BitVec 3) : Except Cause ICond :=
  if b = 0 then .ok .eq else if b = 1 then .ok .ne else if b = 2 then .ok .lt else if b = 3 then .ok .le
  else if b = 4 then .ok .gt else if b = 5 then .ok .ge else .error 0x045
/-- See `ICond.ofBits`. -/
def ICond.bits : ICond → BitVec 3
  | .eq => 0 | .ne => 1 | .lt => 2 | .le => 3 | .gt => 4 | .ge => 5

/-- Condition of FCMP (R113). -/
def FCond.ofBits (b : BitVec 3) : Except Cause FCond :=
  if b = 0 then .ok .eq else if b = 1 then .ok .lt else if b = 2 then .ok .le else if b = 3 then .ok .gt
  else if b = 4 then .ok .ge else .error 0x045
/-- See `FCond.ofBits`. -/
def FCond.bits : FCond → BitVec 3
  | .eq => 0 | .lt => 1 | .le => 2 | .gt => 3 | .ge => 4

/-- Cross-lane mode (R51). -/
def XMode.ofBits (b : BitVec 3) : Except Cause XMode :=
  if b = 0 then .ok .none else if b = 1 then .ok .bc else if b = 2 then .ok .xor else if b = 3 then .ok .up
  else if b = 4 then .ok .dn else if b = 5 then .ok .idx else if b = 6 then .ok .rot else .error 0x046
/-- See `XMode.ofBits`. -/
def XMode.bits : XMode → BitVec 3
  | .none => 0 | .bc => 1 | .xor => 2 | .up => 3 | .dn => 4 | .idx => 5 | .rot => 6

/-- The cross-lane field of an opcode marked xl, by the rule for its form (R51). -/
def Raw.xl (r : Raw) (ok : XL → Bool) : Except Cause XL := do
  let mode ← XMode.ofBits (r.x.extractLsb' 5 3)
  let xl : XL := ⟨mode, r.x.extractLsb' 0 5⟩
  need (ok xl) 0x046
  pure xl
/-- See `Raw.xl`. -/
def XL.bits (x : XL) : BitVec 8 := x.mode.bits ++ x.par

/-- X must be 0 (R51). -/
def Raw.x0 (r : Raw) : Except Cause Unit := need (r.x == 0) 0x046
/-- M must be 0 (R100). -/
def Raw.m0 (r : Raw) : Except Cause Unit := need (r.m == 0) 0x045
/-- Unused fields and reserved bits must be 0 (R48). -/
def zero (b : Bool) : Except Cause Unit := need b 0x048
/-- Operand classes (R48). -/
def cls (b : Bool) : Except Cause Unit := need b 0x047
/-- IMM32 (R46). -/
def Raw.imm (r : Raw) : Word := r.ext.setWidth 32

/-- ORD (R50). -/
def MOrd.ofBits (b : BitVec 2) : MOrd :=
  if b = 0 then .plain else if b = 1 then .acq else if b = 2 then .rel else .acqrel
/-- See `MOrd.ofBits`. -/
def MOrd.bits : MOrd → BitVec 2
  | .plain => 0 | .acq => 1 | .rel => 2 | .acqrel => 3

/-- SCOPE (R50). -/
def Scope.ofBits (b : BitVec 3) : Except Cause Scope :=
  if b = 0 then .ok .warp else if b = 1 then .ok .team else if b = 2 then .ok .grove else if b = 3 then .ok .die
  else if b = 4 then .ok .package else if b = 5 then .ok .clearing else .error 0x045
/-- See `Scope.ofBits`. -/
def Scope.bits : Scope → BitVec 3
  | .warp => 0 | .team => 1 | .grove => 2 | .die => 3 | .package => 4 | .clearing => 5

/-- SIZE (R50). -/
def Size.ofBits (b : BitVec 3) : Except Cause Size :=
  if b = 0 then .ok .b8 else if b = 1 then .ok .b16 else if b = 2 then .ok .b32 else if b = 3 then .ok .b64
  else if b = 4 then .ok .b128 else .error 0x045
/-- See `Size.ofBits`. -/
def Size.bits : Size → BitVec 3
  | .b8 => 0 | .b16 => 1 | .b32 => 2 | .b64 => 3 | .b128 => 4

/-- SPACE (R50). -/
def Space.ofBits (b : BitVec 2) : Except Cause Space :=
  if b = 0 then .ok .dflt else if b = 1 then .ok .gc else if b = 2 then .ok .sp else .error 0x045
/-- See `Space.ofBits`. -/
def Space.bits : Space → BitVec 2
  | .dflt => 0 | .gc => 1 | .sp => 2

/-- AOP (R50). -/
def AOp.ofBits (b : BitVec 4) : Except Cause AOp :=
  if b = 0 then .ok .add else if b = 1 then .ok .minS else if b = 2 then .ok .maxS else if b = 3 then .ok .minB
  else if b = 4 then .ok .maxB else if b = 5 then .ok .and else if b = 6 then .ok .or else if b = 7 then .ok .xor
  else if b = 8 then .ok .exch else if b = 9 then .ok .cas else if b = 10 then .ok .fadd else .error 0x045
/-- See `AOp.ofBits`. -/
def AOp.bits : AOp → BitVec 4
  | .add => 0 | .minS => 1 | .maxS => 2 | .minB => 3 | .maxB => 4 | .and => 5 | .or => 6 | .xor => 7 | .exch => 8
  | .cas => 9 | .fadd => 10

/-- The fields of M in the memory group (R50). -/
structure MemM where
  scope : Scope
  ord : MOrd
  size : Size
deriving DecidableEq, Repr

/-- M of the memory group (R50). -/
def Raw.mem (r : Raw) : Except Cause MemM := do
  let scope ← Scope.ofBits (r.m.extractLsb' 5 3)
  let size ← Size.ofBits (r.m.extractLsb' 0 3)
  pure ⟨scope, MOrd.ofBits (r.m.extractLsb' 3 2), size⟩
/-- See `Raw.mem`. -/
def memBits (s : Scope) (o : MOrd) (z : Size) : BitVec 8 := s.bits ++ o.bits ++ z.bits
/-- X of the memory group (R50). -/
def memX (aop : BitVec 4) (sx : Bool) (spc : Space) : BitVec 8 := aop ++ bit1 sx ++ (0 : BitVec 1) ++ spc.bits

/-- The memory-operand descriptor (R53). -/
def MemOp.ofBits (e : DWord) : MemOp where
  base := if e.getLsbD 46 then some (e.extractLsb' 40 6) else none
  index := if e.getLsbD 47 then some (e.extractLsb' 32 8, e.extractLsb' 48 3) else none
  disp := e.extractLsb' 0 32
  core := if e.getLsbD 51 then some (e.extractLsb' 52 4) else none
/-- See `MemOp.ofBits`. -/
def MemOp.bits (m : MemOp) : DWord :=
  (0 : BitVec 8) ++ m.core.getD 0 ++ bit1 m.core.isSome ++ (m.index.map (·.2)).getD 0 ++ bit1 m.index.isSome ++
    bit1 m.base.isSome ++ m.base.getD 0 ++ (m.index.map (·.1)).getD 0 ++ m.disp

/-- R53: every bit of the descriptor that its presence bits do not read is 0, and it is legal. -/
def memOpOk (e : DWord) (rmt : Bool) : Bool := (MemOp.ofBits e).bits == e && (MemOp.ofBits e).ok rmt

/-- The descriptor, after 0x048 has been checked together with the unused fields. -/
def Raw.memOp (r : Raw) (unused rmt : Bool) : Except Cause MemOp := do
  zero (unused && memOpOk r.ext rmt)
  pure (MemOp.ofBits r.ext)

/-! ### Builders, one per shape: the checks 0x045, 0x046, 0x047, 0x048 in order -/

/-- S, TYPE and SAT of the integer group with OPM 000 (R49). -/
def Raw.int (r : Raw) (l : IntLegal) : Except Cause (Bool × ITy × Bool) := do
  let ty ← ITy.ofBits (r.m.extractLsb' 4 3)
  let s := r.m.getLsbD 7
  let sat := r.m.getLsbD 3
  need (l.ok s ty sat && r.m.extractLsb' 0 3 == 0) 0x045
  pure (s, ty, sat)
/-- M of the integer group (R49). -/
def intBits (s : Bool) (ty : ITy) (sat : Bool) (opm : BitVec 3) : BitVec 8 := bit1 s ++ ty.bits ++ bit1 sat ++ opm

/-- Integer shapes (R104). -/
def bInt2 (k : Int2 → Instr) (l : IntLegal) (r : Raw) : Except Cause Instr := do
  let (s, ty, sat) ← r.int l
  let xl ← r.xl (xlY s)
  cls (yOk s r.d && yOk s r.a)
  zero (r.b == 0 && r.c == 0)
  pure (k ⟨r.hdr, s, ty, sat, xl, r.d, r.a⟩)
/-- See `bInt2`. -/
def bInt3 (k : Int3 → Instr) (l : IntLegal) (r : Raw) : Except Cause Instr := do
  let (s, ty, sat) ← r.int l
  let xl ← r.xl (xlY s)
  cls (yOk s r.d && yOk s r.a && yOk s r.b)
  zero (r.c == 0)
  pure (k ⟨r.hdr, s, ty, sat, xl, r.d, r.a, r.b⟩)
/-- See `bInt2`. -/
def bInt3I (k : Int3I → Instr) (l : IntLegal) (r : Raw) : Except Cause Instr := do
  let (s, ty, sat) ← r.int l
  let xl ← r.xl (xlY s)
  cls (yOk s r.d && yOk s r.a)
  zero (r.b == 0 && r.c == 0)
  pure (k ⟨r.hdr, s, ty, sat, xl, r.d, r.a, r.imm⟩)
/-- See `bInt2`. -/
def bInt4 (k : Int4 → Instr) (l : IntLegal) (r : Raw) : Except Cause Instr := do
  let (s, ty, sat) ← r.int l
  let xl ← r.xl (xlY s)
  cls (yOk s r.d && yOk s r.a && yOk s r.b && yOk s r.c)
  pure (k ⟨r.hdr, s, ty, sat, xl, r.d, r.a, r.b, r.c⟩)
/-- See `bInt2`. -/
def bInt4I (k : Int4I → Instr) (l : IntLegal) (r : Raw) : Except Cause Instr := do
  let (s, ty, sat) ← r.int l
  let xl ← r.xl (xlY s)
  cls (yOk s r.d && yOk s r.a && yOk s r.c)
  zero (r.b == 0)
  pure (k ⟨r.hdr, s, ty, sat, xl, r.d, r.a, r.imm, r.c⟩)

/-- IADD64 and IMAD64: vector form, 64-bit TYPE (R108). -/
def Raw.i64 (r : Raw) : Except Cause (ITy × Bool × XL) := do
  let ty ← ITy.ofBits (r.m.extractLsb' 4 3)
  need (!r.m.getLsbD 7 && ty.wide && r.m.extractLsb' 0 3 == 0) 0x045
  let xl ← r.xl XL.ok
  pure (ty, r.m.getLsbD 3, xl)
/-- R108. -/
def bIadd64 (r : Raw) : Except Cause Instr := do
  let (ty, sat, xl) ← r.i64
  cls (wOk r.d && wOk r.a && wOk r.b)
  zero (r.c == 0)
  pure (.iadd64 ⟨r.hdr, false, ty, sat, xl, r.d, r.a, r.b⟩)
/-- R108. -/
def bIadd64I (r : Raw) : Except Cause Instr := do
  let (ty, sat, xl) ← r.i64
  cls (wOk r.d && wOk r.a)
  zero (r.b == 0 && r.c == 0)
  pure (.iadd64Imm ⟨r.hdr, false, ty, sat, xl, r.d, r.a, r.imm⟩)
/-- R108. -/
def bImad64 (r : Raw) : Except Cause Instr := do
  let (ty, sat, xl) ← r.i64
  cls (wOk r.d && wOk r.c)
  pure (.imad64 ⟨r.hdr, false, ty, sat, xl, r.d, r.a, r.b, r.c⟩)
/-- R108. -/
def bImad64I (r : Raw) : Except Cause Instr := do
  let (ty, sat, xl) ← r.i64
  cls (wOk r.d && wOk r.c)
  zero (r.b == 0)
  pure (.imad64Imm ⟨r.hdr, false, ty, sat, xl, r.d, r.a, r.imm, r.c⟩)

/-- TYPE .b32 or .s32 in the vector form without SAT, and the condition (R106). -/
def Raw.icmp (r : Raw) : Except Cause (ICond × Bool × XL) := do
  need (r.m.extractLsb' 5 3 == 0 && !r.m.getLsbD 3) 0x045
  let cond ← ICond.ofBits (r.m.extractLsb' 0 3)
  let xl ← r.xl XL.ok
  pure (cond, r.m.getLsbD 4, xl)
/-- R106. -/
def bIcmp (r : Raw) : Except Cause Instr := do
  let (cond, sgn, xl) ← r.icmp
  cls (pdOk r.d)
  zero (r.c == 0)
  pure (.icmp ⟨r.hdr, cond, sgn, xl, r.d, r.a, r.b⟩)
/-- R106. -/
def bIcmpI (r : Raw) : Except Cause Instr := do
  let (cond, sgn, xl) ← r.icmp
  cls (pdOk r.d)
  zero (r.b == 0 && r.c == 0)
  pure (.icmpImm ⟨r.hdr, cond, sgn, xl, r.d, r.a, r.imm⟩)
/-- R106. -/
def bSel (r : Raw) : Except Cause Instr := do
  r.m0
  let xl ← r.xl XL.ok
  cls (pOk r.c)
  pure (.sel ⟨r.hdr, xl, r.d, r.a, r.b, r.c⟩)
/-- R106. -/
def bSelI (r : Raw) : Except Cause Instr := do
  r.m0
  let xl ← r.xl XL.ok
  cls (pOk r.c)
  zero (r.b == 0)
  pure (.selImm ⟨r.hdr, xl, r.d, r.a, r.imm, r.c⟩)

/-- OPM of MOV 0x019 (R110). -/
def MovForm.ofBits (b : BitVec 3) : Except Cause MovForm :=
  if b = 0 then .ok .plain else if b = 1 then .ok .lo else if b = 2 then .ok .hi else if b = 3 then .ok .tos
  else if b = 4 then .ok .tohi else .error 0x045
/-- See `MovForm.ofBits`. -/
def MovForm.bits : MovForm → BitVec 3
  | .plain => 0 | .lo => 1 | .hi => 2 | .tos => 3 | .tohi => 4

/-- Modifiers of MOV (R110). -/
def movMod (f : MovForm) (s : Bool) (ty : ITy) : Bool :=
  match f with
  | .plain => !ty.wide || s
  | .lo | .hi | .tos | .tohi => !s && ty == .b32
/-- Cross-lane rule of MOV (R110). -/
def movXl (f : MovForm) (s : Bool) (x : XL) : Bool :=
  match f with
  | .plain => xlY s x
  | .lo | .hi => x == XL.off
  | .tos | .tohi => x.ok
/-- Operand classes of MOV (R110). -/
def movCls (f : MovForm) (s : Bool) (d a : RegNo) : Bool :=
  match f with
  | .plain => yOk s d && yOk s a
  | .lo | .hi => sOk a
  | .tos | .tohi => sOk d
/-- R110. -/
def bMov (r : Raw) : Except Cause Instr := do
  let ty ← ITy.ofBits (r.m.extractLsb' 4 3)
  let f ← MovForm.ofBits (r.m.extractLsb' 0 3)
  let s := r.m.getLsbD 7
  need (movMod f s ty && !r.m.getLsbD 3) 0x045
  let xl ← r.xl (movXl f s)
  cls (movCls f s r.d r.a)
  zero (r.b == 0 && r.c == 0)
  pure (.movReg ⟨r.hdr, f, s, ty, xl, r.d, r.a⟩)
/-- R55, R110. -/
def bMovi (r : Raw) : Except Cause Instr := do
  let ty ← ITy.ofBits (r.m.extractLsb' 4 3)
  let s := r.m.getLsbD 7
  need ((!ty.wide || s) && r.m.extractLsb' 0 4 == 0) 0x045
  let xl ← r.xl (xlY s)
  cls (yOk s r.d)
  zero (r.a == 0 && r.b == 0 && r.c == 0)
  pure (.movi ⟨r.hdr, s, ty, xl, r.d, r.imm⟩)
/-- R110: MOV from and to special registers. -/
def bMovSrc (r : Raw) : Except Cause Instr := do
  r.m0; r.x0
  cls (nSrcOk r.a)
  zero (r.b == 0 && r.c == 0)
  pure (.movSpecialSource ⟨r.hdr, r.d, r.a⟩)
/-- See `bMovSrc`. -/
def bMovDst (r : Raw) : Except Cause Instr := do
  r.m0; r.x0
  cls (nDstOk r.d)
  zero (r.b == 0 && r.c == 0)
  pure (.movSpecialDestination ⟨r.hdr, r.d, r.a⟩)

/-- S and TYPE of LEA (R107). -/
def Raw.lea (r : Raw) : Except Cause (Bool × Bool × XL) := do
  let s := r.m.getLsbD 7
  let wide := r.m.getLsbD 5
  need (!r.m.getLsbD 6 && r.m.extractLsb' 0 5 == 0 && (!wide || s)) 0x045
  let xl ← r.xl (xlY s)
  pure (s, wide, xl)
/-- R107. -/
def bLea (r : Raw) : Except Cause Instr := do
  let (s, wide, xl) ← r.lea
  cls (yOk s r.d && yOk s r.a && yOk s r.b && shOk r.c)
  pure (.lea ⟨r.hdr, s, wide, xl, r.d, r.a, r.b, r.c⟩)
/-- R107. -/
def bLeaI (r : Raw) : Except Cause Instr := do
  let (s, wide, xl) ← r.lea
  cls (yOk s r.d && yOk s r.a && shOk r.c)
  zero (r.b == 0)
  pure (.leaImm ⟨r.hdr, s, wide, xl, r.d, r.a, r.imm, r.c⟩)

/-- Narrow width of ICVT (R109). -/
def CvtW.ofBits (b : BitVec 3) : Except Cause CvtW :=
  if b = 0 then .ok .w8 else if b = 1 then .ok .w16 else if b = 2 then .ok .w32 else .error 0x045
/-- See `CvtW.ofBits`. -/
def CvtW.bits : CvtW → BitVec 3
  | .w8 => 0 | .w16 => 1 | .w32 => 2
/-- R109. -/
def bIcvt (r : Raw) : Except Cause Instr := do
  let ty ← ITy.ofBits (r.m.extractLsb' 4 3)
  let w ← CvtW.ofBits (r.m.extractLsb' 0 3)
  let s := r.m.getLsbD 7
  need ((!ty.wide || s) && (w != .w32 || (s && ty.wide))) 0x045
  let xl ← r.xl (xlY s)
  cls (yOk s r.d && yOk s r.a)
  zero (r.b == 0 && r.c == 0)
  pure (.icvt ⟨r.hdr, s, ty, r.m.getLsbD 3, w, xl, r.d, r.a⟩)

/-- SAT, FTZ, TYPE and RND, and the modifier (R49). -/
def Raw.fp (r : Raw) (l : FpLegal) : Except Cause (Bool × Bool × FTy × Rnd × XL) := do
  let ty ← FTy.ofBits (r.m.extractLsb' 3 3)
  let rnd ← Rnd.ofBits (r.m.extractLsb' 0 3)
  let sat := r.m.getLsbD 7
  let ftz := r.m.getLsbD 6
  need (l.ok ty rnd sat ftz) 0x045
  let xl ← r.xl XL.ok
  pure (sat, ftz, ty, rnd, xl)
/-- M of the floating-point group (R49). -/
def fpBits (sat ftz : Bool) (ty : FTy) (rnd : BitVec 3) : BitVec 8 := bit1 sat ++ bit1 ftz ++ ty.bits ++ rnd
/-- Floating-point shapes (R111). -/
def bFp2 (k : Fp2 → Instr) (l : FpLegal) (r : Raw) : Except Cause Instr := do
  let (sat, ftz, ty, rnd, xl) ← r.fp l
  zero (r.b == 0 && r.c == 0)
  pure (k ⟨r.hdr, sat, ftz, ty, rnd, xl, r.d, r.a⟩)
/-- See `bFp2`; `w`: the operands are pairs. -/
def bFp3 (k : Fp3 → Instr) (l : FpLegal) (w : Bool) (r : Raw) : Except Cause Instr := do
  let (sat, ftz, ty, rnd, xl) ← r.fp l
  cls (vwOk w r.d && vwOk w r.a && vwOk w r.b)
  zero (r.c == 0)
  pure (k ⟨r.hdr, sat, ftz, ty, rnd, xl, r.d, r.a, r.b⟩)
/-- See `bFp3`. -/
def bFp4 (k : Fp4 → Instr) (l : FpLegal) (w : Bool) (r : Raw) : Except Cause Instr := do
  let (sat, ftz, ty, rnd, xl) ← r.fp l
  cls (vwOk w r.d && vwOk w r.a && vwOk w r.b && vwOk w r.c)
  pure (k ⟨r.hdr, sat, ftz, ty, rnd, xl, r.d, r.a, r.b, r.c⟩)
/-- See `bFp2`; `p`: IMM32 carries both halves (R55). -/
def bFp3I (k : Fp3I → Instr) (l : FpLegal) (p : Bool) (r : Raw) : Except Cause Instr := do
  let (sat, ftz, ty, rnd, xl) ← r.fp l
  zero (r.b == 0 && r.c == 0 && immF p ty r.imm)
  pure (k ⟨r.hdr, sat, ftz, ty, rnd, xl, r.d, r.a, r.imm⟩)
/-- See `bFp3I`. -/
def bFp4I (k : Fp4I → Instr) (l : FpLegal) (p : Bool) (r : Raw) : Except Cause Instr := do
  let (sat, ftz, ty, rnd, xl) ← r.fp l
  zero (r.b == 0 && immF p ty r.imm)
  pure (k ⟨r.hdr, sat, ftz, ty, rnd, xl, r.d, r.a, r.imm, r.c⟩)
/-- NEG, FTZ, TYPE and COND (R113). -/
def Raw.fcmp (r : Raw) (tys : List FTy) : Except Cause (Bool × Bool × FTy × FCond × XL) := do
  let ty ← FTy.ofBits (r.m.extractLsb' 3 3)
  let cond ← FCond.ofBits (r.m.extractLsb' 0 3)
  need (tys.contains ty) 0x045
  let xl ← r.xl XL.ok
  pure (r.m.getLsbD 7, r.m.getLsbD 6, ty, cond, xl)
/-- R113. -/
def bFcmp (k : FCmp → Instr) (tys : List FTy) (w : Bool) (r : Raw) : Except Cause Instr := do
  let (neg, ftz, ty, cond, xl) ← r.fcmp tys
  cls (pdOk r.d && vwOk w r.a && vwOk w r.b)
  zero (r.c == 0)
  pure (k ⟨r.hdr, neg, ftz, ty, cond, xl, r.d, r.a, r.b⟩)
/-- R113. -/
def bFcmpI (r : Raw) : Except Cause Instr := do
  let (neg, ftz, ty, cond, xl) ← r.fcmp ty3
  cls (pdOk r.d)
  zero (r.b == 0 && r.c == 0 && immF false ty r.imm)
  pure (.fcmpImm ⟨r.hdr, neg, ftz, ty, cond, xl, r.d, r.a, r.imm⟩)
/-- R118. -/
def bConv (k : FConv → Instr) (op : Nat) (l : FpLegal) (r : Raw) : Except Cause Instr := do
  let ty ← FTy.ofBits (r.m.extractLsb' 3 3)
  let rnd ← Rnd.ofBits (r.m.extractLsb' 0 3)
  let sat := r.m.getLsbD 7
  let bit := r.m.getLsbD 6
  need (l.ok ty rnd sat false) 0x045
  let xl ← r.xl XL.ok
  cls (vwOk (convD op ty bit) r.d && vwOk (convA op ty bit) r.a)
  zero (r.b == 0 && r.c == 0)
  pure (k ⟨r.hdr, sat, bit, ty, rnd, xl, r.d, r.a⟩)

/-- R121. -/
def bQfmt (r : Raw) : Except Cause Instr := do
  r.m0; r.x0
  cls (fOk r.d && sOk r.a)
  zero (r.b == 0 && r.c == 0)
  pure (.qfmt ⟨r.hdr, r.d, r.a⟩)
/-- R121. -/
def bQfmtI (r : Raw) : Except Cause Instr := do
  r.m0; r.x0
  cls (fOk r.d)
  zero (r.a == 0 && r.b == 0 && r.c == 0)
  pure (.qfmtImm ⟨r.hdr, r.d, r.imm⟩)
/-- R122. -/
def bQpack (r : Raw) : Except Cause Instr := do
  let rnd ← Rnd.ofBits (r.m.extractLsb' 0 3)
  need (!r.m.getLsbD 3) 0x045
  let xl ← r.xl XL.ok
  cls (fOk r.c)
  pure (.qpack ⟨r.hdr, r.m.getLsbD 7, r.m.extractLsb' 4 3, rnd, xl, r.d, r.a, r.b, r.c⟩)
/-- R123. -/
def bQunpack (r : Raw) : Except Cause Instr := do
  r.m0
  let xl ← r.xl XL.ok
  cls (elemOk r.b && fOk r.c)
  pure (.qunpack ⟨r.hdr, xl, r.d, r.a, r.b, r.c⟩)
/-- R124. -/
def bBscale (r : Raw) : Except Cause Instr := do
  let rnd ← Rnd.ofBits (r.m.extractLsb' 0 3)
  need (r.m.extractLsb' 4 2 == 0) 0x045
  let xl ← r.xl XL.ok
  zero (r.c == 0)
  pure (.bscale ⟨r.hdr, r.m.getLsbD 7, r.m.getLsbD 6, r.m.getLsbD 3, rnd, xl, r.d, r.a, r.b⟩)
/-- R125. -/
def bSrseed (r : Raw) : Except Cause Instr := do
  r.m0
  let xl ← r.xl XL.ok
  zero (r.d == 0 && r.b == 0 && r.c == 0)
  pure (.srseed ⟨r.hdr, xl, r.a⟩)
/-- R126. -/
def bPerm (r : Raw) : Except Cause Instr := do
  need (r.m.extractLsb' 1 7 == 0) 0x045
  r.x0
  zero (r.c == 0)
  pure (.perm ⟨r.hdr, r.m.getLsbD 0, r.d, r.a, r.b⟩)
/-- Mode of VOTE (R127). -/
def VoteMode.ofBits (b : BitVec 2) : VoteMode :=
  if b = 0 then .ballot else if b = 1 then .any else if b = 2 then .all else .uni
/-- See `VoteMode.ofBits`. -/
def VoteMode.bits : VoteMode → BitVec 2
  | .ballot => 0 | .any => 1 | .all => 2 | .uni => 3
/-- R127. -/
def bVote (r : Raw) : Except Cause Instr := do
  need (r.m == 0 && r.x.extractLsb' 2 6 == 0) 0x045
  cls (sOk r.d && pOk r.a)
  zero (r.b == 0 && r.c == 0)
  pure (.vote ⟨r.hdr, VoteMode.ofBits (r.x.extractLsb' 0 2), r.d, r.a⟩)
/-- Operation of WRED and WSCAN (R128). -/
def RedOp.ofBits (b : BitVec 4) : Except Cause RedOp :=
  if b = 0 then .ok .iadd else if b = 1 then .ok .iminS else if b = 2 then .ok .imaxS else if b = 3 then .ok .iminB
  else if b = 4 then .ok .imaxB else if b = 5 then .ok .and else if b = 6 then .ok .or else if b = 7 then .ok .xor
  else if b = 8 then .ok .fadd else if b = 9 then .ok .fmin else if b = 10 then .ok .fmax else .error 0x045
/-- See `RedOp.ofBits`. -/
def RedOp.bits : RedOp → BitVec 4
  | .iadd => 0 | .iminS => 1 | .imaxS => 2 | .iminB => 3 | .imaxB => 4 | .and => 5 | .or => 6 | .xor => 7
  | .fadd => 8 | .fmin => 9 | .fmax => 10
/-- R128. -/
def bWred (r : Raw) : Except Cause Instr := do
  let op ← RedOp.ofBits (r.x.extractLsb' 0 4)
  need (r.m == 0 && r.x.extractLsb' 4 4 == 0) 0x045
  zero (r.b == 0 && r.c == 0)
  pure (.wred ⟨r.hdr, op, r.d, r.a⟩)
/-- R128. -/
def bWscan (r : Raw) : Except Cause Instr := do
  let op ← RedOp.ofBits (r.x.extractLsb' 0 4)
  need (r.m == 0 && r.x.extractLsb' 5 3 == 0) 0x045
  zero (r.b == 0 && r.c == 0)
  pure (.wscan ⟨r.hdr, r.x.getLsbD 4, op, r.d, r.a⟩)
/-- R129. -/
def bMatch (r : Raw) : Except Cause Instr := do
  need (r.m == 0 && r.x.extractLsb' 1 7 == 0) 0x045
  cls (vwOk (r.x.getLsbD 0) r.a)
  zero (r.b == 0 && r.c == 0)
  pure (.matchLanes ⟨r.hdr, r.x.getLsbD 0, r.d, r.a⟩)
/-- R64, R130. -/
def bMovx (r : Raw) : Except Cause Instr := do
  need (r.m.extractLsb' 0 6 == 0) 0x045
  r.x0
  cls (yOk (r.m.getLsbD 7) r.a)
  zero (r.c == 0)
  pure (.movx ⟨r.hdr, r.m.getLsbD 7, r.m.getLsbD 6, r.d, r.a, r.b⟩)
/-- R64, R130. -/
def bMovxw (r : Raw) : Except Cause Instr := do
  need (r.m.extractLsb' 0 6 == 0) 0x045
  r.x0
  cls (yOk (r.m.getLsbD 7) r.d)
  zero (r.c == 0)
  pure (.movxw ⟨r.hdr, r.m.getLsbD 7, r.m.getLsbD 6, r.d, r.a, r.b⟩)
/-- R74. -/
def bSpill (r : Raw) : Except Cause Instr := do
  need (r.m.extractLsb' 2 6 == 0) 0x045
  r.x0
  cls (sOk r.b)
  zero (r.d == 0 && r.c == 0)
  pure (.spill ⟨r.sw, r.m.getLsbD 1, r.m.getLsbD 0, r.a, r.b, r.imm⟩)
/-- R74. -/
def bFill (r : Raw) : Except Cause Instr := do
  need (r.m.extractLsb' 1 7 == 0) 0x045
  r.x0
  cls (sOk r.b)
  zero (r.a == 0 && r.c == 0)
  pure (.fill ⟨r.sw, r.m.getLsbD 0, r.d, r.b, r.imm⟩)

/-! ### Shapes of the control, engine and system groups: M and X are 0 -/

/-- No operand field. -/
def bNone (k : Hdr → Instr) (r : Raw) : Except Cause Instr := do
  r.m0; r.x0
  zero (r.d == 0 && r.a == 0 && r.b == 0 && r.c == 0)
  pure (k r.hdr)
/-- A alone. -/
def bHA (k : HA → Instr) (ok : RegNo → Bool) (r : Raw) : Except Cause Instr := do
  r.m0; r.x0
  cls (ok r.a)
  zero (r.d == 0 && r.b == 0 && r.c == 0)
  pure (k ⟨r.hdr, r.a⟩)
/-- B alone. -/
def bHB (k : HB → Instr) (r : Raw) : Except Cause Instr := do
  r.m0; r.x0
  zero (r.d == 0 && r.a == 0 && r.c == 0)
  pure (k ⟨r.hdr, r.b⟩)
/-- D alone. -/
def bHD (k : HD → Instr) (ok : RegNo → Bool) (r : Raw) : Except Cause Instr := do
  r.m0; r.x0
  cls (ok r.d)
  zero (r.a == 0 && r.b == 0 && r.c == 0)
  pure (k ⟨r.hdr, r.d⟩)
/-- IMM32 alone. -/
def bHI (k : HI → Instr) (r : Raw) : Except Cause Instr := do
  r.m0; r.x0
  zero (r.d == 0 && r.a == 0 && r.b == 0 && r.c == 0)
  pure (k ⟨r.hdr, r.imm⟩)
/-- D and A. -/
def bHDA (k : HDA → Instr) (okd oka : RegNo → Bool) (r : Raw) : Except Cause Instr := do
  r.m0; r.x0
  cls (okd r.d && oka r.a)
  zero (r.b == 0 && r.c == 0)
  pure (k ⟨r.hdr, r.d, r.a⟩)
/-- D and B. -/
def bHDB (k : HDB → Instr) (okd okb : RegNo → Bool) (r : Raw) : Except Cause Instr := do
  r.m0; r.x0
  cls (okd r.d && okb r.b)
  zero (r.a == 0 && r.c == 0)
  pure (k ⟨r.hdr, r.d, r.b⟩)
/-- D and IMM32. -/
def bHDI (k : HDI → Instr) (ok : RegNo → Bool) (iok : Word → Bool) (r : Raw) : Except Cause Instr := do
  r.m0; r.x0
  cls (ok r.d)
  zero (r.a == 0 && r.b == 0 && r.c == 0 && iok r.imm)
  pure (k ⟨r.hdr, r.d, r.imm⟩)
/-- A and IMM32. -/
def bHAI (k : HAI → Instr) (ok : RegNo → Bool) (r : Raw) : Except Cause Instr := do
  r.m0; r.x0
  cls (ok r.a)
  zero (r.d == 0 && r.b == 0 && r.c == 0)
  pure (k ⟨r.hdr, r.a, r.imm⟩)
/-- A, B and IMM32. -/
def bHABI (k : HABI → Instr) (oka okb : RegNo → Bool) (r : Raw) : Except Cause Instr := do
  r.m0; r.x0
  cls (oka r.a && okb r.b)
  zero (r.d == 0 && r.c == 0)
  pure (k ⟨r.hdr, r.a, r.b, r.imm⟩)
/-- D, A and IMM32. -/
def bHDAI (k : HDAI → Instr) (okd oka : RegNo → Bool) (r : Raw) : Except Cause Instr := do
  r.m0; r.x0
  cls (okd r.d && oka r.a)
  zero (r.b == 0 && r.c == 0)
  pure (k ⟨r.hdr, r.d, r.a, r.imm⟩)
/-- BRA (R52). -/
def bBra (r : Raw) : Except Cause Instr := do
  r.m0; r.x0
  zero (r.d == 0 && r.a == 0 && r.b == 0 && r.c == 0)
  pure (.bra ⟨r.hdr, r.ext.extractLsb' 0 32, r.ext.extractLsb' 32 32⟩)
/-- TRAMP (R54). -/
def bTramp (r : Raw) : Except Cause Instr := do
  zero (r.x.extractLsb' 6 2 == 0)
  pure (.tramp ⟨r.sw, (r.x ++ r.m ++ r.c ++ r.b ++ r.a ++ r.d).extractLsb' 0 46⟩)

/-! ### The memory group (R50, R169) -/

/-- Loads. -/
def bLoad (k : Load → Instr) (gc rmt fe : Bool) (r : Raw) : Except Cause Instr := do
  let mm ← r.mem
  let spc ← Space.ofBits (r.x.extractLsb' 0 2)
  let sx := r.x.getLsbD 3
  need (loadOrd mm.ord && ordOk mm.ord mm.scope && sxOk sx mm.size && (spc == .dflt || (gc && spc == .gc)) &&
    (!fe || (mm.size == .b32 && !sx)) && r.x.extractLsb' 4 4 == 0 && !r.x.getLsbD 2) 0x045
  cls (zOk mm.size r.d)
  let m ← r.memOp (r.a == 0 && r.b == 0 && r.c == 0) rmt
  pure (k ⟨r.hdr, sx, spc, mm.scope, mm.ord, mm.size, r.d, m⟩)
/-- Stores. -/
def bStore (k : Store → Instr) (rmt fe : Bool) (r : Raw) : Except Cause Instr := do
  let mm ← r.mem
  need (storeOrd mm.ord && ordOk mm.ord mm.scope && (!fe || mm.size == .b32) && r.x == 0) 0x045
  cls (zOk mm.size r.a)
  let m ← r.memOp (r.d == 0 && r.b == 0 && r.c == 0) rmt
  pure (k ⟨r.hdr, mm.scope, mm.ord, mm.size, r.a, m⟩)
/-- FEST. -/
def bFest (r : Raw) : Except Cause Instr := do
  let mm ← r.mem
  need (storeOrd mm.ord && ordOk mm.ord mm.scope && mm.size == .b32 && r.x == 0) 0x045
  cls (bitOk r.b)
  let m ← r.memOp (r.d == 0 && r.a == 0 && r.c == 0) true
  pure (.fest ⟨r.hdr, mm.scope, mm.ord, r.b == 1, m⟩)
/-- PFCH and CFLUSH. -/
def bLine (k : Line → Instr) (r : Raw) : Except Cause Instr := do
  need (r.m == 0 && r.x == 0) 0x045
  let m ← r.memOp (r.d == 0 && r.a == 0 && r.b == 0 && r.c == 0) false
  pure (k ⟨r.hdr, m⟩)
/-- M and X of an atomic. -/
def Raw.atom (r : Raw) : Except Cause (MemM × AOp × Bool) := do
  let mm ← r.mem
  let aop ← AOp.ofBits (r.x.extractLsb' 4 4)
  let spc ← Space.ofBits (r.x.extractLsb' 0 2)
  need ((mm.size == .b32 || mm.size == .b64) && ordOk mm.ord mm.scope && (aop != .fadd || mm.size == .b32) &&
    spc != .gc && r.x.extractLsb' 2 2 == 0) 0x045
  pure (mm, aop, spc == .sp)
/-- The B field of an atomic that is unused for every operation but .cas. -/
def casUnused (aop : AOp) (b : RegNo) : Bool := aop == .cas || b == 0
/-- ATOM. -/
def bAtom (r : Raw) : Except Cause Instr := do
  let (mm, aop, sp) ← r.atom
  cls (zOk mm.size r.a && (aop != .cas || zOk mm.size r.b))
  let m ← r.memOp (r.d == 0 && r.c == 0 && casUnused aop r.b) sp
  pure (.atom ⟨r.hdr, aop, sp, mm.scope, mm.ord, mm.size == .b64, r.a, r.b, m⟩)
/-- ATOMR. -/
def bAtomr (r : Raw) : Except Cause Instr := do
  let (mm, aop, sp) ← r.atom
  cls (zOk mm.size r.d && zOk mm.size r.a && (aop != .cas || zOk mm.size r.b))
  let m ← r.memOp (r.c == 0 && casUnused aop r.b) sp
  pure (.atomr ⟨r.hdr, aop, sp, mm.scope, mm.ord, mm.size == .b64, r.d, r.a, r.b, m⟩)
/-- FENCE (R199). -/
def bFence (r : Raw) : Except Cause Instr := do
  let mm ← r.mem
  need (mm.ord != .plain && mm.size == .b8) 0x045
  r.x0
  zero (r.d == 0 && r.a == 0 && r.b == 0 && r.c == 0)
  pure (.fence ⟨r.hdr, mm.scope, mm.ord⟩)
/-- FENCEP (R374). -/
def bFencep (r : Raw) : Except Cause Instr := do
  let mm ← r.mem
  need (mm.ord != .plain && mm.size == .b8 && r.x.extractLsb' 4 4 != 0 && r.x.extractLsb' 0 4 != 0) 0x045
  zero (r.d == 0 && r.a == 0 && r.b == 0 && r.c == 0)
  pure (.fencep ⟨r.hdr, mm.scope, mm.ord, r.x.extractLsb' 4 4, r.x.extractLsb' 0 4⟩)
/-- PROMOTE (R200): its own rule gives a nonzero D, A, B or C cause 0x045 (log entry 83). -/
def bPromote (r : Raw) : Except Cause Instr := do
  let mm ← r.mem
  let spc ← Space.ofBits (r.x.extractLsb' 0 2)
  need (mm.ord == .acqrel && (mm.size == .b32 || mm.size == .b64) && mm.scope != .warp && mm.scope != .team &&
    spc != .gc && r.x.extractLsb' 2 6 == 0 && r.d == 0 && r.a == 0 && r.b == 0 && r.c == 0) 0x045
  let m ← r.memOp true (spc == .sp)
  pure (.promote ⟨r.hdr, spc == .sp, mm.scope, mm.size == .b64, m⟩)
/-- VAT (R299). -/
def bVat (r : Raw) : Except Cause Instr := do
  let mm ← r.mem
  let sx := r.x.getLsbD 3
  need (loadOrd mm.ord && ordOk mm.ord mm.scope && sxOk sx mm.size && r.x.extractLsb' 4 4 == 0 &&
    r.x.extractLsb' 0 3 == 0) 0x045
  cls (zOk mm.size r.d && sOk r.b)
  let m ← r.memOp (r.a == 0 && r.c == 0) false
  pure (.vat ⟨r.hdr, sx, mm.scope, mm.ord, mm.size, r.d, r.b, m⟩)
/-- LDRED (R359). -/
def bLdred (r : Raw) : Except Cause Instr := do
  let mm ← r.mem
  need ((mm.ord == .plain && mm.scope == .warp || mm.ord == .acq && mm.scope == .clearing) && r.x == 0) 0x045
  cls (zOk mm.size r.d && sOk r.b)
  let m ← r.memOp (r.a == 0 && r.c == 0) false
  pure (.ldred ⟨r.hdr, mm.ord == .acq, mm.size, r.d, r.b, m⟩)
/-- STMC (R359). -/
def bStmc (r : Raw) : Except Cause Instr := do
  let mm ← r.mem
  need ((mm.ord == .plain && mm.scope == .warp || mm.ord == .rel && mm.scope == .clearing) && r.x == 0) 0x045
  cls (zOk mm.size r.a && sOk r.b)
  let m ← r.memOp (r.d == 0 && r.c == 0) false
  pure (.stmc ⟨r.hdr, mm.ord == .rel, mm.size, r.a, r.b, m⟩)

/-! ### Matrix, queue, copy and stage groups -/

/-- R215. -/
def bBandacq (r : Raw) : Except Cause Instr := do
  need (r.m.extractLsb' 1 7 == 0) 0x045
  r.x0
  cls (sOk r.d)
  zero (r.a == 0 && r.b == 0 && r.c == 0)
  pure (.bandacq ⟨r.hdr, r.m.getLsbD 0, r.d⟩)
/-- R220. -/
def bObres (r : Raw) : Except Cause Instr := do
  r.m0; r.x0
  cls (sOk r.d && sOk r.a)
  zero (r.b == 0 && r.c == 0 && r.ext.extractLsb' 20 12 == 0)
  pure (.obres ⟨r.hdr, r.d, r.a, r.ext.extractLsb' 0 10, r.ext.extractLsb' 10 10⟩)
/-- A matrix-operand specifier (R227). -/
def MatSpec.ofBits (w : Word) : MatSpec where
  src := if w.extractLsb' 30 2 = 0 then .ob else if w.extractLsb' 30 2 = 1 then .sp
    else .remote (w.extractLsb' 21 4) (if w.getLsbD 20 then some (w.extractLsb' 16 4) else none)
  recNo := w.extractLsb' 25 5
  off := w.extractLsb' 0 16
/-- See `MatSpec.ofBits`. -/
def MatSpec.bits (s : MatSpec) : Word :=
  match s.src with
  | .ob => (0 : BitVec 2) ++ s.recNo ++ (0 : BitVec 9) ++ s.off
  | .sp => (1 : BitVec 2) ++ s.recNo ++ (0 : BitVec 9) ++ s.off
  | .remote core none => (2 : BitVec 2) ++ s.recNo ++ core ++ (0 : BitVec 5) ++ s.off
  | .remote core (some grp) => (2 : BitVec 2) ++ s.recNo ++ core ++ (1 : BitVec 1) ++ grp ++ s.off
/-- R227: SRC 11, or a nonzero field that its SRC or MC does not read, is illegal. -/
def matOk (w : Word) : Bool := (MatSpec.ofBits w).bits == w
/-- R227. -/
def bMma (r : Raw) : Except Cause Instr := do
  let sa := r.x.getLsbD 7
  let sb := r.x.getLsbD 6
  need (sa || sb || r.x.extractLsb' 0 6 == 0) 0x045
  cls (r.d.extractLsb' 4 4 == 0)
  zero (r.a == 0 && r.b == 0 && r.c == 0 && matOk (r.ext.extractLsb' 0 32) && matOk (r.ext.extractLsb' 32 32))
  pure (.mma ⟨r.hdr, r.d.extractLsb' 0 2, r.d.getLsbD 2, r.d.getLsbD 3, r.m.getLsbD 7, r.m.extractLsb' 0 7, sa, sb,
    r.x.extractLsb' 0 6, MatSpec.ofBits (r.ext.extractLsb' 0 32), MatSpec.ofBits (r.ext.extractLsb' 32 32)⟩)
/-- Columns of ACCZ (R230). -/
def AccPart.ofBits (b : BitVec 2) : Except Cause AccPart :=
  if b = 0 then .ok .all else if b = 1 then .ok .lo else if b = 2 then .ok .hi else .error 0x047
/-- See `AccPart.ofBits`. -/
def AccPart.bits : AccPart → BitVec 2
  | .all => 0 | .lo => 1 | .hi => 2
/-- R230. -/
def bAccz (r : Raw) : Except Cause Instr := do
  r.m0; r.x0
  let p ← AccPart.ofBits (r.d.extractLsb' 2 2)
  cls (r.d.extractLsb' 4 4 == 0)
  zero (r.a == 0 && r.b == 0 && r.c == 0)
  pure (.accz ⟨r.hdr, r.d.extractLsb' 0 2, p⟩)
/-- IMM32 of ACCRD and ACCWR (R230). -/
def accImmOk (w : Word) : Bool := w.extractLsb' 6 2 == 0 && w.extractLsb' 14 18 == 0
/-- R230. -/
def bAccrd (r : Raw) : Except Cause Instr := do
  r.m0; r.x0
  cls (bandOk r.a)
  zero (r.b == 0 && r.c == 0 && accImmOk r.imm)
  pure (.accrd ⟨r.hdr, r.d, r.a.extractLsb' 0 2, r.imm.extractLsb' 0 6, r.imm.extractLsb' 8 6⟩)
/-- R230. -/
def bAccwr (r : Raw) : Except Cause Instr := do
  r.m0; r.x0
  cls (bandOk r.d)
  zero (r.b == 0 && r.c == 0 && accImmOk r.imm)
  pure (.accwr ⟨r.hdr, r.a, r.d.extractLsb' 0 2, r.imm.extractLsb' 0 6, r.imm.extractLsb' 8 6⟩)
/-- R241. -/
def bQcmd (r : Raw) : Except Cause Instr := do
  let gv := r.m.getLsbD 0
  let sv := r.m.getLsbD 1
  need (r.m.extractLsb' 3 5 == 0 && r.x.extractLsb' 6 2 == 0) 0x045
  cls (qOk r.d && qOk r.a)
  zero (r.b == 0 && r.c == 0 && (gv || r.a == 0) && (sv || r.ext.extractLsb' 48 4 == 0) && r.ext.extractLsb' 52 12 == 0)
  pure (.qcmd ⟨r.hdr, r.d.extractLsb' 0 4, if gv then some (r.a.extractLsb' 0 4) else none,
    if sv then some (r.ext.extractLsb' 48 4) else none, r.m.getLsbD 2, r.x.extractLsb' 0 6, r.ext.extractLsb' 0 32,
    r.ext.extractLsb' 32 16⟩)
/-- R247. -/
def bGclr (r : Raw) : Except Cause Instr := do
  need (r.m.extractLsb' 1 7 == 0) 0x045
  r.x0
  cls (qOk r.d)
  zero (r.a == 0 && r.b == 0 && r.c == 0)
  pure (.gclr ⟨r.hdr, r.m.getLsbD 0, r.d⟩)
/-- R253. -/
def bTkput (r : Raw) : Except Cause Instr := do
  r.m0; r.x0
  cls (s4Ok r.a)
  zero (r.d == 0 && r.b == 0 && r.c == 0 && r.imm.extractLsb' 8 24 == 0)
  pure (.tkput ⟨r.hdr, r.a, r.imm.extractLsb' 0 8⟩)
/-- R261. -/
def bHrec (r : Raw) : Except Cause Instr := do
  r.m0; r.x0
  cls (qOk r.d && sOk r.a)
  zero (r.b == 0 && r.c == 0 && r.ext.extractLsb' 33 31 == 0)
  pure (.hrec ⟨r.hdr, r.d, r.a, r.ext.getLsbD 32, r.ext.extractLsb' 0 32⟩)
/-- DIR (R263). -/
def CopyDir.ofBits (b : BitVec 2) : Except Cause CopyDir :=
  if b = 0 then .ok .g2s else if b = 1 then .ok .s2g else if b = 2 then .ok .g2o else .error 0x048
/-- See `CopyDir.ofBits`. -/
def CopyDir.bits : CopyDir → BitVec 2
  | .g2s => 0 | .s2g => 1 | .g2o => 2
/-- R263. -/
def bCopy (r : Raw) : Except Cause Instr := do
  r.m0; r.x0
  cls (sOk r.d && qOk r.a && sOk r.b && sOk r.c)
  let dir ← CopyDir.ofBits (r.imm.extractLsb' 0 2)
  let bar := r.imm.getLsbD 2
  zero (r.imm.extractLsb' 8 24 == 0 && (bar || r.imm.extractLsb' 3 5 == 0))
  pure (.copy ⟨r.hdr, r.d, r.a, r.b, r.c, dir, if bar then some (r.imm.extractLsb' 3 5) else none⟩)
/-- R279. -/
def bSloop (r : Raw) : Except Cause Instr := do
  r.m0; r.x0
  cls (sOk r.a && slotsOk r.b)
  zero (r.d == 0 && r.c == 0 && r.imm.extractLsb' 21 11 == 0)
  pure (.sloop ⟨r.hdr, r.a, r.b, r.imm.extractLsb' 0 16, r.imm.extractLsb' 16 3, r.imm.getLsbD 19, r.imm.getLsbD 20⟩)
/-- R279. -/
def bWaitl (r : Raw) : Except Cause Instr := do
  r.m0; r.x0
  zero (r.d == 0 && r.a == 0 && r.b == 0 && r.c == 0 && r.imm.extractLsb' 16 16 == 0)
  pure (.waitl ⟨r.hdr, r.imm.extractLsb' 0 16⟩)

/-! ### Fabric, context and trap groups -/

/-- R358. -/
def bAgq (r : Raw) : Except Cause Instr := do
  r.m0; r.x0
  cls (sOk r.d)
  zero (r.a == 0 && r.b == 0 && r.c == 0 && r.imm.getLsbD 9 == false && (r.imm.getLsbD 8 || r.imm.extractLsb' 10 12 == 0) &&
    r.imm.extractLsb' 22 10 == 0)
  pure (.agq ⟨r.hdr, r.d, r.imm.extractLsb' 0 8, if r.imm.getLsbD 8 then some (r.imm.extractLsb' 10 12) else none⟩)
/-- R341. -/
def bFtime (r : Raw) : Except Cause Instr := do
  need (r.m.extractLsb' 1 7 == 0) 0x045
  r.x0
  cls (sOk r.d)
  zero (r.a == 0 && r.b == 0 && r.c == 0)
  pure (.ftime ⟨r.hdr, r.m.getLsbD 0, r.d⟩)
/-- R342. -/
def bSysc (r : Raw) : Except Cause Instr := do
  r.m0; r.x0
  zero (r.d == 0 && r.a == 0 && r.b == 0 && r.c == 0 && r.imm.extractLsb' 16 16 == 0)
  pure (.sysc ⟨r.hdr, r.imm.extractLsb' 0 16⟩)
/-- R383. -/
def bTrap (r : Raw) : Except Cause Instr := do
  r.m0; r.x0
  zero (r.d == 0 && r.a == 0 && r.b == 0 && r.c == 0 && r.imm.extractLsb' 5 27 == 0)
  pure (.trap ⟨r.hdr, r.imm.extractLsb' 0 5⟩)
/-- R383. -/
def bRett (r : Raw) : Except Cause Instr := do
  need (r.m.extractLsb' 1 7 == 0) 0x045
  r.x0
  zero (r.d == 0 && r.a == 0 && r.b == 0 && r.c == 0)
  pure (.rett ⟨r.sw, r.m.getLsbD 0⟩)
/-- R69, R383. -/
def bCsrr (r : Raw) : Except Cause Instr := do
  r.m0; r.x0
  cls (sOk r.d)
  zero (r.a == 0 && r.b == 0 && r.c == 0 && r.imm.extractLsb' 12 20 == 0)
  pure (.csrr ⟨r.hdr, r.d, r.imm.extractLsb' 0 12⟩)
/-- R69, R383. -/
def bCsrw (r : Raw) : Except Cause Instr := do
  r.m0; r.x0
  cls (sOk r.a)
  zero (r.d == 0 && r.b == 0 && r.c == 0 && r.imm.extractLsb' 12 20 == 0)
  pure (.csrw ⟨r.hdr, r.a, r.imm.extractLsb' 0 12⟩)

/-- TRET (R151). -/
def bTret (r : Raw) : Except Cause Instr := do
  r.m0; r.x0
  zero (r.d == 0 && r.a == 0 && r.b == 0 && r.c == 0)
  pure (.tret r.sw)

/-! ### The opcode map (R56) -/

/-- A row of the opcode map: the length the opcode fixes, whether it refuses a guard (R58), and its fields. -/
structure OpRow where
  len : BitVec 2
  bare : Bool
  build : Raw → Except Cause Instr

/-- Opcodes 0x000 to 0x03F (R56). -/
def rowsInt (op : Nat) : Option OpRow :=
  match op with
  | 0x000 => some ⟨0, false, (bInt3 .iadd legArith)⟩
  | 0x001 => some ⟨0, false, (bInt3 .isub legArith)⟩
  | 0x002 => some ⟨0, false, (bInt3 .imul legArith)⟩
  | 0x003 => some ⟨0, false, (bInt3 .imulhi legPlain)⟩
  | 0x004 => some ⟨0, false, (bInt4 .imad legArith)⟩
  | 0x005 => some ⟨0, false, (bInt3 .imin legPlain)⟩
  | 0x006 => some ⟨0, false, (bInt3 .imax legPlain)⟩
  | 0x007 => some ⟨0, false, (bInt2 .iabs legAbs)⟩
  | 0x008 => some ⟨0, false, (bInt2 .ineg legNeg)⟩
  | 0x009 => some ⟨0, false, (bInt3 .and legLogic)⟩
  | 0x00A => some ⟨0, false, (bInt3 .or legLogic)⟩
  | 0x00B => some ⟨0, false, (bInt3 .xor legLogic)⟩
  | 0x00C => some ⟨0, false, (bInt2 .not legLogic)⟩
  | 0x00D => some ⟨0, false, (bInt3 .andn legLogic)⟩
  | 0x00E => some ⟨0, false, (bInt3 .shl legLogic)⟩
  | 0x00F => some ⟨0, false, (bInt3 .shr legLogic)⟩
  | 0x010 => some ⟨0, false, (bInt3 .sar legSar)⟩
  | 0x011 => some ⟨0, false, (bInt3 .rot legLogic)⟩
  | 0x012 => some ⟨0, false, (bInt2 .popc legLogic)⟩
  | 0x013 => some ⟨0, false, (bInt2 .clz legLogic)⟩
  | 0x014 => some ⟨0, false, (bInt2 .brev legLogic)⟩
  | 0x015 => some ⟨0, false, (bInt3 .bfe legPlain)⟩
  | 0x016 => some ⟨0, false, (bInt4 .bfi legLogic)⟩
  | 0x017 => some ⟨0, false, bIcmp⟩
  | 0x018 => some ⟨0, false, bSel⟩
  | 0x019 => some ⟨0, false, bMov⟩
  | 0x01A => some ⟨0, false, bMovSrc⟩
  | 0x01B => some ⟨0, false, bLea⟩
  | 0x01C => some ⟨0, false, bIadd64⟩
  | 0x01D => some ⟨0, false, bImad64⟩
  | 0x01E => some ⟨0, false, bIcvt⟩
  | 0x01F => some ⟨0, false, bMovDst⟩
  | 0x020 => some ⟨1, false, (bInt3I .iaddImm legArith)⟩
  | 0x021 => some ⟨1, false, (bInt3I .isubImm legArith)⟩
  | 0x022 => some ⟨1, false, (bInt3I .imulImm legArith)⟩
  | 0x023 => some ⟨1, false, (bInt3I .imulhiImm legPlain)⟩
  | 0x024 => some ⟨1, false, (bInt4I .imadImm legArith)⟩
  | 0x025 => some ⟨1, false, (bInt3I .iminImm legPlain)⟩
  | 0x026 => some ⟨1, false, (bInt3I .imaxImm legPlain)⟩
  | 0x029 => some ⟨1, false, (bInt3I .andImm legLogic)⟩
  | 0x02A => some ⟨1, false, (bInt3I .orImm legLogic)⟩
  | 0x02B => some ⟨1, false, (bInt3I .xorImm legLogic)⟩
  | 0x02D => some ⟨1, false, (bInt3I .andnImm legLogic)⟩
  | 0x02E => some ⟨1, false, (bInt3I .shlImm legLogic)⟩
  | 0x02F => some ⟨1, false, (bInt3I .shrImm legLogic)⟩
  | 0x030 => some ⟨1, false, (bInt3I .sarImm legSar)⟩
  | 0x031 => some ⟨1, false, (bInt3I .rotImm legLogic)⟩
  | 0x035 => some ⟨1, false, (bInt3I .bfeImm legPlain)⟩
  | 0x036 => some ⟨1, false, (bInt4I .bfiImm legLogic)⟩
  | 0x037 => some ⟨1, false, bIcmpI⟩
  | 0x038 => some ⟨1, false, bSelI⟩
  | 0x039 => some ⟨1, false, bMovi⟩
  | 0x03B => some ⟨1, false, bLeaI⟩
  | 0x03C => some ⟨1, false, bIadd64I⟩
  | 0x03D => some ⟨1, false, bImad64I⟩
  | _ => none

/-- Opcodes 0x040 to 0x07F (R56). -/
def rowsFp (op : Nat) : Option OpRow :=
  match op with
  | 0x040 => some ⟨0, false, (bFp3 .fadd legFp false)⟩
  | 0x041 => some ⟨0, false, (bFp3 .fsub legFp false)⟩
  | 0x042 => some ⟨0, false, (bFp3 .fmul legFp false)⟩
  | 0x043 => some ⟨0, false, (bFp4 .ffma legFp false)⟩
  | 0x044 => some ⟨0, false, (bFp3 .fmin legMinMax false)⟩
  | 0x045 => some ⟨0, false, (bFp3 .fmax legMinMax false)⟩
  | 0x046 => some ⟨0, false, (bFcmp .fcmp ty3 false)⟩
  | 0x047 => some ⟨0, false, (bFp2 .fclass legClass)⟩
  | 0x048 => some ⟨0, false, (bFp2 .frcp legFun)⟩
  | 0x049 => some ⟨0, false, (bFp2 .frsq legFun)⟩
  | 0x04A => some ⟨0, false, (bFp2 .fsqrt legSqrt)⟩
  | 0x04B => some ⟨0, false, (bFp2 .fdivs legClass)⟩
  | 0x04C => some ⟨0, false, (bFp2 .fexp2 legFun)⟩
  | 0x04D => some ⟨0, false, (bFp2 .flog2 legFun)⟩
  | 0x04E => some ⟨0, false, (bFp2 .fsin legFun)⟩
  | 0x04F => some ⟨0, false, (bFp2 .fcos legFun)⟩
  | 0x050 => some ⟨0, false, (bFp2 .ftanh legFun)⟩
  | 0x051 => some ⟨0, false, (bFp2 .frnd legRnd)⟩
  | 0x052 => some ⟨0, false, (bConv .fcvt 0x52 legCvt)⟩
  | 0x053 => some ⟨0, false, (bConv .ftoi 0x53 legFtoi)⟩
  | 0x054 => some ⟨0, false, (bConv .itof 0x54 legItof)⟩
  | 0x055 => some ⟨0, false, (bFp3 .dadd legF64 true)⟩
  | 0x056 => some ⟨0, false, (bFp3 .dmul legF64 true)⟩
  | 0x057 => some ⟨0, false, (bFp4 .dfma legF64 true)⟩
  | 0x058 => some ⟨0, false, (bFcmp .dcmp [.f64] true)⟩
  | 0x059 => some ⟨0, false, (bFp3 .hadd2 legPacked false)⟩
  | 0x05A => some ⟨0, false, (bFp3 .hmul2 legPacked false)⟩
  | 0x05B => some ⟨0, false, (bFp4 .hfma2 legPacked false)⟩
  | 0x05C => some ⟨0, false, (bFp3 .hmin2 legPackedMM false)⟩
  | 0x05D => some ⟨0, false, (bFp3 .hmax2 legPackedMM false)⟩
  | 0x060 => some ⟨1, false, (bFp3I .faddImm legFp false)⟩
  | 0x061 => some ⟨1, false, (bFp3I .fsubImm legFp false)⟩
  | 0x062 => some ⟨1, false, (bFp3I .fmulImm legFp false)⟩
  | 0x063 => some ⟨1, false, (bFp4I .ffmaImm legFp false)⟩
  | 0x064 => some ⟨1, false, (bFp3I .fminImm legMinMax false)⟩
  | 0x065 => some ⟨1, false, (bFp3I .fmaxImm legMinMax false)⟩
  | 0x066 => some ⟨1, false, bFcmpI⟩
  | 0x079 => some ⟨1, false, (bFp3I .hadd2Imm legPacked true)⟩
  | 0x07A => some ⟨1, false, (bFp3I .hmul2Imm legPacked true)⟩
  | 0x07B => some ⟨1, false, (bFp4I .hfma2Imm legPacked true)⟩
  | 0x07C => some ⟨1, false, (bFp3I .hmin2Imm legPackedMM true)⟩
  | 0x07D => some ⟨1, false, (bFp3I .hmax2Imm legPackedMM true)⟩
  | _ => none

/-- Opcodes 0x080 to 0x09F (R56). -/
def rowsLane (op : Nat) : Option OpRow :=
  match op with
  | 0x080 => some ⟨0, false, bQfmt⟩
  | 0x081 => some ⟨0, false, bQpack⟩
  | 0x082 => some ⟨0, false, bQunpack⟩
  | 0x083 => some ⟨0, false, bBscale⟩
  | 0x084 => some ⟨0, false, bSrseed⟩
  | 0x085 => some ⟨1, false, bQfmtI⟩
  | 0x088 => some ⟨0, false, bPerm⟩
  | 0x089 => some ⟨0, false, bVote⟩
  | 0x08A => some ⟨0, false, bWred⟩
  | 0x08B => some ⟨0, false, bWscan⟩
  | 0x08C => some ⟨0, false, bMatch⟩
  | 0x08D => some ⟨0, false, bMovx⟩
  | 0x08E => some ⟨0, false, bMovxw⟩
  | 0x090 => some ⟨1, true, bSpill⟩
  | 0x091 => some ⟨1, true, bFill⟩
  | _ => none

/-- Opcodes 0x0A0 to 0x0BF (R56). -/
def rowsFlow (op : Nat) : Option OpRow :=
  match op with
  | 0x0A0 => some ⟨2, false, bBra⟩
  | 0x0A1 => some ⟨1, false, (bHAI .brx wOk)⟩
  | 0x0A2 => some ⟨1, false, (bHDI .call wOk immAny)⟩
  | 0x0A3 => some ⟨1, false, (bHDAI .callx wOk wOk)⟩
  | 0x0A4 => some ⟨0, false, (bHA .ret wOk)⟩
  | 0x0A5 => some ⟨0, false, (bNone .exit)⟩
  | 0x0A6 => some ⟨0, false, (bNone .yield)⟩
  | 0x0A7 => some ⟨0, false, (bNone .nop)⟩
  | 0x0A8 => some ⟨0, false, (bHB .bkpt)⟩
  | 0x0A9 => some ⟨0, true, bTramp⟩
  | 0x0AA => some ⟨0, true, bTret⟩
  | 0x0AB => some ⟨0, false, (bHA .syncw vAny)⟩
  | 0x0AC => some ⟨1, false, (bHI .syncwImm)⟩
  | _ => none

/-- Opcodes 0x0C0 to 0x0FF (R56). -/
def rowsMem (op : Nat) : Option OpRow :=
  match op with
  | 0x0C0 => some ⟨2, false, (bLoad .ld true false false)⟩
  | 0x0C1 => some ⟨2, false, (bStore .st false false)⟩
  | 0x0C2 => some ⟨2, false, (bLoad .lds false true false)⟩
  | 0x0C3 => some ⟨2, false, (bStore .sts true false)⟩
  | 0x0C4 => some ⟨2, false, (bLoad .ldfe false true true)⟩
  | 0x0C5 => some ⟨2, false, (bLoad .ldff false true true)⟩
  | 0x0C6 => some ⟨2, false, (bStore .stef true true)⟩
  | 0x0C7 => some ⟨2, false, (bStore .stf true true)⟩
  | 0x0C8 => some ⟨2, false, bFest⟩
  | 0x0C9 => some ⟨2, false, (bLoad .feq false true true)⟩
  | 0x0CA => some ⟨2, false, (bLine .pfch)⟩
  | 0x0CB => some ⟨2, false, (bLine .cflush)⟩
  | 0x0CC => some ⟨2, false, bAtom⟩
  | 0x0CD => some ⟨2, false, bAtomr⟩
  | 0x0E0 => some ⟨0, false, bFence⟩
  | 0x0E1 => some ⟨0, false, bFencep⟩
  | 0x0E2 => some ⟨2, false, bPromote⟩
  | _ => none

/-- Opcodes 0x100 to 0x12F (R56). -/
def rowsEngine (op : Nat) : Option OpRow :=
  match op with
  | 0x100 => some ⟨1, false, (bHABI .binit sOk sOk)⟩
  | 0x101 => some ⟨1, false, (bHAI .barv sOk)⟩
  | 0x102 => some ⟨1, false, (bHABI .barx sOk sOk)⟩
  | 0x103 => some ⟨1, false, (bHAI .bwait sOk)⟩
  | 0x104 => some ⟨1, false, (bHDAI .btest pdOk sOk)⟩
  | 0x105 => some ⟨1, false, (bHAI .bdrop sOk)⟩
  | 0x110 => some ⟨0, false, bBandacq⟩
  | 0x111 => some ⟨0, false, (bHA .bandrel sOk)⟩
  | 0x112 => some ⟨1, false, bObres⟩
  | 0x113 => some ⟨0, false, (bHA .obrel sOk)⟩
  | 0x114 => some ⟨1, false, (bHABI .obld vAny sOk)⟩
  | 0x115 => some ⟨2, false, bMma⟩
  | 0x116 => some ⟨0, false, bAccz⟩
  | 0x117 => some ⟨1, false, bAccrd⟩
  | 0x118 => some ⟨1, false, bAccwr⟩
  | 0x120 => some ⟨1, false, (bHDI .qbind qOk portWordOk)⟩
  | 0x121 => some ⟨2, false, bQcmd⟩
  | 0x122 => some ⟨0, false, (bHDA .qstat sOk qOk)⟩
  | 0x123 => some ⟨0, false, (bHA .qdrain qOk)⟩
  | 0x124 => some ⟨0, false, (bHD .gset qOk)⟩
  | 0x125 => some ⟨0, false, bGclr⟩
  | 0x128 => some ⟨2, false, bHrec⟩
  | 0x129 => some ⟨1, false, bCopy⟩
  | 0x12A => some ⟨0, false, (bHD .cbatch sOk)⟩
  | 0x12B => some ⟨1, false, (bHI .cwait)⟩
  | 0x12C => some ⟨0, false, (bHA .ccancel sOk)⟩
  | _ => none

/-- Opcodes 0x130 to 0x17F (R56). -/
def rowsObject (op : Nat) : Option OpRow :=
  match op with
  | 0x130 => some ⟨0, false, (bHD .tkget s4Ok)⟩
  | 0x131 => some ⟨1, false, bTkput⟩
  | 0x132 => some ⟨0, false, (bHA .tkdone sOk)⟩
  | 0x140 => some ⟨1, false, bSloop⟩
  | 0x141 => some ⟨0, false, (bHDB .snext sOk pdOk)⟩
  | 0x142 => some ⟨0, false, (bHA .sadv sOk)⟩
  | 0x143 => some ⟨0, false, (bHA .sjmp sOk)⟩
  | 0x144 => some ⟨1, false, bWaitl⟩
  | 0x145 => some ⟨0, false, (bNone .sret)⟩
  | 0x146 => some ⟨0, false, (bNone .sclose)⟩
  | 0x147 => some ⟨0, false, (bHA .waitlReg sOk)⟩
  | 0x150 => some ⟨0, false, (bHA .snap sOk)⟩
  | 0x151 => some ⟨0, false, (bNone .snapx)⟩
  | 0x152 => some ⟨0, false, (bHA .txb sOk)⟩
  | 0x153 => some ⟨0, false, (bHD .txc sOk)⟩
  | 0x154 => some ⟨0, false, (bNone .txa)⟩
  | 0x155 => some ⟨0, false, (bHD .txq sOk)⟩
  | 0x156 => some ⟨2, false, bVat⟩
  | 0x160 => some ⟨0, false, (bHA .postw sOk)⟩
  | 0x168 => some ⟨2, false, bLdred⟩
  | 0x169 => some ⟨2, false, bStmc⟩
  | 0x16A => some ⟨1, false, bAgq⟩
  | 0x16B => some ⟨0, false, bFtime⟩
  | _ => none

/-- Opcodes 0x180 to 0x1BF (R56). -/
def rowsSys (op : Nat) : Option OpRow :=
  match op with
  | 0x180 => some ⟨1, false, bTrap⟩
  | 0x181 => some ⟨0, true, bRett⟩
  | 0x182 => some ⟨1, false, bSysc⟩
  | 0x183 => some ⟨1, false, bCsrr⟩
  | 0x184 => some ⟨1, false, bCsrw⟩
  | 0x185 => some ⟨0, false, (bNone .halt)⟩
  | _ => none

/-- The row of an opcode, if it is assigned (R56). -/
def opRow (op : Nat) : Option OpRow :=
  if op < 0x040 then rowsInt op
  else if op < 0x080 then rowsFp op
  else if op < 0x0A0 then rowsLane op
  else if op < 0x0C0 then rowsFlow op
  else if op < 0x100 then rowsMem op
  else if op < 0x130 then rowsEngine op
  else if op < 0x180 then rowsObject op
  else if op < 0x1C0 then rowsSys op
  else none

/-- The tool-reserved rows (R60): length by opcode. -/
def toolLen (index : Nat) : BitVec 2 := if index < 8 then 0 else if index < 12 then 1 else 2

/-- A tool-reserved word (R60): nothing above bit 15 is examined. -/
def buildTool (index : BitVec 4) (w ext : DWord) : Instr :=
  if index.toNat < 8 then .tool64 ⟨index, w, ext⟩
  else if index.toNat < 12 then .tool96 ⟨index, w, ext⟩
  else .tool128 ⟨index, w, ext⟩

/-- The encoding checks of R59 after 0x049, which fetch makes, and except 0x04B, which depends on the state: the
instruction of the fields, or the first cause. `w` is word 0. -/
def decodeRaw (w : DWord) (r : Raw) : Except Cause Instr :=
  let op := r.op.toNat
  if 0x1F0 ≤ op then
    if r.len = toolLen (op - 0x1F0) then .ok (buildTool (r.op.extractLsb' 0 4) w r.ext) else .error 0x043
  else if 0x1C0 ≤ op then .error 0x041
  else
    match opRow op with
    | none => .error 0x042
    | some row =>
      if r.len ≠ row.len then .error 0x043
      else if r.g = 15 then .error 0x044
      else if row.bare && r.g ≠ 7 then .error 0x04A
      else row.build r

/-- Decoding of any word 0 and following bytes: total, with a word that fails a check named by its cause (R59). A pad
word never reaches decoding (R47). -/
def decode (w ext : DWord) : Instr :=
  match decodeRaw w (unpack w ext) with
  | .ok i => i
  | .error c => .illegalEncoding ⟨c, lenBytes (w.extractLsb' 0 2), w, trimExt (w.extractLsb' 0 2) ext⟩

/-- Bytes of a word, lowest first (R1). -/
def wordBytes : Nat → DWord → List Byte
  | 0, _ => []
  | n + 1, w => w.setWidth 8 :: wordBytes n (w >>> 8)

/-- The word of up to eight bytes, lowest first (R1). -/
def bytesWord : List Byte → DWord
  | [] => 0
  | b :: bs => b.setWidth 64 ||| (bytesWord bs <<< 8)

/-- Decoding of a list of bytes that starts with an instruction's first byte, and the bytes after it; none where there
are too few bytes or the first word is a pad word (R46, R47). -/
def decodeBytes (bs : List Byte) : Option (Instr × List Byte) :=
  if bs.length < 8 then none
  else
    let w := bytesWord (bs.take 8)
    let n := lenBytes (w.extractLsb' 0 2)
    if n = 4 || bs.length < n then none
    else some (decode w (bytesWord ((bs.drop 8).take (n - 8))), bs.drop n)

/-- The instruction that the decoder reads from an instruction whose bits are `w`, in the numbering of the opcode table,
where every bit above `nbits` is 0. -/
def decodeTableWord (nbits w : Nat) : Option Instr :=
  let v := w % 2 ^ nbits
  let w0 : DWord := BitVec.ofNat 64 v
  let ext : DWord := BitVec.ofNat 64 (v / 2 ^ 64)
  match decodeRaw w0 (unpack w0 ext) with
  | .ok i => some i
  | .error _ => none

/-! ### The encoder -/

/-- Fields of an instruction with M, X and operand fields given (R45). -/
def enc (op : Nat) (len : BitVec 2) (h : Hdr) (d a b c m x : BitVec 8) (ext : DWord) : Raw :=
  ⟨x, m, c, b, a, d, BitVec.ofNat 9 op, h.g.bits, h.sw, len, ext⟩

/-- The unguarded header of SPILL, FILL, TRAMP, TRET and RETT (R58). -/
def bareHdr (sw : Bool) : Hdr := ⟨⟨false, 7⟩, sw⟩

/-- IMM32 as the extension (R46). -/
def immExt (i : Word) : DWord := i.setWidth 64

/-- Integer shapes. -/
def eInt2 (op : Nat) (i : Int2) : Raw := enc op 0 i.h i.d i.a 0 0 (intBits i.s i.ty i.sat 0) i.xl.bits 0
/-- See `eInt2`. -/
def eInt3 (op : Nat) (i : Int3) : Raw := enc op 0 i.h i.d i.a i.b 0 (intBits i.s i.ty i.sat 0) i.xl.bits 0
/-- See `eInt2`. -/
def eInt3I (op : Nat) (i : Int3I) : Raw := enc op 1 i.h i.d i.a 0 0 (intBits i.s i.ty i.sat 0) i.xl.bits (immExt i.imm)
/-- See `eInt2`. -/
def eInt4 (op : Nat) (i : Int4) : Raw := enc op 0 i.h i.d i.a i.b i.c (intBits i.s i.ty i.sat 0) i.xl.bits 0
/-- See `eInt2`. -/
def eInt4I (op : Nat) (i : Int4I) : Raw :=
  enc op 1 i.h i.d i.a 0 i.c (intBits i.s i.ty i.sat 0) i.xl.bits (immExt i.imm)
/-- Floating-point shapes. -/
def eFp2 (op : Nat) (i : Fp2) : Raw := enc op 0 i.h i.d i.a 0 0 (fpBits i.sat i.ftz i.ty i.rnd.bits) i.xl.bits 0
/-- See `eFp2`. -/
def eFp3 (op : Nat) (i : Fp3) : Raw := enc op 0 i.h i.d i.a i.b 0 (fpBits i.sat i.ftz i.ty i.rnd.bits) i.xl.bits 0
/-- See `eFp2`. -/
def eFp3I (op : Nat) (i : Fp3I) : Raw :=
  enc op 1 i.h i.d i.a 0 0 (fpBits i.sat i.ftz i.ty i.rnd.bits) i.xl.bits (immExt i.imm)
/-- See `eFp2`. -/
def eFp4 (op : Nat) (i : Fp4) : Raw := enc op 0 i.h i.d i.a i.b i.c (fpBits i.sat i.ftz i.ty i.rnd.bits) i.xl.bits 0
/-- See `eFp2`. -/
def eFp4I (op : Nat) (i : Fp4I) : Raw :=
  enc op 1 i.h i.d i.a 0 i.c (fpBits i.sat i.ftz i.ty i.rnd.bits) i.xl.bits (immExt i.imm)
/-- R113. -/
def eFcmp (op : Nat) (i : FCmp) : Raw := enc op 0 i.h i.d i.a i.b 0 (fpBits i.neg i.ftz i.ty i.cond.bits) i.xl.bits 0
/-- R118. -/
def eConv (op : Nat) (i : FConv) : Raw := enc op 0 i.h i.d i.a 0 0 (fpBits i.sat i.bit i.ty i.rnd.bits) i.xl.bits 0
/-- Memory group. -/
def eLoad (op : Nat) (i : Load) : Raw :=
  enc op 2 i.h i.d 0 0 0 (memBits i.scope i.ord i.size) (memX 0 i.sx i.space) i.m.bits
/-- See `eLoad`. -/
def eStore (op : Nat) (i : Store) : Raw := enc op 2 i.h 0 i.a 0 0 (memBits i.scope i.ord i.size) 0 i.m.bits
/-- LEA's TYPE (R107). -/
def leaBits (s wide : Bool) : BitVec 8 := intBits s (if wide then .b64 else .b32) false 0
/-- IMM32 of ACCRD and ACCWR (R230). -/
def accImm (col nm1 : BitVec 6) : Word := (0 : BitVec 18) ++ nm1 ++ (0 : BitVec 2) ++ col
/-- DIR, BAR and BNUM (R263). -/
def copyImm (dir : CopyDir) (bar : Option (BitVec 5)) : Word :=
  (0 : BitVec 24) ++ bar.getD 0 ++ bit1 bar.isSome ++ dir.bits
/-- IMM32 of SLOOP (R279). -/
def sloopImm (i : SLoop) : Word := (0 : BitVec 11) ++ bit1 i.coh ++ bit1 i.cs ++ i.tag ++ i.lim
/-- IMM32 of AGQ (R358). -/
def agqImm (i : Agq) : Word :=
  (0 : BitVec 10) ++ i.rank.getD 0 ++ (0 : BitVec 1) ++ bit1 i.rank.isSome ++ i.group
/-- A flag in bit 0 of an otherwise zero M or X. -/
def low1 (b : Bool) : BitVec 8 := (0 : BitVec 7) ++ bit1 b
/-- The bytes of a TRAMP word above bit 15 (R54). -/
def trampRaw (i : Tramp) : Raw :=
  let p : BitVec 48 := (0 : BitVec 2) ++ i.disp
  ⟨p.extractLsb' 40 8, p.extractLsb' 32 8, p.extractLsb' 24 8, p.extractLsb' 16 8, p.extractLsb' 8 8,
    p.extractLsb' 0 8, 0x0A9, 7, i.sw, 0, 0⟩

/-- The fields of a decoded instruction's words; none for an event step and for a word that has no instruction. -/
def encodeRaw : Instr → Option Raw
  | .iadd i => some (eInt3 0x000 i)
  | .iaddImm i => some (eInt3I 0x020 i)
  | .isub i => some (eInt3 0x001 i)
  | .isubImm i => some (eInt3I 0x021 i)
  | .imul i => some (eInt3 0x002 i)
  | .imulImm i => some (eInt3I 0x022 i)
  | .imulhi i => some (eInt3 0x003 i)
  | .imulhiImm i => some (eInt3I 0x023 i)
  | .imad i => some (eInt4 0x004 i)
  | .imadImm i => some (eInt4I 0x024 i)
  | .imin i => some (eInt3 0x005 i)
  | .iminImm i => some (eInt3I 0x025 i)
  | .imax i => some (eInt3 0x006 i)
  | .imaxImm i => some (eInt3I 0x026 i)
  | .iabs i => some (eInt2 0x007 i)
  | .ineg i => some (eInt2 0x008 i)
  | .and i => some (eInt3 0x009 i)
  | .andImm i => some (eInt3I 0x029 i)
  | .or i => some (eInt3 0x00A i)
  | .orImm i => some (eInt3I 0x02A i)
  | .xor i => some (eInt3 0x00B i)
  | .xorImm i => some (eInt3I 0x02B i)
  | .not i => some (eInt2 0x00C i)
  | .andn i => some (eInt3 0x00D i)
  | .andnImm i => some (eInt3I 0x02D i)
  | .shl i => some (eInt3 0x00E i)
  | .shlImm i => some (eInt3I 0x02E i)
  | .shr i => some (eInt3 0x00F i)
  | .shrImm i => some (eInt3I 0x02F i)
  | .sar i => some (eInt3 0x010 i)
  | .sarImm i => some (eInt3I 0x030 i)
  | .rot i => some (eInt3 0x011 i)
  | .rotImm i => some (eInt3I 0x031 i)
  | .popc i => some (eInt2 0x012 i)
  | .clz i => some (eInt2 0x013 i)
  | .brev i => some (eInt2 0x014 i)
  | .bfe i => some (eInt3 0x015 i)
  | .bfeImm i => some (eInt3I 0x035 i)
  | .bfi i => some (eInt4 0x016 i)
  | .bfiImm i => some (eInt4I 0x036 i)
  | .icmp i =>
      some (enc 0x017 0 i.h i.d i.a i.b 0 (intBits false (if i.sgn then .s32 else .b32) false i.cond.bits) i.xl.bits 0)
  | .icmpImm i =>
      some (enc 0x037 1 i.h i.d i.a 0 0 (intBits false (if i.sgn then .s32 else .b32) false i.cond.bits) i.xl.bits (immExt i.imm))
  | .sel i => some (enc 0x018 0 i.h i.d i.a i.b i.c 0 i.xl.bits 0)
  | .selImm i => some (enc 0x038 1 i.h i.d i.a 0 i.c 0 i.xl.bits (immExt i.imm))
  | .movReg i => some (enc 0x019 0 i.h i.d i.a 0 0 (intBits i.s i.ty false i.form.bits) i.xl.bits 0)
  | .movi i => some (enc 0x039 1 i.h i.d 0 0 0 (intBits i.s i.ty false 0) i.xl.bits (immExt i.imm))
  | .movSpecialSource i => some (enc 0x01A 0 i.h i.d i.a 0 0 0 0 0)
  | .movSpecialDestination i => some (enc 0x01F 0 i.h i.d i.a 0 0 0 0 0)
  | .lea i => some (enc 0x01B 0 i.h i.d i.a i.b i.sh (leaBits i.s i.wide) i.xl.bits 0)
  | .leaImm i => some (enc 0x03B 1 i.h i.d i.a 0 i.sh (leaBits i.s i.wide) i.xl.bits (immExt i.imm))
  | .iadd64 i => some (eInt3 0x01C i)
  | .iadd64Imm i => some (eInt3I 0x03C i)
  | .imad64 i => some (eInt4 0x01D i)
  | .imad64Imm i => some (eInt4I 0x03D i)
  | .icvt i => some (enc 0x01E 0 i.h i.d i.a 0 0 (intBits i.s i.ty i.sat i.w.bits) i.xl.bits 0)
  | .fadd i => some (eFp3 0x040 i)
  | .faddImm i => some (eFp3I 0x060 i)
  | .fsub i => some (eFp3 0x041 i)
  | .fsubImm i => some (eFp3I 0x061 i)
  | .fmul i => some (eFp3 0x042 i)
  | .fmulImm i => some (eFp3I 0x062 i)
  | .ffma i => some (eFp4 0x043 i)
  | .ffmaImm i => some (eFp4I 0x063 i)
  | .fmin i => some (eFp3 0x044 i)
  | .fminImm i => some (eFp3I 0x064 i)
  | .fmax i => some (eFp3 0x045 i)
  | .fmaxImm i => some (eFp3I 0x065 i)
  | .fcmp i => some (eFcmp 0x046 i)
  | .fcmpImm i => some (enc 0x066 1 i.h i.d i.a 0 0 (fpBits i.neg i.ftz i.ty i.cond.bits) i.xl.bits (immExt i.imm))
  | .fclass i => some (eFp2 0x047 i)
  | .frcp i => some (eFp2 0x048 i)
  | .frsq i => some (eFp2 0x049 i)
  | .fsqrt i => some (eFp2 0x04A i)
  | .fdivs i => some (eFp2 0x04B i)
  | .fexp2 i => some (eFp2 0x04C i)
  | .flog2 i => some (eFp2 0x04D i)
  | .fsin i => some (eFp2 0x04E i)
  | .fcos i => some (eFp2 0x04F i)
  | .ftanh i => some (eFp2 0x050 i)
  | .frnd i => some (eFp2 0x051 i)
  | .fcvt i => some (eConv 0x052 i)
  | .ftoi i => some (eConv 0x053 i)
  | .itof i => some (eConv 0x054 i)
  | .dadd i => some (eFp3 0x055 i)
  | .dmul i => some (eFp3 0x056 i)
  | .dfma i => some (eFp4 0x057 i)
  | .dcmp i => some (eFcmp 0x058 i)
  | .hadd2 i => some (eFp3 0x059 i)
  | .hadd2Imm i => some (eFp3I 0x079 i)
  | .hmul2 i => some (eFp3 0x05A i)
  | .hmul2Imm i => some (eFp3I 0x07A i)
  | .hfma2 i => some (eFp4 0x05B i)
  | .hfma2Imm i => some (eFp4I 0x07B i)
  | .hmin2 i => some (eFp3 0x05C i)
  | .hmin2Imm i => some (eFp3I 0x07C i)
  | .hmax2 i => some (eFp3 0x05D i)
  | .hmax2Imm i => some (eFp3I 0x07D i)
  | .qfmt i => some (enc 0x080 0 i.h i.d i.a 0 0 0 0 0)
  | .qfmtImm i => some (enc 0x085 1 i.h i.d 0 0 0 0 0 (immExt i.imm))
  | .qpack i => some (enc 0x081 0 i.h i.d i.a i.b i.c (bit1 i.sat ++ i.j ++ (0 : BitVec 1) ++ i.rnd.bits) i.xl.bits 0)
  | .qunpack i => some (enc 0x082 0 i.h i.d i.a i.j i.c 0 i.xl.bits 0)
  | .bscale i =>
      some (enc 0x083 0 i.h i.d i.a i.b 0 (bit1 i.sat ++ bit1 i.ftz ++ (0 : BitVec 2) ++ bit1 i.div ++ i.rnd.bits) i.xl.bits 0)
  | .srseed i => some (enc 0x084 0 i.h 0 i.a 0 0 0 i.xl.bits 0)
  | .perm i => some (enc 0x088 0 i.h i.d i.a i.b 0 (low1 i.byte) 0 0)
  | .vote i => some (enc 0x089 0 i.h i.d i.a 0 0 0 ((0 : BitVec 6) ++ i.mode.bits) 0)
  | .wred i => some (enc 0x08A 0 i.h i.d i.a 0 0 0 ((0 : BitVec 4) ++ i.op.bits) 0)
  | .wscan i => some (enc 0x08B 0 i.h i.d i.a 0 0 0 ((0 : BitVec 3) ++ bit1 i.excl ++ i.op.bits) 0)
  | .matchLanes i => some (enc 0x08C 0 i.h i.d i.a 0 0 0 (low1 i.b64) 0)
  | .movx i => some (enc 0x08D 0 i.h i.d i.a i.e 0 (bit1 i.scalar ++ bit1 i.b64 ++ (0 : BitVec 6)) 0 0)
  | .movxw i => some (enc 0x08E 0 i.h i.d i.a i.e 0 (bit1 i.scalar ++ bit1 i.b64 ++ (0 : BitVec 6)) 0 0)
  | .spill i =>
      some (enc 0x090 1 (bareHdr i.sw) 0 i.a i.b 0 ((0 : BitVec 6) ++ bit1 i.raw ++ bit1 i.sp) 0 (immExt i.off))
  | .fill i => some (enc 0x091 1 (bareHdr i.sw) i.d 0 i.b 0 (low1 i.sp) 0 (immExt i.off))
  | .bra i => some (enc 0x0A0 2 i.h 0 0 0 0 0 0 (i.join ++ i.target))
  | .brx i => some (enc 0x0A1 1 i.h 0 i.a 0 0 0 0 (immExt i.imm))
  | .call i => some (enc 0x0A2 1 i.h i.d 0 0 0 0 0 (immExt i.imm))
  | .callx i => some (enc 0x0A3 1 i.h i.d i.a 0 0 0 0 (immExt i.imm))
  | .ret i => some (enc 0x0A4 0 i.h 0 i.a 0 0 0 0 0)
  | .exit i => some (enc 0x0A5 0 i 0 0 0 0 0 0 0)
  | .yield i => some (enc 0x0A6 0 i 0 0 0 0 0 0 0)
  | .nop i => some (enc 0x0A7 0 i 0 0 0 0 0 0 0)
  | .bkpt i => some (enc 0x0A8 0 i.h 0 0 i.b 0 0 0 0)
  | .tramp i => some (trampRaw i)
  | .tret i => some (enc 0x0AA 0 (bareHdr i) 0 0 0 0 0 0 0)
  | .syncw i => some (enc 0x0AB 0 i.h 0 i.a 0 0 0 0 0)
  | .syncwImm i => some (enc 0x0AC 1 i.h 0 0 0 0 0 0 (immExt i.imm))
  | .ld i => some (eLoad 0x0C0 i)
  | .st i => some (eStore 0x0C1 i)
  | .lds i => some (eLoad 0x0C2 i)
  | .sts i => some (eStore 0x0C3 i)
  | .ldfe i => some (eLoad 0x0C4 i)
  | .ldff i => some (eLoad 0x0C5 i)
  | .stef i => some (eStore 0x0C6 i)
  | .stf i => some (eStore 0x0C7 i)
  | .fest i => some (enc 0x0C8 2 i.h 0 0 (low1 i.full) 0 (memBits i.scope i.ord .b32) 0 i.m.bits)
  | .feq i => some (eLoad 0x0C9 i)
  | .pfch i => some (enc 0x0CA 2 i.h 0 0 0 0 0 0 i.m.bits)
  | .cflush i => some (enc 0x0CB 2 i.h 0 0 0 0 0 0 i.m.bits)
  | .atom i =>
      some (enc 0x0CC 2 i.h 0 i.a i.b 0 (memBits i.scope i.ord (atomSize i.wide)) (memX i.aop.bits false (if i.sp then .sp else .dflt)) i.m.bits)
  | .atomr i =>
      some (enc 0x0CD 2 i.h i.d i.a i.b 0 (memBits i.scope i.ord (atomSize i.wide)) (memX i.aop.bits false (if i.sp then .sp else .dflt)) i.m.bits)
  | .fence i => some (enc 0x0E0 0 i.h 0 0 0 0 (memBits i.scope i.ord .b8) 0 0)
  | .fencep i => some (enc 0x0E1 0 i.h 0 0 0 0 (memBits i.scope i.ord .b8) (i.eset ++ i.lset) 0)
  | .promote i =>
      some (enc 0x0E2 2 i.h 0 0 0 0 (memBits i.scope .acqrel (atomSize i.wide)) (memX 0 false (if i.sp then .sp else .dflt)) i.m.bits)
  | .binit i => some (enc 0x100 1 i.h 0 i.a i.b 0 0 0 (immExt i.imm))
  | .barv i => some (enc 0x101 1 i.h 0 i.a 0 0 0 0 (immExt i.imm))
  | .barx i => some (enc 0x102 1 i.h 0 i.a i.b 0 0 0 (immExt i.imm))
  | .bwait i => some (enc 0x103 1 i.h 0 i.a 0 0 0 0 (immExt i.imm))
  | .btest i => some (enc 0x104 1 i.h i.d i.a 0 0 0 0 (immExt i.imm))
  | .bdrop i => some (enc 0x105 1 i.h 0 i.a 0 0 0 0 (immExt i.imm))
  | .bandacq i => some (enc 0x110 0 i.h i.d 0 0 0 (low1 i.two) 0 0)
  | .bandrel i => some (enc 0x111 0 i.h 0 i.a 0 0 0 0 0)
  | .obres i => some (enc 0x112 1 i.h i.d i.a 0 0 0 0 (immExt ((0 : BitVec 12) ++ i.soff ++ i.size)))
  | .obrel i => some (enc 0x113 0 i.h 0 i.a 0 0 0 0 0)
  | .obld i => some (enc 0x114 1 i.h 0 i.a i.b 0 0 0 (immExt i.imm))
  | .mma i =>
      some (enc 0x115 2 i.h ((0 : BitVec 4) ++ bit1 i.z ++ bit1 i.half ++ i.band) 0 0 0 (bit1 i.n64 ++ i.kc) (bit1 i.sa ++ bit1 i.sb ++ i.sreg) (i.bop.bits ++ i.aop.bits))
  | .accz i => some (enc 0x116 0 i.h ((0 : BitVec 4) ++ i.part.bits ++ i.band) 0 0 0 0 0 0)
  | .accrd i => some (enc 0x117 1 i.h i.reg ((0 : BitVec 6) ++ i.band) 0 0 0 0 (immExt (accImm i.col i.nm1)))
  | .accwr i => some (enc 0x118 1 i.h ((0 : BitVec 6) ++ i.band) i.reg 0 0 0 0 (immExt (accImm i.col i.nm1)))
  | .qbind i => some (enc 0x120 1 i.h i.d 0 0 0 0 0 (immExt i.imm))
  | .qcmd i =>
      some (enc 0x121 2 i.h ((0 : BitVec 4) ++ i.q) ((0 : BitVec 4) ++ i.guard.getD 0) 0 0 ((0 : BitVec 5) ++ bit1 i.hold ++ bit1 i.succ.isSome ++ bit1 i.guard.isSome) ((0 : BitVec 2) ++ i.sreg) ((0 : BitVec 12) ++ i.succ.getD 0 ++ i.tag ++ i.body))
  | .qstat i => some (enc 0x122 0 i.h i.d i.a 0 0 0 0 0)
  | .qdrain i => some (enc 0x123 0 i.h 0 i.a 0 0 0 0 0)
  | .gset i => some (enc 0x124 0 i.h i.d 0 0 0 0 0 0)
  | .gclr i => some (enc 0x125 0 i.h i.d 0 0 0 (low1 i.u) 0 0)
  | .tkput i => some (enc 0x131 1 i.h 0 i.a 0 0 0 0 (immExt ((0 : BitVec 24) ++ i.queue)))
  | .tkget i => some (enc 0x130 0 i.h i.d 0 0 0 0 0 0)
  | .tkdone i => some (enc 0x132 0 i.h 0 i.a 0 0 0 0 0)
  | .hrec i => some (enc 0x128 2 i.h i.d i.a 0 0 0 0 ((0 : BitVec 31) ++ bit1 i.sp ++ i.disp))
  | .copy i => some (enc 0x129 1 i.h i.d i.hreg i.dst i.src 0 0 (immExt (copyImm i.dir i.bar)))
  | .cbatch i => some (enc 0x12A 0 i.h i.d 0 0 0 0 0 0)
  | .cwait i => some (enc 0x12B 1 i.h 0 0 0 0 0 0 (immExt i.imm))
  | .ccancel i => some (enc 0x12C 0 i.h 0 i.a 0 0 0 0 0)
  | .sloop i => some (enc 0x140 1 i.h 0 i.a i.w 0 0 0 (immExt (sloopImm i)))
  | .snext i => some (enc 0x141 0 i.h i.d 0 i.b 0 0 0 0)
  | .sadv i => some (enc 0x142 0 i.h 0 i.a 0 0 0 0 0)
  | .sjmp i => some (enc 0x143 0 i.h 0 i.a 0 0 0 0 0)
  | .waitl i => some (enc 0x144 1 i.h 0 0 0 0 0 0 (immExt ((0 : BitVec 16) ++ i.s)))
  | .waitlReg i => some (enc 0x147 0 i.h 0 i.a 0 0 0 0 0)
  | .sret i => some (enc 0x145 0 i 0 0 0 0 0 0 0)
  | .sclose i => some (enc 0x146 0 i 0 0 0 0 0 0 0)
  | .snap i => some (enc 0x150 0 i.h 0 i.a 0 0 0 0 0)
  | .snapx i => some (enc 0x151 0 i 0 0 0 0 0 0 0)
  | .txb i => some (enc 0x152 0 i.h 0 i.a 0 0 0 0 0)
  | .txc i => some (enc 0x153 0 i.h i.d 0 0 0 0 0 0)
  | .txa i => some (enc 0x154 0 i 0 0 0 0 0 0 0)
  | .txq i => some (enc 0x155 0 i.h i.d 0 0 0 0 0 0)
  | .vat i => some (enc 0x156 2 i.h i.d 0 i.b 0 (memBits i.scope i.ord i.size) (memX 0 i.sx .dflt) i.m.bits)
  | .postw i => some (enc 0x160 0 i.h 0 i.a 0 0 0 0 0)
  | .ldred i =>
      some (enc 0x168 2 i.h i.d 0 i.b 0 (if i.acq then memBits .clearing .acq i.size else memBits .warp .plain i.size) 0 i.m.bits)
  | .stmc i =>
      some (enc 0x169 2 i.h 0 i.a i.b 0 (if i.rel then memBits .clearing .rel i.size else memBits .warp .plain i.size) 0 i.m.bits)
  | .agq i => some (enc 0x16A 1 i.h i.d 0 0 0 0 0 (immExt (agqImm i)))
  | .ftime i => some (enc 0x16B 0 i.h i.d 0 0 0 (low1 i.epoch) 0 0)
  | .sysc i => some (enc 0x182 1 i.h 0 0 0 0 0 0 (immExt ((0 : BitVec 16) ++ i.service)))
  | .halt i => some (enc 0x185 0 i 0 0 0 0 0 0 0)
  | .trap i => some (enc 0x180 1 i.h 0 0 0 0 0 0 (immExt ((0 : BitVec 27) ++ i.n)))
  | .rett i => some (enc 0x181 0 (bareHdr i.sw) 0 0 0 0 (low1 i.next) 0 0)
  | .csrr i => some (enc 0x183 1 i.h i.d 0 0 0 0 0 (immExt ((0 : BitVec 20) ++ i.csr)))
  | .csrw i => some (enc 0x184 1 i.h 0 i.a 0 0 0 0 (immExt ((0 : BitVec 20) ++ i.csr)))
  | .tool64 t => some (unpack t.w0 t.ext)
  | .tool96 t => some (unpack t.w0 t.ext)
  | .tool128 t => some (unpack t.w0 t.ext)
  | .yieldExpiry _ | .feTimeoutExpiry _ | .faultRecordEnqueue | .faultResolved _ | .faultUnresolvable _ |
      .loadResponse _ | .remoteAccessIngress _ | .remoteAck _ | .remoteAtomicIngress _ | .leaseExpiry _ |
      .instructionFetch _ | .illegalEncoding _ | .bandCmdMma _ | .bandCmdAccz _ | .bandCmdAccrd _ |
      .bandCmdAccwr _ | .bandCmdColrd _ | .queueHeadDispatch _ | .engineCommandComplete _ | .usherPass _ |
      .copyPart _ | .copyReadResponse _ | .copyComplete _ | .heldCopyEnterPort _ | .txcCommitWaitEnd _ |
      .versionInstallDone _ | .foragerPass _ | .watermarkFrameSend | .watermarkFrameReceive _ |
      .poolStallExpiry _ | .vpoolCfgWrite _ | .launchSubmit _ | .launchAccept | .cohortPlacement _ |
      .warpRetire _ | .launchComplete _ | .resultExchangeFrame _ | .ldredContribution _ | .ldredResult _ |
      .stmcDelivery _ | .syscReply _ | .debugRevoke _ | .watchWrite _ | .dbgStop _ | .dbgSave _ | .dbgRestore
      _ | .dbgStep _ | .dbgSetWmode _ | .billEntryReceive _ | .billEntryPerform | .slotEnd | .contextSwitch |
      .saveComplete | .restoreComplete | .latePacketApply _ | .ctxCmdPreempt _ | .ctxCmdEndPreempt |
      .ctxCmdResume _ | .ctxCmdDiscard _ | .ptpFrame _ | .ringmasterElection _ | .shootdownStart _ |
      .shootdownDone | .coreRetireRequest _ | .linkEnable _ | .linkRetrain _ | .linkRotate _ | .keyAutoRotate
      _ | .ringCalibrationDone _ | .calibrationTimeout _ | .linkTrainingDone _ | .heaterSaturation _ |
      .lossOfLight _ | .flitReceive _ | .ackReceive _ | .nakReceive _ | .ackTimeout _ | .keyAnnounce _ |
      .powerOn _ | .scrubPass _ | .softError _ | .coolantOvertemp | .registerWrite _ | .hostMemoryWrite _ |
      .residentDriverRingRead _ | .internalError _ | .commitStampNextNanosecond _ | .coolantBelowRatedInlet =>
      none

/-- Word 0 and the following bytes of an instruction (R45, R46). -/
def encode (i : Instr) : Option (DWord × DWord) := (encodeRaw i).map (fun r => (pack r, r.ext))

end Sys2Proof
end

