-- ==== Sys2Proof/Machine/Trans.lean ====
section
/-! DEFINITION. The unary functions of 06_vector.md R115 to R117. The exact value is formed to far more bits than any type
has; the delivered value is one of those within the accuracy bound, chosen by `Config.transStep` (log entries 10 and 11). -/

namespace Sys2Proof.Machine

/-- Fraction bits of the fixed-point work. -/
def fxBits : Nat := 320
/-- 1 in fixed point. -/
def fxOne : Nat := 2 ^ fxBits
/-- ln 2 in fixed point. -/
def fxLn2 : Nat := 0xb17217f7d1cf79abc9e3b39803f2f6af40f343267298b62d8a0d175b8baafa2be7b876206debac98
/-- π in fixed point. -/
def fxPi : Nat := 0x3243f6a8885a308d313198a2e03707344a4093822299f31d0082efa98ec4e6c89452821e638d01377

/-- Integer square root by bits. -/
def isqrtBits (n : Nat) : Nat → Nat → Nat
  | 0, r => r
  | k + 1, r => isqrtBits n k (if (r + 2 ^ k) * (r + 2 ^ k) ≤ n then r + 2 ^ k else r)
/-- floor(√n). -/
def isqrt (n : Nat) : Nat := isqrtBits n (Nat.log2 n / 2 + 1) 0

/-- √(num / den × 2^exp) with a sticky lowest bit, which no rounding mistakes for an exact value or a tie. -/
def sqrtNum (num den : Nat) (exp : Int) : Num :=
  let n := if exp % 2 = 0 then num else num * 2
  let e := if exp % 2 = 0 then exp else exp - 1
  let s := isqrt (n * 2 ^ 320 / den)
  .fin false (2 * s + if s * s * den = n * 2 ^ 320 then 0 else 1) 1 (e / 2 - 161)

/-- num / den × 2^exp in fixed point. -/
def fxOf (num den : Nat) (exp : Int) : Nat :=
  let r := ratOf num den (exp + fxBits)
  r.1 / r.2

/-- Σ y^k / k! from the term `t` of index `k` on, `n` terms. -/
def expTerms (y : Nat) : Nat → Nat → Nat → Nat
  | 0, _, _ => 0
  | n + 1, k, t => t + expTerms y n (k + 1) (t * y / fxOne / (k + 1))

/-- e^y in fixed point for 0 ≤ y < 1. -/
def fxExp (y : Nat) : Nat := expTerms y 90 0 fxOne
/-- e^y - 1 in fixed point for 0 ≤ y < 1. -/
def fxExpm1 (y : Nat) : Nat := expTerms y 90 1 y

/-- 2^a; an exponent beyond every type's range is held at 5000 (R115). -/
def exp2Num (neg : Bool) (num den : Nat) (exp : Int) : Num :=
  if 13 ≤ log2Rat num den exp then .fin false 1 1 (if neg then -5000 else 5000)
  else
    let a := fxOf num den exp
    let n : Int := if neg then -((a + fxOne - 1) / fxOne : Nat) else (a / fxOne : Nat)
    let f : Nat := if neg then (-n).toNat * fxOne - a else a % fxOne
    .fin false (fxExp (f * fxLn2 / fxOne)) 1 (n - fxBits)

/-- Σ (-1)^j y^(2j+1) / (2j+1)! with a sign that turns at each term. -/
def sinTerms (y2 : Nat) : Nat → Nat → Nat → Bool → Int
  | 0, _, _, _ => 0
  | n + 1, k, t, s =>
    (if s then -(t : Int) else t) + sinTerms y2 n (k + 2) (t * y2 / fxOne / ((k + 1) * (k + 2))) (!s)

/-- sin(π u) in fixed point for 0 ≤ u ≤ 1/2. -/
def fxSinPi (u : Nat) : Nat :=
  let y := u * fxPi / fxOne
  (sinTerms (y * y / fxOne) 50 1 y false).toNat

/-- sin(π a): a modulo 2 by quadrant. -/
def sinNum (neg : Bool) (num den : Nat) (exp : Int) : Num :=
  let u := fxOf num den exp % (2 * fxOne)
  let s := neg != decide (fxOne ≤ u)
  let v := u % fxOne
  .fin s (fxSinPi (if fxOne < 2 * v then fxOne - v else v)) 1 (-(fxBits : Int))

/-- cos(π a) as the sine of π (1/2 - a). -/
def cosNum (num den : Nat) (exp : Int) : Num :=
  let u := fxOf num den exp % (2 * fxOne)
  let v := if fxOne < u then 2 * fxOne - u else u
  if 2 * v ≤ fxOne then .fin false (fxSinPi (fxOne / 2 - v)) 1 (-(fxBits : Int))
  else .fin true (fxSinPi (v - fxOne / 2)) 1 (-(fxBits : Int))

/-- Σ t^(2j+1) / (2j+1), from the power `p` of index `k` on. -/
def atanhTerms (t2 : Nat) : Nat → Nat → Nat → Nat
  | 0, _, _ => 0
  | n + 1, k, p => p / k + atanhTerms t2 n (k + 2) (p * t2 / fxOne)

/-- log2 a of a positive a, as 2^k × g with g from 3/4 to 3/2. -/
def log2Num (num den : Nat) (exp : Int) : Num :=
  let k0 := log2Rat num den exp
  let g0 := fxOf num den (exp - k0)
  let k := if 3 * fxOne < 2 * g0 then k0 + 1 else k0
  let g := fxOf num den (exp - k)
  let below := decide (g < fxOne)
  let t := (if below then fxOne - g else g - fxOne) * fxOne / (g + fxOne)
  let l := 2 * atanhTerms (t * t / fxOne) 110 1 t * fxOne / fxLn2
  let r : Int := k * (fxOne : Nat) + (if below then -(l : Int) else l)
  .fin (decide (r < 0)) r.natAbs 1 (-(fxBits : Int))

/-- tanh a = (e^2a - 1) / (e^2a + 1); beyond 128 the argument is held at 128. -/
def tanhNum (neg : Bool) (num den : Nat) (exp : Int) : Num :=
  let y := if 7 ≤ log2Rat num den exp then 256 * fxOne else 2 * fxOf num den exp
  let e := if y < fxOne / 2 then fxExpm1 y
    else 2 ^ (y / fxLn2) * fxExp (y % fxLn2) - fxOne
  .fin neg e (e + 2 * fxOne) 0

/-! ### The special values of R116 -/

/-- Whether a value is a power of two, and its exponent. -/
def pow2Of (num den : Nat) (exp : Int) : Option Int :=
  let k := log2Rat num den exp
  let r := ratOf num den (exp - k)
  if r.1 = r.2 then some k else none

/-- Twice a value where that is an integer. -/
def twiceInt (neg : Bool) (num den : Nat) (exp : Int) : Option Int :=
  let r := ratOf num den (exp + 1)
  if r.1 % r.2 = 0 then some (if neg then -((r.1 / r.2 : Nat) : Int) else (r.1 / r.2 : Nat)) else none

/-- 2^k. -/
def powNum (neg : Bool) (k : Int) : Num := .fin neg 1 1 k
/-- A zero. -/
def zeroNum (neg : Bool) : Num := .fin neg 0 1 0

/-- The exact results of R116, where the operand has one. FEXP2 of an integer is exact only where 2^k is representable. -/
def special (fn : Config.Trans) (f : Fmt) (x : Num) : Option (Num × BitVec 5) :=
  match fn, x with
  | _, .nan => some (.nan, 0)
  | .rcp, .inf s => some (zeroNum s, 0)
  | .rcp, .fin s n d e =>
    if n = 0 then some (.inf s, flDZ) else (pow2Of n d e).map (fun k => (powNum s (-k), 0))
  | .rsq, .inf s => some (if s then (.nan, flNV) else (zeroNum false, 0))
  | .rsq, .fin s n d e =>
    if n = 0 then some (.inf s, flDZ)
    else if s then some (.nan, flNV)
    else (pow2Of n d e).bind (fun k => if k % 2 = 0 then some (powNum false (-k / 2), 0) else none)
  | .exp2, .inf s => some (if s then zeroNum false else .inf false, 0)
  | .exp2, .fin s n d e =>
    (twiceInt s n d e).bind (fun k =>
      if k % 2 = 0 ∧ f.qmin ≤ k / 2 ∧ k / 2 ≤ f.bias then some (powNum false (k / 2), 0) else none)
  | .log2, .inf s => some (if s then (.nan, flNV) else (.inf false, 0))
  | .log2, .fin s n d e =>
    if n = 0 then some (.inf true, flDZ)
    else if s then some (.nan, flNV)
    else (pow2Of n d e).map (fun k => (.fin (decide (k < 0)) k.natAbs 1 0, 0))
  | .sin, .inf _ => some (.nan, flNV)
  | .sin, .fin s n d e =>
    if n = 0 then some (zeroNum s, 0)
    else (twiceInt s n d e).map (fun k =>
      if k % 2 = 0 then (zeroNum (decide (k < 0)), 0) else (powNum (decide (k / 2 % 2 = 1)) 0, 0))
  | .cos, .inf _ => some (.nan, flNV)
  | .cos, .fin s n d e =>
    (twiceInt s n d e).map (fun k =>
      if k % 2 = 0 then (powNum (decide (k / 2 % 2 = 1)) 0, 0) else (zeroNum false, 0))
  | .tanh, .inf s => some (powNum s 0, 0)
  | .tanh, .fin s n _ _ => if n = 0 then some (zeroNum s, 0) else none

/-- The exact value outside R116, for a finite nonzero operand. -/
def transExact (fn : Config.Trans) (x : Num) : Num :=
  match x with
  | .fin s n d e => match fn with
    | .rcp => .fin s d n (-e)
    | .rsq => sqrtNum d n (-e)
    | .exp2 => exp2Num s n d e
    | .log2 => log2Num n d e
    | .sin => sinNum s n d e
    | .cos => cosNum n d e
    | .tanh => tanhNum s n d e
  | x => x

/-- Number of the type in `Config.transStep`. -/
def tyNo : FTy → Nat
  | .f32 => 0 | .f16 => 1 | .bf16 => 2 | .f64 => 3

/-- Whether R115 bounds a function on a type by 2 ulp; otherwise the bound is 1 ulp. -/
def twoUlp (fn : Config.Trans) (ty : FTy) : Bool :=
  match ty, fn with
  | .f32, .exp2 | .f32, .log2 | .f32, .sin | .f32, .cos | .f32, .tanh => true
  | _, _ => false

/-- Whether code `c` is the first above a power of two beyond the smallest normal: there the spacing of the codes doubles. -/
def Fmt.newBinade (f : Fmt) (c : Nat) : Bool := c % 2 ^ f.m == 0 && decide (2 ^ f.m < c)

/-- A magnitude code within the bound of the exact value whose floor has code `c`: one of the two neighbours within
1 ulp; within 2 ulp the code below and the code above those, but for the one that lies a doubled spacing away (R115). -/
def transCode (fn : Config.Trans) (ty : FTy) (a : Word) (c : Nat) : Nat :=
  let k := Config.transStep fn (tyNo ty) a
  if twoUlp fn ty then (if (fmtOf ty).newBinade (c + 1) then c + k % 3 - 1 else c + k % 4 - 1) else c + k % 2

/-- A result outside R116: NX, OF for an infinity or the largest finite value under SAT, UF when it is tiny: the exact value by
R89, or the value delivered (log entry 11). -/
def transRound (f : Fmt) (neg : Bool) (c : Nat) (sat tiny : Bool) : FRes :=
  if f.maxCode < c then f.overflow neg true sat false
  else ⟨f.signed neg c, (if tiny || decide (c < 2 ^ f.m) then flNX ||| flUF else flNX) ||| (if sat && c == f.maxCode then flOF else 0)⟩

/-- FRCP, FRSQ, FEXP2, FLOG2, FSIN, FCOS and FTANH of the operand bits `a`, of which a 16-bit type takes the low half (R79, R81,
R89, R115, R116). -/
def transRes (fn : Config.Trans) (ty : FTy) (ftz sat : Bool) (a : Word) : FRes :=
  let f := fmtOf ty
  let bits := a.toNat % 2 ^ f.width
  let x := f.decode ftz bits
  match special fn f x with
  | some (y, fl) =>
    let r := f.round y (.rnd .rne 0) sat
    f.flush ftz ⟨r.val, r.fl ||| fl⟩
  | none => match transExact fn x with
    | .fin s n d e => f.flush ftz (transRound f s
        (transCode fn ty (BitVec.ofNat 32 bits) (f.roundMag (.pick false) s n d e).1) sat (f.tiny (.rnd .rne 0) s n d e))
    | _ => ⟨0, 0⟩

/-- FSQRT (R115, R116). -/
def sqrtRes (ty : FTy) (ftz sat : Bool) (r : Rnd) (a : Nat) : FRes :=
  let f := fmtOf ty
  match f.decode ftz a with
  | .nan => f.flush ftz (f.round .nan (.rnd r 0) sat)
  | .inf s => if s then ⟨f.canonNaN, flNV⟩ else f.round (.inf false) (.rnd r 0) sat
  | .fin s n d e =>
    if n = 0 then ⟨f.signed s 0, 0⟩
    else if s then ⟨f.canonNaN, flNV⟩
    else f.flush ftz (f.round (sqrtNum n d e) (.rnd r 0) sat)

/-- FDIVS: 2^k with |a| × 2^k in [1, 2), limited to the largest power of two of the type (R117). -/
def fdivsRes (ty : FTy) (a : Nat) : FRes :=
  let f := fmtOf ty
  match f.decode false a with
  | .nan => ⟨f.canonNaN, 0⟩
  | .inf _ => ⟨0, 0⟩
  | .fin _ n d e =>
    if n = 0 then ⟨(f.overflow false true false true).val, 0⟩
    else ⟨(f.round (powNum false (min (-(log2Rat n d e)) f.bias)) (.rnd .rne 0) false).val, 0⟩

/-- A finite value rounded to an integer by the mode, in magnitude, and whether that changed it (R88, R91, R117, R118). -/
def roundInt (neg : Bool) (n d : Nat) (e : Int) (r : RMode) : Nat × Bool :=
  let g := gridAt 0 n d e
  (if r.up neg (g.lo % 2 == 1) g then g.lo + 1 else g.lo, g.rem ≠ 0)

/-- FRND (R117). -/
def frndRes (ty : FTy) (r : Rnd) (a : Nat) : FRes :=
  let f := fmtOf ty
  match f.decode false a with
  | .nan => ⟨f.canonNaN, 0⟩
  | .inf s => ⟨(f.overflow s true false true).val, 0⟩
  | .fin s n d e => ⟨(f.round (.fin s (roundInt s n d e (.rnd r 0)).1 1 0) (.rnd .rne 0) false).val, 0⟩

end Sys2Proof.Machine
end

