-- ==== Sys2Proof/Machine/Flags.lean ====
section
/-! DEFINITION. Flags of floating-point instructions and their traps (06_vector.md R101, R102), and the stochastic draws of a
lane (05_numbers.md R91). -/

namespace Sys2Proof.Machine

/-- The stochastic state of lane `i` (R91). -/
def Warp.srState (w : Warp) (i : Nat) : Word := Tab.get 0 w.sr i
/-- The state after `n` calls of SRNext (R91). -/
def srAfter : Nat → Word → Word
  | 0, x => x
  | n + 1, x => srAfter n (srNext x)
/-- The `k`th value that SRNext returns to lane `i`, from 1. -/
def Warp.srDraw (w : Warp) (i k : Nat) : Word := srAfter k (w.srState i)

/-- The union of the flags of the lanes of a mask (R102). -/
def flagUnion (m : Mask) (f : Nat → BitVec 5) : BitVec 5 := (lanesOf m).foldl (fun a i => a ||| f i) 0

/-- The highest-priority flag of a set and its cause: NV, DZ, OF, UF, NX (R102). -/
def flagCause (f : BitVec 5) : BitVec 5 × Cause :=
  if f &&& flNV ≠ 0 then (flNV, 0x141)
  else if f &&& flDZ ≠ 0 then (flDZ, 0x142)
  else if f &&& flOF ≠ 0 then (flOF, 0x143)
  else if f &&& flUF ≠ 0 then (flUF, 0x144)
  else (flNX, 0x145)

/-- Writes `x` to the stochastic states of the lanes of `m` below `n`. -/
def putSr (m : Mask) (f : Nat → Word) : Nat → Tab Word → Tab Word
  | 0, t => t
  | n + 1, t =>
    let t := putSr m f n t
    if m.getLsbD n then Tab.set 0 t n (f n) else t

/-- The stochastic states after `n` draws in each lane of `m`, where the instruction rounds by `.rs` (R91). -/
def Warp.drawn (w : Warp) (m : Mask) (rs : Bool) (n : Nat) : Warp :=
  if rs then { w with sr := putSr m (fun i => srAfter n (w.srState i)) 32 w.sr } else w

/-- R102: the instruction's flags are known for every participating lane; it traps on an enabled flag with nothing
changed, or `f` writes the results, the flags are set and it retires. -/
def State.flagged (s : State) (h : Hdr) (len : Nat) (fl : Nat → BitVec 5) (f : Warp → Warp) : State :=
  let w := s.w
  let m := w.parts h
  let u := flagUnion m fl
  if u &&& w.fpTrapen ≠ 0 then
    let c := flagCause (u &&& w.fpTrapen)
    s.precise c.2 (maskOf (fun i => m.getLsbD i && (fl i &&& c.1) != 0)) ((u.setWidth 64) &&& 0x1F)
  else s.upd (fun w =>
    let v := f w
    Warp.retire { v with fpFlags := v.fpFlags ||| u } len h.sw)

/-- Results and flags of every lane, written as one 32-bit register per lane (R102). -/
def State.fpV (s : State) (h : Hdr) (d : RegNo) (len : Nat) (rs : Bool) (draws : Nat) (f : Nat → FRes) : State :=
  let m := s.w.parts h
  s.flagged h len (fun i => (f i).fl) (fun w =>
    (w.setLanes m d.toNat (fun i => BitVec.ofNat 32 (f i).val)).drawn m rs draws)

/-- See `State.fpV`, for a pair (R119). -/
def State.fpV64 (s : State) (h : Hdr) (d : RegNo) (len : Nat) (rs : Bool) (draws : Nat) (f : Nat → FRes) : State :=
  let m := s.w.parts h
  s.flagged h len (fun i => (f i).fl) (fun w =>
    (w.setLanes64 m d.toNat (fun i => BitVec.ofNat 64 (f i).val)).drawn m rs draws)

/-- Flags of two results of one lane (R120). -/
def FRes.pair (lo hi : FRes) : FRes := ⟨lo.val % 65536 + hi.val % 65536 * 65536, lo.fl ||| hi.fl⟩

end Sys2Proof.Machine
end

