-- ==== Sys2Proof/Machine/Queue.lean ====
section
/-! DEFINITION. Engine ports, command words and the checks of a push (13_queue.md R238 to R245, 12_matrix.md R214 to R230,
14_copy.md R264, R265): what QCMD, MOV, the matrix instructions and COPY share. -/

namespace Sys2Proof.Machine

/-! ### Bindings (R238, R239) -/

/-- The binding of q register `n`, as QBIND wrote it. -/
def Warp.q (w : Warp) (n : Nat) : Word := Tab.get 0 w.qbind n
/-- KIND of a binding. -/
def qKind (b : Word) : Nat := (b.extractLsb' 0 4).toNat
/-- INDEX of a binding. -/
def qIndex (b : Word) : Nat := (b.extractLsb' 4 4).toNat
/-- Task queue of a binding. -/
def qQueue (b : Word) : Nat := (b.extractLsb' 8 6).toNat
/-- Die of a binding. -/
def qDie (b : Word) : Nat := (b.extractLsb' 14 2).toNat

/-- Whether a core is in split mode (R340). -/
def Core.splitMode (c : Core) : Bool := c.active
/-- The copy command port of the executing warp: of the core, or of the tenant in split mode. -/
def State.copyPort (s : State) : Nat := if s.myCore.splitMode then 4 + s.tenant else 4
/-- The command port that a binding of the executing warp names, if it is KIND 1 or 3. -/
def State.portOf (s : State) (b : Word) : Option Nat :=
  if qKind b = 1 then some (qIndex b) else if qKind b = 3 then some s.copyPort else none
/-- Commands that a port may hold (R238). -/
def portCap (p : Nat) : Nat := if p < 4 then 16 else 32
/-- Unfinished band commands of a warp slot (R229). -/
def Core.bandWork (c : Core) (slot : Nat) : Nat :=
  (c.bandIds slot).length

/-! ### Bands and records (R214, R218) -/

/-- Band control of band `b`. -/
def Core.band (c : Core) (b : Nat) : Band := Tab.get {} c.bands b
/-- See `Core.band`. -/
def Core.setBand (c : Core) (b : Nat) (x : Band) : Core := { c with bands := Tab.set {} c.bands b x }
/-- Reservation record `n`. -/
def Core.resvAt (c : Core) (n : Nat) : Resv := Tab.get {} c.resv n
/-- See `Core.resvAt`. -/
def Core.setResv (c : Core) (n : Nat) (x : Resv) : Core := { c with resv := Tab.set {} c.resv n x }
/-- Whether the executing warp's team holds a band. -/
def State.holdsBand (s : State) (b : Nat) : Bool :=
  let x := s.myCore.band b
  x.state == .held && x.owner == slotOf s.w.team
/-- Whether record `n` is Reserved by the executing warp's team. -/
def State.holdsRec (s : State) (n : Nat) : Bool :=
  let x := s.myCore.resvAt n
  n < 32 && x.state == .held && x.owner == slotOf s.w.team
/-- Container bits of the operands that a record describes, if its format is readable (R224). -/
def Resv.bits (x : Resv) : Nat :=
  if x.kind ≠ 0 then 16
  else match narrowFmt x.fmt with
    | some f => if f.width ≤ 4 then 4 else 8
    | none => 8
/-- Block length of a narrow record (R218). -/
def Resv.block (x : Resv) : Nat := 8 * 2 ^ x.blk.toNat
/-- Chunk depth of two operands (R225). -/
def depthOf (a b : Resv) : Nat :=
  if a.bits = 16 ∨ b.bits = 16 then 2 else if a.bits = 8 ∨ b.bits = 8 then 4 else 8
/-- Bytes of the data of `v` vectors of `k` elements (R224). -/
def Resv.dataBytes (x : Resv) (v k : Nat) : Nat := v * k * x.bits / 8
/-- Bytes from the operand's offset to the end of its two ranges (R224). -/
def Resv.reach (x : Resv) (v k : Nat) : Nat :=
  if x.kind ≠ 0 then x.dataBytes v k else max (x.dataBytes v k) (x.soff * 128 + 4 * (v * k / x.block))

/-! ### Command bodies -/

/-- The columns of an ACCZ: first and number (R231). -/
def accSpan : AccPart → Nat × Nat
  | .all => (0, 64) | .lo => (0, 32) | .hi => (32, 32)

/-- The cause of an operand of an MMA, from the offset checks (0x1C3) and the scratchpad checks (0x114, 0x115) of R228. -/
def State.opCause (s : State) (m : MatSpec) (o : DWord) (v k : Nat) : List Cause :=
  let x := s.myCore.resvAt m.recNo.toNat
  let n := x.reach v k
  match m.src with
  | .ob => if o.toNat % 8 ≠ 0 ∨ x.size * 128 < o.toNat + n then [0x1C3] else []
  | .sp => (if o.toNat % 8 ≠ 0 then [0x1C3] else []) ++ (spCause (some s.myTeam) o n).toList
  | .remote c _ => (if o.toNat % 8 ≠ 0 then [0x1C3] else []) ++ (spCause ((s.spTeam (some c)).map s.team) o n).toList

/-- The first of some causes in the order of R228. -/
def firstOf (order cs : List Cause) : Option Cause := order.find? (fun c => cs.contains c)

/-- The checks of R228 after N64 with H, for band `b`. -/
def State.mmaCause (s : State) (b : Nat) (half n64 : Bool) (kc : Nat) (x y : MatSpec) (oa ob : DWord) : Option Cause :=
  let k := 2 * (kc + 1)
  let ra := s.myCore.resvAt x.recNo.toNat
  let rb := s.myCore.resvAt y.recNo.toNat
  let misfit := fun (r : Resv) => r.kind == 0 && k % r.block != 0
  if half && n64 then some 0x1C8
  else if !s.holdsBand b then some 0x1C0
  else if !s.holdsRec x.recNo.toNat || !s.holdsRec y.recNo.toNat then some 0x1C1
  else if k % depthOf ra rb ≠ 0 || misfit ra || misfit rb then some 0x1C4
  else firstOf [0x1C3, 0x114, 0x115] (s.opCause x oa 32 k ++ s.opCause y ob (if n64 then 64 else 32) k)

/-! ### Layout records (R257, R260) -/

/-- Bits of a layout record. -/
def lay (r : BitVec 256) (lo n : Nat) : Nat := (r.extractLsb' lo n).toNat
/-- Extent of dimension `d`; 1 beyond N. -/
def layExt (r : BitVec 256) (d : Nat) : Nat := if d < lay r 213 3 then lay r (24 * d) 24 + 1 else 1
/-- Stride in bytes of dimension `d` ≥ 1 (R260). -/
def layStride (r : BitVec 256) (d : Nat) : Int :=
  (r.extractLsb' (120 + 22 * (d - 1)) 22).toInt * (2 ^ lay r 208 5 : Nat)
/-- Element size in bytes. -/
def layElem (r : BitVec 256) : Nat := 2 ^ lay r 216 2
/-- Elements of the region. -/
def layCount (r : BitVec 256) : Nat := layExt r 0 * layExt r 1 * layExt r 2 * layExt r 3 * layExt r 4
/-- Total bytes T (R259). -/
def layTotal (r : BitVec 256) : Nat := layElem r * layCount r
/-- The lowest and highest of the element addresses relative to gbase (R264). -/
def laySpan (r : BitVec 256) : Int × Int :=
  (List.range 4).foldl (fun (a : Int × Int) n =>
    let d := n + 1
    if d < lay r 213 3 then
      let x := layStride r d * ((layExt r d : Int) - 1)
      (a.1 + min x 0, a.2 + max x 0)
    else a) (0, ((layExt r 0 - 1) * layElem r : Nat))

/-- Whether an element address of a copy has bits 63 to 48 set (R264). Sums are taken modulo 2^64. -/
def layOutside (r : BitVec 256) (g : DWord) : Bool :=
  let a := laySpan r
  (g + BitVec.ofInt 64 a.1).extractLsb' 48 16 != 0 || (g + BitVec.ofInt 64 a.2).extractLsb' 48 16 != 0

/-- The checks of R264, for record `r` and a destination whose bits 63 to 37 are `high` where DIR is 10; `team` issues it. -/
def State.copyCause (s : State) (team : Nat) (r : BitVec 256) (dir : CopyDir) (high : Bool) (recNo : Nat) (g : DWord)
    (l : DWord) (bar : Option (BitVec 5)) : Option Cause :=
  let c := s.core (coreOf team)
  let x := c.resvAt recNo
  let t := layTotal r
  if !r.getLsbD 255 then some 0x1E0
  else if dir = .g2o ∧ lay r 242 5 ≠ 0 then some 0x1E4
  else if dir = .g2o ∧ high then some 0x1E2
  else if dir = .g2o ∧ (x.state ≠ .held ∨ x.owner ≠ slotOf team) then some 0x1C1
  else if g.toNat % layElem r ≠ 0 ∨ l.toNat % 4 ≠ 0 ∨ (lay r 242 5 ≠ 0 ∧ l.toNat % 128 ≠ 0) then some 0x1E1
  else if dir ≠ .g2o ∧ (s.team team).size < l.toNat + t then some 0x114
  else if dir = .g2o ∧ x.size * 128 < l.toNat + t then some 0x1E2
  else if layOutside r g then some 0x0C2
  else match bar with
    | some b => if (s.bar team b.toNat).valid then none else some 0x18A
    | none => none

/-- h register `n` of a warp. -/
def Warp.h (w : Warp) (n : Nat) : BitVec 256 := Tab.get 0 w.hregs n

/-! ### Pushing -/

/-- A command of the executing warp joins the tail of a port (R242). -/
def State.push (s : State) (p : Nat) (c : Cmd) : State :=
  let k := coreOf s.cur
  let x := s.port k p
  s.setPort k p { x with queue := x.queue ++ [c] }

/-- Whether a port has no room for a push (R244). -/
def State.portFull (s : State) (p : Nat) : Bool := portCap p ≤ (s.port (coreOf s.cur) p).all.length

/-- A warp that has pushed: it parks by R229 until its oldest band command ends, by R244 until a command leaves the port that it has
filled, or by both, as a marked instruction parks; else as its marker says. -/
def State.pushed (s : State) (p : Nat) (sw : Bool) : State :=
  let full := s.portFull p
  let keep := fun (w : Warp) => if full then
    { w with waitPort := some p, waitIds := (s.port (coreOf s.cur) p).all.map (·.id) } else { w with waitPort := none, waitIds := [] }
  if p < 4 ∧ 5 ≤ s.myCore.bandWork (slotOf s.cur) then (s.park 2).upd (fun w =>
    { keep w with marked := sw, waitBand := (ascending (s.myCore.bandIds (slotOf s.cur))).head? })
  else if full then (s.park 3).upd (fun w => { keep w with marked := sw, waitBand := none })
  else s.upd (fun w => w.mark sw)

/-- The wait of R229 is over for the executing warp: the oldest band command that it had then has completed. -/
def State.bandOver (s : State) : Bool :=
  s.w.waitBand.elim true (fun i => !(s.myCore.bandIds (slotOf s.cur)).contains i)
/-- The wait of R244 is over: a command has left the port that it filled. -/
def State.portOver (s : State) : Bool :=
  s.w.waitPort.elim true (fun p =>
    let ids := (s.port (coreOf s.cur) p).all.map (·.id)
    !s.portFull p || s.w.waitIds.any (fun i => !ids.contains i))

/-- Whether an instruction that the core holds is an acquire: ORD of a full/empty instruction or an atomic (R50, R194). -/
def Deferred.acquires (d : Deferred) : Bool :=
  match decode d.ir.w0 d.ir.ext with
  | .feq i => i.ord == .acqrel
  | .fest i => i.ord == .acqrel
  | .stf i => i.ord == .acqrel
  | .atom i => i.ord == .acqrel
  | .atomr i => i.ord == .acqrel
  | .promote _ => true
  | _ => false
/-- Whether it is an OBLD. -/
def Deferred.isObld (d : Deferred) : Bool :=
  match decode d.ir.w0 d.ir.ext with
  | .obld _ => true
  | _ => false
/-- The path of its accesses: 1 of an OBLD, 3 of an STMC, else 0 (R373). -/
def Deferred.path (d : Deferred) : Nat :=
  match decode d.ir.w0 d.ir.ext with
  | .obld _ => 1
  | .stmc _ => 3
  | _ => 0
/-- Whether an acquire of a warp is outstanding, or is issued again after a switch (R194, R329). -/
def Warp.acqAway (w : Warp) : Bool := w.acqV != 0 || w.acqX != 0 || (w.reissue.isSome && w.fence.vLoads)
/-- What a command pushed now must wait for at its head: the unfinished commands of its path that stand before a FENCE (R193, R199,
R373), and for a band command the OBLDs and acquires that the core holds and the acquires that are outstanding (R232, R233). -/
def State.pushAfter (s : State) (p : Nat) (c : Cmd) : Cmd :=
  if p < 4 then
    let held := s.w.deferred.filter (fun d => d.isObld || d.acquires)
    { c with after := s.myBandIds.filter (fun i => s.w.fence.bands.contains i) ++ held.map (·.id)
             afterAcq := s.w.acqAway || held.any (·.acquires) }
  else { c with after := s.copiesNow.filter (fun i => s.w.fence.copies.contains i) }

/-- A push of the executing warp whose checks have passed: it waits for room, or queues `c` under a fresh number, with `f`
recording what the warp keeps of it, and retires (R242, R244). -/
def State.issue (s : State) (h : Hdr) (len p : Nat) (c : Nat → Cmd) (f : Nat → Warp → Warp) : State :=
  if s.portFull p then s.park 3
  else
    let id := s.nextId
    let t := ((s.fresh1.push p (s.pushAfter p (c id))).upd (f id)).upd (fun w => w.retire len false)
    t.pushed p h.sw

/-- A command of the executing warp with no guard, hold or successor. -/
def State.plainCmd (s : State) (h : Hdr) (dest : CmdDest) (body : CmdBody) (id : Nat) : Cmd :=
  { id := id, slot := slotOf s.cur, team := s.w.team, lanes := s.w.parts h, guard := none, hold := false, succ := none, tag := 0,
    dest := dest, body := body }

/-- A copy becomes one of the warp's open copies (R269). -/
def Warp.openCopy (w : Warp) (id : Nat) : Warp := { w with openCopies := w.openCopies ++ [id] }

/-! ### Command words (R240, R243, R265) -/

/-- Bits of a command word. -/
def cw (x : BitVec 128) (lo n : Nat) : Nat := (x.extractLsb' lo n).toNat

/-- A matrix-operand specifier, if its bits are valid (R227). -/
def matSpec (x : Word) : Option MatSpec := if matOk x then some (MatSpec.ofBits x) else none

/-- The body of a band command word and the band it names, where it is valid (R243). A reserved part of ACCZ, a nonzero D[7:4] of an MMA and
an operand specifier that R227 refuses make it an invalid body, 0x1D1 (log entry 91). -/
def bandBody (x : BitVec 128) : Option (Nat × CmdBody) :=
  let d : BitVec 8 := x.extractLsb' 72 8
  let m : BitVec 8 := x.extractLsb' 80 8
  if cw x 88 8 ≠ 0 then none
  else match cw x 64 8 with
    | 1 =>
      match matSpec (x.extractLsb' 0 32), matSpec (x.extractLsb' 32 32) with
      | some a, some b =>
        if d.extractLsb' 4 4 ≠ 0 then none
        else some ((d.extractLsb' 0 2).toNat, .mma (d.getLsbD 2) (d.getLsbD 3) (m.getLsbD 7) (m.setWidth 7)
          (a.off.setWidth 64 <<< 3) (b.off.setWidth 64 <<< 3) a b)
      | _, _ => none
    | 2 =>
      let part := match (d.extractLsb' 2 2).toNat with
        | 0 => some AccPart.all | 1 => some AccPart.lo | 2 => some AccPart.hi | _ => none
      if d.extractLsb' 4 4 ≠ 0 ∨ m ≠ 0 ∨ cw x 0 64 ≠ 0 then none
      else part.map (fun p => ((d.extractLsb' 0 2).toNat, .accz p))
    | 3 =>
      if d.extractLsb' 2 6 ≠ 0 ∨ 63 < m.toNat ∨ cw x 0 64 ≠ 0 then none
      else some (d.toNat, .colrd m.toNat)
    | _ => none

/-- The body of a copy command word, where it is valid (R265). -/
def copyBody (x : BitVec 128) (snap : DWord) : Option CopyReq :=
  let dir := match cw x 64 2 with
    | 0 => some CopyDir.g2s | 1 => some CopyDir.s2g | 2 => some CopyDir.g2o | _ => none
  let bar := x.getLsbD 66
  if !bar && cw x 67 5 ≠ 0 then none
  else dir.map (fun dir =>
    { hreg := cw x 72 4, dir := dir, gbase := x.extractLsb' 0 64
      lbase := if dir = .g2o then 4 * cw x 76 15 else 4 * cw x 76 20
      recNo := if dir = .g2o then cw x 91 5 else 0
      bar := if bar then some (x.extractLsb' 67 5) else none
      snap := snap, sched := none, layout := none })

/-- The body of a word for a port, and its issue checks (R242, step 2 and 3). -/
def State.wordBody (s : State) (p : Nat) (x : BitVec 128) : Except Cause CmdBody :=
  if p < 4 then
    match bandBody x with
    | none => .error 0x1D1
    | some (b, body) =>
      if b ≠ p then .error 0x1D1
      else
        let cause := match body with
          | .mma half _ n64 kc oa ob sa sb => s.mmaCause b half n64 kc.toNat sa sb oa ob
          | _ => if s.holdsBand b then none else some 0x1C0
        match cause with
        | some c => .error c
        | none => .ok body
  else match copyBody x s.w.snap with
    | none => .error 0x1D1
    | some c => match s.copyCause s.w.team (s.w.h c.hreg) c.dir false c.recNo c.gbase (BitVec.ofNat 64 c.lbase) c.bar with
      | some e => .error e
      | none => .ok (.copy c)

/-- The port that a push through a binding goes to and the command it queues, or the cause of R242. -/
def State.wordCmd (s : State) (h : Hdr) (b : Word) (x : BitVec 128) : Except Cause (Nat × (Nat → Cmd)) :=
  match s.portOf b with
  | none => .error 0x1D0
  | some p =>
    let gv := x.getLsbD 118
    let sv := x.getLsbD 116
    let succ := s.portOf (s.w.q (cw x 112 4))
    if cw x 123 5 ≠ 0 ∨ (!gv ∧ cw x 119 4 ≠ 0) ∨ (!sv ∧ cw x 112 4 ≠ 0) ∨ (sv ∧ succ = none) then .error 0x1D1
    else match s.wordBody p x with
      | .error e => .error e
      | .ok body => .ok (p, fun id =>
        { id := id, slot := slotOf s.cur, team := s.w.team, lanes := s.w.parts h
          guard := if gv then some (x.extractLsb' 119 4) else none
          hold := x.getLsbD 117, succ := if sv then succ else none, sq := x.extractLsb' 112 4, tag := x.extractLsb' 96 16
          dest := if p < 4 then .none else .port, body := body })

/-- The operand field of the trap state for a cause of a push: STATUS of the record for 0x1E0 (R264). -/
def State.pushOperand (s : State) (c : Cause) (hreg : Nat) : DWord :=
  if c = 0x1E0 then BitVec.ofNat 64 (lay (s.w.h hreg) 247 5) else s.noAddr

/-- A push of a command word through a q register (R242). -/
def State.pushWord (s : State) (h : Hdr) (len : Nat) (q : Nat) (x : BitVec 128) : State :=
  match s.wordCmd h (s.w.q q) x with
  | .error c => s.precise c (s.w.parts h) (s.pushOperand c (cw x 72 4))
  | .ok (p, c) => s.issue h len p c (fun id w => if p < 4 then w else w.openCopy id)

end Sys2Proof.Machine
end

