-- ==== Sys2Proof/Machine/Matrix.lean ====
section
/-! DEFINITION. The matrix engine (12_matrix.md R213 to R237): bands, reservations, MMA, accumulator moves, and what a band does
when it executes a command (05_numbers.md R93). -/

namespace Sys2Proof.Machine

/-! ### Bands -/

/-- The bands that the executing warp's team may hold (R213). -/
def State.myBands (s : State) : List Nat :=
  if s.myCore.splitMode then (if s.tenant = 0 then [0, 1] else [2, 3]) else [0, 1, 2, 3]

/-- Accumulators of columns `col` onward of a row set to `xs`. -/
def Core.setAcc (c : Core) (b row col : Nat) (xs : List Word) : Core :=
  { c with acc := Tab.setRun 0 c.acc (b * 2048 + row * 64 + col) xs }
/-- Element (row, column) of a band (R213). -/
def Core.accAt (c : Core) (b row col : Nat) : Word := Tab.get 0 c.acc (b * 2048 + row * 64 + col)

/-- A band claimed for a team of a context: every accumulator +0 (R214). -/
def Core.claim (c : Core) (owner : Nat) (x : CtxId) (b : Nat) : Core :=
  { c.setBand b ⟨.held, owner, x⟩ with acc := Tab.drop (fun k => k / 2048 == b) c.acc }

/-- BANDACQ (R216). -/
def execBandacq (i : BandAcq) (s : State) : Host.Outcome State Fault Refusal :=
  if !s.w.any i.h then .next (s.retire 8 i.h.sw)
  else
    let n := if i.two then 2 else 1
    let free := s.myBands.filter (fun b => (s.myCore.band b).state == .free)
    let got := if free.length < n then [] else free.take n
    let t := s.updCore (fun c => got.foldl (fun c b => c.claim (slotOf s.w.team) s.w.ctx b) c)
    let mask := got.foldl (fun (m : DWord) b => m ||| (1 <<< b)) 0
    .next (t.upd (fun w => w.putS i.h i.d 8 mask))

/-- A Releasing band whose queue is empty, or whose last command is gone, is Free (R214). -/
def Core.settleBand (c : Core) (b : Nat) : Core :=
  if (c.band b).state = .releasing ∧ (c.port b).all = [] then c.setBand b {} else c

/-- Whether a command names a record: an MMA operand, or a copy with DIR 10 (R219). -/
def CmdBody.names (x : CmdBody) (n : Nat) : Bool :=
  match x with
  | .mma _ _ _ _ _ _ a b => a.recNo.toNat == n || b.recNo.toNat == n
  | .copy c => c.dir == .g2o && c.recNo == n
  | .accz _ => false
  | .accrd .. => false
  | .accwr .. => false
  | .colrd _ => false

/-- A Releasing record that no unfinished command of the core names is Free (R219). -/
def Core.settleRec (c : Core) (n : Nat) : Core :=
  if (c.resvAt n).state = .releasing ∧
      (List.range 6).all (fun p => (c.port p).all.all (fun x => !x.body.names n)) then c.setResv n {} else c

/-- Bands and records that a finished command, or a release, leaves Free. -/
def Core.settle (c : Core) : Core :=
  (List.range 32).foldl Core.settleRec ((List.range 4).foldl Core.settleBand c)

/-- BANDREL (R217). A release: held behind the warp's remote accesses. Its earlier band commands end before a band is Free (R214, R233). The
participating lanes are the fault lanes of its cause (log entry 73). -/
def execBandrel (i : HA) (s : State) : Host.Outcome State Fault Refusal :=
  let m := s.w.parts i.h
  let v := s.w.s i.a.toNat
  let bs := [0, 1, 2, 3].filter (fun b => v.getLsbD b)
  if m = 0 then .next (s.retire 8 i.h.sw)
  else if v.extractLsb' 4 60 ≠ 0 ∨ bs.any (fun b => !s.holdsBand b) = true then .next (s.precise 0x1C0 m s.noAddr)
  else if s.remoteHolds none then .next s.hold
  else
    let t := s.updCore (fun c => (bs.foldl (fun c b => c.setBand b { c.band b with state := .releasing }) c).settle)
    .next (t.retire 8 i.h.sw)

/-! ### Reservations -/

/-- The records and the units that the executing warp's team may use: first and past last (R218). -/
def State.recRange (s : State) : (Nat × Nat) × (Nat × Nat) :=
  if s.myCore.splitMode then (if s.tenant = 0 then ((0, 16), (0, 256)) else ((16, 32), (256, 512)))
  else ((0, 32), (0, 512))

/-- Whether units `u` to `u + n - 1` belong to no record. -/
def Core.unitsFree (c : Core) (u n : Nat) : Bool :=
  (List.range 32).all (fun k =>
    let x := c.resvAt k
    x.state == .free || decide (x.base + x.size ≤ u) || decide (u + n ≤ x.base))

/-- The cause of an OBRES template (R221). -/
def obresCause (fmt : Word) (t : DWord) (size soff : Nat) : Option Cause :=
  let kind := field t 32 3
  let blk := field t 35 3
  if field t 38 26 ≠ 0 ∨ 3 ≤ kind ∨ size = 0 ∨ 512 < size then some 0x1C5
  else if kind = 0 then
    if narrowFmt fmt = none then some 0x086
    else if 5 ≤ blk ∨ soff = 0 ∨ size ≤ soff then some 0x1C5 else none
  else if fmt ≠ 0 ∨ blk ≠ 0 ∨ soff ≠ 0 then some 0x1C5 else none

/-- OBRES (R221). The participating lanes are the fault lanes of its causes (log entry 73). -/
def execObres (i : ObRes) (s : State) : Host.Outcome State Fault Refusal :=
  let m := s.w.parts i.h
  let t := s.w.s i.a.toNat
  let size := i.size.toNat
  if m = 0 then .next (s.retire 12 i.h.sw)
  else match obresCause (loWord t) t size i.soff.toNat with
    | some c => .next (s.precise c m s.noAddr)
    | none =>
      let c := s.myCore
      let r := s.recRange
      let n := (List.range 32).find? (fun k =>
        decide (r.1.1 ≤ k) && decide (k < r.1.2) && (c.resvAt k).state == .free)
      let u := (List.range 512).find? (fun u =>
        decide (r.2.1 ≤ u) && decide (u + size ≤ r.2.2) && c.unitsFree u size)
      match n, u with
      | some n, some u =>
        let x : Resv := { state := .held, fmt := loWord t, kind := t.extractLsb' 32 3, blk := t.extractLsb' 35 3,
                          soff := i.soff.toNat, size := size, base := u, owner := slotOf s.w.team,
                          ctx := s.w.ctx }
        let z := s.updCore (fun c =>
          { c.setResv n x with ob := Tab.drop (fun a => decide (u * 128 ≤ a) && decide (a < (u + size) * 128)) c.ob })
        .next (z.upd (fun w => w.putS i.h i.d 12 (BitVec.ofNat 64 n)))
      | _, _ => .next (s.upd (fun w => w.putS i.h i.d 12 0xFFFFFFFFFFFFFFFF))

/-- OBREL (R222). The participating lanes are the fault lanes of its cause (log entry 73). -/
def execObrel (i : HA) (s : State) : Host.Outcome State Fault Refusal :=
  let m := s.w.parts i.h
  let k := (s.w.s i.a.toNat).toNat
  if m = 0 then .next (s.retire 8 i.h.sw)
  else if !s.holdsRec k then .next (s.precise 0x1C1 m s.noAddr)
  else
    let t := s.updCore (fun c => (c.setResv k { c.resvAt k with state := .releasing }).settle)
    .next (t.retire 8 i.h.sw)

/-- Whether an operand of `v` vectors of `k` elements at offset `o` takes bytes from `lo` up to `hi` of the data and scales of record
`n` in the operand buffer (R224). -/
def Core.operandTouches (c : Core) (m : MatSpec) (o : DWord) (v k n lo hi : Nat) : Bool :=
  match m.src with
  | .ob => m.recNo.toNat == n && decide (o.toNat < hi) && decide (lo < o.toNat + (c.resvAt n).reach v k)
  | .sp => false
  | .remote .. => false

/-- Whether an unfinished MMA that the executing warp issued reads bytes `lo` up to `hi` of record `n`: its reads come before a later
OBLD (R191, R249; log entry 72). -/
def State.mmaReads (s : State) (n lo hi : Nat) : Bool :=
  let c := s.myCore
  (List.range 4).any (fun p => (c.port p).all.any (fun x =>
    x.slot == slotOf s.cur && !x.gone && s.myBandIds.contains x.id &&
    (match x.body with
      | .mma _ _ n64 kc oa ob a b =>
        let k := 2 * (kc.toNat + 1)
        c.operandTouches a oa 32 k n lo hi || c.operandTouches b ob (if n64 then 64 else 32) k n lo hi
      | .copy _ => false
      | .accz _ => false
      | .accrd .. => false
      | .accwr .. => false
      | .colrd _ => false)))

/-- OBLD (R223). With no participating lane it raises nothing; else the participating lanes are the fault lanes of its causes (log
entries 73 and 90). -/
def execObld (i : HABI) (s : State) : Host.Outcome State Fault Refusal :=
  let m := s.w.parts i.h
  let k := (s.w.s i.b.toNat).toNat
  let x := s.myCore.resvAt k
  let off := i.imm.toNat
  if m = 0 then .next (s.retire 12 i.h.sw)
  else if !s.holdsRec k then .next (s.precise 0x1C1 m s.noAddr)
  else if off % 4 ≠ 0 ∨ x.size * 128 < off + 128 then .next (s.precise 0x1C2 m s.noAddr)
  else if s.bandsOpen s.w.fence.bands || (lanesOf m).any (fun n => s.mmaReads k (off + 4 * n) (off + 4 * n + 4)) then .next s.hold
  else
    let t := s.updCore (fun c => (lanesOf m).foldl (fun c n =>
      { c with ob := Tab.setRun 0 c.ob (x.base * 128 + off + 4 * n) (bytesLE 4 (s.w.v i.a.toNat n).toNat) }) c)
    .next (t.retire 12 i.h.sw)

/-! ### Band commands of a warp -/

/-- MMA (R228). Its causes are raised whether or not a lane participates. -/
def execMma (i : Mma) (s : State) : Host.Outcome State Fault Refusal :=
  let m := s.w.parts i.h
  let b := i.band.toNat
  let x := s.w.s i.sreg.toNat
  let oa : DWord := (i.aop.off.setWidth 64 <<< 3) + (if i.sa then x else 0)
  let ob : DWord := (i.bop.off.setWidth 64 <<< 3) + (if i.sb then x else 0)
  match s.mmaCause b i.half i.n64 i.kc.toNat i.aop i.bop oa ob with
  | some c => .next (s.precise c m s.noAddr)
  | none =>
    if m = 0 then .next (s.retire 16 i.h.sw)
    else .next (s.issue i.h 16 b (s.plainCmd i.h .none (.mma i.half i.z i.n64 i.kc oa ob i.aop i.bop)) (fun _ w => w))

/-- ACCZ (R230, R231). Its cause is raised whether or not a lane participates, with the participating lanes as fault lanes, as R228 has it
for MMA (log entries 73 and 90). -/
def execAccz (i : AccZ) (s : State) : Host.Outcome State Fault Refusal :=
  let m := s.w.parts i.h
  if !s.holdsBand i.band.toNat then .next (s.precise 0x1C0 m s.noAddr)
  else if m = 0 then .next (s.retire 8 i.h.sw)
  else .next (s.issue i.h 8 i.band.toNat (s.plainCmd i.h .none (.accz i.part)) (fun _ w => w))

/-- The checks of ACCRD and ACCWR (R230). -/
def State.accCause (s : State) (i : AccMove) : Option Cause :=
  let n := i.nm1.toNat + 1
  if 64 < i.col.toNat + n ∨ 256 < i.reg.toNat + n then some 0x1CA
  else if !s.holdsBand i.band.toNat then some 0x1C0 else none

/-- ACCRD (R231): its result is long. Its causes are raised as ACCZ's is. -/
def execAccrd (i : AccMove) (s : State) : Host.Outcome State Fault Refusal :=
  let m := s.w.parts i.h
  match s.accCause i with
  | some c => .next (s.precise c m s.noAddr)
  | none =>
    if m = 0 then .next (s.retire 12 i.h.sw)
    else .next (s.issue i.h 12 i.band.toNat
      (s.plainCmd i.h .none (.accrd i.reg.toNat i.col.toNat (i.nm1.toNat + 1)))
      (fun id w => { w with pending := w.pending ++ [⟨id, m, .accrd id⟩] }))

/-- The register values that an ACCWR reads at issue, by lane * 64 + j (R231). -/
def Warp.accVals (w : Warp) (m : Mask) (r n : Nat) : Tab Word :=
  (lanesOf m).foldl (fun t i => Tab.setRun 0 t (i * 64) ((List.range n).map (fun j => w.v (r + j) i))) []

/-- ACCWR (R231). Its causes are raised as ACCZ's is. -/
def execAccwr (i : AccMove) (s : State) : Host.Outcome State Fault Refusal :=
  let m := s.w.parts i.h
  let n := i.nm1.toNat + 1
  match s.accCause i with
  | some c => .next (s.precise c m s.noAddr)
  | none =>
    if m = 0 then .next (s.retire 12 i.h.sw)
    else .next (s.issue i.h 12 i.band.toNat
      (s.plainCmd i.h .none (.accwr i.col.toNat n (s.w.accVals m i.reg.toNat n))) (fun _ w => w))

/-! ### What a band does (R93, R231, R243) -/

/-- Where the bytes of an operand of team `mine` lie: the operand buffer or the scratchpad of a core, from the byte of offset 0. -/
def State.opPlace (s : State) (core mine : Nat) (m : MatSpec) : (Nat → Byte) :=
  let c := s.core core
  let base := (c.resvAt m.recNo.toNat).base * 128
  let pad := fun (k : Nat) (a : Nat) => Tab.get (0 : Byte) (s.core (coreOf k)).scratch ((s.team k).base + a)
  match m.src with
  | .ob => fun a => Tab.get 0 c.ob (base + a)
  | .sp => pad mine
  | .remote n _ => pad ((s.remoteTeam (s.team mine) n.toNat).getD mine)

/-- A little-endian number of `n` bytes of an operand. -/
def placeNum (p : Nat → Byte) (a n : Nat) : Nat := natLE ((List.range n).map (fun i => p (a + i)))

/-- Element `j` of vector `v` of an operand without its scale (R84, R85, R224). -/
def Resv.elem (x : Resv) (p : Nat → Byte) (o k v j : Nat) : Num :=
  let n := v * k + j
  let bits := x.bits
  let code := if bits = 16 then placeNum p (o + 2 * n) 2
    else if bits = 8 then placeNum p (o + n) 1
    else (placeNum p (o + n / 2) 1) / (if n % 2 = 0 then 1 else 16) % 16
  match x.kind.toNat with
  | 1 => bf16.decode false code
  | 2 => f16.decode false code
  | _ => match narrowFmt x.fmt with
    | some f => f.decode false (code % 2 ^ f.width)
    | none => .nan

/-- The scale of the block that holds element `j` of vector `v`; none for BF16 and FP16 (R87, R224). -/
def Resv.scaleAt (x : Resv) (p : Nat → Byte) (o k v j : Nat) : Option Word :=
  if x.kind ≠ 0 then none
  else some (BitVec.ofNat 32 (placeNum p (o + x.soff * 128 + 4 * (v * (k / x.block) + j / x.block)) 4))

/-- An element as a scale reads it (R86). -/
def underScale (s : Option Word) (x : Num) : Num :=
  match s with
  | none => x
  | some w => if scaleExp w = 255 then .nan else if scaleExp w = 0 then .fin false 0 1 0 else x

/-- The factor of a scale (R86). -/
def factorOf (s : Option Word) : Num :=
  match s with
  | none => .fin false 1 1 0
  | some w => scaleMul w

/-- One accumulator element after `n` chunks of depth `d` from chunk `q` (R93). -/
def accChunks (ra rb : Resv) (pa pb : Nat → Byte) (oa ob k row col d : Nat) : Nat → Nat → Word → Word
  | 0, _, acc => acc
  | n + 1, q, acc =>
    let sa := ra.scaleAt pa oa k row (q * d)
    let sb := rb.scaleAt pb ob k col (q * d)
    let ps := (List.range d).map (fun i =>
      (underScale sa (ra.elem pa oa k row (q * d + i)), underScale sb (rb.elem pb ob k col (q * d + i))))
    accChunks ra rb pa pb oa ob k row col d n (q + 1) (chunkStep acc ps (factorOf sa) (factorOf sb))

/-- The effect of an executing MMA on band `b` of a core (R228); each clock that it takes is a chunk (R229, R397; log entry 81). -/
def State.mmaRun (s : State) (core b : Nat) (c : Cmd) (half z n64 : Bool) (kc : Nat) (oa ob : DWord) (sa sb : MatSpec) :
    State :=
  let k := 2 * (kc + 1)
  let ra := (s.core core).resvAt sa.recNo.toNat
  let rb := (s.core core).resvAt sb.recNo.toNat
  let pa := s.opPlace core c.team sa
  let pb := s.opPlace core c.team sb
  let d := depthOf ra rb
  let first := if half then 32 else 0
  let cols := if n64 then 64 else 32
  let x := s.core core
  (s.setCore core ((lanesOf c.lanes).foldl (fun y row =>
    y.setAcc b row first ((List.range cols).map (fun col =>
      accChunks ra rb pa pb oa.toNat ob.toNat k row col d (k / d) 0 (if z then 0 else x.accAt b row (first + col))))) x)).count
    core (s.team c.team).tenant 4 (k / d * (cols / 32))

/-- Registers that a result writes, by reg * 32 + lane. -/
def Warp.setMany (w : Warp) (v : List (Nat × Word)) : Warp :=
  { w with vregs := v.foldl (fun t e => Tab.set 0 t e.1 e.2) w.vregs }

/-- An ACCRD that executes on band `b` reads the accumulator for the lanes that still wait for it (R231, R149); LOAD_RESPONSE delivers the
values (R138; log entry 5). -/
def State.accReturn (s : State) (core b : Nat) (c : Cmd) (d col n : Nat) : State :=
  let k := core * 16 + c.slot
  let w := s.warp k
  match w.pending.find? (fun p => p.kind == .accrd c.id) with
  | none => s
  | some p =>
    let v := (lanesOf p.lanes).flatMap (fun i => (List.range n).map (fun j =>
      ((d + j) * 32 + i, (s.core core).accAt b i (col + j))))
    s.setWarp k { w with pending := w.pending.map (fun (q : Pending) => if q.id = p.id then { q with kind := .value v [] } else q) }

/-- A band whose executing command has not had its effect yet has it, where `f` accepts the command. -/
def State.bandAct (s : State) (r : PortRef) (f : Cmd → State → Option State) : Host.Outcome State Fault Refusal :=
  let x := s.port r.core r.port
  match x.exec with
  | none => .next s
  | some c =>
    if 4 ≤ r.port ∨ x.acted = true then .next s
    else match f c s with
      | none => .next s
      | some t => .next (t.setPort r.core r.port { t.port r.core r.port with acted := true })

/-- An MMA executes (R93, R228). -/
def execBandCmdMma (i : PortRef) (s : State) : Host.Outcome State Fault Refusal :=
  s.bandAct i (fun c s => match c.body with
    | .mma half z n64 kc oa ob sa sb => some (s.mmaRun i.core i.port c half z n64 kc.toNat oa ob sa sb)
    | _ => none)
/-- An ACCZ executes (R231). -/
def execBandCmdAccz (i : PortRef) (s : State) : Host.Outcome State Fault Refusal :=
  s.bandAct i (fun c s => match c.body with
    | .accz part => some (s.setCore i.core ((lanesOf c.lanes).foldl (fun y row =>
        y.setAcc i.port row (accSpan part).1 (List.replicate (accSpan part).2 0)) (s.core i.core)))
    | _ => none)
/-- An ACCRD executes (R231). -/
def execBandCmdAccrd (i : PortRef) (s : State) : Host.Outcome State Fault Refusal :=
  s.bandAct i (fun c s => match c.body with
    | .accrd d col n => some (s.accReturn i.core i.port c d col n)
    | _ => none)
/-- An ACCWR executes (R231). -/
def execBandCmdAccwr (i : PortRef) (s : State) : Host.Outcome State Fault Refusal :=
  s.bandAct i (fun c s => match c.body with
    | .accwr col n vals => some (s.setCore i.core ((lanesOf c.lanes).foldl (fun y row =>
        y.setAcc i.port row col (Tab.getRun 0 vals (row * 64) n)) (s.core i.core)))
    | _ => none)
/-- A COLRD executes once its band's result port has room (R243). -/
def execBandCmdColrd (i : PortRef) (s : State) : Host.Outcome State Fault Refusal :=
  s.bandAct i (fun c s => match c.body with
    | .colrd col =>
      let x := s.core i.core
      let q := Tab.get [] x.results i.port
      if 8 ≤ q.length then none
      else
        let t := s.setCore i.core
          { x with results := Tab.set [] x.results i.port (q ++ [allLanes.map (fun row => x.accAt i.port row col)]) }
        some t
    | _ => none)

end Sys2Proof.Machine
end

