-- ==== Sys2Proof/Machine/Copy.lean ====
section
/-! DEFINITION. The copy engine (14_copy.md R257 to R273): layout records, HREC, COPY, the parts of an executing copy, how a
command leaves its queue (13_queue.md R246, R248), batches and cancels. -/

namespace Sys2Proof.Machine

/-! ### Layout records -/

/-- The ORDER entries 0 to N - 1. -/
def layOrder (r : BitVec 256) : List Nat := (List.range (min (lay r 213 3) 5)).map (fun k => lay r (219 + 3 * k) 3)

/-- Condition of STATUS 0x03 (R259). -/
def layBadStride (r : BitVec 256) : Bool :=
  [1, 2, 3, 4].any (fun d => decide (d < lay r 213 3) && layStride r d % 16 != 0)

/-- Condition of STATUS 0x04 (R259). A STATUS above 0x02 in the image counts here. -/
def layBadShape (r : BitVec 256) : Bool :=
  let n := lay r 213 3
  lay r 247 5 != 0 || n == 0 || decide (5 < n) || decide (18 < lay r 208 5) || lay r 252 3 != 0 ||
    !(List.range (min n 5)).all (fun d => (layOrder r).contains d) ||
    (List.range 5).any (fun d => decide (n ≤ d) &&
      (lay r (24 * d) 24 != 0 || lay r (219 + 3 * d) 3 != 0 || (d != 0 && lay r (120 + 22 * (d - 1)) 22 != 0)))

/-- Condition of STATUS 0x05 (R259). -/
def layBadBlock (r : BitVec 256) : Bool :=
  let b0 := lay r 234 4
  let b1 := lay r 238 4
  decide (8 < b0) || decide (8 < b1) || (b1 != 0 && lay r 213 3 == 1) || layExt r 0 % 2 ^ b0 != 0 || layExt r 1 % 2 ^ b1 != 0

/-- The status that HREC writes for an image (R259). -/
def layStatus (r : BitVec 256) : Nat :=
  let old := lay r 247 5
  if old = 1 ∨ old = 2 then old
  else if layBadStride r then 3
  else if layBadShape r then 4
  else if layBadBlock r then 5
  else if lay r 234 4 + lay r 238 4 + lay r 216 2 < 2 then 6
  else if 2 ^ 40 ≤ layTotal r ∨ (lay r 242 5 ≠ 0 ∧ layTotal r % 128 ≠ 0) then 7 else 0

/-- The record that HREC makes of an image (R262). -/
def layBuild (img : BitVec 256) : BitVec 256 :=
  let st := layStatus img
  let keep := img &&& ~~~((BitVec.ofNat 256 (2 ^ 255)) ||| (BitVec.ofNat 256 31 <<< 247))
  keep ||| (BitVec.ofNat 256 st <<< 247) ||| (if st = 0 then BitVec.ofNat 256 (2 ^ 255) else 0)

/-- Blocks along dimension `d` (R260). -/
def layBlocks (r : BitVec 256) (d : Nat) : Nat :=
  match d with
  | 0 => layExt r 0 / 2 ^ lay r 234 4
  | 1 => layExt r 1 / 2 ^ lay r 238 4
  | d => layExt r d

/-- Global address, relative to gbase, of the element whose local index order number is `n` (R260). -/
def layGlobal (r : BitVec 256) (n : Nat) : Int :=
  let b0 := 2 ^ lay r 234 4
  let b1 := 2 ^ lay r 238 4
  let w := n % (b0 * b1)
  let x := ((layOrder r).reverse.foldl (fun (a : Nat × Tab Nat) d =>
    (a.1 / layBlocks r d, Tab.put d (a.1 % layBlocks r d) a.2)) (n / (b0 * b1), [])).2
  let flat := lay r 218 1 = 0
  let i0 := Tab.get 0 x 0 * b0 + (if flat then w % b0 else w / b1)
  let i1 := Tab.get 0 x 1 * b1 + (if flat then w / b0 else w % b1)
  (i0 * layElem r : Nat) + i1 * layStride r 1 + Tab.get 0 x 2 * layStride r 2 + Tab.get 0 x 3 * layStride r 3 +
    Tab.get 0 x 4 * layStride r 4

/-- The local place of byte `a` = lbase + L + b: the swizzle permutes the words of a 128-byte line (R260). -/
def laySwizzle (r : BitVec 256) (a : Nat) : Nat := a ^^^ ((lay r 242 5 &&& (a / 128 % 32)) * 4)

/-! ### HREC -/

/-- Whether a command is a copy of warp slot `k`, not a scheduled one. -/
def Cmd.copyOf (c : Cmd) (k : Nat) : Bool :=
  match c.body with
  | .copy q => q.sched.isNone && c.slot == k && !c.gone
  | .mma .. => false
  | .accz _ => false
  | .accrd .. => false
  | .accwr .. => false
  | .colrd _ => false
/-- The h register that a copy names. -/
def Cmd.hreg (c : Cmd) : Option Nat :=
  match c.body with
  | .copy q => some q.hreg
  | .mma .. => none
  | .accz _ => none
  | .accrd .. => none
  | .accwr .. => none
  | .colrd _ => none

/-- Whether a copy of the executing warp that names h register `d` has not started (R262). -/
def State.copyWaits (s : State) (d : Nat) : Bool :=
  [4, 5].any (fun p => (s.myCore.port p).queue.any (fun c => c.copyOf (slotOf s.cur) && c.hreg == some d))

/-- The record in h register `d`, and the end of the HREC. -/
def State.hrecDone (s : State) (h : Hdr) (d : RegNo) (b : List Byte) : State :=
  s.upd (fun w => Warp.retire { w with hregs := Tab.set 0 w.hregs d.toNat (layBuild (BitVec.ofNat 256 (natLE b))) } 16 h.sw)

/-- HREC with an image in global memory (R262). From another package's memory the warp waits at the HREC for the bytes. -/
def State.hrecGlobal (s : State) (i : HRec) (m : Mask) (a : DWord) : State :=
  match s.transParts s.w.ctx s.myDie wantR 0 a (partsOf a 32) with
  | .error fs => s.replayable ((lanesOf m).flatMap (fun n => fs.map (fun x => { x with lane := n }))) 0 0
  | .ok ps =>
    let strong := ps.any (fun p => p.2.okind == 0)
    if ps.any (fun p => s.away p.2) && s.w.loadAway then s.park 24
    else if s.lanesHeld [⟨0, a, ps⟩] || (strong && s.strongHolds none) then s.hold
    else
    let r := (s.noteParts true ps).readParts s.view false (s.ticks * 65536) ps
    let acq := fun (t : State) => if strong then t.acquireOn 0 3 else t
    let hit := fun (t : State) => if t.watched t.w.ctx true false a 32 then
      t.upd (fun w => { w with watch := holdHit w.watch m (fun _ => a) }) else t
    match gotAll r.2 with
    | .bytes b =>
      let t := (acq (hit r.1)).upd (fun w =>
        { w with hregs := Tab.set 0 w.hregs i.d.toNat (layBuild (BitVec.ofNat 256 (natLE b))) })
      t.complete m 16 i.h.sw
    | .wait n => r.1.park n
    | .fail c => r.1.enter c m 0 a
    | .away =>
      let tag := r.1.nextId
      let asks := asksOf 0 r.2
      (acq ((hit (r.1.addPending 1 (.hrec i.d.toNat a asks (r.1.die s.myDie).epoch tag))).sendLoads tag asks)).park 1

/-- HREC (R262). -/
def execHrec (i : HRec) (s : State) : Host.Outcome State Fault Refusal :=
  s.memory 0 (fun s =>
    let m := s.w.parts i.h
    let a := s.w.s i.a.toNat + sx64 i.disp
    if m = 0 then s.complete (s.w.allParts i.h) 16 i.h.sw
    else if a.toNat % 32 ≠ 0 then s.precise 0x1E1 m a
    else if i.sp ∧ s.myTeam.size < a.toNat + 32 then s.precise 0x114 m a
    else if s.copyWaits i.d.toNat then s.park 26
    else if i.sp then s.hrecDone i.h i.d (s.spBytes s.w.team a.toNat 32)
    else s.hrecGlobal i m a)

/-! ### COPY (R263, R264) -/

/-- The copy that an instruction asks for, and whether bits 63 to 37 of a reservation operand are set. -/
def Warp.copyReq (w : Warp) (i : CopyOp) : CopyReq × DWord × Bool :=
  let d := w.s i.dst.toNat
  let c := w.s i.src.toNat
  let g := match i.dir with
    | .g2s | .g2o => c
    | .s2g => d
  let l := match i.dir with
    | .g2s => d
    | .s2g => c
    | .g2o => d &&& 0xFFFFFFFF
  (⟨i.hreg.toNat, i.dir, g, l.toNat, if i.dir = .g2o then field d 32 5 else 0, i.bar, w.snap, none, none⟩, l,
    field d 37 27 != 0)

/-- COPY (R264): its status is a long result. -/
def execCopy (i : CopyOp) (s : State) : Host.Outcome State Fault Refusal :=
  let m := s.w.parts i.h
  let q := s.w.copyReq i
  match s.copyCause s.w.team (s.w.h i.hreg.toNat) i.dir q.2.2 q.1.recNo q.1.gbase q.2.1 i.bar with
  | some c => .next (s.precise c m (s.pushOperand c i.hreg.toNat))
  | none =>
    if m = 0 then .next (s.retire 12 i.h.sw)
    else .next (s.issue i.h 12 s.copyPort (s.plainCmd i.h (.sreg i.d.toNat) (.copy q.1)) (fun id w =>
      Warp.openCopy { w with pending := w.pending ++ [⟨id, m, .copy id i.d.toNat⟩] } id))

/-! ### How a command leaves its queue (R246, R248) -/

/-- A release of a successor arrives at a port (R248). -/
def State.release (s : State) (core : Nat) (succ : Option Nat) : State :=
  match succ with
  | none => s
  | some p =>
    let x := s.port core p
    s.setPort core p (if x.rels = 255 then { x with relovf := true } else { x with rels := x.rels + 1 })

/-- The record that a copy reads: a scheduled copy's own, else the h register of its warp (R264). -/
def State.copyRec (s : State) (core slot : Nat) (q : CopyReq) : BitVec 256 :=
  q.layout.getD ((s.warp (core * 16 + slot)).h q.hreg)

/-- The status word (R267). -/
def copyStatus (canc ovf : Bool) (code : Cause) (bytes : Nat) : DWord :=
  BitVec.ofNat 64 (2 ^ 63 + (if canc then 2 ^ 62 else 0) + (if ovf then 2 ^ 61 else 0) + code.toNat * 2 ^ 40 + bytes % 2 ^ 40)

/-- A copy no longer belongs to a warp's batches (R269). -/
def Warp.forget (w : Warp) (id : Nat) : Warp :=
  { w with openCopies := w.openCopies.filter (fun x => x != id)
           batches := w.batches.map (fun b => (b.1, b.2.filter (fun x => x != id))) }

/-- The status of copy `id` is delivered to a warp: its scalar register, or its status port (R264, R265). -/
def Warp.deliver (w : Warp) (id : Nat) (dest : CmdDest) (tag : BitVec 16) (st : DWord) : Warp :=
  let w := w.forget id
  match dest with
  | .none => w
  | .sreg n =>
    match w.pending.find? (fun p => p.kind == .copy id n) with
    | none => w
    | some p => { w.setS n st with pending := w.pending.filter (fun q => q.id != p.id) }
  | .port => if w.stat = .free ∨ w.stat = .retiring then w else { w with statusPort := w.statusPort ++ [(st, tag)] }

/-- Whether the status of a copy can be delivered now (R265). Nothing takes up that of a warp which ends (R247). -/
def State.statusRoom (s : State) (core : Nat) (c : Cmd) : Bool :=
  let w := s.warp (core * 16 + c.slot)
  match c.dest with
  | .port => c.gone || w.stat == .retiring || decide (w.statusPort.length < 16)
  | .none => true
  | .sreg _ => true

/-- A scheduled copy leaves: PENDC of its slot falls, and a cause enters FCODE (R288). -/
def State.schedOut (s : State) (sched : Option (Nat × Nat)) (code : Cause) : State :=
  match sched with
  | none => s
  | some (r, j) =>
    let x := s.region r
    let e : Slot := Tab.get {} x.slots (j % 64)
    if x.state = .free ∨ e.iter.toNat ≠ j then s
    else
      let e : Slot := { e with pendc := e.pendc - 1, fcode := if code = 0 then e.fcode else code }
      s.setRegion r { x with slots := Tab.set {} x.slots (j % 64) e }

/-- A copy leaves with `bytes` of its `total` written: the others leave its barrier, the status is delivered, the successor is
released (R246, R267, R270). -/
def State.copyOut (s : State) (core : Nat) (c : Cmd) (q : CopyReq) (canc ovf : Bool) (code : Cause) (bytes total : Nat) :
    State :=
  let k := core * 16 + c.slot
  let r := match q.bar with
    | some b => if bytes < total then s.txSub c.team c.slot b.toNat (total - bytes) else (s, false)
    | none => (s, false)
  let t := r.1.schedOut q.sched code
  let t := if q.sched.isNone && !c.gone then
    t.setWarp k ((t.warp k).deliver c.id c.dest c.tag
      (copyStatus (canc && decide (bytes < total)) (ovf || c.ovf || r.2) code bytes))
    else t
  t.release core c.succ

/-- A command that has not started is discarded (R246): a copy as one cancelled before it starts, an ACCRD without a result. -/
def State.discard (s : State) (core : Nat) (c : Cmd) : State :=
  match c.body with
  | .copy q => s.copyOut core c q true false 0 0 (layTotal (s.copyRec core c.slot q))
  | .accrd .. =>
    let k := core * 16 + c.slot
    let w := s.warp k
    (s.setWarp k { w with pending := w.pending.filter (fun p => p.kind != .accrd c.id) }).release core c.succ
  | .mma .. => s.release core c.succ
  | .accz _ => s.release core c.succ
  | .accwr .. => s.release core c.succ
  | .colrd _ => s.release core c.succ

/-- A copy that has been discarded and cannot leave yet: its bytes leave its barrier at once (R205, R270). -/
def State.takeBytes (s : State) (core : Nat) (c : Cmd) : State × Cmd :=
  match c.body with
  | .copy q => match q.bar with
    | some b =>
      let r := s.txSub c.team c.slot b.toNat (layTotal (s.copyRec core c.slot q))
      (r.1, { c with out := true, ovf := r.2, body := .copy { q with bar := none } })
    | none => (s, { c with out := true })
  | .mma .. => (s, c)
  | .accz _ => (s, c)
  | .accrd .. => (s, c)
  | .accwr .. => (s, c)
  | .colrd _ => (s, c)

/-- Queued commands that `f` names are discarded in order; a copy whose status port is full stays, to leave at the head. -/
def State.discardQueued (s : State) (core port : Nat) (f : Cmd → Bool) : State :=
  let t := (s.port core port).queue.foldl (fun (s : State) c =>
    if f c && !c.out then
      let others := fun (x : Port) => x.queue.filter (fun y => y.id != c.id)
      if s.statusRoom core c then
        let x := s.port core port
        (s.setPort core port { x with queue := others x }).discard core c
      else
        let r := s.takeBytes core c
        let x := r.1.port core port
        r.1.setPort core port { x with queue := x.queue.map (fun (y : Cmd) => if y.id = c.id then r.2 else y) }
    else s) s
  t.setCore core (t.core core).settle

/-! ### The parts of a copy (R266, R268, R273) -/

/-- The elements of the next part: from element `n`, those whose lbase + L lies in its 128-byte line, of `total` (R266). -/
def partElems (lbase elem total n : Nat) : List Nat :=
  let line := (lbase + n * elem) / 128
  ((List.range 128).map (fun i => n + i)).filter (fun k => decide (k < total) && (lbase + k * elem) / 128 == line)

/-- Translations of the elements of a part, or the first cause with its address. -/
def State.partTrans (s : State) (c : CtxId) (die : Nat) (want : Want) (va : Nat → DWord) :
    List Nat → Except (Cause × DWord) (List (Nat × Trans))
  | [] => .ok []
  | n :: ns => match s.translate c die want (n % 65536) (va n) with
    | .error e => .error (e, va n)
    | .ok t => match State.partTrans s c die want va ns with
      | .error e => .error e
      | .ok r => .ok ((n, t) :: r)

/-- Progress of a port's copy changed. -/
def State.setProg (s : State) (core port : Nat) (f : CopyProg → CopyProg) : State :=
  let x := s.port core port
  s.setPort core port { x with prog := f x.prog }

/-- Whether an executing copy has nothing more to do but leave. -/
def CopyProg.over (p : CopyProg) : Bool := p.canc || p.code != 0 || decide (layCount p.layout ≤ p.done)

/-- The bytes that a copy will not write any more, cancelled or ended by a cause, leave its barrier at once (R205, R268, R270). -/
def State.copyRest (s : State) (core port : Nat) (c : Cmd) (q : CopyReq) : State :=
  let p := (s.port core port).prog
  let rest := layTotal p.layout - p.bytes
  if !p.over || p.remote.isSome || p.left then s
  else
    let r := match q.bar with
      | some b => if rest = 0 then (s, false) else s.txSub c.team c.slot b.toNat rest
      | none => (s, false)
    r.1.setProg core port (fun p => { p with left := true, ovf := p.ovf || r.2 })

/-- A part of `n` elements is visible: it counts, and its bytes leave the barrier (R266). -/
def State.partDone (s : State) (core port : Nat) (c : Cmd) (q : CopyReq) (n : Nat) : State :=
  let bytes := n * layElem (s.port core port).prog.layout
  let r := match q.bar with
    | some b => s.txSub c.team c.slot b.toNat bytes
    | none => (s, false)
  ((r.1.setProg core port (fun p =>
    { p with done := p.done + n, bytes := p.bytes + bytes, ovf := p.ovf || r.2, remote := none })).count core (port - 4) 5 bytes).copyRest
    core port c q

/-- A byte of the SRAM that a copy reads or writes: the operand buffer, or the scratchpad. -/
def Core.sram (c : Core) (ob : Bool) (a : Nat) : Byte := if ob then Tab.get 0 c.ob a else Tab.get 0 c.scratch a
/-- Bytes of that SRAM written; a scratchpad word keeps its full/empty bit (R180). -/
def Core.setSram (c : Core) (ob : Bool) (ws : List (Nat × Byte)) : Core :=
  if ob then { c with ob := ws.foldl (fun t w => Tab.set 0 t w.1 w.2) c.ob }
  else { c with scratch := ws.foldl (fun t w => Tab.set 0 t w.1 w.2) c.scratch }

/-- The view of a copy: that of its warp with the snap it held at issue (R268). -/
def State.copyView (s : State) (core : Nat) (c : Cmd) (q : CopyReq) : View :=
  let w := if c.gone then {} else s.warp (core * 16 + c.slot)
  if q.sched.isSome ∨ q.snap = 0 then .plain
  else .time q.snap (if w.txState = .active ∧ w.txStart = q.snap then some (ownerOf w.ctx (core * 16 + c.slot)) else none)
    (w.snap == q.snap && s.snapExpired w)

/-- The pages of a part that R168 has not counted for this copy are counted. -/
def State.countPart (s : State) (core port : Nat) (c : CtxId) (ps : List (DWord × Trans)) : State :=
  let old := (s.port core port).prog.pages
  let fresh := ps.filter (fun e => !old.contains (e.1.toNat / 4096))
  ((s.countPages c (dieOf core) fresh).setProg core port (fun p =>
    { p with pages := ascending (old ++ fresh.map (fun e => e.1.toNat / 4096)) }))

/-- A packet of the copy engine of a core for a context. -/
def State.sendAs (s : State) (src : Nat × Nat) (c : CtxId) (dst : Peer) (tag : Nat) (body : PacketBody) : State :=
  { s with out := s.out ++ [⟨dst, c, (s.ctx c).gen, none, false, tag, body, some src⟩] }

/-- A numbered store of part `part` of a copy on the path C (R355, R368). -/
def State.sendCopyStore (s : State) (c : CtxId) (k part : Nat) (cmd : Cmd) (ordered : Bool) (dst : Peer) (line : Nat)
    (body : PacketBody) : State :=
  let gen := (s.ctx c).gen
  let key := streamKey dst c gen
  let n := Tab.get 0 s.outSeq key
  { s.fresh1 with
    outSeq := Tab.set 0 s.outSeq key (n + 1)
    out := s.out ++ [⟨dst, c, gen, some n, ordered, s.nextId, body, some (coreOf k, (s.team cmd.team).tenant)⟩]
    remotes := s.remotes ++ [⟨s.nextId, k, c, 2, dst, line, some part, cmd.id, gen, (s.team cmd.team).launch⟩] }

/-- Whether a write of another copy of a core to a line of another package is unacknowledged: a later copy's accesses to the line
wait for it (R191, R249). -/
def State.copyLine (s : State) (core cmd : Nat) (p : Peer) (line : Nat) : Bool :=
  s.remotes.any (fun r => r.path == 2 && coreOf r.warp == core && r.cmd != cmd && r.peer == p && r.line == line)

/-- The source bytes of the elements that lie on this package, by element. -/
def State.partRead (s : State) (v : View) (elem : Nat) (va : Nat → DWord) : List (Nat × Trans) → Got × List (Nat × List Byte)
  | [] => (.bytes [], [])
  | (n, t) :: r =>
    let q := State.partRead s v elem va r
    let here : Got := if s.away t then .away
      else if t.vers then s.readVersioned v (t.addr (va n)) elem else .bytes (s.bytes (t.addr (va n)) elem)
    match here with
    | .bytes b => (q.1, (n, b) :: q.2)
    | .away => q
    | .wait k => (match q.1 with
      | .fail c => .fail c
      | _ => .wait k, q.2)
    | .fail c => (.fail c, q.2)

/-- The next part of an executing copy with its elements translated. A part written to other packages counts when its stores
have been issued; its bytes leave the barrier when they are acknowledged (R414). -/
def State.copyMove (s : State) (core port : Nat) (c : Cmd) (q : CopyReq) (ts : List (Nat × Trans)) (va : Nat → DWord) : State :=
  let p := (s.port core port).prog
  let e := layElem p.layout
  let ctx := (s.team c.team).ctx
  let ob := q.dir == .g2o
  let base := if ob then ((s.core core).resvAt q.recNo).base * 128 else (s.team c.team).base
  let spot := fun (n : Nat) => (List.range e).map (fun b => base + laySwizzle p.layout (q.lbase + n * e + b))
  let away := ts.filter (fun x => s.away x.2)
  let here := ts.filter (fun x => !s.away x.2)
  if q.dir = .s2g then
    if ts.any (fun x => x.2.vers) then (s.setProg core port (fun p => { p with code := 0x08A })).copyRest core port c q
    else
      let data := fun (n : Nat) => (spot n).map (fun a => (s.core core).sram false a)
      let cells := fun (x : Nat × Trans) => (data x.1).zipIdx.map (fun y => (x.2.addr (va x.1) + y.2, y.1))
      let t := s.at (core * 16 + c.slot) (fun s => here.foldl (fun s x => s.storeHere x.2 (cells x)) s)
      if away = [] then t.partDone core port c q ts.length
      else
        let part := t.nextId
        let ordered := away.any (fun x => x.2.okind == 0)
        let send := fun (t : State) (p : Nat) =>
          let ws := (away.filter (fun x => x.2.peer.toNat == p)).flatMap cells
          (linesOf ws).foldl (fun t l =>
            (t.storeCopy (dieOf core) (BitVec.ofNat 12 p) l (onLine l ws)).sendCopyStore ctx (core * 16 + c.slot) part c ordered
              (BitVec.ofNat 12 p) l (.store (onLine l ws))) t
        let t := (ascending (away.map (fun x => x.2.peer.toNat))).foldl send t.fresh1
        let n := ts.length * e
        let t := t.count core (port - 4) 5 n
        let t := if q.bar.isSome then
            { t with lateCopies := t.lateCopies ++ [⟨part, ctx, (t.ctx ctx).gen, core, c.slot, q.bar, false, [], n, c.id, c.team⟩] }
          else t
        t.setProg core port (fun p => { p with done := p.done + ts.length, bytes := p.bytes + n })
  else
    let r := s.partRead (s.copyView core c q) e va ts
    match r.1 with
    | .fail x => (s.setProg core port (fun p => { p with code := x })).copyRest core port c q
    | .wait _ => s
    | .away => s
    | .bytes _ =>
      let strong := ts.any (fun x => x.2.okind == 0)
      let t := here.foldl (fun s x => s.endLeases (x.2.addr (va x.1)) e) s
      let t := if strong then t.dropCopies ctx (dieOf core) true else t
      let t := t.setCore core ((t.core core).setSram ob (r.2.flatMap (fun x => (spot x.1).zip x.2)))
      if away = [] then t.partDone core port c q ts.length
      else
        let tag := t.nextId
        let asks := away.flatMap (fun x => (List.range e).map (fun b => (x.2.peer, x.2.addr (va x.1) + b)))
        let t := (ascending (asks.map (·.1.toNat))).foldl (fun t p =>
          t.sendAs (core, port - 4) ctx (BitVec.ofNat 12 p) tag (.load ((asks.filter (fun e => e.1.toNat == p)).map (·.2)))) t.fresh1
        t.setProg core port (fun p => { p with remote := some ⟨tag, ts.length, away.flatMap (fun x => spot x.1), strong⟩ })

/-- The elements of a part that the engine handles together: all of them, or where one lies on a strongly ordered page the first ones
that lie on one package, so that its accesses take effect in ascending L (R197). -/
def strongRun (ts : List (Nat × Trans)) : List (Nat × Trans) :=
  if ts.any (fun x => x.2.okind == 0) then ts.takeWhile (fun x => some x.2.peer == (ts.head?).map (fun y => y.2.peer)) else ts

/-- Whether an access of a copy to a strongly ordered page waits for earlier writes of its warp's copies: a read for all of them, a write
for those that do not go the same way (R193, R194, R197, R355). -/
def State.copyStrong (s : State) (core : Nat) (c : Cmd) (q : CopyReq) (ts : List (Nat × Trans)) : Bool :=
  ts.any (fun x => x.2.okind == 0) &&
    s.remotes.any (fun r => r.path == 2 && r.warp == core * 16 + c.slot && r.ctx == (s.team c.team).ctx &&
      (q.dir != .s2g || some r.peer != (ts.head?).map (fun y => y.2.peer)))

/-- The next part of the copy that a port executes (R266). -/
def State.copyStep (s : State) (core port : Nat) (c : Cmd) (q : CopyReq) : State :=
  let p := (s.port core port).prog
  let ctx := (s.team c.team).ctx
  if p.over || p.stalled.isSome || p.remote.isSome then s
  else
    let va := fun (n : Nat) => q.gbase + BitVec.ofInt 64 (layGlobal p.layout n)
    match s.partTrans ctx (dieOf core) (if q.dir = .s2g then wantW else wantR) va
        (partElems q.lbase (layElem p.layout) (layCount p.layout) p.done) with
    | .error (e, a) =>
      let id := s.nextId
      (s.fault { id := 0, va := a, cause := e, kind := 0, acc := 4, ctx := ctx, gen := (s.ctx ctx).gen, core := core,
                 slot := c.slot, lanes := 0, ft := s.now }).setProg core port (fun p => { p with stalled := some id })
    | .ok all =>
      let ts := strongRun all
      if ts.any (fun x => s.away x.2 && s.copyLine core c.id x.2.peer (x.2.addr (va x.1) / 128)) || s.copyStrong core c q ts then s
      else
      let t := ts.foldl (fun s x => s.use ctx (dieOf core) (va x.1) (layElem p.layout) x.2) s
      let t := t.countPart core port ctx (ts.map (fun x => (va x.1, x.2)))
      t.copyMove core port c q ts va

/-- The copy that a port executes. -/
def State.running (s : State) (core port : Nat) : Option (Cmd × CopyReq) :=
  match (s.port core port).exec with
  | some c => match c.body with
    | .copy q => some (c, q)
    | _ => none
  | none => none

/-- The core and port whose copy waits for responses with a tag. -/
def State.portOfTag (s : State) (tag : Nat) : Option (Nat × Nat) :=
  (s.cores.flatMap (fun e => e.2.ports.filterMap (fun x =>
    match x.2.prog.remote with
    | some r => if x.2.exec.isSome ∧ r.tag = tag ∧ r.dests ≠ [] then some (e.1, x.1) else none
    | none => none))).head?

/-- The copy that a port executes leaves, once it is over, its status can be delivered, and every byte that it has counted is there
(R265, R267, R271, R273). -/
def State.copyEnd (s : State) (core port : Nat) (c : Cmd) (q : CopyReq) : State :=
  let s := s.copyRest core port c q
  let x := s.port core port
  let p := x.prog
  if !p.over || p.remote.isSome || !s.statusRoom core c ||
      s.lateCopies.any (fun l => l.cmd == c.id && l.dests != []) then s
  else
    let t := s.setPort core port { x with exec := none, prog := {} }
    let t := t.copyOut core c { q with bar := none } p.canc p.ovf p.code p.bytes (layTotal p.layout)
    t.setCore core (t.core core).settle

/-- COPY_COMPLETE (R267). -/
def execCopyComplete (i : PortRef) (s : State) : Host.Outcome State Fault Refusal :=
  match s.running i.core i.port with
  | none => .next s
  | some (c, q) => .next (s.copyEnd i.core i.port c q)

/-! ### Batches (R269, R270) -/

/-- The oldest record whose copies have all left is dropped when 16 records stand. -/
def batchRoom (bs : List (Word × List Nat)) : List (Word × List Nat) :=
  if bs.length < 16 then bs
  else match (bs.zipIdx.filter (fun e => e.1.2 == [])).getLast? with
    | some e => bs.eraseIdx e.2
    | none => bs

/-- CBATCH (R269). -/
def execCbatch (i : HD) (s : State) : Host.Outcome State Fault Refusal :=
  let w := s.w
  if !w.any i.h then .next (s.retire 8 i.h.sw)
  else if 16 ≤ (w.batches.filter (fun b => b.2 != [])).length then .next (s.park 8)
  else
    let n := if w.batch = 0xFFFFFFFF then 1 else w.batch + 1
    .next (s.upd (fun w => Warp.putS
      { w with batch := n, batches := (n, w.openCopies) :: batchRoom w.batches, openCopies := [] } i.h i.d 8 (zx64 n)))

/-- CWAIT (R269). -/
def execCwait (i : HI) (s : State) : Host.Outcome State Fault Refusal :=
  let w := s.w
  if !w.any i.h then .next (s.retire 12 i.h.sw)
  else if (w.batches.drop i.imm.toNat).any (fun b => b.2 != []) then .next (s.park 7)
  else .next (s.upd (fun w => Warp.retire { w with batches := w.batches.filter (fun b => b.2 != []) } 12 i.h.sw))

/-- A cancel of some copies of the executing warp (R270): the bytes that they will not write leave their barriers (R205). -/
def State.cancel (s : State) (ids : List Nat) : State :=
  let core := coreOf s.cur
  [4, 5].foldl (fun s p =>
    let s := match (s.port core p).exec with
      | some c => if ids.contains c.id then
          let t := s.setProg core p (fun g => { g with canc := true })
          match c.body with
          | .copy q => t.copyRest core p c q
          | _ => t
        else s
      | none => s
    s.discardQueued core p (fun c => ids.contains c.id)) s

/-- CCANCEL (R269, R270). -/
def execCcancel (i : HA) (s : State) : Host.Outcome State Fault Refusal :=
  let m := s.w.parts i.h
  let v := s.w.s i.a.toNat
  if m = 0 then .next (s.retire 8 i.h.sw)
  else if hiWord v ≠ 0 then .next (s.precise 0x1E3 m s.noAddr)
  else
    let ids := if v = 0 then s.w.openCopies
      else (s.w.batches.filter (fun b => b.1 == loWord v)).flatMap (·.2)
    .next ((s.cancel ids).retire 8 i.h.sw)

end Sys2Proof.Machine
end

