-- ==== Sys2Proof/Machine/Engine.lean ====
section
/-! DEFINITION. Engine queues, guards and tasks (13_queue.md R238 to R256), and MOV from and to special registers
(06_vector.md R110, 04_registers.md R62, R63). -/

namespace Sys2Proof.Machine

/-! ### MOV of special registers -/

/-- The value of special register `n` in lane `i`, but for a q register (R48, R110). -/
def Warp.special (w : Warp) (n i : Nat) : Word :=
  match n with
  | 0 => w.em
  | 1 => loWord w.snap
  | 2 => hiWord w.snap
  | 3 => w.stg
  | 4 => BitVec.ofNat 32 i
  | 5 => loWord (w.wid i)
  | _ => hiWord (w.wid i)

/-- The 32 words of a copy status entry (R245). -/
def statusWords (st : DWord) (tag : BitVec 16) : List Word := [loWord st, hiWord st, tag.setWidth 32]

/-- An entry popped: word `i` goes to lane `i`, as a long result (R245). -/
def State.popped (s : State) (i : HDA) (ws : List Word) : State :=
  let m := s.w.parts i.h
  ((s.addPending m (.value ((lanesOf m).map (fun n => (i.d.toNat * 32 + n, ws.getD n 0))) [])).retire 8 i.h.sw)

/-- A pop through q register `n` (R245). With no participating lane nothing is popped and nothing raised (log entry 85). -/
def State.pop (s : State) (i : HDA) (n : Nat) : State :=
  let m := s.w.parts i.h
  let b := s.w.q n
  if m = 0 then s.retire 8 i.h.sw
  else if qKind b = 2 then
    match Tab.get [] s.myCore.results (qIndex b) with
    | [] => s.park 4
    | e :: es => (s.updCore (fun c => { c with results := Tab.set [] c.results (qIndex b) es })).popped i e
  else if qKind b = 4 then
    match s.w.statusPort with
    | [] => s.park 4
    | e :: es => (s.upd (fun w => { w with statusPort := es })).popped i (statusWords e.1 e.2)
  else s.precise 0x1D0 m s.noAddr

/-- MOV vD, special (R110): a q register pops. -/
def execMovSpecialSource (i : HDA) (s : State) : Host.Outcome State Fault Refusal :=
  if 0x10 ≤ i.a.toNat then .next (s.pop i (i.a.toNat - 0x10))
  else .next (s.upd (fun w => w.putV i.h i.d 8 (fun n => w.special i.a.toNat n)))

/-- MOV special, vA (R110, R146, R298): em, a half of snap, or a push. -/
def execMovSpecialDestination (i : HDA) (s : State) : Host.Outcome State Fault Refusal :=
  let m := s.w.parts i.h
  match lowLane m with
  | none => .next (s.retire 8 i.h.sw)
  | some l =>
    let x := s.w.v i.a.toNat l
    let d := i.d.toNat
    if d = 0 then .next (s.upd (fun w => Warp.retire { w with em := x &&& ~~~w.exited } 8 i.h.sw))
    else if d < 0x10 then
      if s.w.inTx then .next (s.precise 0x208 m s.noAddr)
      else if d = 1 then .next (s.upd (fun w => Warp.retire { w with snap := pairOf x (hiWord w.snap) } 8 i.h.sw))
      else .next (s.upd (fun w => Warp.retire { w with snap := pairOf (loWord w.snap) x } 8 i.h.sw))
    else
      .next (s.pushWord i.h 8 (d - 0x10)
        (s.w.v i.a.toNat 3 ++ s.w.v i.a.toNat 2 ++ s.w.v i.a.toNat 1 ++ s.w.v i.a.toNat 0))

/-! ### Task queues (R251) -/

/-- Task queue `q` of a die. -/
def State.taskq (s : State) (die q : Nat) : TaskQueue := Tab.get {} (s.die die).tasks q
/-- See `State.taskq`. -/
def State.setTaskq (s : State) (die q : Nat) (x : TaskQueue) : State :=
  let d := s.die die
  s.setDie die { d with tasks := Tab.set {} d.tasks q x }
/-- OPEN of a queue to a context. -/
def TaskQueue.openTo (q : TaskQueue) (c : CtxId) : Bool := q.desc.getLsbD 0 && q.desc.extractLsb' 32 12 == c
/-- Entries that a task queue holds (R238). -/
def taskCap : Nat := 1048575
/-- QID of a queue (R252). -/
def qidOf (die q : Nat) : BitVec 8 := BitVec.ofNat 8 (die * 64 + q)

/-! ### QBIND, QCMD -/

/-- A q register takes a binding; a warp keeps one draw binding (R239). -/
def Warp.bind (w : Warp) (n : Nat) (b : Word) : Warp :=
  if qKind b = 5 then
    { w with draw := b, qbind := Tab.set 0 (Tab.drop (fun k => qKind (w.q k) == 5) w.qbind) n b }
  else { w with draw := if qKind (w.q n) = 5 then 0 else w.draw, qbind := Tab.set 0 w.qbind n b }

/-- QBIND (R239). -/
def execQbind (i : HDI) (s : State) : Host.Outcome State Fault Refusal :=
  let m := s.w.parts i.h
  let b := i.imm
  if m = 0 then .next (s.retire 12 i.h.sw)
  else if (qKind b = 1 ∨ qKind b = 2) ∧ s.holdsBand (qIndex b) = false then .next (s.precise 0x1C0 m s.noAddr)
  else if qKind b = 5 ∧ (s.taskq (qDie b) (qQueue b)).openTo s.w.ctx = false then .next (s.precise 0x1D2 m s.noAddr)
  else .next (s.upd (fun w => (w.bind i.d.toNat b).retire 12 i.h.sw))

/-- The command word that QCMD assembles, with its q register (R241). -/
def qcmdWord (i : QCmd) (x : DWord) : BitVec 128 :=
  BitVec.ofNat 128 (x.toNat + i.body.toNat * 2 ^ 64 + i.tag.toNat * 2 ^ 96 +
    (match i.succ with
      | some q => q.toNat * 2 ^ 112 + 2 ^ 116
      | none => 0) + (if i.hold then 2 ^ 117 else 0) +
    (match i.guard with
      | some g => 2 ^ 118 + g.toNat * 2 ^ 119
      | none => 0))

/-- QCMD (R241). -/
def execQcmd (i : QCmd) (s : State) : Host.Outcome State Fault Refusal :=
  if s.w.any i.h then .next (s.pushWord i.h 16 i.q.toNat (qcmdWord i (s.w.s i.sreg.toNat)))
  else .next (s.retire 16 i.h.sw)

/-! ### Guards (R246, R247) -/

/-- What a guard slot says at an examination. -/
inductive GuardVal where
  | unresolved | yes | no
deriving DecidableEq, Repr

/-- The guard of a command of a core, as it stands now. An unresolved slot of a Retiring warp counts as false. -/
def State.guardOf (s : State) (core : Nat) (c : Cmd) : GuardVal :=
  let w := s.warp (core * 16 + c.slot)
  if c.dead then .no
  else match c.guard with
    | none => .yes
    | some g => match (Tab.get (0 : BitVec 2) w.guards g.toNat).toNat with
      | 0 => if w.stat = .retiring then .no else .unresolved
      | 1 => .yes
      | _ => .no

/-- Whether a command at its head is held (R246). -/
def State.isHeld (s : State) (core : Nat) (x : Port) (c : Cmd) : Bool :=
  match s.guardOf core c with
  | .unresolved => true
  | .yes => c.hold && x.rels == 0
  | .no => false

/-- Whether a command is a COLRD that finds its band's result port full: it waits at its head (R243). -/
def State.resultFull (s : State) (core port : Nat) (c : Cmd) : Bool :=
  match c.body with
  | .colrd _ => decide (8 ≤ (Tab.get [] (s.core core).results port).length) && s.guardOf core c == .yes
  | _ => false

/-- Whether something that a command must wait for has not performed: a command in a port, a copy's write, an instruction that the core
holds, or an acquire (R199, R232, R233, R368). -/
def State.afterOpen (s : State) (core : Nat) (c : Cmd) : Bool :=
  c.afterAcq && (s.warp (core * 16 + c.slot)).acqAway || c.after.any (fun i =>
    (List.range 6).any (fun p => (s.port core p).all.any (fun x => x.id == i)) ||
    s.remotes.any (fun r => r.copy.isSome && r.cmd == i) || (s.warp (core * 16 + c.slot)).deferred.any (fun d => d.id == i))
/-- Whether a command at its head waits for earlier ones of its warp. -/
def State.headWaits (s : State) (core : Nat) (c : Cmd) : Bool := s.guardOf core c == .yes && s.afterOpen core c

/-- The head of a port is examined: it stays held, is discarded, or starts to execute (R246). A copy whose status port is full is discarded
once there is room. A head whose guard is false is discarded at once, also with HOLD = 1 and no release there, and takes a release only
if there is one (log entry 92). -/
def State.dispatch (s : State) (core port : Nat) : State :=
  let x := s.port core port
  match x.exec, x.queue with
  | none, c :: cs =>
    if c.out then
      if s.statusRoom core c then
        let t := (s.setPort core port { x with queue := cs }).discard core c
        t.setCore core (t.core core).settle
      else s
    else if s.isHeld core x c || s.resultFull core port c || s.headWaits core c then s
    else
      let rels := if c.hold && x.rels != 0 then x.rels - 1 else x.rels
      match s.guardOf core c with
      | .no =>
        if s.statusRoom core c then
          let t := (s.setPort core port { x with queue := cs, rels := rels }).discard core c
          t.setCore core (t.core core).settle
        else s
      | .unresolved => s
      | .yes =>
        let layout := match c.body with
          | .copy q => s.copyRec core c.slot q
          | _ => 0
        s.setPort core port
          { x with queue := cs, exec := some c, acted := false, rels := rels, prog := { layout := layout } }
  | _, _ => s

/-- QUEUE_HEAD_DISPATCH (R246). -/
def execQueueHeadDispatch (i : PortRef) (s : State) : Host.Outcome State Fault Refusal := .next (s.dispatch i.core i.port)

/-- A band's executing command has had its effect and leaves (R246, R214, R219). -/
def State.bandEnd (s : State) (core port : Nat) (c : Cmd) : State :=
  let x := s.port core port
  if !x.acted then s
  else
    let t := (s.setPort core port { x with exec := none, acted := false }).release core c.succ
    t.setCore core (t.core core).settle

/-- ENGINE_COMMAND_COMPLETE (R246). -/
def execEngineCommandComplete (i : PortRef) (s : State) : Host.Outcome State Fault Refusal :=
  match (s.port i.core i.port).exec with
  | none => .next s
  | some c =>
    match c.body with
    | .copy q => .next (s.copyEnd i.core i.port c q)
    | .mma .. => .next (s.bandEnd i.core i.port c)
    | .accz _ => .next (s.bandEnd i.core i.port c)
    | .accrd .. => .next (s.bandEnd i.core i.port c)
    | .accwr .. => .next (s.bandEnd i.core i.port c)
    | .colrd _ => .next (s.bandEnd i.core i.port c)

/-- A guard slot of the executing warp resolved (R247). -/
def State.guardSet (s : State) (h : Hdr) (d : RegNo) (v : BitVec 2) : Host.Outcome State Fault Refusal :=
  .next (s.upd (fun w =>
    Warp.retire (if w.any h then { w with guards := Tab.set 0 w.guards d.toNat v } else w) 8 h.sw))

/-- GSET (R247). -/
def execGset (i : HD) (s : State) : Host.Outcome State Fault Refusal := s.guardSet i.h i.d 1
/-- GCLR (R247). -/
def execGclr (i : GClr) (s : State) : Host.Outcome State Fault Refusal := s.guardSet i.h i.d (if i.u then 0 else 2)

/-! ### QSTAT, QDRAIN (R250) -/

/-- The QSTAT result for a binding of the executing warp. -/
def State.qstat (s : State) (b : Word) : DWord :=
  let base := qKind b * 2 ^ 60 + qIndex b * 2 ^ 56
  match qKind b with
  | 0 => 0
  | 2 => BitVec.ofNat 64 (base + (Tab.get [] s.myCore.results (qIndex b)).length)
  | 4 => BitVec.ofNat 64 (base + s.w.statusPort.length)
  | 5 => BitVec.ofNat 64 (base + s.w.qids.length * 2 ^ 32 + (s.taskq (qDie s.w.draw) (qQueue s.w.draw)).entries.length)
  | _ =>
    let core := coreOf s.cur
    let x := s.port core ((s.portOf b).getD 0)
    let held := x.exec.isNone && (x.queue.head?.elim false (fun c => s.isHeld core x c))
    let mine := (x.all.filter (fun c => c.mine (slotOf s.cur))).length
    BitVec.ofNat 64 (base + x.rels.toNat * 2 ^ 48 + (if x.relovf then 2 ^ 47 else 0) + (if held then 2 ^ 46 else 0) +
      mine * 2 ^ 32 + x.all.length)

/-- QSTAT (R250). -/
def execQstat (i : HDA) (s : State) : Host.Outcome State Fault Refusal :=
  .next (s.upd (fun w => w.putS i.h i.d 8 (s.qstat (w.q i.a.toNat))))

/-- QDRAIN of a binding (R250). -/
def State.drain (s : State) (b : Word) : State :=
  let core := coreOf s.cur
  match s.portOf b with
  | some p =>
    let t := s.discardQueued core p (fun c => c.mine (slotOf s.cur))
    t.setPort core p { t.port core p with relovf := false }
  | none =>
    if qKind b = 2 then s.updCore (fun c => { c with results := Tab.set [] c.results (qIndex b) [] })
    else s.upd (fun w => { w with statusPort := [] })

/-- QDRAIN (R250). -/
def execQdrain (i : HA) (s : State) : Host.Outcome State Fault Refusal :=
  let m := s.w.parts i.h
  let b := s.w.q i.a.toNat
  if m = 0 then .next (s.retire 8 i.h.sw)
  else if qKind b = 0 ∨ qKind b = 5 then .next (s.precise 0x1D0 m s.noAddr)
  else .next ((s.drain b).retire 8 i.h.sw)

/-! ### Tasks (R252 to R254) -/

/-- The status of a task header at TKPUT (R253). -/
def taskStatus (x : DWord) : Nat :=
  if field x 25 7 ≠ 0 then 2
  else if 256 < field x 16 9 ∨ 256 < field x 32 16 ∨ 32 < field x 48 8 then 1 else 0

/-- TKPUT (R253). A warp that waits for room has had its entry accepted. -/
def execTkput (i : TkPut) (s : State) : Host.Outcome State Fault Refusal :=
  let m := s.w.parts i.h
  let a := i.a.toNat
  let die := (i.queue.extractLsb' 6 2).toNat
  let n := (i.queue.extractLsb' 0 6).toNat
  let q := s.taskq die n
  let x := s.w.s a
  let st := taskStatus x
  let mark := fun (w : Warp) => (w.setS a ((x &&& ~~~(0xFFFF : DWord)) ||| BitVec.ofNat 64 st)).retire 12 i.h.sw
  if m = 0 then .next (s.retire 12 i.h.sw)
  else if !q.openTo s.w.ctx && s.w.reason != 15 then .next (s.precise 0x1D2 m s.noAddr)
  else if st ≠ 0 then .next (s.upd mark)
  else if s.releaseHolds none then .next s.hold
  else if taskCap ≤ q.entries.length then .next (s.park 15)
  else
    let e : Task := ⟨x &&& ~~~(0xFFFF : DWord), s.w.s (a + 1), s.w.s (a + 2), s.w.s (a + 3)⟩
    .next ((s.setTaskq die n { q with entries := q.entries ++ [e] }).upd mark)

/-- TKGET (R253): the drawn queue when the pop is made; the result is long. An acquire at `.package`. -/
def execTkget (i : HD) (s : State) : Host.Outcome State Fault Refusal :=
  let m := s.w.parts i.h
  let die := qDie s.w.draw
  let n := qQueue s.w.draw
  let q := s.taskq die n
  if m = 0 then .next (s.retire 8 i.h.sw)
  else if qKind s.w.draw ≠ 5 ∨ 15 ≤ s.w.qids.length then .next (s.precise 0x1D3 m s.noAddr)
  else match q.entries with
    | [] => .next (s.park 14)
    | e :: es =>
      let d := i.d.toNat
      let head := (e.w0 &&& ~~~(0xFFFF : DWord)) ||| (qidOf die n).setWidth 64
      let t := (s.setTaskq die n { q with entries := es, outstanding := q.outstanding + 1 }).addPending m
        (.value [] [(d, head), (d + 1, e.w1), (d + 2, e.w2), (d + 3, e.w3)])
      .next (((t.acquire 2).upd (fun w => { w with qids := w.qids ++ [qidOf die n] })).retire 8 i.h.sw)

/-- TKDONE (R253). -/
def execTkdone (i : HA) (s : State) : Host.Outcome State Fault Refusal :=
  let m := s.w.parts i.h
  let id : BitVec 8 := (s.w.s i.a.toNat).setWidth 8
  let die := (id.extractLsb' 6 2).toNat
  let n := (id.extractLsb' 0 6).toNat
  let q := s.taskq die n
  if m = 0 then .next (s.retire 8 i.h.sw)
  else if !s.w.qids.contains id then .next (s.precise 0x1D4 m s.noAddr)
  else .next ((s.setTaskq die n { q with outstanding := q.outstanding - 1 }).upd (fun w =>
    Warp.retire { w with qids := w.qids.erase id } 8 i.h.sw))

/-- LOW, HIGH and CTX of a descriptor (R251). -/
def TaskQueue.low (q : TaskQueue) : Nat := (q.desc.extractLsb' 48 20).toNat
/-- See `TaskQueue.low`. -/
def TaskQueue.high (q : TaskQueue) : Nat := (q.desc.extractLsb' 68 20).toNat
/-- See `TaskQueue.low`. -/
def TaskQueue.owner (q : TaskQueue) : CtxId := q.desc.extractLsb' 32 12

/-- The warps, lowest core and slot first, that the usher may move from queue `p` of a die (R254). -/
def State.eligible (s : State) (die p : Nat) (moved : List Nat) : List Nat :=
  (s.warps.filter (fun e =>
    let w := e.2
    qKind w.draw == 5 && w.draw.getLsbD 16 && qDie w.draw == die && qQueue w.draw == p && w.stat == .parked &&
      w.reason == 14 && w.qids == [] && (s.ctx w.ctx).state == .running && !moved.contains e.1)).map (·.1)

/-- The warps that move into queue `n` of a die: from the first starved queue of its context that has an eligible one. -/
def State.movers (s : State) (die n : Nat) (moved : List Nat) : List Nat :=
  let q := s.taskq die n
  let ps := (List.range 64).filter (fun p =>
    let x := s.taskq die p
    p != n && x.owner == q.owner && x.desc.getLsbD 1 && decide (x.entries.length ≤ x.low))
  match ps.filterMap (fun p => match s.eligible die p moved with
      | [] => none
      | k :: ks => some (k, ks)) with
  | [] => []
  | (k, ks) :: _ => k :: (if q.desc.getLsbD 44 then ks.filter (fun x => coreOf x == coreOf k) else [])

/-- USHER_PASS of a die, once per microsecond (R254). -/
def execUsherPass (i : Nat) (s : State) : Host.Outcome State Fault Refusal :=
  let d := s.die i
  if (s.ft - d.usherAt).toNat < 64000 then .next s
  else
    let r := (List.range 64).foldl (fun (a : State × List Nat) n =>
      let q := a.1.taskq i n
      if q.desc.getLsbD 1 && decide (q.high ≤ q.entries.length) then
        let ks := a.1.movers i n a.2
        (ks.foldl (fun s k =>
          let w := s.warp k
          s.setWarp k { w with draw := (w.draw &&& ~~~(0x3F00 : Word)) ||| BitVec.ofNat 32 (n * 256) }) a.1, a.2 ++ ks)
      else a) (s, [])
    .next (r.1.setDie i { r.1.die i with usherAt := s.ft })

end Sys2Proof.Machine
end

