-- ==== Sys2Proof/Machine/Stage.lean ====
section
/-! DEFINITION. Staged loops and the static copy schedule (15_stage.md R275 to R290). -/

namespace Sys2Proof.Machine

/-! ### The schedule of a launch record (17_kernel.md R311) -/

/-- A little-endian number in a launch record's bytes. -/
def Launch.num (l : Launch) (off n : Nat) : Nat := natLE (Tab.getRun 0 l.bytes off n)

/-- An entry of a copy schedule (R42, R311): an expression is base + c1·iter + c2·stage. -/
structure SchedEntry where
  lrec : DWord
  dst : DWord × Int × Int
  src : DWord × Int × Int
  ahead : Nat
  at_ : Nat
deriving DecidableEq, Repr

/-- The expression at an offset of a launch record. -/
def Launch.expr (l : Launch) (a : Nat) : DWord × Int × Int :=
  (BitVec.ofNat 64 (l.num a 8), (BitVec.ofNat 32 (l.num (a + 8) 4)).toInt, (BitVec.ofNat 32 (l.num (a + 12) 4)).toInt)

/-- The valid entries of schedule `m` of a launch record. -/
def Launch.schedule (l : Launch) (m : Nat) : List SchedEntry :=
  ((List.range 8).filter (fun e => l.num (0x140 + 0x200 * m + 64 * e + 41) 1 == 1)).map (fun e =>
    let a := 0x140 + 0x200 * m + 64 * e
    ⟨BitVec.ofNat 64 (l.num a 8), l.expr (a + 8), l.expr (a + 24), l.num (a + 40) 1, l.num (a + 42) 2⟩)

/-- Value of an expression for an iteration and a stage. -/
def exprVal (e : DWord × Int × Int) (iter stage : Nat) : DWord :=
  e.1 + BitVec.ofInt 64 (e.2.1 * iter) + BitVec.ofInt 64 (e.2.2 * stage)

/-- The launch of a team. -/
def State.launchOf (s : State) (team : Nat) : Option Launch := s.launches.find? (fun l => l.id == (s.team team).launch)
/-- The schedule entries of a region: none without CS. -/
def State.entriesOf (s : State) (r : Region) : List SchedEntry :=
  if r.cs then (s.launchOf r.anchor).elim [] (fun l => l.schedule r.tag.toNat) else []

/-! ### Slots and the held list -/

/-- Counter slot of iteration `j`. -/
def Region.slot (r : Region) (j : Nat) : Slot := Tab.get {} r.slots (j % 64)
/-- See `Region.slot`. -/
def Region.setSlot (r : Region) (j : Nat) (e : Slot) : Region := { r with slots := Tab.set {} r.slots (j % 64) e }
/-- Whether iteration `p` has retired (R277). -/
def Region.retired (r : Region) (p : Nat) : Bool :=
  decide (p < r.low.toNat) || ((r.slot p).iter.toNat == p && (r.slot p).st == 3)

/-- PENDC of the slot of `j` counts one more scheduled copy (R286). A slot that holds `j` claimed or retired keeps that (R277; log
entry 74). -/
def Region.countCopy (r : Region) (j : Nat) : Region :=
  let e := r.slot j
  if e.st ≠ 0 ∧ e.iter.toNat = j then r.setSlot j { e with pendc := e.pendc + 1 }
  else r.setSlot j { st := 1, pendc := 1, fcode := 0, stage := 0, iter := BitVec.ofNat 32 j }

/-- A released copy joins the held list; it counts once its iteration is below LOW + 64 (R286, R287). -/
def Region.hold (r : Region) (c : Nat × Nat × Nat) : Region :=
  let r := { r with held := r.held ++ [c] }
  if c.1 < r.low.toNat + 64 then r.countCopy c.1 else r

/-- LOW rises past the retired iterations, at most 64 of them; held copies that it lets in count (R284, R286). -/
def Region.raise : Nat → Region → Region
  | 0, r => r
  | n + 1, r =>
    if r.low.toNat < r.next.toNat ∧ r.retired r.low.toNat then
      let old := r.low.toNat
      let r := { r with low := r.low + 1 }
      Region.raise n (r.held.foldl (fun r c => if c.1 = old + 64 then r.countCopy c.1 else r) r)
    else r

/-- The copies that are released when the stage of iteration `i` rises from below `lo` to `hi`: entries with lo ≤ S ≤ hi
(R286). -/
def due (es : List SchedEntry) (count i lo hi stage : Nat) : List (Nat × Nat × Nat) :=
  (es.zipIdx.filter (fun e => decide (lo ≤ e.1.at_) && decide (e.1.at_ ≤ hi) && decide (i + e.1.ahead < count))).map
    (fun e => (i + e.1.ahead, e.2, stage))

/-- The prologue copies, per entry in entry order, per iteration in ascending order (R286, R288). -/
def prologue (es : List SchedEntry) (count : Nat) : List (Nat × Nat × Nat) :=
  es.zipIdx.flatMap (fun e => (List.range (min e.1.ahead count)).map (fun j => (j, e.2, 0)))

/-! ### Hardware issue (R286, R288) -/

/-- The copy port of a team's core. -/
def State.teamPort (s : State) (team : Nat) : Nat :=
  if (s.core (coreOf team)).splitMode then 4 + (s.team team).tenant else 4

/-- The lowest slot of a team. -/
def Team.lowest (t : Team) : Option Nat := (List.range 16).find? (fun n => t.slots.getLsbD n)

/-- A scheduled copy of region `k` is issued: it is pushed, or fails its checks and leaves with its cause. -/
def State.hardIssue (s : State) (k : Nat) (r : Region) (c : Nat × Nat × Nat) : State :=
  match (s.entriesOf r)[c.2.1]? with
  | none => s.schedOut (some (k, c.1)) 0
  | some e =>
    let dst := exprVal e.dst c.1 c.2.2
    let src := exprVal e.src c.1 c.2.2
    let g2o := dst.getLsbD 63
    let rec_ := Tab.get 0 r.recs c.2.1
    let l : DWord := zx64 (loWord dst)
    let high := if g2o then field dst 37 26 != 0 else field dst 32 31 != 0
    let recNo := if g2o then field dst 32 5 else 0
    let dir := if g2o then CopyDir.g2o else CopyDir.g2s
    let cause := if !g2o && high then some 0x1E2 else s.copyCause r.anchor rec_ dir high recNo src l none
    match cause with
    | some x => s.schedOut (some (k, c.1)) x
    | none =>
      let core := coreOf r.anchor
      let port := s.teamPort r.anchor
      let x := s.port core port
      let cmd : Cmd :=
        { id := s.nextId, slot := (s.team r.anchor).lowest.getD (slotOf r.anchor), team := r.anchor, lanes := 0, guard := none, hold := false, succ := none, tag := 0,
          dest := .none
          body := .copy ⟨0, dir, src, l.toNat, recNo, none, 0, some (k, c.1), some rec_⟩ }
      s.fresh1.setPort core port { x with queue := x.queue ++ [cmd] }

/-- The next held copy to issue: of those near enough, the first in entry order, then of the least iteration (R286, R288; log
entry 93). -/
def Region.nextHeld (r : Region) : Option (Nat × Nat × Nat) :=
  (r.held.filter (fun c => decide (c.1 < r.low.toNat + 64))).foldl (fun b c => match b with
    | none => some c
    | some x => if c.2.1 < x.2.1 ∨ (c.2.1 = x.2.1 ∧ c.1 < x.1) then some c else b) none

/-- Whether a region has ended: it is Closing, its last member has left, and its held list is empty (R278, R287; log entry 93). -/
def Region.ended (r : Region) : Bool := r.state == .closing && decide (r.memb ≤ r.left) && r.held.isEmpty

/-- The region number of the scheduled copies that outlive their region: no region has it. -/
def noRegion : Nat := 65536

/-- A scheduled copy of region `k` that outlives it. -/
def Cmd.cutSched (k : Nat) (c : Cmd) : Cmd :=
  match c.body with
  | .copy q => if q.sched.any (fun x => x.1 == k) then { c with body := .copy { q with sched := some (noRegion, 0) } } else c
  | .mma .. => c
  | .accz _ => c
  | .accrd .. => c
  | .accwr .. => c
  | .colrd _ => c

/-- Region `k` becomes Free once it has ended; its copies in the port run on without it (R278). -/
def State.endRegion (s : State) (k : Nat) : State :=
  let r := s.region k
  if r.ended then
    let s := s.setRegion k {}
    [4, 5].foldl (fun (s : State) p =>
      let x := s.port (coreOf r.anchor) p
      s.setPort (coreOf r.anchor) p
        { x with queue := x.queue.map (Cmd.cutSched k), exec := x.exec.map (Cmd.cutSched k) }) s
  else s

/-- The next held copy of region `k` enters the port, if there is one and the port has room (R287). -/
def State.enterOne (s : State) (k : Nat) : Option State :=
  let r := s.region k
  let p := s.teamPort r.anchor
  match r.nextHeld with
  | none => none
  | some c =>
    if (s.port (coreOf r.anchor) p).all.length < portCap p then
      some (((s.setRegion k { r with held := r.held.erase c }).hardIssue k r c).endRegion k)
    else none

/-- Held copies enter the port while they can. -/
def State.enterAll (s : State) (k : Nat) : Nat → State
  | 0 => s
  | n + 1 => match s.enterOne k with
    | none => s
    | some t => State.enterAll t k n

/-- HELD_COPY_ENTER_PORT of region `i` (R287). -/
def execHeldCopyEnterPort (i : Nat) (s : State) : Host.Outcome State Fault Refusal := .next ((s.enterOne i).getD s)

/-- The prologue copies of region `k` are placed one at a time while the port or the held list has room (R287). -/
def State.placePrologue (s : State) (k : Nat) : Nat → State
  | 0 => s
  | n + 1 =>
    let s := s.enterAll k 16
    let r := s.region k
    match (prologue (s.entriesOf r) r.count.toNat)[r.pro]? with
    | none => s
    | some c =>
      if 16 ≤ r.held.length then s
      else State.placePrologue (s.setRegion k { r.hold c with pro := r.pro + 1 }) k n

/-- Whether every prologue copy of a region is placed. -/
def State.proDone (s : State) (r : Region) : Bool := decide ((prologue (s.entriesOf r) r.count.toNat).length ≤ r.pro)

/-- Released copies join the held list of region `k`, and enter the port while they can (R287). -/
def State.releaseCopies (s : State) (k : Nat) (cs : List (Nat × Nat × Nat)) : State :=
  (s.setRegion k (cs.foldl (fun (r : Region) c => r.hold c) (s.region k))).enterAll k 32

/-! ### Opening (R280) -/

/-- Whether a region belongs to the group of the executing warp that `coh` selects. -/
def State.groupAnchor (s : State) (coh : Bool) : Nat :=
  if coh then (s.cohort s.myTeam.cohort).teams.headD s.w.team else s.w.team

/-- Warps of a group. -/
def State.groupSize (s : State) (coh : Bool) : Nat :=
  if coh then (s.cohort s.myTeam.cohort).teams.length * s.myTeam.warps else s.myTeam.warps

/-- The numbers of the grove's regions that the executing warp's context may take (R336). -/
def State.regionRange (s : State) : List Nat :=
  let base := groveOf (coreOf s.cur) * 64
  if (s.ctx s.w.ctx).resident then (List.range 32).map (fun n => base + 32 + n) else (List.range 32).map (fun n => base + n)

/-- The lowest Free region, unless the group's core anchors as many as it may (R280, R335). -/
def State.freeRegion (s : State) (anchor : Nat) : Option Nat :=
  let here := s.regions.filter (fun e =>
    e.2.state != .free && coreOf e.2.anchor == coreOf anchor && (s.team e.2.anchor).tenant == s.tenant)
  if (if (s.core (coreOf anchor)).splitMode then 2 else 4) ≤ here.length then none
  else s.regionRange.find? (fun k => (s.region k).state == .free)

/-- What a SLOOP meets instead of its layout records: a cause with its operand or address, faults, an earlier access that holds it,
a wait, or an image on another package whose bytes it asks for as number `n` (R262, R280). -/
inductive RecErr where
  | trap (c : Cause) (addr : DWord)
  | faults (fs : List LaneFault)
  | hold
  | wait (r : Nat)
  | ask (n : Nat) (ps : List (Part × Trans))

/-- The record that an image gives, unless its STATUS makes it bad. -/
def goodRec (b : List Byte) : Except RecErr (BitVec 256) :=
  let r := layBuild (BitVec.ofNat 256 (natLE b))
  if r.getLsbD 255 then .ok r else .error (.trap 0x1E0 (BitVec.ofNat 64 (lay r 247 5)))

/-- The layout record of schedule entry `n`, built as HREC would (R262, R280). -/
def State.buildRec (s : State) (m : Mask) (n : Nat) (a : DWord) : Except RecErr (State × BitVec 256) :=
  match Tab.get [] s.w.entries n with
  | b :: bs => (goodRec (b :: bs)).map (fun r => (s, r))
  | [] =>
    if a.toNat % 32 ≠ 0 then .error (.trap 0x1E1 a)
    else match s.transParts s.w.ctx s.myDie wantR 0 a (partsOf a 32) with
      | .error fs => .error (.faults fs)
      | .ok ps =>
        let strong := ps.any (fun p => p.2.okind == 0)
        if s.fenceHolds 0 || s.lanesHeld [⟨0, a, ps⟩] || (strong && s.strongHolds none) then .error .hold
        else
          let r := ((s.passFence 0).noteParts true ps).readParts s.view false (s.ticks * 65536 + n * 4096) ps
          let t := (if strong then r.1.acquireOn 0 3 else r.1).noteHit m true false a 32
          match gotAll r.2 with
          | .bytes b => (goodRec b).map (fun r => (t, r))
          | .wait k => .error (.wait k)
          | .fail c => .error (.trap c a)
          | .away => if s.w.loadAway then .error (.wait 24) else .error (.ask n ps)

/-- The layout records of schedule entries from number `n` on. -/
def State.buildRecs (s : State) (m : Mask) : List SchedEntry → Nat → Except RecErr (State × Tab (BitVec 256))
  | [], _ => .ok (s, [])
  | e :: es, n => match s.buildRec m n e.lrec with
    | .error x => .error x
    | .ok (t, r) => match State.buildRecs t m es (n + 1) with
      | .error x => .error x
      | .ok (u, rs) => .ok (u, Tab.set 0 rs n r)

/-- SLOOP's answer to what it meets instead of its records: the region stays Free (R280). -/
def State.recErr (s : State) (m : Mask) (e : RecErr) : State :=
  match e with
  | .trap c a => s.precise c m a
  | .faults fs => s.replayable ((lanesOf m).flatMap (fun n => fs.map (fun f => { f with lane := n }))) 0 0
  | .hold => s.hold
  | .wait r => s.park r
  | .ask n ps =>
    let s := (s.passFence 0).noteParts true ps
    let tag := s.nextId
    let asks := asksOf 0 (ps.map (fun p => (p.1, p.2, .away)))
    let t := (s.addPending 1 (.entry n asks (s.die s.myDie).epoch tag)).sendLoads tag asks
    (ps.foldl (fun s p => s.noteHit m true false p.1.va p.1.n) t).park 1

/-- The executing warp, a member of region `k`, stays at SLOOP until the prologue is placed, if it opened the region. -/
def State.sloopEnd (s : State) (h : Hdr) (k : Nat) : State :=
  let t := s.placePrologue k 600
  if t.proDone (t.region k) then t.complete (t.w.allParts h) 12 h.sw else t.park 9

/-- SLOOP of a warp that opens a region (R280). -/
def State.sloopOpen (s : State) (i : SLoop) (m : Mask) (anchor : Nat) : State :=
  match s.freeRegion anchor with
  | none => s.park 9
  | some k =>
    let es := if i.cs then (s.launchOf s.w.team).elim [] (fun l => l.schedule i.tag.toNat) else []
    match s.buildRecs m es 0 with
    | .error e => s.recErr m e
    | .ok (s, recs) =>
      let count := loWord (s.w.s i.a.toNat)
      let r : Region :=
        { state := if count = 0 then .closing else .opened, memb := s.groupSize i.coh, left := 0, gone := [],
          anchor := anchor, pro := 0, count := count, next := 0, low := 0, lim := i.lim, w := i.w.toNat, tag := i.tag,
          cs := i.cs, coh := i.coh, slots := [], held := [], recs := recs }
      ((s.setRegion k r).upd (fun w => { w with member := some k })).sloopEnd i.h k

/-- SLOOP (R280). -/
def State.sloop (s : State) (i : SLoop) (m : Mask) : State :=
  let v := s.w.s i.a.toNat
  let schedules := (s.launchOf s.w.team).elim 0 (fun l => l.num 0x2A 1)
  match s.w.member with
  | some k => if s.w.reason = 9 then s.sloopEnd i.h k else if hiWord v ≠ 0 then s.precise 0x249 m s.noAddr else s.precise 0x241 m s.noAddr
  | none =>
    if hiWord v ≠ 0 then s.precise 0x249 m s.noAddr
    else if i.cs && (i.coh || decide (schedules ≤ i.tag.toNat)) then s.precise 0x247 m s.noAddr
    else
      let anchor := s.groupAnchor i.coh
      match s.regions.find? (fun e =>
        e.2.state != .free && !(e.2.state == .closing && decide (e.2.memb ≤ e.2.left)) && e.2.anchor == anchor &&
          e.2.coh == i.coh && e.2.tag == i.tag) with
      | some (k, r) =>
        if r.count ≠ loWord v ∨ r.w ≠ i.w.toNat ∨ r.lim ≠ i.lim ∨ r.cs ≠ i.cs then s.precise 0x241 m s.noAddr
        else s.upd (fun w => Warp.retire { w with member := some k } 12 i.h.sw)
      | none => s.sloopOpen i m anchor

/-- SLOOP (R280). -/
def execSloop (i : SLoop) (s : State) : Host.Outcome State Fault Refusal :=
  let m := s.w.parts i.h
  if m = 0 then .next (s.retire 12 i.h.sw) else .next (s.sloop i m)

/-! ### Claiming and advancing (R281, R282) -/

/-- stg of a claimed iteration (R62). -/
def stgWord (k j : Nat) (stage : BitVec 16) : Word :=
  BitVec.ofNat 32 (2 ^ 31 + k % 64 * 2 ^ 22 + j % 64 * 2 ^ 16 + stage.toNat)

/-- SNEXT once the warp is a member of region `k` and holds no iteration (R281). -/
def State.snext (s : State) (i : HDB) (m : Mask) (k : Nat) : State :=
  let r := s.region k
  let j := r.next.toNat
  if r.next = r.count then
    s.upd (fun w => ((w.setS i.d.toNat 0xFFFFFFFFFFFFFFFF).setPLanes m i.b.toNat 0).retire 8 i.h.sw)
  else
    let cs := due (s.entriesOf r) r.count.toNat j 0 0 0
    let e := r.slot j
    if r.low.toNat + r.w ≤ j ∨ s.proDone r = false ∨ e.pendc ≠ 0 ∨ 16 < r.held.length + cs.length then s.park 10
    else if e.iter.toNat = j ∧ e.fcode ≠ 0 then s.precise 0x248 m (e.fcode.setWidth 64)
    else
      let r := { r.setSlot j { st := 2, pendc := 0, fcode := 0, stage := 0, iter := r.next } with next := r.next + 1 }
      let t := (s.setRegion k r).releaseCopies k cs
      t.upd (fun w => Warp.retire
        ((({ w with stg := stgWord k j 0 } : Warp).setS i.d.toNat (BitVec.ofNat 64 j)).setPLanes m i.b.toNat fullMask) 8 i.h.sw)

/-- SNEXT (R281). -/
def execSnext (i : HDB) (s : State) : Host.Outcome State Fault Refusal :=
  let m := s.w.parts i.h
  if m = 0 then .next (s.retire 8 i.h.sw)
  else match s.w.member with
    | none => .next (s.precise 0x242 m s.noAddr)
    | some k => if s.w.claims then .next (s.precise 0x243 m s.noAddr) else .next (s.snext i m k)

/-- A stage instruction of a warp that holds an iteration: `f` gets the region and the iteration (R282). -/
def State.claimed (s : State) (h : Hdr) (len : Nat) (f : Nat → Nat → State) : Host.Outcome State Fault Refusal :=
  let m := s.w.parts h
  if m = 0 then .next (s.retire len h.sw)
  else match s.w.member with
    | none => .next (s.precise 0x242 m s.noAddr)
    | some k =>
      if s.w.claims then .next (f k ((s.region k).slot (field (zx64 s.w.stg) 16 6)).iter.toNat)
      else .next (s.precise 0x243 m s.noAddr)

/-- The claimed iteration's counter becomes `new`; a release (R282, R285). -/
def State.advance (s : State) (h : Hdr) (k j : Nat) (new : Int) : State :=
  let r := s.region k
  let e := r.slot j
  if (r.lim.toNat : Int) < new then s.precise 0x245 (s.w.parts h) s.noAddr
  else
    let n := new.toNat
    let cs := due (s.entriesOf r) r.count.toNat j (e.stage.toNat + 1) n n
    if 16 < r.held.length + cs.length then s.park 12
    else if s.releaseHolds none then s.hold
    else
      let t := (s.setRegion k (r.setSlot j { e with stage := BitVec.ofNat 16 n })).releaseCopies k cs
      t.upd (fun w => Warp.retire { w with stg := stgWord k j (BitVec.ofNat 16 n) } 8 h.sw)

/-- SADV (R282). -/
def execSadv (i : HA) (s : State) : Host.Outcome State Fault Refusal :=
  s.claimed i.h 8 (fun k j =>
    let v := (s.w.s i.a.toNat).toInt
    if v < 0 then s.precise 0x244 (s.w.parts i.h) s.noAddr
    else s.advance i.h k j (((s.region k).slot j).stage.toNat + v))

/-- SJMP (R282). -/
def execSjmp (i : HA) (s : State) : Host.Outcome State Fault Refusal :=
  s.claimed i.h 8 (fun k j =>
    let v := (s.w.s i.a.toNat).toInt
    if v < 0 then s.precise 0x244 (s.w.parts i.h) s.noAddr
    else s.advance i.h k j (max (((s.region k).slot j).stage.toNat : Int) v))

/-- WAITL for a stage (R283). -/
def State.waitl (s : State) (h : Hdr) (len k j st : Nat) : State :=
  let r := s.region k
  let e := r.slot (j - 1)
  if j = 0 ∨ r.retired (j - 1) = true ∨ (e.iter.toNat = j - 1 ∧ st ≤ e.stage.toNat) then s.retire len h.sw else s.park 11

/-- WAITL with an immediate stage (R283). -/
def execWaitl (i : WaitL) (s : State) : Host.Outcome State Fault Refusal :=
  s.claimed i.h 12 (fun k j => s.waitl i.h 12 k j i.s.toNat)
/-- WAITL with a register (R283). -/
def execWaitlReg (i : HA) (s : State) : Host.Outcome State Fault Refusal :=
  s.claimed i.h 8 (fun k j =>
    let v := (s.w.s i.a.toNat).toNat
    if 65535 < v then s.precise 0x246 (s.w.parts i.h) s.noAddr else s.waitl i.h 8 k j v)

/-! ### Retiring and closing (R284) -/

/-- The copies that the retirement of iteration `j` releases. -/
def State.sretDue (s : State) (k j : Nat) : List (Nat × Nat × Nat) :=
  let r := s.region k
  let st := (r.slot j).stage.toNat
  due (s.entriesOf r) r.count.toNat j (st + 1) 65535 st

/-- Iteration `j` of region `k` retires: LOW rises, and the region closes when every iteration has retired (R278, R284). -/
def State.retireIter (s : State) (k j : Nat) : State :=
  let cs := s.sretDue k j
  let r := s.region k
  let r := Region.raise 64 (r.setSlot j { r.slot j with st := 3 })
  let r := if r.state = .opened ∧ r.low = r.count then { r with state := .closing } else r
  (s.setRegion k r).releaseCopies k cs

/-- SRET (R284). -/
def execSret (i : Hdr) (s : State) : Host.Outcome State Fault Refusal :=
  s.claimed i 8 (fun k j =>
    if 16 < (s.region k).held.length + (s.sretDue k j).length then s.park 12
    else if s.releaseHolds none then s.hold
    else (s.retireIter k j).upd (fun w => Warp.retire { w with stg := 0 } 8 i.sw))

/-- Warp `x` leaves region `k`; the last member frees a Closing region, once its held list is empty (R278, R287). -/
def State.leaveRegion (s : State) (k x : Nat) : State :=
  let r := s.region k
  if r.state = .free then s
  else
    (s.setRegion k { r with gone := if r.gone.contains x then r.gone else r.gone ++ [x], left := r.left + 1 }).endRegion k

/-- SCLOSE (R284). -/
def execSclose (i : Hdr) (s : State) : Host.Outcome State Fault Refusal :=
  let m := s.w.parts i
  if m = 0 then .next (s.retire 8 i.sw)
  else match s.w.member with
    | none => .next (s.precise 0x242 m s.noAddr)
    | some k =>
      if s.w.claims then .next (s.precise 0x243 m s.noAddr)
      else if (s.region k).state ≠ .closing then .next (s.park 13)
      else .next ((s.leaveRegion k s.cur).upd (fun w => Warp.retire { w with member := none } 8 i.sw))

/-- What a Retiring warp owes its region (R284): its iteration retires once the held list has room and its earlier accesses
allow the release, and it leaves every region of its groups that it has not left. It stays Retiring, with reason 12, while it waits,
and while an access that it has passed is not performed (R149). -/
def State.retireMember (s : State) : State :=
  let w := s.w
  let leave := fun (s : State) =>
    let mine := s.regions.filter (fun e =>
      e.2.state != .free && e.2.anchor == s.groupAnchor e.2.coh && (!e.2.gone.contains s.cur || w.member == some e.1))
    (mine.foldl (fun s e => s.leaveRegion e.1 s.cur) s).upd (fun w => { w with member := none, reason := 0 })
  if w.deferred ≠ [] then s.upd (fun w => { w with reason := 12 })
  else match w.member with
  | none => leave s
  | some k =>
    if !w.claims then leave s
    else
      let j := ((s.region k).slot (field (zx64 w.stg) 16 6)).iter.toNat
      if 16 < (s.region k).held.length + (s.sretDue k j).length then s.upd (fun w => { w with reason := 12 })
      else if s.releaseHolds none then s.upd (fun w => { w with reason := 12 })
      else leave ((s.retireIter k j).upd (fun w => { w with stg := 0 }))

end Sys2Proof.Machine
end

