-- ==== Sys2Proof/Machine/Image.lean ====
section
/-! DEFINITION. The words in which the save area holds a context's state (18_context.md R333 to R335), each with the way back. -/

namespace Sys2Proof.Machine

/-! ### Packing -/

/-- Numbers of `n` bits packed from bit 0 upward. -/
def packBits (n : Nat) : List Nat → Nat
  | [] => 0
  | x :: xs => x % 2 ^ n + 2 ^ n * packBits n xs
/-- Bits of a number. -/
def bitsAt (x lo n : Nat) : Nat := x / 2 ^ lo % 2 ^ n
/-- 1 or 0. -/
def bit01 (b : Bool) : Nat := if b then 1 else 0
/-- The bytes of memory from `a` on, `n` of them, by place. -/
def State.cells (s : State) (a n : Nat) : Tab Byte :=
  (s.mem.filter (fun e => decide (a ≤ e.1) && decide (e.1 < a + n))).map (fun e => (e.1 - a, e.2))
/-- Every byte of a range of memory zero. -/
def State.wipe (s : State) (a n : Nat) : State :=
  { s with mem := Tab.drop (fun k => decide (a ≤ k) && decide (k < a + n)) s.mem }
/-- Bytes by place written to memory from `a` on. -/
def State.putCells (s : State) (a : Nat) (t : Tab Byte) : State := t.foldl (fun s e => s.setByte (a + e.1) e.2) s
/-- The bytes of a table of `n`-byte numbers. -/
def bytesOf (n : Nat) (t : Tab Nat) : Tab Byte :=
  t.flatMap (fun e => (bytesLE n e.2).zipIdx.map (fun b => (n * e.1 + b.2, b.1)))
/-- The `n`-byte numbers that bytes by place spell; numbers that are 0 are not listed. -/
def numsOf (n : Nat) (t : Tab Byte) : Tab Nat :=
  t.foldl (fun u e => Tab.put (e.1 / n) (Tab.get 0 u (e.1 / n) + e.2.toNat * 256 ^ (e.1 % n)) u) []
/-- A table of words as numbers. -/
def natTab {n : Nat} (t : Tab (BitVec n)) : Tab Nat := List.map (fun e => (e.1, e.2.toNat)) t
/-- See `natTab`. -/
def bvTab (n : Nat) (t : Tab Nat) : Tab (BitVec n) := List.map (fun e => (e.1, BitVec.ofNat n e.2)) t

/-! ### Trap state (R379) -/

/-- TRAP_STATEk. -/
def TrapMap.word (m : TrapMap) (k : Nat) : DWord :=
  match k with
  | 0 => BitVec.ofNat 64 (m.cause.toNat + m.len.toNat * 2 ^ 16 + bit01 m.valid * 2 ^ 63)
  | 1 => m.pc
  | 2 => m.flm ++ m.em
  | 3 => m.exited ++ m.done
  | 4 => m.addr
  | 5 => m.cj
  | 6 => m.instLo
  | 7 => m.instHi
  | 8 => m.ft
  | 9 => BitVec.ofNat 64 (m.tb.toNat + m.spin.toNat * 2 ^ 9)
  | _ => 0

/-- The map that ten words hold. -/
def TrapMap.ofWords (f : Nat → DWord) : TrapMap :=
  { valid := (f 0).getLsbD 63, cause := (f 0).setWidth 10, len := (f 0).extractLsb' 16 8, pc := f 1, em := loWord (f 2),
    flm := hiWord (f 2), done := loWord (f 3), exited := hiWord (f 3), addr := f 4, cj := f 5, instLo := f 6, instHi := f 7,
    ft := f 8, tb := (f 9).setWidth 9, spin := (f 9).extractLsb' 9 7 }

/-! ### The warp control block (R333) -/

/-- STAT [2:0]. -/
def WStat.code : WStat → Nat
  | .free => 0 | .ready => 1 | .parked => 2 | .replayable => 3 | .retiring => 4 | .halted => 5
/-- See `WStat.code`. -/
def WStat.ofCode : Nat → WStat
  | 1 => .ready | 2 => .parked | 3 => .replayable | 4 => .retiring | 5 => .halted | _ => .free

/-- STAT of a warp. -/
def Warp.statWord (w : Warp) : Nat :=
  w.stat.code + w.reason * 2 ^ 3 + bit01 w.trapMode * 2 ^ 8 + bit01 (w.yielding != 0) * 2 ^ 9 + bit01 w.replay * 2 ^ 10

/-- The state of a transaction from STATE of TXQ: a Doomed one has a START, an ended one none. -/
def txOf (code : Nat) (start : DWord) : TxState :=
  match code with
  | 0 => .none
  | 1 => .active
  | 2 => .committed
  | _ => if start = 0 then .aborted else .doomed

/-- The fields of a control block: offset, bytes, value. -/
def Warp.block (w : Warp) : List (Nat × Nat × Nat) :=
  let arr := fun (b : Nat) => Tab.get none w.arrivals b
  [(0x000, 8, w.pc.toNat), (0x008, 8, w.cj.toNat), (0x010, 4, w.em.toNat), (0x014, 4, w.exited.toNat),
   (0x018, 4, w.statWord), (0x01C, 2, w.depth), (0x01E, 1, w.spin.toNat), (0x01F, 1, w.yielding)] ++
  (List.range 10).map (fun k => (0x020 + 8 * k, 8, (w.trap.word k).toNat)) ++
  [(0x070, 4, w.done.toNat), (0x074, 4, w.waiting.toNat), (0x078, 4, w.statusPort.length),
   (0x080, 4, w.fpFlags.toNat), (0x084, 4, w.fpTrapen.toNat), (0x088, 4, bit01 w.keep),
   (0x090, 8, w.trampLink.toNat), (0x098, 8, w.lstackLimit.toNat)] ++
  (List.range 8).map (fun k => (0x0A0 + 4 * k, 4, (Tab.get 0 w.fmt k).toNat)) ++
  [(0x0C0, 8, w.snap.toNat), (0x0C8, 8, w.txStart.toNat), (0x0D0, 8, w.txq.toNat),
   (0x0D8, 2, match w.snapIx with
     | some (die, i) => i + die * 2 ^ 10 + 2 ^ 15
     | none => 0),
   (0x0E0, 4, packBits 2 ((List.range 16).map (fun k => (Tab.get 0 w.guards k).toNat))), (0x0E4, 4, w.draw.toNat),
   (0x0E8, 4, match w.member with
     | some r => r % 64 + 2 ^ 8
     | none => 0),
   (0x0EC, 4, w.batch.toNat), (0x0F0, 15, packBits 8 (w.qids.map (·.toNat)))] ++
  (List.range 16).map (fun k => (0x100 + 4 * k, 4, (w.q k).toNat)) ++
  (List.range 7).map (fun k => (0x140 + 4 * k, 4, (Tab.get 0 w.preds k).toNat)) ++
  [(0x15C, 4, packBits 1 ((List.range 32).map (fun b => bit01 (arr b).isSome)))] ++
  (List.range 32).map (fun b => (0x160 + 2 * b, 2, ((arr b).getD 0).toNat)) ++
  (w.batches.take 16).zipIdx.map (fun e => (0x1A0 + 4 * e.2, 4, e.1.2.length)) ++
  w.statusPort.zipIdx.flatMap (fun e =>
    [(0x1E0 + 12 * e.2, 8, e.1.1.toNat), (0x1E8 + 12 * e.2, 4, e.1.2.toNat)]) ++
  (List.range 32).map (fun k => (0x2A0 + 4 * k, 4, (Tab.get 0 w.sr k).toNat)) ++
  (match w.reissue with
    | none => []
    | some (w0, m, eas) => [(0x320, 8, w0.toNat), (0x328, 4, m.toNat), (0x32C, 4, 1)] ++
        (lanesOf m).map (fun i => (0x330 + 6 * i, 6, (Tab.get 0 eas i).toNat))) ++
  [(0x3F0, 2, 2 ^ w.qids.length - 1)] ++
  (match (if w.trapMode then w.trapWatch.or w.watch else w.watch) with
    | none => []
    | some (m, a) => [(0x3F2, 1, 1), (0x3F4, 4, m.toNat), (0x3F8, 8, a.toNat)]) ++
  (List.range 64).map (fun k => (0x400 + 8 * k, 8, (w.s k).toNat)) ++
  (List.range 16).map (fun k => (0x600 + 32 * k, 32, (w.h k).toNat))

/-- A table from the values of `n` keys. -/
def tabOf {α : Type} [DecidableEq α] (d : α) (n : Nat) (f : Nat → α) : Tab α :=
  (List.range n).foldl (fun t k => Tab.set d t k (f k)) []

/-- Batch records by their counts, newest first, the newest numbered `n`. -/
def batchList (n : Word) : List Nat → List (Word × Nat)
  | [] => []
  | c :: cs => (n, c) :: batchList (if n = 1 then 0xFFFFFFFF else n - 1) cs

/-- The warp that a control block holds; `num` reads it, `regions` is the number of region 0 of its grove. -/
def Warp.ofBlock (num : Nat → Nat → Nat) (regions : Nat) : Warp :=
  let bv := fun (n a len : Nat) => BitVec.ofNat n (num a len)
  let st := num 0x18 4
  let txq : DWord := bv 64 0xD0 8
  let ix := num 0xD8 2
  let arr := num 0x15C 4
  { stat := WStat.ofCode (bitsAt st 0 3), reason := bitsAt st 3 5, trapMode := st.testBit 8, yielding := num 0x1F 1,
    replay := st.testBit 10, pc := bv 64 0 8, cj := bv 64 8 8, em := bv 32 0x10 4, exited := bv 32 0x14 4,
    depth := num 0x1C 2, spin := bv 7 0x1E 1, trap := TrapMap.ofWords (fun k => bv 64 (0x20 + 8 * k) 8),
    done := bv 32 0x70 4, waiting := bv 32 0x74 4, fpFlags := bv 5 0x80 4, fpTrapen := bv 5 0x84 4,
    keep := (num 0x88 4).testBit 0, trampLink := bv 64 0x90 8 &&& ~~~(2 : DWord)
    lstackLimit := bv 64 0x98 8 &&& 0x000FFFFFFFFFF001,
    fmt := tabOf 0 8 (fun k => bv 32 (0xA0 + 4 * k) 4), snap := bv 64 0xC0 8, txStart := bv 64 0xC8 8,
    txState := txOf (field txq 62 2) (bv 64 0xC8 8), txCode := txq.extractLsb' 56 6, txLines := field txq 46 10,
    txConf := txq.extractLsb' 0 41, snapIx := if ix.testBit 15 then some (bitsAt ix 10 2, bitsAt ix 0 10) else none,
    guards := tabOf 0 16 (fun k => BitVec.ofNat 2 (bitsAt (num 0xE0 4) (2 * k) 2)), draw := bv 32 0xE4 4,
    member := if (num 0xE8 4).testBit 8 then some (regions + bitsAt (num 0xE8 4) 0 6) else none, batch := bv 32 0xEC 4,
    qids := ((List.range 15).filter (fun k => (num 0x3F0 2).testBit k)).map (fun k => bv 8 (0xF0 + k) 1),
    qbind := tabOf 0 16 (fun k => bv 32 (0x100 + 4 * k) 4), preds := tabOf 0 7 (fun k => bv 32 (0x140 + 4 * k) 4),
    arrivals := tabOf none 32 (fun b => if arr.testBit b then some (bv 16 (0x160 + 2 * b) 2) else none),
    statusPort := (List.range (min (num 0x78 4) 16)).map (fun k => (bv 64 (0x1E0 + 12 * k) 8, bv 16 (0x1E8 + 12 * k) 4)),
    sr := tabOf 0 32 (fun k => bv 32 (0x2A0 + 4 * k) 4),
    reissue := if (num 0x32C 4).testBit 0 then
        some (bv 64 0x320 8, bv 32 0x328 4, tabOf 0 32 (fun i => bv 64 (0x330 + 6 * i) 6)) else none,
    watch := if (num 0x3F2 1).testBit 0 && !st.testBit 8 then some (bv 32 0x3F4 4, bv 64 0x3F8 8) else none,
    trapWatch := if (num 0x3F2 1).testBit 0 && st.testBit 8 then some (bv 32 0x3F4 4, bv 64 0x3F8 8) else none,
    sregs := tabOf 0 64 (fun k => bv 64 (0x400 + 8 * k) 8), hregs := tabOf 0 16 (fun k => bv 256 (0x600 + 32 * k) 32) }

/-! ### Barriers, bands and records (R202, R218, R236) -/

/-- The 128 bits of a barrier object. -/
def Barrier.image (o : Barrier) : Nat :=
  bit01 o.valid + o.drop.toNat * 2 ^ 16 + o.pend.toNat * 2 ^ 32 + o.expect.toNat * 2 ^ 48 + o.phase.toNat * 2 ^ 64 +
    o.wmode.toNat * 2 ^ 90 + o.txb.toNat * 2 ^ 92
/-- See `Barrier.image`. -/
def Barrier.ofImage (x : Nat) : Barrier :=
  { valid := x.testBit 0, drop := BitVec.ofNat 16 (bitsAt x 16 16), pend := BitVec.ofNat 16 (bitsAt x 32 16),
    expect := BitVec.ofNat 16 (bitsAt x 48 16), phase := BitVec.ofNat 16 (bitsAt x 64 16),
    wmode := BitVec.ofNat 2 (bitsAt x 90 2), txb := BitVec.ofNat 36 (bitsAt x 92 36) }

/-- The 128 bits of a reservation record; one that is Releasing is saved Free. -/
def Resv.image (x : Resv) : Nat :=
  if x.state = .held then
    1 + x.owner * 2 ^ 32 + x.base * 2 ^ 50 + x.size % 1024 * 2 ^ 60 + x.soff * 2 ^ 70 + x.blk.toNat * 2 ^ 90 +
      x.kind.toNat * 2 ^ 93 + x.fmt.toNat * 2 ^ 96
  else 0
/-- See `Resv.image`; the record is one of context `c`. -/
def Resv.ofImage (c : CtxId) (x : Nat) : Resv :=
  if x.testBit 0 then
    { state := .held, fmt := BitVec.ofNat 32 (bitsAt x 96 32), kind := BitVec.ofNat 3 (bitsAt x 93 3),
      blk := BitVec.ofNat 3 (bitsAt x 90 3), soff := bitsAt x 70 10, size := bitsAt x 60 10, base := bitsAt x 50 10,
      owner := bitsAt x 32 4, ctx := c }
  else {}

/-- A band control word. -/
def Band.image (x : Band) : Nat := if x.state = .held then 2 ^ 31 + x.owner * 2 ^ 20 else 0
/-- See `Band.image`; the band is one of context `c`. -/
def Band.ofImage (c : CtxId) (x : Nat) : Band := if x.testBit 31 then ⟨.held, bitsAt x 20 4, c⟩ else {}

/-! ### Regions (R276, R277, R335) -/

/-- STATE of a region. -/
def RegState.code : RegState → Nat
  | .free => 0 | .opened => 1 | .closing => 2
/-- See `RegState.code`. -/
def RegState.ofCode : Nat → RegState
  | 1 => .opened | 2 => .closing | _ => .free

/-- The 256 bits of a region header. -/
def Region.image (r : Region) : Nat :=
  r.state.code * 2 ^ 66 + bit01 r.coh * 2 ^ 68 + bit01 r.cs * 2 ^ 69 + r.tag.toNat * 2 ^ 70 + r.w * 2 ^ 73 +
    r.lim.toNat * 2 ^ 80 + r.low.toNat * 2 ^ 96 + r.next.toNat * 2 ^ 128 + r.count.toNat * 2 ^ 160 + r.pro * 2 ^ 192 +
    (coreOf r.anchor % 16 * 16 + slotOf r.anchor) * 2 ^ 208 + r.left * 2 ^ 223 + r.memb * 2 ^ 232
/-- The region that a header holds, anchored in a grove. -/
def Region.ofImage (grove x : Nat) : Region :=
  { state := RegState.ofCode (bitsAt x 66 2), coh := x.testBit 68, cs := x.testBit 69, tag := BitVec.ofNat 3 (bitsAt x 70 3),
    w := bitsAt x 73 7, lim := BitVec.ofNat 16 (bitsAt x 80 16), low := BitVec.ofNat 32 (bitsAt x 96 32),
    next := BitVec.ofNat 32 (bitsAt x 128 32), count := BitVec.ofNat 32 (bitsAt x 160 32), pro := bitsAt x 192 16,
    anchor := (grove * 16 + bitsAt x 212 4) * 16 + bitsAt x 208 4, left := bitsAt x 223 9, memb := bitsAt x 232 9 }

/-- The 64 bits of a counter slot. -/
def Slot.image (e : Slot) : Nat :=
  e.iter.toNat + e.stage.toNat * 2 ^ 32 + e.fcode.toNat * 2 ^ 48 + e.pendc * 2 ^ 58 + e.st.toNat * 2 ^ 62
/-- See `Slot.image`. -/
def Slot.ofImage (x : Nat) : Slot :=
  { st := BitVec.ofNat 2 (bitsAt x 62 2), pendc := bitsAt x 58 4, fcode := BitVec.ofNat 10 (bitsAt x 48 10),
    stage := BitVec.ofNat 16 (bitsAt x 32 16), iter := BitVec.ofNat 32 (bitsAt x 0 32) }

/-- The 16 words of a held copy list. -/
def Region.heldImage (r : Region) : List Nat :=
  r.held.map (fun c => c.1 % 64 + c.2.1 % 8 * 2 ^ 6 + c.2.2 % 65536 * 2 ^ 9 + 2 ^ 31)
/-- The iteration that a held copy's slot stands for: the one at or above LOW (R286). -/
def Region.heldOf (r : Region) (x : Nat) : Nat × Nat × Nat :=
  let low := r.low.toNat
  (low + (bitsAt x 0 6 + 64 - low % 64) % 64, bitsAt x 6 3, bitsAt x 9 16)

/-! ### Commands and copies (R240, R265, R272, R334) -/

/-- Bits 95 to 0 of a command word. -/
def CmdBody.image (b : CmdBody) (port : Nat) : Nat :=
  match b with
  | .mma half z n64 kc _ _ sa sb =>
    sa.bits.toNat + sb.bits.toNat * 2 ^ 32 +
      (1 + (port % 4 + bit01 half * 4 + bit01 z * 8) * 2 ^ 8 + (kc.toNat + bit01 n64 * 128) * 2 ^ 16) * 2 ^ 64
  | .accz part => (2 + (port % 4 + (match part with
      | .all => 0
      | .lo => 1
      | .hi => 2) * 4) * 2 ^ 8) * 2 ^ 64
  | .colrd col => (3 + port % 4 * 2 ^ 8 + col * 2 ^ 16) * 2 ^ 64
  | .accrd .. => 0
  | .accwr .. => 0
  | .copy c =>
    c.gbase.toNat + (c.dir.bits.toNat + bit01 c.bar.isSome * 4 + (c.bar.getD 0).toNat * 8 + c.hreg * 2 ^ 8 +
      (if c.dir = .g2o then c.lbase / 4 % 2 ^ 15 * 2 ^ 12 + c.recNo * 2 ^ 27 else c.lbase / 4 % 2 ^ 20 * 2 ^ 12)) * 2 ^ 64

/-- The 160 bits of a command in a queue image: its word with slot and validity, and LANES. -/
def Cmd.image (c : Cmd) (port : Nat) : Nat :=
  let tag : Nat := match c.dest with
    | .sreg n => n
    | .none => c.tag.toNat
    | .port => c.tag.toNat
  let sq : Nat := match c.dest with
    | .sreg _ => 1
    | .none => c.sq.toNat
    | .port => c.sq.toNat
  c.body.image port + tag * 2 ^ 96 + sq * 2 ^ 112 + bit01 c.succ.isSome * 2 ^ 116 + bit01 c.hold * 2 ^ 117 +
    (match c.guard with
      | some g => 2 ^ 118 + g.toNat * 2 ^ 119
      | none => 0) + c.slot * 2 ^ 123 + 2 ^ 127 + c.lanes.toNat * 2 ^ 128

/-- The command of team `team` that a queue image entry holds, under number `id`; `q` gives the port that a q register of its warp names, and
`snap` the warp's snap. -/
def Cmd.ofImage (x id port team : Nat) (q : Nat → Option Nat) (snap : DWord) : Option Cmd :=
  let w := BitVec.ofNat 128 x
  let sv := x.testBit 116
  let issued := !sv && bitsAt x 112 4 != 0
  let body : Option CmdBody := if port < 4 then (bandBody w).map (·.2) else (copyBody w snap).map CmdBody.copy
  body.map (fun b =>
    { id := id, slot := bitsAt x 123 4, team := team, lanes := BitVec.ofNat 32 (bitsAt x 128 32),
      guard := if x.testBit 118 then some (BitVec.ofNat 4 (bitsAt x 119 4)) else none, hold := x.testBit 117,
      succ := if sv then q (bitsAt x 112 4) else none, sq := BitVec.ofNat 4 (bitsAt x 112 4),
      tag := if issued then 0 else BitVec.ofNat 16 (bitsAt x 96 16),
      dest := if port < 4 then .none else if issued then .sreg (bitsAt x 96 6) else .port, body := b })

/-- The 512 bits of a copy progress image. -/
def progImage (c : Cmd) (q : CopyReq) (p : CopyProg) : Nat :=
  let (sreg, toReg) : Nat × Bool := match c.dest with
    | .sreg n => (n, true)
    | .none => (0, false)
    | .port => (0, false)
  p.layout.toNat + q.gbase.toNat * 2 ^ 256 + (q.lbase + (if q.dir = .g2o then q.recNo * 2 ^ 32 else 0)) * 2 ^ 320 +
    p.done * 2 ^ 384 + (q.dir.bits.toNat + bit01 q.bar.isSome * 4 + (q.bar.getD 0).toNat * 8) * 2 ^ 448 + sreg * 2 ^ 480 +
    c.slot * 2 ^ 488 + (1 + bit01 toReg * 2 + bit01 p.stalled.isSome * 4) * 2 ^ 496

/-- The executing copy that a progress image holds. -/
def ofProgImage (x id team : Nat) (snap : DWord) : Option (Cmd × CopyProg) :=
  let dir := match bitsAt x 448 2 with
    | 0 => some CopyDir.g2s | 1 => some CopyDir.s2g | 2 => some CopyDir.g2o | _ => none
  if !x.testBit 496 then none
  else dir.map (fun dir =>
    let layout := BitVec.ofNat 256 x
    let l := bitsAt x 320 64
    ({ id := id, slot := bitsAt x 488 4, team := team, lanes := 0, guard := none, hold := false, succ := none, tag := 0,
       dest := if x.testBit 497 then .sreg (bitsAt x 480 6) else .port,
       body := .copy ⟨0, dir, BitVec.ofNat 64 (bitsAt x 256 64), bitsAt l 0 32, if dir = .g2o then bitsAt l 32 5 else 0,
         if x.testBit 450 then some (BitVec.ofNat 5 (bitsAt x 451 5)) else none, snap, none, none⟩ },
     { layout := layout, done := bitsAt x 384 40, bytes := bitsAt x 384 40 * layElem layout }))

/-! ### The team table and the warps of an image (R334, R132) -/

/-- widBase of warp `warp` of team `team` of cohort `coh`: the lanes' work identifiers but for the lane (R132). -/
def Launch.widBase (l : Launch) (warp team : Nat) (coh : DWord) : DWord :=
  let a := l.num 0x10 1
  let b := l.num 0x11 1
  BitVec.ofNat 64 (warp * 2 ^ 5 + team * 2 ^ (5 + a) + coh.toNat * 2 ^ (5 + a + b))

/-- Address of entry `n` of the team table of a core's record. -/
def State.teamEntry (s : State) (c : CtxId) (core n : Nat) : Nat := s.recAddr c core + 0x11DD00 + 32 * n
/-- The entry of the team that holds a warp slot in an image. -/
def State.imageTeam (s : State) (c : CtxId) (core slot : Nat) : Option Nat :=
  (List.range 16).find? (fun n =>
    let a := s.teamEntry c core n
    (s.num (a + 3) 1).testBit 0 && (s.num a 2).testBit slot)
/-- Where object `b` of team `n` of a core's team table stands in an image (R335). -/
def State.imageBar (s : State) (c : CtxId) (core n b : Nat) : Option Nat :=
    let e := s.teamEntry c core n
    if !(s.num (e + 3) 1).testBit 0 then none
    else if b < 16 then some (s.recAddr c core + 0x126000 + 0x100 * n + 16 * b)
    else
      let cores := (List.range 16).map (fun i => groveOf core * 16 + i)
      let homes := cores.flatMap (fun x => (List.range 16).filterMap (fun m =>
        let f := s.teamEntry c x m
        if (s.num (f + 3) 1).testBit 0 ∧ s.num (f + 2) 1 = 0 ∧ s.num (f + 16) 16 = s.num (e + 16) 16 then some (x, m)
        else none))
      match homes with
      | [] => none
      | (x, m) :: _ =>
        let r := s.recAddr c x + 0x126000
        ((List.range 4).find? (fun p => s.num (r + 0x1E00 + 8 * p) 2 == m + 0x100)).map (fun p =>
          r + 0x1000 + 0x100 * p + 16 * (b - 16))
/-- An occurrence of event `e` for a context whose state on a core is saved: the counters of its image count it (R397). -/
def State.countImage (s : State) (c : CtxId) (core e : Nat) : State :=
  let a := s.recAddr c core + 0x11DF00 + (if (s.ctx c).resident then 72 else 0)
  let ctl := s.dword a
  let old := s.dword (a + 8)
  let t := (List.range 8).foldl (fun (s : State) k =>
    if perfEvent ctl k = e then s.setDword (a + 8 + 8 * k) (s.dword (a + 8 + 8 * k) + 1) else s) s
  t.sample core (samples ctl old (t.dword (a + 8)))
/-- The accepted launch of a context by the address of its record. -/
def State.launchAt (s : State) (c : CtxId) (recva : DWord) : Option Launch :=
  s.launches.find? (fun l => l.ctx == c && l.recva == recva && l.state != .ended)
/-- Set bits of a number below bit `n`. -/
def bitsBelow (x n : Nat) : Nat := ((List.range n).filter (fun i => x.testBit i)).length

/-- Warp `k` of a context as its image holds it, without its vector registers and its batches. -/
def State.imageWarp (s : State) (c : CtxId) (k : Nat) : Warp :=
  let a := s.wcbAddr c k
  let core := coreOf k
  let n := (s.imageTeam c core (slotOf k)).getD (slotOf k)
  let e := s.teamEntry c core n
  let kept := s.keptWarps.find? (fun x => x.ctx == c && x.key == k)
  let index := kept.elim (bitsBelow (s.num e 2) (slotOf k)) (·.index)
  let w := Warp.ofBlock (fun off len => s.num (a + off) len) (groveOf core * 64)
  { w with
    ctx := c, team := core * 16 + n, index := index
    widBase := match s.launchAt c (s.dword (e + 16)) with
      | some l => l.widBase index (s.num (e + 2) 1) (s.dword (e + 24))
      | none => 0 }

/-- Fields of a control block written. -/
def State.putBlock (s : State) (a : Nat) (fs : List (Nat × Nat × Nat)) : State :=
  fs.foldl (fun s f => s.putNum (a + f.1) f.2.1 f.2.2) s

end Sys2Proof.Machine
end

