-- ==== Sys2Proof/Machine/Path.lean ====
section
/-! DEFINITION. Fetching an instruction's bytes (R47, R140) and the paths of a warp: the reconvergence stack with its spill
area, Transfer, NextPath and rotation (07_group.md R141 to R145, R381). -/

namespace Sys2Proof.Machine

/-! ### Code -/

/-- A line of code as a core fetches it: memory, or the instruction cache's copy, which holds the line as some fetch of the same
launch read it (R10, R140). -/
def State.codeLine (s : State) (seed line : Nat) : List Byte :=
  match Tab.get (0, []) s.myCore.icache line with
  | (_, []) => s.bytes (line * 128) 128
  | (l, b) => if l = s.myTeam.launch && Config.useCopy seed then b else s.bytes (line * 128) 128

/-- `n` bytes of code within one line, or the cause of the fetch (R140, R163). -/
def State.code (s : State) (c : CtxId) (die : Nat) (pc : DWord) (n : Nat) : Except Cause (List Byte) :=
  match s.translate c die wantX 0 pc with
  | .error e => .error e
  | .ok t => .ok (((s.codeLine s.ticks (t.addr pc / 128)).drop (t.addr pc % 128)).take n)

/-- The core keeps a line of code that its launch has fetched, of at most 256 lines (R10). Which line a full cache replaces is the model's
choice: the one at the lowest physical address (log entry 9). -/
def Core.keepCode (c : Core) (launch line : Nat) (b : List Byte) : Core :=
  let old := c.icache.filter (fun e => e.1 != line)
  { c with icache := Tab.set (0, []) (if old.length < 256 then old else old.drop 1) line (launch, b) }

/-- The first word at or after `pc` that is no pad word, as far as code translates (R47). -/
def State.skipPads (s : State) : Nat → DWord → DWord
  | 0, pc => pc
  | n + 1, pc =>
    match s.code s.myCtx s.myDie pc 4 with
    | .ok (b :: _) => if b.toNat % 4 = 3 then State.skipPads s n (pc + 4) else pc
    | .ok [] => pc
    | .error _ => pc

/-- Pad words at `pc` are skipped, all of a run: the 2^48 bytes of the address space hold no more than 2^46 words (R157). -/
def State.pastPads (s : State) (pc : DWord) : DWord := s.skipPads 70368744177664 pc

/-- The address of the following instruction, `len` bytes on and beyond any pad words (R47, R147). -/
def State.following (s : State) (len : Nat) : DWord := s.pastPads (s.w.pc + BitVec.ofNat 64 len)

/-- Whether an instruction of `len` bytes crosses a 32-byte fetch block (R47). -/
def crosses (pc : DWord) (len : Nat) : Bool := decide (32 < pc.toNat % 32 + len)

/-- The instruction bytes at `pc` by the word's LEN field (R47). Bytes of another block that does not translate read as 0:
such a word raises 0x049 in any case. -/
def State.fetchAt (s : State) (pc : DWord) : Except Cause Fetched :=
  match s.code s.myCtx s.myDie pc 4 with
  | .error e => .error e
  | .ok b4 =>
    let len := lenBytes (BitVec.ofNat 2 (natLE b4))
    let room := 32 - pc.toNat % 32
    let first := match s.code s.myCtx s.myDie pc (min len room) with
      | .ok bs => bs
      | .error _ => []
    let rest := match s.code s.myCtx s.myDie (pc + BitVec.ofNat 64 room) (len - room) with
      | .ok bs => bs
      | .error _ => []
    let bs := if len ≤ room then first else first ++ rest
    .ok ⟨len, BitVec.ofNat 64 (natLE (bs.take 8)), BitVec.ofNat 64 (natLE (bs.drop 8))⟩

/-- The instruction that fetched bytes at `pc` stand for (R59). -/
def decodeFetched (pc : DWord) (f : Fetched) : Instr :=
  if crosses pc f.len then .illegalEncoding ⟨0x049, f.len, f.w0, f.ext⟩ else decode f.w0 f.ext

/-! ### The stack and its spill area (R145) -/

/-- Why a path operation did not perform: a cause with its fault lanes, a fault of a spill or fill, or what its access on path V
waits for: earlier accesses, a versioned line (the reason and the line's address), or the bytes of an entry on another
package, to be asked for by its depth (log entry 21). -/
inductive PathErr where
  | trap (cause : Cause) (flm : Mask)
  | fault (f : LaneFault) (acc : Nat)
  | hold
  | wait (reason addr : Nat)
  | ask (depth : Nat)
deriving DecidableEq, Repr

/-- SPILL_BASE of R73. -/
def Warp.spillBase (w : Warp) : DWord :=
  let lsz := field w.lstackLimit 48 4
  BitVec.ofNat 64 (field w.lstackLimit 12 36 * 4096 + 2 ^ (lsz + 13) - 8192)
/-- Where the entry at depth `d` is spilled. -/
def Warp.spillVa (w : Warp) (d : Nat) : DWord := w.spillBase + BitVec.ofNat 64 (32 * d)
/-- The lane that stands for the warp in a spill or fill: the lowest of em (log entry 21). -/
def Warp.pathLane (w : Warp) : Nat := (lowLane w.em).getD 0

/-- The spill area's part of the entry at depth `d`, translated for reading or writing. -/
def State.spillPart (s : State) (d : Nat) (want : Want) : Except PathErr (Part × Trans) :=
  let va := s.w.spillVa d
  match s.translate s.myCtx s.myDie want d va with
  | .error e => .error (.fault ⟨s.w.pathLane, e, va, va⟩ (if want.wr then 1 else 0))
  | .ok t => if s.fenceHolds 0 then .error .hold else .ok (⟨va, 0, 32⟩, t)

/-- The bytes of an entry on another package are asked for. -/
def State.askEntry (s : State) (d : Nat) : State :=
  match s.spillPart d wantR with
  | .error _ => s
  | .ok p =>
    let s := (s.passFence 0).noteParts true [p]
    let tag := s.nextId
    let asks := asksOf 0 [(p.1, p.2, .away)]
    ((s.addPending 1 (.entry d asks (s.die s.myDie).epoch tag)).sendLoads tag asks).noteHit (laneBit s.w.pathLane) true false
      p.1.va 32

/-- The executing warp's answer to an error of its instruction (R145, R378). -/
def State.pathErr (s : State) (e : PathErr) : State :=
  match e with
  | .trap c flm => s.precise c flm s.noAddr
  | .fault f acc => s.replayable [f] s.w.done acc
  | .hold => s.hold
  | .wait r a => (if r = 18 then s.waitPool (dieOfAddr a) s.me else s).park r
  | .ask d => (s.askEntry d).park 1

/-- The answer to an error of a NextPath that no instruction calls: what waits is looked at again before the fetch. -/
def State.nextErr (s : State) (e : PathErr) : State :=
  match e with
  | .wait r a => (if r = 18 then s.waitPool (dieOfAddr a) s.me else s).hold
  | .ask d => (s.askEntry d).hold
  | .trap c flm => s.pathErr (.trap c flm)
  | .fault f acc => s.pathErr (.fault f acc)
  | .hold => s.pathErr .hold

/-- KIND of R145. -/
def EntryKind.code : EntryKind → Nat
  | .join => 0 | .path => 1 | .wait => 2

/-- The 32 bytes of an entry (R145). -/
def StackEntry.bytes (e : StackEntry) : List Byte :=
  bytesLE 8 e.pc.toNat ++ bytesLE 8 e.join.toNat ++ bytesLE 4 e.mask.toNat ++ bytesLE 4 e.smask.toNat ++
    bytesLE 8 e.kind.code

/-- An entry read back; none for a KIND above 2 (R145). -/
def StackEntry.ofBytes (b : List Byte) : Option StackEntry :=
  let kind := match natLE ((b.drop 24).take 1) with
    | 0 => some EntryKind.join | 1 => some EntryKind.path | 2 => some EntryKind.wait | _ => none
  kind.map (fun k =>
    ⟨k, BitVec.ofNat 64 (natLE (b.take 8)), BitVec.ofNat 32 (natLE ((b.drop 16).take 4)),
      BitVec.ofNat 64 (natLE ((b.drop 8).take 8)), BitVec.ofNat 32 (natLE ((b.drop 20).take 4))⟩)

/-- The entry at depth `d` is spilled, a plain store on path V (R145, R372). -/
def State.spillEntry (s : State) (d : Nat) (e : StackEntry) : Except PathErr State :=
  match s.spillPart d wantW with
  | .error x => .error x
  | .ok p =>
    if s.storeHeld false [p] || s.storeBehind false [p] then .error .hold
    else
      let r := ((s.passFence 0).noteParts true [p]).storeLanes [⟨0, p.1.va, [p]⟩] s.w.relFence
        (fun _ => e.bytes.zipIdx.map (fun x => (x.2, x.1)))
      if r.2.1 = 0 then .ok (r.1.noteHit (laneBit s.w.pathLane) false true p.1.va 32)
      else .error (.wait r.2.2 (p.2.addr p.1.va))

/-- Bytes of a filled entry; 0x187 for a KIND above 2. -/
def State.entryOf (s : State) (b : List Byte) : Except PathErr (State × StackEntry) :=
  match StackEntry.ofBytes b with
  | none => .error (.trap 0x187 s.w.em)
  | some e => .ok (s, e)

/-- The entry at depth `d` is filled, a plain load on path V, unless its bytes have come from another package (R145, R372). -/
def State.fillEntry (s : State) (d : Nat) : Except PathErr (State × StackEntry) :=
  match Tab.get [] s.w.entries d with
  | b :: bs => s.entryOf (b :: bs)
  | [] => match s.spillPart d wantR with
    | .error x => .error x
    | .ok p =>
      let strong := p.2.okind == 0
      if s.anyAway s.lineHolds [p] || (strong && s.strongHolds none) || (s.away p.2 && s.w.loadAway) then .error .hold
      else
        let r := ((s.passFence 0).noteParts true [p]).readParts s.view false (s.ticks * 65536 + d * 64) [p]
        match gotAll r.2 with
        | .bytes b => ((if strong then r.1.acquireOn 0 3 else r.1).noteHit (laneBit s.w.pathLane) true false p.1.va 32).entryOf b
        | .away => .error (.ask d)
        | .wait n => .error (.wait n (p.2.addr p.1.va))
        | .fail c => .error (.trap c s.w.em)

/-- The entries at depths from `lo` + `n` - 1 down to `lo` are filled, topmost first. -/
def State.fillAll (s : State) (lo : Nat) : Nat → Except PathErr (State × List StackEntry)
  | 0 => .ok (s, [])
  | n + 1 => match s.fillEntry (lo + n) with
    | .error x => .error x
    | .ok (t, e) => match State.fillAll t lo n with
      | .error x => .error x
      | .ok (u, es) => .ok (u, e :: es)

/-- Entries, topmost first, of which the last stands at depth `lo`, and those that stand in the spill area already, likewise: the
entries that differ are spilled. -/
def State.spillList (s : State) (lo : Nat) (old : List StackEntry) : List StackEntry → Except PathErr State
  | [] => .ok s
  | e :: es =>
    if old.reverse[es.length]? = some e then State.spillList s lo old es
    else match s.spillEntry (lo + es.length) e with
      | .error x => .error x
      | .ok t => State.spillList t lo old es

/-- The depth below which the executing warp sees no entry: TB in trap mode (R381). -/
def Warp.floor (w : Warp) : Nat := if w.trapMode then min w.trap.tb.toNat w.depth else 0

/-- The most entries a warp's stack may hold (R145). -/
def Warp.stackRoom (w : Warp) : Nat := if w.lstackLimit.getLsbD 0 then 288 else 32

/-- One push; the 33rd entry from the top is spilled (R145). The causes of a full stack and of a bad KIND name no fault lanes: em
(log entry 73). -/
def State.push1 (s : State) (e : StackEntry) : Except PathErr State :=
  let w := s.w
  if w.stackRoom ≤ w.depth then .error (.trap 0x186 w.em)
  else
    let r : Except PathErr State := match w.stack.drop 31 with
      | [] => .ok s
      | b :: _ => s.spillEntry (w.depth - 32) b
    match r with
    | .error x => .error x
    | .ok s => .ok (s.upd (fun w => { w with stack := (e :: w.stack).take 32, depth := w.depth + 1, spin := 0 }))

/-- Pushes in order. -/
def State.pushes (s : State) : List StackEntry → Except PathErr State
  | [] => .ok s
  | e :: es => match s.push1 e with
    | .error x => .error x
    | .ok s => State.pushes s es

/-! ### Transfer (R142) -/

/-- The entries that Transfer pushes after the JOIN entry: every destination but the lowest, highest first. -/
def siblings (em : Mask) (dest : Nat → DWord) (cj : DWord) : List Nat → List StackEntry
  | [] => []
  | _ :: ps => (ps.map (fun a => (⟨.path, BitVec.ofNat 64 a, maskOf (fun i => em.getLsbD i && (dest i).toNat == a), cj, 0⟩
      : StackEntry))).reverse

/-- The distinct destinations of the lanes of em, ascending. -/
def destsOf (em : Mask) (dest : Nat → DWord) : List Nat := ascending ((lanesOf em).map (fun i => (dest i).toNat))

/-- Transfer of R142; nothing moves when it answers an error. A path without lanes goes to `fall`. -/
def State.transfer (s : State) (dest : Nat → DWord) (join : DWord) (pushJoin : Bool) (fall : DWord) : Except PathErr State :=
  let w := s.w
  match destsOf w.em dest with
  | [] => .ok (s.upd (fun w => { w with pc := fall }))
  | [a] => .ok (s.upd (fun w => { w with pc := BitVec.ofNat 64 a }))
  | a :: ps =>
    let cj := if pushJoin then join else w.cj
    let js := if pushJoin then [(⟨.join, join, w.em, w.cj, 0⟩ : StackEntry)] else []
    match s.pushes (js ++ siblings w.em dest cj (a :: ps)) with
    | .error x => .error x
    | .ok s =>
      let em := maskOf (fun i => w.em.getLsbD i && (dest i).toNat == a)
      .ok (s.upd (fun v => { v with pc := BitVec.ofNat 64 a, cj := cj, spin := 0, em := em }))

/-- The instruction at which a restored warp waits, and which it passed in PC by `back` bytes, is read again. -/
def State.refetch (s : State) (back : Nat) : State :=
  if s.w.ir.isSome then s
  else match s.fetchAt (s.w.pc - BitVec.ofNat 64 back) with
    | .ok f => s.upd (fun w => { w with ir := some f })
    | .error _ => s

/-! ### NextPath (R143) -/

/-- A path and the stack entries that it can see, topmost first. -/
structure Path where
  pc : DWord
  em : Mask
  cj : DWord
  spin : BitVec 7
  st : List StackEntry
deriving DecidableEq, Repr

/-- The entries of the region: above the topmost JOIN entry (R141). -/
def regionOf (st : List StackEntry) : List StackEntry := st.takeWhile (fun e => e.kind != .join)

/-- The path that an entry holds (R143). -/
def Path.take (p : Path) (exited : Mask) (e : StackEntry) (st : List StackEntry) : Path :=
  { p with pc := e.pc, em := e.mask &&& ~~~exited, cj := e.join, spin := 0, st := st }

/-- The first PATH entry taken out. -/
def dropPath : List StackEntry → List StackEntry
  | [] => []
  | e :: es => if e.kind = .path then es else e :: dropPath es

/-- The union of the masks of the WAIT entries. -/
def waitMask (st : List StackEntry) : Mask := st.foldl (fun m e => if e.kind = .wait then m ||| e.mask else m) 0
/-- The union of the masks of the PATH entries. -/
def pathMask (st : List StackEntry) : Mask := st.foldl (fun m e => if e.kind = .path then m ||| e.mask else m) 0

/-- One NextPath: the path it yields and whether it moved; or the masks of cause 0x185 and the entries that it has left (R143). -/
def Path.next (p : Path) (exited : Mask) : Except (Mask × List StackEntry) (Path × Bool) :=
  let st := p.st.filter (fun e => e.mask &&& ~~~exited != 0)
  let region := regionOf st
  match region.find? (fun e => e.kind == .path) with
  | some e => .ok (p.take exited e (dropPath st), true)
  | none =>
    if region.any (fun e => e.kind == .wait) then .error (waitMask region, st)
    else match st with
      | [] => .ok ({ p with spin := 0, st := [] }, false)
      | e :: es => .ok (p.take exited e es, true)

/-- Whether the current path has ended (R143). -/
def Path.ended (p : Path) : Bool := p.pc == p.cj || (p.em == 0 && !p.st.isEmpty)

/-- The comparison of R143, repeated, each after pad words are skipped. On 0x185 the path that ended, with the entries left; the removal
of others resets SPIN (R144). -/
def Path.settle (pads : DWord → DWord) (exited : Mask) : Nat → Path → Except (Mask × Path) Path
  | 0, p => .ok p
  | n + 1, p =>
    let p := { p with pc := pads p.pc }
    if p.ended then
      match p.next exited with
      | .error (m, st) => .error (m, { p with st := st, spin := if st = p.st then p.spin else 0 })
      | .ok (q, true) => Path.settle pads exited n q
      | .ok (q, false) => .ok q
    else .ok p

/-- The executing warp's path with the entries that it sees, those filled for that, in the spill area already, and the hardware's
entries below (R381). -/
structure Loaded where
  s : State
  path : Path
  filled : List StackEntry
  below : List StackEntry

/-- Every entry that the executing warp sees is read; a hidden one is not (R381). -/
def State.loadPath (s : State) : Except PathErr Loaded :=
  let w := s.w
  let sees := w.depth - w.floor
  match s.fillAll w.floor (sees - w.stack.length) with
  | .error x => .error x
  | .ok (t, es) => .ok ⟨t, ⟨w.pc, w.em, w.cj, w.spin, (w.stack ++ es).take sees⟩, es, w.stack.drop sees⟩

/-- The path becomes the executing warp's, above the entries that it cannot see. The hardware holds the top 32 entries: those beyond
are spilled, those missing are filled (R145). -/
def Loaded.store (l : Loaded) (p : Path) : Except PathErr State :=
  let lo := l.s.w.floor
  let depth := p.st.length + lo
  let top := p.st ++ l.below
  let base := depth - top.length
  let lack := min base (32 - top.length)
  match l.s.spillList base l.filled (top.drop 32) with
  | .error x => .error x
  | .ok t => match t.fillAll (base - lack) lack with
    | .error x => .error x
    | .ok (u, es) => .ok (u.upd (fun w =>
        { w with pc := p.pc, em := p.em, cj := p.cj, spin := p.spin, stack := top.take 32 ++ es, depth := depth,
                 entries := [] }))

/-- What R143 did before a fetch: the path to fetch on, or the state after 0x185, a fault or a stop. -/
inductive Settled where
  | path (s : State)
  | stopped (s : State)

/-- A watch hit of a spill or fill stops the warp once the path operation is over; `m` is the map of the instruction that made it
(R390). -/
def State.pathStop (s : State) (m : TrapMap) : State :=
  match s.w.watch with
  | none => s
  | some (flm, a) => (s.upd (fun w => { w with watch := none })).stopMap { m with cause := 0x2C1, flm := flm, done := m.em, addr := a }

/-- R143 before an instruction is fetched. NextPath's 0x185 is raised with PC at the ended path's CJ and no instruction. -/
def State.settle (s : State) : Settled :=
  let pc := s.pastPads s.w.pc
  let s := if pc = s.w.pc then s else s.upd (fun w => { w with pc := pc })
  let w := s.w
  if w.pc ≠ w.cj ∧ (w.em ≠ 0 ∨ w.depth = 0) then .path s
  else
    let s := s.upd (fun w => { w with ir := none })
    match s.loadPath with
    | .error e => .stopped (s.nextErr e)
    | .ok l =>
      match l.path.settle s.pastPads w.exited 600 with
      | .error (m, q) =>
        match l.store { q with pc := q.cj } with
        | .error e => .stopped (s.nextErr e)
        | .ok t => .stopped (t.precise 0x185 m s.noAddr)
      | .ok q => match l.store q with
        | .error e => .stopped (s.nextErr e)
        | .ok t => if t.w.watch.isSome && !t.revoking t.w.ctx then .stopped (t.pathStop (s.trapMap 0x2C1 0 0 0)) else .path t

/-- Rotation of R144. -/
def Path.rotate (p : Path) (exited : Mask) : Path :=
  match (regionOf p.st).find? (fun e => e.kind == .path) with
  | none => { p with spin := 0 }
  | some e => p.take exited e (⟨.path, p.pc, p.em, p.cj, 0⟩ :: dropPath p.st)

/-- R144 at the retirement of a BRA whose Transfer was uniform. A rotation reads every spilled entry that the warp sees, also below the
topmost JOIN: a fault, a watch hit or 0x187 of such an entry is taken at the BRA (log entry 95). -/
def State.countSpin (s : State) : Except PathErr State :=
  let w := s.w
  if w.em = ~~~w.exited then .ok s
  else if w.spin.toNat + 1 < 64 then .ok (s.upd (fun w => { w with spin := w.spin + 1 }))
  else match s.loadPath with
    | .error e => .error e
    | .ok l => l.store (l.path.rotate w.exited)

end Sys2Proof.Machine
end

