-- ==== Sys2Proof/Machine/Remote.lean ====
section
/-! DEFINITION. What reaches memory and its waits from outside the warp: FENCEP's wait (20_order_far.md R374 to R376), fault
records and their answers (08_page.md R166, 18_context.md R338, R344), responses (07_group.md R138, R139), and the packets of
other packages (19_link.md R347, R355, R356, R365). -/

namespace Sys2Proof.Machine

/-! ### FENCEP -/

/-- The FENCEP that a warp has fetched. -/
def Warp.fencePOf (w : Warp) : Option FenceP :=
  match w.ir with
  | none => none
  | some f => match decode f.w0 f.ext with
    | .fencep i => some i
    | _ => none

/-- Whether an access of the executing warp on a path of ESET has not performed yet (R375). -/
def State.fencepOpen (s : State) (e : BitVec 4) : Bool :=
  let remote := fun (p : Nat) => s.remotes.any (fun r => r.warp == s.cur && r.ctx == s.w.ctx && r.path == p)
  let held := fun (p : Nat) => s.w.deferred.any (fun d => d.path == p)
  (e.getLsbD 0 && (s.w.loadAway || remote 0 || held 0)) ||
  (e.getLsbD 1 && (s.bandBusy || held 1)) ||
  (e.getLsbD 2 && (remote 2 || s.claimedCopies || !(s.myCore.copyIds (slotOf s.cur)).isEmpty)) ||
  (e.getLsbD 3 && (remote 3 || s.w.fabricAway || held 3))

/-- The wait of a FENCEP, which the executing warp has already passed in PC. Between the accesses of path V alone it then orders as
FENCE does. What is acknowledged while its context is saved leaves
`remotes`, which stands for the record of R376 (log entry 75). -/
def State.fencepWait (s : State) (i : FenceP) : State :=
  if s.fencepOpen i.eset then s.park 23
  else
    let t := s.acquire (acqReach i.ord i.scope)
    (if i.eset = 1 ∧ i.lset = 1 then t.fenced i.ord else t).upd (fun w => w.finish i.h.sw)

/-- FENCEP (R375). -/
def execFencep (i : FenceP) (s : State) : Host.Outcome State Fault Refusal :=
  if s.w.any i.h then .next ((s.upd (fun w => { w with pc := w.pc + 8, done := 0 })).fencepWait i)
  else .next (s.retire 8 i.h.sw)

/-! ### Full/empty timeout (R179) -/

/-- Address that the executing warp's fetched full/empty instruction forms for a lane. -/
def Warp.feEa (w : Warp) (lane : Nat) : DWord :=
  match w.ir with
  | none => 0
  | some f => match decode f.w0 f.ext with
    | .ldfe i => w.ea i.m lane
    | .ldff i => w.ea i.m lane
    | .stef i => w.ea i.m lane
    | _ => 0

/-- FE_TIMEOUT_EXPIRY of warp `i`: its wait at a full/empty word has lasted FE_TIMEOUT microseconds (R179). -/
def execFeTimeoutExpiry (i : Nat) (s : State) : Host.Outcome State Fault Refusal :=
  let w := s.warp i
  if w.stat = .parked ∧ (s.ctx w.ctx).state = .running ∧ w.reason = 5 ∧ w.limit ≠ 0 ∧ w.limit.toNat * 64000 ≤ w.elapsed s.ft then
    .next (s.at i (fun s =>
      let s := s.refetch 0
      let w := s.w
      s.enter 0x188 w.waiting w.done (w.feEa ((lowLane w.waiting).getD 0))))
  else .next s

/-! ### Fault records and their answers (R166, R134) -/

/-- FAULT_RECORD_ENQUEUE: the oldest record held at a die enters the queue, once it has room (R166). -/
def execFaultRecordEnqueue (s : State) : Host.Outcome State Fault Refusal :=
  match s.faultHeld with
  | [] => .next s
  | r :: rs => if s.faultQ.length < 4096 then .next { s with faultQ := s.faultQ ++ [r], faultHeld := rs } else .next s

/-- Whether two records are those of one warp. -/
def FaultRec.sameWarp (a b : FaultRec) : Bool :=
  a.ctx == b.ctx && a.core == b.core && a.slot == b.slot && a.acc != 4 && b.acc != 4

/-- A stalled copy's record is answered: with no cause it performs its part again, else it ends with the cause (R268). In a
save area FLAGS shows that it is stalled no more. -/
def State.copyAnswer (s : State) (r : FaultRec) (code : Cause) : State :=
  let fix := fun (x : Port) =>
    if x.prog.stalled = some r.id then { x with prog := { x.prog with stalled := none, code := code } } else x
  if s.savedOn r.ctx r.core then
    let hit := s.keptPorts.filter (fun k => k.ctx == r.ctx && k.core == r.core && k.what.prog.stalled == some r.id)
    let s := hit.foldl (fun s k =>
      let a := s.recAddr r.ctx r.core + 0x11CC80 + 0x40 * (k.port - 4) + 62
      s.setByte a (s.byte a &&& ~~~(4 : Byte))) s
    { s with keptPorts := s.keptPorts.map (fun k =>
        if k.ctx = r.ctx ∧ k.core = r.core then { k with what := fix k.what } else k) }
  else [4, 5].foldl (fun s p =>
    let t := s.setPort r.core p (fix (s.port r.core p))
    match t.running r.core p with
    | some (c, q) => t.copyRest r.core p c q
    | none => t) s

/-- Warp `k`, whose last record is resolved, reissues its instruction: at once, or on the resume of a Stopped context. -/
def State.reissueWarp (s : State) (k : Nat) : State :=
  let w := s.warp k
  if w.stat ≠ .replayable then s
  else
    let s := s.count (coreOf k) (s.team w.team).tenant 7 1
    if (s.ctx w.ctx).state = .stopped then s.setWarp k { w with records := [], stat := .halted, reason := 0, replay := true }
    else s.setWarp k { w with records := [], stat := .ready, reason := 0 }

/-- A warp's record is resolved (R134, R338, R344). -/
def State.warpResolved (s : State) (r : FaultRec) : State :=
  let k := r.core * 16 + r.slot
  if s.savedOn r.ctx r.core then
    if s.slotSaved r.ctx k ∧ s.savedStat r.ctx k % 8 = 3 ∧ s.faultOpen.all (fun x => !x.sameWarp r) = true then
      (s.putNum (s.wcbAddr r.ctx k + 0x18) 4 (s.savedStat r.ctx k - 2)).countImage r.ctx r.core 7
    else s
  else
    let w := s.warp k
    if w.ctx ≠ r.ctx ∨ w.records.contains r.id = false then s
    else if w.records.erase r.id = [] then s.reissueWarp k
    else s.setWarp k { w with records := w.records.erase r.id }

/-- The map with which a warp enters trap mode when the host answers `r` as unresolvable (R166). -/
def FaultRec.mapOf (r : FaultRec) (w : Warp) (now : DWord) : TrapMap :=
  { w.trap with cause := r.cause, ft := now, flm := if w.trapMode then r.lanes else w.trap.flm }

/-- A saved warp enters trap mode in its image (R338). Without a handler it halts there, and the header says Stopped. -/
def State.imageTrap (s : State) (r : FaultRec) (k : Nat) : State :=
  let c := r.ctx
  let a := s.wcbAddr c k
  let n := (s.imageTeam c (coreOf k) (slotOf k)).getD 0
  let lrec := s.dword (s.teamEntry c (coreOf k) n + 16)
  let w := { s.imageWarp c k with team := k, stat := .ready }
  let t := (((s.setWarp k w).setTeam k { lrec := lrec, ctx := c }).at k (fun s =>
    s.enterMap r.cause (r.mapOf w s.now)))
  let v := t.warp k
  let u := { t with warps := s.warps, teams := s.teams, cores := s.cores, ctxs := s.ctxs, mem := s.mem }
  let u := u.putBlock a (v.block.filter (fun f => f.1 < 0x80))
  if v.stat = .halted then u.putNum (u.areaOf c) 8 (u.num (u.areaOf c) 8 ||| 2 ^ 33) else u

/-- A live warp enters trap mode with the cause of a record; in a Stopped context it stays halted (R344). -/
def State.liveTrap (s : State) (r : FaultRec) (k : Nat) : State :=
  let w := s.warp k
  let stopped := (s.ctx w.ctx).state == .stopped
  let t := s.at k (fun s => s.enterMap r.cause (r.mapOf w s.now))
  if stopped then t.setWarp k { t.warp k with stat := .halted, reason := 0 } else t

/-- A warp's record is unresolvable (R134, R166, R338, R344). Its other records await no answer any more. -/
def State.warpFailed (s : State) (r : FaultRec) : State :=
  let k := r.core * 16 + r.slot
  let drop := fun (s : State) => { s with faultOpen := s.faultOpen.filter (fun x => !x.sameWarp r) }
  if s.savedOn r.ctx r.core then
    if s.slotSaved r.ctx k ∧ s.savedStat r.ctx k % 8 = 3 then drop (s.imageTrap r k) else s
  else
    let w := s.warp k
    if w.ctx ≠ r.ctx ∨ w.records.contains r.id = false ∨ w.stat ≠ .replayable then s else drop (s.liveTrap r k)

/-- The host's answer to a record: `f` for a warp's, with cause `code` for a copy's. -/
def State.answer (s : State) (id : Nat) (code : FaultRec → Cause) (f : State → FaultRec → State) : State :=
  match s.faultOpen.find? (fun r => r.id == id) with
  | none => s
  | some r =>
    let t := { s with faultOpen := s.faultOpen.filter (fun r => r.id != id) }
    if r.acc = 4 then t.copyAnswer r (code r) else f t r

/-- FAULT_RESOLVED (R134, R268). -/
def execFaultResolved (i : FaultRef) (s : State) : Host.Outcome State Fault Refusal :=
  .next (s.answer i.id (fun _ => 0) State.warpResolved)
/-- FAULT_UNRESOLVABLE (R134, R268). -/
def execFaultUnresolvable (i : FaultRef) (s : State) : Host.Outcome State Fault Refusal :=
  .next (s.answer i.id (fun r => r.cause) State.warpFailed)

/-! ### Results that return (R138, R139) -/

/-- Lanes of result `id` have returned. -/
def Warp.returned (w : Warp) (id : Nat) (m : Mask) : Warp :=
  let ps := w.pending.map (fun (p : Pending) => if p.id = id then { p with lanes := p.lanes &&& ~~~m } else p)
  { w with pending := ps.filter (fun p => p.lanes != 0) }

/-- The byte at a place among those that have come. -/
def byteAt (bs : List (Nat × Byte)) (n : Nat) : Option Byte := (bs.find? (fun e => e.1 == n)).map (·.2)
/-- `n` bytes from a place on, if all have come. -/
def bytesAt (bs : List (Nat × Byte)) (a n : Nat) : Option (List Byte) :=
  (List.range n).foldr (fun i r => match byteAt bs (a + i), r with
    | some b, some l => some (b :: l)
    | _, _ => none) (some [])

/-- Lanes of a remote load whose bytes have come write their registers (R329). -/
def Warp.loaded (w : Warp) (p : Pending) (d : Nat) (sz : Size) (sx : Bool) (m : Mask) (got : List (Nat × Byte)) : Warp :=
  (lanesOf m).foldl (fun w i => match bytesAt got (i * 16) sz.bytes with
    | none => w
    | some b => (w.setMany (loadWrites (BitVec.ofNat 8 d) sz sx i b)).returned p.id (laneBit i)) w

/-- Lanes of a remote ATOMR whose old values have come. -/
def Warp.atomicBack (w : Warp) (p : Pending) (d : Nat) (wide : Bool) (m : Mask) (got : List (Nat × Byte)) : Warp :=
  (lanesOf m).foldl (fun w i => match bytesAt got (i * 16) (if wide then 8 else 4) with
    | none => w
    | some b => (w.setMany (oldWrites (some (BitVec.ofNat 8 d)) wide i (natLE b))).returned p.id (laneBit i)) w

/-- An operation on warp `k` that may leave it Ready, which a halted warp does not become (R344). -/
def State.atHeld (s : State) (k : Nat) (f : State → State) : State :=
  let halted := (s.warp k).stat == .halted
  let t := s.at k f
  if halted then t.setWarp k { t.warp k with stat := .halted, reason := 0 } else t

/-- Bytes that an access of warp `k` has read on other packages become copies of its die where they may, each lane's by themselves, and
renew those that there are; when a store or an acquire has come between, or a store to their line is under way, the copies of their
lines are dropped instead (R174, R191, R370). -/
def State.fillFrom (s : State) (k : Nat) (asks : List Ask) (epoch : Nat) (got : List (Nat × Byte)) : State :=
  let die := dieOf (coreOf k)
  let first := (s.die die).fills
  let back := asks.filterMap (fun a => (byteAt got a.place).map (fun b => (a, b)))
  let t := back.foldl (fun s x =>
    let a := x.1
    let d := { s.die die with fills := first + a.place / 16 }
    if d.epoch = epoch ∧ s.lineOpen die a.peer (a.addr / 128) = false then
      s.setDie die (if a.copy then d.fillCopy (s.warp k).ctx a.peer [(a.addr, x.2)] else d.patchCopy a.peer [(a.addr, x.2)])
    else s.setDie die { d.dropLine a.peer (a.addr / 128) with epoch := d.epoch }) s
  t.setDie die { t.die die with fills := first + 64 }

/-- What returns to warp `k` for its result `p`: lanes `m` (all lanes at once where scalars return), with bytes. -/
def State.giveBack (s : State) (k : Nat) (p : Pending) (m : Mask) (bytes : List (Nat × Byte)) : State :=
  let w := s.warp k
  match p.kind with
  | .value v sc =>
    let m := if sc = [] then m else if m = 0 then 0 else p.lanes
    let w := w.setMany (v.filter (fun e => m.getLsbD (e.1 % 32)))
    let w := if m = 0 then w else sc.foldl (fun w e => w.setS e.1 e.2) w
    s.setWarp k (w.returned p.id m)
  | .remote d sz sx w0 eas got own asks epoch tag =>
    let new := bytes.filter (fun e => m.getLsbD (e.1 / 16))
    let got := got ++ new
    let keep : PendKind := .remote d sz sx w0 eas got own asks epoch tag
    let w : Warp := { w with pending := w.pending.map (fun (q : Pending) => if q.id = p.id then { q with kind := keep } else q) }
    let w := w.loaded p d sz sx m got
    ((s.setWarp k w).fillFrom k asks epoch new).backAt k
  | .fill d _ ea got asks epoch _ =>
    match bytesAt (got ++ bytes) 0 132 with
    | none => s
    | some b =>
      let s := (s.setWarp k (w.returned p.id fullMask)).fillFrom k asks epoch bytes
      match fillValues b with
      | none => s.atHeld k (fun s => s.precise 0x084 fullMask ea)
      | some v =>
        let w := s.warp k
        let v : Pending := ⟨p.id, fullMask, .value (fillWrites d v) []⟩
        (s.setWarp k (Warp.wake { w with pending := w.pending ++ [v], done := fullMask })).backAt k
  | .hrec d _ asks epoch _ =>
    match bytesAt bytes 0 32 with
    | none => s
    | some b =>
      let w : Warp := w.returned p.id fullMask
      ((s.setWarp k (Warp.wake { w with
        hregs := Tab.set 0 w.hregs d (layBuild (BitVec.ofNat 256 (natLE b))), done := fullMask })).fillFrom k
        asks epoch bytes).backAt k
  | .entry n asks epoch _ =>
    match bytesAt bytes 0 32 with
    | none => s
    | some b =>
      let w : Warp := w.returned p.id fullMask
      ((s.setWarp k (Warp.wake { w with entries := Tab.set [] w.entries n b })).fillFrom k asks epoch bytes).backAt k
  | .atomr d wide _ => (s.setWarp k (w.atomicBack p d wide m bytes)).backAt k
  | .copy .. => s
  | .accrd _ => s
  | .ldred .. => s
  | .stmc _ => s
  | .held => s

/-- LOAD_RESPONSE: part of a long result returns (R138, R139, R329). -/
def execLoadResponse (i : LoadResponse) (s : State) : Host.Outcome State Fault Refusal :=
  match (s.warp i.warp).pending.find? (fun p => p.id == i.id) with
  | none => .next s
  | some p => .next (s.giveBack i.warp p (i.lanes &&& p.lanes) i.bytes)

/-! ### Ports, generations and streams -/

/-- Port `p`. -/
def State.link (s : State) (p : Nat) : Link := Tab.get {} s.links p
/-- See `State.link`. -/
def State.setLink (s : State) (p : Nat) (l : Link) : State := { s with links := Tab.set {} s.links p l }
/-- A packet dropped or refused for its generation is counted (R337, R352). -/
def State.genDrop (s : State) (p : Nat) : State := s.setLink p { s.link p with gendrop := (s.link p).gendrop + 1 }
/-- GEN of a context's descriptor: as its last restore read it while the context is on the package (R326). -/
def State.genNow (s : State) (c : CtxId) : BitVec 16 :=
  match (s.ctx c).state with
  | .running | .stopped | .saving => (s.ctx c).gen
  | .free | .idle | .saved | .discarding | .restoring => BitVec.ofNat 16 (s.num (s.descAddr c + 24) 2)
/-- The number of the fabric die of a port (R346). -/
def fabricDie (p : Nat) : Nat := if p < 6 then 0 else 1
/-- A packet back to the sender of one. -/
def State.reply (s : State) (dst : Peer) (c : CtxId) (g : BitVec 16) (tag : Nat) (body : PacketBody) : State :=
  { s with out := s.out ++ [⟨dst, c, g, none, false, tag, body, none⟩] }

/-- Ingress state of a stream. -/
def State.streamAt (s : State) (k : Nat) : Stream := Tab.get {} s.streams k
/-- See `State.streamAt`. -/
def State.setStream (s : State) (k : Nat) (x : Stream) : State := { s with streams := Tab.set {} s.streams k x }

/-- The lowest number not applied rises past those applied. -/
def Stream.rise : Nat → Stream → Stream
  | 0, x => x
  | n + 1, x => if x.applied.contains x.next then
      Stream.rise n { x with next := x.next + 1, applied := x.applied.erase x.next } else x
/-- Store `n` is applied. -/
def Stream.mark (x : Stream) (n : Nat) : Stream :=
  Stream.rise (x.applied.length + 1) { x with applied := n :: x.applied }
/-- Whether store `n` has come before: its second arrival is discarded (R347). -/
def Stream.seen (x : Stream) (n : Nat) : Bool :=
  decide (n < x.next) || x.applied.contains n || x.waiting.any (fun w => w.stream == n)

/-! ### What a numbered store does -/

/-- A remote store is applied at its home and acknowledged (R355, R368). -/
def State.applyAccess (s : State) (r : RemoteAccess) : State :=
  let s := (linesOf r.store).foldl (fun s l => s.endLeases (l * 128) 128) s
  let s := r.store.foldl (fun s e => s.touch r.ctx e.1 1) s
  (s.writeCells r.store).reply r.src r.ctx r.gen r.tag .ack

/-- A remote atomic performs in the ingress cache of its port under a lease, or with LEASE 0 at the slice (R356). -/
def State.applyAtomic (s : State) (r : RemoteAtomic) : State :=
  let n := if r.wide then 8 else 4
  let old := s.num r.addr n
  let lease := field (s.reg 0x9400) 0 16
  let s := (s.touch r.ctx r.addr n).setBytes r.addr (bytesLE n (aopNew r.aop (8 * n) old r.a.toNat r.b.toNat))
  let s := s.endLeases r.addr n
  let s := if lease = 0 then s
    else { s with leases := s.leases ++ [⟨r.addr / 128, r.port, s.ft + BitVec.ofNat 64 (lease * 1024)⟩] }
  s.reply r.src r.ctx r.gen r.tag (.data (bytesLE n old))

/-- The group of a delivery or request matches at this member (R364). -/
def State.groupMatches (s : State) (c : CtxId) (g : BitVec 8) (gid : BitVec 16) : Bool :=
  let x := Tab.get ({} : Group) (s.ctx c).groups g.toNat
  x.valid && x.gid == gid

/-- The translation of a member's access for a collective; a fabric die is no compute die. A page on another package is
refused. -/
def State.memberTrans (s : State) (c : CtxId) (want : Want) (i : Nat) (ea : DWord) : Option Trans :=
  match s.translate c 4 want i ea with
  | .error _ => none
  | .ok t => if t.vers || s.away t then none else some t

/-- A refused delivery: one record of KIND 6, and the refusal to the issuer (R365). -/
def State.refuseMcast (s : State) (d : StMcDelivery) (code : Cause) (lanes : Mask) : State :=
  let va := (((lanesOf d.lanes).zip d.eas).find? (fun e => lanes.getLsbD e.1)).elim 0 (·.2)
  s.fault { id := 0, va := va, cause := code, kind := 6, acc := 1, ctx := d.ctx, gen := d.gen,
            core := 0xC000 + fabricDie d.port, slot := 0, lanes := lanes, ft := s.now }

/-- A multicast store at this member: the bytes of each lane that its translation admits (R365). -/
def State.applyMcast (s : State) (d : StMcDelivery) : State :=
  let old := d.gen != s.genNow d.ctx
  let s := if old then s.genDrop d.port else s
  if old || !s.groupMatches d.ctx d.group d.gid then
    (s.refuseMcast d 0x286 d.lanes).reply d.src d.ctx d.gen d.tag .refusal
  else
    let ls := ((lanesOf d.lanes).zip d.eas).zip d.data
    let r := ls.foldl (fun (x : State × Mask) l => match x.1.memberTrans d.ctx wantW l.1.1 l.1.2 with
      | none => (x.1, x.2 ||| laneBit l.1.1)
      | some t =>
        let a := t.addr l.1.2
        (((x.1.use d.ctx 4 l.1.2 l.2.length t).endLeases a l.2.length).setBytes a l.2, x.2)) (s, 0)
    if r.2 = 0 then r.1.reply d.src d.ctx d.gen d.tag .ack
    else (r.1.refuseMcast d 0x285 r.2).reply d.src d.ctx d.gen d.tag .refusal

/-- A numbered store is applied. -/
def State.applyStore (s : State) (x : Arrived) : State :=
  match x with
  | .store r => s.applyAccess r
  | .atomic r => s.applyAtomic r
  | .mcast d => s.applyMcast d

/-- Ordered stores of a stream whose lower-numbered stores have all been applied are applied (R355). -/
def State.drainStream (s : State) (k : Nat) : Nat → State
  | 0 => s
  | n + 1 =>
    let x := s.streamAt k
    match x.waiting.find? (fun w => w.stream == x.next) with
    | none => s
    | some w =>
      let x := { x with waiting := x.waiting.filter (fun v => v.stream != w.stream) }
      State.drainStream ((s.setStream k (x.mark w.stream)).applyStore w.what) k n

/-- Store `n` of stream `k` arrives: a duplicate is discarded, an ordered one waits for lower numbers, any other is applied
(R347, R355). -/
def State.ingress (s : State) (k n : Nat) (ordered : Bool) (what : Arrived) : State :=
  let x := s.streamAt k
  if x.seen n then s
  else if ordered && x.next != n then s.setStream k { x with waiting := x.waiting ++ [⟨n, what⟩] }
  else
    let t := (s.setStream k (x.mark n)).applyStore what
    t.drainStream k (x.waiting.length + 1)

/-- Store `n` of stream `k` is dropped for its generation: it orders nothing, so the stores behind it wait no longer for it (R371). -/
def State.ingressDrop (s : State) (port k n : Nat) : State :=
  let s := s.genDrop port
  let x := s.streamAt k
  if x.seen n then s else (s.setStream k (x.mark n)).drainStream k (x.waiting.length + 1)

/-- REMOTE_ACCESS_INGRESS: a remote store, or a remote load that carries no stream number (R355). One whose generation is
not that of its context's descriptor is dropped (R337); one beyond the package's memory does not come. -/
def execRemoteAccessIngress (i : RemoteAccess) (s : State) : Host.Outcome State Fault Refusal :=
  if i.gen ≠ s.genNow i.ctx then .next (match i.stream with
    | none => s.genDrop i.port
    | some n => s.ingressDrop i.port (streamKey i.src i.ctx i.gen) n)
  else if i.store.any (fun e => decide (memTop ≤ e.1)) || i.loads.any (fun a => decide (memTop ≤ a)) then .next s
  else match i.stream with
    | none =>
      let t := i.loads.foldl (fun (s : State) a => (s.endLeases a 1).touch i.ctx a 1) s
      .next (t.reply i.src i.ctx i.gen i.tag (.data (i.loads.map (fun a => t.byte a))))
    | some n => .next (s.ingress (streamKey i.src i.ctx i.gen) n i.ordered (.store i))

/-- REMOTE_ATOMIC_INGRESS (R356). -/
def execRemoteAtomicIngress (i : RemoteAtomic) (s : State) : Host.Outcome State Fault Refusal :=
  if i.gen ≠ s.genNow i.ctx then .next (s.ingressDrop i.port (streamKey i.src i.ctx i.gen) i.stream)
  else if memTop < i.addr + 8 then .next s
  else .next (s.ingress (streamKey i.src i.ctx i.gen) i.stream i.ordered (.atomic i))

/-- Whether a delivery is an ordered store: a release, or to a strongly ordered page of this member (R355). One of another generation
orders nothing (R371). -/
def State.mcastOrdered (s : State) (d : StMcDelivery) : Bool :=
  d.gen == s.genNow d.ctx && (d.ordered || ((lanesOf d.lanes).zip d.eas).any (fun e =>
    match s.memberTrans d.ctx wantW e.1 e.2 with
    | some t => t.okind == 0
    | none => false))
/-- STMC_DELIVERY (R365). -/
def execStmcDelivery (i : StMcDelivery) (s : State) : Host.Outcome State Fault Refusal :=
  .next (s.ingress (streamKey i.src i.ctx i.gen) i.stream (s.mcastOrdered i) (.mcast i))

/-- LEASE_EXPIRY of line `i` (R356). -/
def execLeaseExpiry (i : Nat) (s : State) : Host.Outcome State Fault Refusal :=
  .next { s with leases := s.leases.filter (fun l => l.line != i || decide (s.ft.toNat < l.till.toNat)) }

/-! ### Copy parts in the fabric (R273, R338, R414) -/

/-- The live cohort of a saved team, if other teams of it stand on their cores: it has kept its grove barriers (R211; log entry 99). -/
def State.liveCohort (s : State) (c : CtxId) (core n : Nat) : Option Nat :=
  let e := s.teamEntry c core n
  (s.cohorts.find? (fun x => x.2.used && x.2.ctx == c && x.2.grove == groveOf core && x.2.index == s.dword (e + 24) &&
    (s.launchAt c (s.dword (e + 16))).any (fun l => l.id == x.2.launch))).map (·.1)

/-- Bytes leave the count of a barrier in an image; a flip is made there, and a watched transition is reported at the
restore; also whether the count saturated (R205, R211, R338, R210). -/
def State.imageSub (s : State) (c : CtxId) (team slot b n : Nat) : State × Bool :=
  let core := coreOf team
  match (if b < 16 then none else s.liveCohort c core (slotOf team)), s.imageBar c core (slotOf team) b with
  | some id, _ =>
    let x := s.cohort id
    let r := (Tab.get ({} : Barrier) x.bars (b - 16)).subtract n
    let t := s.setCohort id { x with bars := Tab.set {} x.bars (b - 16) r.1.o }
    (if r.1.fires && !s.revoking c then { t with barHits := t.barHits ++ [(c, core, slot)] } else t, r.2)
  | none, none => (s, false)
  | none, some a =>
    let r := (Barrier.ofImage (s.num a 16)).subtract n
    let t := s.putNum a 16 r.1.o.image
    (if r.1.fires && !s.revoking c then { t with barHits := t.barHits ++ [(c, core, slot)] } else t, r.2)

/-- Whether the core still holds what a copy part of a context addresses. -/
def State.partLive (s : State) (l : LateCopy) : Bool :=
  !s.savedOn l.ctx l.core && (s.team l.team).used && (s.team l.team).ctx == l.ctx

/-- A subtraction for a copy that still executes has saturated its barrier's count: its status will say so (R205, R267). -/
def Port.overflow (x : Port) (cmd : Nat) : Port :=
  if x.exec.any (fun c => c.id == cmd) then { x with prog := { x.prog with ovf := true } } else x
/-- See `Port.overflow`, for the live and the saved ports of a part's core. -/
def State.partOverflow (s : State) (l : LateCopy) : State :=
  let t := [4, 5].foldl (fun s p => s.setPort l.core p ((s.port l.core p).overflow l.cmd)) s
  { t with keptPorts := t.keptPorts.map (fun k =>
      if k.ctx = l.ctx ∧ k.core = l.core then { k with what := k.what.overflow l.cmd } else k) }

/-- A copy part has arrived whole, with the bytes of a read: in the live core, or in the image (R338). -/
def State.partArrives (s : State) (l : LateCopy) (bytes : List Byte) : State :=
  let s := { s with lateCopies := s.lateCopies.filter (fun x => x.tag != l.tag) }
  let ws := l.dests.zip bytes
  if s.partLive l then
    let t := s.setCore l.core ((s.core l.core).setSram l.ob ws)
    match l.bar with
    | some b =>
      let r := t.txSub l.team l.slot b.toNat l.n
      if r.2 then r.1.partOverflow l else r.1
    | none => t
  else if s.savedOn l.ctx l.core && s.headerValid l.ctx then
    let a := s.recAddr l.ctx l.core + if l.ob then 0x10C000 else 0x88000
    let t := s.writeCells (ws.map (fun w => (a + w.1, w.2)))
    let t := match l.bar with
      | some b =>
        let r := t.imageSub l.ctx l.team l.slot b.toNat l.n
        if r.2 then r.1.partOverflow l else r.1
      | none => t
    t.countLate l.ctx
  else s

/-- The response to a request of the launch sequencer: bytes of a launch record (R311). -/
def Launch.data (l : Launch) (tag : Nat) (bytes : List Byte) : Launch :=
  match l.asked.find? (fun a => a.1 == tag) with
  | none => l
  | some a => if bytes.length ≠ a.2.length then l
    else { l with got := l.got ++ a.2.zip bytes, asked := l.asked.filter (fun a => a.1 != tag) }

/-- The response to a late part's read requests; one of another generation is dropped (R337). -/
def State.copyData (s : State) (port tag : Nat) (bytes : List Byte) : State :=
  match s.lateCopies.find? (fun l => l.tag == tag && l.dests != []) with
  | none => { s with launches := s.launches.map (fun l => l.data tag bytes) }
  | some l =>
    if l.gen ≠ s.genNow l.ctx then
      { s with lateCopies := s.lateCopies.filter (fun x => x.tag != tag) }.genDrop port
    else if bytes.length ≠ l.dests.length then s
    else s.partArrives l bytes

/-- COPY_READ_RESPONSE (R273): the bytes of the remote elements of a part, in ascending L. -/
def execCopyReadResponse (i : CopyData) (s : State) : Host.Outcome State Fault Refusal :=
  match s.portOfTag i.tag with
  | none => .next (s.copyData i.port i.tag i.bytes)
  | some (core, port) => match s.running core port, (s.port core port).prog.remote with
    | some (c, q), some r =>
      if i.bytes.length ≠ r.dests.length then .next s
      else
        let t := s.setCore core ((s.core core).setSram (q.dir == .g2o) (r.dests.zip i.bytes))
        let t := if r.strong then t.dropCopies (t.team c.team).ctx (dieOf core) true else t
        .next (t.partDone core port c q r.elems)
    | _, _ => .next s

/-- An outstanding STMC without the delivery of a tag; none when it was the last (R365). -/
def Pending.delivered (tag : Nat) (p : Pending) : Option Pending :=
  match p.kind with
  | .stmc tags =>
    let rest := tags.filter (fun t => t != tag)
    if rest = [] then none else some { p with kind := .stmc rest }
  | _ => some p

/-- A delivery of an STMC is finished. -/
def State.delivered (s : State) (tag : Nat) : State :=
  { s with
    warps := Tab.map (fun _ (w : Warp) => { w with pending := w.pending.filterMap (Pending.delivered tag) }) s.warps
    lateRes := s.lateRes.filterMap (fun e => (e.pend.delivered tag).map (fun p => { e with pend := p })) }

/-- The lane of a PROMOTE that an answer confirms is done (R200). -/
def Warp.confirmed (w : Warp) (tag : Nat) : Warp :=
  let hit := w.promotes.filter (fun e => e.1 == tag)
  { w with promotes := w.promotes.filter (fun e => e.1 != tag), done := hit.foldl (fun m e => m ||| laneBit e.2) w.done }
/-- The warp that stands for the launch sequencer among remote accesses; no core has it. -/
def seqWarp : Nat := 4096
/-- An acknowledged access of a warp has performed: the dies' copies are what it leaves them, its PROMOTE is confirmed, and its
outstanding acquires take place (R191, R200, R370). -/
def State.performed (s : State) (r : RemoteOp) : State :=
  if r.warp = seqWarp then s
  else
  let s := s.storeDone (dieOf (coreOf r.warp)) r.path r.peer r.line
  let w := s.warp r.warp
  if w.ctx ≠ r.ctx ∨ w.stat = .free then s
  else (s.setWarp r.warp (w.confirmed r.tag)).backAt r.warp

/-- The answer to an access that a save or a discard has given up: it is discarded, and one of another generation counted (R329, R337). -/
def State.orphan (s : State) (port tag : Nat) : State :=
  match s.cutOff.find? (fun e => e.1 == tag) with
  | none => s
  | some e =>
    let t := { s with cutOff := s.cutOff.filter (fun x => x.1 != tag) }
    if e.2.2 ≠ s.genNow e.2.1 then t.genDrop port else t

/-- An acknowledgement that came in at a port: the access has performed (R368). The last one of a copy part takes the part's bytes
from its barrier (R414). One of another generation is dropped, and counted (R337). -/
def State.acked (s : State) (port tag : Nat) : State :=
  match s.remotes.find? (fun r => r.tag == tag) with
  | none => s.orphan port tag
  | some r =>
    let stale := r.gen != s.genNow r.ctx
    let t := { s with remotes := s.remotes.filter (fun x => x.tag != tag) }.delivered tag
    let t := if stale then t.genDrop port else t.performed r
    match r.copy with
    | none => t
    | some part =>
      if t.remotes.any (fun x => x.copy == some part) then t
      else match t.lateCopies.find? (fun l => l.tag == part && l.dests == []) with
        | none => t
        | some l =>
          if stale then { t with lateCopies := t.lateCopies.filter (fun x => x.tag != part) } else t.partArrives l []

/-- REMOTE_ACK (R368, R414). -/
def execRemoteAck (i : RemoteAck) (s : State) : Host.Outcome State Fault Refusal := .next (s.acked i.port i.tag)

end Sys2Proof.Machine
end

