-- ==== Sys2Proof/Machine/Collective.lean ====
section
/-! DEFINITION. Address groups and the collective instructions AGQ, LDRED and STMC (19_link.md R357 to R366). -/

namespace Sys2Proof.Machine

/-! ### Groups and presence (R357) -/

/-- Whether a port carries packets: Up, Degraded or Replaying (R357). -/
def Link.on (l : Link) : Bool := decide (4 ≤ l.state) && decide (l.state ≤ 6)
/-- Whether some path reaches a peer: none is needed to itself, a neighbour's link, or a chain that goes on from one. -/
def State.present (s : State) (p : Peer) : Bool :=
  p == s.peer || s.links.any (fun e => e.2.on && e.2.peer == p) || (s.links.any (fun e => e.2.on) && s.far.contains p)
/-- Group `g` as the last restore of a context read it. -/
def State.group (s : State) (c : CtxId) (g : BitVec 8) : Group := Tab.get {} (s.ctx c).groups g.toNat
/-- Whether the peers of a list are distinct. -/
def distinct : List Peer → Bool
  | [] => true
  | p :: ps => !ps.contains p && distinct ps
/-- Whether a context's warps may use a group. -/
def State.usable (s : State) (x : Group) : Bool := x.valid && distinct x.peers && x.peers.all (fun p => s.clearing.contains p)
/-- Presence changes of members between two states are counted, mod 2^12 (R358). -/
def State.countChanges (s old : State) : State :=
  { s with ctxs := Tab.map (fun _ (c : Ctx) =>
      let n := fun (g : Group) => (g.peers.filter (fun p => old.present p != s.present p)).length
      if c.groups.any (fun e => n e.2 != 0) then
        { c with changes := c.groups.foldl (fun t e => Tab.set 0 t e.1 (Tab.get 0 t e.1 + BitVec.ofNat 12 (n e.2))) c.changes }
      else c) s.ctxs }

/-- The result of AGQ for group `g`: the summary, or rank `k` (R358). -/
def State.agqWord (s : State) (g : BitVec 8) (rank : Option (BitVec 12)) : DWord :=
  let x := s.group s.w.ctx g
  let n := x.peers.length
  if !s.usable x then 0
  else match rank with
    | none =>
      let lost := x.peers.find? (fun p => !s.present p)
      let own := x.peers.findIdx? (fun p => p == s.peer)
      BitVec.ofNat 64 (2 ^ 63 + bit01 lost.isNone * 2 ^ 62 + (lost.getD 0).toNat * 2 ^ 50 + own.getD 0x1FFF * 2 ^ 37 +
        (Tab.get 0 (s.ctx s.w.ctx).changes g.toNat).toNat * 2 ^ 12 + (n - 1))
    | some k => match x.peers[k.toNat]? with
      | none => 0
      | some p => BitVec.ofNat 64 (2 ^ 63 + bit01 (s.present p) * 2 ^ 62 + p.toNat * 2 ^ 50 + (n - 1))

/-- AGQ (R358). -/
def execAgq (i : Agq) (s : State) : Host.Outcome State Fault Refusal :=
  .next (s.upd (fun w => w.putS i.h i.d 12 (s.agqWord i.group i.rank)))

/-! ### The group word (R360 to R362) -/

/-- MODE 1: integer. -/
def gwInt (w : DWord) : Bool := w.getLsbD 8
/-- Bytes of an element: of the load itself in FP mode, else by ESZ. -/
def gwElem (w : DWord) (sz : Size) : Nat := if gwInt w then (if w.getLsbD 9 then 4 else 2) else sz.bytes
/-- Elements of a lane. -/
def gwCount (w : DWord) (sz : Size) : Nat := sz.bytes / gwElem w sz
/-- Lanes of a block. -/
def gwSpan (w : DWord) (sz : Size) : Nat := 8 * 2 ^ field w 10 3 / gwCount w sz
/-- SDIST. -/
def gwDist (w : DWord) : DWord := (w.extractLsb' 16 16).signExtend 64
/-- SIZE is legal (R361). -/
def gwSize (w : DWord) (sz : Size) : Bool :=
  if !gwInt w then sz == .b16 || sz == .b32
  else if w.getLsbD 9 then sz == .b32 || sz == .b64 || sz == .b128 else sz == .b16 || sz == .b32 || sz == .b64
/-- A group word, SIZE or destination that fits the mode; `d` is none for STMC (R362, cause 0x282). -/
def gwFits (w : DWord) (sz : Size) (d : Option RegNo) : Bool :=
  match d with
  | none => field w 9 55 = 0
  | some d =>
    gwSize w sz &&
    (if gwInt w then field w 32 32 = 0 ∧ field w 13 3 = 0 ∧ field w 10 3 ≤ 4 ∧ field w 16 2 = 0 ∧ gwSpan w sz ≤ 32 ∧
        d.toNat % gwCount w sz = 0
      else field w 9 55 = 0)
/-- The first lanes of the blocks of participating lanes, ascending. -/
def gwHeads (w : DWord) (sz : Size) (m : Mask) : List Nat :=
  if gwInt w then allLanes.filter (fun i => m.getLsbD i && i % gwSpan w sz == 0) else []
/-- Whether some block has lanes that participate and lanes that do not (R362, cause 0x283). -/
def gwPartly (w : DWord) (sz : Size) (m : Mask) : Bool :=
  gwInt w && allLanes.any (fun i => m.getLsbD i != m.getLsbD (i / gwSpan w sz * gwSpan w sz))

/-- The checks of R362 in order: cause, fault lanes, and whether ADDR is the address of the lowest of them. -/
def State.groupCause (s : State) (w : DWord) (sz : Size) (d : Option RegNo) (m : Mask) (ea : Nat → DWord) :
    Option (Cause × Mask × Bool) :=
  let x := s.group s.w.ctx (w.setWidth 8)
  let crooked := maskOf (fun i => m.getLsbD i && (ea i).toNat % sz.bytes != 0)
  let scales := if d.isNone then 0 else maskOf (fun i => (gwHeads w sz m).contains i && (ea i + gwDist w).toNat % 4 != 0)
  let outside := maskOf (fun i => m.getLsbD i && (ea i).extractLsb' 48 16 != 0)
  if !s.usable x then some (0x281, m, false)
  else if !gwFits w sz d then some (0x282, m, false)
  else if d.isSome && gwPartly w sz m then some (0x283, m, false)
  else if d.isNone && x.peers.any (fun p => !s.present p) then some (0x287, m, false)
  else if crooked ||| scales ≠ 0 then some (0x089, crooked ||| scales, true)
  else if outside ≠ 0 then some (0x0C2, outside, true)
  else none

/-! ### LDRED (R363, R364) -/

/-- LDREDs that the executing warp has outstanding. -/
def Warp.ldreds (w : Warp) : Nat :=
  (w.pending.filter (fun p => match p.kind with
    | .ldred .. => true
    | _ => false)).length

/-- An LDRED goes out: a request to every present member but this package, and the result becomes outstanding. -/
def State.ldredSend (s : State) (i : LdRed) (m : Mask) : State :=
  let word := s.w.s i.b.toNat
  let x := s.group s.w.ctx (word.setWidth 8)
  let tag := s.nextId
  let eas := (lanesOf m).foldl (fun t n => Tab.set 0 t n (s.w.ea i.m n)) []
  let t := s.addPending m (.ldred i.d.toNat i.size i.b.toNat word eas m tag)
  (x.peers.filter (fun p => p != s.peer && s.present p)).foldl (fun t p =>
    t.send p tag (.ldred x.gid word i.size m ((lanesOf m).map (fun n => s.w.ea i.m n)))) t

/-- LDREDs that the fabric die of compute die `die` has in its reduce contexts, for live and for saved warps: the fabric die that serves
two compute dies (R366; log entry 76). -/
def State.reduceUsed (s : State) (die : Nat) : Nat :=
  let mine := fun (k : Nat) => dieOf (coreOf k) / 2 == die / 2
  s.warps.foldl (fun n e => if mine e.1 then n + e.2.ldreds else n) 0 +
    (s.lateRes.filter (fun e => mine e.warp && (match e.pend.kind with
      | .ldred .. => true
      | _ => false))).length

/-- Whether an earlier store of the executing warp to a member is unacknowledged: the lines that an LDRED reads there are the
member's own (R369; log entry 69). -/
def State.membersHeld (s : State) (x : Group) : Bool := (s.openOps s.cur).any (fun r => x.peers.contains r.peer)

/-- The watch hits of an LDRED: its elements, and the scale words of its blocks (R390). -/
def State.ldredHits (s : State) (i : LdRed) (m : Mask) (word : DWord) (ea : Nat → DWord) : State :=
  let hit := maskOf (fun n => m.getLsbD n && (s.watched s.w.ctx true false (ea n) i.size.bytes ||
    ((gwHeads word i.size m).contains n && s.watched s.w.ctx true false (ea n + gwDist word) 4)))
  s.upd (fun w => { w with watch := holdHit w.watch hit ea })

/-- Whether some lane's address of a collective lies on a strongly ordered page by this package's tables, which stand for the members'
(R194, R197; log entry 69). -/
def State.groupStrong (s : State) (m : Mask) (ea : Nat → DWord) : Bool :=
  (lanesOf m).any (fun i => match s.lookup s.w.ctx s.myDie (i * 2) (ea i) with
    | .ok t => t.okind == 0
    | .error _ => false)

/-- LDRED of the executing warp. On a strongly ordered page it waits for the warp's earlier strong accesses and is an acquire. -/
def State.ldredIssue (s : State) (i : LdRed) : State :=
  let m := s.w.parts i.h
  let all := s.w.allParts i.h
  let ea := fun n => s.w.ea i.m n
  if m = 0 then s.complete all 16 i.h.sw
  else match s.groupCause (s.w.s i.b.toNat) i.size (some i.d) m ea with
    | some (c, flm, at_) => s.precise c flm (if at_ then (lowLane flm).elim 0 ea else s.noAddr)
    | none =>
      let word := s.w.s i.b.toNat
      if 16 ≤ s.w.ldreds then s.park 25
      else if 1024 ≤ s.reduceUsed s.myDie || s.membersHeld (s.group s.w.ctx (word.setWidth 8)) ||
          s.groupStrong m ea && s.strongHolds none then s.hold
      else
        let t := (s.ldredSend i m).ldredHits i m word ea
        let t := if i.acq || s.groupStrong m ea then
            (t.acquireOn 3 3).upd (fun w => { w with fence := { w.fence with xLoads := true } })
          else t
        t.complete all 16 i.h.sw

/-- LDRED (R363). -/
def execLdred (i : LdRed) (s : State) : Host.Outcome State Fault Refusal := s.memory 3 (fun s => s.ldredIssue i)

/-- `n` bytes at a member's address for lane `i`, if its tables let them be read, with the translation. -/
def State.memberRead (s : State) (c : CtxId) (i : Nat) (ea : DWord) (n : Nat) : Option (State × List Byte) :=
  if ea.toNat % 4096 + n ≤ 4096 then
    (s.memberTrans c wantR i ea).map (fun t =>
      let a := t.addr ea
      let u := (s.use c 4 ea n t).endLeases a n
      (u, u.bytes a n))
  else none

/-- Several reads of a member, in order; none if one is refused. -/
def State.memberReads (s : State) (c : CtxId) : List (Nat × DWord × Nat) → State × Option (List (List Byte))
  | [] => (s, some [])
  | (i, a, n) :: r => match s.memberRead c i a n with
    | none => (s, none)
    | some (u, b) =>
      let q := State.memberReads u c r
      (q.1, q.2.map (fun l => b :: l))

/-- Elements of `e` bytes in some bytes. -/
def elemsOf (e : Nat) (bs : List Byte) : List Word :=
  (List.range (bs.length / e)).map (fun k => BitVec.ofNat 32 (natLE ((bs.drop (e * k)).take e)))

/-- A raw element of the integer mode as a number. -/
def elemInt (word : DWord) (x : Word) : Int := if word.getLsbD 9 then x.toInt else (x.setWidth 16).toInt
/-- Checksum of a block's elements (R96). -/
def checksum (qs : List Int) : DWord :=
  qs.zipIdx.foldl (fun t e => t + BitVec.ofInt 64 ((2 * e.2 + 1 : Nat) * e.1)) 0

/-- This member's contribution to a reduction: elements in lane order, the scales and the checksums of the blocks (R96, R361, R363). A
refused access answers 0x285, a group that does not match 0x286 (R364). -/
def State.contribute (s : State) (c : CtxId) (word : DWord) (gid : BitVec 16) (sz : Size) (m : Mask) (ea : Nat → DWord)
    (stale : Bool) : State × Contribution :=
  if stale || !s.groupMatches c (word.setWidth 8) gid then (s, ⟨s.peer, 0x286, [], [], []⟩)
  else
    let lanes := (lanesOf m).map (fun i => (i, ea i, sz.bytes))
    let scales := (gwHeads word sz m).map (fun i => (i, ea i + gwDist word, 4))
    let r := s.memberReads c (lanes ++ scales)
    match r.2 with
    | none => (r.1, ⟨s.peer, 0x285, [], [], []⟩)
    | some bs =>
      let elems := (bs.take lanes.length).flatMap (elemsOf (gwElem word sz))
      let len := 8 * 2 ^ field word 10 3
      (r.1, ⟨s.peer, 0, elems, (bs.drop lanes.length).flatMap (elemsOf 4),
        (List.range scales.length).map (fun h => checksum (((elems.drop (h * len)).take len).map (elemInt word)))⟩)

/-- LDRED_CONTRIBUTION: a request of another member is answered (R363, R364, R337). -/
def execLdredContribution (i : LdRedRequest) (s : State) : Host.Outcome State Fault Refusal :=
  let stale := i.gen != s.genNow i.ctx
  let s := if stale then s.genDrop i.port else s
  let ea := fun n => (((lanesOf i.lanes).zip i.eas).find? (fun e => e.1 == n)).elim 0 (·.2)
  let r := s.contribute i.ctx i.word i.gid i.size i.lanes ea stale
  .next (r.1.reply i.src i.ctx i.gen i.tag (.contribution r.2))

/-! ### The reduction (R95, R96) -/

/-- A raw element of the FP mode converted to FP32. -/
def elemF32 (sz : Size) (x : Word) : Word := if sz = .b16 then x <<< 16 else x
/-- A binary32 code with the canonical NaN for any NaN (R80). -/
def canonF32 (x : Word) : Word := if f32.decode false x.toNat = .nan then BitVec.ofNat 32 f32.canonNaN else x
/-- A sum clamped once, and whether it was clamped. -/
def clamp32 (x : Int) : Int × Bool :=
  if x < -2147483648 then (-2147483648, true) else if 2147483647 < x then (2147483647, true) else (x, false)

/-- A block scale of a 32-bit word (R86). -/
def scaleOf (x : Word) : BitVec 24 := x.setWidth 24
/-- A member's part of one block: elements, scale, and checksum as the member has formed it. -/
structure BlockPart where
  elems : List Int
  scale : Word
  sum : DWord
/-- One block of contributions: the elements delivered, OVF and MISM (R96, R363). -/
def reduceBlock (cs : List BlockPart) (len : Nat) : List Int × Bool × Bool :=
  let s0 := (cs.head?).elim 0 (fun c => scaleOf c.scale)
  let sum := cs.foldl (fun t c => t + c.sum) 0
  if cs.any (fun c => scaleOf c.scale != s0) then (List.replicate len 0, true, sum != 0)
  else
    let sums := (List.range len).map (fun j => clamp32 (cs.foldl (fun t c => t + c.elems.getD j 0) 0))
    let res := sums.map (·.1)
    (res, sums.any (·.2), sum != checksum res)

/-- What the contributions of every rank come to: the words in lane order, and the low 32 bits of the status (R363, R364). -/
def reduceAll (word : DWord) (sz : Size) (m : Mask) (cs : List Contribution) : List Word × Nat :=
  if gwInt word then
    let len := 8 * 2 ^ field word 10 3
    let heads := gwHeads word sz m
    let blocks := heads.zipIdx.map (fun h =>
      (h.1 / gwSpan word sz, reduceBlock (cs.map (fun c =>
        ⟨((c.elems.drop (h.2 * len)).take len).map (elemInt word), c.scales.getD h.2 0, c.sums.getD h.2 0⟩)) len))
    (blocks.flatMap (fun b => b.2.1.map (BitVec.ofInt 32)),
     blocks.foldl (fun n b => n + bit01 b.2.2.1 * 2 ^ b.1 + bit01 b.2.2.2 * 2 ^ (16 + b.1)) 0)
  else
    ((List.range (popMask m)).map (fun k => canonF32 (treeSum (cs.map (fun c => elemF32 sz (c.elems.getD k 0))))), 0)

/-- The register writes of an LDRED: words in lane order, `e` for each lane of `m`, in the lanes of `em`. -/
def ldredWrites (d e : Nat) (m em : Mask) (ws : List Word) : List (Nat × Word) :=
  (lanesOf m).zipIdx.flatMap (fun l => if em.getLsbD l.1 then
    (List.range e).map (fun k => ((d + k) * 32 + l.1, ws.getD (l.2 * e + k) 0)) else [])

/-- The contributions for an outstanding LDRED have come to warp `k`: results and status, or the status alone (R364), are on their way to its
registers (R138). A member of which nothing has come is absent. -/
def State.ldredBack (s : State) (k : Nat) (p : Pending) (contribs : List Contribution) : State :=
  match p.kind with
  | .ldred d sz sreg word eas em _ =>
    let c := (s.warp k).ctx
    let x := s.group c (word.setWidth 8)
    let ea := fun n => Tab.get 0 eas n
    let own := s.contribute c word x.gid sz p.lanes ea false
    let s := if x.peers.contains s.peer then own.1 else s
    let all := x.peers.map (fun p => (p, if p = s.peer then some own.2
      else contribs.find? (fun y => y.member == p)))
    let bad := all.find? (fun e => match e.2 with
      | none => true
      | some y => y.code != 0)
    let strong := s.at k (fun s => if s.groupStrong p.lanes ea then s.acquire 3 else s)
    let w := (s.warp k).returned p.id fullMask
    let status := fun (n : Nat) => (⟨s.nextId, 1, .value [] [(sreg, BitVec.ofNat 64 (2 ^ 63 + n))]⟩ : Pending)
    let back := match bad with
      | some (peer, y) => [status ((y.elim 0x284 (·.code.toNat)) * 2 ^ 52 + peer.toNat * 2 ^ 40)]
      | none =>
        let r := reduceAll word sz p.lanes (all.filterMap (·.2))
        (if p.lanes &&& em = 0 then [] else [⟨p.id, p.lanes &&& em, .value (ldredWrites d (gwCount word sz) p.lanes em r.1) []⟩]) ++ [status r.2]
    (strong.fresh1.setWarp k { w with pending := w.pending ++ back }).backAt k
  | _ => s

/-- LDRED_RESULT (R363, R364). -/
def execLdredResult (r : LdRedReply) (s : State) : Host.Outcome State Fault Refusal :=
  match (s.warp r.warp).pending.find? (fun p => p.id == r.id) with
  | none => .next s
  | some p => .next (s.ldredBack r.warp p r.contribs)

/-! ### STMC (R365) -/

/-- The deliveries of an STMC, to every member in rank order; the warp has them outstanding (R355, R365). -/
def State.stmcSend (s : State) (i : StMc) (m : Mask) : State :=
  let word := s.w.s i.b.toNat
  let x := s.group s.w.ctx (word.setWidth 8)
  let w := s.w
  let body := PacketBody.stmc x.gid (word.setWidth 8) m ((lanesOf m).map (fun n => w.ea i.m n))
    ((lanesOf m).map (fun n => w.storeData i.size i.a n))
  let r := x.peers.foldl (fun (a : State × List Nat) p => (a.1.sendStore p anyLine 3 (i.rel || w.relFence) body, a.2 ++ [a.1.nextId])) (s, [])
  if r.2 = [] then r.1 else r.1.addPending 1 (.stmc r.2)

/-- STMC of the executing warp. It waits for an outstanding LDRED, and one that is not ordered for earlier stores and atomics of its path to
its members, whose lines it may share (R191, R193, R355; log entry 82). On a strongly ordered page it waits for the warp's earlier strong
accesses. -/
def State.stmcIssue (s : State) (i : StMc) : State :=
  let m := s.w.parts i.h
  let all := s.w.allParts i.h
  let ea := fun n => s.w.ea i.m n
  if m = 0 then s.complete all 16 i.h.sw
  else match s.groupCause (s.w.s i.b.toNat) i.size none m ea with
    | some (c, flm, at_) => s.precise c flm (if at_ then (lowLane flm).elim 0 ea else s.noAddr)
    | none =>
      let peers := (s.group s.w.ctx ((s.w.s i.b.toNat).setWidth 8)).peers
      let rel := i.rel || s.w.relFence
      if s.fenceBand 3 || s.w.ldredAway || s.groupStrong m ea && s.strongHolds none ||
          (if rel then s.releaseX peers else (s.openOn s.cur 3).any (fun r => peers.contains r.peer)) then s.hold
      else ((s.stmcSend i m).noteHits m false true i.size.bytes ea).complete all 16 i.h.sw

/-- STMC (R365). -/
def execStmc (i : StMc) (s : State) : Host.Outcome State Fault Refusal := s.memory 3 (fun s => s.stmcIssue i)

end Sys2Proof.Machine
end

