-- ==== Sys2Proof/Machine/Snapshot.lean ====
section
/-! DEFINITION. The version instructions and what acts on versions by itself (16_version.md R296 to R309): snapshots,
transactions, installation, the forager, watermarks and pool exhaustion. -/

namespace Sys2Proof.Machine

/-! ### Snapshots (R298, R301) -/

/-- The time that a SNAP or TXB names: that of the wait for a table entry, if it waits (R298). -/
def State.snapTime (s : State) (a : DWord) : DWord := s.w.snapWait.getD (if a = 0 then s.now else a)
/-- The checks of a snapshot time: 0x202, 0x201. A warp that waits for a table entry has passed them. -/
def State.timeCause (s : State) (t : DWord) : Option Cause :=
  if s.w.snapWait.isSome then none
  else if s.now.toNat < t.toNat then some 0x202
  else if t.toNat < s.rf.toNat then some 0x201 else none

/-- A snapshot at `t`: the warp's entry is released, then it waits for an entry, or takes one and does `f` (R298). -/
def State.takeSnap (s : State) (t : DWord) (f : Warp → Warp) : State :=
  let s := s.releaseSnap
  let die := s.myDie
  match s.snapPlace die s.w.ctx t with
  | none => (s.upd (fun w => { w with snapWait := some t })).park 16
  | some i => (s.shareSnap die s.w.ctx t i).upd (fun w => f { w with snapIx := some (die, i), snap := t, snapWait := none })

/-- SNAP (R298). -/
def execSnap (i : HA) (s : State) : Host.Outcome State Fault Refusal :=
  let m := s.w.parts i.h
  let t := s.snapTime (s.w.s i.a.toNat)
  if m = 0 then .next (s.retire 8 i.h.sw)
  else if s.w.inTx then .next (s.precise 0x208 m s.noAddr)
  else match s.timeCause t with
    | some c => .next (s.precise c m s.noAddr)
    | none => .next (s.takeSnap t (fun w => w.retire 8 i.h.sw))

/-- SNAPX (R298). -/
def execSnapx (i : Hdr) (s : State) : Host.Outcome State Fault Refusal :=
  let m := s.w.parts i
  if m = 0 then .next (s.retire 8 i.sw)
  else if s.w.inTx then .next (s.precise 0x208 m s.noAddr)
  else .next (s.releaseSnap.upd (fun w => Warp.retire { w with snap := 0 } 8 i.sw))

/-! ### Transactions -/

/-- TXB (R301). -/
def execTxb (i : HA) (s : State) : Host.Outcome State Fault Refusal :=
  let m := s.w.parts i.h
  let t := s.snapTime (s.w.s i.a.toNat)
  if m = 0 then .next (s.retire 8 i.h.sw)
  else if s.w.inTx then .next (s.precise 0x206 m s.noAddr)
  else match s.timeCause t with
    | some c => .next (s.precise c m s.noAddr)
    | none => .next (s.takeSnap t (fun w => Warp.retire
        { w with txStart := t, txLines := 0, txCode := 0, txConf := 0, txState := .active } 8 i.h.sw))

/-- END of TXC and TXA: the snapshot entry is released, snap is 0 and the transaction has ended in a status (R304, R305). -/
def State.endTx (s : State) (st : TxState) (code : BitVec 6) : State :=
  s.releaseSnap.upd (fun w => { w with snap := 0, txState := st, txCode := code, txStart := 0 })

/-- Whether some line of an owner's write set is not yet installed. -/
def State.installs (s : State) (o : Nat) : Bool :=
  s.chains.any (fun e => match e.2.tentative with
    | some (p, _) => p == o
    | none => false)

/-- The end of a commit's wait: every line installed, and 50 ns passed since its stamp (R304). -/
def State.commitOver (s : State) (k : Nat) (t : DWord) : Bool :=
  !s.installs (ownerOf (s.warp k).ctx k) && decide (t.toNat + 3200 ≤ s.ft.toNat)

/-- The executing warp's commit with stamp `t` is complete: its result, and END. -/
def State.commitEnd (s : State) (t : DWord) (d : RegNo) (sw : Bool) : State :=
  (s.endTx .committed 0).upd (fun w => Warp.retire ({ w with txWait := none }.setS d.toNat t) 8 sw)

/-- The tentative versions of an owner start to install (R304). -/
def State.startInstall (s : State) (o : Nat) : State :=
  { s with chains := Tab.map (fun _ (c : Chain) => match c.tentative with
      | some (p, _) => if p = o then { c with installing := true } else c
      | none => c) s.chains }

/-- TXC of an Active transaction (R304). A release. -/
def State.commit (s : State) (i : HD) : State :=
  match s.w.txWait with
  | some (t, _) => if s.commitOver s.cur t then s.commitEnd t i.d i.h.sw else s.park 19
  | none =>
    if s.releaseHolds none then s.hold
    else match s.freshStamp with
      | none => s.park 19
      | some t =>
        let u := ({ s with lastStamp := t }.startInstall s.me).upd (fun w => { w with txWait := some (t, i.d) })
        u.park 19

/-- TXC (R304). -/
def execTxc (i : HD) (s : State) : Host.Outcome State Fault Refusal :=
  let m := s.w.parts i.h
  if m = 0 then .next (s.retire 8 i.h.sw)
  else match s.w.txState with
    | .active => .next (s.commit i)
    | .doomed => .next ((s.endTx .aborted s.w.txCode).upd (fun w => w.putS i.h i.d 8 0))
    | .none => .next (s.precise 0x207 m s.noAddr)
    | .committed => .next (s.precise 0x207 m s.noAddr)
    | .aborted => .next (s.precise 0x207 m s.noAddr)

/-- TXC_COMMIT_WAIT_END of warp `i`: its TXC completes, once every line is installed and its time has come (R304). -/
def execTxcCommitWaitEnd (i : Nat) (s : State) : Host.Outcome State Fault Refusal :=
  let w := s.warp i
  match w.txWait with
  | none => .next s
  | some (t, d) =>
    if (w.stat = .parked ∨ w.stat = .halted) ∧ w.reason = 19 ∧ s.commitOver i t = true then
      .next (s.at i (fun s =>
        let sw := match s.w.ir with
          | some f => f.w0.getLsbD 2
          | none => false
        let u := s.commitEnd t d sw
        if w.stat = .halted then u.upd (fun v => v.stop s.ft) else u))
    else .next s

/-- TXA (R305). -/
def execTxa (i : Hdr) (s : State) : Host.Outcome State Fault Refusal :=
  if s.w.parts i = 0 ∨ s.w.inTx = false then .next (s.retire 8 i.sw)
  else .next (((s.dropTentative s.me).endTx .aborted (if s.w.txState = .active then 6 else s.w.txCode)).retire 8 i.sw)

/-- TXQ (R305). -/
def execTxq (i : HD) (s : State) : Host.Outcome State Fault Refusal := s.upd (fun w => w.putS i.h i.d 8 w.txq) |> .next

/-- VERSION_INSTALL_DONE of line `i`: the tentative version stands in place, the superseded one in the pool (R304). -/
def execVersionInstallDone (i : Nat) (s : State) : Host.Outcome State Fault Refusal :=
  let c := s.chain i
  match c.tentative with
  | none => .next s
  | some (o, b) =>
    if !c.installing then .next s
    else
      let old := s.bytes (i * 128) 128
      .next ((s.setBytes (i * 128) b).setChain i
        { stamp := ⟨s.installStamp o, s.peer⟩, olds := (c.stamp, old) :: c.olds, tentative := none, installing := false })

/-! ### The forager and the watermark (R307) -/

/-- The older versions that stay: those that a version whose stamp lies above the floor superseded. `newer` is the stamp of the
version above the head. -/
def keepOlds (rf : DWord) : Stamp → List (Stamp × List Byte) → List (Stamp × List Byte)
  | _, [] => []
  | newer, v :: vs => if newer.ft.toNat ≤ rf.toNat then keepOlds rf v.1 vs else v :: keepOlds rf v.1 vs

/-- FORAGER_PASS of die `i`: RF is recomputed, then superseded versions at or below it are freed (R307). -/
def execForagerPass (i : Nat) (s : State) : Host.Outcome State Fault Refusal :=
  let s := { s with rf := s.floorNow }
  let s := { s with chains := Tab.map (fun l (c : Chain) =>
    if dieOfAddr (l * 128) = i then { c with olds := keepOlds s.rf c.stamp c.olds } else c) s.chains }
  .next (s.setDie i { s.die i with foragerAt := s.ft })

/-- WATERMARK_FRAME_SEND: once per millisecond PW goes to every other package of the clearing (R307). -/
def execWatermarkFrameSend (s : State) : Host.Outcome State Fault Refusal :=
  if (s.ft - s.pwSentAt).toNat < 64000000 then .next s
  else
    let ps := s.clearing.filter (fun p => p != s.peer)
    .next { s with pwSentAt := s.ft,
                   out := s.out ++ ps.map (fun p => ⟨p, 0, 0, none, false, 0, .watermark s.pwNow, none⟩) }

/-- WATERMARK_FRAME_RECEIVE (R307). -/
def execWatermarkFrameReceive (i : Watermark) (s : State) : Host.Outcome State Fault Refusal :=
  if s.clearing.contains i.peer then .next { s with pws := Tab.set none s.pws i.peer.toNat (some i.pw) } else .next s

/-! ### Pool exhaustion (R308) -/

/-- Address that the executing warp's fetched store forms for a lane. -/
def Warp.storeEa (w : Warp) (lane : Nat) : DWord :=
  match w.ir with
  | none => 0
  | some f => match decode f.w0 f.ext with
    | .st i => w.ea i.m lane
    | .spill i => w.s i.b.toNat + sx64 i.off
    | .stmc i => w.ea i.m lane
    | _ => 0

/-- The Active transactions with tentative versions in the pool of a die. -/
def State.poolOwners (s : State) (die : Nat) : List Nat :=
  ascending (s.chains.filterMap (fun e => match e.2.tentative with
    | some (o, _) => if dieOfAddr (e.1 * 128) = die ∧ e.2.installing = false then some o else none
    | none => none))

/-- The transaction to doom: the latest START, then the lowest core and slot. -/
def State.poolVictim (s : State) (die : Nat) : Option Nat :=
  (s.poolOwners die).foldl (fun b o =>
    match b with
    | none => some o
    | some p =>
      let x := (s.startOf o).toNat
      let y := (s.startOf p).toNat
      if y < x ∨ (x = y ∧ o % 4096 < p % 4096) then some o else b) none

/-- Step 3: snapshot entries older than SNAP_MAX_AGE are expired, and Active transactions on them doomed with CODE 5, but for one whose
TXC has begun (R304). -/
def State.expireSnaps (s : State) : State :=
  if s.snapMaxAge = 0 then s
  else
    let old := fun (e : Snap) => e.used && decide (s.snapMaxAge.toNat * 64000000 < s.now.toNat - e.ft.toNat)
    let s := { s with dies := Tab.map (fun _ (d : Die) =>
      { d with snaps := Tab.map (fun _ (e : Snap) => if old e then { e with expired := true } else e) d.snaps }) s.dies }
    let live := (s.warps.filter (fun e => e.2.txState == .active && e.2.txWait.isNone && s.snapExpired e.2)).map
      (fun e => ownerOf e.2.ctx e.1)
    let saved := s.ctxs.flatMap (fun e =>
      let c : CtxId := BitVec.ofNat 12 e.1
      ((List.range 4096).filter (fun k =>
        let a := s.wcbAddr c k
        let ix := s.num (a + 0xD8) 2
        s.slotSaved c k && decide (s.dword (a + 0xD0) >>> 62 = 1) && ix.testBit 15 &&
          (s.snapEntry (ix / 1024 % 4) (ix % 1024)).expired)).map (fun k => ownerOf c k))
    (live ++ saved).foldl (fun s o => s.doom o 5 0) s

/-- Step 4 for the executing warp: its transaction is doomed, or cause 0x205. -/
def State.poolFail (s : State) : State :=
  if s.w.txState = .active then s.doom s.me 4 0
  else
    let s := s.leavePool s.me
    let flm := if s.w.waiting = 0 then fullMask else s.w.waiting
    s.enter 0x205 flm s.w.done (s.w.storeEa ((lowLane flm).getD 0))

/-- The executing warp's stall has reached its limit, waiting for the pool of a die. -/
def State.poolStep (s : State) (die : Nat) : State :=
  let again := fun (s : State) => s.expireSnaps.upd (fun w => { w with stalls := 1, since := s.ft, waited := 0 })
  if s.w.stalls = 0 then
    match s.poolVictim die with
    | none => again s
    | some o =>
      let t := s.doom o 4 0
      if o = s.me ∨ t.poolRoom die s.me = true then t else again t
  else s.poolFail

/-- POOL_STALL_EXPIRY of warp `i` (R308). A warp for which an entry is free now takes it. -/
def execPoolStallExpiry (i : Nat) (s : State) : Host.Outcome State Fault Refusal :=
  let w := s.warp i
  if w.stat = .parked ∧ (s.ctx w.ctx).state = .running ∧ w.reason = 18 ∧ s.stallLimit.toNat * 64000 ≤ w.elapsed s.ft then
    match (List.range 4).find? (fun d => (s.die d).poolWait.contains (ownerOf w.ctx i)) with
    | none => .next s
    | some d => if s.poolRoom d (ownerOf w.ctx i) then .next { s with recheck := s.recheck ++ [i] }
      else .next (s.at i (fun s => s.poolStep d))
  else .next s

/-! ### Registers and stamps -/

/-- VPOOL_CFG_WRITE (R293). -/
def execVpoolCfgWrite (i : RegWrite) (s : State) : Host.Outcome State Fault Refusal :=
  let die := (i.off - 0x4000) / 8
  let d := s.die die
  let base := field i.val 15 19 * 2 ^ 21
  let size := field i.val 34 15
  if i.off < 0x4000 ∨ 4 ≤ die ∨ i.off % 8 ≠ 0 ∨ d.vpool.getLsbD 0 = true then .next s
  else
    let ok := size ≠ 0 ∧ size ≤ 24576 ∧ die * 0x3000000000 ≤ base ∧ base + size * 2 ^ 21 ≤ (die + 1) * 0x3000000000
    let v := i.val &&& 0x0001FFFFFFFF8001
    .next (s.setDie die { d with vpool := if ok then v else v &&& ~~~(1 : DWord) })

/-- COMMIT_STAMP_NEXT_NANOSECOND: warp `i`, whose commit found the stamps of a nanosecond used, looks again once the next one
has come (R292). -/
def execCommitStampNextNanosecond (i : Nat) (s : State) : Host.Outcome State Fault Refusal :=
  let w := s.warp i
  if w.stat = .parked ∧ (s.ctx w.ctx).state = .running ∧ (w.reason = 17 ∨ w.reason = 19) ∧ s.freshStamp.isSome = true then
    .next { s with recheck := s.recheck ++ [i] }
  else .next s

end Sys2Proof.Machine
end

