-- ==== Sys2Proof/Machine/Integer.lean ====
section
/-! DEFINITION. The integer and address instructions (06_vector.md R104 to R110). -/

namespace Sys2Proof.Machine

/-- A next state that changes only the executing warp. -/
def State.warpNext (s : State) (f : Warp → Warp) : Host.Outcome State Fault Refusal := .next (s.upd f)

/-! ### The shapes: sources of each lane, result, write, retirement -/

/-- One source (R104). -/
def int2 (f : ITy → Bool → Nat → Nat) (i : Int2) (w : Warp) : Warp :=
  w.putInt i.h i.s i.ty i.d 8 (fun n => f i.ty i.sat (w.intA i.s i.ty i.xl i.a n))
/-- Two sources (R104). -/
def int3 (f : ITy → Bool → Nat → Nat → Nat) (i : Int3) (w : Warp) : Warp :=
  w.putInt i.h i.s i.ty i.d 8 (fun n => f i.ty i.sat (w.intA i.s i.ty i.xl i.a n) (w.intB i.s i.ty i.b n))
/-- Two sources, the second IMM32 (R55). -/
def int3I (f : ITy → Bool → Nat → Nat → Nat) (i : Int3I) (w : Warp) : Warp :=
  w.putInt i.h i.s i.ty i.d 12 (fun n => f i.ty i.sat (w.intA i.s i.ty i.xl i.a n) (i.ty.imm i.imm))
/-- Three sources (R104). -/
def int4 (f : ITy → Bool → Nat → Nat → Nat → Nat) (i : Int4) (w : Warp) : Warp :=
  w.putInt i.h i.s i.ty i.d 8 (fun n =>
    f i.ty i.sat (w.intA i.s i.ty i.xl i.a n) (w.intB i.s i.ty i.b n) (w.intB i.s i.ty i.c n))
/-- Three sources, the second IMM32 (R55). -/
def int4I (f : ITy → Bool → Nat → Nat → Nat → Nat) (i : Int4I) (w : Warp) : Warp :=
  w.putInt i.h i.s i.ty i.d 12 (fun n =>
    f i.ty i.sat (w.intA i.s i.ty i.xl i.a n) (i.ty.imm i.imm) (w.intB i.s i.ty i.c n))

/-! ### The functions (R104, R105): sources and result as w-bit values -/

/-- a + b. -/
def fnIadd (ty : ITy) (sat : Bool) (a b : Nat) : Nat := ty.wr sat (ty.rd a + ty.rd b)
/-- a - b. -/
def fnIsub (ty : ITy) (sat : Bool) (a b : Nat) : Nat := ty.wr sat (ty.rd a - ty.rd b)
/-- a × b. -/
def fnImul (ty : ITy) (sat : Bool) (a b : Nat) : Nat := ty.wr sat (ty.rd a * ty.rd b)
/-- floor(a × b / 2^w). -/
def fnImulhi (ty : ITy) (sat : Bool) (a b : Nat) : Nat := ty.wr sat (ty.rd a * ty.rd b / (2 ^ ty.width : Nat))
/-- a × b + c, one exact sum. -/
def fnImad (ty : ITy) (sat : Bool) (a b c : Nat) : Nat := ty.wr sat (ty.rd a * ty.rd b + ty.rd c)
/-- min(a, b). -/
def fnImin (ty : ITy) (sat : Bool) (a b : Nat) : Nat := ty.wr sat (min (ty.rd a) (ty.rd b))
/-- max(a, b). -/
def fnImax (ty : ITy) (sat : Bool) (a b : Nat) : Nat := ty.wr sat (max (ty.rd a) (ty.rd b))
/-- |a|. -/
def fnIabs (ty : ITy) (sat : Bool) (a : Nat) : Nat := ty.wr sat (ty.rd a).natAbs
/-- -a. -/
def fnIneg (ty : ITy) (sat : Bool) (a : Nat) : Nat := ty.wr sat (-(ty.rd a))
/-- Bitwise and. -/
def fnAnd (_ : ITy) (_ : Bool) (a b : Nat) : Nat := a &&& b
/-- Bitwise or. -/
def fnOr (_ : ITy) (_ : Bool) (a b : Nat) : Nat := a ||| b
/-- Bitwise exclusive or. -/
def fnXor (_ : ITy) (_ : Bool) (a b : Nat) : Nat := a ^^^ b
/-- Bitwise complement. -/
def fnNot (ty : ITy) (_ : Bool) (a : Nat) : Nat := 2 ^ ty.width - 1 - a
/-- a AND NOT b. -/
def fnAndn (ty : ITy) (_ : Bool) (a b : Nat) : Nat := a &&& (2 ^ ty.width - 1 - b)
/-- a × 2^b; 0 when b ≥ w. -/
def fnShl (ty : ITy) (_ : Bool) (a b : Nat) : Nat := if ty.width ≤ b then 0 else (a <<< b) % 2 ^ ty.width
/-- floor(a / 2^b); 0 when b ≥ w. -/
def fnShr (ty : ITy) (_ : Bool) (a b : Nat) : Nat := if ty.width ≤ b then 0 else a >>> b
/-- floor(a / 2^b) of the signed a; 0 or -1 by sign when b ≥ w. -/
def fnSar (ty : ITy) (_ : Bool) (a b : Nat) : Nat :=
  ty.wr false (ty.rd a / (2 ^ (min b ty.width) : Nat))
/-- a rotated left by b mod w. -/
def fnRot (ty : ITy) (_ : Bool) (a b : Nat) : Nat :=
  let n := b % ty.width
  (a <<< n) % 2 ^ ty.width ||| a >>> (ty.width - n)
/-- Number of 1 bits. -/
def fnPopc (ty : ITy) (_ : Bool) (a : Nat) : Nat := ((List.range ty.width).filter (fun k => a.testBit k)).length
/-- Leading zeros; w for 0. -/
def fnClz (ty : ITy) (_ : Bool) (a : Nat) : Nat :=
  ((List.range ty.width).reverse.takeWhile (fun k => !a.testBit k)).length
/-- Bit k moved to bit w - 1 - k. -/
def fnBrev (ty : ITy) (_ : Bool) (a : Nat) : Nat :=
  ((List.range ty.width).filter (fun k => a.testBit k)).foldl (fun x k => x + 2 ^ (ty.width - 1 - k)) 0

/-- Position and length of a field by its control word: p, and n' (R105); none for an empty field. -/
def bitField (ty : ITy) (ctl : Nat) : Option (Nat × Nat) :=
  let p := ctl % 256
  let n := min (ctl / 256 % 256) (ty.width - p)
  if ty.width ≤ p ∨ n = 0 then none else some (p, n)
/-- BFE (R105). -/
def fnBfe (ty : ITy) (_ : Bool) (a ctl : Nat) : Nat :=
  match bitField ty ctl with
  | none => 0
  | some (p, n) =>
    let x := a >>> p % 2 ^ n
    ty.wr false (if ty.sgn && x.testBit (n - 1) then (x : Int) - (2 ^ n : Nat) else x)
/-- BFI (R105). -/
def fnBfi (ty : ITy) (_ : Bool) (a b ctl : Nat) : Nat :=
  match bitField ty ctl with
  | none => a
  | some (p, n) => (a >>> (p + n)) <<< (p + n) ||| (b % 2 ^ n) <<< p ||| a % 2 ^ p


/-- IADD (R104). -/
def execIadd (i : Int3) (s : State) : Host.Outcome State Fault Refusal := s.warpNext (int3 fnIadd i)

/-- IADD with IMM32 (R104, R55). -/
def execIaddImm (i : Int3I) (s : State) : Host.Outcome State Fault Refusal := s.warpNext (int3I fnIadd i)

/-- ISUB (R104). -/
def execIsub (i : Int3) (s : State) : Host.Outcome State Fault Refusal := s.warpNext (int3 fnIsub i)

/-- ISUB with IMM32 (R104, R55). -/
def execIsubImm (i : Int3I) (s : State) : Host.Outcome State Fault Refusal := s.warpNext (int3I fnIsub i)

/-- IMUL (R104). -/
def execImul (i : Int3) (s : State) : Host.Outcome State Fault Refusal := s.warpNext (int3 fnImul i)

/-- IMUL with IMM32 (R104, R55). -/
def execImulImm (i : Int3I) (s : State) : Host.Outcome State Fault Refusal := s.warpNext (int3I fnImul i)

/-- IMULHI (R104). -/
def execImulhi (i : Int3) (s : State) : Host.Outcome State Fault Refusal := s.warpNext (int3 fnImulhi i)

/-- IMULHI with IMM32 (R104, R55). -/
def execImulhiImm (i : Int3I) (s : State) : Host.Outcome State Fault Refusal := s.warpNext (int3I fnImulhi i)

/-- IMAD (R104). -/
def execImad (i : Int4) (s : State) : Host.Outcome State Fault Refusal := s.warpNext (int4 fnImad i)

/-- IMAD with IMM32 (R104, R55). -/
def execImadImm (i : Int4I) (s : State) : Host.Outcome State Fault Refusal := s.warpNext (int4I fnImad i)

/-- IMIN (R104). -/
def execImin (i : Int3) (s : State) : Host.Outcome State Fault Refusal := s.warpNext (int3 fnImin i)

/-- IMIN with IMM32 (R104, R55). -/
def execIminImm (i : Int3I) (s : State) : Host.Outcome State Fault Refusal := s.warpNext (int3I fnImin i)

/-- IMAX (R104). -/
def execImax (i : Int3) (s : State) : Host.Outcome State Fault Refusal := s.warpNext (int3 fnImax i)

/-- IMAX with IMM32 (R104, R55). -/
def execImaxImm (i : Int3I) (s : State) : Host.Outcome State Fault Refusal := s.warpNext (int3I fnImax i)

/-- AND (R104). -/
def execAnd (i : Int3) (s : State) : Host.Outcome State Fault Refusal := s.warpNext (int3 fnAnd i)

/-- AND with IMM32 (R104, R55). -/
def execAndImm (i : Int3I) (s : State) : Host.Outcome State Fault Refusal := s.warpNext (int3I fnAnd i)

/-- OR (R104). -/
def execOr (i : Int3) (s : State) : Host.Outcome State Fault Refusal := s.warpNext (int3 fnOr i)

/-- OR with IMM32 (R104, R55). -/
def execOrImm (i : Int3I) (s : State) : Host.Outcome State Fault Refusal := s.warpNext (int3I fnOr i)

/-- XOR (R104). -/
def execXor (i : Int3) (s : State) : Host.Outcome State Fault Refusal := s.warpNext (int3 fnXor i)

/-- XOR with IMM32 (R104, R55). -/
def execXorImm (i : Int3I) (s : State) : Host.Outcome State Fault Refusal := s.warpNext (int3I fnXor i)

/-- ANDN (R104). -/
def execAndn (i : Int3) (s : State) : Host.Outcome State Fault Refusal := s.warpNext (int3 fnAndn i)

/-- ANDN with IMM32 (R104, R55). -/
def execAndnImm (i : Int3I) (s : State) : Host.Outcome State Fault Refusal := s.warpNext (int3I fnAndn i)

/-- SHL (R104). -/
def execShl (i : Int3) (s : State) : Host.Outcome State Fault Refusal := s.warpNext (int3 fnShl i)

/-- SHL with IMM32 (R104, R55). -/
def execShlImm (i : Int3I) (s : State) : Host.Outcome State Fault Refusal := s.warpNext (int3I fnShl i)

/-- SHR (R104). -/
def execShr (i : Int3) (s : State) : Host.Outcome State Fault Refusal := s.warpNext (int3 fnShr i)

/-- SHR with IMM32 (R104, R55). -/
def execShrImm (i : Int3I) (s : State) : Host.Outcome State Fault Refusal := s.warpNext (int3I fnShr i)

/-- SAR (R104). -/
def execSar (i : Int3) (s : State) : Host.Outcome State Fault Refusal := s.warpNext (int3 fnSar i)

/-- SAR with IMM32 (R104, R55). -/
def execSarImm (i : Int3I) (s : State) : Host.Outcome State Fault Refusal := s.warpNext (int3I fnSar i)

/-- ROT (R104). -/
def execRot (i : Int3) (s : State) : Host.Outcome State Fault Refusal := s.warpNext (int3 fnRot i)

/-- ROT with IMM32 (R104, R55). -/
def execRotImm (i : Int3I) (s : State) : Host.Outcome State Fault Refusal := s.warpNext (int3I fnRot i)

/-- BFE (R105). -/
def execBfe (i : Int3) (s : State) : Host.Outcome State Fault Refusal := s.warpNext (int3 fnBfe i)

/-- BFE with IMM32 (R105, R55). -/
def execBfeImm (i : Int3I) (s : State) : Host.Outcome State Fault Refusal := s.warpNext (int3I fnBfe i)

/-- BFI (R105). -/
def execBfi (i : Int4) (s : State) : Host.Outcome State Fault Refusal := s.warpNext (int4 fnBfi i)

/-- BFI with IMM32 (R105, R55). -/
def execBfiImm (i : Int4I) (s : State) : Host.Outcome State Fault Refusal := s.warpNext (int4I fnBfi i)

/-- IABS (R104). -/
def execIabs (i : Int2) (s : State) : Host.Outcome State Fault Refusal := s.warpNext (int2 fnIabs i)

/-- INEG (R104). -/
def execIneg (i : Int2) (s : State) : Host.Outcome State Fault Refusal := s.warpNext (int2 fnIneg i)

/-- NOT (R104). -/
def execNot (i : Int2) (s : State) : Host.Outcome State Fault Refusal := s.warpNext (int2 fnNot i)

/-- POPC (R104). -/
def execPopc (i : Int2) (s : State) : Host.Outcome State Fault Refusal := s.warpNext (int2 fnPopc i)

/-- CLZ (R104). -/
def execClz (i : Int2) (s : State) : Host.Outcome State Fault Refusal := s.warpNext (int2 fnClz i)

/-- BREV (R104). -/
def execBrev (i : Int2) (s : State) : Host.Outcome State Fault Refusal := s.warpNext (int2 fnBrev i)


/-! ### Compare and select (R106) -/

/-- The condition of ICMP on a type. -/
def icmpHolds (c : ICond) (ty : ITy) (a b : Nat) : Bool :=
  let x := ty.rd a
  let y := ty.rd b
  match c with
  | .eq => decide (x = y)
  | .ne => decide (x ≠ y)
  | .lt => decide (x < y)
  | .le => decide (x ≤ y)
  | .gt => decide (y < x)
  | .ge => decide (y ≤ x)
/-- TYPE of ICMP by its sign bit. -/
def icmpTy (sgn : Bool) : ITy := if sgn then .s32 else .b32

/-- ICMP (R106). -/
def execIcmp (i : ICmp) (s : State) : Host.Outcome State Fault Refusal :=
  s.warpNext (fun w => w.putP i.h i.d 8 (fun n =>
    icmpHolds i.cond (icmpTy i.sgn) (w.aLane i.xl i.a.toNat n).toNat (w.v i.b.toNat n).toNat))
/-- ICMP with IMM32 (R106). -/
def execIcmpImm (i : ICmpI) (s : State) : Host.Outcome State Fault Refusal :=
  s.warpNext (fun w => w.putP i.h i.d 12 (fun n =>
    icmpHolds i.cond (icmpTy i.sgn) (w.aLane i.xl i.a.toNat n).toNat i.imm.toNat))
/-- SEL (R106). -/
def execSel (i : Sel) (s : State) : Host.Outcome State Fault Refusal :=
  s.warpNext (fun w => w.putV i.h i.d 8 (fun n =>
    if (w.p i.c.toNat).getLsbD n then w.aLane i.xl i.a.toNat n else w.v i.b.toNat n))
/-- SEL with IMM32 (R106). -/
def execSelImm (i : SelI) (s : State) : Host.Outcome State Fault Refusal :=
  s.warpNext (fun w => w.putV i.h i.d 12 (fun n =>
    if (w.p i.c.toNat).getLsbD n then w.aLane i.xl i.a.toNat n else i.imm))

/-! ### LEA (R107), 64-bit vector arithmetic (R108), conversion (R109) -/

/-- TYPE of LEA. -/
def leaTy (wide : Bool) : ITy := if wide then .b64 else .b32
/-- a + b × 2^C modulo 2^w (R107). -/
def fnLea (ty : ITy) (a b sh : Nat) : Nat := (a + b * 2 ^ sh) % 2 ^ ty.width
/-- LEA (R107). -/
def execLea (i : Lea) (s : State) : Host.Outcome State Fault Refusal :=
  let ty := leaTy i.wide
  s.warpNext (fun w => w.putInt i.h i.s ty i.d 8 (fun n =>
    fnLea ty (w.intA i.s ty i.xl i.a n) (w.intB i.s ty i.b n) i.sh.toNat))
/-- LEA with IMM32, sign-extended to w bits (R107). -/
def execLeaImm (i : LeaI) (s : State) : Host.Outcome State Fault Refusal :=
  let ty := leaTy i.wide
  s.warpNext (fun w => w.putInt i.h i.s ty i.d 12 (fun n =>
    fnLea ty (w.intA i.s ty i.xl i.a n) (if i.wide then sx64 i.imm else zx64 i.imm).toNat i.sh.toNat))

/-- IADD64 (R108). -/
def execIadd64 (i : Int3) (s : State) : Host.Outcome State Fault Refusal :=
  s.warpNext (fun w => w.putV64 i.h i.d 8 (fun n =>
    BitVec.ofNat 64 (fnIadd i.ty i.sat (w.aLane64 i.xl i.a.toNat n).toNat (w.v64 i.b.toNat n).toNat)))
/-- IADD64 with IMM32 (R108, R55). -/
def execIadd64Imm (i : Int3I) (s : State) : Host.Outcome State Fault Refusal :=
  s.warpNext (fun w => w.putV64 i.h i.d 12 (fun n =>
    BitVec.ofNat 64 (fnIadd i.ty i.sat (w.aLane64 i.xl i.a.toNat n).toNat (i.ty.imm i.imm))))
/-- A 32-bit source of IMAD64 extended to 64 bits (R108). -/
def wide32 (ty : ITy) (x : Word) : Nat := (if ty.sgn then sx64 x else zx64 x).toNat
/-- IMAD64 (R108). -/
def execImad64 (i : Int4) (s : State) : Host.Outcome State Fault Refusal :=
  s.warpNext (fun w => w.putV64 i.h i.d 8 (fun n =>
    BitVec.ofNat 64 (fnImad i.ty i.sat (wide32 i.ty (w.aLane i.xl i.a.toNat n)) (wide32 i.ty (w.v i.b.toNat n))
      (w.v64 i.c.toNat n).toNat)))
/-- IMAD64 with IMM32 (R108, R55). -/
def execImad64Imm (i : Int4I) (s : State) : Host.Outcome State Fault Refusal :=
  s.warpNext (fun w => w.putV64 i.h i.d 12 (fun n =>
    BitVec.ofNat 64 (fnImad i.ty i.sat (wide32 i.ty (w.aLane i.xl i.a.toNat n)) (i.ty.imm i.imm)
      (w.v64 i.c.toNat n).toNat)))

/-- Bits of a narrow width (R109). -/
def cvtBits : CvtW → Nat
  | .w8 => 8 | .w16 => 16 | .w32 => 32
/-- ICVT (R109). -/
def fnIcvt (n : Nat) (ty : ITy) (sat : Bool) (a : Nat) : Nat :=
  if sat then
    let x := ty.rd a
    let hi : Int := if ty.sgn then (2 ^ (n - 1) : Nat) - 1 else (2 ^ n : Nat) - 1
    let lo : Int := if ty.sgn then -((2 ^ (n - 1) : Nat) : Int) else 0
    ty.wr false (if x < lo then lo else if hi < x then hi else x)
  else
    let x := a % 2 ^ n
    ty.wr false (if ty.sgn && x.testBit (n - 1) then (x : Int) - (2 ^ n : Nat) else x)
/-- ICVT (R109). -/
def execIcvt (i : ICvt) (s : State) : Host.Outcome State Fault Refusal :=
  s.warpNext (fun w => w.putInt i.h i.s i.ty i.d 8 (fun n => fnIcvt (cvtBits i.w) i.ty i.sat (w.intA i.s i.ty i.xl i.a n)))

/-! ### MOV (R110) -/

/-- MOV 0x019: the five register forms. -/
def execMovReg (i : MovReg) (s : State) : Host.Outcome State Fault Refusal :=
  s.warpNext (fun w =>
    match i.form with
    | .plain => w.putInt i.h i.s i.ty i.d 8 (fun n => w.intA i.s i.ty i.xl i.a n)
    | .lo => w.putV i.h i.d 8 (fun _ => loWord (w.s i.a.toNat))
    | .hi => w.putV i.h i.d 8 (fun _ => hiWord (w.s i.a.toNat))
    | .tos => w.putS i.h i.d 8 (zx64 (w.aLane i.xl i.a.toNat ((lowLane (w.parts i.h)).getD 0)))
    | .tohi => w.putS i.h i.d 8
        (pairOf (loWord (w.s i.d.toNat)) (w.aLane i.xl i.a.toNat ((lowLane (w.parts i.h)).getD 0))))
/-- MOVI (R110, R55). A cross-lane mode changes nothing: there is no A to exchange (log entry 84). -/
def execMovi (i : MovI) (s : State) : Host.Outcome State Fault Refusal :=
  s.warpNext (fun w => w.putInt i.h i.s i.ty i.d 12 (fun _ => i.ty.imm i.imm))

end Sys2Proof.Machine
end

