-- ==== Sys2Proof/Machine/Traps.lean ====
section
/-! DEFINITION. Instructions that trap or stop (21_trap.md R384 to R388, 18_context.md R341 to R344): encoding traps, tool
opcodes, TRAP, BKPT, the return RETT, FTIME, SYSC and HALT. -/

namespace Sys2Proof.Machine

/-- A word that fails an encoding check: precise, with FLM equal to em (R59). -/
def execIllegalEncoding (i : Illegal) (s : State) : Host.Outcome State Fault Refusal :=
  .next (s.precise i.cause s.w.em s.noAddr)

/-- A tool-reserved opcode (R60, R388); no rule names an operand for ADDR (log entry 16). -/
def State.tool (s : State) (index : BitVec 4) : State :=
  if (s.ctx s.w.ctx).toolBase.getLsbD 0 then s.precise (0x2E0 + index.setWidth 10) s.w.em s.noAddr
  else s.precise 0x04B s.w.em s.noAddr

/-- TOOL with index 0 to 7 (R388). -/
def execTool64 (i : Tool) (s : State) : Host.Outcome State Fault Refusal := .next (s.tool i.index)
/-- TOOL with index 8 to 11 (R388). -/
def execTool96 (i : Tool) (s : State) : Host.Outcome State Fault Refusal := .next (s.tool i.index)
/-- TOOL with index 12 to 15 (R388). -/
def execTool128 (i : Tool) (s : State) : Host.Outcome State Fault Refusal := .next (s.tool i.index)

/-- TRAP (R384). -/
def execTrap (i : TrapOp) (s : State) : Host.Outcome State Fault Refusal :=
  let m := s.w.parts i.h
  if m = 0 then .next (s.retire 12 i.h.sw)
  else .next (s.precise (0x300 + i.n.setWidth 10) m (i.n.setWidth 64))

/-- BKPT (R386): a debug stop for an attached debugger, else a trap. A stopped warp goes on at the next instruction. -/
def execBkpt (i : HB) (s : State) : Host.Outcome State Fault Refusal :=
  let m := s.w.parts i.h
  let code : DWord := i.b.setWidth 64
  if m = 0 then .next (s.retire 8 i.h.sw)
  else if (s.ctx s.w.ctx).dbgRight.getLsbD 1 && !s.revoking s.w.ctx then
    .next ((s.debugStop 0x2C0 m 0 code).upd (fun w => (w.retire 8 i.h.sw).stop s.ft))
  else .next (s.precise 0x2C0 m code)

/-! ### RETT (R385) -/

/-- Every stack entry above depth TB discarded. -/
def State.dropAbove (s : State) (tb : Nat) : Except PathErr State :=
  let w := s.w
  if w.depth ≤ tb then .ok s
  else Loaded.store ⟨s, ⟨w.pc, w.em, w.cj, w.spin, []⟩, [], w.stack.drop (w.depth - tb)⟩ ⟨w.pc, w.em, w.cj, w.spin, []⟩

/-- The warp leaves trap mode: at the map's PC, or after that instruction with NEXT. -/
def Warp.leaveTrap (w : Warp) (next sw : Bool) : Warp :=
  let m := w.trap
  let pc := if next then m.pc + m.len.setWidth 64 else m.pc
  let v := Warp.finish { w with em := m.em &&& ~~~w.exited, cj := m.cj, spin := m.spin, trapMode := false, pc := pc } sw
  if next || m.len = 0 then v else { v with done := m.done }

/-- The held watch hit of the instruction that trapped, when RETT reissues it (R391). -/
def TrapMap.back (m : TrapMap) (next : Bool) (hit : Option (Mask × DWord)) : Option (Mask × DWord) :=
  if next || m.len = 0 then none else hit

/-- RETT (R385). -/
def execRett (i : RetT) (s : State) : Host.Outcome State Fault Refusal :=
  if !s.w.trapMode then .next (s.precise 0x190 s.w.em s.noAddr)
  else match s.dropAbove s.w.trap.tb.toNat with
    | .error e => .next (s.pathErr e)
    | .ok t =>
      let u := (t.upd (fun w => w.leaveTrap i.next i.sw)).pathStop (s.trapMap 0x2C1 0 0 0)
      .next (u.upd (fun w => { w with watch := t.w.trap.back i.next t.w.trapWatch, trapWatch := none }))

/-! ### FTIME, HALT, SYSC -/

/-- FTIME (R341). -/
def execFtime (i : FTime) (s : State) : Host.Outcome State Fault Refusal :=
  .next (s.upd (fun w => w.putS i.h i.d 8 (if i.epoch then s.epochs.setWidth 64 else s.now)))

/-- HALT (R344). -/
def execHalt (i : Hdr) (s : State) : Host.Outcome State Fault Refusal :=
  let m := s.w.parts i
  let va := s.w.pc
  let t := s.retire 8 i.sw
  if m = 0 then .next t
  else .next ((t.stopCtx s.w.ctx).fault (s.recOf s.cur 2 0x382 va m 0))

/-- The record of R343 for warp `k`. -/
def State.syscRec (s : State) (k : Nat) (service : BitVec 16) : SyscRec :=
  let w := s.warp k
  { service := service, ctx := w.ctx, gen := (s.ctx w.ctx).gen, core := coreOf k, slot := slotOf k, ft := s.now,
    args := (List.range 14).map (fun n => w.s (2 + n)) }

/-- The waits of R342 for the executing warp, which stands after its SYSC: for results and accesses, band commands and
copies included, for room in the queue, then for the reply. -/
def State.syscWait (s : State) : State :=
  if !s.w.pending.isEmpty || s.workOpen then s.park 20
  else if 4096 ≤ s.syscQ.length then s.park 21
  else { s with syscQ := s.syscQ ++ [s.syscRec s.cur s.w.service] }.park 22

/-- SYSC (R342). A warp parked in it stands at the next instruction (R396). -/
def execSysc (i : Sysc) (s : State) : Host.Outcome State Fault Refusal :=
  if s.w.parts i.h = 0 then .next (s.retire 12 i.h.sw)
  else .next ((s.upd (fun w => { w with pc := w.pc + 12, done := 0, service := i.service })).syscWait)

end Sys2Proof.Machine
end

