-- ==== Sys2Proof/Machine/Kernel.lean ====
section
/-! DEFINITION. Launches (17_kernel.md R311 to R319) and the life of groups (07_group.md R131 to R135, R149): submission,
acceptance, placement, POSTW, EXIT, retirement and completion. -/

namespace Sys2Proof.Machine

/-! ### Reading and writing a launch record (R311) -/

/-- The state with the page tables of a context that is not on the package read from its descriptor (R326). -/
def State.withDesc (s : State) (c : CtxId) : State :=
  match (s.ctx c).state with
  | .running | .stopped | .saving => s
  | .free | .idle | .saved | .discarding | .restoring =>
    let a := s.descAddr c
    s.setCtx c { s.ctx c with troot := s.dword (a + 8), range := s.dword (a + 16),
                              resident := (s.num (a + 27) 1).testBit 1 }

/-- A translation for the launch sequencer, which is on no compute die (log entry 51). -/
def State.seqTrans (s : State) (c : CtxId) (want : Want) (va : DWord) : Option Trans :=
  ((s.withDesc c).translate c 4 want 0 va).toOption

/-- What a read by the sequencer comes to: bytes, bytes of other packages that are still to come, by peer*2^40 + address, or a page
that cannot be read. -/
inductive SeqGot where
  | bytes (b : List Byte)
  | ask (ks : List Nat)
  | no

/-- Two reads in a row. -/
def SeqGot.join : SeqGot → SeqGot → SeqGot
  | .no, _ => .no
  | _, .no => .no
  | .ask a, .ask b => .ask (a ++ b)
  | .ask a, .bytes _ => .ask a
  | .bytes _, .ask b => .ask b
  | .bytes a, .bytes b => .bytes (a ++ b)
/-- The bytes that are still to come. -/
def SeqGot.keys : SeqGot → List Nat
  | .ask ks => ks
  | .bytes _ => []
  | .no => []

/-- Bytes of another package's memory among those that have come for a launch. -/
def Launch.remote (l : Launch) (p : Peer) (a n : Nat) : SeqGot :=
  (List.range n).foldr (fun i r => SeqGot.join (match byteAt l.got (copyKey p (a + i)) with
    | some b => .bytes [b]
    | none => .ask [copyKey p (a + i)]) r) (.bytes [])

/-- `n` bytes of a context's memory as the sequencer reads them for a launch, `n` at most 4096. -/
def State.seqRead (s : State) (l : Launch) (va : DWord) (n : Nat) : SeqGot :=
  (partsOf va n).foldr (fun p r => SeqGot.join (match s.seqTrans l.ctx wantR p.va with
    | none => .no
    | some t => if s.away t then l.remote t.peer (t.addr p.va) p.n else .bytes (s.bytes (t.addr p.va) p.n)) r) (.bytes [])

/-- What reading those bytes on this package leaves: leases on their lines end, and poisoned words are noted (R356, R400). -/
def State.seqTouch (s : State) (c : CtxId) (va : DWord) (n : Nat) : State :=
  (partsOf va n).foldl (fun (u : State) p => match s.seqTrans c wantR p.va with
    | none => u
    | some t => if s.away t then u else (u.touch c (t.addr p.va) p.n).endLeases (t.addr p.va) p.n) s

/-- Requests for bytes of other packages leave, unless some are out already (R311). -/
def State.askLaunch (s : State) (l : Launch) (ks : List Nat) : State :=
  if l.asked ≠ [] then s
  else (ascending (ks.map (fun k => k / 2 ^ 40))).foldl (fun (s : State) p =>
    let mine := ascending (ks.filter (fun k => k / 2 ^ 40 == p))
    { s.fresh1 with
      out := s.out ++ [⟨BitVec.ofNat 12 p, l.ctx, s.genNow l.ctx, none, false, s.nextId, .load (mine.map (fun k => k % 2 ^ 40)), none⟩]
      launches := s.launches.map (fun (x : Launch) =>
        if x.id = l.id then { x with asked := x.asked ++ [(s.nextId, mine)] } else x) }) s

/-- A numbered, ordered store of the sequencer to another package (R317, R355). -/
def State.seqStore (s : State) (c : CtxId) (dst : Peer) (ws : List (Nat × Byte)) : State :=
  let gen := s.genNow c
  let key := streamKey dst c gen
  let n := Tab.get 0 s.outSeq key
  { s.fresh1 with
    outSeq := Tab.set 0 s.outSeq key (n + 1)
    out := s.out ++ [⟨dst, c, gen, some n, true, s.nextId, .store ws, none⟩]
    remotes := s.remotes ++ [⟨s.nextId, seqWarp, c, 2, dst, (ws.map (·.1)).headD 0 / 128, none, 0, gen, 0⟩] }

/-- Whether the sequencer can write `n` bytes. -/
def State.seqWritable (s : State) (c : CtxId) (va : DWord) (n : Nat) : Bool :=
  (partsOf va n).all (fun p => (s.seqTrans c wantW p.va).any (fun t => !t.vers))

/-- Bytes written by the sequencer to pages that it can write, under the translations of `v`. -/
def State.seqWrite (s v : State) (c : CtxId) (va : DWord) (bs : List Byte) : State :=
  (partsOf va bs.length).foldl (fun (u : State) p => match v.seqTrans c wantW p.va with
    | none => u
    | some t =>
      let a := t.addr p.va
      let b := (bs.drop p.off).take p.n
      if s.away t then (u.cache c 4 p.va t).seqStore c t.peer (b.zipIdx.map (fun x => (a + x.2, x.1)))
      else ((u.touch c a p.n).setBytes a b).endLeases a p.n) s

/-- The ranges of a record: its first part, and the schedule blocks that NSCHED `n` names (R311). -/
def Launch.ranges (l : Launch) (n : Nat) : List (DWord × Nat) :=
  (l.recva, 0x140) :: (List.range (min n 8)).map (fun m => (l.recva + BitVec.ofNat 64 (0x140 + 0x200 * m), 0x200))

/-- The record's bytes with its schedule blocks. -/
def State.readRecord (s : State) (l : Launch) : SeqGot :=
  match s.seqRead l l.recva 0x140 with
  | .bytes h => (l.ranges (natLE ((h.drop 0x2A).take 1))).foldr (fun x r => (s.seqRead l x.1 x.2).join r) (.bytes [])
  | g => g

/-! ### Fields of a record -/

/-- ENTRY. -/
def Launch.entry (l : Launch) : DWord := BitVec.ofNat 64 (l.num 0 8)
/-- NCOH. -/
def Launch.ncoh (l : Launch) : Nat := l.num 8 8
/-- Teams of a cohort. -/
def Launch.teams (l : Launch) : Nat := l.num 0x16 1 % 16 + 1
/-- Warps of a team. -/
def Launch.warps (l : Launch) : Nat := l.num 0x17 1 % 16 + 1
/-- SCRATCH. -/
def Launch.scratch (l : Launch) : Nat := l.num 0x18 4
/-- ROC in KiB. -/
def Launch.roc (l : Launch) : Nat := l.num 0x1C 2
/-- FLAGS. -/
def Launch.flags (l : Launch) : Nat := l.num 0x1F 1
/-- SNAPL. -/
def Launch.snapl (l : Launch) : Bool := l.flags.testBit 0
/-- COMB. -/
def Launch.comb (l : Launch) : Nat := bitsAt l.flags 1 2
/-- NSUCC. -/
def Launch.nsucc (l : Launch) : Nat := bitsAt l.flags 3 3
/-- Affinity of field `j` + 3: 0 any, 1 package, 2 die. -/
def Launch.aff (l : Launch) (j : Nat) : Nat := bitsAt (l.num 0x15 1) (2 * j) 2
/-- Cohorts of a group of field `j` + 3: the cohorts whose indices agree above it (R133). -/
def Launch.span (l : Launch) (j : Nat) : Nat := 2 ^ ((List.range (j + 1)).foldl (fun n i => n + l.num (0x12 + i) 1) 0)
/-- Cohorts of a unit (R314). -/
def Launch.unitSpan (l : Launch) : Nat :=
  match [2, 1, 0].find? (fun j => l.aff j != 0) with
  | some j => l.span j
  | none => 1
/-- The number of the group that shares a die with cohort `c`, if an affinity asks it (R133). -/
def Launch.dieGroup (l : Launch) (c : Nat) : Option Nat :=
  ([2, 1, 0].find? (fun j => l.aff j == 2)).map (fun j => c / l.span j)
/-- The first cohort from `c` on that runs on this package, or NCOH (R314). -/
def Launch.mineFrom (l : Launch) (c : Nat) : Nat :=
  let g := l.unitSpan
  let u := c / g
  let v := u + (l.prank + l.pcnt - u % l.pcnt) % l.pcnt
  min (if v = u then c else v * g) l.ncoh

/-! ### Submission and acceptance (R312, R313) -/

/-- Launches whose cohorts here are not all placed. -/
def State.queuedLaunches (s : State) : List Launch :=
  s.launches.filter (fun l => l.state == .queued || (l.state == .running && decide (l.nextCohort < l.ncoh)))

/-- A submission joins the launch queue, or is dropped when it is full (R313). -/
def State.submit (s : State) (c : CtxId) (recva : DWord) (prank pcnt : Nat) (ft0 ft1 : DWord) : State :=
  if 64 ≤ s.queuedLaunches.length then { s with submitDropped := true }
  else
    let l : Launch :=
      { id := s.nextId, ctx := c, recva := recva, prank := prank, pcnt := pcnt, ft0 := ft0, ft1 := ft1, ft2 := 0,
        state := .queued, bytes := [], ftl := 0, nextCohort := 0, result := 0, placedIx := 0, placedDie := 0, part2 := 0,
        part3 := 0, part4 := 0, part5 := 0 }
    { s.fresh1 with launches := s.launches ++ [l], submitDropped := false }

/-- LAUNCH_SUBMIT (R313). -/
def execLaunchSubmit (i : Submit) (s : State) : Host.Outcome State Fault Refusal :=
  .next (s.submit (i.ctrl.setWidth 12) i.recva (field i.ctrl 12 12) (field i.ctrl 24 12 + 1) i.ft0 i.ft1)

/-- The limit of a team's bytes: half a scratchpad for a context that only finds cores in split mode (R312). -/
def State.teamLimit (s : State) (c : CtxId) : Nat :=
  if ((s.withDesc c).ctx c).resident || (List.range 256).all (fun k => (s.core k).splitMode) then 0x40000 else 0x80000

/-- A bad schedule entry (R312): none, reserved bytes set, or out of range. -/
def State.entryCode (s : State) (l : Launch) (m e : Nat) : Nat :=
  let a := 0x140 + 0x200 * m + 64 * e
  let valid := l.num (a + 41) 1
  if l.num (a + 44) 20 ≠ 0 then 5
  else if valid = 0 then (if Tab.getRun 0 l.bytes a 44 = List.replicate 44 0 then 0 else 6)
  else if valid ≠ 1 ∨ l.num (a + 40) 1 = 0 ∨ 63 < l.num (a + 40) 1 ∨ (e ≠ 0 ∧ l.num (a - 64 + 41) 1 ≠ 1) then 6
  else match s.seqRead l (BitVec.ofNat 64 (l.num a 8)) 32 with
    | .bytes b => if layStatus (BitVec.ofNat 256 (natLE b)) = 0 then 0 else 6
    | _ => 6

/-- The layout images that the valid schedule entries of a record name. -/
def Launch.lrecs (l : Launch) : List DWord :=
  (List.range (min (l.num 0x2A 1) 8)).flatMap (fun m => ((List.range 8).filter (fun e =>
    l.num (0x140 + 0x200 * m + 64 * e + 41) 1 == 1)).map (fun e => BitVec.ofNat 64 (l.num (0x140 + 0x200 * m + 64 * e) 8)))

/-- The codes of the schedule entries of a record. -/
def State.entryCodes (s : State) (l : Launch) : List Nat :=
  (List.range (min (l.num 0x2A 1) 8)).flatMap (fun m => (List.range 8).map (fun e => s.entryCode l m e))

/-- The lowest refusal code of a record that has been read, or 0 (R312). -/
def State.refusal (s : State) (l : Launch) : Nat :=
  let a := l.num 0x10 1
  let b := l.num 0x11 1
  let xyz := l.num 0x12 1 + l.num 0x13 1 + l.num 0x14 1
  let lstk := l.num 0x2B 5
  let codes := s.entryCodes l
  let ftl := l.num 0x20 8
  if l.recva.toNat % 64 ≠ 0 ∨ l.entry.toNat % 32 ≠ 0 ∨ (s.seqTrans l.ctx wantX l.entry).isNone then 1
  else if 4 < a ∨ 4 < b ∨ 64 < 5 + a + b + xyz ∨ [0, 1, 2].any (fun j => l.aff j == 3) = true then 2
  else if l.ncoh = 0 ∨ 2 ^ xyz < l.ncoh ∨ 2 ^ a < l.warps ∨ 2 ^ b < l.teams then 3
  else if l.scratch % 4 ≠ 0 ∨ 128 < l.roc ∨ s.teamLimit l.ctx < l.scratch + 1024 * l.roc then 4
  else if l.num 0x15 1 / 64 ≠ 0 ∨ l.num 0x16 1 / 16 ≠ 0 ∨ l.num 0x17 1 / 16 ≠ 0 ∨ l.num 0x1E 1 ≠ 1 ∨ l.flags / 64 ≠ 0 ∨
      l.comb = 3 ∨ 4 < l.nsucc ∨ l.num 0x28 2 % 4 ≠ 0 ∨ (lstk ≠ 0 ∧ bitsAt lstk 0 36 = 0) ∨ codes.contains 5 = true then 5
  else if 8 < l.num 0x2A 1 ∨ codes.contains 6 = true then 6
  else if s.now.toNat < ftl ∨ (l.snapl ∧ ftl ≠ 0 ∧ ftl < s.rf.toNat) then 7 else 0

/-- A refused launch leaves; STATUS alone is written, where it can be (R312, R317). -/
def State.refuseLaunch (s : State) (l : Launch) (code : Nat) : State :=
  let s := { s with launches := s.launches.filter (fun x => x.id != l.id) }
  if s.seqWritable l.ctx (l.recva + 0x100) 64 then s.seqWrite s l.ctx (l.recva + 0x138) (bytesLE 8 (1 + code * 256)) else s

/-- The oldest launch submitted and not yet accepted is accepted or refused, once the bytes of its record and of its layout images that
lie on other packages are there. -/
def State.accept (s : State) (l : Launch) : State :=
  match s.readRecord l with
  | .no => s.refuseLaunch l 1
  | .ask ks => s.askLaunch l ks
  | .bytes b =>
    let l := { l with bytes := Tab.setRun 0 [] 0 b }
    let ks := l.lrecs.flatMap (fun a => (s.seqRead l a 32).keys)
    if ks ≠ [] then s.askLaunch l ks
    else
      let code := s.refusal l
      let s := (l.ranges (l.num 0x2A 1) ++ l.lrecs.map (fun a => (a, 32))).foldl (fun (s : State) (x : DWord × Nat) => s.seqTouch l.ctx x.1 x.2) s
      if code ≠ 0 then s.refuseLaunch l code
      else
        let ftl := if l.num 0x20 8 = 0 then s.now else BitVec.ofNat 64 (l.num 0x20 8)
        let l := { l with state := .running, ftl := ftl, ft2 := s.now, nextCohort := l.mineFrom 0, got := [] }
        { s with launches := s.launches.map (fun (x : Launch) => if x.id = l.id then l else x) }

/-- LAUNCH_ACCEPT (R311, R312). -/
def execLaunchAccept (s : State) : Host.Outcome State Fault Refusal :=
  match s.launches.find? (fun l => l.state == .queued) with
  | none => .next s
  | some l => .next (s.accept l)

/-! ### Placement (R315) -/

/-- What a context may use of a core: first and past last slot, first and past last scratchpad byte, tenant (R18, R340). -/
structure Share where
  slot0 : Nat
  slot1 : Nat
  pad0 : Nat
  pad1 : Nat
  tenant : Nat
deriving DecidableEq, Repr

/-- The share of a context on a core, if it has one. -/
def State.share (s : State) (c : CtxId) (core : Nat) : Option Share :=
  let x := s.core core
  if (s.ctx c).resident then
    if x.splitMode ∧ x.split.extractLsb' 32 12 = c then some ⟨8, 16, 0x40000, 0x80000, 1⟩ else none
  else if x.splitMode then some ⟨0, 8, 0, 0x40000, 0⟩ else some ⟨0, 16, 0, 0x80000, 0⟩

/-- The teams of a core. -/
def State.teamsOn (s : State) (core : Nat) : List (Nat × Team) :=
  s.teams.filter (fun e => coreOf e.1 == core && e.2.used)

/-- The free slots of a share, ascending: those whose last warp has retired (R131, R134). -/
def State.freeSlots (s : State) (core : Nat) (h : Share) : List Nat :=
  (List.range 16).filter (fun n => decide (h.slot0 ≤ n) && decide (n < h.slot1) && (s.warp (core * 16 + n)).stat == .free)

/-- The key that a team with some slots of a share of a core takes: its lowest slot's, or, while an older team of that slot goes on, the
lowest of the share that no team has (R334; log entry 29). -/
def State.teamKey (s : State) (core : Nat) (h : Share) (slots : List Nat) : Option Nat :=
  ((slots.headD 0 :: (List.range 16).filter (fun n => decide (h.slot0 ≤ n) && decide (n < h.slot1))).map
    (fun n => core * 16 + n)).find? (fun k => !(s.team k).used)

/-- The lowest run of `n` free scratchpad bytes of a share. -/
def State.freePad (s : State) (core : Nat) (h : Share) (n : Nat) : Option Nat :=
  let used := ((s.teamsOn core).map (fun e => (e.2.base, e.2.base + e.2.size + 1024 * e.2.roc))).filter (fun u => u.1 != u.2)
  (ascending (h.pad0 :: used.map (·.2))).find? (fun a => decide (h.pad0 ≤ a) && decide (a + n ≤ h.pad1) &&
    used.all (fun u => decide (u.2 ≤ a) || decide (a + n ≤ u.1)))

/-- The slots, the scratchpad base and the key of a team of a launch on a core, if it fits. -/
def State.fit (s : State) (l : Launch) (core : Nat) : Option (Share × List Nat × Nat × Nat) :=
  (s.share l.ctx core).bind (fun h =>
    let slots := (s.freeSlots core h).take l.warps
    if slots.length < l.warps then none
    else match s.freePad core h (l.scratch + 1024 * l.roc), s.teamKey core h slots with
      | some b, some k => some (h, slots, b, k)
      | _, _ => none)

/-- Whether a core may hold one more team 0 of a context (R335). -/
def State.headRoom (s : State) (c : CtxId) (core : Nat) : Bool :=
  decide (((s.teamsOn core).filter (fun e => e.2.ctx == c && e.2.index == 0)).length <
    if (s.core core).splitMode then 2 else 4)

/-- The cores of a grove that a cohort takes, team 0 first (R315). -/
def State.coresIn (s : State) (l : Launch) (grove : Nat) : Option (List Nat) :=
  let fits := ((List.range 16).map (fun i => grove * 16 + i)).filter (fun k => (s.fit l k).isSome)
  let fits := fits.dropWhile (fun k => !s.headRoom l.ctx k)
  if l.teams ≤ fits.length then some (fits.take l.teams) else none

/-- The lowest 16 free barrier objects of a grove in the context's half (R336). -/
def State.freeObjects (s : State) (c : CtxId) (grove : Nat) : Option Nat :=
  let lo := if (s.ctx c).resident then 128 else 0
  ((List.range 8).map (fun b => lo + 16 * b)).find? (fun b =>
    s.cohorts.all (fun e => !(e.2.used && e.2.grove == grove && e.2.objects == b)))

/-- The grove, cores and barrier objects for the next cohort of a launch: the lowest die that its affinity allows, then the
lowest grove, then the lowest cores (R315). A launch with a snapshot needs a table entry on the die (R296). -/
def State.home (s : State) (l : Launch) : Option (Nat × List Nat × Nat) :=
  let c := l.nextCohort
  let bound := match l.dieGroup c with
    | some g => l.placedIx != 0 && l.dieGroup (l.placedIx - 1) == some g
    | none => false
  let groves := (List.range 16).filter (fun g =>
    (!bound || g / 4 == l.placedDie) && (!l.snapl || (s.snapPlace (g / 4) l.ctx l.ftl).isSome))
  (groves.filterMap (fun g => match s.coresIn l g, s.freeObjects l.ctx g with
    | some ks, some o => some (g, ks, o)
    | _, _ => none)).head?

/-- A warp at its creation (R61, R73, R91, R132). -/
def Launch.newWarp (l : Launch) (core slot index team : Nat) (key : Nat) (snapIx : Option (Nat × Nat)) : Warp :=
  let lstk := l.num 0x2B 5
  let pool := bitsAt lstk 0 36 * 4096
  let z := 2 ^ (lstk / 2 ^ 36 + 13)
  let area := pool + (16 * core + slot) * z
  let args : Tab DWord := (List.range 14).foldl (fun t k =>
    if (l.num 0x28 2).testBit (k + 2) then Tab.set 0 t (k + 2) (BitVec.ofNat 64 (l.num (0x30 + 8 * k) 8)) else t) []
  { stat := .ready, pc := l.entry, cj := 0xFFFFFFFFFFFFFFFF, em := 0xFFFFFFFF, snap := if l.snapl then l.ftl else 0,
    snapIx := snapIx, widBase := l.widBase index team (BitVec.ofNat 64 l.nextCohort),
    sregs := if pool = 0 then args else Tab.set 0 args 0 (BitVec.ofNat 64 (area + z - 8192)),
    lstackLimit := if pool = 0 then 0
      else BitVec.ofNat 64 (1 + area / 4096 % 2 ^ 36 * 2 ^ 12 + lstk / 2 ^ 36 * 2 ^ 48),
    sr := tabOf 0 32 (fun i => 0x5EED0001 + BitVec.ofNat 32 i), team := key, index := index, ctx := l.ctx }

/-- A barrier object at its creation, for `n` warps (R201). -/
def Barrier.fresh (n : Nat) : Barrier := { valid := true, expect := BitVec.ofNat 16 n, pend := BitVec.ofNat 16 n }

/-- Team `j` of cohort `coh` placed on a core (R131, R171, R315). -/
def State.placeTeam (s : State) (l : Launch) (coh : Nat) (j core : Nat) : State × Nat :=
  match s.fit l core with
  | none => (s, 0)
  | some (h, slots, base, key) =>
    let x := s.core core
    let mask : BitVec 16 := slots.foldl (fun m n => m ||| (1 <<< n)) 0
    let inside := fun (a : Nat) => decide (base ≤ a) && decide (a < base + l.scratch)
    let t : Team :=
      { used := true, slots := mask, index := j, base := base, size := l.scratch,
        roc := l.roc, feTimeout := 0, lrec := l.recva, cohIx := BitVec.ofNat 64 l.nextCohort, cohort := coh, launch := l.id,
        ctx := l.ctx, tenant := h.tenant, warps := l.warps, bars := tabOf {} 16 (fun _ => Barrier.fresh l.warps),
        rocLines := [] }
    let s := s.setCore core { x with scratch := Tab.drop inside x.scratch, full := Tab.drop (fun w => inside (4 * w)) x.full }
    let s := (s.teamsOn core).foldl (fun (s : State) e => s.setTeam e.1 { e.2 with slots := e.2.slots &&& ~~~mask }) s
    let s := s.setTeam key t
    let die := dieOf core
    (slots.zipIdx.foldl (fun (s : State) e =>
      let ix := if l.snapl then (s.snapPlace die l.ctx l.ftl).map (fun i => (die, i)) else none
      let s := match ix with
        | some (d, i) => s.shareSnap d l.ctx l.ftl i
        | none => s
      s.setWarp (core * 16 + e.1) (l.newWarp core e.1 e.2 j key ix)) s, key)

/-- The next cohort of a launch placed where it fits. Its warps synchronise with a completion write, so the die keeps no copy of the
context (R318, R370). -/
def State.placeCohort (s : State) (l : Launch) (grove : Nat) (cores : List Nat) (objects : Nat) : State :=
  let id := s.nextId
  let r := cores.zipIdx.foldl (fun (a : State × List Nat) e =>
    let p := a.1.placeTeam l id e.2 e.1
    (p.1, a.2 ++ [p.2])) (s.fresh1.dropCopies l.ctx (grove / 4) true, [])
  let t := r.1.setCohort id
    { used := true, ctx := l.ctx, launch := l.id, index := BitVec.ofNat 64 l.nextCohort, grove := grove, teams := r.2,
      objects := objects, bars := tabOf {} 16 (fun _ => Barrier.fresh (l.teams * l.warps)) }
  let next := { l with placedIx := l.nextCohort + 1, placedDie := grove / 4, nextCohort := l.mineFrom (l.nextCohort + 1) }
  { t with launches := t.launches.map (fun x => if x.id = l.id then next else x) }

/-- COHORT_PLACEMENT for launch `i`: its context runs, no earlier launch of it or of another running context has a cohort unplaced, the
sequencer's writes for the context have performed, and the cohort fits (R313, R315, R318). -/
def execCohortPlacement (i : Nat) (s : State) : Host.Outcome State Fault Refusal :=
  match s.launches.find? (fun l => l.id == i) with
  | none => .next s
  | some l =>
    let earlier := (s.launches.takeWhile (fun x => x.id != i)).any (fun x =>
      (x.ctx == l.ctx || (s.ctx x.ctx).state == .running) &&
        (x.state == .queued || (x.state == .running && decide (x.nextCohort < x.ncoh)))) ||
      s.remotes.any (fun r => r.warp == seqWarp && r.ctx == l.ctx)
    if l.state ≠ .running ∨ l.ncoh ≤ l.nextCohort ∨ earlier = true ∨ (s.ctx l.ctx).state ≠ .running then .next s
    else match s.home l with
      | none => .next s
      | some (g, ks, o) => .next (s.placeCohort l g ks o)

/-! ### POSTW (R316) -/

/-- The three rules of COMB. -/
def combine (comb : Nat) (a b : DWord) : DWord :=
  match comb with
  | 0 => a ||| b
  | 1 => if a.toNat < b.toNat then b else a
  | _ => a + b

/-- POSTW (R316). -/
def execPostw (i : HA) (s : State) : Host.Outcome State Fault Refusal :=
  if !s.w.any i.h then .next (s.retire 8 i.h.sw)
  else
    let id := s.myTeam.launch
    let v := s.w.s i.a.toNat
    .next ({ s with launches := s.launches.map (fun (l : Launch) =>
      if l.id = id then { l with result := combine l.comb l.result v } else l) }.retire 8 i.h.sw)

/-! ### EXIT and retirement (R134, R149) -/

/-- Outstanding register writes of lanes `x` discarded (R149). -/
def Warp.dropLanes (w : Warp) (x : Mask) : Warp :=
  let ps := w.pending.map (fun (p : Pending) => match p.kind with
    | .value v sc => { p with kind := PendKind.value (v.filter (fun e => !x.getLsbD (e.1 % 32))) sc }
    | .remote .. => { p with lanes := p.lanes &&& ~~~x }
    | .atomr .. => { p with lanes := p.lanes &&& ~~~x }
    | .accrd _ => { p with lanes := p.lanes &&& ~~~x }
    | .ldred d sz sreg word eas em tag => { p with kind := PendKind.ldred d sz sreg word eas (em &&& ~~~x) tag }
    | .fill .. => p
    | .hrec .. => p
    | .entry .. => p
    | .copy .. => p
    | .stmc _ => p
    | .held => { p with lanes := p.lanes &&& ~~~x })
  { w with pending := ps.filter (fun p => p.lanes != 0) }

/-- EXIT (R149). In trap mode it is refused (R381). -/
def execExit (i : Hdr) (s : State) : Host.Outcome State Fault Refusal :=
  if s.w.trapMode then .next (s.precise 0x191 s.w.em s.noAddr)
  else
    let x := s.w.parts i
    let t := s.upd (fun w =>
      ({ (w.dropLanes x) with exited := w.exited ||| x, em := w.em &&& ~~~x } : Warp).retire 8 i.sw)
    if t.w.em = 0 ∧ t.w.depth = 0 then
      .next (t.upd (fun w => { w with stat := .retiring, reason := 0 })).retireMember
    else .next t

/-- Whether some copy that warp `k` issued or pushed has not started (R134). -/
def State.copiesQueued (s : State) (k : Nat) : Bool :=
  [4, 5].any (fun p => (s.port (coreOf k) p).queue.any (fun c => c.copyOf (slotOf k)))

/-- The guards of the commands that a warp leaves behind take the values that its slots hold (R247). -/
def Cmd.orphan (c : Cmd) (slot : Nat) (w : Warp) : Cmd :=
  match c.guard with
  | none => { c with gone := c.gone || c.slot == slot }
  | some g =>
    let c := { c with gone := c.gone || c.slot == slot }
    if c.slot ≠ slot then c
    else if Tab.get (0 : BitVec 2) w.guards g.toNat = 1 then { c with guard := none } else { c with dead := true }

/-- Warp `k` is Retired: its transaction ends, its snapshot entry is released, and its slot is empty (R296, R300). -/
def State.retireWarp (s : State) (k : Nat) : State :=
  let w := s.warp k
  let s := if w.inTx then
      (s.dropTentative (ownerOf w.ctx k)).at k (fun s => s.endTx .aborted (if w.txState = .active then 7 else w.txCode))
    else s
  let s := (s.at k (fun s => s.releaseSnap)).leavePool (ownerOf w.ctx k)
  let c := s.core (coreOf k)
  let s := s.setCore (coreOf k) { c with ports := Tab.map (fun _ (x : Port) =>
    { x with queue := x.queue.map (fun c => c.orphan (slotOf k) w)
             exec := x.exec.map (fun c => { c with gone := c.gone || c.slot == slotOf k }) }) c.ports }
  s.setWarp k {}

/-- WARP_RETIRE of warp `i` (R134): a wait for held-list room first ends (R284). -/
def execWarpRetire (i : Nat) (s : State) : Host.Outcome State Fault Refusal :=
  let s := if (s.warp i).stat = .retiring ∧ (s.warp i).reason = 12 then s.at i State.retireMember else s
  let w := s.warp i
  if w.stat = .retiring ∧ w.reason = 0 ∧ w.pending = [] ∧ s.openOps i = [] ∧ s.copiesQueued i = false then
    .next (s.retireWarp i)
  else .next s

/-! ### Groups that have ended (R135) -/

/-- Whether the last warp of team `k` has retired and every copy of the group has completed. -/
def State.teamOver (s : State) (k : Nat) (t : Team) : Bool :=
  let core := coreOf k
  (List.range 16).all (fun n => (s.warp (core * 16 + n)).stat == .free || (s.warp (core * 16 + n)).team != k) &&
    [4, 5].all (fun p => (s.port core p).all.all (fun c => c.team != k)) &&
    s.lateCopies.all (fun l => !(l.ctx == t.ctx && l.team == k)) &&
    s.regions.all (fun e => e.2.anchor != k || e.2.held.isEmpty)

/-- Bands and records of a team become Releasing (R214, R219). -/
def Core.releaseAll (c : Core) (owner : Nat) : Core :=
  let c := (List.range 4).foldl (fun (c : Core) b =>
    if (c.band b).state = .held ∧ (c.band b).owner = owner then c.setBand b { c.band b with state := .releasing } else c) c
  let c := (List.range 32).foldl (fun (c : Core) n =>
    if (c.resvAt n).state = .held ∧ (c.resvAt n).owner = owner then c.setResv n { c.resvAt n with state := .releasing }
    else c) c
  c.settle

/-- Regions that `f` names become Free. -/
def State.freeRegions (s : State) (f : Region → Bool) : State :=
  { s with regions := s.regions.filter (fun e => !f e.2) }

/-- Team `k` is Retired. Team 0 keeps its entry until the cohort is, whose objects and regions are named by it. -/
def State.retireTeam (s : State) (k : Nat) (t : Team) : State :=
  let s := s.setCore (coreOf k) ((s.core (coreOf k)).releaseAll (slotOf k))
  let s := s.freeRegions (fun r => r.anchor == k && !r.coh)
  if t.index = 0 then s.setTeam k { t with warps := 0, slots := 0, size := 0, roc := 0, rocLines := [], bars := [] } else s.setTeam k {}

/-- Cohort `id` is Retired: its barrier objects and regions are free. -/
def State.retireCohort (s : State) (id : Nat) (c : Cohort) : State :=
  let head := c.teams.headD 0
  ((s.freeRegions (fun r => r.anchor == head && r.coh)).setTeam head {}).setCohort id {}

/-- Every team, then every cohort, that has ended is Retired (R135). -/
def State.settleGroups (s : State) : State :=
  let s := s.teams.foldl (fun (s : State) e =>
    if e.2.used && e.2.warps != 0 && s.teamOver e.1 e.2 then s.retireTeam e.1 e.2 else s) s
  s.cohorts.foldl (fun (s : State) e =>
    if e.2.used && e.2.teams.all (fun k => !((s.team k).used && (s.team k).cohort == e.1 && (s.team k).warps != 0)) then
      s.retireCohort e.1 e.2
    else s) s

/-! ### The parts of a launch's time (R319) -/

/-- The part, 2 to 5, in which the present moment of an accepted launch counts. -/
def State.partOf (s : State) (l : Launch) : Nat :=
  let ws := (s.warps.filter (fun e => e.2.stat != WStat.free && (s.team e.2.team).launch == l.id)).map (·.2)
  let sysc := fun (w : Warp) => decide (20 ≤ w.reason) && decide (w.reason ≤ 22)
  let asked := fun (w : Warp) => w.stat == .replayable && w.records.any (fun i => s.faultHeld.all (fun r => r.id != i))
  let io := fun (w : Warp) => decide (0x8000 ≤ w.service.toNat)
  if l.placedIx = 0 ∨ ((s.ctx l.ctx).state ≠ .running ∧ (s.ctx l.ctx).state ≠ .stopped) then 2
  else if ws ≠ [] ∧ ws.all (fun w => sysc w && io w) = true then 4
  else if ws ≠ [] ∧ ws.all (fun w => asked w || (sysc w && !io w)) = true then 3
  else 5

/-- `n` nanoseconds of a launch counted. -/
def State.countNs (s : State) (n : Nat) (l : Launch) : Launch :=
  if l.state = .queued then l
  else match s.partOf l with
    | 2 => { l with part2 := l.part2 + n }
    | 3 => { l with part3 := l.part3 + n }
    | 4 => { l with part4 := l.part4 + n }
    | _ => { l with part5 := l.part5 + n }

/-- `n` nanoseconds of fabric time pass (R320, R319). -/
def State.advanceTime (s : State) (n : Nat) : State :=
  { s with ft := s.now + BitVec.ofNat 64 (n * 64), launches := s.launches.map (fun l => s.countNs n l) }

/-! ### Completion (R317, R318) -/

/-- Nanoseconds between two times. -/
def nsOf (a b : DWord) : Nat := (b - a).toNat / 64

/-- Whether the image of a launch's context holds a team of it (R334). -/
def State.imageBusy (s : State) (l : Launch) : Bool :=
  s.headerValid l.ctx && (List.range 256).any (fun k =>
    s.savedOn l.ctx k && (s.num (s.areaOf l.ctx + 0x100 + 8 * k) 8).testBit 16 && (List.range 16).any (fun n =>
      (s.num (s.teamEntry l.ctx k n + 3) 1).testBit 0 && s.dword (s.teamEntry l.ctx k n + 16) == l.recva))

/-- Whether every cohort of a launch on this package has retired, and every access of it has performed (R317, R318). -/
def State.launchOver (s : State) (l : Launch) : Bool :=
  decide (l.ncoh ≤ l.nextCohort) && !s.imageBusy l && s.cohorts.all (fun e => !(e.2.used && e.2.launch == l.id)) &&
    s.remotes.all (fun r => r.warp == seqWarp || r.launch != l.id)

/-- Whether a frame holds rank `r`'s RESULT of a launch. -/
def State.isResult (s : State) (l : Launch) (r : Nat) (f : ResultFrame) : Bool :=
  f.ctx == l.ctx && f.gen == s.genNow l.ctx && f.recva == l.recva && f.rank == r
/-- RESULT of another rank, if its frame has come. -/
def State.rankResult (s : State) (l : Launch) (r : Nat) : Option DWord := (s.frames.find? (s.isResult l r)).map (·.result)

/-- The ranks of a launch other than this package's. -/
def Launch.otherRanks (l : Launch) : List Nat := (List.range l.pcnt).filter (fun r => r != l.prank)

/-- The first successor whose range holds the result (R318). -/
def Launch.successor (l : Launch) (r : DWord) : Option Nat :=
  (List.range (min l.nsucc 4)).find? (fun j =>
    decide (l.num (0xA0 + 24 * j) 8 ≤ r.toNat) && decide (r.toNat ≤ l.num (0xA8 + 24 * j) 8))

/-- The completion block written, STATUS last, the instruction caches without the launch's lines (R140), and the successor submitted. -/
def State.finishLaunch (s : State) (l : Launch) (r : DWord) : State :=
  let fin := s.now
  let succ := l.successor r
  let status := 1 + (match succ with
    | some j => 4 + 8 * j
    | none => 0)
  let block := bytesLE 8 r.toNat ++ bytesLE 8 (nsOf l.ft0 l.ft1) ++ bytesLE 8 (nsOf l.ft1 l.ft2 + l.part2) ++
    bytesLE 8 l.part3 ++ bytesLE 8 l.part4 ++ bytesLE 8 l.part5 ++ bytesLE 8 fin.toNat
  let t := if s.seqWritable l.ctx (l.recva + 0x100) 64 then
      (s.seqWrite s l.ctx (l.recva + 0x100) block).seqWrite s l.ctx (l.recva + 0x138) (bytesLE 8 status)
    else s
  let t := { t with
    cores := Tab.map (fun _ (x : Core) => { x with icache := x.icache.filter (fun e => e.2.1 != l.id) }) t.cores
    launches := t.launches.filter (fun x => x.id != l.id)
    frames := l.otherRanks.foldl (fun fs k => match fs.findIdx? (t.isResult l k) with
      | some i => fs.eraseIdx i
      | none => fs) t.frames }
  match succ with
  | none => t
  | some j => t.submit l.ctx (BitVec.ofNat 64 (l.num (0xB0 + 24 * j) 8)) l.prank l.pcnt fin fin

/-- A launch that has ended here tells the other packages its RESULT, once. -/
def State.sendResult (s : State) (l : Launch) : State :=
  let peers := if l.pcnt ≤ 1 then [] else s.clearing.filter (fun p => p != s.peer)
  { s with
    out := s.out ++ peers.map (fun p =>
      ⟨p, l.ctx, s.genNow l.ctx, none, false, 0, .result l.recva l.prank l.result, none⟩)
    launches := s.launches.map (fun (x : Launch) => if x.id = l.id then { x with state := .ended } else x) }

/-- LAUNCH_COMPLETE of launch `i`: it has ended on this package, and completes when every rank's RESULT is here (R317). -/
def execLaunchComplete (i : Nat) (s : State) : Host.Outcome State Fault Refusal :=
  match s.launches.find? (fun l => l.id == i) with
  | none => .next s
  | some l =>
    if l.state = .queued ∨ s.launchOver l = false then .next s
    else
      let t := if l.state = .running then s.sendResult l else s
      if l.otherRanks.all (fun r => (t.rankResult l r).isSome) then
        let r := l.otherRanks.foldl (fun v k => combine l.comb v ((t.rankResult l k).getD 0)) l.result
        .next (t.finishLaunch l r)
      else .next t

/-- RESULT_EXCHANGE_FRAME (R317). -/
def execResultExchangeFrame (i : ResultFrame) (s : State) : Host.Outcome State Fault Refusal :=
  .next { s with frames := s.frames ++ [i] }

end Sys2Proof.Machine
end

