-- ==== Sys2Proof/Machine/Save.lean ====
section
/-! DEFINITION. Saving a context: the drain and the core records of the save area (18_context.md R328 to R336, 12_matrix.md
R236, 13_queue.md R255, 14_copy.md R272, R273, 15_stage.md R289). -/

namespace Sys2Proof.Machine

/-! ### What of a core a switch concerns (R18, R340) -/

/-- The whole core, or one tenant's half. -/
inductive Half where
  | whole | lower | upper
deriving DecidableEq, Repr

/-- Whether item `n` of `size` belongs to a half. -/
def Half.has (h : Half) (n size : Nat) : Bool :=
  match h with
  | .whole => decide (n < size)
  | .lower => decide (n < size / 2)
  | .upper => decide (size / 2 ≤ n) && decide (n < size)
/-- Whether a command port belongs to a half. -/
def Half.port (h : Half) (p : Nat) : Bool := if p < 4 then h.has p 4 else h.has (p - 4) 2
/-- Ranges of a record beyond the warps' parts that belong to a half: first and past last offset (R332, R334, R335). -/
def Half.spans : Half → List (Nat × Nat)
  | .whole => [(0x88000, 0x128000)]
  | .lower => [(0x88000, 0xC8000), (0x108000, 0x10A000), (0x10C000, 0x114000), (0x11C000, 0x11C100), (0x11C200, 0x11C210),
      (0x11C220, 0x11C230), (0x11C240, 0x11C248), (0x11C250, 0x11C500), (0x11C780, 0x11CA00), (0x11CC80, 0x11CCC0),
      (0x11CD00, 0x11D500), (0x11DD00, 0x11DE00), (0x11DF00, 0x11DF48), (0x11DF90, 0x122000), (0x126000, 0x126800),
      (0x127000, 0x127200), (0x127400, 0x127900), (0x127E00, 0x127E10), (0x127E20, 0x128000)]
  | .upper => [(0xC8000, 0x108000), (0x10A000, 0x10C000), (0x114000, 0x11C000), (0x11C100, 0x11C200), (0x11C210, 0x11C220),
      (0x11C230, 0x11C240), (0x11C248, 0x11C250), (0x11C500, 0x11C780), (0x11CA00, 0x11CC80), (0x11CCC0, 0x11CD00),
      (0x11D500, 0x11DD00), (0x11DE00, 0x11DF00), (0x11DF48, 0x11DF90), (0x122000, 0x126000), (0x126800, 0x127000),
      (0x127200, 0x127400), (0x127900, 0x127E00), (0x127E10, 0x127E20)]

/-- The part of core `k` that serves context `c`. -/
def State.halfOf (s : State) (c : CtxId) (k : Nat) : Option Half :=
  let x := s.core k
  if (s.ctx c).resident then (if x.splitMode ∧ x.split.extractLsb' 32 12 = c then some .upper else none)
  else some (if x.splitMode then .lower else .whole)
/-- The cores that serve context `c`, with the parts. -/
def State.servers (s : State) (c : CtxId) : List (Nat × Half) :=
  (List.range 256).filterMap (fun k => (s.halfOf c k).map (fun h => (k, h)))
/-- The warp slots of a half. -/
def Half.slots (h : Half) : List Nat := (List.range 16).filter (fun n => h.has n 16)
/-- Slots of a half in use, as CORESUM shows them. -/
def State.usedSlots (s : State) (k : Nat) (h : Half) : Nat :=
  h.slots.foldl (fun m n => if (s.warp (k * 16 + n)).stat = .free then m else m + 2 ^ n) 0

/-! ### The drain (R328, R329) -/

/-- Nothing of a warp remains that must complete before the save: every result has returned but remote loads (R329) and what the
save records (R17). -/
def Warp.drained (w : Warp) : Bool :=
  w.txWait.isNone && w.promotes.isEmpty && w.pending.all (fun p => match p.kind with
    | .value .. => false
    | .hrec .. => false
    | .entry .. => false
    | .remote .. => true
    | .fill .. => true
    | .atomr .. => true
    | .copy .. => true
    | .accrd .. => true
    | .ldred .. => true
    | .stmc _ => true
    | .held => true)
/-- The memory instructions that the core holds for warp `k` stand behind band commands which the save records (R199, R255). -/
def State.deferredStuck (s : State) (k : Nat) : Bool :=
  match (s.warp k).deferred with
  | [] => true
  | d :: _ => ((s.core (coreOf k)).bandIds (slotOf k)).any (fun i => d.bands.contains i)
/-- No band command of a port can go on: its head waits for a guard, a release, room in its result port, or an earlier command. -/
def State.portDrained (s : State) (k p : Nat) : Bool :=
  let x := s.port k p
  x.exec.isNone && (match x.queue with
    | [] => true
    | c :: _ => s.isHeld k x c || s.resultFull k p c || s.headWaits k c)
/-- The issued work of a half has completed, or stands where the save records it. -/
def State.drained (s : State) (k : Nat) (h : Half) : Bool :=
  h.slots.all (fun n => (s.warp (k * 16 + n)).drained && s.deferredStuck (k * 16 + n)) &&
    ((List.range 4).filter (fun p => h.has p 4)).all (fun p => s.portDrained k p)

/-! ### Warps -/

/-- A long result that the reissue record takes (R329, R333). -/
def Pending.reissue (p : Pending) : Option (DWord × Mask × Tab DWord) :=
  match p.kind with
  | .remote _ _ _ w0 eas _ _ _ _ _ => some (w0, p.lanes, eas)
  | .fill _ w0 ea _ _ _ _ => some (w0, fullMask, Tab.set 0 [] 0 ea)
  | _ => none
/-- The tag of a request whose answer a pending result awaits. -/
def Pending.tag (p : Pending) : Option Nat :=
  match p.kind with
  | .remote _ _ _ _ _ _ _ _ _ tag => some tag
  | .fill _ _ _ _ _ _ tag => some tag
  | .hrec _ _ _ _ tag => some tag
  | .entry _ _ _ tag => some tag
  | .atomr _ _ tag => some tag
  | .ldred _ _ _ _ _ _ tag => some tag
  | .value .. => none
  | .copy .. => none
  | .accrd _ => none
  | .stmc _ => none
  | .held => none

/-- A warp as it is saved: the lanes of a remote load become its reissue record. -/
def Warp.saved (w : Warp) : Warp :=
  let r := (w.pending.filterMap Pending.reissue).head?
  { w with reissue := if r.isSome then r else w.reissue }

/-- Stack entries, the deepest of them first at depth `d`, written to the spill area of the executing warp. -/
def State.spillUp (s : State) : Nat → List StackEntry → Except PathErr State
  | _, [] => .ok s
  | d, e :: es => match s.spillEntry d e with
    | .error x => .error x
    | .ok t => State.spillUp t (d + 1) es

/-- The hardware stack of warp `k` is written to its spill area (R333); what finds no place stays with the warp. -/
def State.spillStack (s : State) (k : Nat) : State × List StackEntry :=
  let w := s.warp k
  if w.lstackLimit.getLsbD 0 then
    match ({ s with cur := k }.setWarp k { w with fence := {} }).spillUp (w.depth - w.stack.length) w.stack.reverse with
    | .ok t => ({ t.setWarp k { t.warp k with fence := w.fence, watch := w.watch, counted := w.counted } with cur := s.cur }, [])
    | .error _ => (s, w.stack)
  else (s, w.stack)

/-- Results of the fabric that a saved warp still waits for (R186, R366). -/
def Pending.late (p : Pending) : Bool :=
  match p.kind with
  | .atomr .. => true
  | .ldred .. => true
  | .stmc _ => true
  | _ => false

/-- Warp `k` of context `c` is written to its image, and its slot is empty. -/
def State.saveWarp (s : State) (c : CtxId) (k : Nat) : State :=
  let r := s.spillStack k
  let w := (r.1.warp k).saved
  let t := r.1.putBlock (r.1.wcbAddr c k) (w.block.filter (fun f => f.2.2 != 0))
  let t := t.putCells (t.vregAddr c k 0 0) (bytesOf 4 (natTab w.vregs))
  let kept : KeptWarp :=
    { ctx := c, key := k, waited := w.waited, limit := w.limit, marked := w.marked, stg := w.stg, batches := w.batches,
      openCopies := w.openCopies, stack := r.2, waitPort := w.waitPort, skipBreak := w.skipBreak, fence := w.fence,
      relFence := w.relFence, stored := w.stored, counted := w.counted, ownWatch := if w.trapMode then w.watch else none,
      service := w.service, waitBand := w.waitBand, index := w.index, snapWait := w.snapWait
      deferred := w.deferred.map (fun d => { d with pins := [] }), heldRes := w.pending.filter (fun p => p.kind == .held) }
  let cut := w.pending.filter (fun p => p.reissue.isSome)
  let t := { t with keptWarps := t.keptWarps ++ [kept]
                    cutOff := t.cutOff ++ (cut.filterMap Pending.tag).map (fun n => (n, c, (t.ctx c).gen))
                    lateRes := t.lateRes ++ (List.filter Pending.late w.pending).map (fun p => (⟨c, (t.ctx c).gen, k, p⟩ : LateRes)) }
  (t.leavePool (ownerOf c k)).setWarp k {}

/-! ### Ports (R255, R272, R273) -/

/-- A copy at a switch: a part whose read requests have gone out counts as written, and its responses become late. -/
def Port.partOut (x : Port) (core : Nat) (c : CtxId) (gen : BitVec 16) : Port × List LateCopy :=
  match x.exec, x.prog.remote with
  | some cmd, some r => match cmd.body with
    | .copy q =>
      let n := r.elems * layElem x.prog.layout
      ({ x with prog := { x.prog with done := x.prog.done + r.elems, bytes := x.prog.bytes + n, remote := none } },
       [⟨r.tag, c, gen, core, cmd.slot, q.bar, q.dir == .g2o, r.dests, n, cmd.id, cmd.team⟩])
    | _ => (x, [])
  | _, _ => (x, [])

/-- Record offset of the queue image of a port. -/
def queueAt (p : Nat) : Nat := if p < 4 then 0x11C280 + 0x140 * p else 0x11C780 + 0x280 * (p - 4)

/-- The fields of a port in a core record: offset, bytes, value (R334). -/
def Port.fields (x : Port) (p : Nat) (results : List (List Word)) : List (Nat × Nat × Nat) :=
  [(0x11C220 + 8 * p, 8, x.rels.toNat + bit01 x.relovf * 2 ^ 8 + x.queue.length * 2 ^ 16 + results.length * 2 ^ 24)] ++
  x.queue.zipIdx.map (fun e => (queueAt p + 20 * e.2, 20, e.1.image p)) ++
  (if p < 4 then results.zipIdx.map (fun e => (0x11CD00 + 0x400 * p + 128 * e.2, 128, packBits 32 (e.1.map (·.toNat))))
   else [(0x11CC80 + 0x40 * (p - 4), 64, match x.exec with
      | some c => match c.body with
        | .copy q => progImage c q x.prog
        | _ => 0
      | none => 0)])

/-! ### The record of one core -/

/-- The teams of a context on a core, by lowest slot. -/
def State.teamsOf (s : State) (c : CtxId) (k : Nat) : List (Nat × Team) :=
  (s.teamsOn k).filter (fun e => e.2.ctx == c)
/-- The 32 bytes of a team table entry (R334). -/
def Team.image (t : Team) : Nat :=
  t.slots.toNat + t.index * 2 ^ 16 + 2 ^ 24 + t.base * 2 ^ 32 + t.size * 2 ^ 64 + t.roc * 2 ^ 96 +
    t.feTimeout.toNat * 2 ^ 112 + t.lrec.toNat * 2 ^ 128 + t.cohIx.toNat * 2 ^ 192
/-- The cohorts of a context whose team 0 is on a core. -/
def State.cohortsOf (s : State) (c : CtxId) (k : Nat) : List (Nat × Cohort) :=
  s.cohorts.filter (fun e => e.2.used && e.2.ctx == c && coreOf (e.2.teams.headD 4096) == k)
/-- The regions of a context that a core anchors. -/
def State.regionsOf (s : State) (c : CtxId) (k : Nat) : List (Nat × Region) :=
  s.regions.filter (fun e => e.2.state != .free && coreOf e.2.anchor == k && (s.team e.2.anchor).ctx == c)
/-- The first place of a half in the stage and barrier images (R335). -/
def Half.place : Half → Nat
  | .upper => 2
  | .whole => 0
  | .lower => 0
/-- The fields of a region at a place (R335). -/
def Region.fields (r : Region) (place number : Nat) : List (Nat × Nat × Nat) :=
  let a := 0x127400 + 0x280 * place
  [(a, 32, r.image)] ++ (List.range 64).map (fun i => (a + 0x20 + 8 * i, 8, (Tab.get {} r.slots i).image)) ++
  r.heldImage.zipIdx.map (fun e => (a + 0x220 + 4 * e.2, 4, e.1)) ++ [(a + 0x260, 4, number % 64 + 2 ^ 8)]
/-- The full/empty bitmap (R332). -/
def fullBytes (t : Tab Bool) : Tab Byte :=
  t.foldl (fun u e => if e.2 then Tab.set 0 u (e.1 / 8) (Tab.get 0 u (e.1 / 8) ||| (1 <<< (e.1 % 8))) else u) []

/-- Every numbered field of a half of core `k` but its warps': record offset, bytes, value. -/
def State.coreFields (s : State) (c : CtxId) (k : Nat) (h : Half) : List (Nat × Nat × Nat) :=
  let x := s.core k
  ((List.range 32).filter (fun n => h.has n 32)).map (fun n => (0x11C000 + 16 * n, 16, (x.resvAt n).image)) ++
  ((List.range 4).filter (fun n => h.has n 4)).map (fun n => (0x11C200 + 8 * n, 8, (x.band n).image)) ++
  ((List.range 6).filter (fun p => h.port p)).flatMap (fun p => (x.port p).fields p (Tab.get [] x.results p)) ++
  (s.teamsOf c k).map (fun e => (0x11DD00 + 32 * slotOf e.1, 32, e.2.image)) ++
  ((List.range 32).filter (fun n => h.has n 32 && n % 16 < 9)).map (fun n =>
    (0x11DF00 + 72 * (n / 16) + 8 * (n % 16), 8, (Tab.get 0 x.perf n).toNat)) ++
  (s.teamsOf c k).flatMap (fun e => (List.range 16).map (fun b =>
    (0x126000 + 0x100 * slotOf e.1 + 16 * b, 16, (Tab.get {} e.2.bars b).image))) ++
  (s.cohortsOf c k).zipIdx.flatMap (fun e =>
    let place := h.place + e.2
    (List.range 16).map (fun b => (0x127000 + 0x100 * place + 16 * b, 16, (Tab.get {} e.1.2.bars b).image)) ++
    [(0x127E00 + 8 * place, 8, slotOf (e.1.2.teams.headD 0) + 2 ^ 8)]) ++
  (s.regionsOf c k).zipIdx.flatMap (fun e => e.1.2.fields (h.place + e.2) e.1.1)

/-- The byte arrays of a half of a core by record offset: scratchpad, full bits, operand buffer, accumulators (R332). -/
def Core.arrays (x : Core) (h : Half) : List (Nat × Tab Byte) :=
  [(0x88000, x.scratch.filter (fun e => h.has e.1 0x80000)),
   (0x108000, fullBytes (x.full.filter (fun e => h.has e.1 0x20000))),
   (0x10C000, x.ob.filter (fun e => h.has e.1 0x10000)),
   (0x11E000, bytesOf 4 (natTab (x.acc.filter (fun e => h.has e.1 8192))))]

/-- A core with a half of it empty. -/
def Core.without (x : Core) (h : Half) : Core :=
  { x with scratch := Tab.drop (fun n => h.has n 0x80000) x.scratch, full := Tab.drop (fun n => h.has n 0x20000) x.full,
           ob := Tab.drop (fun n => h.has n 0x10000) x.ob, acc := Tab.drop (fun n => h.has n 8192) x.acc,
           resv := Tab.drop (fun n => h.has n 32) x.resv, bands := Tab.drop (fun n => h.has n 4) x.bands,
           ports := Tab.drop h.port x.ports, results := Tab.drop (fun n => h.has n 4) x.results,
           perf := Tab.drop (fun n => h.has n 32) x.perf }

/-- The bytes of a core record that a save writes (R332): all of the half but the slots not in use. -/
def State.written (s : State) (k : Nat) (h : Half) (off : Nat) : Bool :=
  if off < 0x88000 then
    let n := if off < 0x8000 then off / 0x800 else (off - 0x8000) / 0x8000
    h.has n 16 && (s.warp (k * 16 + n)).stat != .free
  else h.spans.any (fun r => decide (r.1 ≤ off) && decide (off < r.2))

/-- Executing copies of a half stand at their saved progress, and their responses become late; a part that counts as written counts in
event 5, too (R273, R397). -/
def State.partsOut (s : State) (c : CtxId) (k : Nat) (h : Half) : State :=
  [4, 5].foldl (fun (s : State) p =>
    if h.port p then
      let r := (s.port k p).partOut k c (s.ctx c).gen
      let t := { s.setPort k p r.1 with lateCopies := s.lateCopies ++ r.2 }
      r.2.foldl (fun t l => t.count k (p - 4) 5 l.n) t
    else s) s

/-- Groups of a context without a team left on the cores are gone from them. -/
def State.dropGroups (s : State) (c : CtxId) (k : Nat) : State :=
  let s := { s with
    regions := s.regions.filter (fun e => !(coreOf e.2.anchor == k && (s.team e.2.anchor).ctx == c))
    teams := s.teams.filter (fun e => !(coreOf e.1 == k && e.2.ctx == c)) }
  { s with cohorts := s.cohorts.filter (fun e => !(e.2.ctx == c && e.2.teams.all (fun t =>
      !((s.team t).used && (s.team t).cohort == e.1)))) }

/-- The grove barriers of the cohorts on core `k` whose team 0 is saved already stand in its image as they are now (R211). -/
def State.groveImages (s : State) (c : CtxId) (k : Nat) : State :=
  (s.teamsOf c k).foldl (fun (s : State) e =>
    let x := s.cohort e.2.cohort
    let head := x.teams.headD 4096
    if coreOf head = k ∨ ((s.team head).used && (s.team head).cohort == e.2.cohort) = true then s
    else (List.range 16).foldl (fun (s : State) b => match s.imageBar c (coreOf head) (slotOf head) (16 + b) with
      | some a => s.putNum a 16 (Tab.get ({} : Barrier) x.bars b).image
      | none => s) s) s

/-- A half of core `k` is written to the record of context `c`, and is empty; the instruction cache keeps no line of the context (R15, R328,
step 3). -/
def State.saveCore (s : State) (c : CtxId) (k : Nat) (h : Half) : State :=
  let s := s.partsOut c k h
  let a := s.recAddr c k
  let s := { s with mem := Tab.drop (fun m => decide (a ≤ m) && decide (m < a + 0x128000) && s.written k h (m - a)) s.mem }
  let x := s.core k
  let s := s.putBlock a ((s.coreFields c k h).filter (fun f => f.2.2 != 0))
  let s := (x.arrays h).foldl (fun s e => s.putCells (a + e.1) e.2) s
  let held : KeptHold := ⟨c, k, x.bands.filter (fun e => h.has e.1 4 && e.2.state == .releasing),
    x.resv.filter (fun e => h.has e.1 32 && e.2.state == .releasing)⟩
  let live := (List.range 6).filter (fun p => h.port p && decide (x.port p ≠ {}))
  let s := { s with
    keptWarps := s.keptWarps.filter (fun w => !(w.ctx == c && coreOf w.key == k))
    keptHolds := s.keptHolds.filter (fun p => !(p.ctx == c && p.core == k)) ++
      (if held.bands.isEmpty && held.recs.isEmpty then [] else [held])
    keptPorts := s.keptPorts.filter (fun p => !(p.ctx == c && p.core == k)) ++ live.map (fun p => ⟨c, k, p, x.port p⟩)
    keptRegions := s.keptRegions.filter (fun e => !(e.1 == c && coreOf e.2.2.anchor == k)) ++
      (s.regionsOf c k).map (fun e => (c, e.1, e.2)) }
  let s := h.slots.foldl (fun (s : State) n =>
    if (s.warp (k * 16 + n)).stat = .free then s else s.saveWarp c (k * 16 + n)) s
  let mine := fun (l : Nat) => s.launches.any (fun x => x.id == l && x.ctx == c)
  let x := (s.core k).without h
  ((s.groveImages c k).setCore k { x with icache := x.icache.filter (fun e => !mine e.2.1) }).dropGroups c k

/-! ### The header (R331) -/

/-- The header and CORESUM words of a save of some cores; `sums` holds their slots in use. Where no image was valid, the other cores
have no record (R331). -/
def State.saveHeader (s : State) (c : CtxId) (w : Switch) (sums : List (Nat × Nat)) : State :=
  let a := s.areaOf c
  let x := s.ctx c
  let id := c.toNat + x.gen.toNat * 2 ^ 16 + 2 ^ 32 + bit01 w.stopped * 2 ^ 33 + bit01 x.resident * 2 ^ 34
  let reason := (w.reason.getD Config.debugReason).toNat
  let rest := s.num (a + 0x10) 8
  let s := if s.headerValid c then s else s.wipe (a + 0x100) 0x800
  let s := (s.wipe a 0x100).putBlock a
    [(0, 8, id), (8, 8, (w.since &&& ~~~(0x3F : DWord)).toNat), (0x10, 8, rest), (0x18, 8, s.epochs.toNat), (0x20, 8, reason)]
  let s := s.wipe (a + 0x900) 0x700
  sums.foldl (fun s e =>
    s.putNum (a + 0x100 + 8 * e.1) 8 (e.2 + 2 ^ 16 + bit01 (s.core e.1).splitMode * 2 ^ 17)) s

/-- The parts of some cores are saved for a context, and its header is written (R328, step 3). -/
def State.saveAll (s : State) (c : CtxId) (w : Switch) (cores : List (Nat × Half)) : State :=
  let sums := cores.map (fun e => (e.1, s.usedSlots e.1 e.2))
  (cores.foldl (fun s e => s.saveCore c e.1 e.2) s).saveHeader c w sums

end Sys2Proof.Machine
end

