-- ==== Sys2Proof/Machine/Restore.lean ====
section
/-! DEFINITION. Restoring a context from its save area (18_context.md R322, R328, R331 to R336, R338; 21_trap.md R394). -/

namespace Sys2Proof.Machine

/-! ### Checks of a control block (R394) -/

/-- The assigned causes (R377). -/
def assigned (c : Nat) : Bool :=
  c == 0 || [(0x041, 0x04B), (0x081, 0x08A), (0x0C1, 0x0C4), (0x101, 0x102), (0x110, 0x115), (0x141, 0x145), (0x181, 0x191),
    (0x1C0, 0x1C5), (0x1C8, 0x1C8), (0x1CA, 0x1CA), (0x1D0, 0x1D4), (0x1E0, 0x1E4), (0x201, 0x208), (0x241, 0x249),
    (0x281, 0x287), (0x2C0, 0x2C4), (0x2C8, 0x2C8), (0x2E0, 0x2EF), (0x300, 0x323), (0x340, 0x342), (0x380, 0x384),
    (0x3C0, 0x3C0)].any (fun r => decide (r.1 ≤ c) && decide (c ≤ r.2))

/-- Whether a STAT word is in range (R333, R418). -/
def statFits (x : Nat) : Bool := decide (x % 8 ≤ 5) && decide (bitsAt x 3 5 ≤ 26) && decide (x < 2 ^ 11)

/-- Offset, in its control block, of the first field of a saved warp that is out of range (R394). -/
def blockError (num : Nat → Nat → Nat) : Option Nat :=
  let room := if (num 0x98 8).testBit 0 then 288 else 32
  let t0 := num 0x20 8
  let t9 := num 0x68 8
  if !statFits (num 0x18 4) then some 0x18
  else if room < num 0x1C 2 then some 0x1C
  else if !assigned (bitsAt t0 0 10) || bitsAt t0 10 6 != 0 || !([0, 8, 12, 16].contains (bitsAt t0 16 8)) ||
      bitsAt t0 24 39 != 0 then some 0x20
  else if bitsAt (num 0x60 8) 0 6 != 0 then some 0x60
  else if room < bitsAt t9 0 9 || 64 ≤ bitsAt t9 9 7 || bitsAt t9 16 48 != 0 then some 0x68
  else none

/-! ### Warps -/

/-- A Halted warp goes on: to its wait, or Ready (R344). -/
def Warp.resume (w : Warp) (ft : DWord) : Warp :=
  if w.stat = .halted then
    if w.reason = 0 then { w with stat := .ready } else { w with stat := .parked, since := ft }
  else w

/-- Batch records by their counts and the numbers of the copies that they hold, oldest first. -/
def shareBatches : List (Word × Nat) → List Nat → List (Word × List Nat)
  | [], _ => []
  | (n, k) :: bs, ids =>
    let older := (bs.map (·.2)).foldl (· + ·) 0
    (n, (ids.drop older).take k) :: shareBatches bs (ids.take older)

/-- The copies of warp slot `slot` in the ports of a core, oldest first. -/
def Core.copiesOf (x : Core) (slot : Nat) : List Nat :=
  [4, 5].flatMap (fun p => ((x.port p).all.filter (fun c => c.copyOf slot)).map (·.id))

/-- Batches and open copies of a restored warp: as it had them where the image still shows that, else by the image's counts
(R269, R333). -/
def Warp.rebatch (w : Warp) (counts : List Nat) (ids : List Nat) (kept : Option KeptWarp) : Warp :=
  let same := kept.any (fun k => (k.batches.take 16).map (·.2.length) == counts.take (k.batches.take 16).length &&
    (counts.drop (k.batches.take 16).length).all (· == 0))
  match same, kept with
  | true, some k => { w with batches := k.batches, openCopies := k.openCopies }
  | _, _ =>
    let listed := (batchList w.batch counts).filter (fun b => b.2 != 0)
    let n := (listed.map (·.2)).foldl (· + ·) 0
    { w with batches := shareBatches listed ids, openCopies := ids.drop n }

/-- A warp in trap mode takes back the hit of its handler's own instruction, which its image may show for lack of another (R391). -/
def Warp.ownHit (w : Warp) (kept : Option KeptWarp) : Warp :=
  match kept.bind (·.ownWatch) with
  | none => w
  | some h => if w.trapMode then { w with watch := some h, trapWatch := if w.trapWatch = some h then none else w.trapWatch } else w

/-- The wait of a restored warp for band commands (R229) or for room in a port (R244). Where the package has kept nothing of it, it awaits
its lowest numbered band command while five are unfinished, or the first full port that holds a command of it. -/
def Warp.queueWait (w : Warp) (x : Core) (slot : Nat) (kept : Option KeptWarp) : Warp :=
  let ids := x.bandIds slot
  let full := (List.range 6).find? (fun p =>
    decide (portCap p ≤ (x.port p).all.length) && (x.port p).all.any (fun c => c.mine slot))
  let port := (kept.bind (·.waitPort)).or (if w.reason = 3 then full else none)
  { w with
    waitBand := match (kept.bind (·.waitBand)).filter (fun i => ids.contains i) with
      | some i => some i
      | none => if w.reason = 2 ∧ 5 ≤ ids.length then (ascending ids).head? else none
    waitPort := port
    waitIds := port.elim [] (fun p => (x.port p).all.map (·.id)) }

/-- Warp `k` of context `c` from its image, as it stands before the checks of R394. -/
def State.warpFrom (s : State) (c : CtxId) (k : Nat) : Warp :=
  let a := s.wcbAddr c k
  let n := s.renewals c
  let w := s.imageWarp c k
  let kept := s.keptWarps.find? (fun x => x.ctx == c && x.key == k)
  let w : Warp := { w with
    snap := rebase n w.snap, txStart := rebase n w.txStart
    vregs := bvTab 32 (numsOf 4 (s.cells (s.vregAddr c k 0 0) 0x8000))
    stack := kept.elim [] (·.stack), stg := kept.elim 0 (·.stg), marked := kept.elim false (·.marked)
    skipBreak := kept.elim false (·.skipBreak), fence := kept.elim {} (·.fence), relFence := kept.elim false (·.relFence)
    stored := kept.elim [] (·.stored), counted := kept.elim [] (·.counted), service := kept.elim 0 (·.service)
    snapWait := kept.elim none (fun x => x.snapWait.map (rebase n)), since := s.ft, deferred := kept.elim [] (·.deferred)
    waited := kept.elim 0 (·.waited), limit := (kept.elim (s.team w.team).feTimeout (·.limit))
    records := (s.faultOpen.filter (fun (r : FaultRec) => r.ctx == c && r.core == coreOf k && r.slot == slotOf k && r.acc != 4)).map FaultRec.id
    stalls := 0 }
  let w : Warp := if w.reason = 18 then { w with waited := 0 } else w
  let w := (w.ownHit kept).queueWait (s.core (coreOf k)) (slotOf k) kept
  w.rebatch ((List.range 16).map (fun i => s.num (a + 0x1A0 + 4 * i) 4)) ((s.core (coreOf k)).copiesOf (slotOf k)) kept

/-- The long results that a restored warp has outstanding: statuses of its copies, ACCRDs in a queue, and what the fabric
still owes it (R186, R264, R366). -/
def State.owed (s : State) (c : CtxId) (k : Nat) : List Pending :=
  let x := s.core (coreOf k)
  let cmds := ((List.range 6).flatMap (fun p => (x.port p).all)).filter (fun d => d.slot == slotOf k && !d.gone)
  cmds.filterMap (fun d =>
    let lanes := if d.lanes = 0 then 1 else d.lanes
    match d.dest, d.body with
    | .sreg n, _ => some ⟨d.id, lanes, .copy d.id n⟩
    | _, .accrd .. => some ⟨d.id, lanes, .accrd d.id⟩
    | _, _ => none) ++
  (s.lateRes.filter (fun e => e.ctx == c && e.warp == k)).map (·.pend) ++
  (s.keptWarps.find? (fun x => x.ctx == c && x.key == k)).elim [] (·.heldRes)

/-- Warp `k` of context `c` takes back its slot; a block in error is restored in trap mode (R394). -/
def State.restoreWarp (s : State) (c : CtxId) (k : Nat) : State :=
  let a := s.wcbAddr c k
  let w : Warp := { s.warpFrom c k with pending := s.owed c k }
  match blockError (fun off n => s.num (a + off) n) with
  | none => s.setWarp k w
  | some off =>
    let w : Warp := { w with trapMode := false, stat := .ready, reason := 0, done := 0, waiting := 0 }
    (s.setWarp k w).at k (fun s => (s.refetch 0).enter 0x321 0 0 (BitVec.ofNat 64 (0x800 * slotOf k + off)))

/-! ### Ports, regions and groups -/

/-- The port that the binding of q register `n` of a saved warp names. -/
def State.imageQPort (s : State) (c : CtxId) (k : Nat) (h : Half) (n : Nat) : Option Nat :=
  let b := BitVec.ofNat 32 (s.num (s.wcbAddr c k + 0x100 + 4 * n) 4)
  if qKind b = 1 then some (qIndex b) else if qKind b = 3 then some (if h = .upper then 5 else 4) else none

/-- A port as the record's fields spell it; commands are numbered from `id`. -/
def State.portFrom (s : State) (c : CtxId) (k p : Nat) (h : Half) (id : Nat) : Port :=
  let a := s.recAddr c k
  let ctl := s.num (a + 0x11C220 + 8 * p) 8
  let key := fun (x : Nat) => k * 16 + bitsAt x 123 4
  let team := fun (n : Nat) => k * 16 + (s.imageTeam c k n).getD n
  let gone := fun (d : Cmd) => { d with gone := !(s.num (s.areaOf c + 0x100 + 8 * k) 2).testBit d.slot }
  let snapOf := fun (w : Nat) => rebase (s.renewals c) (s.dword (s.wcbAddr c w + 0xC0))
  let queue := (List.range (min (bitsAt ctl 16 6) (portCap p))).filterMap (fun i =>
    let x := s.num (a + queueAt p + 20 * i) 20
    if x.testBit 127 then (Cmd.ofImage x (id + i + 1) p (team (bitsAt x 123 4)) (fun n => s.imageQPort c (key x) h n) (snapOf (key x))).map gone else none)
  let prog := if p < 4 then none
    else
      let x := s.num (a + 0x11CC80 + 0x40 * (p - 4)) 64
      (ofProgImage x id (team (bitsAt x 488 4)) (snapOf (k * 16 + bitsAt x 488 4))).map (fun e => (gone e.1, e.2))
  { queue := queue, exec := prog.map (·.1), prog := prog.elim {} (·.2), rels := BitVec.ofNat 8 (bitsAt ctl 0 8),
    relovf := ctl.testBit 8 }

/-- The result entries of a band in a record. -/
def State.resultsFrom (s : State) (c : CtxId) (k b : Nat) : List (List Word) :=
  let a := s.recAddr c k
  (List.range (min (bitsAt (s.num (a + 0x11C220 + 8 * b) 8) 24 4) 8)).map (fun i =>
    (List.range 32).map (fun l => BitVec.ofNat 32 (s.num (a + 0x11CD00 + 0x400 * b + 128 * i + 4 * l) 4)))

/-- Whether fields stand in a record as given. -/
def State.showsFields (s : State) (a : Nat) (fs : List (Nat × Nat × Nat)) : Bool :=
  fs.all (fun f => s.num (a + f.1) f.2.1 == f.2.2 % 256 ^ f.2.1)

/-- A restored port: as it was where the image still shows that, else as the image spells it (R255, R272). -/
def State.portBack (s : State) (c : CtxId) (k p : Nat) (h : Half) (id : Nat) : Port :=
  let fresh := s.portFrom c k p h id
  match s.keptPorts.find? (fun x => x.ctx == c && x.core == k && x.port == p) with
  | none => fresh
  | some x => if s.showsFields (s.recAddr c k) (x.what.fields p (s.resultsFrom c k p)) then x.what else fresh

/-- A restored region: as it was where the image still shows that, else as the image spells it (R289). -/
def State.regionBack (s : State) (c : CtxId) (k place : Nat) : Option (Nat × Region) :=
  let a := s.recAddr c k + 0x127400 + 0x280 * place
  let d := s.num (a + 0x260) 4
  if !d.testBit 8 then none
  else
    let number := groveOf k * 64 + d % 64
    let x := Region.ofImage (groveOf k) (s.num a 32)
    let x := { x with slots := tabOf {} 64 (fun i => Slot.ofImage (s.num (a + 0x20 + 8 * i) 8)) }
    let ws := (List.range 16).map (fun i => s.num (a + 0x220 + 4 * i) 4)
    let x := { x with held := (ws.filter (fun w => w.testBit 31)).map x.heldOf }
    match s.keptRegions.find? (fun e => e.1 == c && e.2.1 == number && coreOf e.2.2.anchor == k) with
    | none => some (number, x)
    | some e =>
      if s.showsFields (s.recAddr c k) (e.2.2.fields place number) then some (number, e.2.2)
      else some (number, { x with recs := e.2.2.recs })

/-- A team from its entry in a record, without its cohort. -/
def State.teamFrom (s : State) (c : CtxId) (k n tenant : Nat) : Option Team :=
  let a := s.teamEntry c k n
  if !(s.num (a + 3) 1).testBit 0 then none
  else
    let lrec := s.dword (a + 16)
    let mask := s.num a 2
    some { used := true, slots := BitVec.ofNat 16 mask, index := s.num (a + 2) 1, base := s.num (a + 4) 4,
           size := s.num (a + 8) 4, roc := s.num (a + 12) 2, feTimeout := BitVec.ofNat 16 (s.num (a + 14) 2), lrec := lrec,
           cohIx := s.dword (a + 24), cohort := 0, launch := (s.launchAt c lrec).elim s.nextId (·.id), ctx := c,
           tenant := tenant
           warps := if mask = 0 ∧ s.num (a + 8) 4 = 0 ∧ s.num (a + 12) 2 = 0 then 0
             else (s.launchAt c lrec).elim (bitsBelow mask 16) (·.warps)
           bars := tabOf {} 16 (fun b => Barrier.ofImage (s.num (s.recAddr c k + 0x126000 + 0x100 * n + 16 * b) 16)) }

/-- Whether a cohort is the one of a team's launch and index on a grove. -/
def Cohort.holds (x : Cohort) (grove : Nat) (t : Team) : Bool :=
  x.used && x.ctx == t.ctx && x.launch == t.launch && x.index == t.cohIx && x.grove == grove

/-- Team `k` joins its cohort, which is made where it does not stand yet. -/
def State.joinCohort (s : State) (k : Nat) (t : Team) : State :=
  let grove := groveOf (coreOf k)
  match s.cohorts.find? (fun e => e.2.holds grove t) with
  | some (id, x) => (s.setTeam k { t with cohort := id }).setCohort id { x with teams := x.teams.set t.index k }
  | none =>
    let id := s.nextId
    let n := match s.launches.find? (fun l => l.id == t.launch) with
      | some l => l.teams
      | none => t.index + 1
    ({ s with nextId := s.nextId + 1 }.setTeam k { t with cohort := id }).setCohort id
      { used := true, ctx := t.ctx, launch := t.launch, index := t.cohIx, grove := grove,
        teams := (List.replicate n 4096).set t.index k, objects := (s.freeObjects t.ctx grove).getD 0 }

/-- The grove barrier objects at a place of a record return to their cohort, unless it stood live before the restore, in `old`, and has kept
them (R211). -/
def State.barsBack (s old : State) (c : CtxId) (k place : Nat) : State :=
  let a := s.recAddr c k + 0x126000
  let d := s.num (a + 0x1E00 + 8 * place) 8
  if !d.testBit 8 then s
  else
    let id := (s.team (k * 16 + d % 16)).cohort
    if (old.cohort id).used then s
    else s.setCohort id { s.cohort id with
      bars := tabOf {} 16 (fun b => Barrier.ofImage (s.num (a + 0x1000 + 0x100 * place + 16 * b) 16)) }

/-- The places of a half in the stage and barrier images. -/
def Half.places : Half → List Nat
  | .whole => [0, 1, 2, 3] | .lower => [0, 1] | .upper => [2, 3]

/-! ### A core record -/

/-- Table `b` laid over table `a`. -/
def Tab.over {α : Type} [DecidableEq α] (d : α) (a b : Tab α) : Tab α := b.foldl (fun t e => Tab.set d t e.1 e.2) a

/-- Bits of a bitmap in bytes. -/
def bitsOfBytes (t : Tab Byte) : Tab Bool :=
  t.flatMap (fun e => ((List.range 8).filter (fun i => e.2.getLsbD i)).map (fun i => (8 * e.1 + i, true)))

/-- A resource as its image shows it, or Releasing as it was kept, where the image shows it Free and a queue of the core still holds
commands (R214, R219, R255). -/
def backOr {α : Type} (kept : Option α) (queued free : Bool) (x : α) : α :=
  match kept with
  | some y => if queued && free then y else x
  | none => x

/-- The half of a core that its record holds; commands are numbered from `id`. -/
def State.coreFrom (s : State) (c : CtxId) (k : Nat) (h : Half) (id : Nat) : Core :=
  let a := s.recAddr c k
  let x := s.core k
  let pick := fun {α : Type} (t : Tab α) (size : Nat) => t.filter (fun e => h.has e.1 size)
  let ports := ((List.range 6).filter h.port).map (fun p => (p, s.portBack c k p h (id + 64 * p)))
  let kept := s.keptHolds.find? (fun x => x.ctx == c && x.core == k)
  let band := fun (n : Nat) => kept.bind (fun x => (x.bands.find? (fun e => e.1 == n)).map (·.2))
  let rec_ := fun (n : Nat) => kept.bind (fun x => (x.recs.find? (fun e => e.1 == n)).map (·.2))
  let queued := fun (f : Nat → Cmd → Bool) => ports.any (fun p => p.2.all.any (f p.1))
  { x with
    scratch := Tab.over 0 x.scratch (pick (s.cells (a + 0x88000) 0x80000) 0x80000)
    full := Tab.over false x.full (pick (bitsOfBytes (s.cells (a + 0x108000) 0x4000)) 0x20000)
    ob := Tab.over 0 x.ob (pick (s.cells (a + 0x10C000) 0x10000) 0x10000)
    acc := Tab.over 0 x.acc (pick (bvTab 32 (numsOf 4 (s.cells (a + 0x11E000) 0x8000))) 8192)
    resv := Tab.over {} x.resv (((List.range 32).filter (fun n => h.has n 32)).map (fun n =>
      let x := Resv.ofImage c (s.num (a + 0x11C000 + 16 * n) 16)
      (n, backOr (rec_ n) (queued (fun _ d => d.body.names n)) (x.state == .free) x)))
    bands := Tab.over {} x.bands (((List.range 4).filter (fun n => h.has n 4)).map (fun n =>
      let x := Band.ofImage c (s.num (a + 0x11C200 + 8 * n) 8)
      (n, backOr (band n) (queued (fun p _ => p == n)) (x.state == .free) x)))
    ports := Tab.over {} x.ports ports
    results := Tab.over [] x.results (((List.range 4).filter (fun n => h.has n 4)).map (fun n => (n, s.resultsFrom c k n)))
    perf := Tab.over 0 x.perf (((List.range 32).filter (fun n => h.has n 32 && n % 16 < 9)).map (fun n =>
      let v := s.dword (a + 0x11DF00 + 72 * (n / 16) + 8 * (n % 16))
      (n, if n % 16 = 0 then v &&& 0x00FDFFFFFFFFFFFF else v))) }

/-- The record of core `k` is read: teams, cohorts, the core, then regions and warps (R328, step 4). -/
def State.restoreCore (s : State) (c : CtxId) (k : Nat) (h : Half) : State :=
  let sum := s.num (s.areaOf c + 0x100 + 8 * k) 8
  if !sum.testBit 16 then s
  else
    let tenant := if h = .upper then 1 else 0
    let s := { s with nextId := s.nextId + 512 }
    let s := h.slots.foldl (fun (s : State) n => match s.teamFrom c k n tenant with
      | some t => s.joinCohort (k * 16 + n) t
      | none => s) s
    let s := s.setCore k (s.coreFrom c k h (s.nextId - 512))
    let s := h.places.foldl (fun (s : State) p => match s.regionBack c k p with
      | some (n, r) => s.setRegion n r
      | none => s) s
    h.slots.foldl (fun (s : State) n => if sum.testBit n then s.restoreWarp c (k * 16 + n) else s) s

/-- What a context kept beside its image is used up. A reduction held for another generation is not for the warps restored (R338). -/
def State.forgetKept (s : State) (c : CtxId) (k : Nat) : State :=
  { s with keptWarps := s.keptWarps.filter (fun w => !(w.ctx == c && coreOf w.key == k))
           keptPorts := s.keptPorts.filter (fun p => !(p.ctx == c && p.core == k))
           keptHolds := s.keptHolds.filter (fun p => !(p.ctx == c && p.core == k))
           keptRegions := s.keptRegions.filter (fun e => !(e.1 == c && coreOf e.2.2.anchor == k))
           lateRes := s.lateRes.filter (fun e => !(e.ctx == c && coreOf e.warp == k))
           reduce := s.reduce.filter (fun p => match p with
             | .ldredResult _ r => s.lateRes.all (fun e =>
                 !(e.ctx == c && e.warp == r.warp && coreOf e.warp == k && e.pend.id == r.id && e.gen != (s.ctx c).gen))
             | .copyData .. => true
             | .orphan .. => true
             | .copyAck .. => true
             | .storeAck .. => true
             | .atomResult .. => true) }

/-! ### The context -/

/-- The descriptor of a context is read (R326). -/
def State.readDesc (s : State) (c : CtxId) : State :=
  let a := s.descAddr c
  s.setCtx c { s.ctx c with gen := BitVec.ofNat 16 (s.num (a + 24) 2), save := s.dword a, troot := s.dword (a + 8),
                            range := s.dword (a + 16), resident := (s.num (a + 27) 1).testBit 1 }

/-- VALID of a descriptor. -/
def State.descValid (s : State) (c : CtxId) : Bool := (s.num (s.descAddr c + 27) 1).testBit 0
/-- RESIDENT of a descriptor. -/
def State.descResident (s : State) (c : CtxId) : Bool := (s.num (s.descAddr c + 27) 1).testBit 1
/-- GEN of a descriptor. -/
def State.descGen (s : State) (c : CtxId) : BitVec 16 := BitVec.ofNat 16 (s.num (s.descAddr c + 24) 2)

/-- The address groups of a context, descriptors and member lists read (R357). -/
def State.readGroups (s : State) (c : CtxId) : Tab Group :=
  (List.range 256).foldl (fun t g =>
    let d := s.reg (0x7000 + 0x20 * g + 8)
    let list := field (s.reg (0x7000 + 0x20 * g)) 6 34 * 64
    if d.setWidth 12 = c then
      Tab.set {} t g
        { valid := d.getLsbD 15, gid := BitVec.ofNat 16 (field d 32 16)
          peers := (List.range (field d 16 12 + 1)).map (fun n => BitVec.ofNat 12 (s.num (list + 2 * n) 2)) }
    else t) []

/-- A transition of a saved barrier that a watch saw is reported before a warp of the core issues (R210). -/
def State.reportHits (s : State) (c : CtxId) : State :=
  let here := fun (e : CtxId × Nat × Nat) => e.1 == c && !s.savedOn c e.2.1
  let t := (s.barHits.filter here).foldl (fun (s : State) e => s.copyHit c e.2.1 e.2.2) s
  { t with barHits := t.barHits.filter (fun e => !here e) }

/-- Reductions held for a context are delivered (R338, R366). -/
def State.deliverHeld (s : State) (c : CtxId) : State :=
  s.reduce.foldl (fun (s : State) p => match p with
    | .ldredResult port r =>
      if (s.warp r.warp).ctx = c then
        match (s.warp r.warp).pending.find? (fun p => p.id == r.id) with
        | some p => { s.ldredBack r.warp p r.contribs with reduce := s.reduce.filter (fun q => q != .ldredResult port r) }
        | none => s
      else s
    | .copyData .. => s
    | .orphan .. => s
    | .copyAck .. => s
    | .storeAck .. => s
    | .atomResult .. => s) s

/-- The words of a core record that a restore reads are noted if they are poisoned: not those of slots not in use (R332, R400). -/
def State.touchRecord (s : State) (c : CtxId) (k : Nat) (h : Half) : State :=
  let a := s.recAddr c k
  let sum := s.num (s.areaOf c + 0x100 + 8 * k) 8
  let slot := fun (off : Nat) => if off < 0x8000 then off / 0x800 else (off - 0x8000) / 0x8000
  let read := fun (off : Nat) => if off < 0x88000 then h.has (slot off) 16 && sum.testBit (slot off)
    else h.spans.any (fun r => decide (r.1 ≤ off) && decide (off < r.2))
  if !sum.testBit 16 then s
  else (s.poison.filter (fun w => decide (a ≤ w) && decide (w < a + 0x128000) && read (w - a))).foldl (fun s w => s.touch c w 8) s

/-- FTREST, the time at which the last core record was read (R331). -/
def State.stampRestore (s : State) (c : CtxId) : State := s.putNum (s.areaOf c + 0x10) 8 s.now.toNat
/-- No die keeps a copy of a context (R370). -/
def State.dropAll (s : State) (c : CtxId) : State := (List.range 4).foldl (fun s d => s.dropCopies c d true) s

/-- The records of a context on some cores are read, and its warps stand as its header says: halted, or going on. -/
def State.restoreCores (s : State) (c : CtxId) (cores : List (Nat × Half)) (stopped : Bool) : State :=
  let old := s
  let s := s.touch c (s.areaOf c) 0x1000
  let s := if s.headerValid c then
      let s := cores.foldl (fun s e => (s.touchRecord c e.1 e.2).restoreCore c e.1 e.2) s
      let s := cores.foldl (fun (s : State) e => e.2.places.foldl (fun s p =>
        if (s.num (s.areaOf c + 0x100 + 8 * e.1) 8).testBit 16 then s.barsBack old c e.1 p else s) s) s
      cores.foldl (fun s e => s.forgetKept c e.1) s
    else s
  let halt := stopped || (s.ctx c).state == .stopped
  let mine := fun (k : Nat) (w : Warp) => w.ctx == c && w.stat != WStat.free && cores.any (fun e => e.1 == coreOf k)
  { s with warps := Tab.map (fun k w => if mine k w then (if halt then w.stop s.ft else w.resume s.ft) else w) s.warps }

/-- The end of a restore: the context runs, or stays Stopped; its header holds FTREST (R327, R328, R331). -/
def State.startCtx (s : State) (c : CtxId) (fresh : Bool) (cores : State → List (Nat × Half)) : State :=
  let s := ((s.touch c (s.descAddr c) 32).dropAll c).readDesc c
  let s := s.setCtx c { s.ctx c with groups := s.readGroups c, changes := [] }
  let saved := !fresh && s.headerValid c
  let stopped := saved && (s.num (s.areaOf c) 8).testBit 33
  let s := if saved then s.restoreCores c (cores s) stopped else s
  let halted := (s.ctx c).state == .stopped
  let s := if stopped || halted then s.setCState c .stopped else s.setCState c .running
  ((s.stampRestore c).deliverHeld c).reportHits c

end Sys2Proof.Machine
end

