-- ==== Sys2Proof/Machine/Context.lean ====
section
/-! DEFINITION. The switch from one context to another, discards, the bill and its ringmaster, out-of-turn pre-emption, late
packets, shootdowns and replies to system calls (18_context.md R320 to R345, 21_trap.md R398, 08_page.md R167). -/

namespace Sys2Proof.Machine

/-! ### The switch (R328, R340) -/

/-- A switch of tenant 0, or of a RESIDENT context's tenant, is asked for. -/
def State.beginSwitch (s : State) (tenant : Nat) (src dst : Option CtxId) (reason : Option Cause) : State :=
  { s with switch := some ⟨tenant, src, dst, 0, reason, 0, false, false⟩ }

/-- The switch comes to its restore: the new context is Restoring, if it can be restored (R327). -/
def State.toRestore (s : State) (w : Switch) : State :=
  match w.dst with
  | none => { s with switch := some { w with phase := 2 } }
  | some d =>
    let st := (s.ctx d).state
    if st = .idle ∨ st = .saved then
      { s.setCState d .restoring with switch := some { w with phase := 2, fresh := st == .idle } }
    else { s with switch := some { w with phase := 2, dst := none } }

/-- A warp halted for a switch: its wait stops counting, and a step ends where it stands (R179, R393). -/
def Warp.haltFor (w : Warp) (ft : DWord) : Warp :=
  let w : Warp := if w.stat = .parked then { w with waited := w.elapsed ft, since := ft } else w
  if w.stepping then { w.stop ft with stepping := false } else w

/-- Step 1: the context halts, and its canopy copies are dropped (R328, R370). -/
def State.haltCtx (s : State) (c : CtxId) : State :=
  let s := s.dropAll c
  { s with warps := Tab.map (fun _ (w : Warp) => if w.ctx = c then w.haltFor s.ft else w) s.warps }.setCState c .saving

/-- CONTEXT_SWITCH (R328). -/
def execContextSwitch (s : State) : Host.Outcome State Fault Refusal :=
  match s.switch with
  | none => .next s
  | some w =>
    if w.phase ≠ 0 then .next s
    else match w.src with
      | none => .next (s.toRestore { w with since := s.now })
      | some c =>
        let stopped := (s.ctx c).state == .stopped
        .next { s.haltCtx c with switch := some { w with phase := 1, since := s.now, stopped := stopped } }

/-- SAVE_COMPLETE: once the drain is over, every core record and the header are written (R327, R328). -/
def execSaveComplete (s : State) : Host.Outcome State Fault Refusal :=
  match s.switch with
  | none => .next s
  | some w => match w.phase, w.src with
    | 1, some c =>
      let cores := s.servers c
      if cores.all (fun e => s.drained e.1 e.2) then
        let t := (s.saveAll c w cores).setCState c .saved
        .next ({ t with run := if t.run = some c then none else t.run }.toRestore w)
      else .next s
    | _, _ => .next s

/-! ### Split mode at a switch (R340, R402) -/

/-- The RESIDENT context of a core's tenant 1. -/
def Core.t1 (x : Core) : CtxId := x.split.extractLsb' 32 12
/-- The incoming context's image for core `k` holds no warp slot in use. -/
def State.incomingEmpty (s : State) (w : Switch) (k : Nat) : Bool :=
  match w.dst with
  | none => true
  | some d => w.fresh || !s.headerValid d || s.num (s.areaOf d + 0x100 + 8 * k) 2 == 0
/-- Whether the tenant 1 of core `k` leaves at this switch. -/
def State.turnsOff (s : State) (w : Switch) (k : Nat) : Bool :=
  let x := s.core k
  w.tenant == 0 && x.splitMode && !x.split.getLsbD 0 && s.incomingEmpty w k
/-- Whether core `k` enters split mode at this switch. -/
def State.turnsOn (s : State) (w : Switch) (k : Nat) : Bool :=
  let x := s.core k
  w.tenant == 0 && !x.splitMode && x.split.getLsbD 0 && s.incomingEmpty w k && s.descValid x.t1 && s.descResident x.t1 &&
    [CState.idle, .saved, .running, .stopped].contains (s.ctx x.t1).state
/-- Whether the halves of tenant 1 of core `k` are saved at this switch: for a change of split mode, or to move to the grove's
spare core. -/
def State.leaving (s : State) (w : Switch) (k : Nat) : Bool :=
  s.turnsOff w k || (w.tenant == 0 && s.repairBusy && s.repairCore.toNat == k && (s.core k).splitMode)
/-- Whether warp `k` stands still because its tenant leaves its core. -/
def State.heldBySplit (s : State) (k : Nat) : Bool :=
  match s.switch with
  | none => false
  | some w => w.phase != 0 && 8 ≤ slotOf k && s.leaving w (coreOf k)

/-- Whether the cohort of team `k` of a RESIDENT context stands still: one of its teams is saved, with its core, and a cohort is switched as
a whole (R211; log entry 99). -/
def State.cohortCut (s : State) (k : Nat) : Bool :=
  let t := s.team k
  let x := s.cohort t.cohort
  (s.ctx t.ctx).resident && t.used && x.teams.any (fun m =>
    let e := s.teamEntry t.ctx (coreOf m) (slotOf m)
    m < 4096 && s.savedOn t.ctx (coreOf m) && (s.num (e + 3) 1).testBit 0 && s.dword (e + 16) == t.lrec && s.dword (e + 24) == t.cohIx)
/-- Whether the copies of a port stand still: a halt falls between parts, of which only the one in progress finishes (R272, R328, R414). -/
def State.copyHalted (s : State) (core port : Nat) (c : Cmd) : Bool :=
  (s.ctx (s.team c.team).ctx).state == .saving || (port == 5 && s.heldBySplit (core * 16 + 8)) || s.cohortCut c.team
/-- Whether the copy that a port executes has a part for the engine to handle now. -/
def State.copyReady (s : State) (core port : Nat) : Bool :=
  let p := (s.port core port).prog
  (s.running core port).any (fun e => !s.copyHalted core port e.1) && !p.over && p.stalled.isNone && p.remote.isNone

/-- COPY_PART (R266). In split mode the engine turns to the other tenant's port after each part, if that has one ready. -/
def execCopyPart (i : PortRef) (s : State) : Host.Outcome State Fault Refusal :=
  match s.running i.core i.port with
  | none => .next s
  | some (c, q) =>
    let x := s.core i.core
    if !s.copyReady i.core i.port || (x.splitMode && x.copyTurn == i.port && s.copyReady i.core (9 - i.port)) then .next s
    else
      let t := s.copyStep i.core i.port c q
      .next (t.setCore i.core { t.core i.core with copyTurn := i.port })

/-- The upper half of core `k`, which halted at time `since`, is saved into the record of its tenant 1, with cause 0x383. -/
def State.saveT1 (s : State) (since : DWord) (k : Nat) : State :=
  let c := (s.core k).t1
  let st := (s.ctx c).state
  if st = .running ∨ st = .stopped then
    (s.dropAll c).saveAll c ⟨1, some c, none, 1, some 0x383, since, st == .stopped, false⟩ [(k, .upper)]
  else s
/-- The upper half of core `k` takes back what the record of its tenant 1 holds. -/
def State.restoreT1 (s : State) (k : Nat) : State :=
  let c := (s.core k).t1
  let st := (s.ctx c).state
  if st = .running ∨ st = .stopped then
    ((((s.dropAll c).restoreCores c [(k, .upper)] (st == .stopped)).stampRestore c).deliverHeld c).reportHits c
  else s.startCtx c (st == .idle) (fun _ => [(k, .upper)])
/-- ACTIVE of core `k`. -/
def State.setActive (s : State) (k : Nat) (b : Bool) : State := s.setCore k { s.core k with active := b }

/-- Tenant 1 leaves core `k`, or comes back to it at once on the spare. -/
def State.splitOff (s : State) (w : Switch) (k : Nat) : State :=
  let c := (s.core k).t1
  let off := s.turnsOff w k
  let live := (s.ctx c).state == .running || (s.ctx c).state == .stopped
  let s := s.saveT1 w.since k
  if off then
    let s := s.setActive k false
    if (s.servers c).isEmpty && live then s.setCState c .saved else s
  else if live then s.restoreT1 k else s

/-- A core retirement that was waiting for a switch is done: the spare takes the number, with no line in its instruction cache, and the
record's map names the core (R10, R399, R402). -/
def State.repairDone (s : State) : State :=
  if s.repairBusy then
    let k := s.repairCore.toNat
    { s.setCore k { s.core k with icache := [] } with
      repairBusy := false, spareCores := s.spareCores ||| (1 <<< (k / 16)), retired := s.retired ++ [s.repairCore] }
  else s

/-! ### Commands that begin a switch (R339, R393) -/

/-- The context that the latest bill entry gives the package now, if its slot lasts (R325, R339). -/
def State.billed (s : State) : Option CtxId :=
  match s.lastEntry with
  | none => none
  | some e =>
    if e.kind = 1 ∨ s.descValid e.ctx = false ∨ s.descResident e.ctx = true ∨ s.descGen e.ctx ≠ e.gen ∨
      e.ft.toNat + e.len.toNat * 64000 ≤ s.ft.toNat then none
    else some e.ctx

/-- The end of the latest entry's slot. -/
def Entry.over (e : Entry) : Option DWord := if e.kind = 1 then none else some (e.ft + BitVec.ofNat 64 (e.len.toNat * 64000))

/-- OP 1 of CTX_CMD (R339). -/
def State.preemptNow (s : State) (c : CtxId) : State :=
  if !s.descValid c || s.descResident c then s
  else
    let s := { s with preempt := some c, preemptFrom := s.ft }
    if s.run = some c then s else s.beginSwitch 0 s.run (some c) (some 0x381)

/-- OP 2 of CTX_CMD (R339). -/
def State.endPreemptNow (s : State) : State :=
  match s.preempt with
  | none => s
  | some _ =>
    let t := { s with preempt := none, slotEnd := s.lastEntry.bind Entry.over }
    if t.billed = t.run then t else t.beginSwitch 0 t.run t.billed (some 0x381)

/-- Whether a context may be debugged. -/
def State.granted (s : State) (c : CtxId) : Bool := (s.ctx c).dbgRight.getLsbD 0
/-- The tenant of a context. -/
def State.tenantOf (s : State) (c : CtxId) : Nat := if (s.ctx c).resident then 1 else 0

/-- OP 2 of DBG_CMD (R393). -/
def State.dbgSaveNow (s : State) (c : CtxId) : State :=
  if s.granted c && (s.ctx c).state == .stopped then s.beginSwitch (s.tenantOf c) (some c) none none else s

/-- OP 3 of DBG_CMD (R393). -/
def State.dbgRestoreNow (s : State) (c : CtxId) : State :=
  let stopped := s.headerValid c && (s.num (s.areaOf c) 8).testBit 33
  if s.granted c && (s.ctx c).state == .saved && stopped then
    let t := s.tenantOf c
    s.beginSwitch t (if t = 0 then s.run else none) (some c) none
  else s

/-- A command is carried out, or waits for the switch in progress to end, in order of the writes. -/
def State.command (s : State) (d : HeldCmd) : State :=
  if s.switch.isSome then { s with heldCmds := s.heldCmds ++ [d] }
  else match d with
    | .preempt c => s.preemptNow c
    | .endPreempt => s.endPreemptNow
    | .dbgSave c => s.dbgSaveNow c
    | .dbgRestore c => s.dbgRestoreNow c

/-- The commands that waited are carried out; one that starts a switch holds those after it. -/
def State.heldNow (s : State) : State := s.heldCmds.foldl State.command { s with heldCmds := [] }

/-- A command of CTX_CMD, rather than one of DBG_CMD. -/
def HeldCmd.ofCtx : HeldCmd → Bool
  | .preempt _ => true
  | .endPreempt => true
  | .dbgSave _ => false
  | .dbgRestore _ => false

/-- CTX_CMD is BUSY: a pre-emption, or the end of one, is in progress (R339). -/
def State.ctxBusy (s : State) : Bool :=
  (match s.switch with
    | some w => w.reason == some 0x381
    | none => false) ||
  s.heldCmds.any HeldCmd.ofCtx
/-- DBG_CMD is BUSY: a save, a restore or a step that it asked for is in progress (R393). -/
def State.dbgBusy (s : State) : Bool :=
  s.warps.any (fun e => e.2.stepping) ||
  (match s.switch with
    | some w => w.reason.isNone
    | none => false) ||
  s.heldCmds.any (fun d => !d.ofCtx)

/-! ### Revoking the debug right (R395) -/

/-- A Stopped context goes on (R327, R344, R389). -/
def State.resumeCtx (s : State) (c : CtxId) : State :=
  { s with warps := Tab.map (fun _ (w : Warp) => if w.ctx = c then w.resume s.ft else w) s.warps }.setCState c .running

/-- A byte of a barrier's image without its WMODE. -/
def clearWmode (off : Nat) (b : Byte) : Byte :=
  if 0x126000 ≤ off ∧ off < 0x127400 ∧ off % 16 = 11 then b &&& ~~~(0x0C : Byte) else b
/-- Whether a record offset lies in the held watch hit of a control block. -/
def hitByte (off : Nat) : Bool := decide (off < 0x8000) && decide (0x3F2 ≤ off % 0x800) && decide (off % 0x800 < 0x400)

/-- The images of a context without WMODEs and held watch hits. -/
def State.clearImages (s : State) (c : CtxId) : State :=
  let a := s.recAddr c 0
  let inRec := fun (m : Nat) => decide (a ≤ m) && decide (m < a + 256 * 0x128000)
  let off := fun (m : Nat) => (m - a) % 0x128000
  let t := (s.mem.filter (fun e => !(inRec e.1 && hitByte (off e.1)))).map (fun e =>
    (e.1, if inRec e.1 then clearWmode (off e.1) e.2 else e.2))
  { s with mem := t.filter (fun e => e.2 != 0) }

/-- Barrier objects without WMODEs. -/
def clearBars (t : Tab Barrier) : Tab Barrier :=
  List.filter (fun e => e.2 != {}) (Tab.map (fun _ (o : Barrier) => { o with wmode := 0 }) t)

/-- The context's stops end: it goes on, or its image will (R395). -/
def State.unstop (s : State) (c : CtxId) : State :=
  let s := if (s.ctx c).state = .stopped then s.resumeCtx c else s
  let a := s.areaOf c
  let s := if s.isSaved c then s.setByte (a + 4) (s.byte (a + 4) &&& ~~~(2 : Byte)) else s
  { s with switch := s.switch.map (fun w => if w.src = some c then { w with stopped := false } else w) }

/-- The debug right of context `c` is revoked (R395). -/
def State.revoke (s : State) (c : CtxId) : State :=
  let n := s.nextId
  let x := s.ctx c
  let s := (s.setCtx c { x with dbgRight := 0 }).fresh1
  let s := s.unstop c
  let s := { s with
    warps := Tab.map (fun _ (w : Warp) => if w.ctx = c then { w with watch := none, trapWatch := none, stepping := false } else w) s.warps
    keptWarps := s.keptWarps.map (fun (w : KeptWarp) => if w.ctx = c then { w with ownWatch := none } else w)
    teams := Tab.map (fun _ (t : Team) => if t.ctx = c then { t with bars := clearBars t.bars } else t) s.teams
    cohorts := Tab.map (fun _ (t : Cohort) => if t.ctx = c then { t with bars := clearBars t.bars } else t) s.cohorts
    watches := List.filter (fun e => e.2 != 0) (Tab.map (fun _ (v : BitVec 128) =>
      if v.extractLsb' 96 12 = c then v &&& ~~~((7 : BitVec 128) <<< 108) else v) s.watches)
    barHits := s.barHits.filter (fun e => e.1 != c) }
  let s := if s.headerValid c && x.state != .free && x.state != .idle then s.clearImages c else s
  let f := fun k => Config.noWarp n k
  s.trace { ft := s.now, kind := 2, cause := 0, ctx := c, gen := x.gen, lrec := f 0, wid := f 1, pc := f 2,
            core := (f 3).toNat % 256, slot := (f 4).toNat % 16, inSysc := false, trapMode := false, service := 0,
            em := 0, flm := 0 }

/-- Revocations that waited for a command in progress take place once none is (R395). -/
def State.revokeHeld (s : State) : State :=
  if s.dbgBusy then s else s.revokes.foldl (fun (s : State) c => { s.revoke c with revokes := s.revokes.erase c }) s
/-- GRANT of a context is cleared: now, or once the command in progress has ended (R395). -/
def State.askRevoke (s : State) (c : CtxId) : State :=
  if !s.granted c || s.revokes.contains c then s else { s with revokes := s.revokes ++ [c] }.revokeHeld

/-! ### RESTORE_COMPLETE -/

/-- The end of a switch: split mode takes its new value where it may, the new context is restored, and a command that waited
begins (R327, R328, R340). -/
def State.endSwitch (s : State) (w : Switch) : State :=
  let cores := List.range 256
  let s := (cores.filter (s.leaving w)).foldl (fun s k => s.splitOff w k) s
  let s := (cores.filter (s.turnsOn w)).foldl (fun s k => (s.setActive k true).restoreT1 k) s
  let s := if w.tenant = 0 then s.repairDone else s
  let s := match w.dst with
    | none => s
    | some d => s.startCtx d w.fresh (fun t => t.servers d)
  let s : State := if w.tenant = 0 then { s with run := w.dst } else s
  let s := if w.reason == some 0x381 && s.preempt.isSome then { s with preemptFrom := s.ft } else s
  { s with switch := none }.heldNow

/-- RESTORE_COMPLETE: once the last core record is read (R327). A tenant 1 that leaves a core has drained there. -/
def execRestoreComplete (s : State) : Host.Outcome State Fault Refusal :=
  match s.switch with
  | none => .next s
  | some w =>
    if w.phase = 2 ∧ (List.range 256).all (fun k => !s.leaving w k || s.drained k .upper) = true then .next (s.endSwitch w).revokeHeld
    else .next s

/-- The field CTX of CTX_CMD takes what a command wrote (R3, R339). -/
def State.ctxWrite (s : State) (c : CtxId) : State := s.setReg 0x6400 (c.setWidth 64 <<< 32)
/-- CTX_CMD_PREEMPT (R339). -/
def execCtxCmdPreempt (i : CtxId) (s : State) : Host.Outcome State Fault Refusal :=
  .next (if s.ctxBusy then s else (s.ctxWrite i).command (.preempt i))
/-- CTX_CMD_END_PREEMPT (R339). -/
def execCtxCmdEndPreempt (s : State) : Host.Outcome State Fault Refusal :=
  .next (if s.ctxBusy || s.preempt.isNone then s else s.command .endPreempt)
/-- CTX_CMD_RESUME (R339). -/
def execCtxCmdResume (i : CtxId) (s : State) : Host.Outcome State Fault Refusal :=
  .next (if s.ctxBusy then s else if (s.ctx i).state = .stopped then (s.ctxWrite i).resumeCtx i else s.ctxWrite i)

/-! ### Discard (R327, R398) -/

/-- The versions and snapshots that a context holds are given up (R296, R300). -/
def State.dropVersions (s : State) (c : CtxId) : State :=
  { s with
    chains := List.filter (fun e => e.2 != s.newChain) (Tab.map (fun _ (x : Chain) => match x.tentative with
      | some (o, _) => if o / 4096 = c.toNat then { x with tentative := none, installing := false } else x
      | none => x) s.chains)
    dies := Tab.map (fun _ (d : Die) => { d with
      snaps := d.snaps.filter (fun e => !(e.2.used && e.2.ctx == c))
      poolWait := d.poolWait.filter (fun o => o / 4096 != c.toNat)
      copies := d.copies.filter (fun e => !(e.2.elim false (fun x => x.1 == c))) }) s.dies }

/-- Everything that a context has on its cores is gone; `live` when it holds them. -/
def State.dropCores (s : State) (c : CtxId) (live : Bool) : State :=
  let s := if live then (s.servers c).foldl (fun s e => s.setCore e.1 ((s.core e.1).without e.2)) s else s
  { s with
    warps := s.warps.filter (fun e => e.2.ctx != c || e.2.stat == .free)
    regions := s.regions.filter (fun e => (s.team e.2.anchor).ctx != c || (s.team e.2.anchor).used == false)
    teams := s.teams.filter (fun e => e.2.ctx != c)
    cohorts := s.cohorts.filter (fun e => e.2.ctx != c) }

/-- The accesses of a context whose answers are on their way (R337). -/
def State.flights (s : State) (c : CtxId) : List (Nat × CtxId × BitVec 16) :=
  let gen := (s.ctx c).gen
  ((s.remotes.filter (fun r => r.ctx == c && r.warp != seqWarp)).map (fun r => (r.tag, c, r.gen))) ++
    (s.warps.flatMap (fun e => if e.2.ctx = c then e.2.pending.filterMap Pending.tag else [])).map (fun t => (t, c, gen)) ++
    ((s.lateRes.filter (fun e => e.ctx == c)).filterMap (fun e => e.pend.tag.map (fun t => (t, c, e.gen)))) ++
    ((s.lateCopies.filter (fun l => l.ctx == c && l.dests != [])).map (fun l => (l.tag, c, l.gen)))

/-- What the package keeps of a context in flight or beside its image is dropped; the answers that still come find nothing (R337). -/
def State.dropFlights (s : State) (c : CtxId) : State :=
  { s with
    cutOff := s.cutOff ++ s.flights c
    faultOpen := s.faultOpen.filter (fun r => r.ctx != c), remotes := s.remotes.filter (fun r => r.ctx != c || r.warp == seqWarp)
    reduce := s.reduce.filter (fun p => match p with
      | .ldredResult _ r => s.lateRes.all (fun e => !(e.ctx == c && e.warp == r.warp && e.pend.id == r.id))
      | .copyData .. => true
      | .copyAck .. => true
      | .storeAck .. => true
      | .orphan .. => true
      | .atomResult .. => true)
    lateRes := s.lateRes.filter (fun e => e.ctx != c), lateCopies := s.lateCopies.filter (fun l => l.ctx != c)
    keptRegions := s.keptRegions.filter (fun e => e.1 != c), keptWarps := s.keptWarps.filter (fun w => w.ctx != c)
    keptPorts := s.keptPorts.filter (fun p => p.ctx != c), keptHolds := s.keptHolds.filter (fun p => p.ctx != c), barHits := s.barHits.filter (fun e => e.1 != c) }

/-- The launches of a context that are in progress end DISCARDED (R318, R398). -/
def State.dropLaunches (s : State) (c : CtxId) : State :=
  let mine := s.launches.filter (fun l => l.ctx == c && l.state != .queued)
  let s := mine.foldl (fun (s : State) l =>
    if s.seqWritable c (l.recva + 0x100) 64 then s.seqWrite s c (l.recva + 0x138) (bytesLE 8 3) else s) s
  { s with launches := s.launches.filter (fun l => l.ctx != c || l.state == .queued) }

/-- The switch in progress goes on without a context; the package runs none in its place (R327). The slot of another context that the
switch brings in still ends in its time (R325). -/
def State.abandon (s : State) (c : CtxId) : State :=
  let other := s.switch.any (fun w => w.tenant == 0 && w.dst.isSome && w.dst != some c)
  let mine := s.run == some c || s.switch.any (fun w => w.dst == some c)
  let s := { s with
    run := if s.run = some c then none else s.run, preempt := if s.preempt = some c then none else s.preempt
    slotEnd := if mine && !other then none else s.slotEnd }
  match s.switch with
  | none => s
  | some w =>
    let w : Switch := { w with dst := if w.dst = some c then none else w.dst }
    if w.src = some c then
      (if w.phase = 1 then { s with switch := some w }.toRestore { w with src := none }
       else { s with switch := some { w with src := none } })
    else { s with switch := some w }

/-- A discard of context `c` with a cause, found on die `die` (R398). -/
def State.discardCtx (s : State) (c : CtxId) (cause : Cause) (die : Nat) : State :=
  if [CState.running, .stopped, .saved, .saving, .restoring].contains (s.ctx c).state then
    let n := s.nextId
    let gen := (s.ctx c).gen
    let live := (s.ctx c).state != .saved
    let s := (((s.setCState c .discarding).dropLaunches c).dropVersions c)
    let s := (s.dropFlights c).dropCores c live
    let a := s.areaOf c
    let s := s.setByte (a + 4) (s.byte (a + 4) &&& ~~~(1 : Byte))
    let s := s.fault { s.recDie c 4 cause 0 (0x8000 + die) with gen := gen }
    let f := fun k => Config.noWarp n k
    let s := s.trace { ft := s.now, kind := 3, cause := cause, ctx := c, gen := gen, lrec := f 0, wid := f 1, pc := f 2,
                       core := (f 3).toNat % 256, slot := (f 4).toNat % 16, inSysc := false, trapMode := false, service := 0,
                       em := 0, flm := 0 }
    (s.setCState c .idle).abandon c
  else s

/-- CTX_CMD_DISCARD (R398): cause 0x384. -/
def execCtxCmdDiscard (i : CtxId) (s : State) : Host.Outcome State Fault Refusal :=
  .next (if s.ctxBusy then s else (s.ctxWrite i).discardCtx i 0x384 (Config.reportDie s.nextId % 4))

/-! ### The bill (R322 to R325) -/

/-- BILL_ENTRY_RECEIVE: an entry enters the ring and is acknowledged, or is discarded (R324). -/
def execBillEntryReceive (i : BillEntry) (s : State) : Host.Outcome State Fault Refusal :=
  let e : Entry := ⟨i.ft, i.w.setWidth 12, i.w.extractLsb' 12 2, i.w.extractLsb' 16 16, i.w.extractLsb' 32 32⟩
  let after := match s.bill.getLast? with
    | none => true
    | some b => decide (b.ft.toNat < e.ft.toNat)
  if s.ft.toNat + 3200000 ≤ e.ft.toNat ∧ field e.ft 0 6 = 0 ∧ e.kind ≠ 3 ∧ after = true ∧ s.bill.length < 16 then
    .next { s with
      bill := s.bill ++ [e]
      out := match s.ringmaster with
        | some p => s.out ++ [⟨p, 0, 0, none, false, 0, .billAck e.ft, none⟩]
        | none => s.out }
  else .next { s with late := s.late + 1 }

/-- Stamps of a version chain after a renewal. -/
def Chain.rebased (c : Chain) : Chain :=
  { c with stamp := ⟨rebase1 c.stamp.ft, c.stamp.peer⟩, olds := c.olds.map (fun v => (⟨rebase1 v.1.ft, v.1.peer⟩, v.2)) }
/-- A command's snapshot time after a renewal. -/
def Cmd.rebased (c : Cmd) : Cmd :=
  match c.body with
  | .copy q => { c with body := .copy { q with snap := rebase1 q.snap } }
  | _ => c
/-- A port after a renewal. -/
def Port.rebased (x : Port) : Port := { x with queue := x.queue.map Cmd.rebased, exec := x.exec.map Cmd.rebased }
/-- A warp after a renewal. -/
def Warp.rebased (w : Warp) : Warp :=
  { w with snap := rebase1 w.snap, txStart := rebase1 w.txStart, since := rebase1 w.since, snapWait := w.snapWait.map rebase1
           txWait := w.txWait.map (fun t => (rebase1 t.1, t.2)) }
/-- A launch after a renewal. The differences of FT0, FT1 and FT2 are those of the time that passed (R319). -/
def Launch.rebased (l : Launch) : Launch :=
  { l with ftl := rebase1 l.ftl, ft0 := l.ft0 - BitVec.ofNat 64 (2 ^ 62), ft1 := l.ft1 - BitVec.ofNat 64 (2 ^ 62)
           ft2 := l.ft2 - BitVec.ofNat 64 (2 ^ 62) }
/-- A bill entry after a renewal. -/
def Entry.rebased (e : Entry) : Entry := { e with ft := rebase1 e.ft }

/-- Epoch renewal: Δ leaves the clock and every time that the package keeps (R322). -/
def State.renewEpoch (s : State) : State :=
  { s with
    ft := rebase1 s.ft, epochs := s.epochs + 1, rf := rebase1 s.rf, lastStamp := rebase1 s.lastStamp
    pwSentAt := rebase1 s.pwSentAt, pws := Tab.map (fun _ t => t.map rebase1) s.pws, bill := s.bill.map Entry.rebased
    lastEntry := s.lastEntry.map Entry.rebased, slotEnd := s.slotEnd.map rebase1, preemptFrom := rebase1 s.preemptFrom
    switch := s.switch.map (fun w => { w with since := rebase1 w.since })
    leases := s.leases.map (fun l => { l with till := rebase1 l.till })
    launches := s.launches.map Launch.rebased
    warps := Tab.map (fun _ w => w.rebased) s.warps, chains := Tab.map (fun _ c => c.rebased) s.chains
    dies := Tab.map (fun _ (d : Die) => { d with
      snaps := Tab.map (fun _ (e : Snap) => { e with ft := rebase1 e.ft }) d.snaps
      usherAt := rebase1 d.usherAt, foragerAt := rebase1 d.foragerAt }) s.dies
    cores := Tab.map (fun _ (c : Core) => { c with ports := Tab.map (fun _ x => x.rebased) c.ports }) s.cores
    keptPorts := s.keptPorts.map (fun p => { p with what := p.what.rebased }) }

/-- The row of R325 that an entry takes: the context to run, if any. -/
def State.entryCtx (s : State) (e : Entry) : Option CtxId :=
  if e.kind = 1 then none
  else if s.run = some e.ctx ∧ (s.ctx e.ctx).gen = e.gen then some e.ctx
  else if s.descGen e.ctx ≠ e.gen ∨ s.descValid e.ctx = false ∨ s.descResident e.ctx = true then none
  else some e.ctx

/-- An entry whose time has come, out of the ring: performed, unless it fell due while an out-of-turn context held the package. One
that fell due before the command of a pre-emption had ended is performed, which ends the pre-emption (R325, R339; log entry 77). -/
def State.perform (s : State) (e : Entry) : State :=
  let s := if e.kind = 2 then s.renewEpoch else s
  let e := if e.kind = 2 then e.rebased else e
  let s := { s with lastEntry := some e }
  if s.preempt.isSome ∧ s.preemptFrom.toNat < e.ft.toNat then s
  else
    let dst := s.entryCtx e
    let s := { s with slotEnd := if dst.isSome then e.over else none, preempt := none }
    if dst.isSome ∧ dst = s.run then s else s.beginSwitch 0 s.run dst (some 0x380)

/-- BILL_ENTRY_PERFORM (R325): when FT has reached the head of the ring and no switch is in progress. -/
def execBillEntryPerform (s : State) : Host.Outcome State Fault Refusal :=
  match s.bill with
  | [] => .next s
  | e :: es =>
    if e.ft.toNat ≤ s.ft.toNat ∧ s.switch = none then .next ({ s with bill := es }.perform e) else .next s

/-- SLOT_END (R325): no entry has been performed by the time the slot ends. -/
def execSlotEnd (s : State) : Host.Outcome State Fault Refusal :=
  match s.slotEnd with
  | none => .next s
  | some t =>
    let due := match s.bill with
      | [] => false
      | e :: _ => decide (e.ft.toNat ≤ t.toNat)
    if t.toNat ≤ s.ft.toNat ∧ due = false ∧ s.switch = none ∧ s.preempt = none then
      .next ({ s with slotEnd := none }.beginSwitch 0 s.run none (some 0x380))
    else .next s

/-! ### Time and the ringmaster (R321, R323) -/

/-- PTP_FRAME: a rate correction, never beyond 200 parts per million, and an offset from the grandmaster, beyond 25 ns of which
SYNCERR is set (R320, R321; log entry 86). -/
def execPtpFrame (i : PtpFrame) (s : State) : Host.Outcome State Fault Refusal :=
  let ppm := if 200 < i.ppm then 200 else if i.ppm < -200 then -200 else i.ppm
  .next { s with ppm := ppm, offset := i.offset, syncErr := decide (25 * 64 < i.offset.natAbs) }

/-- Whether candidate `a` comes before `b`: the lower priority, then the lower peer number. -/
def before (a b : BitVec 16 × Peer) : Bool := decide (a.1.toNat < b.1.toNat) || (a.1 == b.1 && decide (a.2.toNat < b.2.toNat))

/-- A Keyed port whose neighbour is a peer of the clearing is Up (R350). -/
def Link.admitted (l : Link) (clearing : List Peer) : Link :=
  if l.state = 3 ∧ clearing.contains l.peer = true then { l with state := 4 } else l

/-- RINGMASTER_ELECTION (R323): every package of the clearing is a candidate. The winner's own FT is the grandmaster's (R321). -/
def execRingmasterElection (i : Election) (s : State) : Host.Outcome State Fault Refusal :=
  let all := if i.candidates.any (fun c => c.2 == s.peer) then i.candidates else i.candidates ++ [(s.prio, s.peer)]
  let win := all.foldl (fun (b : Option (BitVec 16 × Peer)) c => match b with
    | none => some c
    | some d => if before c d then some c else some d) none
  let own := win.map (·.2) == some s.peer
  .next { s with ringmaster := win.map (·.2), clearing := all.map (·.2)
                 offset := if own then 0 else s.offset, syncErr := !own && s.syncErr
                 links := Tab.map (fun _ (l : Link) => l.admitted (all.map (·.2))) s.links }

/-! ### Late packets (R338) -/

/-- The old value of an atomic for one lane of a saved warp's destination register (R186). -/
def State.imageOld (s : State) (c : CtxId) (k : Nat) (p : Pending) (lane : Nat) (bytes : List Byte) : State :=
  match p.kind with
  | .atomr d wide _ =>
    if p.lanes.getLsbD lane then
      let t := s.writeCells (bytes.take 4 |>.zipIdx |>.map (fun b => (s.vregAddr c k d lane + b.2, b.1)))
      let t := if wide then t.writeCells ((bytes.drop 4).take 4 |>.zipIdx |>.map (fun b =>
        (s.vregAddr c k (d + 1) lane + b.2, b.1))) else t
      let rest := p.lanes &&& ~~~(laneBit lane)
      { t.countLate c with lateRes := t.lateRes.filterMap (fun e =>
          if e.pend.id = p.id then (if rest = 0 then none else some { e with pend := { p with lanes := rest } }) else some e) }
    else s
  | _ => s

/-- The result of the fabric that warp `k`'s image awaits under number `id`. -/
def State.lateFor (s : State) (k id : Nat) : Option LateRes := s.lateRes.find? (fun e => e.warp == k && e.pend.id == id)

/-- LATE_PACKET_APPLY (R338). A result of another generation is dropped, and counted (R337). -/
def execLatePacketApply (i : LatePacket) (s : State) : Host.Outcome State Fault Refusal :=
  match i with
  | .copyData port tag bytes => .next (s.copyData port tag bytes)
  | .copyAck port tag => .next (s.acked port tag)
  | .storeAck port tag => .next (s.acked port tag)
  | .orphan port tag => .next (s.orphan port tag)
  | .atomResult port warp id lane bytes =>
    match s.lateFor warp id with
    | none => .next s
    | some e =>
      if e.gen ≠ s.genNow e.ctx then .next (s.genDrop port)
      else if bytes.length < 8 then .next (s.imageOld e.ctx warp e.pend lane (bytes ++ List.replicate 8 0))
      else .next (s.imageOld e.ctx warp e.pend lane bytes)
  | .ldredResult port r =>
    match s.lateFor r.warp r.id with
    | none => .next s
    | some e =>
      if e.gen ≠ s.genNow e.ctx then .next (s.genDrop port)
      else if s.reduce.contains (.ldredResult port r) then .next s
      else .next { s with reduce := s.reduce ++ [.ldredResult port r] }

/-! ### Replies to system calls (R343) -/

/-- SYSC_REPLY, an acquire at `.package` (R342, R343, R338). -/
def execSyscReply (i : SyscReply) (s : State) : Host.Outcome State Fault Refusal :=
  let k := i.core * 16 + i.slot
  if i.gen ≠ s.genNow i.ctx then .next s
  else if s.savedOn i.ctx i.core then
    let a := s.wcbAddr i.ctx k
    let st := s.savedStat i.ctx k
    if s.slotSaved i.ctx k = true ∧ (st % 8 = 2 ∨ st % 8 = 5) ∧ bitsAt st 3 5 = 22 then
      let t := (s.setDword (a + 0x410) i.s2).setDword (a + 0x418) i.s3
      .next (t.putNum (a + 0x18) 4 (st - 22 * 8 - (if st % 8 = 2 then 1 else 0)))
    else .next s
  else
    let w := s.warp k
    if w.ctx = i.ctx ∧ (w.stat = .parked ∨ w.stat = .halted) ∧ w.reason = 22 then
      let sw := match w.ir with
        | some f => f.w0.getLsbD 2
        | none => false
      let v := ((w.setS 2 i.s2).setS 3 i.s3).finish sw
      .next ((s.setWarp k (if w.stat = .halted then v.stop s.ft else v)).acquireOf k 2)
    else .next s

/-! ### Shootdown (R167) -/

/-- SHOOTDOWN_START: SD_CTL.GO, ignored while one is in progress. -/
def execShootdownStart (i : CtxId) (s : State) : Host.Outcome State Fault Refusal :=
  .next (if s.sdBusy then s else { s with sdBusy := true, sdCtx := i, win := Tab.set 0 s.win 0x2010 (i.setWidth 64 <<< 32) })

/-- Whether a page lies in the range that SD_BASE and SD_LIMIT hold now (log entry 79). -/
def State.inShootdown (s : State) (page : Nat) : Bool :=
  decide (field (s.reg 0x2000) 12 52 ≤ page) && decide (page ≤ field (s.reg 0x2008) 12 52)

/-- Whether a pending load of a warp reads another package through a page of the range. -/
def State.loadInRange (s : State) (w : Warp) (p : Pending) : Bool :=
  match p.kind with
  | .remote _ sz _ _ eas _ _ _ _ _ => (lanesOf p.lanes).any (fun i =>
      let a := Tab.get 0 eas i
      s.inShootdown (a.toNat / 4096) || s.inShootdown ((a.toNat + sz.bytes - 1) / 4096))
  | .fill _ _ ea _ _ _ _ => s.inShootdown (ea.toNat / 4096) || s.inShootdown ((ea.toNat + 131) / 4096)
  | .hrec _ ea _ _ _ => s.inShootdown (ea.toNat / 4096)
  | .entry d _ _ _ => s.inShootdown ((w.spillVa d).toNat / 4096)
  | .value .. => false
  | .atomr .. => false
  | .copy .. => false
  | .accrd _ => false
  | .ldred .. => false
  | .stmc _ => false
  | .held => false

/-- Whether some access that used a translation of the context in the range has not performed: a remote store or atomic to a
page that such a translation names, a remote load through such a page, a copy part that waits for its responses. -/
def State.usesRange (s : State) (c : CtxId) : Bool :=
  s.remotes.any (fun r => r.ctx == c && s.tlb.any (fun e => e.ctx == c && s.inShootdown e.vpage && e.trans.peer == r.peer &&
    e.trans.page == r.line * 128 / 4096 * 4096)) ||
  s.warps.any (fun e => e.2.ctx == c && (e.2.pending.any (s.loadInRange e.2) ||
    e.2.deferred.any (fun d => d.pins.any (fun p => s.inShootdown p.1)))) ||
  s.cores.any (fun e => [4, 5].any (fun p =>
    let x := e.2.port p
    (match x.exec with
      | some d => (s.team d.team).ctx == c
      | none => false) && x.prog.remote.isSome && x.prog.pages.any s.inShootdown)) ||
  s.lateCopies.any (fun l => l.ctx == c && l.dests != [])

/-- RANGE and TROOT of a context: as its last restore read them while it is on the package, else as its descriptor holds them (R326). -/
def State.tables (s : State) (c : CtxId) : Nat × Nat :=
  match (s.ctx c).state with
  | .running | .stopped | .saving => ((s.ctx c).range.toNat, (s.ctx c).troot.toNat)
  | .free | .idle | .saved | .discarding | .restoring => (s.num (s.descAddr c + 16) 8, s.num (s.descAddr c + 8) 8)
/-- Whether the tables of a context that is not Free lead from an address to page `page` of the package's memory as a versioned page. -/
def State.leadsFrom (s : State) (c : CtxId) (page : Nat) (va : DWord) : Bool :=
  decide ((s.ctx c).state ≠ .free) && match s.freshBy (s.tables c).1 (s.tables c).2 0 va with
  | .ok t => t.vers && t.page == page * 4096
  | .error _ => false
/-- Whether an address that passes a test may lead to page `page`: each leaf of the `n` levels from the table at `table` on gives the one
address, from `base` on, that could (R159). -/
def State.leafLeads (s : State) (f : DWord → Bool) (page : Nat) : Nat → Nat → Nat → Bool
  | 0, _, _ => false
  | n + 1, table, base =>
    (List.range 512).any (fun i =>
      let e := s.dword (table + 8 * i)
      let va := base + i * 2 ^ (12 + 9 * n)
      e.getLsbD 0 && (if e.getLsbD 1 then State.leafLeads s f page n (field e 12 28 * 4096) va
        else f (BitVec.ofNat 64 (va + (page * 4096 + 2 ^ 40 - field e 12 28 * 4096) % 2 ^ (12 + 9 * n)))))
/-- Whether the tables of a context map page `page` of the package's memory as a versioned page (R291). -/
def State.tablesMap (s : State) (c : CtxId) (page : Nat) : Bool :=
  let f := s.leadsFrom c page
  (List.range 64).any (fun i =>
      let a := (s.tables c).1 + 32 * i
      (s.dword (a + 24)).getLsbD 0 && f (s.dword a + BitVec.ofNat 64 (page * 4096) - s.dword (a + 16))) ||
    s.leafLeads f page 4 (s.tables c).2 0

/-- The pages of the range that the shootdown finds changed are mapped no more; the lines of a versioned page that nothing maps now have
their first version again when it is mapped anew, unless a transaction still holds them (R167, R291; log entry 78). -/
def State.unmapped (s : State) : State :=
  let s := { s with mapped := s.mapped.filter (fun (m : CtxId × Nat × Nat) =>
    !(m.1 == s.sdCtx && s.inShootdown m.2.1) ||
      s.leadsFrom m.1 m.2.2 (BitVec.ofNat 64 (m.2.1 * 4096))) }
  let kept := fun (p : Nat) => s.mapped.any (fun (m : CtxId × Nat × Nat) => m.2.2 == p) ||
    s.tlb.any (fun e => e.trans.vers && e.trans.page == p * 4096) || s.ctxs.any (fun e => s.tablesMap (BitVec.ofNat 12 e.1) p)
  { s with chains := s.chains.filter (fun c => c.2.tentative.isSome || kept (c.1 * 128 / 4096)) }

/-- SHOOTDOWN_DONE: every cache drops the translations of the context in the range, once every access that used one has
performed. The range is that which SD_BASE and SD_LIMIT hold then (log entry 79). -/
def execShootdownDone (s : State) : Host.Outcome State Fault Refusal :=
  .next (if s.sdBusy && !s.usesRange s.sdCtx then
    let hit := fun (e : TlbEntry) => e.ctx == s.sdCtx && s.inShootdown e.vpage
    { s with sdBusy := false, tlb := s.tlb.filter (fun e => !hit e) }.unmapped
  else s)

end Sys2Proof.Machine
end

