-- ==== Sys2Proof/Machine/Control.lean ====
section
/-! DEFINITION. Control flow (07_group.md R147 to R152): branches, calls, returns, YIELD, NOP, trampolines and SYNCW. EXIT stands
with the life of a group. -/

namespace Sys2Proof.Machine

/-- A displacement in units of 4 bytes (R52). -/
def disp4 (x : Word) : DWord := sx64 x <<< 2

/-- The answer of an instruction whose path operations may fail: nothing is performed then (R145). -/
def State.orPathErr (s : State) (r : Except PathErr State) : Host.Outcome State Fault Refusal :=
  match r with
  | .ok t => .next (t.pathStop (s.trapMap 0x2C1 0 0 0))
  | .error e => .next (s.pathErr e)

/-- Participating lanes whose target is no multiple of 4 (R153). -/
def badTargets (m : Mask) (dest : Nat → DWord) : Mask := maskOf (fun i => m.getLsbD i && (dest i).toNat % 4 != 0)

/-- A branch or call of R147: `dest` for participating lanes, `next` for the others; then `write`, and the end of the
instruction. -/
def State.branch (s : State) (h : Hdr) (next : DWord) (dest : Nat → DWord) (join : DWord) (pushJoin : Bool)
    (after : State → Except PathErr State) (write : Warp → Warp) : Host.Outcome State Fault Refusal :=
  let m := s.w.parts h
  let bad := badTargets m dest
  if bad ≠ 0 then .next (s.precise 0x088 bad ((lowLane bad).elim 0 dest))
  else s.orPathErr (
    match s.transfer (fun i => if m.getLsbD i then dest i else next) join pushJoin next with
    | .error e => .error e
    | .ok t => match after t with
      | .error e => .error e
      | .ok t => .ok (t.upd (fun w => (write w).finish h.sw)))

/-- BRA (R147), with the rotation count of R144: a BRA that pushes nothing and whose displacement is 0 or negative. -/
def execBra (i : Bra) (s : State) : Host.Outcome State Fault Refusal :=
  let pc := s.w.pc
  let depth := s.w.depth
  s.branch i.h (s.following 16) (fun _ => pc + disp4 i.target) (pc + disp4 i.join) true
    (fun t => if i.target.toInt ≤ 0 ∧ t.w.depth = depth then t.countSpin else .ok t) id

/-- BRX (R147). -/
def execBrx (i : HAI) (s : State) : Host.Outcome State Fault Refusal :=
  let w := s.w
  s.branch i.h (s.following 12) (fun n => w.v64 i.a.toNat n) (w.pc + disp4 i.imm) true .ok id

/-- CALL (R147). -/
def execCall (i : HDI) (s : State) : Host.Outcome State Fault Refusal :=
  let w := s.w
  let next := s.following 12
  s.branch i.h next (fun _ => w.pc + disp4 i.imm) next true .ok
    (fun v => v.setLanes64 (w.parts i.h) i.d.toNat (fun _ => next))

/-- CALLX (R147). -/
def execCallx (i : HDAI) (s : State) : Host.Outcome State Fault Refusal :=
  let w := s.w
  let next := s.following 12
  s.branch i.h next (fun n => w.v64 i.a.toNat n) (w.pc + disp4 i.imm) true .ok
    (fun v => v.setLanes64 (w.parts i.h) i.d.toNat (fun _ => next))

/-- RET (R147). -/
def execRet (i : HA) (s : State) : Host.Outcome State Fault Refusal :=
  let w := s.w
  s.branch i.h (s.following 8) (fun n => w.v64 i.a.toNat n) 0 false .ok id

/-- YIELD (R150). -/
def execYield (i : Hdr) (s : State) : Host.Outcome State Fault Refusal :=
  s.warpNext (fun w => Warp.retire { w with yielding := if w.any i then 4 else w.yielding } 8 i.sw)

/-- NOP (R150). -/
def execNop (i : Hdr) (s : State) : Host.Outcome State Fault Refusal := s.warpNext (fun w => w.retire 8 i.sw)

/-- The warps of the quadrant of warp `k`: slots that agree modulo 4. -/
def quadrantOf (k : Nat) : List Nat := (List.range 4).map (fun n => k / 16 * 16 + 4 * n + k % 4)

/-- YIELD_EXPIRY of warp `i`: no other warp of its quadrant is Ready, so it is Ready at once (R150). -/
def execYieldExpiry (i : Nat) (s : State) : Host.Outcome State Fault Refusal :=
  let others := (quadrantOf i).filter (fun n => n != i)
  if others.any (fun n => (s.warp n).stat == .ready && (s.warp n).yielding == 0) then .next s
  else .next (s.setWarp i { s.warp i with yielding := 0 })

/-- TRAMP (R151, R381). Its causes, and those of TRET, name no fault lanes: em (log entry 73). -/
def execTramp (i : Tramp) (s : State) : Host.Outcome State Fault Refusal :=
  if s.w.trapMode then .next (s.precise 0x191 s.w.em s.noAddr)
  else if s.w.trampLink.getLsbD 0 then .next (s.precise 0x183 s.w.em s.noAddr)
  else s.warpNext (fun w =>
    Warp.finish { w with trampLink := ((w.pc + 8) &&& ~~~(3 : DWord)) ||| 1, pc := w.pc + (i.disp.signExtend 64 <<< 2) } i.sw)

/-- TRET (R151, R381). -/
def execTret (i : Bool) (s : State) : Host.Outcome State Fault Refusal :=
  if s.w.trapMode then .next (s.precise 0x191 s.w.em s.noAddr)
  else if !s.w.trampLink.getLsbD 0 then .next (s.precise 0x184 s.w.em s.noAddr)
  else s.warpNext (fun w =>
    Warp.finish { w with trampLink := w.trampLink &&& ~~~(1 : DWord), pc := w.trampLink &&& ~~~(3 : DWord) } i)

/-! ### SYNCW (R152) -/

/-- Every WAIT entry with the mask becomes a PATH entry where it stands. -/
def releaseWaits (m : Mask) (st : List StackEntry) : List StackEntry :=
  st.map (fun e => if e.kind = .wait ∧ e.smask = m then { e with kind := .path, smask := 0 } else e)

/-- SYNCW once its masks agree on `m`. The reference names no fault lanes for the causes 0x181 and 0x185 raised here: those that
participate (R152; log entry 73). -/
def Loaded.sync (l : Loaded) (len : Nat) (parts m : Mask) : Except PathErr State :=
  let s := l.s
  let p := l.path
  let need := m &&& ~~~s.w.exited
  let same := p.st.filter (fun e => e.kind == .wait && e.smask == m)
  let arrived := parts ||| waitMask same
  if p.st.any (fun e => e.kind == .wait && e.smask != m && e.smask &&& m != 0) then .error (.trap 0x181 parts)
  else if need &&& ~~~arrived = 0 then
    l.store { p with pc := p.pc + BitVec.ofNat 64 len, st := releaseWaits m p.st }
  else if need &&& ~~~arrived &&& ~~~pathMask (regionOf p.st) ≠ 0 then .error (.trap 0x185 parts)
  else
    match s.push1 ⟨.wait, s.following len, p.em, p.cj, m⟩ with
    | .error e => .error e
    | .ok t => match t.loadPath with
      | .error e => .error e
      | .ok q => match q.path.next s.w.exited with
        | .error (flm, _) => .error (.trap 0x185 flm)
        | .ok (r, _) => q.store r

/-- SYNCW with each lane's mask. -/
def State.syncw (s : State) (h : Hdr) (len : Nat) (mask : Nat → Mask) : Host.Outcome State Fault Refusal :=
  let parts := s.w.parts h
  match lowLane parts with
  | none => .next (s.retire len h.sw)
  | some l =>
    let m := mask l
    let lacks := maskOf (fun i => parts.getLsbD i && !(mask i).getLsbD i)
    if s.w.trapMode then .next (s.precise 0x191 s.w.em s.noAddr)
    else if lacks ≠ 0 then .next (s.precise 0x182 lacks s.noAddr)
    else if (lanesOf parts).any (fun i => mask i != m) then .next (s.precise 0x181 parts s.noAddr)
    else s.orPathErr (
      match s.loadPath with
      | .error e => .error e
      | .ok l => match l.sync len parts m with
        | .error e => .error e
        | .ok t => .ok (t.upd (fun w => w.finish h.sw)))

/-- SYNCW (R152). -/
def execSyncw (i : HA) (s : State) : Host.Outcome State Fault Refusal :=
  let w := s.w
  s.syncw i.h 8 (fun n => w.v i.a.toNat n)
/-- SYNCW with IMM32 (R152). -/
def execSyncwImm (i : HI) (s : State) : Host.Outcome State Fault Refusal := s.syncw i.h 12 (fun _ => i.imm)

end Sys2Proof.Machine
end

