-- ==== Sys2Proof/Machine/Float.lean ====
section
/-! DEFINITION. The floating-point instructions (06_vector.md R111 to R120) and the narrow-format instructions
(R121 to R125). -/

namespace Sys2Proof.Machine

/-! ### Arithmetic (R111) -/

/-- An exact operation of three values under a direction; two-source operations ignore the third. -/
abbrev FOp := Num → Num → Num → Bool → Num × BitVec 5
/-- a + b. -/
def opAdd : FOp := fun a b _ rd => a.add b rd
/-- a - b. -/
def opSub : FOp := fun a b _ rd => a.add b.neg rd
/-- a × b. -/
def opMul : FOp := fun a b _ _ => a.mul b
/-- a × b + c. -/
def opFma : FOp := fun a b c rd => a.fma b c rd

/-- One result of R111: decoded by TYPE, exact, rounded once. -/
def arith (op : FOp) (ty : FTy) (ftz sat : Bool) (r : Rnd) (draw : Word) (a b c : Nat) : FRes :=
  let f := fmtOf ty
  let x := op (f.decode ftz a) (f.decode ftz b) (f.decode ftz c) (r == .rd)
  let y := f.round x.1 (.rnd r draw) sat
  f.flush ftz ⟨y.val, y.fl ||| x.2⟩

/-- Whether a rounding mode draws SRNext (R91). -/
def isRs (r : Rnd) : Bool := r == .rs

/-- Two sources. -/
def State.fp3 (s : State) (op : FOp) (i : Fp3) : State :=
  let w := s.w
  s.fpV i.h i.d 8 (isRs i.rnd) 1 (fun n =>
    arith op i.ty i.ftz i.sat i.rnd (w.srDraw n 1) (w.aLane i.xl i.a.toNat n).toNat (w.v i.b.toNat n).toNat 0)
/-- Two sources, the second IMM32. -/
def State.fp3I (s : State) (op : FOp) (i : Fp3I) : State :=
  let w := s.w
  s.fpV i.h i.d 12 (isRs i.rnd) 1 (fun n =>
    arith op i.ty i.ftz i.sat i.rnd (w.srDraw n 1) (w.aLane i.xl i.a.toNat n).toNat i.imm.toNat 0)
/-- Three sources. -/
def State.fp4 (s : State) (op : FOp) (i : Fp4) : State :=
  let w := s.w
  s.fpV i.h i.d 8 (isRs i.rnd) 1 (fun n =>
    arith op i.ty i.ftz i.sat i.rnd (w.srDraw n 1) (w.aLane i.xl i.a.toNat n).toNat (w.v i.b.toNat n).toNat
      (w.v i.c.toNat n).toNat)
/-- Three sources, the second IMM32. -/
def State.fp4I (s : State) (op : FOp) (i : Fp4I) : State :=
  let w := s.w
  s.fpV i.h i.d 12 (isRs i.rnd) 1 (fun n =>
    arith op i.ty i.ftz i.sat i.rnd (w.srDraw n 1) (w.aLane i.xl i.a.toNat n).toNat i.imm.toNat (w.v i.c.toNat n).toNat)

/-- FADD (R111). -/
def execFadd (i : Fp3) (s : State) : Host.Outcome State Fault Refusal := .next (s.fp3 opAdd i)

/-- FADD with IMM32 (R111, R55). -/
def execFaddImm (i : Fp3I) (s : State) : Host.Outcome State Fault Refusal := .next (s.fp3I opAdd i)

/-- FSUB (R111). -/
def execFsub (i : Fp3) (s : State) : Host.Outcome State Fault Refusal := .next (s.fp3 opSub i)

/-- FSUB with IMM32 (R111, R55). -/
def execFsubImm (i : Fp3I) (s : State) : Host.Outcome State Fault Refusal := .next (s.fp3I opSub i)

/-- FMUL (R111). -/
def execFmul (i : Fp3) (s : State) : Host.Outcome State Fault Refusal := .next (s.fp3 opMul i)

/-- FMUL with IMM32 (R111, R55). -/
def execFmulImm (i : Fp3I) (s : State) : Host.Outcome State Fault Refusal := .next (s.fp3I opMul i)

/-- FFMA (R111). -/
def execFfma (i : Fp4) (s : State) : Host.Outcome State Fault Refusal := .next (s.fp4 opFma i)

/-- FFMA with IMM32 (R111, R55). -/
def execFfmaImm (i : Fp4I) (s : State) : Host.Outcome State Fault Refusal := .next (s.fp4I opFma i)

/-! ### FP64 (R119) -/

/-- Two sources on pairs. -/
def State.dp3 (s : State) (op : FOp) (i : Fp3) : State :=
  let w := s.w
  s.fpV64 i.h i.d 8 (isRs i.rnd) 1 (fun n =>
    arith op i.ty i.ftz i.sat i.rnd (w.srDraw n 1) (w.aLane64 i.xl i.a.toNat n).toNat (w.v64 i.b.toNat n).toNat 0)

/-- DADD (R119). -/
def execDadd (i : Fp3) (s : State) : Host.Outcome State Fault Refusal := .next (s.dp3 opAdd i)

/-- DMUL (R119). -/
def execDmul (i : Fp3) (s : State) : Host.Outcome State Fault Refusal := .next (s.dp3 opMul i)

/-- DFMA (R119). -/
def execDfma (i : Fp4) (s : State) : Host.Outcome State Fault Refusal :=
  let w := s.w
  .next (s.fpV64 i.h i.d 8 (isRs i.rnd) 1 (fun n =>
    arith opFma i.ty i.ftz i.sat i.rnd (w.srDraw n 1) (w.aLane64 i.xl i.a.toNat n).toNat (w.v64 i.b.toNat n).toNat
      (w.v64 i.c.toNat n).toNat))

/-! ### Packed 16-bit (R120) -/

/-- R111 on both halves; the low half draws first. -/
def arith2 (op : FOp) (ty : FTy) (ftz sat : Bool) (r : Rnd) (d1 d2 : Word) (a b c : Nat) : FRes :=
  FRes.pair (arith op ty ftz sat r d1 (a % 65536) (b % 65536) (c % 65536))
    (arith op ty ftz sat r d2 (a / 65536) (b / 65536) (c / 65536))

/-- Two packed sources. -/
def State.hp3 (s : State) (op : FOp) (i : Fp3) : State :=
  let w := s.w
  s.fpV i.h i.d 8 (isRs i.rnd) 2 (fun n =>
    arith2 op i.ty i.ftz i.sat i.rnd (w.srDraw n 1) (w.srDraw n 2) (w.aLane i.xl i.a.toNat n).toNat (w.v i.b.toNat n).toNat 0)
/-- Two packed sources, the second IMM32. -/
def State.hp3I (s : State) (op : FOp) (i : Fp3I) : State :=
  let w := s.w
  s.fpV i.h i.d 12 (isRs i.rnd) 2 (fun n =>
    arith2 op i.ty i.ftz i.sat i.rnd (w.srDraw n 1) (w.srDraw n 2) (w.aLane i.xl i.a.toNat n).toNat i.imm.toNat 0)

/-- HADD2 (R120). -/
def execHadd2 (i : Fp3) (s : State) : Host.Outcome State Fault Refusal := .next (s.hp3 opAdd i)

/-- HADD2 with IMM32 (R120, R55). -/
def execHadd2Imm (i : Fp3I) (s : State) : Host.Outcome State Fault Refusal := .next (s.hp3I opAdd i)

/-- HMUL2 (R120). -/
def execHmul2 (i : Fp3) (s : State) : Host.Outcome State Fault Refusal := .next (s.hp3 opMul i)

/-- HMUL2 with IMM32 (R120, R55). -/
def execHmul2Imm (i : Fp3I) (s : State) : Host.Outcome State Fault Refusal := .next (s.hp3I opMul i)

/-- HFMA2 (R120). -/
def execHfma2 (i : Fp4) (s : State) : Host.Outcome State Fault Refusal :=
  let w := s.w
  .next (s.fpV i.h i.d 8 (isRs i.rnd) 2 (fun n =>
    arith2 opFma i.ty i.ftz i.sat i.rnd (w.srDraw n 1) (w.srDraw n 2) (w.aLane i.xl i.a.toNat n).toNat
      (w.v i.b.toNat n).toNat (w.v i.c.toNat n).toNat))
/-- HFMA2 with IMM32 (R120, R55). -/
def execHfma2Imm (i : Fp4I) (s : State) : Host.Outcome State Fault Refusal :=
  let w := s.w
  .next (s.fpV i.h i.d 12 (isRs i.rnd) 2 (fun n =>
    arith2 opFma i.ty i.ftz i.sat i.rnd (w.srDraw n 1) (w.srDraw n 2) (w.aLane i.xl i.a.toNat n).toNat
      i.imm.toNat (w.v i.c.toNat n).toNat))

/-! ### Minimum, maximum, comparison, class (R112 to R114) -/

/-- A code with a subnormal flushed to the zero of its sign (R112). -/
def Fmt.flushCode (f : Fmt) (ftz : Bool) (c : Nat) : Nat :=
  let mag := c % 2 ^ (f.e + f.m)
  if ftz ∧ mag < 2 ^ f.m then c - mag else c

/-- FMIN or FMAX on codes (R112). -/
def minMax (big : Bool) (ty : FTy) (ftz : Bool) (a b : Nat) : Nat :=
  let f := fmtOf ty
  let a := f.flushCode ftz (a % 2 ^ f.width)
  let b := f.flushCode ftz (b % 2 ^ f.width)
  match (f.decode false a).cmp (f.decode false b) with
  | some .lt => if big then b else a
  | some .gt => if big then a else b
  | some .eq => if a.testBit (f.e + f.m) then (if big then b else a) else (if big then a else b)
  | none => if f.decode false a = .nan then (if f.decode false b = .nan then f.canonNaN else b) else a

/-- Two sources. -/
def mm3 (big : Bool) (i : Fp3) (w : Warp) : Warp :=
  w.putV i.h i.d 8 (fun n => BitVec.ofNat 32
    (minMax big i.ty i.ftz (w.aLane i.xl i.a.toNat n).toNat (w.v i.b.toNat n).toNat))
/-- Two sources, the second IMM32. -/
def mm3I (big : Bool) (i : Fp3I) (w : Warp) : Warp :=
  w.putV i.h i.d 12 (fun n => BitVec.ofNat 32 (minMax big i.ty i.ftz (w.aLane i.xl i.a.toNat n).toNat i.imm.toNat))
/-- Both halves (R120). -/
def minMax2 (big : Bool) (ty : FTy) (ftz : Bool) (a b : Nat) : Nat :=
  minMax big ty ftz (a % 65536) (b % 65536) + minMax big ty ftz (a / 65536) (b / 65536) * 65536
/-- Two packed sources. -/
def hmm3 (big : Bool) (i : Fp3) (w : Warp) : Warp :=
  w.putV i.h i.d 8 (fun n => BitVec.ofNat 32
    (minMax2 big i.ty i.ftz (w.aLane i.xl i.a.toNat n).toNat (w.v i.b.toNat n).toNat))
/-- Two packed sources, the second IMM32. -/
def hmm3I (big : Bool) (i : Fp3I) (w : Warp) : Warp :=
  w.putV i.h i.d 12 (fun n => BitVec.ofNat 32 (minMax2 big i.ty i.ftz (w.aLane i.xl i.a.toNat n).toNat i.imm.toNat))

/-- FMIN (R112). -/
def execFmin (i : Fp3) (s : State) : Host.Outcome State Fault Refusal := .next (s.upd (mm3 false i))

/-- FMIN with IMM32 (R112, R55). -/
def execFminImm (i : Fp3I) (s : State) : Host.Outcome State Fault Refusal := .next (s.upd (mm3I false i))

/-- FMAX (R112). -/
def execFmax (i : Fp3) (s : State) : Host.Outcome State Fault Refusal := .next (s.upd (mm3 true i))

/-- FMAX with IMM32 (R112, R55). -/
def execFmaxImm (i : Fp3I) (s : State) : Host.Outcome State Fault Refusal := .next (s.upd (mm3I true i))

/-- HMIN2 (R120). -/
def execHmin2 (i : Fp3) (s : State) : Host.Outcome State Fault Refusal := .next (s.upd (hmm3 false i))

/-- HMIN2 with IMM32 (R120, R55). -/
def execHmin2Imm (i : Fp3I) (s : State) : Host.Outcome State Fault Refusal := .next (s.upd (hmm3I false i))

/-- HMAX2 (R120). -/
def execHmax2 (i : Fp3) (s : State) : Host.Outcome State Fault Refusal := .next (s.upd (hmm3 true i))

/-- HMAX2 with IMM32 (R120, R55). -/
def execHmax2Imm (i : Fp3I) (s : State) : Host.Outcome State Fault Refusal := .next (s.upd (hmm3I true i))

/-- The condition of FCMP and DCMP; NEG negates it (R113). -/
def fcmpHolds (c : FCond) (neg : Bool) (x y : Num) : Bool :=
  neg != (match x.cmp y, c with
    | none, _ => false
    | some o, .eq => o == .eq
    | some o, .lt => o == .lt
    | some o, .le => o != .gt
    | some o, .gt => o == .gt
    | some o, .ge => o != .lt)

/-- FCMP (R113). -/
def execFcmp (i : FCmp) (s : State) : Host.Outcome State Fault Refusal :=
  let f := fmtOf i.ty
  s.warpNext (fun w => w.putP i.h i.d 8 (fun n => fcmpHolds i.cond i.neg
    (f.decode i.ftz (w.aLane i.xl i.a.toNat n).toNat) (f.decode i.ftz (w.v i.b.toNat n).toNat)))
/-- FCMP with IMM32 (R113, R55). -/
def execFcmpImm (i : FCmpI) (s : State) : Host.Outcome State Fault Refusal :=
  let f := fmtOf i.ty
  s.warpNext (fun w => w.putP i.h i.d 12 (fun n => fcmpHolds i.cond i.neg
    (f.decode i.ftz (w.aLane i.xl i.a.toNat n).toNat) (f.decode i.ftz i.imm.toNat)))
/-- DCMP on pairs (R113). -/
def execDcmp (i : FCmp) (s : State) : Host.Outcome State Fault Refusal :=
  let f := fmtOf i.ty
  s.warpNext (fun w => w.putP i.h i.d 8 (fun n => fcmpHolds i.cond i.neg
    (f.decode i.ftz (w.aLane64 i.xl i.a.toNat n).toNat) (f.decode i.ftz (w.v64 i.b.toNat n).toNat)))

/-- The class mask of FCLASS (R114). -/
def classMask (ty : FTy) (a : Nat) : Word :=
  let f := fmtOf ty
  let sub := decide (a % 2 ^ (f.e + f.m) < 2 ^ f.m)
  match f.decode false a with
  | .nan => 0x100
  | .inf s => if s then 0x001 else 0x080
  | .fin s n _ _ =>
    if n = 0 then (if s then 0x008 else 0x010)
    else if sub then (if s then 0x004 else 0x020)
    else (if s then 0x002 else 0x040)
/-- FCLASS (R114). -/
def execFclass (i : Fp2) (s : State) : Host.Outcome State Fault Refusal :=
  s.warpNext (fun w => w.putV i.h i.d 8 (fun n => classMask i.ty (w.aLane i.xl i.a.toNat n).toNat))

/-! ### Unary functions (R115 to R117) -/

/-- A function outside FSQRT, FDIVS and FRND. -/
def State.trans (s : State) (fn : Config.Trans) (i : Fp2) : State :=
  let w := s.w
  s.fpV i.h i.d 8 false 1 (fun n => transRes fn i.ty i.ftz i.sat (w.aLane i.xl i.a.toNat n))

/-- FRCP (R115, R116). -/
def execFrcp (i : Fp2) (s : State) : Host.Outcome State Fault Refusal := .next (s.trans .rcp i)

/-- FRSQ (R115, R116). -/
def execFrsq (i : Fp2) (s : State) : Host.Outcome State Fault Refusal := .next (s.trans .rsq i)

/-- FEXP2 (R115, R116). -/
def execFexp2 (i : Fp2) (s : State) : Host.Outcome State Fault Refusal := .next (s.trans .exp2 i)

/-- FLOG2 (R115, R116). -/
def execFlog2 (i : Fp2) (s : State) : Host.Outcome State Fault Refusal := .next (s.trans .log2 i)

/-- FSIN (R115, R116). -/
def execFsin (i : Fp2) (s : State) : Host.Outcome State Fault Refusal := .next (s.trans .sin i)

/-- FCOS (R115, R116). -/
def execFcos (i : Fp2) (s : State) : Host.Outcome State Fault Refusal := .next (s.trans .cos i)

/-- FTANH (R115, R116). -/
def execFtanh (i : Fp2) (s : State) : Host.Outcome State Fault Refusal := .next (s.trans .tanh i)

/-- FSQRT (R115, R116). -/
def execFsqrt (i : Fp2) (s : State) : Host.Outcome State Fault Refusal :=
  let w := s.w
  .next (s.fpV i.h i.d 8 false 1 (fun n => sqrtRes i.ty i.ftz i.sat i.rnd (w.aLane i.xl i.a.toNat n).toNat))
/-- FDIVS (R117). -/
def execFdivs (i : Fp2) (s : State) : Host.Outcome State Fault Refusal :=
  s.warpNext (fun w => w.putV i.h i.d 8 (fun n => BitVec.ofNat 32 (fdivsRes i.ty (w.aLane i.xl i.a.toNat n).toNat).val))
/-- FRND (R117). -/
def execFrnd (i : Fp2) (s : State) : Host.Outcome State Fault Refusal :=
  s.warpNext (fun w => w.putV i.h i.d 8 (fun n =>
    BitVec.ofNat 32 (frndRes i.ty i.rnd (w.aLane i.xl i.a.toNat n).toNat).val))

/-! ### Conversions (R118) -/

/-- A widening conversion is exact: RND and SAT have no effect. -/
def fcvtRes (src dst : Fmt) (sat : Bool) (r : Rnd) (draw : Word) (a : Nat) : FRes :=
  dst.round (src.decode false a) (.rnd r draw) (sat && decide (dst.m ≤ src.m))

/-- FCVT (R118). Under `.rs` a widening one draws from the stochastic state like any other result: the model's choice (log entry 97). -/
def execFcvt (i : FConv) (s : State) : Host.Outcome State Fault Refusal :=
  let w := s.w
  let src := if i.bit then fmtOf i.ty else f32
  let dst := if i.bit then f32 else fmtOf i.ty
  let wideSrc := i.bit && i.ty == .f64
  let f := fun n => fcvtRes src dst i.sat i.rnd (w.srDraw n 1)
    (if wideSrc then (w.aLane64 i.xl i.a.toNat n).toNat else (w.aLane i.xl i.a.toNat n).toNat)
  .next (if !i.bit && i.ty == .f64 then s.fpV64 i.h i.d 8 (isRs i.rnd) 1 f else s.fpV i.h i.d 8 (isRs i.rnd) 1 f)

/-- FTOI: NaN gives 0 and NV; out of range gives the nearer bound and NV, without NX (R118). -/
def ftoiRes (src : Fmt) (sgn : Bool) (r : Rnd) (draw : Word) (a : Nat) : FRes :=
  let hi : Int := if sgn then 2147483647 else 4294967295
  let lo : Int := if sgn then -2147483648 else 0
  match src.decode false a with
  | .nan => ⟨0, flNV⟩
  | .inf s => ⟨((if s then lo else hi) % 4294967296).toNat, flNV⟩
  | .fin s n d e =>
    let x := roundInt s n d e (.rnd r draw)
    let v : Int := if s then -(x.1 : Int) else x.1
    if v < lo then ⟨(lo % 4294967296).toNat, flNV⟩
    else if hi < v then ⟨(hi % 4294967296).toNat, flNV⟩
    else ⟨(v % 4294967296).toNat, if x.2 then flNX else 0⟩
/-- FTOI (R118). -/
def execFtoi (i : FConv) (s : State) : Host.Outcome State Fault Refusal :=
  let w := s.w
  .next (s.fpV i.h i.d 8 (isRs i.rnd) 1 (fun n => ftoiRes (fmtOf i.ty) i.bit i.rnd (w.srDraw n 1)
    (if i.ty == .f64 then (w.aLane64 i.xl i.a.toNat n).toNat else (w.aLane i.xl i.a.toNat n).toNat)))

/-- ITOF (R118). -/
def itofRes (dst : Fmt) (sgn sat : Bool) (r : Rnd) (draw : Word) (a : Word) : FRes :=
  let v : Int := if sgn then a.toInt else a.toNat
  dst.round (.fin (decide (v < 0)) v.natAbs 1 0) (.rnd r draw) sat
/-- ITOF (R118). -/
def execItof (i : FConv) (s : State) : Host.Outcome State Fault Refusal :=
  let w := s.w
  let f := fun n => itofRes (fmtOf i.ty) i.bit i.sat i.rnd (w.srDraw n 1) (w.aLane i.xl i.a.toNat n)
  .next (if i.ty == .f64 then s.fpV64 i.h i.d 8 (isRs i.rnd) 1 f else s.fpV i.h i.d 8 (isRs i.rnd) 1 f)

/-! ### Narrow formats (R121 to R125) -/

/-- Writes a format register once if any lane participates; an invalid descriptor raises 0x086 (R83, R121), with
the participating lanes as its fault lanes (log entry 73). -/
def State.qfmt (s : State) (h : Hdr) (d : RegNo) (len : Nat) (x : Word) : State :=
  if !s.w.any h then s.retire len h.sw
  else match narrowFmt x with
    | none => s.precise 0x086 (s.w.parts h) s.noAddr
    | some _ => s.upd (fun w => Warp.retire { w with fmt := Tab.set 0 w.fmt d.toNat x } len h.sw)
/-- QFMT (R121). -/
def execQfmt (i : HDA) (s : State) : Host.Outcome State Fault Refusal := .next (s.qfmt i.h i.d 8 (loWord (s.w.s i.a.toNat)))
/-- QFMT with IMM32 (R121). -/
def execQfmtImm (i : HDI) (s : State) : Host.Outcome State Fault Refusal := .next (s.qfmt i.h i.d 12 i.imm)

/-- Bits of a container (R85). -/
def Fmt.container (f : Fmt) : Nat := if f.width ≤ 4 then 4 else 8
/-- Element `j` of a register (R85). -/
def elemOf (n j : Nat) (x : Nat) : Nat := x / 2 ^ (n * j) % 2 ^ n
/-- Container `j` replaced (R85). -/
def putElem (n j : Nat) (x c : Nat) : Nat := x - elemOf n j x * 2 ^ (n * j) + c % 2 ^ n * 2 ^ (n * j)

/-- The format register's format and an element within its container count; 0x086 and 0x087 are raised whether or not
any lane participates (R83, R122). -/
def State.withFmt (s : State) (c : RegNo) (j : Nat) (f : Fmt → State) : State :=
  match narrowFmt (Tab.get 0 s.w.fmt c.toNat) with
  | none => s.precise 0x086 s.w.em s.noAddr
  | some d => if 32 / d.container ≤ j then s.precise 0x087 s.w.em s.noAddr else f d

/-- The value to pack: the exact quotient by the block scale (R122). -/
def packVal (a s : Word) : Num :=
  if scaleExp s = 0 then .fin false 0 1 0
  else if scaleExp s = 255 then .nan
  else scaleDiv (f32.decode false a.toNat) s

/-- QPACK (R122). -/
def execQpack (i : QPack) (s : State) : Host.Outcome State Fault Refusal :=
  .next (s.withFmt i.c i.j.toNat (fun f =>
    let w := s.w
    s.fpV i.h i.d 8 (isRs i.rnd) 1 (fun n =>
      let r := f.round (packVal (w.aLane i.xl i.a.toNat n) (w.v i.b.toNat n)) (.rnd i.rnd (w.srDraw n 1)) i.sat
      ⟨putElem f.container i.j.toNat (w.v i.d.toNat n).toNat r.val, r.fl⟩)))

/-- QUNPACK (R123). -/
def execQunpack (i : QUnpack) (s : State) : Host.Outcome State Fault Refusal :=
  .next (s.withFmt i.c i.j.toNat (fun f =>
    let w := s.w
    s.fpV i.h i.d 8 false 1 (fun n =>
      f32.round (f.decode false (elemOf f.container i.j.toNat (w.aLane i.xl i.a.toNat n).toNat)) (.rnd .rne 0) false)))

/-- One result of BSCALE (R124). -/
def bscaleRes (div ftz sat : Bool) (r : Rnd) (draw a s : Word) : FRes :=
  if scaleExp s = 0 then ⟨0, 0⟩
  else if scaleExp s = 255 then ⟨f32.canonNaN, 0⟩
  else
    let x := f32.decode ftz a.toNat
    f32.flush ftz (f32.round (if div then scaleDiv x s else (x.mul (scaleMul s)).1) (.rnd r draw) sat)
/-- BSCALE (R124). -/
def execBscale (i : BScale) (s : State) : Host.Outcome State Fault Refusal :=
  let w := s.w
  .next (s.fpV i.h i.d 8 (isRs i.rnd) 1 (fun n =>
    bscaleRes i.div i.ftz i.sat i.rnd (w.srDraw n 1) (w.aLane i.xl i.a.toNat n) (w.v i.b.toNat n)))

/-- SRSEED (R125, R91). -/
def execSrseed (i : HXA) (s : State) : Host.Outcome State Fault Refusal :=
  s.warpNext (fun w =>
    Warp.retire { w with sr := putSr (w.parts i.h) (fun n =>
      let x := w.aLane i.xl i.a.toNat n
      if x = 0 then 0x5EED0001 else x) 32 w.sr } 8 i.h.sw)

end Sys2Proof.Machine
end

