-- ==== Sys2Proof/Machine/CrossLane.lean ====
section
/-! DEFINITION. The cross-lane instructions (06_vector.md R126 to R130, 04_registers.md R64, R65). -/

namespace Sys2Proof.Machine

/-- Byte selection of PERM.byte (R126). -/
def permByte (a sel : Word) : Word :=
  let pick := fun k =>
    let b := byteOf sel k
    if b.getLsbD 7 then (0 : Byte) else byteOf a (b.toNat % 4)
  BitVec.ofNat 32 (natLE [pick 0, pick 1, pick 2, pick 3])

/-- PERM (R126). -/
def execPerm (i : Perm) (s : State) : Host.Outcome State Fault Refusal :=
  s.warpNext (fun w => w.putV i.h i.d 8 (fun n =>
    if i.byte then permByte (w.v i.a.toNat n) (w.v i.b.toNat n)
    else w.v i.a.toNat ((w.v i.b.toNat n).toNat % 32)))

/-- The value of VOTE from the participating lanes and those of them with the predicate true (R127). -/
def voteVal (mode : VoteMode) (parts yes : Mask) : DWord :=
  match mode with
  | .ballot => zx64 yes
  | .any => if yes ≠ 0 then 1 else 0
  | .all => if yes = parts then 1 else 0
  | .uni => if yes = parts ∨ yes = 0 then 1 else 0

/-- VOTE, which writes its scalar even when no lane participates (R127). -/
def execVote (i : Vote) (s : State) : Host.Outcome State Fault Refusal :=
  s.warpNext (fun w =>
    (w.setS i.d.toNat (voteVal i.mode (w.parts i.h) (w.parts i.h &&& w.p i.a.toNat))).retire 8 i.h.sw)

/-- The combining step of WRED and WSCAN (R128). -/
def redStep (op : RedOp) (x y : Word) : Word :=
  match op with
  | .iadd => x + y
  | .iminS => if x.toInt ≤ y.toInt then x else y
  | .imaxS => if x.toInt ≤ y.toInt then y else x
  | .iminB => if x.toNat ≤ y.toNat then x else y
  | .imaxB => if x.toNat ≤ y.toNat then y else x
  | .and => x &&& y
  | .or => x ||| y
  | .xor => x ^^^ y
  | .fadd => addF32 x y
  | .fmin => BitVec.ofNat 32 (minMax false .f32 false x.toNat y.toNat)
  | .fmax => BitVec.ofNat 32 (minMax true .f32 false x.toNat y.toNat)

/-- The identity, which only the exclusive scan delivers (R128). -/
def redIdentity (op : RedOp) : Word :=
  match op with
  | .iadd | .imaxB | .or | .xor | .fadd => 0
  | .iminS => 0x7FFFFFFF
  | .imaxS => 0x80000000
  | .iminB | .and => 0xFFFFFFFF
  | .fmin => 0x7F800000
  | .fmax => 0xFF800000

/-- A delivered value: a NaN of a floating-point operation is CanonNaN(f32) (R128). -/
def redDeliver (op : RedOp) (x : Word) : Word :=
  match op with
  | .fadd | .fmin | .fmax => if f32.decode false x.toNat = .nan then BitVec.ofNat 32 f32.canonNaN else x
  | .iadd | .iminS | .imaxS | .iminB | .imaxB | .and | .or | .xor => x

/-- The combination of WRED: TreeSum for .fadd, otherwise the fold in ascending lane order (R128). -/
def redAll (op : RedOp) (xs : List Word) : Word :=
  redDeliver op (match op with
    | .fadd => treeSum xs
    | _ => match xs with
      | [] => 0
      | x :: r => r.foldl (redStep op) x)

/-- WRED (R128). -/
def execWred (i : WRed) (s : State) : Host.Outcome State Fault Refusal :=
  s.warpNext (fun w =>
    let x := redAll i.op ((lanesOf (w.parts i.h)).map (fun n => w.v i.a.toNat n))
    w.putV i.h i.d 8 (fun _ => x))

/-- The running value of WSCAN before and after lane `n`: the participating lanes below, and including, it (R128). -/
def scanVal (op : RedOp) (excl : Bool) (w : Warp) (m : Mask) (r n : Nat) : Word :=
  let xs := ((lanesOf m).filter (fun j => if excl then decide (j < n) else decide (j ≤ n))).map (fun j => w.v r j)
  redDeliver op (match xs with
    | [] => redIdentity op
    | x :: t => t.foldl (redStep op) x)

/-- WSCAN (R128). -/
def execWscan (i : WScan) (s : State) : Host.Outcome State Fault Refusal :=
  s.warpNext (fun w => w.putV i.h i.d 8 (fun n => scanVal i.op i.excl w (w.parts i.h) i.a.toNat n))

/-- MATCH (R129). -/
def execMatchLanes (i : MatchOp) (s : State) : Host.Outcome State Fault Refusal :=
  s.warpNext (fun w => w.putV i.h i.d 8 (fun n =>
    maskOf (fun j => (w.parts i.h).getLsbD j &&
      (if i.b64 then w.v64 i.a.toNat j == w.v64 i.a.toNat n else w.v i.a.toNat j == w.v i.a.toNat n))))

/-! ### Indirect register numbers (R64, R65) -/

/-- N(i) of the indexed operand: `k` the register field, `e` the B field (R64). -/
def Warp.indexOf (w : Warp) (scalar : Bool) (k e : RegNo) (n : Nat) : Nat :=
  if scalar then (w.s k.toNat + e.setWidth 64).toNat else (w.v k.toNat n).toNat + e.toNat

/-- The checks of R65 in their two stages: cause and fault lanes. `reg` is the field that is not indexed. -/
def Warp.indexCause (w : Warp) (h : Hdr) (scalar b64 : Bool) (reg k e : RegNo) : Option (Cause × Mask) :=
  if b64 && reg.toNat % 2 == 1 then some (0x082, w.em)
  else
    let m := w.parts h
    let big := maskOf (fun n => m.getLsbD n && decide (255 < w.indexOf scalar k e n))
    let odd := maskOf (fun n => m.getLsbD n && b64 && w.indexOf scalar k e n % 2 == 1)
    if big ≠ 0 then some (0x081, big ||| odd) else if odd ≠ 0 then some (0x082, odd) else none

/-- MOVX (R130). -/
def execMovx (i : MovX) (s : State) : Host.Outcome State Fault Refusal :=
  match s.w.indexCause i.h i.scalar i.b64 i.d i.a i.e with
  | some (c, m) => .next (s.precise c m s.noAddr)
  | none => s.warpNext (fun w =>
    if i.b64 then w.putV64 i.h i.d 8 (fun n => w.v64 (w.indexOf i.scalar i.a i.e n) n)
    else w.putV i.h i.d 8 (fun n => w.v (w.indexOf i.scalar i.a i.e n) n))

/-- Writes lane `n` of register `r n` for the lanes of `m` below a bound (R130). -/
def putIndexed (m : Mask) (r : Nat → Nat) (f : Nat → Word) : Nat → Tab Word → Tab Word
  | 0, t => t
  | n + 1, t =>
    let t := putIndexed m r f n t
    if m.getLsbD n then Tab.set 0 t (r n * 32 + n) (f n) else t

/-- MOVXW (R130). -/
def execMovxw (i : MovX) (s : State) : Host.Outcome State Fault Refusal :=
  match s.w.indexCause i.h i.scalar i.b64 i.a i.d i.e with
  | some (c, m) => .next (s.precise c m s.noAddr)
  | none => s.warpNext (fun w =>
    let m := w.parts i.h
    let r := w.indexOf i.scalar i.d i.e
    let t := putIndexed m r (fun n => w.v i.a.toNat n) 32 w.vregs
    let t := if i.b64 then putIndexed m (fun n => r n + 1) (fun n => w.v (i.a.toNat + 1) n) 32 t else t
    Warp.retire { w with vregs := t } 8 i.h.sw)

end Sys2Proof.Machine
end

