-- ==== Sys2Proof/Machine/Csr.lean ====
section
/-! DEFINITION. Control and status registers (04_registers.md R69 to R71, 21_trap.md R387), debug rights and the debugger's
commands (21_trap.md R389 to R395). -/

namespace Sys2Proof.Machine

/-- DEBUG_REVOKE: GRANT of the context is cleared; a command in progress completes first (R395). -/
def execDebugRevoke (i : CtxId) (s : State) : Host.Outcome State Fault Refusal :=
  .next (s.askRevoke i)

/-! ### Registers by number (R70) -/

/-- What a number may be used for in the unprivileged and the privileged view: 0 nothing, 1 reading, 2 both; none for an
unassigned number. -/
def csrRights (n : Nat) : Option (Nat × Nat) :=
  if [0x000, 0x001, 0x002, 0x008, 0x040].contains n then some (2, 2)
  else if [0x003, 0x004, 0x010, 0x011, 0x101].contains n ∨ (0x041 ≤ n ∧ n ≤ 0x048) then some (1, 2)
  else if [0x020, 0x021, 0x100].contains n ∨ (0x012 ≤ n ∧ n ≤ 0x01B) then some (1, 1)
  else if [0x030, 0x031, 0x038, 0x102].contains n then some (0, 2)
  else none

/-- DEV_STATUS (R399). -/
def State.devStatus (s : State) : DWord :=
  BitVec.ofNat 64 (bit01 s.ready * 2 ^ 31 + bit01 s.fail * 2 ^ 30 + s.step.toNat * 2 ^ 27 + s.fcode.toNat * 2 ^ 16 +
    s.spareCores.toNat)

/-- A register of context scope. -/
def State.ctxCsr (s : State) (c : CtxId) (n : Nat) : DWord :=
  let x := s.ctx c
  match n with
  | 0x010 => x.trapBase
  | 0x011 => x.toolBase
  | 0x021 => x.gen.setWidth 64
  | 0x101 => x.dbgRight.setWidth 64
  | _ => 0

/-- The register numbered `n` as the executing warp reads it. -/
def State.csr (s : State) (n : Nat) : DWord :=
  let w := s.w
  match n with
  | 0x000 => w.fpFlags.setWidth 64
  | 0x001 => w.fpTrapen.setWidth 64
  | 0x002 => if w.keep then 1 else 0
  | 0x003 => w.trampLink
  | 0x004 => w.lstackLimit
  | 0x008 => s.myTeam.feTimeout.setWidth 64
  | 0x020 => BitVec.ofNat 64 (w.ctx.toNat + s.tenant * 2 ^ 12 + bit01 (s.ctx w.ctx).resident * 2 ^ 13)
  | 0x030 => s.stallLimit.setWidth 64
  | 0x031 => s.snapMaxAge.setWidth 64
  | 0x038 => (s.die s.myDie).migrThr.setWidth 64
  | 0x100 => s.devStatus
  | 0x102 => s.myCore.split ||| (if s.myCore.active then 2 else 0)
  | _ =>
    if 0x012 ≤ n ∧ n ≤ 0x01B then w.trap.word (n - 0x012)
    else if 0x040 ≤ n ∧ n ≤ 0x048 then Tab.get 0 s.myCore.perf (s.tenant * 16 + (n - 0x040))
    else s.ctxCsr w.ctx n

/-- A counter or its control written; PERF_CNT0 whose low SSHIFT bits become 0 is sampled (R397). -/
def State.setPerf (s : State) (core tenant k : Nat) (v : DWord) : State :=
  let c := s.core core
  let v := if k = 0 then v &&& 0x00FDFFFFFFFFFFFF else v
  let old := Tab.get 0 c.perf (tenant * 16 + 1)
  let sh := field (Tab.get 0 c.perf (tenant * 16)) 50 6
  let t := s.setCore core { c with perf := Tab.set 0 c.perf (tenant * 16 + k) v }
  if k = 1 ∧ sh ≠ 0 ∧ v.toNat % 2 ^ sh = 0 ∧ old.toNat % 2 ^ sh ≠ 0 then t.trace (t.traceOf (core * 16 + c.lastSlot) 1 0 0)
  else t

/-- DBG_RIGHT of a context written: clearing GRANT revokes it (R392, R395). -/
def State.setRight (s : State) (c : CtxId) (v : DWord) : State :=
  let x := s.ctx c
  if v.getLsbD 0 then s.setCtx c { x with dbgRight := v.setWidth 2 }
  else if x.dbgRight.getLsbD 0 then s.askRevoke c else s.setCtx c { x with dbgRight := 0 }

/-- A register of context scope written. -/
def State.setCtxCsr (s : State) (c : CtxId) (n : Nat) (v : DWord) : State :=
  let x := s.ctx c
  match n with
  | 0x010 => s.setCtx c { x with trapBase := v &&& ~~~(0x1E : DWord) }
  | 0x011 => s.setCtx c { x with toolBase := v &&& ~~~(0x1E : DWord) }
  | 0x101 => s.setRight c v
  | _ => s

/-- SPLIT_MODE of a core written: EN and T1CTX (R340). -/
def State.setSplit (s : State) (core : Nat) (v : DWord) : State :=
  s.setCore core { s.core core with split := v &&& 0x00000FFF00000001 }

/-- The register numbered `n` written by the executing warp: reserved fields ignore the write (R4, R387). -/
def State.setCsr (s : State) (n : Nat) (v : DWord) : State :=
  match n with
  | 0x000 => s.upd (fun w => { w with fpFlags := v.setWidth 5 })
  | 0x001 => s.upd (fun w => { w with fpTrapen := v.setWidth 5 })
  | 0x002 => s.upd (fun w => { w with keep := v.getLsbD 0 })
  | 0x003 => s.upd (fun w => { w with trampLink := v &&& ~~~(2 : DWord) })
  | 0x004 => s.upd (fun w => { w with lstackLimit := v &&& 0x000FFFFFFFFFF001 })
  | 0x008 => s.updTeam (fun t => { t with feTimeout := v.setWidth 16 })
  | 0x030 => { s with stallLimit := v.setWidth 16 }
  | 0x031 => { s with snapMaxAge := v.setWidth 32 }
  | 0x038 => s.setDie s.myDie { s.die s.myDie with migrThr := v.setWidth 16 }
  | 0x102 => s.setSplit (coreOf s.cur) v
  | _ =>
    if 0x040 ≤ n ∧ n ≤ 0x048 then s.setPerf (coreOf s.cur) s.tenant (n - 0x040) v
    else s.setCtxCsr s.w.ctx n v

/-- The cause that an access of the executing warp raises, if any: warps of context 0 have the privileged view (R69). -/
def State.csrCause (s : State) (n : Nat) (write : Bool) : Option Cause :=
  match csrRights n with
  | none => some 0x083
  | some r =>
    let right := if s.w.ctx = 0 then r.2 else r.1
    if right = 0 then some 0x101 else if write && right == 1 then some 0x102 else none

/-- CSRR (R387). Its causes record the participating lanes: the model's choice (log entry 73). -/
def execCsrr (i : CsrR) (s : State) : Host.Outcome State Fault Refusal :=
  let m := s.w.parts i.h
  if m = 0 then .next (s.retire 12 i.h.sw)
  else match s.csrCause i.csr.toNat false with
    | some c => .next (s.precise c m s.noAddr)
    | none => .next ((s.upd (fun w => w.setS i.d.toNat (s.csr i.csr.toNat))).retire 12 i.h.sw)

/-- CSRW (R387). Its causes record the participating lanes: the model's choice (log entry 73). -/
def execCsrw (i : CsrW) (s : State) : Host.Outcome State Fault Refusal :=
  let m := s.w.parts i.h
  if m = 0 then .next (s.retire 12 i.h.sw)
  else match s.csrCause i.csr.toNat true with
    | some c => .next (s.precise c m s.noAddr)
    | none => .next ((s.setCsr i.csr.toNat (s.w.s i.a.toNat)).retire 12 i.h.sw)

/-! ### The debugger's commands (R390, R393) -/

/-- WATCH_WRITE: ignored for a context that may not be debugged (R390). -/
def execWatchWrite (i : WatchWrite) (s : State) : Host.Outcome State Fault Refusal :=
  let v := i.val &&& 0x00007FFFFFFFFFFF0000FFFFFFFFFFFF
  .next (if s.granted (v.extractLsb' 96 12) then { s with watches := Tab.set 0 s.watches i.k.toNat v } else s)

/-- The map of a stop request for the executing warp: the instruction at its PC (R379, R393). -/
def State.requestMap (s : State) (cause : Cause) : State :=
  let ir := match s.fetchAt s.w.pc with
    | .ok f => some f
    | .error _ => none
  let m := (s.upd (fun w => { w with ir := ir })).trapMap cause s.w.em s.w.done s.noAddr
  s.writeMap m

/-- A stop request: every Ready or Parked warp of the context halts with cause 0x2C4 (R389, R393). -/
def State.stopAll (s : State) (c : CtxId) : State :=
  let keys := (s.warps.filter (fun e => e.2.ctx == c && (e.2.stat == .ready || e.2.stat == .parked))).map (·.1)
  let t := (keys.foldl (fun s k => s.at k (fun s => s.requestMap 0x2C4)) s).stopCtx c
  match keys with
  | k :: _ => (t.fault (t.recOf k 2 0x2C4 (t.warp k).pc (t.warp k).em 0)).trace (t.traceOf k 0 0x2C4 (t.warp k).em)
  | [] =>
    let f := fun n => Config.noWarp t.nextId n
    let core := (f 3).toNat % 256
    (t.fault (t.recDie c 2 0x2C4 (f 2) core)).trace
      { ft := t.now, kind := 0, cause := 0x2C4, ctx := c, gen := (t.ctx c).gen, lrec := f 0, wid := f 1, pc := f 2,
        core := core, slot := (f 4).toNat % 16, inSysc := false, trapMode := false, service := 0, em := 0, flm := 0 }

/-- Whether a write of DBG_CMD that names context `c` is taken (R393). -/
def State.dbgTaken (s : State) (c : CtxId) : Bool := s.granted c && !s.dbgBusy
/-- The fields of DBG_CMD under a mask take what a command wrote (R3, R393; log entry 66). -/
def State.dbgWrite (s : State) (mask val : DWord) : State := s.setReg 0x6800 (s.reg 0x6800 &&& ~~~mask ||| val)
/-- The field CTX. -/
def State.dbgCtx (s : State) (c : CtxId) : State := s.dbgWrite (0xFFF <<< 32) (c.setWidth 64 <<< 32)

/-- DBG_STOP (R393). -/
def execDbgStop (i : CtxId) (s : State) : Host.Outcome State Fault Refusal :=
  .next (if !s.dbgTaken i then s else if (s.ctx i).state == .running then (s.dbgCtx i).stopAll i else s.dbgCtx i)

/-- DBG_SAVE (R393). -/
def execDbgSave (i : CtxId) (s : State) : Host.Outcome State Fault Refusal :=
  .next (if s.dbgTaken i then (s.dbgCtx i).command (.dbgSave i) else s)

/-- DBG_RESTORE (R393, R394). -/
def execDbgRestore (i : CtxId) (s : State) : Host.Outcome State Fault Refusal :=
  .next (if s.dbgTaken i then (s.dbgCtx i).command (.dbgRestore i) else s)

/-- DBG_STEP: the warp issues one instruction of the Stopped context (R393). -/
def execDbgStep (i : DbgWarp) (s : State) : Host.Outcome State Fault Refusal :=
  let k := i.core.toNat * 16 + i.slot.toNat
  let w := s.warp k
  if !s.dbgTaken i.ctx then .next s
  else
    let t := s.dbgWrite (0xFFFFFF <<< 32) ((i.slot ++ i.core ++ i.ctx).setWidth 64 <<< 32)
    if (s.ctx i.ctx).state == .stopped && w.ctx == i.ctx && w.stat == .halted then
      .next (t.setWarp k { w.resume s.ft with stepping := true })
    else .next t

/-- DBG_SET_WMODE: in the live object, or in its saved image (R393). -/
def execDbgSetWmode (i : DbgWmode) (s : State) : Host.Outcome State Fault Refusal :=
  let core := i.core.toNat
  let slot := i.slot.toNat
  let b := i.bar.toNat
  if !s.dbgTaken i.ctx then .next s
  else
    let u := s.dbgWrite (0x7FFFFFFF <<< 32) ((i.wmode ++ i.bar ++ i.slot ++ i.core ++ i.ctx).setWidth 64 <<< 32)
    if s.savedOn i.ctx core then
      let n := s.imageTeam i.ctx core slot
      match (if b < 16 then none else n.bind (fun n => s.liveCohort i.ctx core n)) with
      | some id =>
        let x := s.cohort id
        let o : Barrier := { Tab.get ({} : Barrier) x.bars (b - 16) with wmode := i.wmode }
        .next (u.setCohort id { x with bars := Tab.set {} x.bars (b - 16) o })
      | none => match s.headerValid i.ctx, n.bind (fun n => s.imageBar i.ctx core n b) with
      | true, some a => .next (u.putNum a 16 { Barrier.ofImage (s.num a 16) with wmode := i.wmode }.image)
      | _, _ => .next u
    else match s.teamOfSlot core slot with
      | none => .next u
      | some t => .next (if (s.team t).ctx = i.ctx then u.setBar t b { s.bar t b with wmode := i.wmode } else u)

end Sys2Proof.Machine
end

