-- ==== Sys2Proof/Machine/Link.lean ====
section
/-! DEFINITION. The optical ports: link states (19_link.md R346, R350, R352), flits and replay (R348, R349), loss of a link
(R351) and keys (R353, R354). -/

namespace Sys2Proof.Machine

/-- LINK_STAT.KEYOLD: either end of either direction retains a previous key (R352, R354). -/
def Link.retains (l : Link) : Bool := l.keyold || l.rxBoundary.isSome

/-- LINK_STAT (R352). -/
def Link.stat (l : Link) : DWord :=
  BitVec.ofNat 64 (l.gendrop.toNat * 2 ^ 48 + l.replays.toNat * 2 ^ 32 + l.crcErr.toNat * 2 ^ 21 + l.spares * 2 ^ 16 +
    l.keygen.toNat * 2 ^ 8 + bit01 l.retains * 2 ^ 7 + l.state)

/-- An event of port `p`; there are twelve (R346). -/
def State.onPort (s : State) (p : Nat) (f : Link → State) : Host.Outcome State Fault Refusal :=
  .next (if p < 12 then f (s.link p) else s)

/-! ### Sending (R347 to R349) -/

/-- Ports that take new flits: Up or Degraded, with room in the replay buffer for `n` (one place is kept for a key
announcement). -/
def State.openPorts (s : State) (n : Nat) : List Nat :=
  (List.range 12).filter (fun p =>
    let l := s.link p
    (l.state == 4 || l.state == 5) && decide (l.buffer.length + n < 4096))

/-- A port sends one flit, under its next SEQ and its present key, and keeps it in its replay buffer. -/
def Link.send (l : Link) (f : Flit) : Link :=
  let f := { f with seq := l.nextSeq, keyep := l.keyep }
  { l with buffer := l.buffer ++ [f], nextSeq := l.nextSeq + 1, wraps := l.wraps + bit01 (l.nextSeq == 0xFFFFFF)
           sent := l.sent ++ [f] }

/-- Flits that a packet fills. -/
def flitsOf (n : Nat) : Nat := 1 + Config.flits n % 3840
/-- Tag flits after those: a run has up to 16 data flits, and runs do not reach past a packet (R353; log entry 80). -/
def tagsOf (n : Nat) : Nat := (flitsOf n + 15) / 16

/-- Whether a packet is a management frame (R317, R321, R324). -/
def PacketBody.management : PacketBody → Bool
  | .watermark _ | .result .. | .billAck _ => true
  | .load _ | .store _ | .atomic .. | .ldred .. | .stmc .. | .data _ | .contribution _ | .ack | .refusal => false
/-- The virtual channel of a packet (R348; log entry 80). -/
def PacketBody.channel : PacketBody → BitVec 2
  | .load _ | .store _ | .atomic .. | .stmc .. => 0
  | .data _ | .ack | .refusal => 1
  | .ldred .. | .contribution _ => 2
  | .watermark _ | .result .. | .billAck _ => 3

/-- Flit `i` of the `k` of packet `n` leaves; the tag flit of a run of data flits follows it where the run ends (R348, R353). -/
def Link.sendFlit (l : Link) (n k : Nat) (b : PacketBody) (i : Nat) : Link :=
  let t := l.send { type := if b.management then 5 else 0, seq := 0, keyep := false, vc := b.channel, first := i == 0,
                    last := i + 1 == k, pkt := some n }
  if b.management || !(i % 16 == 15 || i + 1 == k) then t
  else
    let back := i % 16
    let start := l.nextSeq - BitVec.ofNat 24 back
    let wraps := l.wraps - bit01 (decide (l.nextSeq.toNat < back))
    { t.send { type := 1, seq := 0, keyep := false, vc := b.channel, pkt := some n, nonce := some (start, wraps) } with
      runs := l.runs + 1 }

/-- Packet `n` of `out` leaves by some open port, or waits for one; its flits are bytes that its tenant sends (R397; log entry
81). -/
def State.sendPacket (s : State) (n : Nat) : State :=
  match s.out[n]? with
  | none => s
  | some x =>
    let size := flitsOf n + if x.body.management then 0 else tagsOf n
    let ps := s.openPorts size
    if x.dst = s.peer then s
    else match ps[Config.route (s.ticks + n) % ps.length]? with
    | none => { s with unsent := s.unsent ++ [n] }
    | some p =>
      if s.present x.dst then
        let t := s.setLink p ((List.range (flitsOf n)).foldl (fun l i => l.sendFlit n (flitsOf n) x.body i) (s.link p))
        match x.src with
        | some c => t.count c.1 c.2 6 (64 * size)
        | none => t
      else { s with unsent := s.unsent ++ [n] }

/-- The fabric dies send the packets that wait and those that came with the last step. -/
def State.transmit (s : State) : State :=
  let ns := s.unsent ++ (List.range (s.out.length - s.taken)).map (fun i => s.taken + i)
  ns.foldl State.sendPacket { s with unsent := [], taken := s.out.length }

/-! ### A link goes Down (R351) -/

/-- The context that owns a packet; a management frame has none. -/
def Packet.owner (x : Packet) : Option CtxId :=
  match x.body with
  | .watermark _ => none
  | .billAck _ => none
  | .load _ => some x.ctx
  | .store _ => some x.ctx
  | .atomic .. => some x.ctx
  | .ldred .. => some x.ctx
  | .stmc .. => some x.ctx
  | .data _ => some x.ctx
  | .contribution _ => some x.ctx
  | .ack => some x.ctx
  | .refusal => some x.ctx
  | .result .. => some x.ctx

/-- A list without repetitions. -/
def once {α : Type} [DecidableEq α] (l : List α) : List α :=
  l.foldl (fun r x => if r.contains x then r else r ++ [x]) []

/-- The port is Down, or Dark where ENABLE is 0 (R350). -/
def Link.fall (l : Link) : Link :=
  { l with state := if l.enable then 7 else 0, buffer := [], keyold := false, rxBoundary := none, fruitless := 0
           replay := none, gap := false }

/-- Port `p` goes Down: packets with a flit in its buffer leave by other paths, and those for which no path remains are lost,
with their contexts (R351). -/
def State.linkDown (s : State) (p : Nat) : State :=
  let ns := once ((s.link p).buffer.filterMap (·.pkt))
  let t := s.setLink p (s.link p).fall
  let alive := fun (n : Nat) => match t.out[n]? with
    | some x => t.present x.dst
    | none => true
  let u := { t with unsent := t.unsent ++ ns.filter alive }
  let cs := once ((ns.filter (fun n => !alive n)).filterMap (fun n => match t.out[n]? with
    | some x => x.owner
    | none => none))
  cs.foldl (fun s c => s.discardCtx c 0x320 (Config.reportDie s.nextId % 4)) u

/-- Deliveries of an STMC to a member that is absent now are lost, and count as finished (R365). -/
def State.loseAbsent (s : State) : State :=
  (s.remotes.filter (fun r => r.line == anyLine && !s.present r.peer)).foldl (fun s r =>
    ({ s with remotes := s.remotes.filter (fun x => x.tag != r.tag) }.delivered r.tag).performed r) s

/-! ### Software and the controller (R350, R352) -/

/-- LINK_ENABLE (R350). -/
def execLinkEnable (i : LinkEnable) (s : State) : Host.Outcome State Fault Refusal :=
  s.onPort i.port (fun l =>
    let t := s.setLink i.port { l with enable := i.on }
    if i.on then (if l.state = 0 ∧ i.laser = true then s.setLink i.port { l with enable := true, state := 1 } else t)
    else if 4 ≤ l.state then t.linkDown i.port else t)

/-- LINK_RETRAIN (R350). -/
def execLinkRetrain (i : Nat) (s : State) : Host.Outcome State Fault Refusal :=
  s.onPort i (fun l => if l.state = 7 then s.setLink i { l with state := 1, spares := 0 } else s)

/-- A calibration that fails (R350). -/
def State.calibrationFails (s : State) (p : Nat) : State := if (s.link p).state = 1 then s.linkDown p else s

/-- RING_CALIBRATION_DONE (R350). -/
def execRingCalibrationDone (i : PortFlag) (s : State) : Host.Outcome State Fault Refusal :=
  s.onPort i.port (fun l =>
    if i.ok then (if l.state = 1 then s.setLink i.port { l with state := 2 } else s) else s.calibrationFails i.port)

/-- CALIBRATION_TIMEOUT (R350). -/
def execCalibrationTimeout (i : Nat) (s : State) : Host.Outcome State Fault Refusal :=
  s.onPort i (fun _ => s.calibrationFails i)

/-- LINK_TRAINING_DONE (R350): KEYEP and SEQ start at 0, and so does KEYGEN (R352). -/
def execLinkTrainingDone (i : PortPeer) (s : State) : Host.Outcome State Fault Refusal :=
  s.onPort i.port (fun l =>
    if l.state = 2 then
      let l := { l with state := 3, peer := i.peer, keyep := false, rxKeyep := false, nextSeq := 0, expSeq := 0, wraps := 0, runs := 0, keygen := 0,
                        buffer := [], keyold := false, rxBoundary := none, fruitless := 0, replay := none, gap := false }
      s.setLink i.port (l.admitted s.clearing)
    else s)

/-- HEATER_SATURATION (R350): `ok` says that the fibre has a spare ring. -/
def execHeaterSaturation (i : PortFlag) (s : State) : Host.Outcome State Fault Refusal :=
  s.onPort i.port (fun l =>
    if l.state < 4 ∨ 6 < l.state then s
    else if i.ok = true ∧ l.spares < 16 then
      s.setLink i.port { l with state := if l.state = 6 then 6 else 5, spares := l.spares + 1 }
    else s.linkDown i.port)

/-- LOSS_OF_LIGHT (R350). -/
def execLossOfLight (i : Nat) (s : State) : Host.Outcome State Fault Refusal :=
  s.onPort i (fun l => if 4 ≤ l.state ∧ l.state ≤ 6 then s.linkDown i else s)

/-! ### Replay (R349) -/

/-- A port leaves Replaying once every replayed flit is acknowledged and no naked flit is missing (R350). -/
def Link.recover (l : Link) : Link :=
  if l.state = 6 ∧ l.replay = none ∧ l.gap = false then { l with state := if l.spares = 0 then 4 else 5 } else l

/-- The transmitter resends its buffer from `seq` onward exactly as stored; after eight replays in a row that did not advance
the acknowledged SEQ the link goes Down. -/
def State.startReplay (s : State) (p : Nat) (seq : BitVec 24) : State :=
  let l := s.link p
  if 8 ≤ l.fruitless then s.linkDown p
  else s.setLink p { l with
    state := 6, replays := l.replays + 1, fruitless := l.fruitless + 1, replay := l.buffer.getLast?.map (·.seq)
    sent := l.sent ++ l.buffer.dropWhile (fun f => f.seq != seq) }

/-- NAK_RECEIVE (R349). -/
def execNakReceive (i : PortSeq) (s : State) : Host.Outcome State Fault Refusal :=
  s.onPort i.port (fun l => if l.on && l.buffer.any (fun f => f.seq == i.seq) then s.startReplay i.port i.seq else s)

/-- ACK_TIMEOUT (R349): no acknowledgement has advanced for 1 µs. -/
def execAckTimeout (i : Nat) (s : State) : Host.Outcome State Fault Refusal :=
  s.onPort i (fun l => match l.buffer with
    | [] => s
    | f :: _ => if l.on then s.startReplay i f.seq else s)

/-- ACK_RECEIVE (R349, R354): flits up to `seq` leave the replay buffer. -/
def execAckReceive (i : PortSeq) (s : State) : Host.Outcome State Fault Refusal :=
  s.onPort i.port (fun l =>
    if l.on && l.buffer.any (fun f => f.seq == i.seq) then
      let rest := (l.buffer.dropWhile (fun f => f.seq != i.seq)).drop 1
      s.setLink i.port ({ l with
        buffer := rest, fruitless := 0, replay := l.replay.filter (fun q => rest.any (fun f => f.seq == q))
        keyold := l.keyold && rest.any (fun f => f.keyep != l.keyep) } : Link).recover
    else s)

/-- TYPE of a flit header (R348). -/
def flitType (h : DWord) : BitVec 4 := h.extractLsb' 36 4
/-- A reserved TYPE or a nonzero reserved bit counts as a CRC error (R348). -/
def flitReserved (h : DWord) : Bool := decide (5 < (flitType h).toNat) || h.extractLsb' 0 31 != 0

/-- A control flit leaves, without a place in the replay buffer. -/
def Link.signal (l : Link) (type : BitVec 4) (seq : BitVec 24) : Link :=
  { l with sent := l.sent ++ [{ type := type, seq := seq, keyep := l.keyep }] }

/-- A received flit is discarded: a nak names the first SEQ that the receiver lacks (R349). -/
def Link.reject (l : Link) (counted : Bool) : Link :=
  { l with crcErr := if counted then l.crcErr + 1 else l.crcErr, gap := true, state := if l.state = 3 then 3 else 6 }.signal
    3 l.expSeq

/-- The next expected SEQ has come: the neighbour's key epoch turns at its boundary (R354). -/
def Link.turn (l : Link) : Link :=
  if l.rxBoundary = some l.expSeq then { l with rxKeyep := !l.rxKeyep, rxBoundary := none } else l

/-- FLIT_RECEIVE (R348, R349). What an accepted flit carries arrives by the steps of its packets and frames. -/
def execFlitReceive (i : FlitIn) (s : State) : Host.Outcome State Fault Refusal :=
  s.onPort i.port (fun l =>
    if l.state < 3 ∨ 6 < l.state then s
    else
      let ty := flitType i.hdr
      let seq := i.hdr.extractLsb' 40 24
      if !i.crcOk || flitReserved i.hdr || !i.tagOk then s.setLink i.port (l.reject true)
      else if ty = 2 ∨ ty = 3 then s
      else if seq = l.expSeq then
        s.setLink i.port (({ l with expSeq := l.expSeq + 1, gap := false }.signal 2 seq).turn.recover)
      else if (seq - l.expSeq).toNat < 2 ^ 23 then (if l.gap then s else s.setLink i.port (l.reject false))
      else s.setLink i.port (l.signal 2 (l.expSeq - 1)))

/-! ### Keys (R354) -/

/-- A rotation: the announcement is the last flit under the old key, and the boundary is the SEQ after it. -/
def Link.rotate (l : Link) : Link :=
  { l.send { type := 4, seq := 0, keyep := false } with keyep := !l.keyep, keygen := l.keygen + 1, keyold := true, runs := 0 }

/-- A rotation of a port's key, ignored while KEYOLD is 1 or STATE is not 4 to 6 (R352). -/
def State.rotateKey (s : State) (p : Nat) : Host.Outcome State Fault Refusal :=
  s.onPort p (fun l => if l.on && !l.retains then s.setLink p l.rotate else s)

/-- LINK_ROTATE (R352, R354). -/
def execLinkRotate (i : Nat) (s : State) : Host.Outcome State Fault Refusal := s.rotateKey i
/-- KEY_AUTO_ROTATE (R354): every 2^32 runs. -/
def execKeyAutoRotate (i : Nat) (s : State) : Host.Outcome State Fault Refusal :=
  if (s.link i).runs < 2 ^ 32 then .next s else s.rotateKey i

/-- KEY_ANNOUNCE: the neighbour's flits from `seq` on carry its new key (R354). -/
def execKeyAnnounce (i : PortSeq) (s : State) : Host.Outcome State Fault Refusal :=
  s.onPort i.port (fun l => if l.on && l.rxBoundary.isNone then s.setLink i.port { l with rxBoundary := some i.seq }.turn else s)

end Sys2Proof.Machine
end

