-- ==== Sys2Proof/Machine/Health.lean ====
section
/-! DEFINITION. Bring-up, soft errors, repair, coolant (22_health.md R399 to R404), writes of window registers and of package
memory by system software (R3, R4, R69, R326, R327), and the rings that the resident driver reads. -/

namespace Sys2Proof.Machine

/-! ### Bring-up (R399) -/

/-- The package after power is applied, with the five steps run up to one that fails. The record's retired-core map is that which `i`
finds in it, with the cores that service has retired since (R402). -/
def State.bringUp (s : State) (i : PowerOn) : State :=
  let t : State := { State.reset with agenda := s.agenda, ticks := s.ticks, nextId := s.nextId, retired := s.retired }
  let t := if i.failStep = 1 ∨ i.failStep = 2 then t else { t with peer := i.peer, prio := i.prio }
  let t := if 1 ≤ i.failStep ∧ i.failStep ≤ 3 then t else
    { t with spareCores := s.retired.foldl (fun m k => m ||| (1 <<< (k.toNat / 16))) i.spares }
  if 1 ≤ i.failStep ∧ i.failStep ≤ 5 then
    { t with step := BitVec.ofNat 3 i.failStep, fail := true, fcode := BitVec.ofNat 8 i.failStep }
  else { t with step := 0, ready := true }

/-- POWER_ON (R399). -/
def execPowerOn (i : PowerOn) (s : State) : Host.Outcome State Fault Refusal := .next (s.bringUp i)

/-- Whether the package answers an event: before READY it only brings itself up (R399). -/
def State.responds (s : State) (i : Instr) : Bool :=
  s.ready || (match i with
    | .powerOn _ => true
    | _ => false)

/-! ### Soft errors (R400, R401) -/

/-- CORE of a record that a die writes: compute dies are 0 to 3, fabric dies 4 and 5; for the host die, which R166 does not
name, it is a free value (log entry 33). -/
def State.dieCore (s : State) (die : Nat) : Nat :=
  if die < 4 then 0x8000 + die else if die < 6 then 0xC000 + (die - 4) else 0x8000 + Config.reportDie s.nextId % 4

/-- A record of KIND 5. -/
def State.softRec (s : State) (c : CtxId) (cause : Cause) (addr : DWord) (die : Nat) : State :=
  s.fault (s.recDie c 5 cause addr (s.dieCore die))

/-- The context whose team holds a resource, also while it is Releasing and the team may have retired (R214, R218, R235). -/
def HoldState.holder (st : HoldState) (c : CtxId) : Option CtxId := if st = .free then none else some c

/-- The context that holds the place of an error (R235, R400). -/
def State.contextAt (s : State) : SoftPlace → Option CtxId
  | .band core b => let x := (s.core core).band b; x.state.holder x.ctx
  | .obUnit core u =>
    ((List.range 32).find? (fun n =>
      let x := (s.core core).resvAt n
      x.state != .free && decide (x.base ≤ u) && decide (u < x.base + x.size))).bind (fun n =>
        let x := (s.core core).resvAt n
        x.state.holder x.ctx)
  | .record core n => let x := (s.core core).resvAt n; x.state.holder x.ctx
  | .slot core slot => let w := s.warp (core * 16 + slot); if w.stat = .free then none else some w.ctx
  | .context c => some c
  | .canopyCopy _ _ _ | .memory _ | .other => none

/-- What an uncorrectable error outside any context does to its place: a clean canopy copy is dropped, and a word of memory keeps
its poisoned ECC (R400). -/
def State.spoil (s : State) : SoftPlace → State
  | .canopyCopy die p line => s.setDie die ((s.die die).dropLine p line)
  | .memory a => if s.poison.contains (a / 8 * 8) then s else { s with poison := s.poison ++ [a / 8 * 8] }
  | .band _ _ | .obUnit _ _ | .record _ _ | .slot _ _ | .context _ | .other => s

/-- SCRUB_PASS: each word that it corrects is reported (R400, R401). -/
def execScrubPass (i : ScrubPass) (s : State) : Host.Outcome State Fault Refusal :=
  .next (i.corrected.foldl (fun s e => s.softRec 0 0x340 e.2 e.1) s)

/-- SOFT_ERROR (R400). -/
def execSoftError (i : SoftError) (s : State) : Host.Outcome State Fault Refusal :=
  if i.corrected then .next (s.softRec 0 0x340 i.addr i.die)
  else match s.contextAt i.place with
    | some c => .next ((s.softRec c 0x341 i.addr i.die).discardCtx c 0x341 (i.die % 4))
    | none => .next ((s.spoil i.place).softRec 0 0x342 i.addr i.die)

/-- Accesses to poisoned words in the last step report 0x341, one record for each word and context, and their contexts are
discarded (R400, R401). -/
def State.reportPoison (s : State) : State :=
  s.poisonHits.foldl (fun s h =>
    let die := dieOfAddr h.2
    (s.softRec h.1 0x341 (BitVec.ofNat 64 h.2) die).discardCtx h.1 0x341 die) { s with poisonHits := [] }

/-- INTERNAL_ERROR (R377, R398). -/
def execInternalError (i : CtxId) (s : State) : Host.Outcome State Fault Refusal :=
  .next (s.discardCtx i 0x3C0 (Config.reportDie s.nextId % 4))

/-! ### Repair in service and coolant (R402, R404) -/

/-- CORE_RETIRE_REQUEST: REPAIR_CTL written with GO = 1. A request that is still pending gives way to it (log entry 37). -/
def State.retireCore (s : State) (core : BitVec 8) : State :=
  let s := s.setReg 0xA000 (core.setWidth 64)
  if s.spareCores.getLsbD (core.toNat / 16) then { s with repairBusy := false, repairFail := true }
  else { s with repairCore := core, repairBusy := true, repairFail := false }

/-- CORE_RETIRE_REQUEST (R402). -/
def execCoreRetireRequest (i : BitVec 8) (s : State) : Host.Outcome State Fault Refusal := .next (s.retireCore i)

/-- COOLANT_OVERTEMP: while it lasts every core's clock drops toward 0.8 GHz; no result changes (R404). -/
def execCoolantOvertemp (s : State) : Host.Outcome State Fault Refusal := .next { s with hot := true }
/-- COOLANT_BELOW_RATED_INLET (R404). -/
def execCoolantBelowRatedInlet (s : State) : Host.Outcome State Fault Refusal := .next { s with hot := false }
/-- A core's arithmetic clock in MHz: the governor's (R14), or 800 where the coolant is too warm (R404). -/
def State.clockOf (s : State) (core : Nat) : Nat := if s.hot then 800 else (s.core core).clock

/-! ### Writes of package memory (R326, R327) -/

/-- VALID of context `c`'s descriptor has been written: Free becomes Idle, Idle and Saved become Free (R327). -/
def State.validWritten (s : State) (c : CtxId) : State :=
  let st := (s.ctx c).state
  if s.descValid c = true ∧ st = .free then s.setCState c .idle
  else if s.descValid c = false ∧ (st = .idle ∨ st = .saved) then (s.dropFlights c).setCState c .free
  else s

/-- HOST_MEMORY_WRITE. -/
def execHostMemoryWrite (i : HostWrite) (s : State) : Host.Outcome State Fault Refusal :=
  if memTop < i.addr + i.bytes.length then .fault (.noSuchAddress (max i.addr memTop))
  else
    let t := (s.endLeases i.addr i.bytes.length).setBytes i.addr i.bytes
    let base := t.descAddr 0
    let cs := ((List.range i.bytes.length).map (fun n => i.addr + n)).filter (fun a =>
      decide (base ≤ a) && decide (a < base + 0x20000) && (a - base) % 32 == 27)
    .next (cs.foldl (fun s a => s.validWritten (BitVec.ofNat 12 ((a - base) / 32))) t)

/-! ### Writes of window registers (R3, R4, R69) -/

/-- The window image of a CSR that the privileged view writes: which of its copies, by warp, core, die or context, and its
number (log entry 40). -/
def State.writeCsr (s : State) (unit n : Nat) (v : DWord) : State :=
  match csrRights n with
  | none => s
  | some r =>
    if r.2 < 2 then s
    else match n with
      | 0x010 | 0x011 | 0x101 => s.setCtxCsr (BitVec.ofNat 12 unit) n v
      | 0x030 => { s with stallLimit := v.setWidth 16 }
      | 0x031 => { s with snapMaxAge := v.setWidth 32 }
      | 0x038 => if unit < 4 then s.setDie unit { s.die unit with migrThr := v.setWidth 16 } else s
      | 0x102 => if unit < 256 then s.setSplit unit v else s
      | _ =>
        if 0x040 ≤ n then (if unit < 512 then s.setPerf (unit / 2) (unit % 2) (n - 0x040) v else s)
        else if (s.warp unit).stat = .free then s else s.at unit (fun s => s.setCsr n v)

/-- 8 bytes of a task queue descriptor (R251). -/
def State.writeQueue (s : State) (off : Nat) (v : DWord) : State :=
  let q := s.taskq (off / 0x400 % 4) (off / 0x10 % 64)
  let d := if off % 0x10 = 0 then q.desc.extractLsb' 64 64 ++ (v &&& 0xFFFF1FFF00000003)
    else (v &&& 0x000FFFFFFFFFFFFF) ++ q.desc.extractLsb' 0 64
  s.setTaskq (off / 0x400 % 4) (off / 0x10 % 64) { q with desc := d }

/-- A write of 8 bytes at a window offset, or of a CSR's window image: writable fields take it, reserved and read-only fields
ignore it (R3, R4). Of CTX_CMD and DBG_CMD the fields that keep a value are written here (log entry 66); registers whose writes
have steps of their own are not. -/
def State.writeReg (s : State) (off : Nat) (v : DWord) : State :=
  if 0x100000000 ≤ off then s.writeCsr ((off - 0x100000000) / 0x1000) (off % 0x1000) v
  else if off = 0x2000 ∨ off = 0x2008 then s.setReg off v
  else if off = 0x2010 then (if v.getLsbD 0 then s else s.setReg off (v &&& 0x00000FFF00000000))
  else if 0x3000 ≤ off ∧ off < 0x4000 ∧ off % 8 = 0 then s.writeQueue (off - 0x3000) v
  else if off = 0x6200 then
    (List.range 4096).foldl (fun s c => s.validWritten (BitVec.ofNat 12 c)) (s.setReg off (v &&& 0x000000FFFFFE0000))
  else if off = 0x6400 then (if s.ctxBusy then s else s.setReg off (v &&& 0x00000FFF00000000))
  else if off = 0x6800 then
    (if s.dbgBusy || !s.granted (v.extractLsb' 32 12) then s else s.setReg off (v &&& 0x7FFFFFFF00000000))
  else if 0x7000 ≤ off ∧ off < 0x9000 ∧ off % 0x20 = 0 then s.setReg off (v &&& 0x000000FFFFFFFFC0)
  else if 0x7000 ≤ off ∧ off < 0x9000 ∧ off % 0x20 = 8 then s.setReg off (v &&& 0x0000FFFF0FFF8FFF)
  else if off = 0x9400 then s.setReg off (v &&& 0xFFFF)
  else if off = 0xA000 then (if v.getLsbD 8 then s else s.setReg off (v &&& 0xFF))
  else s

/-! ### Reads of window registers (R3, R4) -/

/-- The window image of a CSR as the privileged view reads it; see `State.writeCsr`. -/
def State.readCsr (s : State) (unit n : Nat) : DWord :=
  match csrRights n with
  | none => 0
  | some _ => match n with
    | 0x010 | 0x011 | 0x021 | 0x101 => s.ctxCsr (BitVec.ofNat 12 unit) n
    | 0x038 => (s.die unit).migrThr.setWidth 64
    | 0x102 => (s.core unit).split ||| (if (s.core unit).active then 2 else 0)
    | _ =>
      if 0x040 ≤ n ∧ n ≤ 0x048 then Tab.get 0 (s.core (unit / 2)).perf (unit % 2 * 16 + (n - 0x040))
      else State.csr { s with cur := unit } n

/-- An entry of the bill ring as software reads it (R324). -/
def Entry.image (e : Entry) : Nat :=
  e.ft.toNat + (e.ctx.toNat + e.kind.toNat * 2 ^ 12) * 2 ^ 64 + e.gen.toNat * 2 ^ 80 + e.len.toNat * 2 ^ 96

/-- BILL_STATUS (R324). -/
def State.billStatus (s : State) : DWord :=
  BitVec.ofNat 64 (s.late.toNat * 2 ^ 48 + s.epochs.toNat * 2 ^ 32 + bit01 s.syncErr * 2 ^ 31 +
    bit01 (s.ringmaster == some s.peer) * 2 ^ 30 + s.bill.length)

/-- What system software reads from 8 bytes at a window offset: reserved and write-only fields as 0, status fields from the
state that they show. -/
def State.readReg (s : State) (off : Nat) : DWord :=
  if 0x100000000 ≤ off then s.readCsr ((off - 0x100000000) / 0x1000) (off % 0x1000)
  else if off % 8 ≠ 0 then 0
  else if off = 0x2010 then s.reg off ||| (if s.sdBusy then 0 else 2)
  else if 0x3000 ≤ off ∧ off < 0x4000 then
    (s.taskq ((off - 0x3000) / 0x400) (off / 0x10 % 64)).desc.extractLsb' (off % 16 * 8) 64
  else if 0x4000 ≤ off ∧ off < 0x4020 then (s.die ((off - 0x4000) / 8)).vpool
  else if off = 0x5000 then (if s.submitDropped then 1 else 0)
  else if off = 0x6000 then s.billStatus
  else if 0x6100 ≤ off ∧ off < 0x6200 then
    (match s.bill[(off - 0x6100) / 16]? with
    | some e => BitVec.ofNat 64 (e.image / 2 ^ (off % 16 * 8))
    | none => 0)
  else if off = 0x6400 then s.reg off ||| (if s.ctxBusy then 0x0000100000000000 else 0)
  else if off = 0x6800 then s.reg off ||| (if s.dbgBusy then 0x8000000000000000 else 0)
  else if 0x6840 ≤ off ∧ off < 0x68C0 then
    (Tab.get 0 s.watches ((off - 0x6840) / 16)).extractLsb' (off % 16 * 8) 64
  else if 0x9000 ≤ off ∧ off < 0x9180 then
    (let l := s.link ((off - 0x9000) / 0x20)
     if off % 0x20 = 0 then l.stat else if off % 0x20 = 8 then (if l.enable then 1 else 0) else 0)
  else if off = 0xA000 then
    s.reg off ||| (if s.repairBusy then 0 else 0x200) ||| (if s.repairFail then 0x400 else 0)
  else s.reg off

/-- REGISTER_WRITE (R3). -/
def execRegisterWrite (i : RegWrite) (s : State) : Host.Outcome State Fault Refusal := .next (s.writeReg i.off i.val)

/-! ### Rings (R343, R166, R396) -/

/-- Trace records held at the dies enter the ring as it has room (R396). -/
def State.traceIn (s : State) : State :=
  let n := 4096 - s.traceQ.length
  { s with traceQ := s.traceQ ++ s.traceHeld.take n, traceHeld := s.traceHeld.drop n }

/-- RESIDENT_DRIVER_RING_READ: the oldest records leave a ring. -/
def execResidentDriverRingRead (i : RingRead) (s : State) : Host.Outcome State Fault Refusal :=
  match i.ring with
  | .fault => .next { s with faultQ := s.faultQ.drop i.n }
  | .sysc => .next { s with syscQ := s.syscQ.drop i.n }
  | .trace => .next { s with traceQ := s.traceQ.drop i.n }.traceIn

end Sys2Proof.Machine
end

