-- ==== Sys2Proof/Machine/Issue.lean ====
section
/-! DEFINITION. Issue: which warp a quadrant takes (07_group.md R136, R137, R150), the fetch of its instruction (R47, R140,
R143, R389, R390), the reissue of loads that a switch cut off (18_context.md R329), what a parked warp does when it is looked at
again (R418), what follows every step, and placing an instruction for the first step. -/

namespace Sys2Proof.Machine

/-! ### The choice of a warp (R136, R137, R150) -/

/-- Whether a warp's context lets it issue: Running, or Stopped while the debugger steps the warp (R393). -/
def State.mayRun (s : State) (k : Nat) : Bool :=
  let w := s.warp k
  !s.heldBySplit k && !s.cohortCut w.team && ((s.ctx w.ctx).state == .running || (w.stepping && (s.ctx w.ctx).state == .stopped))
/-- Whether warp `k` is Ready, but for a YIELD. One whose instruction the core holds, issued, is not (R137). -/
def State.isReady (s : State) (k : Nat) : Bool := (s.warp k).stat == .ready && !(s.warp k).held && s.mayRun k

/-- The warps of quadrant `q` (core*4 + quadrant) in ascending slot order, with wrap-around, after the one that issued last. -/
def State.order (s : State) (q : Nat) : List Nat :=
  let last := Tab.get 0 (s.core (q / 4)).issued (q % 4)
  let slots := [q % 4, q % 4 + 4, q % 4 + 8, q % 4 + 12]
  (slots.filter (fun n => decide (last < n)) ++ slots.filter (fun n => decide (n ≤ last))).map (fun n => q / 4 * 16 + n)

/-- The Ready warps of a quadrant, in order. A warp that has yielded is one when no other is Ready (R150). -/
def State.ready4 (s : State) (q : Nat) : List Nat :=
  let rs := (s.order q).filter s.isReady
  match rs.filter (fun k => (s.warp k).yielding == 0) with
  | [] => rs
  | k :: ks => k :: ks

/-- The warp that the quadrant issues from (R136). -/
def State.choose (s : State) (q : Nat) : Option Nat :=
  let rs := s.ready4 q
  match rs.find? (fun k => decide (3 ≤ (s.warp k).passed)) with
  | some k => some k
  | none => match rs.find? (fun k => (s.warp k).trapMode) with
    | some k => some k
    | none => rs.head?

/-- One opportunity for warp `k` of the quadrant: chosen, passed over, standing back, or not Ready; a YIELD counts each (R150). -/
def Warp.opportunity (w : Warp) (chosen ready awake : Bool) : Warp :=
  if chosen then { w with passed := 0, yielding := 0 }
  else if !ready then { w with passed := 0, yielding := w.yielding - 1 }
  else if awake then { w with passed := w.passed + 1, yielding := 0 }
  else { w with passed := 0, yielding := w.yielding - 1 }

/-- A quadrant's opportunity passes, with warp `pick` chosen, and its counters count it (R136, R150, R397). -/
def State.offer (s : State) (q : Nat) (pick : Option Nat) : State :=
  let rs := s.ready4 q
  let order := s.order q
  let core := q / 4
  let idle := fun (t : Nat) => rs.all (fun k => (s.team (s.warp k).team).tenant != t)
  let t := order.foldl (fun (u : State) k =>
    u.setWarp k ((s.warp k).opportunity (pick == some k) (s.isReady k) (rs.contains k))) s
  let t := if q % 4 = 0 then (t.count core 0 1 1).count core 1 1 1 else t
  let t := if idle 0 then t.count core 0 3 1 else t
  let t := if idle 1 && (t.core core).splitMode then t.count core 1 3 1 else t
  match pick with
  | none => t
  | some k =>
    let c := t.core core
    t.setCore core { c with issued := Tab.set 0 c.issued (q % 4) (slotOf k), lastSlot := slotOf k }

/-! ### Fetch (R47, R140, R143, R390) -/

/-- Whether a fetch watch covers `pc` (R390). -/
def State.fetchWatched (s : State) (c : CtxId) (pc : DWord) : Bool :=
  !s.revoking c && s.watches.any (fun e =>
    (e.2.extractLsb' 108 3).toNat == 4 && e.2.extractLsb' 96 12 == c &&
    decide ((e.2.extractLsb' 0 48).toNat ≤ pc.toNat) &&
    decide (pc.toNat ≤ (e.2.extractLsb' 0 48).toNat + (e.2.extractLsb' 64 32).toNat))

/-- The fetch at PC does not translate: the warp is Replayable there, with no lane performed (R140). -/
def State.fetchFault (s : State) (c : Cause) : State :=
  let pc := s.w.pc
  let lanes := match lanesOf s.w.em with
    | [] => [0]
    | l => l
  s.replayable (lanes.map (fun i => ⟨i, c, pc, pc⟩)) 0 3

/-- The core keeps the line of code that a fetch at `pc` has read, and the die its translation; the fetch, an access, ends a lease on the line
(R10, R140, R163, R165, R356, R400). -/
def State.useCode (s : State) (pc : DWord) (n : Nat) (t : Trans) : State :=
  let line := t.addr pc / 128
  ((s.use s.w.ctx s.myDie pc n t).endLeases (line * 128) 128).updCore (fun c => c.keepCode s.myTeam.launch line (s.codeLine s.ticks line))

/-- Whether a fetched word passes the checks of R59, a tool word that of 0x04B for a tool handler; one that does not is never issued. -/
def Fetched.passes (f : Fetched) (pc : DWord) (tool : Bool) : Bool :=
  match decodeFetched pc f with
  | .illegalEncoding _ => false
  | .tool64 _ => tool
  | .tool96 _ => tool
  | .tool128 _ => tool
  | _ => true

/-- The executing warp fetches its next instruction, unless it has one; it may fault, trap, stop or wait instead. -/
def State.fetch (s : State) : State :=
  if s.w.ir.isSome then s
  else match s.settle with
    | .stopped t => t
    | .path t =>
      let pc := t.w.pc
      match t.translate t.w.ctx t.myDie wantX 0 pc, t.fetchAt pc with
      | .error c, _ => t.fetchFault c
      | _, .error c => t.fetchFault c
      | .ok tr, .ok f =>
        let t := (t.useCode pc (min f.len (32 - pc.toNat % 32)) tr).upd (fun w => { w with ir := some f })
        if t.fetchWatched t.w.ctx pc && !t.w.skipBreak then
          (t.debugStop 0x2C3 t.w.em 0 pc).upd (fun w => { w with skipBreak := true, ir := none, done := 0 })
        else if f.passes pc ((t.ctx t.w.ctx).toolBase.getLsbD 0) then t.count (coreOf t.cur) t.tenant 2 1 else t

/-- INSTRUCTION_FETCH of warp `i`, which then performs the instruction at its next opportunity (R47). -/
def execInstructionFetch (i : Nat) (s : State) : Host.Outcome State Fault Refusal :=
  .next (if s.isReady i && (s.warp i).reissue.isNone then s.at i State.fetch else s)

/-! ### Reissue after a switch (R329) -/

/-- Register, size, sign extension and view of a recorded load, from its word 0 alone; none for a FILL (R50, R51, R333). -/
def State.recorded (s : State) (w0 : DWord) : Option (RegNo × Size × Bool × View) :=
  let r := unpack w0 0
  match r.mem with
  | .error _ => none
  | .ok m =>
    if r.op = 0x0C0 then some (r.d, m.size, r.x.getLsbD 3, s.view)
    else if r.op = 0x156 then
      let t := s.w.s r.b.toNat
      some (r.d, m.size, r.x.getLsbD 3, .time (if t = 0 then s.now else t) none false)
    else none

/-- What was an acquire when it was issued is one again: the drop of every copy holds for any scope (R194, R370). -/
def State.reacquire (s : State) : State := if s.w.fence.vLoads then s.acquireOn 0 3 else s

/-- The recorded lanes of a load are issued again. R168 has counted them already. -/
def State.reissueLanes (s : State) (w0 : DWord) (lanes : Mask) (eas : Tab DWord) (d : RegNo) (sz : Size) (sx : Bool)
    (v : View) : State :=
  let ea := fun (i : Nat) => Tab.get 0 eas i
  let r := s.transLanes wantR sz.bytes ea (lanesOf lanes)
  if r.2 ≠ [] then s.replayable r.2 s.w.done 0
  else if s.lanesHeld r.1 then s.hold
  else
    let a := r.1.foldl (fun (a : Loads) l => a.lane v false (fun i b => loadWrites d sz sx i b) l)
      { s := (s.noteParts false (partsAll r.1)).upd (fun w => { w with ir := some ⟨16, w0, 0⟩ }) }
    if a.waits ≠ 0 then s.hold
    else
      let t := (a.issue d sz sx).upd (fun w => { w with ir := s.w.ir, reissue := none })
      t.reacquire.failLanes a.fails t.w.done ea

/-- The recorded slot of a FILL is read again; the FILL, at which the warp still stands, then finds every lane performed. -/
def State.reissueFill (s : State) (w0 : DWord) (e : DWord) : State :=
  let d := (w0.extractLsb' 16 8).toNat
  match s.transParts s.w.ctx s.myDie wantR 0 e (partsOf e 132) with
  | .error x => s.replayable (everyLane x) 0 0
  | .ok ps =>
    if s.lanesHeld [⟨0, e, ps⟩] then s.hold
    else
      let r := (s.noteParts false ps).readParts s.view false (s.ticks * 65536) ps
      let t := (r.1.upd (fun w => { w with reissue := none })).reacquire
      match gotAll r.2 with
      | .wait _ => s.hold
      | .fail c => t.enter c fullMask 0 e
      | .bytes b => match fillValues b with
        | none => t.precise 0x084 fullMask e
        | some x => (t.addPending fullMask (.value (fillWrites d x) [])).upd (fun w => { w with done := fullMask })
      | .away =>
        let tag := t.nextId
        let asks := asksOf 0 r.2
        ((t.addPending 1 (.fill d w0 e (gotHere 0 r.2) asks (t.die t.myDie).epoch tag)).sendLoads tag asks).park 1

/-- The executing warp reissues what its record holds (R329). -/
def State.reissue (s : State) : State :=
  match s.w.reissue with
  | none => s
  | some (w0, lanes, eas) => match s.recorded w0 with
    | some (d, sz, sx, v) => s.reissueLanes w0 lanes eas d sz sx v
    | none => s.reissueFill w0 (Tab.get 0 eas 0)

/-- The reissue, after which a warp that had been waiting for its marker waits again (R139). -/
def State.reissueNow (s : State) : State :=
  let t := (s.upd (fun w => { w with marked := w.marked || (w.stat == .parked && w.reason == 1) })).reissue
  if t.w.reissue.isNone && t.w.marked then t.upd (fun w => Warp.mark { w with marked := false } true) else t

/-! ### Parked warps (R418) -/

/-- Warps that wait, parked or with an instruction that the core holds, and may go on, and those which have passed an instruction that
the core holds, in ascending order. -/
def State.parkedKeys (s : State) : List Nat :=
  (s.warps.filter (fun e =>
    (e.2.stat == .parked || (e.2.stat == .ready && e.2.held) || (e.2.stat == .retiring && e.2.reason == 12)) && s.mayRun e.1 ||
    !e.2.deferred.isEmpty)).map (·.1)

/-- A wait of the executing warp that is not its instruction's own: none when the instruction is to be performed again. -/
def State.waitOver (s : State) : Option State :=
  let w := s.w
  let go := fun (s : State) => s.upd (fun w => { w with stat := .ready, reason := 0 })
  let onward := fun (s : State) => s.upd (fun w => Warp.mark { w with marked := false, waitBand := none, waitPort := none, waitIds := [] } w.marked)
  if w.stat = .retiring then some s.retireMember
  else if w.reason = 1 then some (if w.pending = [] then go s else s)
  else if w.reason = 2 ∨ (w.reason = 3 ∧ w.ir = none) then some (if s.bandOver && s.portOver then onward s else s)
  else if w.reason = 20 ∨ w.reason = 21 then some s.syscWait
  else if w.reason = 22 then some s
  else if w.reason = 23 then
    let t := s.refetch 8
    some (match t.w.fencePOf with
      | some i => t.fencepWait i
      | none => t)
  else none

/-! ### Events -/

/-- Whether a row of the opcode table is an event of the package, and no instruction that a warp fetches. -/
def isEvent (i : Instr) : Bool :=
  match i with
  | .illegalEncoding _ => false
  | _ => (encodeRaw i).isNone

/-! ### What follows a step -/

/-- Whether a warp waits for something of an instruction that it has passed in PC or that has been issued: its results, room in a queue, a
system call's reply, a FENCEP's accesses (R418). -/
def Warp.afterwards (w : Warp) : Bool :=
  w.stat == .parked && (w.reason == 2 || w.reason == 20 || w.reason == 21 || w.reason == 22 || w.reason == 23 ||
    ((w.reason == 1 || w.reason == 3) && w.ir.isNone))

/-- A stepped warp halts again once the one instruction that it issues has completed or it waits; the map describes that instruction,
which it had fetched in `f` (R379, R393). Before the step in `old` it may still have waited for an earlier one. -/
def State.endStep (s f old : State) (k : Nat) : State :=
  let w := s.warp k
  let stop := fun (s : State) =>
    let m := s.trapMap 0x2C2 s.w.em s.w.done s.noAddr
    let i := f.trapMap 0x2C2 0 0 0
    s.stopMap { m with pc := i.pc, len := i.len, instLo := i.instLo, instHi := i.instHi }
  if !w.stepping || f.w.ir.isNone || (old.warp k).afterwards then s
  else match w.stat with
    | .ready => if w.ir.isNone && !w.held then s.at k stop else s
    | .parked => s.at k stop
    | .free | .replayable | .retiring | .halted => s.setWarp k { w with stepping := false }

/-- A breakpoint that was passed over once counts again after its instruction, fetched in `f`: not while a fault or a debug stop keeps the
warp at it (R389). -/
def State.endBreak (s f : State) (k : Nat) : State :=
  let w := s.warp k
  let at_ := w.pc == f.w.pc && (w.stat == .replayable || (w.stat == .halted && w.done != 0))
  if w.skipBreak && f.w.ir.isSome && w.ir.isNone && !w.held && !at_ then s.setWarp k { w with skipBreak := false } else s

/-- What the package does after every step: paths to peers (R357), losses (R365), packets (R347), poisoned words (R400), and
groups that have ended (R135), and revocations that waited for a step (R395). -/
def State.settleAll (s old : State) : State :=
  let t := { s with far := s.clearing.filter (fun p => Config.reach p s.ticks) }
  let t := (t.loseAbsent.countChanges old).transmit
  t.reportPoison.settleGroups.revokeHeld

/-- Parked warps are looked at again before the next issue. -/
def State.refill (s : State) : State := { s with recheck := s.parkedKeys }

/-! ### Placing an instruction for the first step -/

/-- The bytes of an instruction of the opcode table, 16 of them, with the bits above `nbits` zero. -/
def tableBytes (nbits w : Nat) : List Byte := bytesLE 16 (w % 2 ^ nbits)

/-- Where the placed instruction stands, in virtual and in physical memory. -/
def placedAt : Nat := 0x10000
/-- Where the table of range entries that maps it stands. -/
def placedTable : Nat := 0x20000

/-- Warp 0 as it is about to fetch the placed instruction. -/
def Warp.placed (w : Warp) : Warp :=
  { w with
    stat := .ready, reason := 0, pc := BitVec.ofNat 64 placedAt, cj := 0xFFFFFFFFFFFFFFFF, em := fullMask, exited := 0
    stack := [], depth := 0, done := 0, waiting := 0, replay := false, yielding := 0, passed := 3, ir := none
    reissue := none, skipBreak := true, stepping := false, held := false, deferred := [] }

/-- The package runs warp 0 of core 0 alone in its quadrant, whose context is Running with one range entry that maps the
placed code (R157, R158). -/
def State.place (s : State) (bs : List Byte) : State :=
  let w := (s.warp 0).placed
  let page := BitVec.ofNat 64 placedAt
  let attr : DWord := (s.peer.setWidth 64 <<< 52) ||| 0x21
  let t : State := { s with
    agenda := [], recheck := [], turn := 0, ready := true, step := 0, fail := false, switch := none
    warps := Tab.set {} (Tab.drop (fun k => k == 4 || k == 8 || k == 12) s.warps) 0 w
    tlb := s.tlb.filter (fun e => !(e.ctx == w.ctx && e.vpage == placedAt / 4096)) }
  let t := t.setCore 0 { t.core 0 with icache := (t.core 0).icache.filter (fun e => e.1 != placedAt / 128) }
  let t := t.setCtx w.ctx { t.ctx w.ctx with state := .running, range := BitVec.ofNat 64 placedTable }
  ((((t.setBytes placedAt bs).setDword placedTable page).setDword (placedTable + 8) (page + 0xFFF)).setDword
    (placedTable + 16) page).setDword (placedTable + 24) attr

end Sys2Proof.Machine
end

