-- ==== Sys2Proof/Machine/Dispatch.lean ====
section
/-! DEFINITION. Dispatch: one arm per constructor of Instr. -/

namespace Sys2Proof.Machine

/-- The meaning of an instruction for the executing warp, or of an event step for the package. -/
def exec (i : Instr) (s : State) : Host.Outcome State Fault Refusal :=
  match i with
  | .iadd x => Sys2Proof.Machine.execIadd x s
  | .iaddImm x => Sys2Proof.Machine.execIaddImm x s
  | .isub x => Sys2Proof.Machine.execIsub x s
  | .isubImm x => Sys2Proof.Machine.execIsubImm x s
  | .imul x => Sys2Proof.Machine.execImul x s
  | .imulImm x => Sys2Proof.Machine.execImulImm x s
  | .imulhi x => Sys2Proof.Machine.execImulhi x s
  | .imulhiImm x => Sys2Proof.Machine.execImulhiImm x s
  | .imad x => Sys2Proof.Machine.execImad x s
  | .imadImm x => Sys2Proof.Machine.execImadImm x s
  | .imin x => Sys2Proof.Machine.execImin x s
  | .iminImm x => Sys2Proof.Machine.execIminImm x s
  | .imax x => Sys2Proof.Machine.execImax x s
  | .imaxImm x => Sys2Proof.Machine.execImaxImm x s
  | .iabs x => Sys2Proof.Machine.execIabs x s
  | .ineg x => Sys2Proof.Machine.execIneg x s
  | .and x => Sys2Proof.Machine.execAnd x s
  | .andImm x => Sys2Proof.Machine.execAndImm x s
  | .or x => Sys2Proof.Machine.execOr x s
  | .orImm x => Sys2Proof.Machine.execOrImm x s
  | .xor x => Sys2Proof.Machine.execXor x s
  | .xorImm x => Sys2Proof.Machine.execXorImm x s
  | .not x => Sys2Proof.Machine.execNot x s
  | .andn x => Sys2Proof.Machine.execAndn x s
  | .andnImm x => Sys2Proof.Machine.execAndnImm x s
  | .shl x => Sys2Proof.Machine.execShl x s
  | .shlImm x => Sys2Proof.Machine.execShlImm x s
  | .shr x => Sys2Proof.Machine.execShr x s
  | .shrImm x => Sys2Proof.Machine.execShrImm x s
  | .sar x => Sys2Proof.Machine.execSar x s
  | .sarImm x => Sys2Proof.Machine.execSarImm x s
  | .rot x => Sys2Proof.Machine.execRot x s
  | .rotImm x => Sys2Proof.Machine.execRotImm x s
  | .popc x => Sys2Proof.Machine.execPopc x s
  | .clz x => Sys2Proof.Machine.execClz x s
  | .brev x => Sys2Proof.Machine.execBrev x s
  | .bfe x => Sys2Proof.Machine.execBfe x s
  | .bfeImm x => Sys2Proof.Machine.execBfeImm x s
  | .bfi x => Sys2Proof.Machine.execBfi x s
  | .bfiImm x => Sys2Proof.Machine.execBfiImm x s
  | .icmp x => Sys2Proof.Machine.execIcmp x s
  | .icmpImm x => Sys2Proof.Machine.execIcmpImm x s
  | .sel x => Sys2Proof.Machine.execSel x s
  | .selImm x => Sys2Proof.Machine.execSelImm x s
  | .movReg x => Sys2Proof.Machine.execMovReg x s
  | .movi x => Sys2Proof.Machine.execMovi x s
  | .movSpecialSource x => Sys2Proof.Machine.execMovSpecialSource x s
  | .movSpecialDestination x => Sys2Proof.Machine.execMovSpecialDestination x s
  | .lea x => Sys2Proof.Machine.execLea x s
  | .leaImm x => Sys2Proof.Machine.execLeaImm x s
  | .iadd64 x => Sys2Proof.Machine.execIadd64 x s
  | .iadd64Imm x => Sys2Proof.Machine.execIadd64Imm x s
  | .imad64 x => Sys2Proof.Machine.execImad64 x s
  | .imad64Imm x => Sys2Proof.Machine.execImad64Imm x s
  | .icvt x => Sys2Proof.Machine.execIcvt x s
  | .fadd x => Sys2Proof.Machine.execFadd x s
  | .faddImm x => Sys2Proof.Machine.execFaddImm x s
  | .fsub x => Sys2Proof.Machine.execFsub x s
  | .fsubImm x => Sys2Proof.Machine.execFsubImm x s
  | .fmul x => Sys2Proof.Machine.execFmul x s
  | .fmulImm x => Sys2Proof.Machine.execFmulImm x s
  | .ffma x => Sys2Proof.Machine.execFfma x s
  | .ffmaImm x => Sys2Proof.Machine.execFfmaImm x s
  | .fmin x => Sys2Proof.Machine.execFmin x s
  | .fminImm x => Sys2Proof.Machine.execFminImm x s
  | .fmax x => Sys2Proof.Machine.execFmax x s
  | .fmaxImm x => Sys2Proof.Machine.execFmaxImm x s
  | .fcmp x => Sys2Proof.Machine.execFcmp x s
  | .fcmpImm x => Sys2Proof.Machine.execFcmpImm x s
  | .fclass x => Sys2Proof.Machine.execFclass x s
  | .frcp x => Sys2Proof.Machine.execFrcp x s
  | .frsq x => Sys2Proof.Machine.execFrsq x s
  | .fsqrt x => Sys2Proof.Machine.execFsqrt x s
  | .fdivs x => Sys2Proof.Machine.execFdivs x s
  | .fexp2 x => Sys2Proof.Machine.execFexp2 x s
  | .flog2 x => Sys2Proof.Machine.execFlog2 x s
  | .fsin x => Sys2Proof.Machine.execFsin x s
  | .fcos x => Sys2Proof.Machine.execFcos x s
  | .ftanh x => Sys2Proof.Machine.execFtanh x s
  | .frnd x => Sys2Proof.Machine.execFrnd x s
  | .fcvt x => Sys2Proof.Machine.execFcvt x s
  | .ftoi x => Sys2Proof.Machine.execFtoi x s
  | .itof x => Sys2Proof.Machine.execItof x s
  | .dadd x => Sys2Proof.Machine.execDadd x s
  | .dmul x => Sys2Proof.Machine.execDmul x s
  | .dfma x => Sys2Proof.Machine.execDfma x s
  | .dcmp x => Sys2Proof.Machine.execDcmp x s
  | .hadd2 x => Sys2Proof.Machine.execHadd2 x s
  | .hadd2Imm x => Sys2Proof.Machine.execHadd2Imm x s
  | .hmul2 x => Sys2Proof.Machine.execHmul2 x s
  | .hmul2Imm x => Sys2Proof.Machine.execHmul2Imm x s
  | .hfma2 x => Sys2Proof.Machine.execHfma2 x s
  | .hfma2Imm x => Sys2Proof.Machine.execHfma2Imm x s
  | .hmin2 x => Sys2Proof.Machine.execHmin2 x s
  | .hmin2Imm x => Sys2Proof.Machine.execHmin2Imm x s
  | .hmax2 x => Sys2Proof.Machine.execHmax2 x s
  | .hmax2Imm x => Sys2Proof.Machine.execHmax2Imm x s
  | .qfmt x => Sys2Proof.Machine.execQfmt x s
  | .qfmtImm x => Sys2Proof.Machine.execQfmtImm x s
  | .qpack x => Sys2Proof.Machine.execQpack x s
  | .qunpack x => Sys2Proof.Machine.execQunpack x s
  | .bscale x => Sys2Proof.Machine.execBscale x s
  | .srseed x => Sys2Proof.Machine.execSrseed x s
  | .perm x => Sys2Proof.Machine.execPerm x s
  | .vote x => Sys2Proof.Machine.execVote x s
  | .wred x => Sys2Proof.Machine.execWred x s
  | .wscan x => Sys2Proof.Machine.execWscan x s
  | .matchLanes x => Sys2Proof.Machine.execMatchLanes x s
  | .movx x => Sys2Proof.Machine.execMovx x s
  | .movxw x => Sys2Proof.Machine.execMovxw x s
  | .spill x => Sys2Proof.Machine.execSpill x s
  | .fill x => Sys2Proof.Machine.execFill x s
  | .bra x => Sys2Proof.Machine.execBra x s
  | .brx x => Sys2Proof.Machine.execBrx x s
  | .call x => Sys2Proof.Machine.execCall x s
  | .callx x => Sys2Proof.Machine.execCallx x s
  | .ret x => Sys2Proof.Machine.execRet x s
  | .exit x => Sys2Proof.Machine.execExit x s
  | .yield x => Sys2Proof.Machine.execYield x s
  | .yieldExpiry x => Sys2Proof.Machine.execYieldExpiry x s
  | .nop x => Sys2Proof.Machine.execNop x s
  | .bkpt x => Sys2Proof.Machine.execBkpt x s
  | .tramp x => Sys2Proof.Machine.execTramp x s
  | .tret x => Sys2Proof.Machine.execTret x s
  | .syncw x => Sys2Proof.Machine.execSyncw x s
  | .syncwImm x => Sys2Proof.Machine.execSyncwImm x s
  | .ld x => Sys2Proof.Machine.execLd x s
  | .st x => Sys2Proof.Machine.execSt x s
  | .lds x => Sys2Proof.Machine.execLds x s
  | .sts x => Sys2Proof.Machine.execSts x s
  | .ldfe x => Sys2Proof.Machine.execLdfe x s
  | .ldff x => Sys2Proof.Machine.execLdff x s
  | .stef x => Sys2Proof.Machine.execStef x s
  | .stf x => Sys2Proof.Machine.execStf x s
  | .fest x => Sys2Proof.Machine.execFest x s
  | .feq x => Sys2Proof.Machine.execFeq x s
  | .feTimeoutExpiry x => Sys2Proof.Machine.execFeTimeoutExpiry x s
  | .pfch x => Sys2Proof.Machine.execPfch x s
  | .cflush x => Sys2Proof.Machine.execCflush x s
  | .atom x => Sys2Proof.Machine.execAtom x s
  | .atomr x => Sys2Proof.Machine.execAtomr x s
  | .fence x => Sys2Proof.Machine.execFence x s
  | .fencep x => Sys2Proof.Machine.execFencep x s
  | .promote x => Sys2Proof.Machine.execPromote x s
  | .faultRecordEnqueue => Sys2Proof.Machine.execFaultRecordEnqueue s
  | .faultResolved x => Sys2Proof.Machine.execFaultResolved x s
  | .faultUnresolvable x => Sys2Proof.Machine.execFaultUnresolvable x s
  | .loadResponse x => Sys2Proof.Machine.execLoadResponse x s
  | .remoteAccessIngress x => Sys2Proof.Machine.execRemoteAccessIngress x s
  | .remoteAck x => Sys2Proof.Machine.execRemoteAck x s
  | .remoteAtomicIngress x => Sys2Proof.Machine.execRemoteAtomicIngress x s
  | .leaseExpiry x => Sys2Proof.Machine.execLeaseExpiry x s
  | .instructionFetch x => Sys2Proof.Machine.execInstructionFetch x s
  | .illegalEncoding x => Sys2Proof.Machine.execIllegalEncoding x s
  | .tool64 x => Sys2Proof.Machine.execTool64 x s
  | .tool96 x => Sys2Proof.Machine.execTool96 x s
  | .tool128 x => Sys2Proof.Machine.execTool128 x s
  | .binit x => Sys2Proof.Machine.execBinit x s
  | .barv x => Sys2Proof.Machine.execBarv x s
  | .barx x => Sys2Proof.Machine.execBarx x s
  | .bwait x => Sys2Proof.Machine.execBwait x s
  | .btest x => Sys2Proof.Machine.execBtest x s
  | .bdrop x => Sys2Proof.Machine.execBdrop x s
  | .bandacq x => Sys2Proof.Machine.execBandacq x s
  | .bandrel x => Sys2Proof.Machine.execBandrel x s
  | .obres x => Sys2Proof.Machine.execObres x s
  | .obrel x => Sys2Proof.Machine.execObrel x s
  | .obld x => Sys2Proof.Machine.execObld x s
  | .mma x => Sys2Proof.Machine.execMma x s
  | .accz x => Sys2Proof.Machine.execAccz x s
  | .accrd x => Sys2Proof.Machine.execAccrd x s
  | .accwr x => Sys2Proof.Machine.execAccwr x s
  | .bandCmdMma x => Sys2Proof.Machine.execBandCmdMma x s
  | .bandCmdAccz x => Sys2Proof.Machine.execBandCmdAccz x s
  | .bandCmdAccrd x => Sys2Proof.Machine.execBandCmdAccrd x s
  | .bandCmdAccwr x => Sys2Proof.Machine.execBandCmdAccwr x s
  | .bandCmdColrd x => Sys2Proof.Machine.execBandCmdColrd x s
  | .qbind x => Sys2Proof.Machine.execQbind x s
  | .qcmd x => Sys2Proof.Machine.execQcmd x s
  | .qstat x => Sys2Proof.Machine.execQstat x s
  | .qdrain x => Sys2Proof.Machine.execQdrain x s
  | .gset x => Sys2Proof.Machine.execGset x s
  | .gclr x => Sys2Proof.Machine.execGclr x s
  | .queueHeadDispatch x => Sys2Proof.Machine.execQueueHeadDispatch x s
  | .engineCommandComplete x => Sys2Proof.Machine.execEngineCommandComplete x s
  | .tkput x => Sys2Proof.Machine.execTkput x s
  | .tkget x => Sys2Proof.Machine.execTkget x s
  | .tkdone x => Sys2Proof.Machine.execTkdone x s
  | .usherPass x => Sys2Proof.Machine.execUsherPass x s
  | .hrec x => Sys2Proof.Machine.execHrec x s
  | .copy x => Sys2Proof.Machine.execCopy x s
  | .copyPart x => Sys2Proof.Machine.execCopyPart x s
  | .copyReadResponse x => Sys2Proof.Machine.execCopyReadResponse x s
  | .copyComplete x => Sys2Proof.Machine.execCopyComplete x s
  | .cbatch x => Sys2Proof.Machine.execCbatch x s
  | .cwait x => Sys2Proof.Machine.execCwait x s
  | .ccancel x => Sys2Proof.Machine.execCcancel x s
  | .sloop x => Sys2Proof.Machine.execSloop x s
  | .snext x => Sys2Proof.Machine.execSnext x s
  | .sadv x => Sys2Proof.Machine.execSadv x s
  | .sjmp x => Sys2Proof.Machine.execSjmp x s
  | .waitl x => Sys2Proof.Machine.execWaitl x s
  | .waitlReg x => Sys2Proof.Machine.execWaitlReg x s
  | .sret x => Sys2Proof.Machine.execSret x s
  | .sclose x => Sys2Proof.Machine.execSclose x s
  | .heldCopyEnterPort x => Sys2Proof.Machine.execHeldCopyEnterPort x s
  | .snap x => Sys2Proof.Machine.execSnap x s
  | .snapx x => Sys2Proof.Machine.execSnapx x s
  | .txb x => Sys2Proof.Machine.execTxb x s
  | .txc x => Sys2Proof.Machine.execTxc x s
  | .txcCommitWaitEnd x => Sys2Proof.Machine.execTxcCommitWaitEnd x s
  | .txa x => Sys2Proof.Machine.execTxa x s
  | .txq x => Sys2Proof.Machine.execTxq x s
  | .vat x => Sys2Proof.Machine.execVat x s
  | .versionInstallDone x => Sys2Proof.Machine.execVersionInstallDone x s
  | .foragerPass x => Sys2Proof.Machine.execForagerPass x s
  | .watermarkFrameSend => Sys2Proof.Machine.execWatermarkFrameSend s
  | .watermarkFrameReceive x => Sys2Proof.Machine.execWatermarkFrameReceive x s
  | .poolStallExpiry x => Sys2Proof.Machine.execPoolStallExpiry x s
  | .vpoolCfgWrite x => Sys2Proof.Machine.execVpoolCfgWrite x s
  | .postw x => Sys2Proof.Machine.execPostw x s
  | .launchSubmit x => Sys2Proof.Machine.execLaunchSubmit x s
  | .launchAccept => Sys2Proof.Machine.execLaunchAccept s
  | .cohortPlacement x => Sys2Proof.Machine.execCohortPlacement x s
  | .warpRetire x => Sys2Proof.Machine.execWarpRetire x s
  | .launchComplete x => Sys2Proof.Machine.execLaunchComplete x s
  | .resultExchangeFrame x => Sys2Proof.Machine.execResultExchangeFrame x s
  | .ldred x => Sys2Proof.Machine.execLdred x s
  | .ldredContribution x => Sys2Proof.Machine.execLdredContribution x s
  | .ldredResult x => Sys2Proof.Machine.execLdredResult x s
  | .stmc x => Sys2Proof.Machine.execStmc x s
  | .stmcDelivery x => Sys2Proof.Machine.execStmcDelivery x s
  | .agq x => Sys2Proof.Machine.execAgq x s
  | .ftime x => Sys2Proof.Machine.execFtime x s
  | .sysc x => Sys2Proof.Machine.execSysc x s
  | .syscReply x => Sys2Proof.Machine.execSyscReply x s
  | .halt x => Sys2Proof.Machine.execHalt x s
  | .trap x => Sys2Proof.Machine.execTrap x s
  | .rett x => Sys2Proof.Machine.execRett x s
  | .csrr x => Sys2Proof.Machine.execCsrr x s
  | .csrw x => Sys2Proof.Machine.execCsrw x s
  | .debugRevoke x => Sys2Proof.Machine.execDebugRevoke x s
  | .watchWrite x => Sys2Proof.Machine.execWatchWrite x s
  | .dbgStop x => Sys2Proof.Machine.execDbgStop x s
  | .dbgSave x => Sys2Proof.Machine.execDbgSave x s
  | .dbgRestore x => Sys2Proof.Machine.execDbgRestore x s
  | .dbgStep x => Sys2Proof.Machine.execDbgStep x s
  | .dbgSetWmode x => Sys2Proof.Machine.execDbgSetWmode x s
  | .billEntryReceive x => Sys2Proof.Machine.execBillEntryReceive x s
  | .billEntryPerform => Sys2Proof.Machine.execBillEntryPerform s
  | .slotEnd => Sys2Proof.Machine.execSlotEnd s
  | .contextSwitch => Sys2Proof.Machine.execContextSwitch s
  | .saveComplete => Sys2Proof.Machine.execSaveComplete s
  | .restoreComplete => Sys2Proof.Machine.execRestoreComplete s
  | .latePacketApply x => Sys2Proof.Machine.execLatePacketApply x s
  | .ctxCmdPreempt x => Sys2Proof.Machine.execCtxCmdPreempt x s
  | .ctxCmdEndPreempt => Sys2Proof.Machine.execCtxCmdEndPreempt s
  | .ctxCmdResume x => Sys2Proof.Machine.execCtxCmdResume x s
  | .ctxCmdDiscard x => Sys2Proof.Machine.execCtxCmdDiscard x s
  | .ptpFrame x => Sys2Proof.Machine.execPtpFrame x s
  | .ringmasterElection x => Sys2Proof.Machine.execRingmasterElection x s
  | .shootdownStart x => Sys2Proof.Machine.execShootdownStart x s
  | .shootdownDone => Sys2Proof.Machine.execShootdownDone s
  | .coreRetireRequest x => Sys2Proof.Machine.execCoreRetireRequest x s
  | .linkEnable x => Sys2Proof.Machine.execLinkEnable x s
  | .linkRetrain x => Sys2Proof.Machine.execLinkRetrain x s
  | .linkRotate x => Sys2Proof.Machine.execLinkRotate x s
  | .keyAutoRotate x => Sys2Proof.Machine.execKeyAutoRotate x s
  | .ringCalibrationDone x => Sys2Proof.Machine.execRingCalibrationDone x s
  | .calibrationTimeout x => Sys2Proof.Machine.execCalibrationTimeout x s
  | .linkTrainingDone x => Sys2Proof.Machine.execLinkTrainingDone x s
  | .heaterSaturation x => Sys2Proof.Machine.execHeaterSaturation x s
  | .lossOfLight x => Sys2Proof.Machine.execLossOfLight x s
  | .flitReceive x => Sys2Proof.Machine.execFlitReceive x s
  | .ackReceive x => Sys2Proof.Machine.execAckReceive x s
  | .nakReceive x => Sys2Proof.Machine.execNakReceive x s
  | .ackTimeout x => Sys2Proof.Machine.execAckTimeout x s
  | .keyAnnounce x => Sys2Proof.Machine.execKeyAnnounce x s
  | .powerOn x => Sys2Proof.Machine.execPowerOn x s
  | .scrubPass x => Sys2Proof.Machine.execScrubPass x s
  | .softError x => Sys2Proof.Machine.execSoftError x s
  | .coolantOvertemp => Sys2Proof.Machine.execCoolantOvertemp s
  | .registerWrite x => Sys2Proof.Machine.execRegisterWrite x s
  | .hostMemoryWrite x => Sys2Proof.Machine.execHostMemoryWrite x s
  | .residentDriverRingRead x => Sys2Proof.Machine.execResidentDriverRingRead x s
  | .internalError x => Sys2Proof.Machine.execInternalError x s
  | .commitStampNextNanosecond x => Sys2Proof.Machine.execCommitStampNextNanosecond x s
  | .coolantBelowRatedInlet => Sys2Proof.Machine.execCoolantBelowRatedInlet s

end Sys2Proof.Machine
end

