-- ==== Sys2Proof/Machine/Defer.lean ====
section
/-! DEFINITION. Instructions that the core holds behind a warp's band commands while the warp goes on (07_group.md R137,
10_order_near.md R192 and R199, 12_matrix.md R233; log entry 94). -/

namespace Sys2Proof

/-- Memory instructions, which a warp issues one after another (R192). -/
def Instr.accesses (i : Instr) : Bool :=
  match i with
  | .ld _ => true
  | .st _ => true
  | .lds _ => true
  | .sts _ => true
  | .ldfe _ => true
  | .ldff _ => true
  | .stef _ => true
  | .stf _ => true
  | .fest _ => true
  | .feq _ => true
  | .atom _ => true
  | .atomr _ => true
  | .pfch _ => true
  | .cflush _ => true
  | .promote _ => true
  | .spill _ => true
  | .fill _ => true
  | .hrec _ => true
  | .vat _ => true
  | .ldred _ => true
  | .stmc _ => true
  | .obld _ => true
  | _ => false
/-- Releases that are no memory instruction and no stage instruction, and whose effect the warp itself does not meet before it has waited
for it (R209, R253). -/
def Instr.signals (i : Instr) : Bool :=
  match i with
  | .binit _ => true
  | .barv _ => true
  | .barx _ => true
  | .bdrop _ => true
  | .tkput _ => true
  | _ => false
/-- What a warp does not pass while the core holds an earlier instruction: besides these, the other releases, the bounds of a
transaction, and the end of a record's use. -/
def Instr.stands (i : Instr) : Bool :=
  i.accesses || i.signals || (match i with
    | .txb _ => true
    | .txc _ => true
    | .txa _ => true
    | .sadv _ => true
    | .sjmp _ => true
    | .sret _ => true
    | .obrel _ => true
    | _ => false)
/-- The instructions that a warp may pass. A load from a full word, a store to an empty one and a remote PROMOTE hold the warp itself
(R178, R200). -/
def Instr.passes (i : Instr) : Bool :=
  i.signals || (match i with
    | .st _ => true
    | .sts _ => true
    | .stf _ => true
    | .fest _ => true
    | .feq _ => true
    | .atom _ => true
    | .atomr _ => true
    | .promote _ => true
    | .spill _ => true
    | .stmc _ => true
    | .obld _ => true
    | _ => false)
end Sys2Proof

namespace Sys2Proof.Machine

/-- Whether the instruction `f` that warp `w` stood at, at `pc`, has performed and retired. -/
def Warp.through (w : Warp) (pc : DWord) (f : Fetched) (trapMode : Bool) : Bool :=
  w.ir.isNone && w.pc == pc + BitVec.ofNat 64 f.len && w.trapMode == trapMode &&
    (w.stat == .ready || (w.stat == .parked && w.reason == 1))

/-- What the instruction at which the executing warp stands would come to if its band commands were finished: none, if it would not
simply perform. -/
def State.trial (s : State) (f : Fetched) : Option State :=
  let u := { s with tlb := [] }.upd (fun w => { w with bandsBefore := some [], held := false, deferred := [] })
  match exec (decodeFetched s.w.pc f) u with
  | .next t => if t.w.through s.w.pc f s.w.trapMode then some t else none
  | .fault _ => none
  | .refused _ => none

/-- The executing warp passes the instruction that the core holds for it, if the warp's band commands alone hold it back: its checks
have been made, and its translations with them. -/
def State.letPast (s : State) : State :=
  match s.w.ir with
  | none => s
  | some f =>
    let i := decodeFetched s.w.pc f
    let bands := s.myCore.bandIds (slotOf s.cur)
    if !s.w.held || s.w.stepping || !i.passes || (if s.w.deferred = [] then bands = [] else i.accesses) then s
    else match s.trial f with
      | none => s
      | some t =>
        let w := s.w
        let new := (t.w.pending.filter (fun p => w.pending.all (fun q => q.id != p.id))).foldl (fun m p => m ||| p.lanes) (0 : Mask)
        let d : Deferred :=
          { id := s.nextId, pc := w.pc, ir := f, em := w.em, done := w.done, stored := w.stored, promotes := w.promotes,
            counted := w.counted, sregs := w.sregs, vregs := w.vregs, preds := w.preds, fence := w.fence,
            relFence := w.relFence, bands := bands, pins := t.tlb.map (fun e => (e.vpage, e.trans)) }
        { s.fresh1 with tlb := s.tlb ++ t.tlb.filter (fun e => !s.tlb.contains e) }.upd (fun w => Warp.finish { w with
          deferred := w.deferred ++ [d], sregs := t.w.sregs, arrivals := t.w.arrivals, pc := t.w.pc
          pending := w.pending ++ (if new = 0 then [] else [({ id := d.id, lanes := new, kind := .held } : Pending)]) } (f.w0.getLsbD 2))

/-- Warp `w` as it performs an instruction that it has passed. -/
def Warp.before (w : Warp) (d : Deferred) : Warp :=
  { w with
    pc := d.pc, ir := some d.ir, em := d.em, done := d.done, stored := d.stored, promotes := d.promotes, counted := d.counted
    sregs := d.sregs, vregs := d.vregs, preds := d.preds, fence := d.fence, relFence := d.relFence, pins := d.pins
    deferred := [], bandsBefore := some d.bands, stat := .ready, reason := 15, replay := false, held := false, watch := none
    stepping := false, waiting := 0, entries := [], snapWait := none
    pending := w.pending.filter (fun p => p.id != d.id) }

/-- What later accesses wait for after an instruction that was passed has been tried: what they waited for, and its own acquires. -/
def FenceHold.join (f g : FenceHold) : FenceHold :=
  { f with v := f.v || g.v, vLoads := f.vLoads || g.vLoads, x := f.x || g.x, xLoads := f.xLoads || g.xLoads }

/-- Warp `w` goes on where it stood, with what the trial `x` of a passed instruction has done for it. -/
def Warp.rejoin (w x : Warp) : Warp :=
  { x with
    pc := w.pc, ir := w.ir, em := w.em, done := w.done, stored := w.stored, promotes := w.promotes, counted := w.counted
    sregs := w.sregs, vregs := w.vregs, preds := w.preds, fence := w.fence.join x.fence, relFence := w.relFence, pins := []
    bandsBefore := none, stat := w.stat, reason := w.reason, replay := w.replay, held := w.held, watch := w.watch
    stepping := w.stepping, waiting := w.waiting, entries := w.entries, snapWait := w.snapWait, arrivals := w.arrivals
    since := w.since, waited := w.waited, limit := w.limit, stalls := w.stalls }

/-- Warp `w` after a trial `x` of the first instruction that it has passed: it has performed; it waits on, with the lanes that have
performed; or it stops there, as it would have at its place. -/
def Warp.afterTrial (w x : Warp) (d : Deferred) (ds : List Deferred) : Warp :=
  if x.through d.pc d.ir w.trapMode then { w.rejoin x with deferred := ds }.dropLanes w.exited
  else if x.ir.isSome ∧ x.trapMode = w.trapMode ∧ (x.held ∨ x.stat = .parked) then
    let d' := { d with done := x.done, stored := x.stored, promotes := x.promotes, counted := x.counted, fence := x.fence }
    let held := (w.pending.filter (fun p => p.id == d.id)).map (fun (p : Pending) => { p with lanes := p.lanes &&& ~~~x.done })
    { w.rejoin x with
      deferred := d' :: ds
      pending := (w.rejoin x).pending ++ held.filter (fun (p : Pending) => p.lanes != 0) }.dropLanes w.exited
  else
    { x with
      sregs := w.sregs, vregs := w.vregs, preds := w.preds, fence := w.fence.join x.fence, relFence := w.relFence, pins := []
      bandsBefore := none, stepping := w.stepping, arrivals := w.arrivals, deferred := ds }

/-- The first instruction that warp `k` has passed is tried. -/
def State.tryHeld (s : State) (k : Nat) : State :=
  let w := s.warp k
  match w.deferred with
  | [] => s
  | d :: ds =>
    match exec (decodeFetched d.pc d.ir) ({ s with cur := k }.setWarp k (w.before d)) with
    | .next t => t.setWarp k (w.afterTrial (t.warp k) d ds)
    | .fault _ => s
    | .refused _ => s

end Sys2Proof.Machine
end

