-- ==== Sys2Proof/Machine/Step.lean ====
section
/-! DEFINITION. One step of the package: the next event of the agenda, else another look at a parked warp, else one issue
opportunity of the quadrant whose turn it is (log entries 1 and 3). -/

namespace Sys2Proof.Machine

/-- Fabric time passes before a step, and the running count of free values moves on (R320). -/
def State.begin (s : State) : State := { s.advanceTime (Config.elapsed s.ticks) with ticks := s.ticks + 1 }

/-- An outcome whose next state is changed. -/
def onNext (o : Host.Outcome State Fault Refusal) (f : State → State) : Host.Outcome State Fault Refusal :=
  match o with
  | .next t => .next (f t)
  | .fault r => .fault r
  | .refused r => .refused r

/-- The executing warp performs the instruction it has fetched, in the state `st` in which it was taken. It stands at what it may not
pass while the core holds an earlier instruction, and passes what its band commands alone hold back (log entry 94). -/
def State.runFetched (s : State) (st : WStat) : Host.Outcome State Fault Refusal :=
  match s.w.ir with
  | some f =>
    if s.w.stat ≠ st then .next s
    else if s.w.deferred ≠ [] ∧ (decodeFetched s.w.pc f).stands = true then .next s.hold.letPast
    else onNext (exec (decodeFetched s.w.pc f) s) State.letPast
  | none => .next s

/-- What follows an instruction of warp `k`, fetched in `f`. -/
def State.done (s f old : State) (k : Nat) : State := ((s.endStep f old k).endBreak f k).settleAll old

/-- An event of the agenda. A package that is not up answers none but power, and no instruction stands in the agenda. -/
def State.stepEvent (s : State) (i : Instr) : Host.Outcome State Fault Refusal :=
  if s.responds i && isEvent i then onNext (exec i s) (fun t => (t.settleAll s).refill) else .next s

/-- Warp `k`, which waits, is looked at again; when it goes on, so are all others. An instruction that the core holds performs
without another opportunity (R137), the first of those that the warp has passed before the one it stands at. -/
def State.stepParked (s : State) (k : Nat) : Host.Outcome State Fault Refusal :=
  let v := s.tryHeld k
  let w := v.warp k
  let u := { v.setWarp k { w with held := false } with cur := k }
  let after := fun (f t : State) =>
    let t := t.done f s k
    let x := s.warp k
    if (t.warp k).stat = x.stat ∧ (t.warp k).held = x.held ∧ (t.warp k).deferred = x.deferred then t else t.refill
  if (w.stat ≠ .parked ∧ w.stat ≠ .retiring ∧ w.held = false) ∨ v.mayRun k = false then
    .next (if w.deferred = (s.warp k).deferred then s else (v.settleAll s).refill)
  else if u.w.reissue.isSome && w.stat != .retiring then .next (after u u.reissueNow)
  else match (if w.held then none else u.waitOver) with
    | some t => .next (after u t)
    | none =>
      let f := u.fetch
      onNext (if w.held && w.ir.isNone then .next f else f.runFetched w.stat) (after f)

/-- An issue opportunity of the quadrant whose turn it is (R136). -/
def State.stepIssue (s : State) : Host.Outcome State Fault Refusal :=
  let pick := s.choose s.turn
  let t := { s.offer s.turn pick with turn := (s.turn + 1) % 1024 }
  match pick with
  | none => .next (t.settleAll s)
  | some k =>
    let u := { t with cur := k }
    if u.w.reissue.isSome then .next (u.reissueNow.done u s k).refill
    else
      let f := u.fetch
      onNext (f.runFetched .ready) (fun v => (v.done f s k).refill)

/-- One step. -/
def step (s : State) : Host.Outcome State Fault Refusal :=
  let b := s.begin
  match b.agenda with
  | i :: is => State.stepEvent { b with agenda := is } i
  | [] => match b.recheck with
    | k :: ks => State.stepParked { b with recheck := ks } k
    | [] => b.stepIssue

/-- An instruction of the opcode table placed where the next step fetches it: the package runs it as the next instruction of
warp 0 (log entry 2). -/
def State.withFetchWord (s : State) (nbits w : Nat) : State := s.place (tableBytes nbits w)

end Sys2Proof.Machine
end

