-- ==== Sys2Proof/Safety.lean ====
section
/-! DEFINITION. What counts as a safe run, and the words in which the statements say what an instruction changes and what it
leaves as it was. -/

namespace Sys2Proof.Machine

/-- A step goes on: it neither stops with a fault nor is refused. -/
def GoesOn (s : State) : Prop := ∃ t, step s = .next t

/-- An outcome of an instruction or of a step. -/
abbrev Out := Host.Outcome State Fault Refusal

/-! ### What stays -/

/-- Nothing of the package differs but the slot of the executing warp. -/
def OnlyWarp (s t : State) : Prop :=
  { t with warps := s.warps } = s ∧ ∀ k, k ≠ s.cur → t.warp k = s.warp k

/-- A warp without its general registers, its stochastic states and FP_FLAGS, and its place in its program. -/
def Warp.rest (w : Warp) : Warp :=
  { w with sregs := [], vregs := [], preds := [], fpFlags := 0, sr := [], pc := 0, stat := .ready, reason := 0, done := 0,
           waiting := 0, replay := false, ir := none, held := false, stored := [], promotes := [], entries := [],
           counted := [], snapWait := none }

/-- The executing warp stands at `pc`, its instruction performed: it is Ready, or with SW parked until its long results have
returned (R139). -/
def Warp.At (w : Warp) (pc : DWord) (sw : Bool) : Prop :=
  w.pc = pc ∧ w.done = 0 ∧ w.waiting = 0 ∧ w.replay = false ∧ w.ir = none ∧ w.held = false ∧
  (w.stat, w.reason) = (if sw = true ∧ w.pending ≠ [] then (WStat.parked, 1) else (WStat.ready, 0))

/-- The instruction, `len` bytes long, has performed; outside registers and flags nothing else changed. -/
def Retired (s t : State) (len : Nat) (sw : Bool) : Prop :=
  OnlyWarp s t ∧ t.w.rest = s.w.rest ∧ t.w.At (s.w.pc + BitVec.ofNat 64 len) sw

/-- Vector, scalar and predicate registers as before. -/
def KeepsV (s t : State) : Prop := ∀ r i, t.w.v r i = s.w.v r i
/-- See `KeepsV`. -/
def KeepsS (s t : State) : Prop := ∀ r, t.w.s r = s.w.s r
/-- See `KeepsV`. -/
def KeepsP (s t : State) : Prop := ∀ r, t.w.p r = s.w.p r
/-- FP_FLAGS and the stochastic states as before. -/
def KeepsF (s t : State) : Prop := t.w.fpFlags = s.w.fpFlags ∧ ∀ i, t.w.srState i = s.w.srState i

/-- Of the vector registers only `d` to `d + n - 1` may differ, in the lanes of `m` (R97). -/
def OnlyV (s t : State) (m : Mask) (d n : Nat) : Prop :=
  ∀ r i, i < 32 → ¬(m.getLsbD i = true ∧ d ≤ r ∧ r < d + n) → t.w.v r i = s.w.v r i

/-! ### The forms of a result -/

/-- A next state in which each participating lane's register `d` holds a value that `R` allows (R97). -/
def LaneResult (o : Out) (s : State) (h : Hdr) (d : RegNo) (len : Nat) (R : Nat → Word → Prop) : Prop :=
  ∃ t, o = .next t ∧ Retired s t len h.sw ∧ KeepsS s t ∧ KeepsP s t ∧ KeepsF s t ∧ OnlyV s t (s.w.parts h) d.toNat 1 ∧
    ∀ i, i < 32 → (s.w.parts h).getLsbD i = true → R i (t.w.v d.toNat i)

/-- The same for a register pair. -/
def PairResult (o : Out) (s : State) (h : Hdr) (d : RegNo) (len : Nat) (R : Nat → DWord → Prop) : Prop :=
  ∃ t, o = .next t ∧ Retired s t len h.sw ∧ KeepsS s t ∧ KeepsP s t ∧ KeepsF s t ∧ OnlyV s t (s.w.parts h) d.toNat 2 ∧
    ∀ i, i < 32 → (s.w.parts h).getLsbD i = true → R i (t.w.v64 d.toNat i)

/-- A scalar destination: written once if some lane participates (R98). -/
def ScalarResult (o : Out) (s : State) (h : Hdr) (d : RegNo) (len : Nat) (R : DWord → Prop) : Prop :=
  ∃ t, o = .next t ∧ Retired s t len h.sw ∧ KeepsV s t ∧ KeepsP s t ∧ KeepsF s t ∧
    (∀ r, r ≠ d.toNat → t.w.s r = s.w.s r) ∧
    if s.w.parts h = 0 then t.w.s d.toNat = s.w.s d.toNat else R (t.w.s d.toNat)

/-- A predicate destination, written in the participating lanes; p7 stays true in every lane (R61). -/
def PredResult (o : Out) (s : State) (h : Hdr) (d : RegNo) (len : Nat) (R : Nat → Bool) : Prop :=
  ∃ t, o = .next t ∧ Retired s t len h.sw ∧ KeepsV s t ∧ KeepsS s t ∧ KeepsF s t ∧
    (∀ r, r ≠ d.toNat → t.w.p r = s.w.p r) ∧
    ∀ i, i < 32 → (t.w.p d.toNat).getLsbD i =
      if d.toNat = 7 then true else if (s.w.parts h).getLsbD i = true then R i else (s.w.p d.toNat).getLsbD i

/-- An integer destination: a scalar register holds the result extended by TYPE, a vector register 32 bits of it (R98). -/
def IntResult (o : Out) (s : State) (h : Hdr) (sc : Bool) (ty : ITy) (d : RegNo) (len : Nat) (R : Nat → Nat → Prop) : Prop :=
  (sc = true → ScalarResult o s h d len (fun x => ∃ r, R 0 r ∧ x = ty.toScalar r)) ∧
  (sc = false → LaneResult o s h d len (fun i x => ∃ r, R i r ∧ x = BitVec.ofNat 32 r))

/-- An integer instruction of one source (R104). -/
def OnInt2 (mk : Int2 → Instr) (R : ITy → Bool → Nat → Nat → Prop) : Prop :=
  ∀ s o, IntResult (exec (mk o) s) s o.h o.s o.ty o.d 8 (fun n r => R o.ty o.sat (s.w.intA o.s o.ty o.xl o.a n) r)
/-- Two sources; `R` relates a, b and the result. -/
def OnInt3 (mk : Int3 → Instr) (R : ITy → Bool → Nat → Nat → Nat → Prop) : Prop :=
  ∀ s o, IntResult (exec (mk o) s) s o.h o.s o.ty o.d 8
    (fun n r => R o.ty o.sat (s.w.intA o.s o.ty o.xl o.a n) (s.w.intB o.s o.ty o.b n) r)
/-- Two sources, the second IMM32 extended by R55. -/
def OnInt3I (mk : Int3I → Instr) (R : ITy → Bool → Nat → Nat → Nat → Prop) : Prop :=
  ∀ s o, IntResult (exec (mk o) s) s o.h o.s o.ty o.d 12
    (fun n r => R o.ty o.sat (s.w.intA o.s o.ty o.xl o.a n) (o.ty.imm o.imm) r)
/-- Three sources; `R` relates a, b, c and the result. -/
def OnInt4 (mk : Int4 → Instr) (R : ITy → Bool → Nat → Nat → Nat → Nat → Prop) : Prop :=
  ∀ s o, IntResult (exec (mk o) s) s o.h o.s o.ty o.d 8
    (fun n r => R o.ty o.sat (s.w.intA o.s o.ty o.xl o.a n) (s.w.intB o.s o.ty o.b n) (s.w.intB o.s o.ty o.c n) r)
/-- Three sources, the second IMM32 extended by R55. -/
def OnInt4I (mk : Int4I → Instr) (R : ITy → Bool → Nat → Nat → Nat → Nat → Prop) : Prop :=
  ∀ s o, IntResult (exec (mk o) s) s o.h o.s o.ty o.d 12
    (fun n r => R o.ty o.sat (s.w.intA o.s o.ty o.xl o.a n) (o.ty.imm o.imm) (s.w.intB o.s o.ty o.c n) r)

/-! ### Floating-point forms -/

/-- What a flag-raising instruction would write and raise: destination, registers per lane, draws, and each lane's result. -/
structure FloatForm where
  h : Hdr
  d : RegNo
  len : Nat
  regs : Nat
  rs : Bool
  draws : Nat
  res : Nat → FRes

/-- The flags that some participating lane raises (R102). -/
def FloatForm.Raises (p : FloatForm) (s : State) (k : Nat) : Prop :=
  ∃ i, i < 32 ∧ (s.w.parts p.h).getLsbD i = true ∧ (p.res i).fl.getLsbD k = true

/-- The flag-raising instructions (R103), with the exact value of each rounded once (R111, R118 to R120, R122 to R124). -/
def floatForm (i : Instr) (s : State) : Option FloatForm :=
  let w := s.w
  let a32 := fun (x : XL) (a : RegNo) (n : Nat) => (w.aLane x a.toNat n).toNat
  let a64 := fun (x : XL) (a : RegNo) (n : Nat) => (w.aLane64 x a.toNat n).toNat
  let b32 := fun (b : RegNo) (n : Nat) => (w.v b.toNat n).toNat
  let b64 := fun (b : RegNo) (n : Nat) => (w.v64 b.toNat n).toNat
  let two := fun (op : FOp) (o : Fp3) => some (FloatForm.mk o.h o.d 8 1 (o.rnd == .rs) 1 (fun n =>
    arith op o.ty o.ftz o.sat o.rnd (w.srDraw n 1) (a32 o.xl o.a n) (b32 o.b n) 0))
  let twoI := fun (op : FOp) (o : Fp3I) => some (FloatForm.mk o.h o.d 12 1 (o.rnd == .rs) 1 (fun n =>
    arith op o.ty o.ftz o.sat o.rnd (w.srDraw n 1) (a32 o.xl o.a n) o.imm.toNat 0))
  let wide := fun (op : FOp) (o : Fp3) => some (FloatForm.mk o.h o.d 8 2 (o.rnd == .rs) 1 (fun n =>
    arith op o.ty o.ftz o.sat o.rnd (w.srDraw n 1) (a64 o.xl o.a n) (b64 o.b n) 0))
  let half := fun (op : FOp) (o : Fp3) => some (FloatForm.mk o.h o.d 8 1 (o.rnd == .rs) 2 (fun n =>
    arith2 op o.ty o.ftz o.sat o.rnd (w.srDraw n 1) (w.srDraw n 2) (a32 o.xl o.a n) (b32 o.b n) 0))
  let halfI := fun (op : FOp) (o : Fp3I) => some (FloatForm.mk o.h o.d 12 1 (o.rnd == .rs) 2 (fun n =>
    arith2 op o.ty o.ftz o.sat o.rnd (w.srDraw n 1) (w.srDraw n 2) (a32 o.xl o.a n) o.imm.toNat 0))
  let una := fun (fn : Config.Trans) (o : Fp2) => some (FloatForm.mk o.h o.d 8 1 false 1 (fun n =>
    transRes fn o.ty o.ftz o.sat (w.aLane o.xl o.a.toNat n)))
  match i with
  | .fadd o => two opAdd o
  | .fsub o => two opSub o
  | .fmul o => two opMul o
  | .faddImm o => twoI opAdd o
  | .fsubImm o => twoI opSub o
  | .fmulImm o => twoI opMul o
  | .ffma o => some ⟨o.h, o.d, 8, 1, o.rnd == .rs, 1, fun n =>
      arith opFma o.ty o.ftz o.sat o.rnd (w.srDraw n 1) (a32 o.xl o.a n) (b32 o.b n) (b32 o.c n)⟩
  | .ffmaImm o => some ⟨o.h, o.d, 12, 1, o.rnd == .rs, 1, fun n =>
      arith opFma o.ty o.ftz o.sat o.rnd (w.srDraw n 1) (a32 o.xl o.a n) o.imm.toNat (b32 o.c n)⟩
  | .dadd o => wide opAdd o
  | .dmul o => wide opMul o
  | .dfma o => some ⟨o.h, o.d, 8, 2, o.rnd == .rs, 1, fun n =>
      arith opFma o.ty o.ftz o.sat o.rnd (w.srDraw n 1) (a64 o.xl o.a n) (b64 o.b n) (b64 o.c n)⟩
  | .hadd2 o => half opAdd o
  | .hmul2 o => half opMul o
  | .hadd2Imm o => halfI opAdd o
  | .hmul2Imm o => halfI opMul o
  | .hfma2 o => some ⟨o.h, o.d, 8, 1, o.rnd == .rs, 2, fun n =>
      arith2 opFma o.ty o.ftz o.sat o.rnd (w.srDraw n 1) (w.srDraw n 2) (a32 o.xl o.a n) (b32 o.b n) (b32 o.c n)⟩
  | .hfma2Imm o => some ⟨o.h, o.d, 12, 1, o.rnd == .rs, 2, fun n =>
      arith2 opFma o.ty o.ftz o.sat o.rnd (w.srDraw n 1) (w.srDraw n 2) (a32 o.xl o.a n) o.imm.toNat (b32 o.c n)⟩
  | .frcp o => una .rcp o
  | .frsq o => una .rsq o
  | .fexp2 o => una .exp2 o
  | .flog2 o => una .log2 o
  | .fsin o => una .sin o
  | .fcos o => una .cos o
  | .ftanh o => una .tanh o
  | .fsqrt o => some ⟨o.h, o.d, 8, 1, false, 1, fun n => sqrtRes o.ty o.ftz o.sat o.rnd (a32 o.xl o.a n)⟩
  | .fcvt o =>
    let src := if o.bit = true then fmtOf o.ty else f32
    let dst := if o.bit = true then f32 else fmtOf o.ty
    some ⟨o.h, o.d, 8, if o.bit = false ∧ o.ty = .f64 then 2 else 1, o.rnd == .rs, 1, fun n =>
      dst.round (src.decode false (if o.bit = true ∧ o.ty = .f64 then a64 o.xl o.a n else a32 o.xl o.a n))
        (.rnd o.rnd (w.srDraw n 1)) (o.sat && decide (dst.m ≤ src.m))⟩
  | .ftoi o => some ⟨o.h, o.d, 8, 1, o.rnd == .rs, 1, fun n =>
      ftoiRes (fmtOf o.ty) o.bit o.rnd (w.srDraw n 1) (if o.ty = .f64 then a64 o.xl o.a n else a32 o.xl o.a n)⟩
  | .itof o => some ⟨o.h, o.d, 8, if o.ty = .f64 then 2 else 1, o.rnd == .rs, 1, fun n =>
      itofRes (fmtOf o.ty) o.bit o.sat o.rnd (w.srDraw n 1) (w.aLane o.xl o.a.toNat n)⟩
  | .qpack o => (narrowFmt (Tab.get 0 w.fmt o.c.toNat)).bind (fun f =>
      if o.j.toNat < 32 / f.container then
        some ⟨o.h, o.d, 8, 1, o.rnd == .rs, 1, fun n =>
          let r := f.round (packVal (w.aLane o.xl o.a.toNat n) (w.v o.b.toNat n)) (.rnd o.rnd (w.srDraw n 1)) o.sat
          ⟨putElem f.container o.j.toNat (w.v o.d.toNat n).toNat r.val, r.fl⟩⟩
      else none)
  | .qunpack o => (narrowFmt (Tab.get 0 w.fmt o.c.toNat)).bind (fun f =>
      if o.j.toNat < 32 / f.container then
        some ⟨o.h, o.d, 8, 1, false, 1, fun n =>
          f32.round (f.decode false (elemOf f.container o.j.toNat (a32 o.xl o.a n))) (.rnd .rne 0) false⟩
      else none)
  | .bscale o => some ⟨o.h, o.d, 8, 1, o.rnd == .rs, 1, fun n =>
      bscaleRes o.div o.ftz o.sat o.rnd (w.srDraw n 1) (w.aLane o.xl o.a.toNat n) (w.v o.b.toNat n)⟩
  | _ => none

/-- The value of a finite number. -/
def Num.rat : Num → Option ℚ
  | .nan => none
  | .inf _ => none
  | .fin neg n d e => some ((if neg then -1 else 1) * ((n : ℚ) / d) * (2 : ℚ) ^ e)

/-- The order of non-NaN codes of a standard type, with -0 below +0 (R112). -/
def keyOf (ty : FTy) (c : Nat) : Int :=
  let f := fmtOf ty
  let mag := c % 2 ^ (f.e + f.m)
  if c.testBit (f.e + f.m) then -(mag : Int) - 1 else mag

/-! ### Results outside the general registers -/

/-- A warp without its place in its program, and without what it keeps for the instruction at which it stands. -/
def Warp.body (w : Warp) : Warp :=
  { w with pc := 0, stat := .ready, reason := 0, done := 0, waiting := 0, replay := false, ir := none, held := false,
           stored := [], promotes := [], entries := [], counted := [], snapWait := none }

/-- A next state in which only the executing warp differs: it is `g` and stands at `pc`, its instruction performed. -/
def WarpStep (o : Out) (s : State) (g : Warp) (pc : DWord) (sw : Bool) : Prop :=
  ∃ t, o = .next t ∧ OnlyWarp s t ∧ t.w.body = g.body ∧ t.w.At pc sw

/-- The precise trap of a cause with the fault lanes, its operand left to the rule or to a free value (R378, R379). -/
def TrapsWith (o : Out) (s : State) (cause : Cause) (flm : Mask) : Prop :=
  ∃ a, o = .next (s.enter cause flm 0 a)

/-! ### Memory accesses -/

/-- Nothing holds the executing warp's next access back: no FENCE with earlier accesses still open behind it, and no remote
access that a release awaits (R193, R199, R368). -/
def State.Unheld (s : State) : Prop := s.fenceHolds 0 = false ∧ s.fenceHolds 3 = false ∧ s.releaseHolds none = false

/-- The executing warp holds no watch hit, and no watch register names its context (R390). -/
def State.Unwatched (s : State) : Prop :=
  s.w.watch = none ∧ ∀ e ∈ s.watches, e.2.extractLsb' 96 12 ≠ s.w.ctx

/-- The translation and the address of byte `k` of lane `i`'s access of `n` bytes at `ea`: each page part translated on its
own (R174). -/
def State.byteOfAccess (s : State) (want : Want) (i : Nat) (ea : DWord) (n k : Nat) : Option (Trans × Nat) :=
  match (partsOf ea n).find? (fun p => decide (p.off ≤ k) && decide (k < p.off + p.n)) with
  | none => none
  | some p => match s.translate s.w.ctx s.myDie want (i * 2 + if p.off = 0 then 0 else 1) p.va with
    | .ok t => some (t, t.addr p.va + (k - p.off))
    | .error _ => none

/-- Every byte of the access translates to an unversioned page of this package, page-aligned as every leaf and every range
entry makes it (R158, R162). -/
def State.Here (s : State) (want : Want) (i : Nat) (ea : DWord) (n : Nat) : Prop :=
  ea.toNat + n ≤ 2 ^ 48 ∧ ∀ k, k < n → ∃ t a, s.byteOfAccess want i ea n k = some (t, a) ∧ t.peer = s.peer ∧ t.vers = false ∧
    t.page % 4096 = 0

/-- Byte `k` of the access stands at `a`. -/
def State.Stands (s : State) (want : Want) (i : Nat) (ea : DWord) (n k a : Nat) : Prop :=
  ∃ t, s.byteOfAccess want i ea n k = some (t, a)

/-- From `x` to `y` by the lanes of `m`, one after the other in ascending order (R175, R178, R183). -/
def LaneOrder {α : Type} (m : Mask) (R : Nat → α → α → Prop) (x y : α) : Prop :=
  ∃ f : Nat → α, f 0 = x ∧ f 32 = y ∧ ∀ i, i < 32 → if m.getLsbD i = true then R i (f i) (f (i + 1)) else f (i + 1) = f i

/-- A next state in which the executing warp stands `len` bytes on and differs in its outstanding results, its FENCE and its
outstanding acquires alone; every other warp is as it was. -/
def AccessStep (o : Out) (s t : State) (len : Nat) (sw : Bool) : Prop :=
  o = .next t ∧ (∀ k, k ≠ s.cur → t.warp k = s.warp k) ∧
  { t.w with pending := s.w.pending, fence := s.w.fence, acqV := s.w.acqV, acqX := s.w.acqX }.body = s.w.body ∧ t.w.At (s.w.pc + BitVec.ofNat 64 len) sw

/-- The one long result of `lanes` that `t` has outstanding beyond those of `s`: register writes by reg*32 + lane (R57). -/
def LongResult (s t : State) (lanes : Mask) (R : List (Nat × Word) → Prop) : Prop :=
  ∃ id ws, t.w.pending = s.w.pending ++ (if lanes = 0 then [] else [⟨id, lanes, .value ws []⟩]) ∧ R ws

/-- `ws` writes, in every lane of `m` and in no other, the registers from `d` on with loaded bytes, `B i k` telling byte `k` of
lane `i`; fewer than four bytes are extended (R173). -/
def Delivers (ws : List (Nat × Word)) (m : Mask) (d : RegNo) (sz : Size) (sx : Bool) (B : Nat → Nat → Byte → Prop) : Prop :=
  let words := (sz.bytes + 3) / 4
  (ws.map (·.1)).Nodup ∧
  (∀ e ∈ ws, ∃ i j, i < 32 ∧ m.getLsbD i = true ∧ j < words ∧ e.1 = (d.toNat + j) * 32 + i) ∧
  ∀ i, i < 32 → m.getLsbD i = true → ∀ j, j < words → ∃ x, ((d.toNat + j) * 32 + i, x) ∈ ws ∧
    (∀ k, k < 4 → 4 * j + k < sz.bytes → B i (4 * j + k) (byteOf x k)) ∧
    ∀ b, 8 * sz.bytes ≤ b → b < 32 → x.getLsbD b = (sx && x.getLsbD (8 * sz.bytes - 1))

/-- The new value of an atomic operation on `w` bits (R181). -/
def AtomNew (op : AOp) (w old a b new : Nat) : Prop :=
  let int := fun (x : Nat) => (BitVec.ofNat w x).toInt
  match op with
  | .add => new = (old + a) % 2 ^ w
  | .minS => (new = old ∨ new = a) ∧ int new ≤ int old ∧ int new ≤ int a
  | .maxS => (new = old ∨ new = a) ∧ int old ≤ int new ∧ int a ≤ int new
  | .minB => (new = old ∨ new = a) ∧ new ≤ old ∧ new ≤ a
  | .maxB => (new = old ∨ new = a) ∧ old ≤ new ∧ a ≤ new
  | .and => ∀ k, new.testBit k = (old.testBit k && a.testBit k)
  | .or => ∀ k, new.testBit k = (old.testBit k || a.testBit k)
  | .xor => ∀ k, new.testBit k = (old.testBit k ^^ a.testBit k)
  | .exch => new = a
  | .cas => (old = a → new = b) ∧ (old ≠ a → new = old)
  | .fadd => new = (addF32 (BitVec.ofNat 32 old) (BitVec.ofNat 32 a)).toNat

/-- Byte `a` of the scratchpad of core `c`, and the full/empty bit of word `n` (R170, R177). -/
def State.spByte (s : State) (c a : Nat) : Byte := Tab.get 0 (s.core c).scratch a
/-- See `State.spByte`. -/
def State.spFull (s : State) (c n : Nat) : Bool := Tab.get false (s.core c).full n

/-- A next state in which the executing warp is `g` and stands `len` bytes on, and of the cores its own alone may differ, as `P`
says. -/
def CoreStep (o : Out) (s : State) (g : Warp) (len : Nat) (sw : Bool) (P : Core → Prop) : Prop :=
  ∃ t, o = .next t ∧ (∀ k, k ≠ s.cur → t.warp k = s.warp k) ∧ t.w.body = g.body ∧ t.w.At (s.w.pc + BitVec.ofNat 64 len) sw ∧
    t.mem = s.mem ∧ (∀ c, c ≠ coreOf s.cur → t.core c = s.core c) ∧ P (t.core (coreOf s.cur))

/-- A command joins the tail of port `p` of the executing warp's core under a fresh number, and the warp, which is `g` of that
number, goes on `len` bytes further: parked by R229 at its fifth unfinished band command until the oldest ends, by R244 while the
port is full until a command leaves it, else as its marker says. With no room it waits at its instruction (R242, R244). At its head the
command waits for the warp's unfinished commands of its path that stand before a FENCE, and a band command for the OBLDs and acquires that
the core holds and for an acquire that is outstanding (R193, R199, R232, R233). -/
def Queued (o : Out) (s : State) (len p : Nat) (sw : Bool) (g : Nat → Warp) (c : Nat → Cmd) : Prop :=
  let k := coreOf s.cur
  let full := fun (x : Port) => (if p < 4 then 16 else 32) ≤ x.exec.toList.length + x.queue.length
  let x := s.port k p
  let behind := if p < 4 then
      { c s.nextId with
        after := s.myBandIds.filter (fun i => s.w.fence.bands.contains i) ++
          (s.w.deferred.filter (fun d => d.isObld || d.acquires)).map (·.id)
        afterAcq := s.w.acqAway || s.w.deferred.any (fun d => d.acquires) }
    else { c s.nextId with after := s.copiesNow.filter (fun i => s.w.fence.copies.contains i) }
  let y := { x with queue := x.queue ++ [behind] }
  let mine := fun (t : State) => (List.range 4).flatMap (fun q => ((t.port k q).exec.toList ++ (t.port k q).queue).filter
    (fun e => e.slot == slotOf s.cur && !e.gone))
  (full x → ∃ t, o = .next t ∧ OnlyWarp s t ∧ t.w.body = { s.w with since := t.w.since, waited := t.w.waited, limit := t.w.limit, stalls := t.w.stalls }.body ∧
    t.w.stat = .parked ∧ t.w.reason = 3 ∧ t.w.pc = s.w.pc) ∧
  (¬full x → ∃ t, o = .next t ∧ (∀ n, n ≠ s.cur → t.warp n = s.warp n) ∧ t.mem = s.mem ∧ (∀ n, n ≠ k → t.core n = s.core n) ∧
    t.core k = (s.core k).setPort p y ∧
    t.w.body = { g s.nextId with
      marked := t.w.marked, waitBand := t.w.waitBand, waitPort := t.w.waitPort, waitIds := t.w.waitIds,
      since := t.w.since, waited := t.w.waited, limit := t.w.limit, stalls := t.w.stalls }.body ∧
    t.w.pc = s.w.pc + BitVec.ofNat 64 len ∧ t.w.done = 0 ∧ t.w.ir = none ∧
    (t.w.stat, t.w.reason) =
      (if p < 4 ∧ 5 ≤ (mine t).length then (WStat.parked, 2)
      else if full y then (WStat.parked, 3)
      else if sw = true ∧ (g s.nextId).pending ≠ [] then (WStat.parked, 1) else (WStat.ready, 0)) ∧
    (t.w.reason = 2 → ∃ e ∈ mine t, t.w.waitBand = some e.id ∧ ∀ f ∈ mine t, e.id ≤ f.id) ∧
    (t.w.reason = 2 ∨ t.w.reason = 3 → full y → t.w.waitPort = some p ∧ t.w.waitIds = (t.port k p).all.map (·.id)))

/-! ### Control flow -/

/-- A branch or call (R147): the address of the following instruction, the destination of a participating lane, the join, and
the pair that takes the return address. -/
structure BranchForm where
  h : Hdr
  next : DWord
  target : Nat → DWord
  join : DWord
  pushJoin : Bool
  link : Option RegNo
  /-- A BRA whose displacement is 0 or negative (R144). -/
  back : Bool

/-- The branches and calls of R147. -/
def branchForm (i : Instr) (s : State) : Option BranchForm :=
  match i with
  | .bra o => some ⟨o.h, s.following 16, fun _ => s.w.pc + o.target.signExtend 64 * 4, s.w.pc + o.join.signExtend 64 * 4, true, none,
      decide (o.target.toInt ≤ 0)⟩
  | .brx o => some ⟨o.h, s.following 12, fun n => s.w.v64 o.a.toNat n, s.w.pc + o.imm.signExtend 64 * 4, true, none, false⟩
  | .call o => some ⟨o.h, s.following 12, fun _ => s.w.pc + o.imm.signExtend 64 * 4, s.following 12, true, some o.d, false⟩
  | .callx o => some ⟨o.h, s.following 12, fun n => s.w.v64 o.a.toNat n, s.w.pc + o.imm.signExtend 64 * 4, true, some o.d, false⟩
  | .ret o => some ⟨o.h, s.following 8, fun n => s.w.v64 o.a.toNat n, 0, false, none, false⟩
  | _ => none

/-- dest[i] of R147. -/
def BranchForm.dest (b : BranchForm) (s : State) (i : Nat) : DWord :=
  if (s.w.parts b.h).getLsbD i = true then b.target i else b.next

/-- The warp with the return address in its participating lanes. -/
def BranchForm.linked (b : BranchForm) (s : State) : Warp :=
  match b.link with
  | some d => s.w.setLanes64 (s.w.parts b.h) d.toNat (fun _ => b.next)
  | none => s.w

/-- The lanes of the path that go to `a`. -/
def BranchForm.lanes (b : BranchForm) (s : State) (a : DWord) : Mask :=
  maskOf (fun i => s.w.em.getLsbD i && b.dest s i == a)

/-! ### Taking an exception and stopping -/

/-- Fields of the map that an event of the executing warp writes (R379), but for FT, which `fabric` gives. -/
def MapOf (m : TrapMap) (s : State) (cause : Cause) (flm done : Mask) (addr : DWord) : Prop :=
  m.valid = true ∧ m.cause = cause ∧ m.pc = s.w.pc ∧ m.em = s.w.em ∧ m.flm = flm ∧ m.done = done ∧ m.exited = s.w.exited ∧
  m.addr = addr ∧ m.cj = s.w.cj ∧ m.spin = s.w.spin ∧ m.tb = BitVec.ofNat 9 s.w.depth ∧ m.ft = s.ft &&& ~~~(0x3F : DWord) ∧
  (∀ f, s.w.ir = some f → m.len.toNat = f.len % 256 ∧ m.instLo = f.w0 ∧ m.instHi = f.ext) ∧
  (s.w.ir = none → m.len = 0 ∧ m.instLo = 0 ∧ m.instHi = 0)

/-- The record `r`, under a number of its own, is the one fault record that `t` has beyond those of `s` (R166). -/
def Reports (s t : State) (kind : Nat) (cause : Cause) (va : DWord) (lanes : Mask) : Prop :=
  ∃ r : FaultRec, t.faultQ ++ t.faultHeld = s.faultQ ++ s.faultHeld ++ [r] ∧ r.kind = kind ∧ r.cause = cause ∧ r.va = va ∧
    r.lanes = lanes ∧ r.acc = 0 ∧ r.ctx = s.w.ctx ∧ r.gen = (s.ctx s.w.ctx).gen ∧ r.core = coreOf s.cur ∧ r.slot = slotOf s.cur

/-- The context of the executing warp is Stopped: every other warp of it that was Ready or Parked is halted, a Parked one
keeping its reason, and every other warp is as it was (R344). -/
def StopsContext (s t : State) : Prop :=
  (t.ctx s.w.ctx).state = .stopped ∧ (∀ c, c ≠ s.w.ctx → t.ctx c = s.ctx c) ∧
  (∀ k, k ≠ s.cur → ((s.warp k).ctx ≠ s.w.ctx → t.warp k = s.warp k) ∧
    ((s.warp k).ctx = s.w.ctx → t.warp k = (s.warp k).stop s.ft)) ∧
  (∀ k, ((s.warp k).stat = .ready → ((s.warp k).stop s.ft).stat = .halted) ∧
    ((s.warp k).stat = .parked → ((s.warp k).stop s.ft).stat = .halted ∧ ((s.warp k).stop s.ft).reason = (s.warp k).reason) ∧
    ((s.warp k).stat ≠ .ready → (s.warp k).stat ≠ .parked → (s.warp k).stop s.ft = s.warp k)) ∧
  (∀ a, a ≠ s.descAddr s.w.ctx + 26 → t.byte a = s.byte a)

end Sys2Proof.Machine
end

