-- ==== Sys2Proof/Certificates/Slice0/Obligations.lean ====
section
/-! DEFINITION. The statements about the machine, for the provers. -/

open Sys2Proof Sys2Proof.Machine

/-- The integer table of R104, and BFE and BFI (R105) bit by bit: for every state and operands the instruction completes with the result of its row. -/
def Obligations.IntegerInstructionsComputeTheirTable : Prop :=
  let bfe := fun (ty : ITy) (_ : Bool) (a ctl r : Nat) =>
    let p := ctl % 256
    let n := min (ctl / 256 % 256) (ty.width - p)
    if ty.width ≤ p ∨ n = 0 then r = 0
    else ∀ k, k < ty.width → r.testBit k = if k < n then a.testBit (p + k) else (ty.sgn && a.testBit (p + n - 1))
  let bfi := fun (ty : ITy) (_ : Bool) (a b ctl r : Nat) =>
    let p := ctl % 256
    let n := min (ctl / 256 % 256) (ty.width - p)
    if ty.width ≤ p ∨ n = 0 then r = a
    else ∀ k, k < ty.width → r.testBit k = if p ≤ k ∧ k < p + n then b.testBit (k - p) else a.testBit k
  (OnInt3 .iadd (fun ty sat a b r => r = ty.wr sat (ty.rd a + ty.rd b)) ∧
   OnInt3I .iaddImm (fun ty sat a b r => r = ty.wr sat (ty.rd a + ty.rd b)) ∧
   OnInt3 .isub (fun ty sat a b r => r = ty.wr sat (ty.rd a - ty.rd b)) ∧
   OnInt3I .isubImm (fun ty sat a b r => r = ty.wr sat (ty.rd a - ty.rd b)) ∧
   OnInt3 .imul (fun ty sat a b r => r = ty.wr sat (ty.rd a * ty.rd b)) ∧
   OnInt3I .imulImm (fun ty sat a b r => r = ty.wr sat (ty.rd a * ty.rd b)) ∧
   OnInt3 .imulhi (fun ty sat a b r => r = ty.wr sat (ty.rd a * ty.rd b / 2 ^ ty.width)) ∧
   OnInt3I .imulhiImm (fun ty sat a b r => r = ty.wr sat (ty.rd a * ty.rd b / 2 ^ ty.width)) ∧
   OnInt4 .imad (fun ty sat a b c r => r = ty.wr sat (ty.rd a * ty.rd b + ty.rd c)) ∧
   OnInt4I .imadImm (fun ty sat a b c r => r = ty.wr sat (ty.rd a * ty.rd b + ty.rd c)) ∧
   OnInt3 .imin (fun ty sat a b r => r = ty.wr sat (min (ty.rd a) (ty.rd b))) ∧
   OnInt3I .iminImm (fun ty sat a b r => r = ty.wr sat (min (ty.rd a) (ty.rd b))) ∧
   OnInt3 .imax (fun ty sat a b r => r = ty.wr sat (max (ty.rd a) (ty.rd b))) ∧
   OnInt3I .imaxImm (fun ty sat a b r => r = ty.wr sat (max (ty.rd a) (ty.rd b))) ∧
   OnInt2 .iabs (fun ty sat a r => r = ty.wr sat |ty.rd a|) ∧
   OnInt2 .ineg (fun ty sat a r => r = ty.wr sat (-ty.rd a))) ∧
  (OnInt3 .and (fun _ _ a b r => ∀ k, r.testBit k = (a.testBit k && b.testBit k)) ∧
   OnInt3I .andImm (fun _ _ a b r => ∀ k, r.testBit k = (a.testBit k && b.testBit k)) ∧
   OnInt3 .or (fun _ _ a b r => ∀ k, r.testBit k = (a.testBit k || b.testBit k)) ∧
   OnInt3I .orImm (fun _ _ a b r => ∀ k, r.testBit k = (a.testBit k || b.testBit k)) ∧
   OnInt3 .xor (fun _ _ a b r => ∀ k, r.testBit k = (a.testBit k != b.testBit k)) ∧
   OnInt3I .xorImm (fun _ _ a b r => ∀ k, r.testBit k = (a.testBit k != b.testBit k)) ∧
   OnInt3 .andn (fun ty _ a b r => ∀ k, k < ty.width → r.testBit k = (a.testBit k && !b.testBit k)) ∧
   OnInt3I .andnImm (fun ty _ a b r => ∀ k, k < ty.width → r.testBit k = (a.testBit k && !b.testBit k)) ∧
   OnInt2 .not (fun ty _ a r => ∀ k, k < ty.width → r.testBit k = !a.testBit k) ∧
   OnInt3 .shl (fun ty _ a b r => r = if ty.width ≤ b then 0 else a * 2 ^ b % 2 ^ ty.width) ∧
   OnInt3I .shlImm (fun ty _ a b r => r = if ty.width ≤ b then 0 else a * 2 ^ b % 2 ^ ty.width) ∧
   OnInt3 .shr (fun ty _ a b r => r = if ty.width ≤ b then 0 else a / 2 ^ b) ∧
   OnInt3I .shrImm (fun ty _ a b r => r = if ty.width ≤ b then 0 else a / 2 ^ b) ∧
   OnInt3 .sar (fun ty _ a b r =>
     r = ty.wr false (if ty.width ≤ b then (if ty.rd a < 0 then -1 else 0) else ty.rd a / 2 ^ b)) ∧
   OnInt3I .sarImm (fun ty _ a b r =>
     r = ty.wr false (if ty.width ≤ b then (if ty.rd a < 0 then -1 else 0) else ty.rd a / 2 ^ b)) ∧
   OnInt3 .rot (fun ty _ a b r =>
     ∀ k, k < ty.width → r.testBit k = a.testBit ((k + (ty.width - b % ty.width)) % ty.width)) ∧
   OnInt3I .rotImm (fun ty _ a b r =>
     ∀ k, k < ty.width → r.testBit k = a.testBit ((k + (ty.width - b % ty.width)) % ty.width)) ∧
   OnInt2 .popc (fun ty _ a r => r = ((Finset.range ty.width).filter (fun k => a.testBit k = true)).card) ∧
   OnInt2 .clz (fun ty _ a r => r ≤ ty.width ∧ (∀ k, ty.width - r ≤ k → k < ty.width → a.testBit k = false) ∧
     (r < ty.width → a.testBit (ty.width - 1 - r) = true)) ∧
   OnInt2 .brev (fun ty _ a r => ∀ k, k < ty.width → r.testBit (ty.width - 1 - k) = a.testBit k)) ∧
  (OnInt3 .bfe bfe ∧ OnInt3I .bfeImm bfe ∧ OnInt4 .bfi bfi ∧ OnInt4I .bfiImm bfi)

/-- ICMP and SEL (R106), LEA (R107), IADD64 and IMAD64 (R108), ICVT (R109), MOV and MOVI (R110). That a cross-lane mode changes nothing of MOVI is the
model's choice (log entry 84). -/
def Obligations.CompareSelectAndAddressInstructionsComplete : Prop :=
  let val := fun (sgn : Bool) (x : Word) => if sgn = true then x.toInt else (x.toNat : Int)
  let holds := fun (c : ICond) (a b : Int) => match c with
    | .eq => decide (a = b) | .ne => decide (a ≠ b) | .lt => decide (a < b)
    | .le => decide (a ≤ b) | .gt => decide (b < a) | .ge => decide (b ≤ a)
  let sum := fun (ty : ITy) (sat : Bool) (x : Int) => BitVec.ofNat 64 (ty.wr sat x)
  let icvt := fun (n : Nat) (ty : ITy) (sat : Bool) (a r : Nat) =>
    if sat = true then
      r = ty.wr false (if ty.sgn = true then max (-2 ^ (n - 1)) (min (2 ^ (n - 1) - 1) (ty.rd a)) else min (2 ^ n - 1) (ty.rd a))
    else ∀ k, k < ty.width → r.testBit k = if k < n then a.testBit k else (ty.sgn && a.testBit (n - 1))
  let low := fun (s : State) (h : Hdr) => (lowLane (s.w.parts h)).getD 0
  ∀ s,
  (∀ o, PredResult (exec (.icmp o) s) s o.h o.d 8
    (fun i => holds o.cond (val o.sgn (s.w.aLane o.xl o.a.toNat i)) (val o.sgn (s.w.v o.b.toNat i)))) ∧
  (∀ o, PredResult (exec (.icmpImm o) s) s o.h o.d 12
    (fun i => holds o.cond (val o.sgn (s.w.aLane o.xl o.a.toNat i)) (val o.sgn o.imm))) ∧
  (∀ o, LaneResult (exec (.sel o) s) s o.h o.d 8
    (fun i x => x = if (s.w.p o.c.toNat).getLsbD i = true then s.w.aLane o.xl o.a.toNat i else s.w.v o.b.toNat i)) ∧
  (∀ o, LaneResult (exec (.selImm o) s) s o.h o.d 12
    (fun i x => x = if (s.w.p o.c.toNat).getLsbD i = true then s.w.aLane o.xl o.a.toNat i else o.imm)) ∧
  (∀ o, IntResult (exec (.lea o) s) s o.h o.s (leaTy o.wide) o.d 8 (fun i r =>
    r = (s.w.intA o.s (leaTy o.wide) o.xl o.a i + s.w.intB o.s (leaTy o.wide) o.b i * 2 ^ o.sh.toNat) % 2 ^ (leaTy o.wide).width)) ∧
  (∀ o, IntResult (exec (.leaImm o) s) s o.h o.s (leaTy o.wide) o.d 12 (fun i r =>
    (r : Int) = (s.w.intA o.s (leaTy o.wide) o.xl o.a i + o.imm.toInt * 2 ^ o.sh.toNat) % 2 ^ (leaTy o.wide).width)) ∧
  (∀ o, PairResult (exec (.iadd64 o) s) s o.h o.d 8 (fun i x =>
    x = sum o.ty o.sat (o.ty.rd (s.w.aLane64 o.xl o.a.toNat i).toNat + o.ty.rd (s.w.v64 o.b.toNat i).toNat))) ∧
  (∀ o, PairResult (exec (.iadd64Imm o) s) s o.h o.d 12 (fun i x =>
    x = sum o.ty o.sat (o.ty.rd (s.w.aLane64 o.xl o.a.toNat i).toNat + o.ty.rd (o.ty.imm o.imm)))) ∧
  (∀ o, (o.ty = .b64 ∨ o.ty = .s64) → PairResult (exec (.imad64 o) s) s o.h o.d 8 (fun i x =>
    x = sum o.ty o.sat (val o.ty.sgn (s.w.aLane o.xl o.a.toNat i) * val o.ty.sgn (s.w.v o.b.toNat i) +
      o.ty.rd (s.w.v64 o.c.toNat i).toNat))) ∧
  (∀ o, (o.ty = .b64 ∨ o.ty = .s64) → PairResult (exec (.imad64Imm o) s) s o.h o.d 12 (fun i x =>
    x = sum o.ty o.sat (val o.ty.sgn (s.w.aLane o.xl o.a.toNat i) * val o.ty.sgn o.imm +
      o.ty.rd (s.w.v64 o.c.toNat i).toNat))) ∧
  (∀ o, IntResult (exec (.icvt o) s) s o.h o.s o.ty o.d 8 (fun i r =>
    icvt (match o.w with | .w8 => 8 | .w16 => 16 | .w32 => 32) o.ty o.sat (s.w.intA o.s o.ty o.xl o.a i) r)) ∧
  (∀ o, (o.form = .plain → IntResult (exec (.movReg o) s) s o.h o.s o.ty o.d 8 (fun i r => r = s.w.intA o.s o.ty o.xl o.a i)) ∧
    (o.form = .lo → LaneResult (exec (.movReg o) s) s o.h o.d 8 (fun _ x => x = (s.w.s o.a.toNat).setWidth 32)) ∧
    (o.form = .hi → LaneResult (exec (.movReg o) s) s o.h o.d 8 (fun _ x => x = (s.w.s o.a.toNat >>> 32).setWidth 32)) ∧
    (o.form = .tos → ScalarResult (exec (.movReg o) s) s o.h o.d 8
      (fun x => x = (s.w.aLane o.xl o.a.toNat (low s o.h)).setWidth 64)) ∧
    (o.form = .tohi → ScalarResult (exec (.movReg o) s) s o.h o.d 8 (fun x =>
      x.setWidth 32 = (s.w.s o.d.toNat).setWidth 32 ∧ (x >>> 32).setWidth 32 = s.w.aLane o.xl o.a.toNat (low s o.h)))) ∧
  (∀ o, IntResult (exec (.movi o) s) s o.h o.s o.ty o.d 12 (fun _ r => r = o.ty.imm o.imm))

/-- TYPE in R104, R98 and R55, against the words of Lean's library. -/
def Obligations.IntegerTypesReadAndWriteTwosComplement : Prop :=
  (∀ x : Word, ITy.b32.rd x.toNat = x.toNat ∧ ITy.s32.rd x.toNat = x.toInt) ∧
  (∀ x : DWord, ITy.b64.rd x.toNat = x.toNat ∧ ITy.s64.rd x.toNat = x.toInt) ∧
  (∀ (ty : ITy) (x : Int), (ty.wr false x : Int) = x % 2 ^ ty.width) ∧
  (∀ (ty : ITy) (x : Int), let lo : Int := if ty.sgn = true then -2 ^ (ty.width - 1) else 0
    let hi : Int := if ty.sgn = true then 2 ^ (ty.width - 1) - 1 else 2 ^ ty.width - 1
    ty.rd (ty.wr true x) = max lo (min hi x)) ∧
  (∀ a b : Word, ITy.s32.wr false (ITy.s32.rd a.toNat + ITy.s32.rd b.toNat) = (a + b).toNat ∧
    ITy.b32.wr false (ITy.b32.rd a.toNat - ITy.b32.rd b.toNat) = (a - b).toNat ∧
    ITy.s32.wr false (ITy.s32.rd a.toNat * ITy.s32.rd b.toNat) = (a * b).toNat) ∧
  (∀ a b : DWord, ITy.s64.wr false (ITy.s64.rd a.toNat + ITy.s64.rd b.toNat) = (a + b).toNat ∧
    ITy.b64.wr false (ITy.b64.rd a.toNat - ITy.b64.rd b.toNat) = (a - b).toNat ∧
    ITy.s64.wr false (ITy.s64.rd a.toNat * ITy.s64.rd b.toNat) = (a * b).toNat) ∧
  (∀ x : Word, ITy.b32.toScalar x.toNat = x.setWidth 64 ∧ ITy.s32.toScalar x.toNat = x.signExtend 64) ∧
  (∀ x : DWord, ITy.b64.toScalar x.toNat = x ∧ ITy.s64.toScalar x.toNat = x) ∧
  (∀ x : Word, ITy.s64.imm x = (x.signExtend 64).toNat ∧ ITy.b64.imm x = x.toNat ∧ ITy.s32.imm x = x.toNat ∧ ITy.b32.imm x = x.toNat)

/-- R66: the A operand that a modifier delivers, and an instruction that uses it. -/
def Obligations.CrossLaneModifierPicksTheSourceLane : Prop :=
  let lane := fun (w : Warp) (x : XL) (i : Nat) => match x.mode with
    | .none => (i : Int)
    | .bc => (x.par.toNat : Int)
    | .xor => ((i ^^^ x.par.toNat : Nat) : Int)
    | .up => (i : Int) - x.par.toNat
    | .dn => (i : Int) + x.par.toNat
    | .idx => (w.v x.par.toNat i).toInt
    | .rot => ((i : Int) + x.par.toNat) % 32
  let pick := fun (w : Warp) (x : XL) (r i : Nat) =>
    if 0 ≤ lane w x i ∧ lane w x i ≤ 31 then w.v r (lane w x i).toNat else if w.keep = true then w.v r i else 0
  (∀ (w : Warp) (x : XL) (r i : Nat), i < 32 → w.aLane x r i = pick w x r i ∧
    loWord (w.aLane64 x r i) = pick w x r i ∧ hiWord (w.aLane64 x r i) = pick w x (r + 1) i) ∧
  (∀ (s : State) (o : Int3), o.s = false → o.ty = .b32 → o.sat = false →
    LaneResult (exec (.iadd o) s) s o.h o.d 8 (fun i y => y = pick s.w o.xl o.a.toNat i + s.w.v o.b.toNat i))

/-- R102, first half, for every instruction of R103. -/
def Obligations.FlagRaisingInstructionsCompleteWithoutTrap : Prop :=
  ∀ (s : State) (i : Instr) (p : FloatForm), floatForm i s = some p →
    (∀ k, p.Raises s k → s.w.fpTrapen.getLsbD k = false) →
    ∃ t, exec i s = .next t ∧ Retired s t p.len p.h.sw ∧ KeepsS s t ∧ KeepsP s t ∧ OnlyV s t (s.w.parts p.h) p.d.toNat p.regs ∧
      (∀ n, n < 32 → (s.w.parts p.h).getLsbD n = true → ∀ k, k < p.regs →
        t.w.v (p.d.toNat + k) n = BitVec.ofNat 32 ((p.res n).val / 2 ^ (32 * k))) ∧
      (∀ k, t.w.fpFlags.getLsbD k = true ↔ s.w.fpFlags.getLsbD k = true ∨ p.Raises s k) ∧
      (∀ n, n < 32 → t.w.srState n =
        if p.rs = true ∧ (s.w.parts p.h).getLsbD n = true then srAfter p.draws (s.w.srState n) else s.w.srState n)

/-- R102: results and flags together, or a trap with nothing written. -/
def Obligations.EnabledFlagTrapsBeforeAnyLaneWrites : Prop :=
  ∀ (s : State) (i : Instr) (p : FloatForm), floatForm i s = some p →
    ∃ F : BitVec 5, (∀ k, F.getLsbD k = true ↔ p.Raises s k) ∧
      ((F &&& s.w.fpTrapen = 0 ∧ ∃ t, exec i s = .next t ∧ t.w.fpFlags = s.w.fpFlags ||| F ∧
          ∀ n, n < 32 → (s.w.parts p.h).getLsbD n = true → ∀ k, k < p.regs →
            t.w.v (p.d.toNat + k) n = BitVec.ofNat 32 ((p.res n).val / 2 ^ (32 * k))) ∨
       (∃ b : Nat, b < 5 ∧ (F &&& s.w.fpTrapen).getLsbD b = true ∧ (∀ c, b < c → (F &&& s.w.fpTrapen).getLsbD c = false) ∧
          exec i s = .next (s.enter (0x145 - BitVec.ofNat 10 b)
            (maskOf (fun n => (s.w.parts p.h).getLsbD n && (p.res n).fl.getLsbD b)) 0 (F.setWidth 64))))

/-- The exact operations of R111, R118 and R86, as rationals, and the special values of R116. -/
def Obligations.ExactArithmeticIsExact : Prop :=
  let pos := fun (x : Machine.Num) => match x with | .fin _ _ d _ => 0 < d | _ => False
  let zero := fun (n : Bool) (x : Machine.Num) => ∃ d e, x = .fin n 0 d e
  let whole := fun (r : Rnd) (q : ℚ) (v : Int) => (v = ⌊q⌋ ∨ v = ⌈q⌉) ∧ (r = .rd → v = ⌊q⌋) ∧ (r = .ru → v = ⌈q⌉) ∧
    (r = .rz → |(v : ℚ)| ≤ |q|) ∧ (r = .rne → 2 * |q - v| ≤ 1 ∧ (2 * |q - v| = 1 → v % 2 = 0))
  (∀ (x y : Machine.Num) (rd : Bool), pos x → pos y → ∃ a b, x.rat = some a ∧ y.rat = some b ∧
    (x.add y rd).1.rat = some (a + b) ∧ (x.add y rd).2 = 0 ∧ (x.mul y).1.rat = some (a * b) ∧ (x.mul y).2 = 0 ∧
    pos (x.add y rd).1 ∧ pos (x.mul y).1) ∧
  (∀ (x y z : Machine.Num) (rd : Bool), pos x → pos y → pos z → ∃ a b c, x.rat = some a ∧ y.rat = some b ∧ z.rat = some c ∧
    (x.fma y z rd).1.rat = some (a * b + c) ∧ (x.fma y z rd).2 = 0) ∧
  (∀ (x : Machine.Num) (w : Word), pos x → scaleExp w ≠ 0 → scaleExp w ≠ 255 → ∃ a, x.rat = some a ∧
    (scaleDiv x w).rat = some (a / ((1 + (scaleFrac w : ℚ) / 65536) * 2 ^ ((scaleExp w : Int) - 127)))) ∧
  (∀ (n : Bool) (rd : Bool), (Machine.Num.inf n).add (.inf !n) rd = (.nan, flNV)) ∧
  (∀ (n m : Bool) (d : Nat) (e : Int), (Machine.Num.inf n).mul (.fin m 0 d e) = (.nan, flNV) ∧
    (Machine.Num.fin m 0 d e).mul (.inf n) = (.nan, flNV)) ∧
  (∀ (x : Machine.Num) (rd : Bool), (Machine.Num.nan.add x rd).1 = .nan ∧ (x.add .nan rd).1 = .nan ∧ (Machine.Num.nan.mul x).1 = .nan ∧ (x.mul .nan).1 = .nan) ∧
  (∀ (x y : Machine.Num) (n rd : Bool) (a b d g : Nat) (e k : Int), pos x → pos y → x = .fin n a d e →
    (y = .fin (!n) b g k → (∀ q, x.rat = some q → y.rat = some (-q)) → zero rd (x.add y rd).1) ∧
    (y = .fin n b g k → a = 0 → b = 0 → zero n (x.add y rd).1)) ∧
  (∀ (ty : FTy) (ftz sat : Bool) (r : Rnd) (dr : Word) (a b c : Nat) (x y z : ℚ),
    let f := fmtOf ty
    let once := fun (op : FOp) (v : ℚ) => ∃ u, pos u ∧ u.rat = some v ∧
      arith op ty ftz sat r dr a b c = f.flush ftz (f.round u (.rnd r dr) sat)
    (f.decode ftz a).rat = some x → (f.decode ftz b).rat = some y → (f.decode ftz c).rat = some z →
      once opAdd (x + y) ∧ once opSub (x - y) ∧ once opMul (x * y) ∧ once opFma (x * y + z)) ∧
  (∀ (ty : FTy) (sgn sat : Bool) (r : Rnd) (dr a : Word), ∃ u, pos u ∧
    u.rat = some (if sgn = true then (a.toInt : ℚ) else (a.toNat : ℚ)) ∧ itofRes (fmtOf ty) sgn sat r dr a = (fmtOf ty).round u (.rnd r dr) sat) ∧
  (∀ (div ftz sat : Bool) (r : Rnd) (dr a w : Word),
    let out := bscaleRes div ftz sat r dr a w
    let k := (1 + (scaleFrac w : ℚ) / 65536) * 2 ^ ((scaleExp w : Int) - 127)
    (scaleExp w = 0 → out = ⟨0, 0⟩) ∧ (scaleExp w = 255 → out = ⟨f32.canonNaN, 0⟩) ∧
    (scaleExp w ≠ 0 → scaleExp w ≠ 255 → ∀ x, (f32.decode ftz a.toNat).rat = some x → ∃ u, pos u ∧
      u.rat = some (if div = true then x / k else x * k) ∧ out = f32.flush ftz (f32.round u (.rnd r dr) sat))) ∧
  (∀ (ty : FTy) (sgn : Bool) (r : Rnd) (dr : Word) (a : Nat),
    let x := (fmtOf ty).decode false a
    let out := ftoiRes (fmtOf ty) sgn r dr a
    let hi : Int := if sgn = true then 2 ^ 31 - 1 else 2 ^ 32 - 1
    let lo : Int := if sgn = true then -2 ^ 31 else 0
    let code := fun (v : Int) => (v % 2 ^ 32).toNat
    (x = .nan → out = ⟨0, flNV⟩) ∧ (∀ n, x = .inf n → out = ⟨code (if n = true then lo else hi), flNV⟩) ∧
    (∀ q, x.rat = some q → ∃ v, whole r q v ∧ out = if v < lo then ⟨code lo, flNV⟩ else if hi < v then ⟨code hi, flNV⟩
      else ⟨code v, if (v : ℚ) = q then 0 else flNX⟩)) ∧
  (∀ (ty : FTy) (a : Word), ty ≠ .f64 →
    let f := fmtOf ty
    let x := f.decode false (a.toNat % 2 ^ f.width)
    let rat := fun (q : ℚ) (c : Nat) => (f.decode false c).rat = some q
    let inf := fun (n : Bool) (c : Nat) => f.decode false c = .inf n
    let zer := fun (n : Bool) (c : Nat) => c = f.signed n 0
    let nan := fun (c : Nat) => c = f.canonNaN
    let gives := fun (fn : Config.Trans) (y : Nat → Prop) (fl : BitVec 5) =>
      let r := transRes fn ty false false a
      y r.val ∧ r.val < 2 ^ f.width ∧ r.fl = fl
    let root := fun (y : Nat → Prop) (fl : BitVec 5) => ∀ r, r ≠ .rs →
      y (sqrtRes ty false false r a.toNat).val ∧ (sqrtRes ty false false r a.toNat).fl = fl
    (∀ n, zero n x → gives .rcp (inf n) flDZ ∧ gives .rsq (inf n) flDZ ∧ gives .log2 (inf true) flDZ ∧ gives .sin (zer n) 0 ∧
      gives .tanh (zer n) 0 ∧ root (zer n) 0) ∧
    (∀ n, x = .inf n → gives .rcp (zer n) 0 ∧ gives .sin nan flNV ∧ gives .cos nan flNV ∧
      gives .tanh (rat (if n = true then -1 else 1)) 0) ∧
    (x = .inf false → gives .rsq (zer false) 0 ∧ gives .exp2 (inf false) 0 ∧ gives .log2 (inf false) 0 ∧ root (inf false) 0) ∧
    (x = .inf true → gives .exp2 (zer false) 0) ∧
    (x = .inf true ∨ (∃ q, x.rat = some q ∧ q < 0) → gives .rsq nan flNV ∧ gives .log2 nan flNV ∧ root nan flNV) ∧
    (x = .nan → (∀ fn, gives fn nan 0) ∧ root nan 0) ∧
    (∀ q, x.rat = some q → (∃ k : Int, |q| = 2 ^ k) → (∃ c, rat q⁻¹ c) → gives .rcp (rat q⁻¹) 0) ∧
    (∀ k : Int, x.rat = some (4 ^ k) → gives .rsq (rat (2 ^ (-k))) 0) ∧
    (∀ k : Int, x.rat = some (k : ℚ) → (∃ c, rat (2 ^ k) c) → gives .exp2 (rat (2 ^ k)) 0) ∧
    (∀ k : Int, x.rat = some (2 ^ k) → gives .log2 (rat k) 0 ∧ (k = 0 → gives .log2 (zer false) 0)) ∧
    (∀ v : Int, x.rat = some (v : ℚ) → v ≠ 0 → gives .sin (zer (decide (v < 0))) 0) ∧
    (∀ v : Int, x.rat = some (v : ℚ) → gives .cos (rat ((-1) ^ v)) 0) ∧
    (∀ v : Int, x.rat = some (v + 1 / 2) → gives .sin (rat ((-1) ^ v)) 0 ∧ gives .cos (zer false) 0)) ∧
  (∀ (fn : Config.Trans) (ty : FTy) (ftz sat : Bool) (a : Word) (q : ℚ), ty ≠ .f64 →
    let f := fmtOf ty
    let r := transRes fn ty ftz sat a
    (f.decode ftz (a.toNat % 2 ^ f.width)).rat = some q → q ≠ 0 →
    ((∃ n, f.decode false r.val = .inf n) ∨ (sat = true ∧ ∃ n, r.val = f.signed n f.maxCode)) → r.fl &&& flOF = flOF)

/-- Round of R89 against the values of all codes, for .rne, .rz, .rd and .ru (R88). -/
def Obligations.RoundingPicksTheNearestRepresentableValue : Prop :=
  ∀ (ty : FTy) (neg : Bool) (n d : Nat) (e : Int) (dr : Word) (x : ℚ), 0 < n → 0 < d → (Machine.Num.fin neg n d e).rat = some x →
    let f := fmtOf ty
    let val := fun (c : Nat) => (f.decode false c).rat
    let out := fun (r : Rnd) => f.round (.fin neg n d e) (.rnd r dr) false
    (∀ y, val (out .rne).val = some y → ∀ c z, c < 2 ^ f.width → val c = some z → |x - y| ≤ |x - z|) ∧
    (∀ y, val (out .rd).val = some y → y ≤ x ∧ ∀ c z, c < 2 ^ f.width → val c = some z → z ≤ x → z ≤ y) ∧
    (∀ y, val (out .ru).val = some y → x ≤ y ∧ ∀ c z, c < 2 ^ f.width → val c = some z → x ≤ z → y ≤ z) ∧
    (∀ y, val (out .rz).val = some y → |y| ≤ |x| ∧ ∀ c z, c < 2 ^ f.width → val c = some z → |z| ≤ |x| → |z| ≤ |y|) ∧
    (∀ r y, r ≠ .rs → val (out r).val = some y → ((out r).fl.getLsbD 0 = true ↔ y ≠ x))

/-- R103, second half, with R112, R113, R114 and R117. -/
def Obligations.SelectingFloatInstructionsRaiseNoFlag : Prop :=
  let flushed := fun (ty : FTy) (ftz : Bool) (a : Nat) =>
    let c := a % 2 ^ (fmtOf ty).width
    let mag := c % 2 ^ ((fmtOf ty).width - 1)
    if ftz = true ∧ mag < 2 ^ (fmtOf ty).m then c - mag else c
  let isNaN := fun (ty : FTy) (a : Nat) => (fmtOf ty).decode false a = .nan
  let choice := fun (big : Bool) (ty : FTy) (ftz : Bool) (a0 b0 r : Nat) =>
    let a := flushed ty ftz a0
    let b := flushed ty ftz b0
    (isNaN ty a → isNaN ty b → r = (fmtOf ty).canonNaN) ∧ (isNaN ty a → ¬isNaN ty b → r = b) ∧
    (¬isNaN ty a → isNaN ty b → r = a) ∧ (¬isNaN ty a → ¬isNaN ty b → (r = a ∨ r = b) ∧
      keyOf ty r = if big = true then max (keyOf ty a) (keyOf ty b) else min (keyOf ty a) (keyOf ty b))
  let one := fun (big : Bool) (ty : FTy) (ftz : Bool) (a b : Nat) (x : Word) =>
    ∃ r, choice big ty ftz a b r ∧ x = BitVec.ofNat 32 r
  let two := fun (big : Bool) (ty : FTy) (ftz : Bool) (a b : Nat) (x : Word) =>
    ∃ l r, choice big ty ftz (a % 65536) (b % 65536) l ∧ choice big ty ftz (a / 65536) (b / 65536) r ∧
      x = BitVec.ofNat 32 (l + 65536 * r)
  let cmp := fun (c : FCond) (neg : Bool) (x y : Machine.Num) => neg != (match x.cmp y with
    | none => false
    | some o => match c with
      | .eq => o == .eq | .lt => o == .lt | .le => o != .gt | .gt => o == .gt | .ge => o != .lt)
  let klass := fun (ty : FTy) (a : Nat) =>
    let f := fmtOf ty
    let exp := a / 2 ^ f.m % 2 ^ f.e
    let neg := a.testBit (f.e + f.m)
    if exp = 2 ^ f.e - 1 then (if a % 2 ^ f.m ≠ 0 then 8 else if neg = true then 0 else 7)
    else if exp ≠ 0 then (if neg = true then 1 else 6)
    else if a % 2 ^ f.m ≠ 0 then (if neg = true then 2 else 5) else (if neg = true then 3 else 4)
  let scale := fun (ty : FTy) (a : Nat) (x : Word) =>
    let f := fmtOf ty
    (f.decode false a = .nan → x.toNat = f.canonNaN) ∧ (∀ n, f.decode false a = .inf n → x = 0) ∧
    ((f.decode false a).rat = some 0 → x.toNat < 2 ^ f.width ∧ f.decode false x.toNat = .inf false) ∧
    (∀ (q : ℚ) (k : Int), (f.decode false a).rat = some q → 1 ≤ |q| * 2 ^ k → |q| * 2 ^ k < 2 →
      x.toNat < 2 ^ f.width ∧ (f.decode false x.toNat).rat = some (2 ^ (min k f.bias)))
  let whole := fun (ty : FTy) (r : Rnd) (a : Nat) (x : Word) =>
    let f := fmtOf ty
    (f.decode false a = .nan → x.toNat = f.canonNaN) ∧
    (∀ n, f.decode false a = .inf n → x.toNat < 2 ^ f.width ∧ f.decode false x.toNat = .inf n) ∧
    (∀ q : ℚ, (f.decode false a).rat = some q → ∃ v : Int, (v = ⌊q⌋ ∨ v = ⌈q⌉) ∧ (r = .rd → v = ⌊q⌋) ∧ (r = .ru → v = ⌈q⌉) ∧
      (r = .rz → |(v : ℚ)| ≤ |q|) ∧ (r = .rne → 2 * |q - v| ≤ 1 ∧ (2 * |q - v| = 1 → v % 2 = 0)) ∧
      x.toNat < 2 ^ f.width ∧ (f.decode false x.toNat).rat = some (v : ℚ) ∧ x.getLsbD (f.width - 1) = a.testBit (f.width - 1))
  let onFp3 := fun (mk : Fp3 → Instr) (R : FTy → Bool → Nat → Nat → Word → Prop) (s : State) => ∀ o : Fp3,
    LaneResult (exec (mk o) s) s o.h o.d 8 (fun i x => R o.ty o.ftz (s.w.aLane o.xl o.a.toNat i).toNat (s.w.v o.b.toNat i).toNat x)
  let onFp3I := fun (mk : Fp3I → Instr) (R : FTy → Bool → Nat → Nat → Word → Prop) (s : State) => ∀ o : Fp3I,
    LaneResult (exec (mk o) s) s o.h o.d 12 (fun i x => R o.ty o.ftz (s.w.aLane o.xl o.a.toNat i).toNat o.imm.toNat x)
  ∀ s, (onFp3 .fmin (one false) s ∧ onFp3I .fminImm (one false) s ∧ onFp3 .fmax (one true) s ∧ onFp3I .fmaxImm (one true) s ∧
    onFp3 .hmin2 (two false) s ∧ onFp3I .hmin2Imm (two false) s ∧ onFp3 .hmax2 (two true) s ∧ onFp3I .hmax2Imm (two true) s) ∧
  (∀ o, PredResult (exec (.fcmp o) s) s o.h o.d 8 (fun i => cmp o.cond o.neg
    ((fmtOf o.ty).decode o.ftz (s.w.aLane o.xl o.a.toNat i).toNat) ((fmtOf o.ty).decode o.ftz (s.w.v o.b.toNat i).toNat))) ∧
  (∀ o, PredResult (exec (.fcmpImm o) s) s o.h o.d 12 (fun i => cmp o.cond o.neg
    ((fmtOf o.ty).decode o.ftz (s.w.aLane o.xl o.a.toNat i).toNat) ((fmtOf o.ty).decode o.ftz o.imm.toNat))) ∧
  (∀ o, PredResult (exec (.dcmp o) s) s o.h o.d 8 (fun i => cmp o.cond o.neg
    ((fmtOf o.ty).decode o.ftz (s.w.aLane64 o.xl o.a.toNat i).toNat) ((fmtOf o.ty).decode o.ftz (s.w.v64 o.b.toNat i).toNat))) ∧
  (∀ o, LaneResult (exec (.fclass o) s) s o.h o.d 8 (fun i x => x = 1 <<< klass o.ty (s.w.aLane o.xl o.a.toNat i).toNat)) ∧
  (∀ o, o.ty ≠ .f64 → LaneResult (exec (.fdivs o) s) s o.h o.d 8 (fun i x => scale o.ty (s.w.aLane o.xl o.a.toNat i).toNat x)) ∧
  (∀ o, o.ty ≠ .f64 → o.rnd ≠ .rs → LaneResult (exec (.frnd o) s) s o.h o.d 8 (fun i x => whole o.ty o.rnd (s.w.aLane o.xl o.a.toNat i).toNat x))

/-- R126 to R129. -/
def Obligations.CrossLaneInstructionsCombineParticipatingLanes : Prop :=
  ∀ s : State,
  (∀ o, LaneResult (exec (.perm o) s) s o.h o.d 8 (fun i x =>
    (o.byte = false → x = s.w.v o.a.toNat ((s.w.v o.b.toNat i).toNat % 32)) ∧
    (o.byte = true → ∀ k, k < 4 → byteOf x k = if (byteOf (s.w.v o.b.toNat i) k).getLsbD 7 = true then 0
      else byteOf (s.w.v o.a.toNat i) ((byteOf (s.w.v o.b.toNat i) k).toNat % 4)))) ∧
  (∀ o, let yes := fun i => (s.w.parts o.h).getLsbD i = true ∧ (s.w.p o.a.toNat).getLsbD i = true
    let no := fun i => (s.w.parts o.h).getLsbD i = true ∧ (s.w.p o.a.toNat).getLsbD i = false
    ∃ t, exec (.vote o) s = .next t ∧ Retired s t 8 o.h.sw ∧ KeepsV s t ∧ KeepsP s t ∧ KeepsF s t ∧
      (∀ r, r ≠ o.d.toNat → t.w.s r = s.w.s r) ∧
      (o.mode = .ballot → ∀ k, (t.w.s o.d.toNat).getLsbD k = true ↔ k < 32 ∧ yes k) ∧
      (o.mode = .any → (t.w.s o.d.toNat = 1 ∧ ∃ i, i < 32 ∧ yes i) ∨ (t.w.s o.d.toNat = 0 ∧ ∀ i, i < 32 → ¬yes i)) ∧
      (o.mode = .all → (t.w.s o.d.toNat = 1 ∧ ∀ i, i < 32 → ¬no i) ∨ (t.w.s o.d.toNat = 0 ∧ ∃ i, i < 32 ∧ no i)) ∧
      (o.mode = .uni → (t.w.s o.d.toNat = 1 ∧ ((∀ i, i < 32 → ¬no i) ∨ ∀ i, i < 32 → ¬yes i)) ∨
        (t.w.s o.d.toNat = 0 ∧ (∃ i, i < 32 ∧ no i) ∧ ∃ i, i < 32 ∧ yes i))) ∧
  (∀ o, let A := fun j => s.w.v o.a.toNat j
    let one := fun j => j < 32 ∧ (s.w.parts o.h).getLsbD j = true
    let xs := ((List.range 32).filter (fun j => (s.w.parts o.h).getLsbD j)).map A
    LaneResult (exec (.wred o) s) s o.h o.d 8 (fun _ x => match o.op with
      | .iadd => x = xs.sum
      | .iminS => (∃ j, one j ∧ x = A j) ∧ ∀ j, one j → x.toInt ≤ (A j).toInt
      | .imaxS => (∃ j, one j ∧ x = A j) ∧ ∀ j, one j → (A j).toInt ≤ x.toInt
      | .iminB => (∃ j, one j ∧ x = A j) ∧ ∀ j, one j → x.toNat ≤ (A j).toNat
      | .imaxB => (∃ j, one j ∧ x = A j) ∧ ∀ j, one j → (A j).toNat ≤ x.toNat
      | .and => ∀ k, k < 32 → (x.getLsbD k = true ↔ ∀ j, one j → (A j).getLsbD k = true)
      | .or => ∀ k, k < 32 → (x.getLsbD k = true ↔ ∃ j, one j ∧ (A j).getLsbD k = true)
      | .xor => ∀ k, k < 32 → x.getLsbD k = decide ((xs.filter (fun y => y.getLsbD k)).length % 2 = 1)
      | .fadd => x = redDeliver .fadd (treeSum xs)
      | .fmin => x = redDeliver .fmin (xs.tail.foldl (redStep .fmin) (xs.headD 0))
      | .fmax => x = redDeliver .fmax (xs.tail.foldl (redStep .fmax) (xs.headD 0)))) ∧
  (∀ o, let m := s.w.parts o.h
    let A := fun j => s.w.v o.a.toNat j
    let first := fun i => m.getLsbD i = true ∧ ∀ j, j < i → m.getLsbD j = false
    let after := fun i j => m.getLsbD i = true ∧ m.getLsbD j = true ∧ i < j ∧ ∀ k, i < k → k < j → m.getLsbD k = false
    ∃ S : Nat → Word, (∀ i, i < 32 → first i → S i = A i) ∧
      (∀ i j, j < 32 → after i j → S j = redStep o.op (S i) (A j)) ∧
      LaneResult (exec (.wscan o) s) s o.h o.d 8 (fun j x =>
        (o.excl = false → x = redDeliver o.op (S j)) ∧
        (o.excl = true → (first j → x = redIdentity o.op) ∧ ∀ i, after i j → x = redDeliver o.op (S i)))) ∧
  (∀ o, LaneResult (exec (.matchLanes o) s) s o.h o.d 8 (fun i x =>
    ∀ j, j < 32 → (x.getLsbD j = true ↔ (s.w.parts o.h).getLsbD j = true ∧
      (if o.b64 = true then s.w.v64 o.a.toNat j = s.w.v64 o.a.toNat i else s.w.v o.a.toNat j = s.w.v o.a.toNat i))))

/-- R64, R65 and R130. -/
def Obligations.IndexedMovesCheckThenMove : Prop :=
  ∀ (s : State) (o : MovX),
    let num := fun (k : RegNo) (i : Nat) =>
      if o.scalar = true then (s.w.s k.toNat + o.e.setWidth 64).toNat else (s.w.v k.toNat i).toNat + o.e.toNat
    let part := fun i => (s.w.parts o.h).getLsbD i
    let fails := fun (k : RegNo) => maskOf (fun i => part i && (decide (255 < num k i) || (o.b64 && num k i % 2 == 1)))
    let above := fun (k : RegNo) => ∃ i, i < 32 ∧ part i = true ∧ 255 < num k i
    let clean := fun (k : RegNo) => ∀ i, i < 32 → part i = true → num k i ≤ 255 ∧ (o.b64 = true → num k i % 2 = 0)
    let traps := fun (out : Out) (reg k : RegNo) =>
      (o.b64 = true → reg.toNat % 2 = 1 → TrapsWith out s 0x082 s.w.em) ∧
      (¬(o.b64 = true ∧ reg.toNat % 2 = 1) → ¬clean k →
        (above k → TrapsWith out s 0x081 (fails k)) ∧ (¬above k → TrapsWith out s 0x082 (fails k)))
    (traps (exec (.movx o) s) o.d o.a ∧ traps (exec (.movxw o) s) o.a o.d) ∧
    (o.b64 = false → clean o.a → LaneResult (exec (.movx o) s) s o.h o.d 8 (fun i x => x = s.w.v (num o.a i) i)) ∧
    (o.b64 = true → o.d.toNat % 2 = 0 → clean o.a →
      PairResult (exec (.movx o) s) s o.h o.d 8 (fun i x => x = s.w.v64 (num o.a i) i)) ∧
    (¬(o.b64 = true ∧ o.a.toNat % 2 = 1) → clean o.d → ∃ t, exec (.movxw o) s = .next t ∧ Retired s t 8 o.h.sw ∧
      KeepsS s t ∧ KeepsP s t ∧ KeepsF s t ∧ ∀ r i, i < 32 → t.w.v r i =
        if part i = true ∧ r = num o.d i then s.w.v o.a.toNat i
        else if part i = true ∧ o.b64 = true ∧ r = num o.d i + 1 then s.w.v (o.a.toNat + 1) i else s.w.v r i)

/-- R121, R125 and the checks of R122 and R123. The fault lanes of QFMT's 0x086 are the model's choice (log entry 73). -/
def Obligations.FormatAndSeedInstructionsWriteTheirRegister : Prop :=
  ∀ s : State,
  let qfmt := fun (out : Out) (h : Hdr) (d : RegNo) (len : Nat) (x : Word) =>
    (s.w.parts h = 0 → WarpStep out s s.w (s.w.pc + BitVec.ofNat 64 len) h.sw) ∧
    (s.w.parts h ≠ 0 → narrowFmt x = none → TrapsWith out s 0x086 (s.w.parts h)) ∧
    (s.w.parts h ≠ 0 → narrowFmt x ≠ none → ∃ t, out = .next t ∧ OnlyWarp s t ∧
      { t.w with fmt := s.w.fmt }.body = s.w.body ∧ t.w.At (s.w.pc + BitVec.ofNat 64 len) h.sw ∧
      ∀ r, Tab.get 0 t.w.fmt r = if r = d.toNat then x else Tab.get 0 s.w.fmt r)
  let checks := fun (out : Out) (c : RegNo) (j : Nat) => match narrowFmt (Tab.get 0 s.w.fmt c.toNat) with
    | none => TrapsWith out s 0x086 s.w.em
    | some f => (if f.width ≤ 4 then 8 else 4) ≤ j → TrapsWith out s 0x087 s.w.em
  (∀ o, qfmt (exec (.qfmt o) s) o.h o.d 8 ((s.w.s o.a.toNat).setWidth 32)) ∧
  (∀ o, qfmt (exec (.qfmtImm o) s) o.h o.d 12 o.imm) ∧
  (∀ o, checks (exec (.qpack o) s) o.c o.j.toNat) ∧ (∀ o, checks (exec (.qunpack o) s) o.c o.j.toNat) ∧
  (∀ o, ∃ t, exec (.srseed o) s = .next t ∧ Retired s t 8 o.h.sw ∧ KeepsV s t ∧ KeepsS s t ∧ KeepsP s t ∧
    t.w.fpFlags = s.w.fpFlags ∧ ∀ i, i < 32 → t.w.srState i =
      if (s.w.parts o.h).getLsbD i = true then
        (if s.w.aLane o.xl o.a.toNat i = 0 then 0x5EED0001 else s.w.aLane o.xl o.a.toNat i)
      else s.w.srState i)

/-- Transfer of R142 by the branches of R147, and the rotation of R144; that a rotation reads every entry that the warp sees is the model's
choice (log entry 95). -/
def Obligations.BranchesTransferLanesToTheirTargets : Prop :=
  ∀ (s : State) (i : Instr) (b : BranchForm), branchForm i s = some b →
    let bad := maskOf (fun n => (s.w.parts b.h).getLsbD n && (b.target n).toNat % 4 != 0)
    (bad ≠ 0 → TrapsWith (exec i s) s 0x088 bad) ∧
    (bad = 0 → s.w.watch = none → ∃ P : List DWord, P.Pairwise (fun x y => x.toNat < y.toNat) ∧
      (∀ x, x ∈ P ↔ ∃ n, n < 32 ∧ s.w.em.getLsbD n = true ∧ b.dest s n = x) ∧
      (P = [] → (b.back = false ∨ s.w.em = ~~~s.w.exited) → WarpStep (exec i s) s (b.linked s) b.next b.h.sw) ∧
      (∀ a, P = [a] → (b.back = false ∨ s.w.em = ~~~s.w.exited) → WarpStep (exec i s) s (b.linked s) a b.h.sw) ∧
      (∀ a, P = [a] ∨ (P = [] ∧ a = b.next) → b.back = true → s.w.em ≠ ~~~s.w.exited →
        let t := s.upd (fun w => { w with pc := a })
        let live := fun (e : StackEntry) => e.mask &&& ~~~s.w.exited
        let self : StackEntry := ⟨.path, a, s.w.em, s.w.cj, 0⟩
        (s.w.spin.toNat + 1 < 64 → WarpStep (exec i s) s { s.w with spin := s.w.spin + 1 } a b.h.sw) ∧
        (64 ≤ s.w.spin.toNat + 1 → s.w.trapMode = false → s.w.depth = s.w.stack.length → s.w.stack.length ≤ 32 →
          (∀ ws e below, s.w.stack = ws ++ e :: below → e.kind = .path → (∀ x ∈ ws, x.kind = .wait) →
            WarpStep (exec i s) s { s.w with em := live e, cj := e.join, spin := 0, stack := self :: ws ++ below } e.pc b.h.sw) ∧
          (∀ ws below, s.w.stack = ws ++ below → (∀ x ∈ ws, x.kind = .wait) → (below = [] ∨ ∃ e r, below = e :: r ∧ e.kind = .join) →
            WarpStep (exec i s) s { s.w with spin := 0 } a b.h.sw)) ∧
        (64 ≤ s.w.spin.toNat + 1 → (∀ e, t.loadPath = .error e → exec i s = .next (s.pathErr e)) ∧
          (∀ l, t.loadPath = .ok l → ∃ q : Path,
            (∀ ws e below, l.path.st = ws ++ e :: below → e.kind = .path → (∀ x ∈ ws, x.kind = .wait) →
              q = ⟨e.pc, live e, e.join, 0, self :: ws ++ below⟩) ∧
            (∀ ws below, l.path.st = ws ++ below → (∀ x ∈ ws, x.kind = .wait) → (below = [] ∨ ∃ e r, below = e :: r ∧ e.kind = .join) →
              q = { l.path with spin := 0 }) ∧
            (∀ e, l.store q = .error e → exec i s = .next (s.pathErr e)) ∧
            (∀ u, l.store q = .ok u → exec i s = .next ((u.upd (fun w => w.finish b.h.sw)).pathStop (s.trapMap 0x2C1 0 0 0)))))) ∧
      (∀ a a' ps, P = a :: a' :: ps →
        let cj := if b.pushJoin = true then b.join else s.w.cj
        let joins := if b.pushJoin = true then [(⟨.join, b.join, s.w.em, s.w.cj, 0⟩ : StackEntry)] else []
        let paths := (a' :: ps).map (fun x => (⟨.path, x, b.lanes s x, cj, 0⟩ : StackEntry))
        s.w.depth = s.w.stack.length → paths.length + joins.length + s.w.stack.length ≤ 32 →
        WarpStep (exec i s) s
          { b.linked s with em := b.lanes s a, cj := cj, spin := 0, stack := paths ++ joins ++ s.w.stack,
                            depth := paths.length + joins.length + s.w.stack.length } a b.h.sw))

/-- R145: the stack's limit, its spill area and the layout of a spilled entry. R145 names no fault lanes for 0x186 and 0x187: em is the
model's choice (log entry 73). -/
def Obligations.StackOverflowTrapsAndTheThirtyThirdEntrySpills : Prop :=
  let limit := fun (w : Warp) => if w.lstackLimit.getLsbD 0 = true then 288 else 32
  (∀ (s : State) (e : StackEntry), limit s.w ≤ s.w.depth → s.push1 e = .error (.trap 0x186 s.w.em)) ∧
  (∀ (s : State) (e : StackEntry), s.w.depth < limit s.w → s.w.stack.length < 32 → ∃ t, s.push1 e = .ok t ∧ OnlyWarp s t ∧
    t.w = { s.w with stack := e :: s.w.stack, depth := s.w.depth + 1, spin := 0 }) ∧
  (∀ (s : State) (e b : StackEntry) (x : Trans), s.w.depth < limit s.w → s.w.stack.length = 32 → s.w.stack.getLast? = some b →
    let va := s.w.spillVa (s.w.depth - 32)
    let a := x.addr va
    va.toNat = field s.w.lstackLimit 12 36 * 4096 + 2 ^ (field s.w.lstackLimit 48 4 + 13) - 8192 + 32 * (s.w.depth - 32) ∧
    (s.translate s.w.ctx s.myDie wantW (s.w.depth - 32) va = .ok x → x.peer = s.peer → x.vers = false → x.okind ≠ 0 →
      s.fenceHolds 0 = false → s.w.stored = [] → s.Unwatched → ∃ t, s.push1 e = .ok t ∧
      t.w.body = { s.w with
        stack := e :: s.w.stack.dropLast, depth := s.w.depth + 1, spin := 0,
        fence := { s.w.fence with v := false, vLoads := false, vBand := false } }.body ∧
      StackEntry.ofBytes (t.bytes a 32) = some b ∧ ∀ y, y < a ∨ a + 32 ≤ y → t.byte y = s.byte y)) ∧
  (∀ (s : State) (d : Nat) (x : Trans), Tab.get [] s.w.entries d = [] → s.translate s.w.ctx s.myDie wantR d (s.w.spillVa d) = .ok x →
    x.peer = s.peer → x.vers = false → x.okind ≠ 0 → x.copies = false → x.page % 4096 = 0 → s.fenceHolds 0 = false → s.Unwatched →
    let b := s.bytes (x.addr (s.w.spillVa d)) 32
    (StackEntry.ofBytes b = none → s.fillEntry d = .error (.trap 0x187 s.w.em)) ∧
    (∀ e, StackEntry.ofBytes b = some e → ∃ t, s.fillEntry d = .ok (t, e) ∧ t.mem = s.mem ∧ ∀ k, k ≠ s.cur → t.warp k = s.warp k))

/-- NextPath of R143. -/
def Obligations.PathEndTakesTheNextPath : Prop :=
  ∀ (p : Path) (exited : Mask),
    let live := p.st.filter (fun e => e.mask &&& ~~~exited != 0)
    let takes := fun (q : Path) (e : StackEntry) (st : List StackEntry) =>
      q = ⟨e.pc, e.mask &&& ~~~exited, e.join, 0, st⟩
    (∀ above e below, live = above ++ e :: below → e.kind = .path → (∀ x ∈ above, x.kind = .wait) →
      ∃ q, p.next exited = .ok (q, true) ∧ takes q e (above ++ below)) ∧
    (∀ waits below, live = waits ++ below → waits ≠ [] → (∀ x ∈ waits, x.kind = .wait) →
      (below = [] ∨ ∃ e r, below = e :: r ∧ e.kind = .join) →
      ∃ m, p.next exited = .error (m, live) ∧ ∀ k, k < 32 → (m.getLsbD k = true ↔ ∃ e ∈ waits, e.mask.getLsbD k = true)) ∧
    (live = [] → p.next exited = .ok ({ p with spin := 0, st := [] }, false)) ∧
    (∀ e r, live = e :: r → e.kind = .join → ∃ q, p.next exited = .ok (q, true) ∧ takes q e r)

/-- R149, R150 and R151, with the refusals of trap mode (R381). The instructions name no fault lanes for 0x183 and 0x184: em is the model's
choice (log entry 73). -/
def Obligations.NopYieldTrampolinesAndExitComplete : Prop :=
  ∀ s : State,
  (∀ h, WarpStep (exec (.nop h) s) s s.w (s.w.pc + 8) h.sw) ∧
  (∀ h, WarpStep (exec (.yield h) s) s { s.w with yielding := if s.w.parts h = 0 then s.w.yielding else 4 } (s.w.pc + 8) h.sw) ∧
  (∀ o, s.w.trapMode = false → s.w.trampLink.getLsbD 0 = false → ∃ l : DWord,
    l.getLsbD 0 = true ∧ l.getLsbD 1 = false ∧ (∀ k, 2 ≤ k → l.getLsbD k = (s.w.pc + 8).getLsbD k) ∧
    WarpStep (exec (.tramp o) s) s { s.w with trampLink := l } (s.w.pc + o.disp.signExtend 64 * 4) o.sw) ∧
  (∀ o, s.w.trapMode = false → s.w.trampLink.getLsbD 0 = true → TrapsWith (exec (.tramp o) s) s 0x183 s.w.em) ∧
  (∀ sw, s.w.trapMode = false → s.w.trampLink.getLsbD 0 = true → ∃ l p : DWord,
    (∀ k, l.getLsbD k = (decide (k ≠ 0) && s.w.trampLink.getLsbD k)) ∧ (∀ k, p.getLsbD k = (decide (2 ≤ k) && s.w.trampLink.getLsbD k)) ∧
    WarpStep (exec (.tret sw) s) s { s.w with trampLink := l } p sw) ∧
  (∀ sw, s.w.trapMode = false → s.w.trampLink.getLsbD 0 = false → TrapsWith (exec (.tret sw) s) s 0x184 s.w.em) ∧
  (s.w.trapMode = true → (∀ o, TrapsWith (exec (.tramp o) s) s 0x191 s.w.em) ∧ (∀ sw, TrapsWith (exec (.tret sw) s) s 0x191 s.w.em) ∧
    ∀ h, TrapsWith (exec (.exit h) s) s 0x191 s.w.em) ∧
  (∀ h, s.w.trapMode = false →
    let x := s.w.parts h
    (¬(s.w.em &&& ~~~x = 0 ∧ s.w.depth = 0) →
      WarpStep (exec (.exit h) s) s { s.w.dropLanes x with exited := s.w.exited ||| x, em := s.w.em &&& ~~~x } (s.w.pc + 8) h.sw) ∧
    (s.w.em &&& ~~~x = 0 → s.w.depth = 0 → ∃ t, exec (.exit h) s = .next t ∧ t.w.stat = .retiring ∧ t.w.em = 0 ∧
      t.w.exited = (s.w.exited ||| x) ∧ t.mem = s.mem ∧ (∀ r, t.w.s r = s.w.s r) ∧ (∀ r n, t.w.v r n = s.w.v r n) ∧
      ∀ k, k ≠ s.cur → t.warp k = s.warp k)) ∧
  (∀ k, ∃ t, exec (.yieldExpiry k) s = .next t ∧
    ((∃ n, n / 16 = k / 16 ∧ n % 4 = k % 4 ∧ n ≠ k ∧ (s.warp n).stat = .ready ∧ (s.warp n).yielding = 0) → t = s) ∧
    ((∀ n, n / 16 = k / 16 → n % 4 = k % 4 → n ≠ k → ¬((s.warp n).stat = .ready ∧ (s.warp n).yielding = 0)) →
      t = s.setWarp k { s.warp k with yielding := 0 }))

/-- R152. The pseudocode names no fault lanes for a conflicting WAIT entry's 0x181 and for 0x185: the participating lanes are the model's
choice (log entry 73). -/
def Obligations.SyncwAgreesOrWaits : Prop :=
  ∀ (s : State) (h : Hdr),
    let parts := s.w.parts h
    let same := fun (m : Mask) (e : StackEntry) => e.kind = .wait ∧ e.smask = m
    let conflict := fun (m : Mask) (e : StackEntry) => e.kind = .wait ∧ e.smask ≠ m ∧ e.smask &&& m ≠ 0
    let region := s.w.stack.takeWhile (fun e => e.kind != .join)
    let claim := fun (out : Out) (len : Nat) (mask : Nat → Mask) =>
      let lacks := maskOf (fun i => parts.getLsbD i && !(mask i).getLsbD i)
      (parts = 0 → WarpStep out s s.w (s.w.pc + BitVec.ofNat 64 len) h.sw) ∧
      (parts ≠ 0 → s.w.trapMode = true → TrapsWith out s 0x191 s.w.em) ∧
      (parts ≠ 0 → s.w.trapMode = false → lacks ≠ 0 → TrapsWith out s 0x182 lacks) ∧
      (s.w.trapMode = false → lacks = 0 →
        (∃ i j, i < 32 ∧ j < 32 ∧ parts.getLsbD i = true ∧ parts.getLsbD j = true ∧ mask i ≠ mask j) →
        TrapsWith out s 0x181 parts) ∧
      (∀ m, parts ≠ 0 → s.w.trapMode = false → lacks = 0 → (∀ i, i < 32 → parts.getLsbD i = true → mask i = m) →
        s.w.depth = s.w.stack.length → s.w.stack.length ≤ 32 → s.w.watch = none →
        ((∃ e ∈ s.w.stack, conflict m e) → TrapsWith out s 0x181 parts) ∧
        ((∀ e ∈ s.w.stack, ¬conflict m e) →
          (∀ k, k < 32 → m.getLsbD k = true → s.w.exited.getLsbD k = false →
            parts.getLsbD k = true ∨ ∃ e ∈ s.w.stack, same m e ∧ e.mask.getLsbD k = true) →
          WarpStep out s
            { s.w with stack := s.w.stack.map (fun e => if e.kind = .wait ∧ e.smask = m then { e with kind := .path, smask := 0 } else e) }
            (s.w.pc + BitVec.ofNat 64 len) h.sw) ∧
        (∀ k, k < 32 → m.getLsbD k = true → s.w.exited.getLsbD k = false → parts.getLsbD k = false → (∀ e ∈ s.w.stack, ¬conflict m e) →
          (∀ e ∈ s.w.stack, same m e → e.mask.getLsbD k = false) →
          ((∀ e ∈ region, e.kind = .path → e.mask.getLsbD k = false) → TrapsWith out s 0x185 parts) ∧
          ((∀ j, j < 32 → m.getLsbD j = true → s.w.exited.getLsbD j = false → parts.getLsbD j = true ∨
              (∃ e ∈ s.w.stack, same m e ∧ e.mask.getLsbD j = true) ∨ ∃ e ∈ region, e.kind = .path ∧ e.mask.getLsbD j = true) →
            s.w.stack.length < 32 →
            let stack : List StackEntry := (⟨.wait, s.w.pc + BitVec.ofNat 64 len, s.w.em, s.w.cj, m⟩ : StackEntry) :: s.w.stack
            ∀ above e below, stack.filter (fun x => x.mask &&& ~~~s.w.exited != 0) = above ++ e :: below →
              e.kind = .path → (∀ x ∈ above, x.kind = .wait) →
              WarpStep out s
                { s.w with em := e.mask &&& ~~~s.w.exited, cj := e.join, spin := 0, stack := above ++ below,
                           depth := (above ++ below).length } e.pc h.sw)))
    (∀ a, claim (exec (.syncw ⟨h, a⟩) s) 8 (fun i => s.w.v a.toNat i)) ∧
    (∀ imm, claim (exec (.syncwImm ⟨h, imm⟩) s) 12 (fun _ => imm))

/-- Enter of R380, with the map of R379; that a held watch hit stays with the trapped instruction is read from R391. The branches into DoubleTrap and NoHandler are those of `StopsWithoutHandler`. -/
def Obligations.TrapEntersTheHandler : Prop :=
  ∀ (s : State) (cause : Cause) (flm done : Mask) (addr : DWord),
    let x := s.ctx s.w.ctx
    let base := if 0x2E0 ≤ cause.toNat ∧ cause.toNat ≤ 0x2EF then x.toolBase else x.trapBase
    let t := s.enter cause flm done addr
    (s.w.trapMode = false → base.getLsbD 0 = true → ∃ (m : TrapMap) (em : Mask), MapOf m s cause flm done addr ∧
      (flm ≠ 0 → em = flm) ∧
      (flm = 0 → ∀ i, i < 32 → (em.getLsbD i = true ↔ s.w.exited.getLsbD i = false ∧ ∀ j, j < i → s.w.exited.getLsbD j = true)) ∧
      t.w = { s.w with trap := m, trapMode := true, pc := base &&& ~~~(0x1F : DWord), em := em, cj := 0xFFFFFFFFFFFFFFFF, spin := 0,
                       stat := .ready, reason := 0, done := 0, waiting := 0, replay := false, ir := none, records := [], held := false,
                       stored := [], promotes := [], entries := [], counted := [], snapWait := none, watch := none,
                       trapWatch := s.w.watch } ∧
      (∀ k, k ≠ s.cur → t.warp k = s.warp k) ∧ (∀ a, t.byte a = s.byte a) ∧ t.ctxs = s.ctxs ∧ t.teams = s.teams ∧
      t.faultQ = s.faultQ ∧ t.faultHeld = s.faultHeld) ∧
    (s.w.trapMode = true → t = s.noHandler 0x322 4 cause flm) ∧
    (s.w.trapMode = false → base.getLsbD 0 = false → ∃ m, MapOf m s cause flm done addr ∧
      t = (s.upd (fun w => { w with trap := m })).noHandler 0x323 5 cause flm)

/-- DoubleTrap and NoHandler of R382. -/
def Obligations.StopsWithoutHandler : Prop :=
  ∀ (s : State) (cause : Cause) (flm done : Mask) (addr : DWord),
    let x := s.ctx s.w.ctx
    let base := if 0x2E0 ≤ cause.toNat ∧ cause.toNat ≤ 0x2EF then x.toolBase else x.trapBase
    let t := s.enter cause flm done addr
    (s.w.trapMode = true ∨ base.getLsbD 0 = false) →
      t.w.stat = .halted ∧ (s.w.trapMode = true → t.w.trap = s.w.trap) ∧
      (s.w.trapMode = false → MapOf t.w.trap s cause flm done addr) ∧ t.w.trapMode = s.w.trapMode ∧ t.w.pc = s.w.pc ∧
      t.w.em = s.w.em ∧ (∀ r, t.w.s r = s.w.s r) ∧ (∀ r i, t.w.v r i = s.w.v r i) ∧ (∀ r, t.w.p r = s.w.p r) ∧
      StopsContext s t ∧ Reports s t 3 (if s.w.trapMode = true then 0x322 else 0x323) (cause.setWidth 64) flm

/-- R384, R386 without a debugger, R388, R59, the check of R385, and FTIME (R341). -/
def Obligations.SoftwareTrapsAndEncodingTrapsTakeTheirCause : Prop :=
  ∀ s : State,
  (∀ o, (s.w.parts o.h = 0 → WarpStep (exec (.trap o) s) s s.w (s.w.pc + 12) o.h.sw) ∧
    (s.w.parts o.h ≠ 0 → exec (.trap o) s = .next (s.enter (0x300 + o.n.setWidth 10) (s.w.parts o.h) 0 (o.n.setWidth 64)))) ∧
  (∀ o, (s.w.parts o.h = 0 → WarpStep (exec (.bkpt o) s) s s.w (s.w.pc + 8) o.h.sw) ∧
    (s.w.parts o.h ≠ 0 → (s.ctx s.w.ctx).dbgRight.getLsbD 1 = false ∨ s.w.ctx ∈ s.revokes →
      exec (.bkpt o) s = .next (s.enter 0x2C0 (s.w.parts o.h) 0 (o.b.setWidth 64)))) ∧
  (∀ i : Illegal, TrapsWith (exec (.illegalEncoding i) s) s i.cause s.w.em) ∧
  (∀ i : Tool, ∀ out ∈ [exec (.tool64 i) s, exec (.tool96 i) s, exec (.tool128 i) s],
    ((s.ctx s.w.ctx).toolBase.getLsbD 0 = true → TrapsWith out s (0x2E0 + i.index.setWidth 10) s.w.em) ∧
    ((s.ctx s.w.ctx).toolBase.getLsbD 0 = false → TrapsWith out s 0x04B s.w.em)) ∧
  (∀ o, s.w.trapMode = false → TrapsWith (exec (.rett o) s) s 0x190 s.w.em) ∧
  (∀ o, ScalarResult (exec (.ftime o) s) s o.h o.d 8 (fun x =>
    x = if o.epoch = true then s.epochs.setWidth 64 else s.ft &&& ~~~(0x3F : DWord)))

/-- R385. -/
def Obligations.RettRestoresThePath : Prop :=
  ∀ (s : State) (o : RetT), s.w.trapMode = true → (s.w.depth ≤ s.w.trap.tb.toNat ∨ s.w.depth = s.w.stack.length) →
    s.w.stack.length ≤ 32 → s.w.watch = none →
    ∃ t, exec (.rett o) s = .next t ∧ OnlyWarp s t ∧
      t.w.body = ({ s.w with trapMode := false, em := s.w.trap.em &&& ~~~s.w.exited, cj := s.w.trap.cj, spin := s.w.trap.spin,
                             stack := if s.w.depth ≤ s.w.trap.tb.toNat then s.w.stack
                               else s.w.stack.drop (s.w.stack.length - s.w.trap.tb.toNat),
                             depth := min s.w.depth s.w.trap.tb.toNat, trapWatch := none,
                             watch := if o.next = true ∨ s.w.trap.len = 0 then none else s.w.trapWatch } : Warp).body ∧
      t.w.pc = s.w.trap.pc + (if o.next = true then s.w.trap.len.setWidth 64 else 0) ∧
      t.w.done = (if o.next = true ∨ s.w.trap.len = 0 then 0 else s.w.trap.done) ∧
      t.w.stat = (if o.sw = true ∧ s.w.pending ≠ [] then WStat.parked else WStat.ready)

/-- R344, and R386 with R389. -/
def Obligations.HaltAndAttachedBreakpointStopTheContext : Prop :=
  ∀ s : State,
  (∀ h, (s.w.parts h = 0 → WarpStep (exec (.halt h) s) s s.w (s.w.pc + 8) h.sw) ∧
    (s.w.parts h ≠ 0 → ∃ t, exec (.halt h) s = .next t ∧ t.w.pc = s.w.pc + 8 ∧ t.w.stat = .halted ∧ t.w.trapMode = s.w.trapMode ∧
      t.w.em = s.w.em ∧ (∀ r, t.w.s r = s.w.s r) ∧ (∀ r i, t.w.v r i = s.w.v r i) ∧
      StopsContext s t ∧ Reports s t 2 0x382 s.w.pc (s.w.parts h))) ∧
  (∀ o, s.w.parts o.h ≠ 0 → (s.ctx s.w.ctx).dbgRight.getLsbD 1 = true → s.w.ctx ∉ s.revokes → ∃ t, exec (.bkpt o) s = .next t ∧
    t.w.pc = s.w.pc + 8 ∧ t.w.stat = .halted ∧ t.w.trapMode = s.w.trapMode ∧ t.w.em = s.w.em ∧ (∀ r, t.w.s r = s.w.s r) ∧
    (∀ r i, t.w.v r i = s.w.v r i) ∧
    (s.w.trapMode = true → t.w.trap = s.w.trap) ∧ (s.w.trapMode = false → MapOf t.w.trap s 0x2C0 (s.w.parts o.h) 0 (o.b.setWidth 64)) ∧
    StopsContext s t ∧ Reports s t 2 0x2C0 s.w.pc (s.w.parts o.h))

/-- R342 and R343. Which copies an acquire at `.package` drops is the model's reading (log entry 70). -/
def Obligations.SystemCallWaitsRecordsAndReturns : Prop :=
  ∀ s : State,
  (∀ o, (s.w.parts o.h = 0 → WarpStep (exec (.sysc o) s) s s.w (s.w.pc + 12) o.h.sw) ∧
    (s.w.parts o.h ≠ 0 → ∃ t, exec (.sysc o) s = .next t ∧ { t with warps := s.warps, syscQ := s.syscQ } = s ∧
      (∀ k, k ≠ s.cur → t.warp k = s.warp k) ∧ t.w.pc = s.w.pc + 12 ∧ t.w.stat = .parked ∧
      (∀ r, t.w.s r = s.w.s r) ∧ (∀ r i, t.w.v r i = s.w.v r i) ∧ t.w.em = s.w.em ∧
      (if s.w.pending ≠ [] ∨ s.workOpen = true then t.w.reason = 20 ∧ t.syscQ = s.syscQ
       else if 4096 ≤ s.syscQ.length then t.w.reason = 21 ∧ t.syscQ = s.syscQ
       else t.w.reason = 22 ∧ ∃ r : SyscRec, t.syscQ = s.syscQ ++ [r] ∧ r.service = o.service ∧ r.ctx = s.w.ctx ∧
         r.gen = (s.ctx s.w.ctx).gen ∧ r.core = coreOf s.cur ∧ r.slot = slotOf s.cur ∧ r.ft = s.ft &&& ~~~(0x3F : DWord) ∧
         r.args = [s.w.s 2, s.w.s 3, s.w.s 4, s.w.s 5, s.w.s 6, s.w.s 7, s.w.s 8, s.w.s 9, s.w.s 10, s.w.s 11, s.w.s 12,
           s.w.s 13, s.w.s 14, s.w.s 15]))) ∧
  (∀ i : SyscReply, i.gen ≠ s.genNow i.ctx → exec (.syscReply i) s = .next s) ∧
  (∀ i : SyscReply, i.gen = s.genNow i.ctx → s.savedOn i.ctx i.core = false →
    let k := i.core * 16 + i.slot
    let w := s.warp k
    (w.ctx = i.ctx ∧ w.stat = .parked ∧ w.reason = 22 → ∃ t, exec (.syscReply i) s = .next t ∧ { t with warps := s.warps, dies := s.dies } = s ∧
      (∀ d, d ≠ dieOf i.core → t.die d = s.die d) ∧
      (∀ e ∈ (t.die (dieOf i.core)).copies, ∀ x, e.2 = some (i.ctx, x) → e.1 / 2 ^ 40 ≠ s.peer.toNat) ∧
      (∀ n, n ≠ k → t.warp n = s.warp n) ∧ (t.warp k).pc = w.pc ∧ (t.warp k).s 2 = i.s2 ∧ (t.warp k).s 3 = i.s3 ∧
      (∀ r, r ≠ 2 → r ≠ 3 → (t.warp k).s r = w.s r) ∧ (∀ r n, (t.warp k).v r n = w.v r n) ∧ (w.pending = [] → (t.warp k).stat = .ready)) ∧
    (¬(w.ctx = i.ctx ∧ (w.stat = .parked ∨ w.stat = .halted) ∧ w.reason = 22) → exec (.syscReply i) s = .next s))

/-- R69 to R71, R379 and R387. That 0x083, 0x101 and 0x102 record the participating lanes is the model's choice (log entry 73). -/
def Obligations.ControlRegistersReadAndWriteByTheirRights : Prop :=
  let row := fun (n : Nat) (u p : Nat) (bits : DWord) => (n, u, p, bits)
  let map : List (Nat × Nat × Nat × DWord) :=
    [row 0x000 2 2 0x1F, row 0x001 2 2 0x1F, row 0x002 2 2 1, row 0x003 1 2 (~~~2), row 0x004 1 2 0x000FFFFFFFFFF001,
     row 0x008 2 2 0xFFFF, row 0x010 1 2 (~~~0x1E), row 0x011 1 2 (~~~0x1E), row 0x020 1 1 0, row 0x021 1 1 0,
     row 0x030 0 2 0xFFFF, row 0x031 0 2 0xFFFFFFFF, row 0x038 0 2 0xFFFF, row 0x040 2 2 0x00FDFFFFFFFFFFFF, row 0x100 1 1 0,
     row 0x101 1 2 3, row 0x102 0 2 0x00000FFF00000001] ++
    (List.range 10).map (fun k => row (0x012 + k) 1 1 0) ++ (List.range 8).map (fun k => row (0x041 + k) 1 2 (~~~0))
  ∀ s : State,
    let right := fun (e : Nat × Nat × Nat × DWord) => if s.w.ctx = 0 then e.2.2.1 else e.2.1
    (∀ o : CsrR, (s.w.parts o.h = 0 → WarpStep (exec (.csrr o) s) s s.w (s.w.pc + 12) o.h.sw) ∧
      (s.w.parts o.h ≠ 0 →
        ((∀ e ∈ map, e.1 ≠ o.csr.toNat) → TrapsWith (exec (.csrr o) s) s 0x083 (s.w.parts o.h)) ∧
        (∀ e ∈ map, e.1 = o.csr.toNat → right e = 0 → TrapsWith (exec (.csrr o) s) s 0x101 (s.w.parts o.h)) ∧
        (∀ e ∈ map, e.1 = o.csr.toNat → right e ≠ 0 →
          ScalarResult (exec (.csrr o) s) s o.h o.d 12 (fun x => x = s.csr o.csr.toNat)))) ∧
    (∀ o : CsrW,
      let v := s.w.s o.a.toNat
      (s.w.parts o.h = 0 → WarpStep (exec (.csrw o) s) s s.w (s.w.pc + 12) o.h.sw) ∧
      (s.w.parts o.h ≠ 0 →
        ((∀ e ∈ map, e.1 ≠ o.csr.toNat) → TrapsWith (exec (.csrw o) s) s 0x083 (s.w.parts o.h)) ∧
        (∀ e ∈ map, e.1 = o.csr.toNat →
          (right e = 0 → TrapsWith (exec (.csrw o) s) s 0x101 (s.w.parts o.h)) ∧
          (right e = 1 → TrapsWith (exec (.csrw o) s) s 0x102 (s.w.parts o.h)) ∧
          (right e = 2 → ∃ t, exec (.csrw o) s = .next t ∧
            (e.1 = 0x101 → v.getLsbD 0 = true → t.csr 0x101 = v &&& 3) ∧
            (e.1 = 0x101 → v.getLsbD 0 = false → (s.csr 0x101).getLsbD 0 = false ∨ (s.dbgBusy = false ∧ s.revokes = []) →
              t.csr 0x101 = 0) ∧
            (e.1 = 0x101 → v.getLsbD 0 = false → (s.csr 0x101).getLsbD 0 = true → s.dbgBusy = true →
              t.csr 0x101 = s.csr 0x101 ∧ s.w.ctx ∈ t.revokes) ∧
            (e.1 = 0x102 → t.csr 0x102 = (v &&& e.2.2.2) ||| (if s.myCore.active = true then 2 else 0)) ∧
            (e.1 ≠ 0x101 → e.1 ≠ 0x102 → t.csr e.1 = v &&& e.2.2.2) ∧
            (e.1 ≠ 0x101 → t.w.At (s.w.pc + 12) o.h.sw ∧ KeepsV s t ∧ KeepsS s t ∧ KeepsP s t ∧ t.mem = s.mem ∧
              (∀ k, k ≠ s.cur → t.warp k = s.warp k) ∧ ∀ e' ∈ map, e'.1 ≠ e.1 → t.csr e'.1 = s.csr e'.1))))) ∧
    (let m := s.w.trap;
      (s.csr 0x012).extractLsb' 0 10 = m.cause ∧ (s.csr 0x012).extractLsb' 16 8 = m.len ∧ (s.csr 0x012).getLsbD 63 = m.valid ∧
      s.csr 0x013 = m.pc ∧ s.csr 0x014 = m.flm ++ m.em ∧ s.csr 0x015 = m.exited ++ m.done ∧ s.csr 0x016 = m.addr ∧
      s.csr 0x017 = m.cj ∧ s.csr 0x018 = m.instLo ∧ s.csr 0x019 = m.instHi ∧ s.csr 0x01A = m.ft ∧
      (s.csr 0x01B).extractLsb' 0 9 = m.tb ∧ (s.csr 0x01B).extractLsb' 9 7 = m.spin)

/-- R390, R393 and R395: under conditions on the state and the operands alone each answers the next state that its rule gives. Commands
that wait for a switch are log entry 48, the one record of a stop is 34, and rows that write the fields are 66. -/
def Obligations.DebuggerCommandsActOnlyWithTheRight : Prop :=
  ∀ s : State,
  let granted := fun (c : CtxId) => (s.ctx c).dbgRight.getLsbD 0 = true
  let free := fun (c : CtxId) => granted c ∧ s.dbgBusy = false
  let bits : BitVec 128 := 0x00007FFFFFFFFFFF0000FFFFFFFFFFFF
  let target := fun (v : BitVec 128) => (v &&& bits).extractLsb' 96 12
  let asks := fun (t : State) (c : CtxId) => (t.reg 0x6800).extractLsb' 32 12 = c
  let names := fun (t : State) (c : CtxId) (core : BitVec 8) (slot : BitVec 4) =>
    asks t c ∧ (t.reg 0x6800).extractLsb' 44 8 = core ∧ (t.reg 0x6800).extractLsb' 52 4 = slot
  -- WATCH_WRITE
  (∀ i : WatchWrite, (¬granted (target i.val) → exec (.watchWrite i) s = .next s) ∧
    (granted (target i.val) → exec (.watchWrite i) s = .next { s with watches := Tab.set 0 s.watches i.k.toNat (i.val &&& bits) })) ∧
  -- without the right, or behind a command in progress
  (∀ c, ¬free c → exec (.dbgStop c) s = .next s ∧ exec (.dbgSave c) s = .next s ∧ exec (.dbgRestore c) s = .next s) ∧
  (∀ i : DbgWarp, ¬free i.ctx → exec (.dbgStep i) s = .next s) ∧
  (∀ i : DbgWmode, ¬free i.ctx → exec (.dbgSetWmode i) s = .next s) ∧
  -- DBG_STOP
  (∀ c, free c → ∃ t, exec (.dbgStop c) s = .next t ∧ asks t c ∧
    ((s.ctx c).state ≠ .running → { t with win := s.win } = s) ∧
    ((s.ctx c).state = .running → (t.ctx c).state = .stopped) ∧
    ((s.ctx c).state = .running → Tab.rising none s.warps = true → (∀ k, (s.warp k).ctx ≠ c → t.warp k = s.warp k) ∧
      (∀ k, (s.warp k).ctx = c → (s.warp k).stat = .ready ∨ (s.warp k).stat = .parked → (t.warp k).stat = .halted) ∧
      ∃ r : FaultRec, t.faultQ ++ t.faultHeld = s.faultQ ++ s.faultHeld ++ [r] ∧ r.kind = 2 ∧ r.cause = 0x2C4 ∧ r.ctx = c)) ∧
  -- DBG_SAVE and DBG_RESTORE
  (∀ c, free c → s.switch = none →
    (∃ t, exec (.dbgSave c) s = .next t ∧ asks t c ∧ { t with switch := s.switch, win := s.win } = s ∧
      ((s.ctx c).state = .stopped → ∃ w, t.switch = some w ∧ w.src = some c ∧ w.dst = none ∧ w.phase = 0)) ∧
    (∃ t, exec (.dbgRestore c) s = .next t ∧ asks t c ∧ { t with switch := s.switch, win := s.win } = s ∧
      ((s.ctx c).state = .saved → s.headerValid c = true → (s.num (s.areaOf c) 8).testBit 33 = true →
        ∃ w, t.switch = some w ∧ w.dst = some c ∧ w.phase = 0))) ∧
  (∀ c, free c → s.switch ≠ none →
    (∃ t, exec (.dbgSave c) s = .next t ∧ asks t c ∧ t.heldCmds = s.heldCmds ++ [.dbgSave c] ∧
      { t with heldCmds := s.heldCmds, win := s.win } = s) ∧
    (∃ t, exec (.dbgRestore c) s = .next t ∧ asks t c ∧ t.heldCmds = s.heldCmds ++ [.dbgRestore c] ∧
      { t with heldCmds := s.heldCmds, win := s.win } = s)) ∧
  -- DBG_STEP
  (∀ i : DbgWarp, free i.ctx → let k := i.core.toNat * 16 + i.slot.toNat
    ∃ t, exec (.dbgStep i) s = .next t ∧ names t i.ctx i.core i.slot ∧ (∀ n, n ≠ k → t.warp n = s.warp n) ∧
      ((s.ctx i.ctx).state = .stopped → (s.warp k).ctx = i.ctx → (s.warp k).stat = .halted →
        (t.warp k).stepping = true ∧ (t.warp k).stat ≠ .halted ∧ (t.warp k).pc = (s.warp k).pc)) ∧
  -- DBG_SET_WMODE
  (∀ (i : DbgWmode) (n : Nat), free i.ctx → s.savedOn i.ctx i.core.toNat = false →
    s.teamOfSlot i.core.toNat i.slot.toNat = some n → (s.team n).ctx = i.ctx → ∃ t, exec (.dbgSetWmode i) s = .next t ∧
      names t i.ctx i.core i.slot ∧ (t.reg 0x6800).extractLsb' 56 5 = i.bar ∧ (t.reg 0x6800).extractLsb' 61 2 = i.wmode ∧
      t.bar n i.bar.toNat = { s.bar n i.bar.toNat with wmode := i.wmode } ∧
      (∀ m b, b ≠ i.bar.toNat ∨ (b < 16 ∧ m ≠ n) → t.bar m b = s.bar m b) ∧
      t.warps = s.warps ∧ t.mem = s.mem) ∧
  -- DEBUG_REVOKE
  (∀ c, (¬granted c → exec (.debugRevoke c) s = .next s) ∧
    (free c → s.revokes = [] → ∃ t, exec (.debugRevoke c) s = .next t ∧ (t.ctx c).dbgRight = 0 ∧ t.revokes = [] ∧
      ∀ n, (Tab.get 0 t.watches n).extractLsb' 96 12 = c → (Tab.get 0 t.watches n).extractLsb' 108 3 = 0) ∧
    (granted c → s.dbgBusy = true → s.revokes = [] → exec (.debugRevoke c) s = .next { s with revokes := [c] }))

/-- R169 to R176 and R299. -/
def Obligations.GlobalLoadsAndStoresMoveTheirBytes : Prop :=
  ∀ s : State, s.Unheld → s.Unwatched →
  let loads := fun (out : Out) (h : Hdr) (m : MemOp) (d : RegNo) (sz : Size) (sx gc : Bool) =>
    let cached := fun (tr : Trans) (a : Nat) (b : Byte) =>
      ((tr.copies = true ∨ (gc = true ∧ s.myTeam.roc ≠ 0)) ∧ ∃ n, s.copyByte s.peer a = some (b, n)) ∨
      (gc = true ∧ s.myTeam.roc ≠ 0 ∧ (Tab.get [] s.myTeam.rocLines (a / 128)).getD (a % 128) 0 = b)
    let whole := ∀ n, Tab.get [] s.myTeam.rocLines n ≠ [] → (Tab.get [] s.myTeam.rocLines n).length = 128
    (∀ i, i < 32 → (s.w.parts h).getLsbD i = true → s.Here wantR i (s.w.ea m i) sz.bytes) →
    ∃ t, AccessStep out s t 16 h.sw ∧ t.mem = s.mem ∧ t.cores = s.cores ∧
      LongResult s t (s.w.parts h) (fun ws => whole → Delivers ws (s.w.parts h) d sz sx (fun i k b => ∃ tr a,
        s.byteOfAccess wantR i (s.w.ea m i) sz.bytes k = some (tr, a) ∧ (b = s.byte a ∨ cached tr a b)))
  (∀ i : Load, loads (exec (.ld i) s) i.h i.m i.d i.size i.sx (i.space == .gc)) ∧
  (∀ i : VAt, (s.w.s i.b.toNat).toNat ≤ s.now.toNat → loads (exec (.vat i) s) i.h i.m i.d i.size i.sx false) ∧
  (∀ i : Store, s.w.stored = [] →
    (∀ n, n < 32 → (s.w.parts i.h).getLsbD n = true → s.Here wantW n (s.w.ea i.m n) i.size.bytes) →
    ∃ t, AccessStep (exec (.st i) s) s t 16 i.h.sw ∧ t.w.pending = s.w.pending ∧ t.cores = s.cores ∧
      LaneOrder (s.w.parts i.h) (fun n (x y : Nat → Byte) =>
        (∀ a, (∀ k, k < i.size.bytes → ¬s.Stands wantW n (s.w.ea i.m n) i.size.bytes k a) → y a = x a) ∧
        ∀ k a, k < i.size.bytes → s.Stands wantW n (s.w.ea i.m n) i.size.bytes k a →
          y a = byteOf (s.w.v (i.a.toNat + k / 4) n) (k % 4)) s.byte t.byte)

/-- R155, R166 and R176; SPILL and FILL act on all 32 lanes (R77). The route of cause 0x0C2 is the model's reading (log entry 17). -/
def Obligations.FaultingLanesMakeTheWarpReplayable : Prop :=
  ∀ s : State, s.Unheld → s.Unwatched →
  (∀ (h : Hdr) i, (s.w.parts h).getLsbD i = true → s.w.done.getLsbD i = false) ∧
  let faults := fun (out : Out) (h : Hdr) (m : MemOp) (want : Want) (n : Nat) =>
    let bad := fun i => ∃ f, s.transParts s.w.ctx s.myDie want i (s.w.ea m i) (partsOf (s.w.ea m i) n) = .error f
    (∃ i, i < 32 ∧ (s.w.parts h).getLsbD i = true ∧ bad i) →
    (∀ i, i < 32 → (s.w.parts h).getLsbD i = true →
      (s.w.ea m i).toNat + n ≤ 2 ^ 48 ∧ (bad i ∨ s.Here want i (s.w.ea m i) n)) →
    ∃ t, out = .next t ∧ t.w.stat = .replayable ∧ t.w.pc = s.w.pc ∧ t.w.waiting = 0 ∧ t.w.records ≠ [] ∧
      (∀ i, i < 32 → (t.w.done.getLsbD i = true ↔
        s.w.done.getLsbD i = true ∨ ((s.w.parts h).getLsbD i = true ∧ ¬bad i))) ∧
      (s.w.trapMode = false → ∃ k f fs, s.transParts s.w.ctx s.myDie want k (s.w.ea m k) (partsOf (s.w.ea m k) n) = .error (f :: fs) ∧
        k < 32 ∧ (s.w.parts h).getLsbD k = true ∧ (∀ i, i < k → (s.w.parts h).getLsbD i = true → ¬bad i) ∧
        t.w.trap.done = t.w.done ∧ MapOf { t.w.trap with done := 0 } s f.cause t.w.trap.flm 0 (s.w.ea m k) ∧
        ∀ i, i < 32 → (t.w.trap.flm.getLsbD i = true ↔ (s.w.parts h).getLsbD i = true ∧ bad i))
  let beyond := fun (out : Out) (h : Hdr) (m : MemOp) (n : Nat) =>
    let bad := fun i => (s.w.parts h).getLsbD i = true ∧ 2 ^ 48 < (s.w.ea m i).toNat + n
    (∃ i, i < 32 ∧ bad i) →
    ∃ t, out = .next t ∧ t.w.stat = .replayable ∧ t.w.pc = s.w.pc ∧ t.w.waiting = 0 ∧ t.w.done = s.w.done ∧ t.w.records ≠ [] ∧
      (s.w.trapMode = false → ∃ k, k < 32 ∧ bad k ∧ (∀ i, i < k → ¬bad i) ∧ t.w.trap.done = s.w.done ∧
        MapOf { t.w.trap with done := 0 } s 0x0C2 t.w.trap.flm 0 (s.w.ea m k) ∧
        ∀ i, i < 32 → (t.w.trap.flm.getLsbD i = true ↔ bad i))
  let slot := fun (out : Out) (want : Want) (e : DWord) =>
    e.toNat % 4 = 0 → e.toNat + 132 ≤ 2 ^ 48 → s.w.done ≠ fullMask →
    ∀ f fs, s.transParts s.w.ctx s.myDie want 0 e (partsOf e 132) = .error (f :: fs) →
      ∃ t, out = .next t ∧ t.w.stat = .replayable ∧ t.w.pc = s.w.pc ∧ t.w.waiting = 0 ∧ t.w.done = 0 ∧ t.w.records ≠ [] ∧
        (s.w.trapMode = false → MapOf t.w.trap s f.cause fullMask 0 e)
  let plain := fun (h : Hdr) (m : MemOp) (n : Nat) => ∀ i, i < 32 → (s.w.parts h).getLsbD i = true →
    (s.w.ea m i).toNat % n = 0 ∧ s.versionedAt i (s.w.ea m i) = false
  let both := fun (out : Out) (h : Hdr) (m : MemOp) (want : Want) (n : Nat) => faults out h m want n ∧ beyond out h m n
  (∀ i : Load, both (exec (.ld i) s) i.h i.m wantR i.size.bytes) ∧
  (∀ i : Store, both (exec (.st i) s) i.h i.m wantW i.size.bytes) ∧
  (∀ i : Atom, i.sp = false → plain i.h i.m (if i.wide = true then 8 else 4) →
    both (exec (.atom i) s) i.h i.m wantRW (if i.wide = true then 8 else 4)) ∧
  (∀ i : AtomR, i.sp = false → plain i.h i.m (if i.wide = true then 8 else 4) →
    both (exec (.atomr i) s) i.h i.m wantRW (if i.wide = true then 8 else 4)) ∧
  (∀ i : Promote, i.sp = false → s.w.promotes = [] → plain i.h i.m (if i.wide = true then 8 else 4) →
    both (exec (.promote i) s) i.h i.m wantR (if i.wide = true then 8 else 4)) ∧
  (∀ i : Spill, i.sp = false → slot (exec (.spill i) s) wantW (s.w.s i.b.toNat + sx64 i.off)) ∧
  (∀ i : Fill, i.sp = false → slot (exec (.fill i) s) wantR (s.w.s i.b.toNat + sx64 i.off))

/-- R170, R173, R175, R177 and R178. -/
def Obligations.ScratchpadInstructionsActOnTheirOffsets : Prop :=
  ∀ s : State, s.Unheld → s.w.watch = none →
  let part := fun (h : Hdr) (i : Nat) => i < 32 ∧ (s.w.parts h).getLsbD i = true
  let fits := fun (h : Hdr) (m : MemOp) (n k : Nat) (aligned : Bool) => s.spTeam m.core = some k ∧
    ∀ i, part h i → (s.w.ea m i).toNat + n ≤ (s.team k).size ∧ (aligned = true → (s.w.ea m i).toNat % n = 0)
  let at_ := fun (m : MemOp) (k i : Nat) => (s.team k).base + (s.w.ea m i).toNat
  let others := fun (t : State) (k : Nat) => t.mem = s.mem ∧ (∀ c, c ≠ coreOf k → t.core c = s.core c) ∧
    { t.core (coreOf k) with scratch := (s.core (coreOf k)).scratch, full := (s.core (coreOf k)).full } = s.core (coreOf k)
  let fe := fun (out : Out) (h : Hdr) (m : MemOp) (d : RegNo) (ready : Bool → Bool)
      (after : Nat → Bool → Word → Bool × Word) (result : Bool → Word → Option Word) =>
    ∀ k, fits h m 4 k true → s.w.parts h ≠ 0 →
      let word := fun (x : (Nat → Byte) × (Nat → Bool)) (i : Nat) => BitVec.ofNat 32 (natLE ((List.range 4).map (fun b => x.1 (at_ m k i + b))))
      let bit := fun (x : (Nat → Byte) × (Nat → Bool)) (i : Nat) => x.2 (at_ m k i / 4)
      ∃ t ran ws, out = .next t ∧ others t k ∧ (∀ n, n ≠ s.cur → t.warp n = s.warp n) ∧
        { t.w with pending := s.w.pending, fence := s.w.fence, since := s.w.since, waited := s.w.waited,
                   limit := s.w.limit, stalls := s.w.stalls }.body = s.w.body ∧
        LaneOrder (s.w.parts h) (fun i (x y : (Nat → Byte) × (Nat → Bool)) =>
          if ready (bit x i) = true then
            (BitVec.getLsbD ran i = true ∧ y.2 (at_ m k i / 4) = (after i (bit x i) (word x i)).1 ∧
              (∀ n, n ≠ at_ m k i / 4 → y.2 n = x.2 n) ∧
              (∀ b, b < 4 → y.1 (at_ m k i + b) = byteOf (after i (bit x i) (word x i)).2 b) ∧
              (∀ a, (a < at_ m k i ∨ at_ m k i + 4 ≤ a) → y.1 a = x.1 a) ∧
              ∀ v, (d.toNat * 32 + i, v) ∈ ws ↔ result (bit x i) (word x i) = some v)
          else BitVec.getLsbD ran i = false ∧ y = x) (s.spByte (coreOf k), s.spFull (coreOf k)) (t.spByte (coreOf k), t.spFull (coreOf k)) ∧
        (∃ id, t.w.pending = s.w.pending ++ if ws = [] then [] else [⟨id, ran, .value ws []⟩]) ∧
        (if ran = s.w.parts h then t.w.At (s.w.pc + 16) h.sw
         else t.w.pc = s.w.pc ∧ t.w.stat = .parked ∧ t.w.reason = 5 ∧ t.w.done = s.w.done ||| ran ∧
           t.w.waiting = s.w.parts h &&& ~~~ran)
  (∀ (i : Load) (k : Nat), fits i.h i.m i.size.bytes k false →
    ∃ t, AccessStep (exec (.lds i) s) s t 16 i.h.sw ∧ t.mem = s.mem ∧ t.cores = s.cores ∧
      LongResult s t (s.w.parts i.h) (fun ws => Delivers ws (s.w.parts i.h) i.d i.size i.sx (fun n b x =>
        x = s.spByte (coreOf k) (at_ i.m k n + b)))) ∧
  (∀ (i : Store) (k : Nat), fits i.h i.m i.size.bytes k false →
    ∃ t, AccessStep (exec (.sts i) s) s t 16 i.h.sw ∧ t.w.pending = s.w.pending ∧ others t k ∧
      (∀ n, t.spFull (coreOf k) n = s.spFull (coreOf k) n) ∧
      LaneOrder (s.w.parts i.h) (fun n (x y : Nat → Byte) => ∀ a, y a =
        if at_ i.m k n ≤ a ∧ a < at_ i.m k n + i.size.bytes then
          byteOf (s.w.v (i.a.toNat + (a - at_ i.m k n) / 4) n) ((a - at_ i.m k n) % 4)
        else x a) (s.spByte (coreOf k)) (t.spByte (coreOf k))) ∧
  (∀ i : Load, fe (exec (.ldfe i) s) i.h i.m i.d (fun f => f) (fun _ _ w => (false, w)) (fun _ w => some w)) ∧
  (∀ i : Load, fe (exec (.ldff i) s) i.h i.m i.d (fun f => f) (fun _ f w => (f, w)) (fun _ w => some w)) ∧
  (∀ i : Store, fe (exec (.stef i) s) i.h i.m 0 (fun f => !f) (fun n _ _ => (true, s.w.v i.a.toNat n)) (fun _ _ => none)) ∧
  (∀ i : Store, fe (exec (.stf i) s) i.h i.m 0 (fun _ => true) (fun n _ _ => (true, s.w.v i.a.toNat n)) (fun _ _ => none)) ∧
  (∀ i : FeSet, fe (exec (.fest i) s) i.h i.m 0 (fun _ => true) (fun _ _ w => (i.full, w)) (fun _ _ => none)) ∧
  (∀ i : Load, fe (exec (.feq i) s) i.h i.m i.d (fun _ => true) (fun _ f w => (f, w)) (fun f _ => some (if f = true then 1 else 0))) ∧
  let traps := fun (out : Out) (h : Hdr) (m : MemOp) (n : Nat) (aligned : Bool) =>
    (∃ i, part h i) → (aligned = true → ∀ i, part h i → (s.w.ea m i).toNat % n = 0) →
    (s.spTeam m.core = none → ∃ a, out = .next ((s.passFence 0).enter 0x115 (s.w.parts h) 0 a)) ∧
    (∀ k i, s.spTeam m.core = some k → part h i → (s.team k).size < (s.w.ea m i).toNat + n →
      ∃ a, out = .next ((s.passFence 0).enter 0x114
        (maskOf (fun i => (s.w.parts h).getLsbD i && decide ((s.team k).size < (s.w.ea m i).toNat + n))) 0 a))
  (∀ i : Load, traps (exec (.lds i) s) i.h i.m i.size.bytes false ∧ traps (exec (.ldfe i) s) i.h i.m 4 true ∧
    traps (exec (.ldff i) s) i.h i.m 4 true ∧ traps (exec (.feq i) s) i.h i.m 4 true) ∧
  (∀ i : Store, traps (exec (.sts i) s) i.h i.m i.size.bytes false ∧ traps (exec (.stef i) s) i.h i.m 4 true ∧
    traps (exec (.stf i) s) i.h i.m 4 true) ∧
  (∀ i : FeSet, traps (exec (.fest i) s) i.h i.m 4 true) ∧
  (∀ i : Atom, i.sp = true → traps (exec (.atom i) s) i.h i.m (if i.wide = true then 8 else 4) true) ∧
  (∀ i : AtomR, i.sp = true → traps (exec (.atomr i) s) i.h i.m (if i.wide = true then 8 else 4) true) ∧
  (∀ i : Promote, i.sp = true → traps (exec (.promote i) s) i.h i.m (if i.wide = true then 8 else 4) true) ∧
  let slot := fun (out : Out) (e : DWord) => e.toNat % 4 = 0 → s.myTeam.size < e.toNat + 132 → s.w.done ≠ fullMask →
    out = .next ((s.passFence 0).enter 0x114 fullMask 0 e)
  (∀ i : Spill, i.sp = true → slot (exec (.spill i) s) (s.w.s i.b.toNat + sx64 i.off)) ∧
  (∀ i : Fill, i.sp = true → slot (exec (.fill i) s) (s.w.s i.b.toNat + sx64 i.off))

/-- R174, R180, R181 and R183. -/
def Obligations.AtomicsReplaceTheOldValueInLaneOrder : Prop :=
  ∀ s : State, s.Unheld → s.Unwatched →
  let acts := fun (out : Out) (h : Hdr) (m : MemOp) (aop : AOp) (sp wide : Bool) (d : Option RegNo) (a b : RegNo) =>
    let n := if wide = true then 8 else 4
    let src := fun (r : RegNo) (i : Nat) => if wide = true then (s.w.v64 r.toNat i).toNat else (s.w.v r.toNat i).toNat
    let part := fun (i : Nat) => i < 32 ∧ (s.w.parts h).getLsbD i = true
    let lane := fun (ws : List (Nat × Word)) (A : Nat → Nat) (i : Nat) (x y : Nat → Byte) => ∃ new,
      let old := natLE ((List.range n).map (fun k => x (A i + k)))
      AtomNew aop (8 * n) old (src a i) (src b i) new ∧
      (∀ k, k < n → y (A i + k) = BitVec.ofNat 8 (new / 2 ^ (8 * k))) ∧ (∀ c, (c < A i ∨ A i + n ≤ c) → y c = x c) ∧
      ∀ r, d = some r → ∀ k v, (k < n / 4 ∧ ((r.toNat + k) * 32 + i, v) ∈ ws) ↔ (k < n / 4 ∧ v = BitVec.ofNat 32 (old / 2 ^ (32 * k)))
    let result := fun (t : State) (ws : List (Nat × Word)) => ∃ id, t.w.pending = s.w.pending ++
      if d = none ∨ s.w.parts h = 0 then [] else [⟨id, s.w.parts h, .value ws []⟩]
    (sp = false → ∀ A : Nat → Nat, (∀ i, part i → (s.w.ea m i).toNat % n = 0 ∧ s.Here wantRW i (s.w.ea m i) n ∧
        s.Stands wantRW i (s.w.ea m i) n 0 (A i)) →
      ∃ t ws, AccessStep out s t 16 h.sw ∧ t.cores = s.cores ∧ result t ws ∧
        LaneOrder (s.w.parts h) (lane ws A) s.byte t.byte) ∧
    (sp = true → ∀ k, s.spTeam m.core = some k →
      (∀ i, part i → (s.w.ea m i).toNat % n = 0 ∧ (s.w.ea m i).toNat + n ≤ (s.team k).size) →
      ∃ t ws, AccessStep out s t 16 h.sw ∧ t.mem = s.mem ∧ result t ws ∧
        (∀ c, c ≠ coreOf k → t.core c = s.core c) ∧ (∀ x, t.spFull (coreOf k) x = s.spFull (coreOf k) x) ∧
        LaneOrder (s.w.parts h) (lane ws (fun i => (s.team k).base + (s.w.ea m i).toNat)) (s.spByte (coreOf k)) (t.spByte (coreOf k)))
  (∀ i : Atom, acts (exec (.atom i) s) i.h i.m i.aop i.sp i.wide none i.a i.b) ∧
  (∀ i : AtomR, acts (exec (.atomr i) s) i.h i.m i.aop i.sp i.wide (some i.d) i.a i.b)

/-- R172, R185, R193, R194, R199, R200, R370, R373, R374 and R375. Which copies an acquire drops is log entry 70, that a fence holds each path
by itself is 71, and the wait for band commands and copies is 56. -/
def Obligations.LinesAndFencesComplete : Prop :=
  ∀ s : State,
  let part := fun (h : Hdr) (i : Nat) => i < 32 ∧ (s.w.parts h).getLsbD i = true
  let passes := fun (out : Out) (t : State) (len : Nat) (sw : Bool) => AccessStep out s t len sw ∧ t.mem = s.mem ∧
    t.cores = s.cores ∧ t.w.pending = s.w.pending
  let dropped := fun (t : State) (sc : Scope) =>
    (sc = .clearing → ∀ p a, t.copyByte p a = none) ∧
    (sc = .die ∨ sc = .package → ∀ p a, (a < 2 ^ 40 ∧ p = s.peer) ∨ copyKey p a / 128 ∈ (s.die s.myDie).older → t.copyByte p a = none)
  let fences := fun (t : State) (o : MOrd) =>
    let rel := o = .rel ∨ o = .acqrel
    let bands := s.myBandIds
    let f := t.w.fence
    let old := s.w.fence
    (f.v = true ↔ old.v = true ∨ (rel ∧ s.pathOpen s.cur 0 = true)) ∧ (f.x = true ↔ old.x = true ∨ (rel ∧ s.pathOpen s.cur 3 = true)) ∧
    (f.vLoads = true ↔ old.vLoads = true ∨ s.w.loadAway = true) ∧ (f.xLoads = true ↔ old.xLoads = true ∨ s.w.ldredAway = true) ∧
    (f.vBand = true ↔ old.vBand = true ∨ (rel ∧ bands ≠ [])) ∧ (f.xBand = true ↔ old.xBand = true ∨ (rel ∧ bands ≠ [])) ∧
    f.bands = bands ∧ f.copies = s.copiesNow ∧ (t.w.relFence = true ↔ s.w.relFence = true ∨ rel)
  (∀ i : Line, ∃ t, passes (exec (.pfch i) s) t 16 i.h.sw ∧ t.w.fence = s.w.fence ∧
    { t with warps := s.warps, dies := s.dies, leases := s.leases, tlb := s.tlb, poisonHits := s.poisonHits } = s ∧
    (s.poison = [] → t.poisonHits = s.poisonHits)) ∧
  (∀ i : Line, s.w.watch = none →
    (∀ n, part i.h n → (s.w.ea i.m n).toNat < 2 ^ 48 ∧ ∃ a, s.Stands wantR n (s.w.ea i.m n) 1 0 a) →
    ∃ t, passes (exec (.cflush i) s) t 16 i.h.sw ∧ t.w.fence = s.w.fence ∧
      ∀ n tr a, part i.h n → s.byteOfAccess wantR n (s.w.ea i.m n) 1 0 = some (tr, a) → a < 2 ^ 40 →
        (∀ x, x / 128 = a / 128 → t.copyByte tr.peer x = none) ∧
        (tr.peer = s.peer → Tab.get [] t.myTeam.rocLines (a / 128) = [])) ∧
  (∀ i : Fence, ∃ t, exec (.fence i) s = .next t ∧ { t with warps := s.warps, dies := s.dies } = s ∧
    (∀ k, k ≠ s.cur → t.warp k = s.warp k) ∧
    { t.w with fence := s.w.fence, relFence := s.w.relFence, acqV := s.w.acqV, acqX := s.w.acqX }.body = s.w.body ∧
    t.w.At (s.w.pc + 8) i.h.sw ∧ t.w.pending = s.w.pending ∧
    (s.w.parts i.h = 0 → t.w.fence = s.w.fence ∧ t.w.relFence = s.w.relFence) ∧
    (s.w.parts i.h ≠ 0 → fences t i.ord ∧ (isAcq i.ord = true → dropped t i.scope))) ∧
  (∀ i : FenceP,
    (s.w.parts i.h = 0 ∨ s.fencepOpen i.eset = false → ∃ t, exec (.fencep i) s = .next t ∧
      { t with warps := s.warps, dies := s.dies } = s ∧ (∀ k, k ≠ s.cur → t.warp k = s.warp k) ∧
      { t.w with fence := s.w.fence, relFence := s.w.relFence }.body = s.w.body ∧ t.w.At (s.w.pc + 8) i.h.sw ∧
      (s.w.parts i.h ≠ 0 ∧ i.eset = 1 ∧ i.lset = 1 → fences t i.ord) ∧
      (¬(s.w.parts i.h ≠ 0 ∧ i.eset = 1 ∧ i.lset = 1) → t.w.fence = s.w.fence ∧ t.w.relFence = s.w.relFence) ∧
      (s.w.parts i.h ≠ 0 → isAcq i.ord = true → dropped t i.scope)) ∧
    (s.w.parts i.h ≠ 0 → s.fencepOpen i.eset = true → ∃ t, exec (.fencep i) s = .next t ∧ OnlyWarp s t ∧
      t.w.stat = .parked ∧ t.w.reason = 23 ∧ t.w.pc = s.w.pc + 8 ∧ KeepsV s t ∧ KeepsS s t ∧ KeepsP s t)) ∧
  (∀ i : Promote, s.Unheld → s.Unwatched → s.w.promotes = [] →
    let n := if i.wide = true then 8 else 4
    (i.sp = true → ∀ k, s.spTeam i.m.core = some k →
      (∀ l, part i.h l → (s.w.ea i.m l).toNat % n = 0 ∧ (s.w.ea i.m l).toNat + n ≤ (s.team k).size) →
      ∃ t, passes (exec (.promote i) s) t 16 i.h.sw) ∧
    (i.sp = false → (∀ l, part i.h l → (s.w.ea i.m l).toNat % n = 0 ∧ s.Here wantR l (s.w.ea i.m l) n) →
      ∃ t, passes (exec (.promote i) s) t 16 i.h.sw)) ∧
  (s.fenceHolds 0 = true →
    (∀ i, exec (.ld i) s = .next s.hold ∧ exec (.lds i) s = .next s.hold ∧ exec (.ldfe i) s = .next s.hold ∧
      exec (.ldff i) s = .next s.hold ∧ exec (.feq i) s = .next s.hold) ∧
    (∀ i, exec (.st i) s = .next s.hold ∧ exec (.sts i) s = .next s.hold ∧ exec (.stef i) s = .next s.hold ∧
      exec (.stf i) s = .next s.hold) ∧
    (∀ i, exec (.fest i) s = .next s.hold) ∧ (∀ i, exec (.vat i) s = .next s.hold) ∧
    (∀ i, exec (.promote i) s = .next s.hold) ∧ (∀ i, exec (.spill i) s = .next s.hold) ∧ (∀ i, exec (.fill i) s = .next s.hold) ∧
    (∀ i : Atom, i.sp = true → exec (.atom i) s = .next s.hold) ∧ (∀ i : AtomR, i.sp = true → exec (.atomr i) s = .next s.hold)) ∧
  (∀ i : AtomR, i.sp = false → s.w.parts i.h ≠ 0 → ∀ am : BitVec 2, s.fenceHolds (if am = 0 then 0 else 3) = true →
    let n := if i.wide = true then 8 else 4
    (∀ l, part i.h l → (s.w.ea i.m l).toNat % n = 0 ∧ s.Here wantRW l (s.w.ea i.m l) n ∧
      ∀ tr a, s.byteOfAccess wantRW l (s.w.ea i.m l) n 0 = some (tr, a) → tr.amode = am) →
    exec (.atomr i) s = .next s.hold ∧
      exec (.atom ⟨i.h, i.aop, i.sp, i.scope, i.ord, i.wide, i.a, i.b, i.m⟩) s = .next s.hold)

/-- R74 to R77. -/
def Obligations.SpillWritesTheSmallestFormAndFillReadsItBack : Prop :=
  ∀ s : State, s.Unheld → s.Unwatched → s.w.done ≠ fullMask →
  let e := fun (b : RegNo) (off : Word) => s.w.s b.toNat + off.signExtend 64
  let form := fun (raw : Bool) (v : Nat → Word) (x y : Nat → Byte) =>
    let d := fun i => (v i - v 0).toInt
    let fits := fun (lo hi : Int) => (List.range 32).all (fun i => decide (lo ≤ d i) && decide (d i ≤ hi))
    let f := if raw = true then 0 else if fits 0 0 = true then 1 else if fits (-128) 127 = true then 2
      else if fits (-32768) 32767 = true then 3 else 0
    y 128 = BitVec.ofNat 8 f ∧ (∀ k, 129 ≤ k → k < 132 → y k = 0) ∧
    (f = 0 → ∀ i k, i < 32 → k < 4 → y (4 * i + k) = byteOf (v i) k) ∧
    (f ≠ 0 → ∀ k, k < 4 → y k = byteOf (v 0) k) ∧
    (f = 2 → ∀ i, i < 32 → y (4 + i) = byteOf (v i - v 0) 0) ∧
    (f = 3 → ∀ i k, i < 32 → k < 2 → y (4 + 2 * i + k) = byteOf (v i - v 0) k) ∧
    ∀ k, [128, 4, 36, 68].getD f 0 ≤ k → k < 128 → y k = x k
  let value := fun (x : Nat → Byte) (i : Nat) (v : Word) =>
    let base := x 3 ++ x 2 ++ x 1 ++ x 0
    (x 128 = 0 → v = x (4 * i + 3) ++ x (4 * i + 2) ++ x (4 * i + 1) ++ x (4 * i)) ∧ (x 128 = 1 → v = base) ∧
    (x 128 = 2 → v = base + (x (4 + i)).signExtend 32) ∧
    (x 128 = 3 → v = base + (x (4 + 2 * i + 1) ++ x (4 + 2 * i)).signExtend 32)
  let filled := fun (out : Out) (i : Fill) (x : Nat → Byte) => ∃ t, AccessStep out s t 12 i.sw ∧ t.mem = s.mem ∧
    t.cores = s.cores ∧ LongResult s t fullMask (fun ws => ws.length = 32 ∧
      ∀ n, n < 32 → ∃ v, (i.d.toNat * 32 + n, v) ∈ ws ∧ value x n v)
  let own := (s.team s.w.team).base
  let core := coreOf s.w.team
  (∀ i : Spill,
    let va := e i.b i.off
    (va.toNat % 4 ≠ 0 → exec (.spill i) s = .next ((s.passFence 0).precise 0x085 fullMask va)) ∧
    (i.sp = true → va.toNat % 4 = 0 → s.myTeam.size < va.toNat + 132 →
      exec (.spill i) s = .next ((s.passFence 0).precise 0x114 fullMask va)) ∧
    (i.sp = false → va.toNat % 4 = 0 → 2 ^ 48 < va.toNat + 132 →
      exec (.spill i) s = .next ((s.passFence 0).precise 0x0C2 fullMask va)) ∧
    (i.sp = true → va.toNat % 4 = 0 → va.toNat + 132 ≤ s.myTeam.size →
      ∃ t, AccessStep (exec (.spill i) s) s t 12 i.sw ∧ t.w.pending = s.w.pending ∧ t.mem = s.mem ∧
        (∀ c, c ≠ core → t.core c = s.core c) ∧ (∀ n, t.spFull core n = s.spFull core n) ∧
        (∀ a, (a < own + va.toNat ∨ own + va.toNat + 132 ≤ a) → t.spByte core a = s.spByte core a) ∧
        form i.raw (fun l => s.w.v i.a.toNat l) (fun k => s.spByte core (own + va.toNat + k))
          (fun k => t.spByte core (own + va.toNat + k))) ∧
    (i.sp = false → s.w.stored = [] → va.toNat % 4 = 0 → s.Here wantW 0 va 132 → ∀ A : Nat → Nat, (∀ k, k < 132 → s.Stands wantW 0 va 132 k (A k)) →
      ∃ t, AccessStep (exec (.spill i) s) s t 12 i.sw ∧ t.w.pending = s.w.pending ∧ t.cores = s.cores ∧
        (∀ a, (∀ k, k < 132 → A k ≠ a) → t.byte a = s.byte a) ∧
        form i.raw (fun l => s.w.v i.a.toNat l) (fun k => s.byte (A k)) (fun k => t.byte (A k)))) ∧
  (∀ i : Fill,
    let va := e i.b i.off
    (va.toNat % 4 ≠ 0 → exec (.fill i) s = .next ((s.passFence 0).precise 0x085 fullMask va)) ∧
    (i.sp = true → va.toNat % 4 = 0 → s.myTeam.size < va.toNat + 132 →
      exec (.fill i) s = .next ((s.passFence 0).precise 0x114 fullMask va)) ∧
    (i.sp = false → va.toNat % 4 = 0 → 2 ^ 48 < va.toNat + 132 →
      exec (.fill i) s = .next ((s.passFence 0).precise 0x0C2 fullMask va)) ∧
    (i.sp = true → va.toNat % 4 = 0 → va.toNat + 132 ≤ s.myTeam.size →
      let x := fun k => s.spByte core (own + va.toNat + k)
      ((x 128).toNat ≤ 3 → filled (exec (.fill i) s) i x) ∧
      (3 < (x 128).toNat →
        exec (.fill i) s = .next ((s.passFence 0).precise 0x084 fullMask va))) ∧
    (i.sp = false → va.toNat % 4 = 0 → s.Here wantR 0 va 132 → (∀ a, s.copyByte s.peer a = none) →
      ∀ A : Nat → Nat, (∀ k, k < 132 → s.Stands wantR 0 va 132 k (A k)) →
      ((s.byte (A 128)).toNat ≤ 3 → filled (exec (.fill i) s) i (fun k => s.byte (A k))) ∧
      (3 < (s.byte (A 128)).toNat → ∃ u : State, exec (.fill i) s = .next (u.precise 0x084 fullMask va) ∧ u.mem = s.mem ∧
        u.cur = s.cur ∧ { u.w with counted := s.w.counted } = (s.passFence 0).w)))

/-- R157 to R160, R162 and R163. -/
def Obligations.AddressesTranslateByRangesThenTables : Prop :=
  ∀ (s : State) (c : CtxId) (die n : Nat) (want : Want) (va : DWord),
  let out := s.translate c die want n va
  (∀ e ∈ s.w.pins, e.1 ≠ va.toNat / 4096) →
  (va.extractLsb' 48 16 ≠ 0 → out = .error 0x0C2) ∧
  (va.extractLsb' 48 16 = 0 → s.cached c die va = [] →
    let ends := fun (e : DWord) (target : Nat) (ill : Prop) =>
      let own := e.extractLsb' 52 12 = s.peer
      let am := e.extractLsb' 50 2
      let bad := ill ∨ e.extractLsb' 40 7 ≠ 0 ∨ e.extractLsb' 8 4 ≠ 0 ∨ e.getLsbD 2 = true ∨ e.extractLsb' 48 2 = 3 ∨
        (am = 0 ∧ ¬own) ∨ (am ≠ 0 ∧ own ∧ target / 0x3000000000 = die) ∨ (e.getLsbD 47 = true ∧ am ≠ 0)
      let x110 := want.rd = true ∧ e.getLsbD 3 = false
      let x111 := want.wr = true ∧ e.getLsbD 4 = false
      let x112 := want.fx = true ∧ (e.getLsbD 5 = false ∨ am ≠ 0)
      let x113 := e.getLsbD 6 = true ∧ c ≠ 0
      (bad → out = .error 0x0C3) ∧
      (¬bad → ¬own → e.extractLsb' 52 12 ∉ s.clearing → out = .error 0x0C4) ∧
      (¬bad → own ∨ e.extractLsb' 52 12 ∈ s.clearing →
        (x110 → out = .error 0x110) ∧ (¬x110 → x111 → out = .error 0x111) ∧ (¬x110 → ¬x111 → x112 → out = .error 0x112) ∧
        (¬x110 → ¬x111 → ¬x112 → x113 → out = .error 0x113) ∧
        (¬x110 → ¬x111 → ¬x112 → ¬x113 → ∃ t, out = .ok t ∧ t.addr va = target ∧ t.peer = e.extractLsb' 52 12 ∧
          t.amode = am ∧ t.okind = e.extractLsb' 48 2 ∧ t.vers = e.getLsbD 47))
    let range := fun (k b : Nat) => s.dword ((s.ctx c).range.toNat + 32 * k + b)
    let covers := fun (k : Nat) => (range k 24).getLsbD 0 = true ∧ (range k 0).toNat ≤ va.toNat ∧ va.toNat ≤ (range k 8).toNat
    (∀ k, k < 64 → covers k → (∀ j, j < k → ¬covers j) →
      let target := va.toNat - (range k 0).toNat + (range k 16).toNat
      ends (range k 24) target ((range k 0).extractLsb' 0 12 ≠ 0 ∨ (range k 8).extractLsb' 0 12 ≠ 0xFFF ∨
        (range k 16).extractLsb' 0 12 ≠ 0 ∨ (range k 16).extractLsb' 40 24 ≠ 0 ∨ (range k 24).extractLsb' 12 28 ≠ 0 ∨
        (range k 24).getLsbD 1 = true ∨ (range k 24).getLsbD 7 = true ∨ 0xBFFFFFFFFF < target)) ∧
    ((∀ k, k < 64 → ¬covers k) → ∀ (table : Nat → Nat) (l : Nat), l ≤ 3 → table 3 = (s.ctx c).troot.toNat →
      let entry := fun (j : Nat) => s.dword (table j + 8 * (va.toNat / 2 ^ (12 + 9 * j) % 512))
      (∀ j, l < j → j ≤ 3 → (entry j).getLsbD 0 = true ∧ (entry j).getLsbD 1 = true ∧ (entry j).extractLsb' 40 24 = 0 ∧
        (entry j).extractLsb' 2 10 = 0 ∧ table (j - 1) = ((entry j).extractLsb' 12 28).toNat * 4096) →
      let e := entry l
      let size := if l = 0 then (if e.getLsbD 7 = true then 65536 else 4096) else if l = 1 then 2 ^ 21 else 2 ^ 30
      let pfn := (e.extractLsb' 12 28).toNat * 4096
      (e.getLsbD 0 = false → out = .error 0x0C1) ∧
      (e.getLsbD 0 = true → e.getLsbD 1 = true → (l = 0 ∨ e.extractLsb' 40 24 ≠ 0 ∨ e.extractLsb' 2 10 ≠ 0) → out = .error 0x0C3) ∧
      (e.getLsbD 0 = true → e.getLsbD 1 = false → ends e (pfn + va.toNat % size)
        (l = 3 ∨ (e.getLsbD 7 = true ∧ l ≠ 0) ∨ pfn % size ≠ 0 ∨ 0xC000000000 < pfn + size))))

/-- R138, R139 and R179. -/
def Obligations.LongResultsReturnByLane : Prop :=
  ∀ s : State,
  (∀ i : LoadResponse, (∀ p ∈ (s.warp i.warp).pending, p.id ≠ i.id) → exec (.loadResponse i) s = .next s) ∧
  (∀ (i : LoadResponse) (p : Pending) (ws : List (Nat × Word)), p ∈ (s.warp i.warp).pending → p.id = i.id →
    (∀ q ∈ (s.warp i.warp).pending, q.id = i.id → q = p) → p.kind = .value ws [] → (ws.map (·.1)).Nodup →
    let w := s.warp i.warp
    ∃ t, exec (.loadResponse i) s = .next t ∧ { t with warps := s.warps } = s ∧
      (∀ k, k ≠ i.warp → t.warp k = s.warp k) ∧
      { t.warp i.warp with vregs := w.vregs, pending := w.pending } = w ∧
      (∀ r n, n < 32 → (t.warp i.warp).v r n =
        if (i.lanes &&& p.lanes).getLsbD n = true then ((ws.find? (fun e => e.1 == r * 32 + n)).map (·.2)).getD (w.v r n)
        else w.v r n) ∧
      ∀ q : Pending, q.lanes ≠ 0 → (q ∈ (t.warp i.warp).pending ↔ (q ∈ w.pending ∧ q.id ≠ i.id) ∨
        q = { p with lanes := p.lanes &&& ~~~i.lanes })) ∧
  (∀ k,
    let w := s.warp k
    let due := w.stat = .parked ∧ (s.ctx w.ctx).state = .running ∧ w.reason = 5 ∧ w.limit ≠ 0 ∧
      w.limit.toNat * 64000 ≤ w.waited + (s.ft - w.since).toNat
    (¬due → exec (.feTimeoutExpiry k) s = .next s) ∧
    (due → ∃ a, exec (.feTimeoutExpiry k) s = .next (s.at k (fun s => (s.refetch 0).enter 0x188 w.waiting w.done a))))

/-- R134, R166, R380. -/
def Obligations.FaultRecordsAreAnsweredByTheHost : Prop :=
  ∀ s : State,
  (∀ i : FaultRef, (∀ r ∈ s.faultOpen, r.id ≠ i.id) →
    exec (.faultResolved i) s = .next s ∧ exec (.faultUnresolvable i) s = .next s) ∧
  (s.faultHeld = [] ∨ 4096 ≤ s.faultQ.length → exec .faultRecordEnqueue s = .next s) ∧
  (∀ r rs, s.faultHeld = r :: rs → s.faultQ.length < 4096 →
    exec .faultRecordEnqueue s = .next { s with faultQ := s.faultQ ++ [r], faultHeld := rs }) ∧
  (∀ (i : FaultRef) (r : FaultRec), s.faultOpen.find? (fun x => x.id == i.id) = some r → r.acc ≠ 4 →
    let k := r.core * 16 + r.slot
    let w := s.warp k
    r.slot < 16 → s.savedOn r.ctx r.core = false → w.ctx = r.ctx → w.stat = .replayable → (s.ctx w.ctx).state = .running →
    r.id ∈ w.records →
    (w.records = [r.id] → ∃ t, exec (.faultResolved i) s = .next t ∧ t.mem = s.mem ∧ (∀ n, n ≠ k → t.warp n = s.warp n) ∧
      t.warp k = { w with stat := .ready, reason := 0, records := [] } ∧ (∀ x, x ∈ t.faultOpen ↔ x ∈ s.faultOpen ∧ x.id ≠ i.id)) ∧
    (w.records.erase r.id ≠ [] → ∃ t, exec (.faultResolved i) s = .next t ∧ t.mem = s.mem ∧ (∀ n, n ≠ k → t.warp n = s.warp n) ∧
      t.warp k = { w with records := w.records.erase r.id }) ∧
    (w.trapMode = false → ∀ base : DWord,
      base = (if 0x2E0 ≤ r.cause.toNat ∧ r.cause.toNat ≤ 0x2EF then (s.ctx r.ctx).toolBase else (s.ctx r.ctx).trapBase) →
      base.getLsbD 0 = true → ∃ t, exec (.faultUnresolvable i) s = .next t ∧ t.mem = s.mem ∧ (∀ n, n ≠ k → t.warp n = s.warp n) ∧
        (t.warp k).stat = .ready ∧ (t.warp k).trapMode = true ∧ (t.warp k).pc = base &&& ~~~(0x1F : DWord) ∧
        (t.warp k).trap = { w.trap with cause := r.cause, ft := s.ft &&& ~~~(0x3F : DWord) } ∧
        (w.trap.flm ≠ 0 → (t.warp k).em = w.trap.flm) ∧ (t.warp k).records = [] ∧ (t.warp k).vregs = w.vregs ∧
        (t.warp k).sregs = w.sregs ∧ ∀ x ∈ t.faultOpen, ¬(x.ctx = r.ctx ∧ x.core = r.core ∧ x.slot = r.slot ∧ x.acc ≠ 4)))

/-- R201 to R204, R207 and R210; R395. -/
def Obligations.BarrierInstructionsActOnTheirObject : Prop :=
  ∀ s : State,
  let num := fun (a : RegNo) (imm : Word) => (s.w.s a.toNat + imm.signExtend 64).toNat
  let shared := fun (out : Out) (h : Hdr) (b : Nat) (body : Prop) =>
    (s.w.parts h = 0 → WarpStep out s s.w (s.w.pc + 12) h.sw) ∧
    (s.w.parts h ≠ 0 → 32 ≤ b → TrapsWith out s 0x189 (s.w.parts h)) ∧ (s.w.parts h ≠ 0 → b < 32 → body)
  let keeps := fun (t : State) (b : Nat) => KeepsV s t ∧ KeepsS s t ∧ KeepsP s t ∧
    ∀ c, c ≠ b → t.bar s.w.team c = s.bar s.w.team c
  let same := fun (t : State) (b : Nat) => t.mem = s.mem ∧ keeps t b
  let passes := fun (out : Out) (h : Hdr) (b : Nat) (o' : Barrier) (ar : Option (BitVec 16)) => ∃ t, out = .next t ∧
    t.w.At (s.w.pc + 12) h.sw ∧ same t b ∧ t.bar s.w.team b = o' ∧ t.w.arrival b = ar ∧
    ∀ k, k ≠ s.cur → t.warp k = s.warp k
  let arrives := fun (out : Out) (h : Hdr) (b bytes : Nat) (drop : Bool) =>
    let o := s.bar s.w.team b
    let early := o.valid = false ∨ 2 ^ 35 - 1 < bytes ∨ 2 ^ 35 - 1 < o.txb.toInt + bytes
    let o1 : Barrier := { o with pend := o.pend - 1, txb := o.txb + BitVec.ofNat 36 bytes, drop := if drop = true then o.drop + 1 else o.drop }
    let flips := o1.pend = 0 ∧ o1.txb = 0
    let left := o1.expect - o1.drop
    let o2 : Barrier := if flips then { o1 with phase := o.phase + 1, expect := left, drop := 0, valid := decide (left ≠ 0), pend := left } else o1
    let fires := s.w.ctx ∉ s.revokes ∧ (o.wmode = 1 ∨ (o.wmode = 2 ∧ o1.pend = 0) ∨ (o.wmode = 3 ∧ flips))
    let ar := if drop = true then none else some o.phase
    (o.valid = false → TrapsWith out s 0x18A (s.w.parts h)) ∧
    (o.valid = true → early → TrapsWith out s 0x18E (s.w.parts h)) ∧
    (¬early → o.pend = 0 → TrapsWith out s 0x18F (s.w.parts h)) ∧
    (¬early → o.pend ≠ 0 → s.releaseHolds none = true → out = .next s.hold) ∧
    (¬early → o.pend ≠ 0 → s.releaseHolds none = false →
      (¬fires → passes out h b o2 ar) ∧
      (fires → ∃ t, out = .next t ∧ keeps t b ∧ t.bar s.w.team b = o2 ∧ t.w.arrival b = ar ∧ t.w.stat = .halted ∧
        t.w.pc = s.w.pc ∧ t.w.done = s.w.parts h ∧ StopsContext s t))
  (∀ i : HABI, let b := num i.a i.imm
    let n := s.w.s i.b.toNat
    let o := s.bar s.w.team b
    let busy := o.valid = true ∧ (o.pend ≠ o.expect ∨ o.txb ≠ 0 ∨ o.drop ≠ 0)
    shared (exec (.binit i) s) i.h b (
      (n = 0 ∨ 65535 < n.toNat → TrapsWith (exec (.binit i) s) s 0x18B (s.w.parts i.h)) ∧
      (n ≠ 0 → n.toNat ≤ 65535 → busy → TrapsWith (exec (.binit i) s) s 0x18C (s.w.parts i.h)) ∧
      (n ≠ 0 → n.toNat ≤ 65535 → ¬busy → s.releaseHolds none = true → exec (.binit i) s = .next s.hold) ∧
      (n ≠ 0 → n.toNat ≤ 65535 → ¬busy → s.releaseHolds none = false → ∃ t, exec (.binit i) s = .next t ∧ t.w.At (s.w.pc + 12) i.h.sw ∧ same t b ∧
        t.bar s.w.team b = { o with valid := true, drop := 0, pend := n.setWidth 16, expect := n.setWidth 16, phase := 0, txb := 0 } ∧
        ∀ k, (s.warp k).stat ≠ .free →
          (b < 16 ∧ (s.warp k).team = s.w.team ∨ 16 ≤ b ∧ (s.team (s.warp k).team).cohort = s.myTeam.cohort) →
          (t.warp k).arrival b = none ∧ ∀ c, c ≠ b → (t.warp k).arrival c = (s.warp k).arrival c))) ∧
  (∀ i : HAI, let b := num i.a i.imm
    shared (exec (.barv i) s) i.h b (arrives (exec (.barv i) s) i.h b 0 false)) ∧
  (∀ i : HABI, let b := num i.a i.imm
    shared (exec (.barx i) s) i.h b (arrives (exec (.barx i) s) i.h b (s.w.s i.b.toNat).toNat false)) ∧
  (∀ i : HAI, let b := num i.a i.imm
    shared (exec (.bdrop i) s) i.h b (arrives (exec (.bdrop i) s) i.h b 0 true)) ∧
  (∀ i : HAI, let b := num i.a i.imm
    let o := s.bar s.w.team b
    shared (exec (.bwait i) s) i.h b (
      (s.w.arrival b = none → TrapsWith (exec (.bwait i) s) s 0x18D (s.w.parts i.h)) ∧
      ∀ r, s.w.arrival b = some r →
        (o.phase ≠ r ∨ o.valid = false → passes (exec (.bwait i) s) i.h b o none) ∧
        (o.phase = r → o.valid = true → ∃ t, exec (.bwait i) s = .next t ∧ OnlyWarp s t ∧ t.w.stat = .parked ∧
          t.w.reason = 6 ∧ t.w.pc = s.w.pc ∧ t.w.arrival b = some r))) ∧
  (∀ i : HDAI, let b := num i.a i.imm
    let o := s.bar s.w.team b
    shared (exec (.btest i) s) i.h b (
      (s.w.arrival b = none → TrapsWith (exec (.btest i) s) s 0x18D (s.w.parts i.h)) ∧
      ∀ r, s.w.arrival b = some r → ∃ t, exec (.btest i) s = .next t ∧ t.w.At (s.w.pc + 12) i.h.sw ∧ OnlyWarp s t ∧
        KeepsV s t ∧ KeepsS s t ∧
        t.w.arrival b = (if o.phase ≠ r ∨ o.valid = false then none else some r) ∧
        ∀ k, k < 32 → (t.w.p i.d.toNat).getLsbD k = if i.d.toNat = 7 then true
          else if (s.w.parts i.h).getLsbD k = true then decide (o.phase ≠ r ∨ o.valid = false) else (s.w.p i.d.toNat).getLsbD k))

/-- R214, R216 to R223. That OBLD waits in the core for every unfinished MMA of the warp that reads its bytes is the model's reading (log entry
72); the fault lanes are log entry 73, and OBLD without a participant is 90. -/
def Obligations.BandsAndReservationsAreClaimedAndReleased : Prop :=
  ∀ s : State,
  let core := s.myCore
  let me := slotOf s.w.team
  let none_ := fun (out : Out) (h : Hdr) (len : Nat) => s.w.parts h = 0 → WarpStep out s s.w (s.w.pc + BitVec.ofNat 64 len) h.sw
  let busy := fun (c : Core) (b : Nat) => ∃ x, x ∈ (c.port b).exec.toList ++ (c.port b).queue
  let named := fun (c : Core) (n : Nat) => ∃ p x, p < 6 ∧ x ∈ (c.port p).exec.toList ++ (c.port p).queue ∧ x.body.names n = true
  let bandsStay := fun (c : Core) (but : Nat → Prop) => ∀ b, ¬but b →
    let ends := b < 4 ∧ (core.band b).state = .releasing ∧ ¬busy core b
    (ends → c.band b = {}) ∧ (¬ends → c.band b = core.band b)
  let recsStay := fun (c : Core) (but : Nat → Prop) => ∀ m, ¬but m →
    let ends := m < 32 ∧ (core.resvAt m).state = .releasing ∧ ¬named core m
    (ends → c.resvAt m = {}) ∧ (¬ends → c.resvAt m = core.resvAt m)
  (∀ i : BandAcq, none_ (exec (.bandacq i) s) i.h 8 ∧ (s.w.parts i.h ≠ 0 →
    let may := fun (b : Nat) => core.active = false ∨ (s.myTeam.tenant = 0 ∧ b < 2) ∨ (s.myTeam.tenant ≠ 0 ∧ 2 ≤ b)
    let free := fun (b : Nat) => b < 4 ∧ may b ∧ (core.band b).state = .free
    let n := if i.two = true then 2 else 1
    ∃ got : List Nat, (∀ b ∈ got, free b ∧ ∀ a, a < b → free a → a ∈ got) ∧ got.Nodup ∧ (got.length = n ∨ got = []) ∧
      (got = [] → n = 2 ∨ ∀ b, ¬free b) ∧ (got = [] → ∀ a b, free a → free b → a = b) ∧
      CoreStep (exec (.bandacq i) s) s (s.w.setS i.d.toNat ((got.map (fun b => (1 : DWord) <<< b)).sum)) 8 i.h.sw (fun c =>
        { c with bands := core.bands, acc := core.acc } = core ∧
        (∀ b, c.band b = if b ∈ got then ⟨.held, me, s.w.ctx⟩ else core.band b) ∧
        ∀ b row col, row < 32 → col < 64 → c.accAt b row col = if b ∈ got then 0 else core.accAt b row col))) ∧
  (∀ i : HA, none_ (exec (.bandrel i) s) i.h 8 ∧ (s.w.parts i.h ≠ 0 →
    let v := s.w.s i.a.toNat
    let ok := v.extractLsb' 4 60 = 0 ∧ ∀ b, b < 4 → v.getLsbD b = true → (core.band b).state = .held ∧ (core.band b).owner = me
    (¬ok → TrapsWith (exec (.bandrel i) s) s 0x1C0 (s.w.parts i.h)) ∧
    (ok → s.remoteHolds none = true → exec (.bandrel i) s = .next s.hold) ∧
    (ok → s.remoteHolds none = false → CoreStep (exec (.bandrel i) s) s s.w 8 i.h.sw (fun c =>
      { c with bands := core.bands, resv := core.resv } = core ∧
      (∀ b, b < 4 → v.getLsbD b = true →
        (busy core b → c.band b = { core.band b with state := .releasing }) ∧ (¬busy core b → c.band b = {})) ∧
      bandsStay c (fun b => b < 4 ∧ v.getLsbD b = true) ∧ recsStay c (fun _ => False))))) ∧
  (∀ i : ObRes, none_ (exec (.obres i) s) i.h 12 ∧ (s.w.parts i.h ≠ 0 →
    let x := s.w.s i.a.toNat
    let fmt : Word := x.setWidth 32
    let kind := (x.extractLsb' 32 3).toNat
    let blk := (x.extractLsb' 35 3).toNat
    let size := i.size.toNat
    let soff := i.soff.toNat
    let bad := x.extractLsb' 38 26 ≠ 0 ∨ 3 ≤ kind ∨ ¬(1 ≤ size ∧ size ≤ 512)
    let bad2 := if kind = 0 then 5 ≤ blk ∨ soff = 0 ∨ size ≤ soff else fmt ≠ 0 ∨ blk ≠ 0 ∨ soff ≠ 0
    let lo := fun (half : Nat) => if core.active = true ∧ s.myTeam.tenant ≠ 0 then half else 0
    let hi := fun (half : Nat) => if core.active = true ∧ s.myTeam.tenant = 0 then half else 2 * half
    let freeRec := fun (n : Nat) => lo 16 ≤ n ∧ n < hi 16 ∧ (core.resvAt n).state = .free
    let freeRun := fun (u : Nat) => lo 256 ≤ u ∧ u + size ≤ hi 256 ∧ ∀ n, n < 32 → (core.resvAt n).state = .free ∨
      (core.resvAt n).base + (core.resvAt n).size ≤ u ∨ u + size ≤ (core.resvAt n).base
    let fits := ¬bad ∧ ¬(kind = 0 ∧ narrowFmt fmt = none) ∧ ¬bad2
    (bad → TrapsWith (exec (.obres i) s) s 0x1C5 (s.w.parts i.h)) ∧
    (¬bad → kind = 0 → narrowFmt fmt = none → TrapsWith (exec (.obres i) s) s 0x086 (s.w.parts i.h)) ∧
    (¬bad → ¬(kind = 0 ∧ narrowFmt fmt = none) → bad2 → TrapsWith (exec (.obres i) s) s 0x1C5 (s.w.parts i.h)) ∧
    (fits → (¬∃ n, freeRec n) ∨ (¬∃ u, freeRun u) →
      ScalarResult (exec (.obres i) s) s i.h i.d 12 (fun r => r = 0xFFFFFFFFFFFFFFFF)) ∧
    (fits → ∀ n u, freeRec n → (∀ m, m < n → ¬freeRec m) → freeRun u → (∀ m, m < u → ¬freeRun m) →
      CoreStep (exec (.obres i) s) s (s.w.setS i.d.toNat (BitVec.ofNat 64 n)) 12 i.h.sw (fun c =>
        { c with resv := core.resv, ob := core.ob } = core ∧
        (∀ m, c.resvAt m = if m = n then { state := .held, fmt := fmt, kind := x.extractLsb' 32 3, blk := x.extractLsb' 35 3,
                                           soff := soff, size := size, base := u, owner := me, ctx := s.w.ctx } else core.resvAt m) ∧
        ∀ a, Tab.get 0 c.ob a = if u * 128 ≤ a ∧ a < (u + size) * 128 then 0 else Tab.get 0 core.ob a)))) ∧
  (∀ i : HA, none_ (exec (.obrel i) s) i.h 8 ∧ (s.w.parts i.h ≠ 0 →
    let n := (s.w.s i.a.toNat).toNat
    let mine := n < 32 ∧ (core.resvAt n).state = .held ∧ (core.resvAt n).owner = me
    (¬mine → TrapsWith (exec (.obrel i) s) s 0x1C1 (s.w.parts i.h)) ∧
    (mine → CoreStep (exec (.obrel i) s) s s.w 8 i.h.sw (fun c =>
      { c with bands := core.bands, resv := core.resv } = core ∧
      (named core n → c.resvAt n = { core.resvAt n with state := .releasing }) ∧ (¬named core n → c.resvAt n = {}) ∧
      recsStay c (fun m => m = n) ∧ bandsStay c (fun _ => False))))) ∧
  (∀ i : HABI, none_ (exec (.obld i) s) i.h 12 ∧ (s.w.parts i.h ≠ 0 →
    let n := (s.w.s i.b.toNat).toNat
    let x := core.resvAt n
    let off := i.imm.toNat
    let mine := n < 32 ∧ x.state = .held ∧ x.owner = me
    let inside := off % 4 = 0 ∧ off + 128 ≤ x.size * 128
    let takes := fun (m : MatSpec) (o : DWord) (v k a : Nat) =>
      m.src = .ob ∧ m.recNo.toNat = n ∧ o.toNat < a + 4 ∧ a < o.toNat + x.reach v k
    let waits := s.bandsOpen s.w.fence.bands = true ∨ ∃ p y l half z n64 kc oa ob a b, p < 4 ∧
      y ∈ (core.port p).exec.toList ++ (core.port p).queue ∧ y.slot = slotOf s.cur ∧ y.gone = false ∧ y.id ∈ s.myBandIds ∧
      y.body = .mma half z n64 kc oa ob a b ∧ l < 32 ∧ (s.w.parts i.h).getLsbD l = true ∧
      (takes a oa 32 (2 * (kc.toNat + 1)) (off + 4 * l) ∨ takes b ob (if n64 = true then 64 else 32) (2 * (kc.toNat + 1)) (off + 4 * l))
    (¬mine → TrapsWith (exec (.obld i) s) s 0x1C1 (s.w.parts i.h)) ∧
    (mine → ¬inside → TrapsWith (exec (.obld i) s) s 0x1C2 (s.w.parts i.h)) ∧
    (mine → inside → waits → exec (.obld i) s = .next s.hold) ∧
    (mine → inside → ¬waits → CoreStep (exec (.obld i) s) s s.w 12 i.h.sw (fun c =>
      { c with ob := core.ob } = core ∧
      (∀ l k, l < 32 → k < 4 → Tab.get 0 c.ob (x.base * 128 + off + 4 * l + k) =
        if (s.w.parts i.h).getLsbD l = true then byteOf (s.w.v i.a.toNat l) k else Tab.get 0 core.ob (x.base * 128 + off + 4 * l + k)) ∧
      ∀ a, a < x.base * 128 + off ∨ x.base * 128 + off + 128 ≤ a → Tab.get 0 c.ob a = Tab.get 0 core.ob a))))

/-- R227 to R231. The fault lanes are log entry 73; that ACCZ, ACCRD and ACCWR raise their causes without a participant is 90. -/
def Obligations.MatrixCommandsQueueToTheirBand : Prop :=
  ∀ s : State,
  let core := s.myCore
  let holds := fun (b : Nat) => (core.band b).state = .held ∧ (core.band b).owner = slotOf s.w.team
  let cmd := fun (h : Hdr) (body : CmdBody) (id : Nat) =>
    ({ id := id, slot := slotOf s.cur, team := s.w.team, lanes := s.w.parts h, guard := none, hold := false, succ := none, tag := 0, dest := .none, body := body } : Cmd)
  let idle := fun (out : Out) (h : Hdr) (len : Nat) => s.w.parts h = 0 → WarpStep out s s.w (s.w.pc + BitVec.ofNat 64 len) h.sw
  (∀ i : Mma,
    let out := exec (.mma i) s
    let off := fun (o : MatSpec) (add : Bool) => o.off.setWidth 64 * 8 + (if add = true then s.w.s i.sreg.toNat else 0)
    let oa := off i.aop i.sa
    let ob := off i.bop i.sb
    let k := 2 * (i.kc.toNat + 1)
    let ra := core.resvAt i.aop.recNo.toNat
    let rb := core.resvAt i.bop.recNo.toNat
    let mine := fun (r : Resv) => r.state = .held ∧ r.owner = slotOf s.w.team
    let depth := if ra.bits = 16 ∨ rb.bits = 16 then 2 else if ra.bits = 8 ∨ rb.bits = 8 then 4 else 8
    let uneven := k % depth ≠ 0 ∨ (ra.kind = 0 ∧ k % (8 * 2 ^ ra.blk.toNat) ≠ 0) ∨ (rb.kind = 0 ∧ k % (8 * 2 ^ rb.blk.toNat) ≠ 0)
    let reach := fun (r : Resv) (v : Nat) => max (v * k * r.bits / 8)
      (if r.kind = 0 then r.soff * 128 + 4 * (v * k / (8 * 2 ^ r.blk.toNat)) else 0)
    let place := fun (o : MatSpec) (off : DWord) (r : Resv) (v : Nat) (c : Cause) => match o.src with
      | .ob => c = 0x1C3 ∧ (off.toNat % 8 ≠ 0 ∨ r.size * 128 < off.toNat + reach r v)
      | .sp => (c = 0x1C3 ∧ off.toNat % 8 ≠ 0) ∨ (c = 0x114 ∧ s.myTeam.size < off.toNat + reach r v)
      | .remote n _ => (c = 0x1C3 ∧ off.toNat % 8 ≠ 0) ∨ (s.spTeam (some n) = none ∧ c = 0x115) ∨
          ∃ t, s.spTeam (some n) = some t ∧ c = 0x114 ∧ (s.team t).size < off.toNat + reach r v
    let bad := fun (c : Cause) => place i.aop oa ra 32 c ∨ place i.bop ob rb (if i.n64 = true then 64 else 32) c
    let traps := fun (c : Cause) => TrapsWith out s c (s.w.parts i.h)
    let e1 := i.half = true ∧ i.n64 = true
    let e2 := ¬holds i.band.toNat
    let e3 := ¬mine ra ∨ ¬mine rb
    (e1 → traps 0x1C8) ∧ (¬e1 → e2 → traps 0x1C0) ∧ (¬e1 → ¬e2 → e3 → traps 0x1C1) ∧
    (¬e1 → ¬e2 → ¬e3 → uneven → traps 0x1C4) ∧
    (¬e1 → ¬e2 → ¬e3 → ¬uneven → (bad 0x1C3 → traps 0x1C3) ∧ (¬bad 0x1C3 → bad 0x114 → traps 0x114) ∧
      (¬bad 0x1C3 → ¬bad 0x114 → bad 0x115 → traps 0x115) ∧
      (¬bad 0x1C3 → ¬bad 0x114 → ¬bad 0x115 → idle out i.h 16 ∧ (s.w.parts i.h ≠ 0 →
        Queued out s 16 i.band.toNat i.h.sw (fun _ => s.w) (cmd i.h (.mma i.half i.z i.n64 i.kc oa ob i.aop i.bop)))))) ∧
  (∀ i : AccZ,
    (¬holds i.band.toNat → TrapsWith (exec (.accz i) s) s 0x1C0 (s.w.parts i.h)) ∧
    (holds i.band.toNat → idle (exec (.accz i) s) i.h 8 ∧ (s.w.parts i.h ≠ 0 →
      Queued (exec (.accz i) s) s 8 i.band.toNat i.h.sw (fun _ => s.w) (cmd i.h (.accz i.part))))) ∧
  (∀ i : AccMove,
    let n := i.nm1.toNat + 1
    let wide := 64 < i.col.toNat + n ∨ 256 < i.reg.toNat + n
    let checks := fun (out : Out) => (wide → TrapsWith out s 0x1CA (s.w.parts i.h)) ∧
      (¬wide → ¬holds i.band.toNat → TrapsWith out s 0x1C0 (s.w.parts i.h)) ∧
      (¬wide → holds i.band.toNat → idle out i.h 12)
    checks (exec (.accrd i) s) ∧ checks (exec (.accwr i) s) ∧ (¬wide → holds i.band.toNat → s.w.parts i.h ≠ 0 →
      Queued (exec (.accrd i) s) s 12 i.band.toNat i.h.sw
        (fun id => { s.w with pending := s.w.pending ++ [⟨id, s.w.parts i.h, .accrd id⟩] })
        (cmd i.h (.accrd i.reg.toNat i.col.toNat n)) ∧
      ∃ vals : Tab Word, (∀ l j, l < 32 → j < n → (s.w.parts i.h).getLsbD l = true →
          Tab.get 0 vals (l * 64 + j) = s.w.v (i.reg.toNat + j) l) ∧
        Queued (exec (.accwr i) s) s 12 i.band.toNat i.h.sw (fun _ => s.w) (cmd i.h (.accwr i.col.toNat n vals))))

/-- R93, R228, R231 and R243. -/
def Obligations.BandsExecuteTheirCommandOnce : Prop :=
  ∀ (s : State) (r : PortRef) (c : Cmd), (s.port r.core r.port).exec = some c →
  let core := s.core r.core
  let once := fun (i : Instr) => ((s.port r.core r.port).acted = true ∨ 4 ≤ r.port → exec i s = .next s)
  let acts := fun (i : Instr) (P : State → Prop) => (s.port r.core r.port).acted = false → r.port < 4 → ∃ t, exec i s = .next t ∧
    t.mem = s.mem ∧ t.port r.core r.port = { s.port r.core r.port with acted := true } ∧
    (∀ p, p ≠ r.port → t.port r.core p = s.port r.core p) ∧ (∀ k, k ≠ r.core → t.core k = s.core k) ∧ P t
  let rows := fun (t : State) (cols : Nat → Bool) (f : Nat → Nat → Word) => t.warps = s.warps ∧
    ∀ b row col, row < 32 → col < 64 → (t.core r.core).accAt b row col =
      if b = r.port ∧ c.lanes.getLsbD row = true ∧ cols col = true then f row col else core.accAt b row col
  once (.bandCmdMma r) ∧ once (.bandCmdAccz r) ∧ once (.bandCmdAccrd r) ∧ once (.bandCmdAccwr r) ∧ once (.bandCmdColrd r) ∧
  (∀ half z n64 kc oa ob sa sb, c.body = .mma half z n64 kc oa ob sa sb → ¬(half = true ∧ n64 = true) →
    let first := if half = true then 32 else 0
    let k := 2 * (kc.toNat + 1)
    let ra := core.resvAt sa.recNo.toNat
    let rb := core.resvAt sb.recNo.toNat
    let d := depthOf ra rb
    acts (.bandCmdMma r) (fun t => rows t (fun col => decide (first ≤ col) && decide (col < first + if n64 = true then 64 else 32))
      (fun row col => accChunks ra rb (s.opPlace r.core c.team sa) (s.opPlace r.core c.team sb) oa.toNat ob.toNat k row (col - first) d
        (k / d) 0 (if z = true then 0 else core.accAt r.port row col)))) ∧
  (∀ part, c.body = .accz part → acts (.bandCmdAccz r) (fun t => rows t (fun col => match part with
    | .all => true | .lo => decide (col < 32) | .hi => decide (32 ≤ col)) (fun _ _ => 0))) ∧
  (∀ col n vals, c.body = .accwr col n vals → col + n ≤ 64 → acts (.bandCmdAccwr r) (fun t => rows t
    (fun x => decide (col ≤ x) && decide (x < col + n)) (fun row x => Tab.get 0 vals (row * 64 + (x - col))))) ∧
  (∀ col, c.body = .colrd col → (Tab.get [] core.results r.port).length < 8 → acts (.bandCmdColrd r) (fun t =>
    t.warps = s.warps ∧ (∀ b row x, row < 32 → x < 64 → (t.core r.core).accAt b row x = core.accAt b row x) ∧
    Tab.get [] (t.core r.core).results r.port = Tab.get [] core.results r.port ++
      [(List.range 32).map (fun row => core.accAt r.port row col)])) ∧
  (∀ d col n, c.body = .accrd d col n → ∀ p : Pending,
    let w := s.warp (r.core * 16 + c.slot)
    p ∈ w.pending → p.kind = .accrd c.id → (∀ q ∈ w.pending, (q.kind = .accrd c.id ∨ q.id = p.id) → q = p) →
    acts (.bandCmdAccrd r) (fun t =>
      let u := t.warp (r.core * 16 + c.slot)
      (∀ k, k ≠ r.core * 16 + c.slot → t.warp k = s.warp k) ∧ { u with pending := w.pending } = w ∧
      (∃ ws : List (Nat × Word), (∀ q, q ∈ u.pending ↔ (q ∈ w.pending ∧ q.id ≠ p.id) ∨ q = { p with kind := .value ws [] }) ∧
        ∀ e, e ∈ ws ↔ ∃ l j, l < 32 ∧ p.lanes.getLsbD l = true ∧ j < n ∧ e = ((d + j) * 32 + l, core.accAt r.port l (col + j))) ∧
      ∀ b row y, (t.core r.core).accAt b row y = core.accAt b row y))

/-- R62, R63, R110, R146, R241, R242, R245 and R298. That a MOV from a queue register without a participant pops and raises nothing is the
model's choice (log entry 85); 0x1D1 for a band body with a reserved operand code is log entry 91. -/
def Obligations.SpecialRegistersAndQueuesMove : Prop :=
  ∀ s : State,
  let kind := fun (b : Word) => (b.extractLsb' 0 4).toNat
  let index := fun (b : Word) => (b.extractLsb' 4 4).toNat
  let copyPort := if s.myCore.active = true then 4 + s.myTeam.tenant else 4
  let port := fun (b : Word) => if kind b = 1 then some (index b) else if kind b = 3 then some copyPort else none
  let bits := fun (x : BitVec 128) (lo n : Nat) => (x.extractLsb' lo n).toNat
  let pushes := fun (out : Out) (h : Hdr) (len q : Nat) (x : BitVec 128) =>
    let b := Tab.get 0 s.w.qbind q
    let succ := port (Tab.get 0 s.w.qbind (bits x 112 4))
    let bad := bits x 123 5 ≠ 0 ∨ (x.getLsbD 118 = false ∧ bits x 119 4 ≠ 0) ∨ (x.getLsbD 116 = false ∧ bits x 112 4 ≠ 0) ∨
      (x.getLsbD 116 = true ∧ succ = none)
    (port b = none → TrapsWith out s 0x1D0 (s.w.parts h)) ∧
    ∀ p, port b = some p →
      (bad → TrapsWith out s 0x1D1 (s.w.parts h)) ∧
      (p < 4 → ¬(1 ≤ bits x 64 8 ∧ bits x 64 8 ≤ 3 ∧ bits x 88 8 = 0 ∧ bits x 72 2 = p) → TrapsWith out s 0x1D1 (s.w.parts h)) ∧
      (¬bad → ∀ e, s.wordBody p x = .error e → TrapsWith out s e (s.w.parts h)) ∧
      (¬bad → ∀ body, s.wordBody p x = .ok body → Queued out s len p h.sw
        (fun id => if p < 4 then s.w else { s.w with openCopies := s.w.openCopies ++ [id] })
        (fun id => { id := id, slot := slotOf s.cur, team := s.w.team, lanes := s.w.parts h,
                     guard := if x.getLsbD 118 = true then some (x.extractLsb' 119 4) else none,
                     hold := x.getLsbD 117, succ := if x.getLsbD 116 = true then succ else none,
                     sq := x.extractLsb' 112 4, tag := x.extractLsb' 96 16,
                     dest := if p < 4 then .none else .port, body := body }))
  (∀ i : HDA, i.a.toNat ≤ 6 → LaneResult (exec (.movSpecialSource i) s) s i.h i.d 8 (fun n x =>
    let wid := s.w.widBase ||| BitVec.ofNat 64 n
    [s.w.em, s.w.snap.setWidth 32, s.w.snap.extractLsb' 32 32, s.w.stg, BitVec.ofNat 32 n, wid.setWidth 32,
      wid.extractLsb' 32 32][i.a.toNat]? = some x)) ∧
  (∀ i : HDA, 16 ≤ i.a.toNat → i.a.toNat < 32 →
    let out := exec (.movSpecialSource i) s
    let b := Tab.get 0 s.w.qbind (i.a.toNat - 16)
    let got := fun (t : State) (e : List Word) => ∃ ws : List (Nat × Word), t.w.At (s.w.pc + 8) i.h.sw ∧ t.mem = s.mem ∧
      (∀ k, k ≠ s.cur → t.warp k = s.warp k) ∧
      { t.w with pending := s.w.pending, statusPort := s.w.statusPort }.body = s.w.body ∧
      t.w.pending = s.w.pending ++ [⟨s.nextId, s.w.parts i.h, .value ws []⟩] ∧
      ∀ n v, (n < 32 ∧ (i.d.toNat * 32 + n, v) ∈ ws) ↔ (n < 32 ∧ (s.w.parts i.h).getLsbD n = true ∧ v = e.getD n 0)
    let waits := ∃ t, out = .next t ∧ OnlyWarp s t ∧ t.w.stat = .parked ∧ t.w.reason = 4 ∧ t.w.pc = s.w.pc ∧ t.w.pending = s.w.pending
    (s.w.parts i.h = 0 → WarpStep out s s.w (s.w.pc + 8) i.h.sw) ∧
    (s.w.parts i.h ≠ 0 →
      (kind b ≠ 2 → kind b ≠ 4 → TrapsWith out s 0x1D0 (s.w.parts i.h)) ∧
      (kind b = 2 → (Tab.get [] s.myCore.results (index b) = [] → waits) ∧
        ∀ e es, Tab.get [] s.myCore.results (index b) = e :: es → ∃ t, out = .next t ∧ got t e ∧
          Tab.get [] t.myCore.results (index b) = es ∧ t.w.statusPort = s.w.statusPort) ∧
      (kind b = 4 → (s.w.statusPort = [] → waits) ∧
        ∀ st tag es, s.w.statusPort = (st, tag) :: es → ∃ t, out = .next t ∧
          got t [st.setWidth 32, st.extractLsb' 32 32, tag.setWidth 32] ∧ t.w.statusPort = es ∧ t.cores = s.cores))) ∧
  (∀ i : HDA,
    let out := exec (.movSpecialDestination i) s
    (s.w.parts i.h = 0 → WarpStep out s s.w (s.w.pc + 8) i.h.sw) ∧
    ∀ l, l < 32 → (s.w.parts i.h).getLsbD l = true → (∀ k, k < l → (s.w.parts i.h).getLsbD k = false) →
      let x := s.w.v i.a.toNat l
      (i.d.toNat = 0 → WarpStep out s { s.w with em := x &&& ~~~s.w.exited } (s.w.pc + 8) i.h.sw) ∧
      (i.d.toNat = 1 ∨ i.d.toNat = 2 → (s.w.txState = .active ∨ s.w.txState = .doomed → TrapsWith out s 0x208 (s.w.parts i.h)) ∧
        (s.w.txState ≠ .active → s.w.txState ≠ .doomed → WarpStep out s { s.w with snap := (if i.d.toNat = 1 then s.w.snap.extractLsb' 32 32 ++ x else x ++ s.w.snap.setWidth 32) }
          (s.w.pc + 8) i.h.sw)) ∧
      (16 ≤ i.d.toNat → i.d.toNat < 32 → pushes out i.h 8 (i.d.toNat - 16)
        (s.w.v i.a.toNat 3 ++ s.w.v i.a.toNat 2 ++ s.w.v i.a.toNat 1 ++ s.w.v i.a.toNat 0))) ∧
  (∀ i : QCmd,
    let out := exec (.qcmd i) s
    (s.w.parts i.h = 0 → WarpStep out s s.w (s.w.pc + 16) i.h.sw) ∧
    (s.w.parts i.h ≠ 0 → ∃ x : BitVec 128, x.extractLsb' 0 64 = s.w.s i.sreg.toNat ∧ x.extractLsb' 64 32 = i.body ∧
      x.extractLsb' 96 16 = i.tag ∧ x.extractLsb' 112 4 = i.succ.getD 0 ∧ x.getLsbD 116 = i.succ.isSome ∧ x.getLsbD 117 = i.hold ∧
      x.getLsbD 118 = i.guard.isSome ∧ x.extractLsb' 119 4 = i.guard.getD 0 ∧ x.extractLsb' 123 5 = 0 ∧
      pushes out i.h 16 i.q.toNat x))

/-- R239, R246, R247, R250 and R270. That a discarded copy waits in its queue for room in the status port is the model's choice (log entry
46). -/
def Obligations.QueueControlInstructionsComplete : Prop :=
  ∀ s : State,
  let kind := fun (b : Word) => (b.extractLsb' 0 4).toNat
  let index := fun (b : Word) => (b.extractLsb' 4 4).toNat
  let q := fun (w : Warp) (n : Nat) => Tab.get 0 w.qbind n
  let core := s.myCore
  let copyPort := if core.active = true then 4 + s.myTeam.tenant else 4
  let holds := fun (b : Nat) => (core.band b).state = .held ∧ (core.band b).owner = slotOf s.w.team
  let slot := slotOf s.cur
  (∀ i : HDI,
    let out := exec (.qbind i) s
    let k := kind i.imm
    let tq := s.taskq (i.imm.extractLsb' 14 2).toNat (i.imm.extractLsb' 8 6).toNat
    let isOpen := tq.desc.getLsbD 0 = true ∧ tq.desc.extractLsb' 32 12 = s.w.ctx
    (s.w.parts i.h = 0 → WarpStep out s s.w (s.w.pc + 12) i.h.sw) ∧
    (s.w.parts i.h ≠ 0 →
      (k = 1 ∨ k = 2 → ¬holds (index i.imm) → TrapsWith out s 0x1C0 (s.w.parts i.h)) ∧
      (k = 5 → ¬isOpen → TrapsWith out s 0x1D2 (s.w.parts i.h)) ∧
      ((k = 1 ∨ k = 2 → holds (index i.imm)) → (k = 5 → isOpen) → ∃ t, out = .next t ∧ OnlyWarp s t ∧
        { t.w with qbind := s.w.qbind, draw := s.w.draw }.body = s.w.body ∧ t.w.At (s.w.pc + 12) i.h.sw ∧
        (∀ n, q t.w n = if n = i.d.toNat then i.imm else if k = 5 ∧ kind (q s.w n) = 5 then 0 else q s.w n) ∧
        t.w.draw = if k = 5 then i.imm else if kind (q s.w i.d.toNat) = 5 then 0 else s.w.draw))) ∧
  (∀ i : HDA,
    let b := q s.w i.a.toNat
    let k := kind b
    let p := if k = 1 then index b else if k = 3 then copyPort else 0
    let tq := s.taskq (s.w.draw.extractLsb' 14 2).toNat (s.w.draw.extractLsb' 8 6).toNat
    let work := (core.port p).exec.toList ++ (core.port p).queue
    work.length ≤ 32 → (Tab.get [] core.results (index b)).length ≤ 8 → s.w.statusPort.length ≤ 16 →
    tq.entries.length ≤ 1048575 → s.w.qids.length ≤ 15 →
    ScalarResult (exec (.qstat i) s) s i.h i.d 8 (fun x =>
      let occ := (x.extractLsb' 0 21).toNat
      let mine := (x.extractLsb' 32 9).toNat
      (k = 0 → x = 0) ∧ (k ≠ 0 → (x.extractLsb' 60 4).toNat = k ∧ (x.extractLsb' 56 4).toNat = index b ∧ x.extractLsb' 21 11 = 0 ∧
        x.extractLsb' 41 5 = 0) ∧
      (k = 2 → occ = (Tab.get [] core.results (index b)).length ∧ x.extractLsb' 32 24 = 0) ∧
      (k = 4 → occ = s.w.statusPort.length ∧ x.extractLsb' 32 24 = 0) ∧
      (k = 5 → occ = tq.entries.length ∧ mine = s.w.qids.length ∧ x.extractLsb' 46 10 = 0) ∧
      (k = 1 ∨ k = 3 → x.extractLsb' 48 8 = (core.port p).rels ∧ x.getLsbD 47 = (core.port p).relovf ∧ occ = work.length ∧
        mine = (work.filter (fun c => c.mine slot)).length ∧
        ((core.port p).exec ≠ none ∨ (core.port p).queue = [] → x.getLsbD 46 = false) ∧
        ∀ c cs, (core.port p).exec = none → (core.port p).queue = c :: cs → c.guard = none → c.dead = false →
          x.getLsbD 46 = (c.hold && (core.port p).rels == 0)))) ∧
  (∀ i : HA,
    let out := exec (.qdrain i) s
    let b := q s.w i.a.toNat
    let k := kind b
    (s.w.parts i.h = 0 → WarpStep out s s.w (s.w.pc + 8) i.h.sw) ∧
    (s.w.parts i.h ≠ 0 →
      (k = 0 ∨ k = 5 → TrapsWith out s 0x1D0 (s.w.parts i.h)) ∧
      (k = 2 → CoreStep out s s.w 8 i.h.sw (fun c => { c with results := core.results } = core ∧
        ∀ n, Tab.get [] c.results n = if n = index b then [] else Tab.get [] core.results n)) ∧
      (k = 4 → WarpStep out s { s.w with statusPort := [] } (s.w.pc + 8) i.h.sw) ∧
      let released := fun (c : Core) (p : Nat) (ds : List Cmd) => ∀ x,
        let n := (core.port x).rels.toNat + (ds.filter (fun y => y.succ == some x)).length
        (c.port x).rels.toNat = min 255 n ∧
        ((c.port x).relovf = true ↔ x ≠ p ∧ ((core.port x).relovf = true ∨ 255 < n))
      (k = 1 → index b < 4 →
        let x := core.port (index b)
        let ds := x.queue.filter (fun c => c.mine slot)
        (x.queue.map (fun c => c.id)).Nodup →
        (∀ c ∈ ds, c.dest = .none ∧ c.out = false ∧ ¬∃ r, c.body = .copy r) →
        CoreStep out s { s.w with pending := s.w.pending.filter (fun p => ds.all (fun c => match c.body with
            | .accrd .. => p.kind != .accrd c.id
            | _ => true)) } 8 i.h.sw (fun c =>
          (c.port (index b)).queue = x.queue.filter (fun c => !c.mine slot) ∧ (c.port (index b)).exec = x.exec ∧
          released c (index b) ds)) ∧
      (k = 3 → s.w.stat = .ready →
        let x := core.port copyPort
        let ds := x.queue.filter (fun c => c.mine slot)
        (x.queue.map (fun c => c.id)).Nodup →
        (∀ c ∈ ds, c.dest = .port ∧ c.out = false ∧ c.ovf = false ∧ ∃ r, c.body = .copy r ∧ r.bar = none) →
        (s.w.statusPort.length + ds.length ≤ 16 →
          CoreStep out s { s.w with
              statusPort := s.w.statusPort ++ ds.map (fun c => ((3 : DWord) <<< 62, c.tag))
              openCopies := s.w.openCopies.filter (fun n => ds.all (fun c => n != c.id))
              batches := s.w.batches.map (fun e => (e.1, e.2.filter (fun n => ds.all (fun c => n != c.id)))) } 8 i.h.sw (fun c =>
            (c.port copyPort).queue = x.queue.filter (fun c => !c.mine slot) ∧ (c.port copyPort).exec = x.exec ∧
            released c copyPort ds)) ∧
        (16 ≤ s.w.statusPort.length →
          CoreStep out s s.w 8 i.h.sw (fun c =>
            (c.port copyPort).queue = x.queue.map (fun c => if c.mine slot = true then { c with out := true } else c) ∧
            (c.port copyPort).exec = x.exec ∧ released c copyPort []))))) ∧
  (let guard := (fun (out : Out) (h : Hdr) (d : RegNo) (v : BitVec 2) => ∃ t, out = .next t ∧ OnlyWarp s t ∧
      { t.w with guards := s.w.guards }.body = s.w.body ∧ t.w.At (s.w.pc + 8) h.sw ∧
      ∀ n, Tab.get (0 : BitVec 2) t.w.guards n = if s.w.parts h ≠ 0 ∧ n = d.toNat then v else Tab.get 0 s.w.guards n);
    And (∀ i : HD, guard (exec (.gset i) s) i.h i.d 1) (∀ i : GClr, guard (exec (.gclr i) s) i.h i.d (if i.u = true then 0 else 2)))

/-- R246 to R248, R205 and R270. That a discarded head waits for no release is log entry 92, its wait for room in a status port 46, and what
stands behind a FENCE 56. -/
def Obligations.PortsTakeCommandsInOrder : Prop :=
  ∀ (s : State) (r : PortRef),
  let x := s.port r.core r.port
  let guard := fun (c : Cmd) => (c.guard.map (fun g => Tab.get (0 : BitVec 2) (s.warp (r.core * 16 + c.slot)).guards g.toNat))
  let band := fun (c : Cmd) => ¬(∃ q, c.body = .copy q)
  let released := fun (t : State) (core : Core) (succ : Option Nat) => ∀ p, p ≠ r.port →
      (t.port r.core p).rels = (core.port p).rels + (if succ = some p ∧ (core.port p).rels ≠ 255 then 1 else 0)
  (x.exec ≠ none ∨ x.queue = [] → exec (.queueHeadDispatch r) s = .next s) ∧
  (∀ c cs, x.exec = none → x.queue = c :: cs → c.out = false →
    let key := r.core * 16 + c.slot
    let w := s.warp key
    let full := ((∃ col, c.body = .colrd col) ∧ 8 ≤ (Tab.get [] (s.core r.core).results r.port).length) ∨ s.afterOpen r.core c = true
    let no := c.dead = true ∨ guard c = some 2 ∨ (guard c = some 0 ∧ w.stat = .retiring)
    (c.dead = false → guard c = some 0 → w.stat ≠ .retiring → exec (.queueHeadDispatch r) s = .next s) ∧
    (c.dead = false → guard c = none ∨ guard c = some 1 →
      ((c.hold = true ∧ x.rels = 0) ∨ full → exec (.queueHeadDispatch r) s = .next s) ∧
      (c.hold = false ∨ x.rels ≠ 0 → ¬full → ∃ t, exec (.queueHeadDispatch r) s = .next t ∧ t.mem = s.mem ∧ t.warps = s.warps ∧
        (∀ k, k ≠ r.core → t.core k = s.core k) ∧ (∀ p, p ≠ r.port → t.port r.core p = s.port r.core p) ∧
        (t.port r.core r.port).exec = some c ∧ (t.port r.core r.port).queue = cs ∧ (t.port r.core r.port).acted = false ∧
        (t.port r.core r.port).rels = (if c.hold = true then x.rels - 1 else x.rels))) ∧
    (no → band c → c.dest = .none → ∃ t, exec (.queueHeadDispatch r) s = .next t ∧
      t.mem = s.mem ∧ (∀ k, k ≠ key → t.warp k = s.warp k) ∧ (t.port r.core r.port).exec = none ∧ (t.port r.core r.port).queue = cs ∧
      ((∀ d y n, c.body ≠ .accrd d y n) → t.warp key = w) ∧
      (∀ d y n, c.body = .accrd d y n → t.warp key = { w with pending := w.pending.filter (fun p => p.kind != .accrd c.id) }) ∧
      released t (s.core r.core) c.succ) ∧
    (∀ q, no → c.body = .copy q → q.sched = none → q.layout = none → c.gone = false → c.dest = .port → w.stat ≠ .retiring → w.stat ≠ .free →
      (16 ≤ w.statusPort.length → exec (.queueHeadDispatch r) s = .next s) ∧
      (w.statusPort.length < 16 → c.ovf = false → ∃ t, exec (.queueHeadDispatch r) s = .next t ∧
        (t.port r.core r.port).exec = none ∧ (t.port r.core r.port).queue = cs ∧ released t (s.core r.core) c.succ ∧
        (∀ k, k ≠ key → t.warp k = s.warp k) ∧
        (q.bar = none → t.mem = s.mem ∧ (t.warp key).statusPort = w.statusPort ++ [((3 : DWord) <<< 62, c.tag)]) ∧
        ∀ b, q.bar = some b → (s.team c.team).used = true →
          let o := s.bar c.team b.toNat
          let left := o.txb.toInt - layTotal (Tab.get 0 w.hregs q.hreg)
          0 ≤ left + 2 ^ 35 → (left ≠ 0 ∨ o.pend ≠ 0 ∨ o.valid = false) →
            t.bar c.team b.toNat = { o with txb := BitVec.ofInt 36 left } ∧
            (t.warp key).statusPort = w.statusPort ++ [((3 : DWord) <<< 62, c.tag)]))) ∧
  (x.exec = none → exec (.engineCommandComplete r) s = .next s) ∧
  (∀ c, x.exec = some c → band c →
    (x.acted = false → exec (.engineCommandComplete r) s = .next s) ∧
    (x.acted = true → ∃ t, exec (.engineCommandComplete r) s = .next t ∧ t.mem = s.mem ∧ t.warps = s.warps ∧
      (∀ k, k ≠ r.core → t.core k = s.core k) ∧ (t.port r.core r.port).exec = none ∧ (t.port r.core r.port).queue = x.queue ∧
      (∀ p, (t.port r.core p).rels = (s.port r.core p).rels + (if c.succ = some p ∧ (s.port r.core p).rels ≠ 255 then 1 else 0)) ∧
      ∀ p, c.succ = some p → (s.port r.core p).rels = 255 → (t.port r.core p).relovf = true))

/-- R252 to R254. Which copies TKGET's acquire drops is the model's reading (log entry 70). -/
def Obligations.TaskQueuesKeepOrderAndDeliverOnce : Prop :=
  ∀ s : State,
  let idle := fun (out : Out) (h : Hdr) (len : Nat) => s.w.parts h = 0 → WarpStep out s s.w (s.w.pc + BitVec.ofNat 64 len) h.sw
  let waits := fun (out : Out) (reason : Nat) => ∃ t, out = .next t ∧ OnlyWarp s t ∧ t.w.stat = .parked ∧ t.w.reason = reason ∧
    t.w.pc = s.w.pc ∧ t.w.sregs = s.w.sregs ∧ t.w.pending = s.w.pending
  let moves := fun (t : State) (d n : Nat) (q : TaskQueue) => t.mem = s.mem ∧ t.cores = s.cores ∧
    (∀ k, k ≠ s.cur → t.warp k = s.warp k) ∧ t.taskq d n = q ∧ ∀ e m, ¬(e = d ∧ m = n) → t.taskq e m = s.taskq e m
  (∀ i : TkPut,
    let out := exec (.tkput i) s
    let a := i.a.toNat
    let d := (i.queue.extractLsb' 6 2).toNat
    let n := (i.queue.extractLsb' 0 6).toNat
    let q := s.taskq d n
    let x := s.w.s a
    let isOpen := q.desc.getLsbD 0 = true ∧ q.desc.extractLsb' 32 12 = s.w.ctx
    let big := 256 < (x.extractLsb' 16 9).toNat ∨ 256 < (x.extractLsb' 32 16).toNat ∨ 32 < (x.extractLsb' 48 8).toNat
    let done := fun (t : State) (st : BitVec 16) => t.w.At (s.w.pc + 12) i.h.sw ∧
      { t.w with sregs := s.w.sregs }.body = s.w.body ∧ ∀ r, t.w.s r = if r = a then x.extractLsb' 16 48 ++ st else s.w.s r
    idle out i.h 12 ∧ (s.w.parts i.h ≠ 0 → s.w.reason ≠ 15 →
      (¬isOpen → TrapsWith out s 0x1D2 (s.w.parts i.h)) ∧
      (isOpen → x.extractLsb' 25 7 ≠ 0 → ∃ t, out = .next t ∧ OnlyWarp s t ∧ done t 2) ∧
      (isOpen → x.extractLsb' 25 7 = 0 → big → ∃ t, out = .next t ∧ OnlyWarp s t ∧ done t 1) ∧
      (isOpen → x.extractLsb' 25 7 = 0 → ¬big →
        (s.releaseHolds none = true → out = .next s.hold) ∧
        (s.releaseHolds none = false → 1048575 ≤ q.entries.length → waits out 15) ∧
        (s.releaseHolds none = false → q.entries.length < 1048575 → ∃ t, out = .next t ∧ done t 0 ∧
          moves t d n { q with entries := q.entries ++ [⟨x.extractLsb' 16 48 ++ (0 : BitVec 16), s.w.s (a + 1), s.w.s (a + 2),
            s.w.s (a + 3)⟩] })))) ∧
  (∀ i : HD,
    let out := exec (.tkget i) s
    let d := (s.w.draw.extractLsb' 14 2).toNat
    let n := (s.w.draw.extractLsb' 8 6).toNat
    let q := s.taskq d n
    idle out i.h 8 ∧ (s.w.parts i.h ≠ 0 →
      let draws := (s.w.draw.extractLsb' 0 4) = 5 ∧ s.w.qids.length < 15
      (¬draws → TrapsWith out s 0x1D3 (s.w.parts i.h)) ∧ (draws → q.entries = [] → waits out 14) ∧
      (draws → ∀ e es, q.entries = e :: es → ∃ t, out = .next t ∧ t.w.At (s.w.pc + 8) i.h.sw ∧
        moves t d n { q with entries := es, outstanding := q.outstanding + 1 } ∧ (∀ a, a < 2 ^ 40 → t.copyByte s.peer a = none) ∧
        t.w = { s.w with
          pc := t.w.pc, stat := t.w.stat, reason := t.w.reason, done := 0, waiting := 0, replay := false, ir := none, held := false,
          stored := [], promotes := [], entries := [], counted := [], snapWait := none,
          qids := s.w.qids ++ [BitVec.ofNat 8 (d * 64 + n)],
          pending := s.w.pending ++ [⟨s.nextId, s.w.parts i.h, .value [] [(i.d.toNat, e.w0.extractLsb' 16 48 ++ BitVec.ofNat 16 (d * 64 + n)),
            (i.d.toNat + 1, e.w1), (i.d.toNat + 2, e.w2), (i.d.toNat + 3, e.w3)]⟩] }))) ∧
  (∀ i : HA,
    let out := exec (.tkdone i) s
    let id : BitVec 8 := (s.w.s i.a.toNat).setWidth 8
    let d := (id.extractLsb' 6 2).toNat
    let n := (id.extractLsb' 0 6).toNat
    idle out i.h 8 ∧ (s.w.parts i.h ≠ 0 →
      (id ∉ s.w.qids → TrapsWith out s 0x1D4 (s.w.parts i.h)) ∧
      (id ∈ s.w.qids → ∃ t, out = .next t ∧ t.w.At (s.w.pc + 8) i.h.sw ∧
        { t.w with qids := s.w.qids }.body = s.w.body ∧ t.w.qids = s.w.qids.erase id ∧
        moves t d n { s.taskq d n with outstanding := (s.taskq d n).outstanding - 1 }))) ∧
  (∀ d : Nat,
    ((s.ft - (s.die d).usherAt).toNat < 64000 → exec (.usherPass d) s = .next s) ∧
    (64000 ≤ (s.ft - (s.die d).usherAt).toNat →
      (∀ n, n < 64 → (s.taskq d n).desc.getLsbD 1 = true → (s.taskq d n).entries.length < ((s.taskq d n).desc.extractLsb' 68 20).toNat) →
      ∃ t, exec (.usherPass d) s = .next t ∧ t.warps = s.warps ∧ t.die d = { s.die d with usherAt := s.ft } ∧
        (∀ e, e ≠ d → t.die e = s.die e) ∧ t.mem = s.mem) ∧
    (∀ n p k, 64000 ≤ (s.ft - (s.die d).usherAt).toNat → Tab.rising none s.warps = true → n < 64 → p < 64 → p ≠ n →
      let q := s.taskq d
      let full := fun (m : Nat) => (q m).desc.getLsbD 1 = true ∧ ((q m).desc.extractLsb' 68 20).toNat ≤ (q m).entries.length
      let starved := fun (m : Nat) => m ≠ n ∧ (q m).desc.extractLsb' 32 12 = (q n).desc.extractLsb' 32 12 ∧
        (q m).desc.getLsbD 1 = true ∧ (q m).entries.length ≤ ((q m).desc.extractLsb' 48 20).toNat
      let waits := fun (m j : Nat) =>
        let w := s.warp j
        w.draw.extractLsb' 0 4 = 5 ∧ w.draw.getLsbD 16 = true ∧ (w.draw.extractLsb' 14 2).toNat = d ∧ (w.draw.extractLsb' 8 6).toNat = m ∧
          w.stat = .parked ∧ w.reason = 14 ∧ w.qids = [] ∧ (s.ctx w.ctx).state = .running
      full n → (∀ m, m < 64 → m ≠ n → ¬full m) → starved p → waits p k → (∀ m, m < p → starved m → ∀ j, ¬waits m j) →
      (∀ j, j < k → ¬waits p j) → ∃ t, exec (.usherPass d) s = .next t ∧
        let fan := (q n).desc.getLsbD 44 = true
        ∀ j, t.warp j = if j = k ∨ (fan ∧ waits p j ∧ coreOf j = coreOf k) then
            { s.warp j with draw := ((s.warp j).draw &&& 0xFFFFC0FF) ||| BitVec.ofNat 32 (n * 256) }
          else s.warp j) ∧
    (Tab.rising none s.warps = true → ∃ t, exec (.usherPass d) s = .next t ∧ t.mem = s.mem ∧ t.cores = s.cores ∧
      ∀ k, { t.warp k with draw := (s.warp k).draw } = s.warp k ∧ ((t.warp k).draw ≠ (s.warp k).draw →
        (s.warp k).stat = .parked ∧ (s.warp k).reason = 14 ∧ (s.warp k).qids = [] ∧ (s.warp k).draw.getLsbD 16 = true)))

/-- R259, R262, R264, R269 and R270. -/
def Obligations.RecordsCopiesAndBatchesComplete : Prop :=
  ∀ s : State,
  let idle := fun (out : Out) (h : Hdr) (len : Nat) => s.w.parts h = 0 → WarpStep out s s.w (s.w.pc + BitVec.ofNat 64 len) h.sw
  let built := fun (img rec_ : BitVec 256) => ∃ st : Nat,
    let f := fun (lo n : Nat) => (img.extractLsb' lo n).toNat
    let dims := f 213 3
    let ext := fun (d : Nat) => if d < dims then f (24 * d) 24 + 1 else 1
    let order := fun (k : Nat) => f (219 + 3 * k) 3
    let total := 2 ^ f 216 2 * (ext 0 * ext 1 * ext 2 * ext 3 * ext 4)
    let c12 := f 247 5 = 1 ∨ f 247 5 = 2
    let c3 := ∃ d, 1 ≤ d ∧ d < 5 ∧ d < dims ∧ (img.extractLsb' (120 + 22 * (d - 1)) 22).toInt * 2 ^ f 208 5 % 16 ≠ 0
    let c4 := 2 < f 247 5 ∨ dims = 0 ∨ 5 < dims ∨ 18 < f 208 5 ∨ f 252 3 ≠ 0 ∨ (∃ d, d < dims ∧ ∀ k, k < dims → order k ≠ d) ∨
      ∃ d, dims ≤ d ∧ d < 5 ∧ (f (24 * d) 24 ≠ 0 ∨ order d ≠ 0 ∨ (d ≠ 0 ∧ f (120 + 22 * (d - 1)) 22 ≠ 0))
    let c5 := 8 < f 234 4 ∨ 8 < f 238 4 ∨ (f 238 4 ≠ 0 ∧ dims = 1) ∨ ext 0 % 2 ^ f 234 4 ≠ 0 ∨ ext 1 % 2 ^ f 238 4 ≠ 0
    let c6 := f 234 4 + f 238 4 + f 216 2 < 2
    let c7 := 2 ^ 40 ≤ total ∨ (f 242 5 ≠ 0 ∧ total % 128 ≠ 0)
    (c12 → st = f 247 5) ∧ (¬c12 → c3 → st = 3) ∧ (¬c12 → ¬c3 → c4 → st = 4) ∧ (¬c12 → ¬c3 → ¬c4 → c5 → st = 5) ∧
    (¬c12 → ¬c3 → ¬c4 → ¬c5 → c6 → st = 6) ∧ (¬c12 → ¬c3 → ¬c4 → ¬c5 → ¬c6 → c7 → st = 7) ∧
    (¬c12 → ¬c3 → ¬c4 → ¬c5 → ¬c6 → ¬c7 → st = 0) ∧
    rec_.extractLsb' 0 247 = img.extractLsb' 0 247 ∧ (rec_.extractLsb' 247 5).toNat = st ∧
    rec_.extractLsb' 252 3 = img.extractLsb' 252 3 ∧ rec_.getLsbD 255 = decide (st = 0)
  (∀ i : HRec, s.Unheld → s.Unwatched →
    let out := exec (.hrec i) s
    let a := s.w.s i.a.toNat + i.disp.signExtend 64
    let waits := ∃ p c q, (p = 4 ∨ p = 5) ∧ c ∈ (s.myCore.port p).queue ∧ c.body = .copy q ∧ q.sched = none ∧
      c.slot = slotOf s.cur ∧ c.gone = false ∧ q.hreg = i.d.toNat
    let done := fun (img : Nat → Byte) => ∃ t x, out = .next t ∧ (∀ k, k ≠ s.cur → t.warp k = s.warp k) ∧ t.mem = s.mem ∧
      { t.w with hregs := s.w.hregs, fence := s.w.fence, acqV := s.w.acqV, acqX := s.w.acqX }.body = s.w.body ∧ t.w.At (s.w.pc + 16) i.h.sw ∧
      (∀ b n, b < 32 → n < 8 → BitVec.getLsbD x (8 * b + n) = (img b).getLsbD n) ∧
      (∀ n, n ≠ i.d.toNat → t.w.h n = s.w.h n) ∧ built x (t.w.h i.d.toNat)
    (s.w.parts i.h = 0 → ∃ t, AccessStep out s t 16 i.h.sw ∧ t.mem = s.mem ∧ t.w.pending = s.w.pending) ∧
    (s.w.parts i.h ≠ 0 → a.toNat % 32 = 0 → (i.sp = true → a.toNat + 32 ≤ s.myTeam.size) → waits →
      ∃ t, out = .next t ∧ OnlyWarp s t ∧ t.w.stat = .parked ∧ t.w.reason = 26 ∧ t.w.pc = s.w.pc ∧ t.w.hregs = s.w.hregs) ∧
    (s.w.parts i.h ≠ 0 → a.toNat % 32 ≠ 0 → ∃ u : State, out = .next (u.precise 0x1E1 (s.w.parts i.h) a) ∧
      u = s.passFence 0) ∧
    (s.w.parts i.h ≠ 0 → a.toNat % 32 = 0 →
      (i.sp = true → s.myTeam.size < a.toNat + 32 → ∃ u : State, out = .next (u.precise 0x114 (s.w.parts i.h) a) ∧
        u = s.passFence 0) ∧
      (i.sp = true → a.toNat + 32 ≤ s.myTeam.size → ¬waits → done (fun b => s.spByte (coreOf s.w.team) (s.myTeam.base + a.toNat + b))) ∧
      (i.sp = false → ¬waits → s.Here wantR 0 a 32 → (∀ x, s.copyByte s.peer x = none) →
        ∀ A : Nat → Nat, (∀ b, b < 32 → s.Stands wantR 0 a 32 b (A b)) → done (fun b => s.byte (A b))))) ∧
  (∀ i : CopyOp,
    let out := exec (.copy i) s
    let r := s.w.h i.hreg.toNat
    let f := fun (lo n : Nat) => (r.extractLsb' lo n).toNat
    let dst := s.w.s i.dst.toNat
    let src := s.w.s i.src.toNat
    let g := if i.dir = .s2g then dst else src
    let l : DWord := if i.dir = .s2g then src else if i.dir = .g2s then dst else dst &&& 0xFFFFFFFF
    let n := if i.dir = .g2o then (dst.extractLsb' 32 5).toNat else 0
    let x := s.myCore.resvAt n
    let traps := fun (c : Cause) => TrapsWith out s c (s.w.parts i.h)
    let e0 := r.getLsbD 255 = false
    let e4 := i.dir = .g2o ∧ f 242 5 ≠ 0
    let e2 := i.dir = .g2o ∧ dst.extractLsb' 37 27 ≠ 0
    let e3 := i.dir = .g2o ∧ ¬(x.state = .held ∧ x.owner = slotOf s.w.team)
    let e1 := g.toNat % 2 ^ f 216 2 ≠ 0 ∨ l.toNat % 4 ≠ 0 ∨ (f 242 5 ≠ 0 ∧ l.toNat % 128 ≠ 0)
    let e5 := i.dir ≠ .g2o ∧ s.myTeam.size < l.toNat + layTotal r
    let e6 := i.dir = .g2o ∧ x.size * 128 < l.toNat + layTotal r
    let e7 := layOutside r g = true
    let e8 := ∃ b, i.bar = some b ∧ (s.bar s.w.team b.toNat).valid = false
    coreOf s.w.team = coreOf s.cur →
    (e0 → traps 0x1E0) ∧ (¬e0 → e4 → traps 0x1E4) ∧ (¬e0 → ¬e4 → e2 → traps 0x1E2) ∧ (¬e0 → ¬e4 → ¬e2 → e3 → traps 0x1C1) ∧
    (¬e0 → ¬e4 → ¬e2 → ¬e3 → e1 → traps 0x1E1) ∧ (¬e0 → ¬e4 → ¬e2 → ¬e3 → ¬e1 → e5 → traps 0x114) ∧
    (¬e0 → ¬e4 → ¬e2 → ¬e3 → ¬e1 → ¬e5 → e6 → traps 0x1E2) ∧ (¬e0 → ¬e4 → ¬e2 → ¬e3 → ¬e1 → ¬e5 → ¬e6 → e7 → traps 0x0C2) ∧
    (¬e0 → ¬e4 → ¬e2 → ¬e3 → ¬e1 → ¬e5 → ¬e6 → ¬e7 → e8 → traps 0x18A) ∧
    (¬e0 → ¬e4 → ¬e2 → ¬e3 → ¬e1 → ¬e5 → ¬e6 → ¬e7 → ¬e8 → idle out i.h 12 ∧ (s.w.parts i.h ≠ 0 →
      Queued out s 12 (if s.myCore.active = true then 4 + s.myTeam.tenant else 4) i.h.sw
        (fun id => { s.w with pending := s.w.pending ++ [⟨id, s.w.parts i.h, .copy id i.d.toNat⟩], openCopies := s.w.openCopies ++ [id] })
        (fun id => { id := id, slot := slotOf s.cur, team := s.w.team, lanes := s.w.parts i.h, guard := none, hold := false, succ := none, tag := 0,
                     dest := .sreg i.d.toNat, body := .copy ⟨i.hreg.toNat, i.dir, g, l.toNat, n, i.bar, s.w.snap, none, none⟩ })))) ∧
  (∀ i : HD,
    let out := exec (.cbatch i) s
    let live := s.w.batches.filter (fun b => b.2 != [])
    let n : Word := if s.w.batch = 0xFFFFFFFF then 1 else s.w.batch + 1
    idle out i.h 8 ∧ (s.w.parts i.h ≠ 0 →
      (16 ≤ live.length → ∃ t, out = .next t ∧ OnlyWarp s t ∧ t.w.stat = .parked ∧ t.w.reason = 8 ∧ t.w.pc = s.w.pc) ∧
      (live.length < 16 → ∃ t, out = .next t ∧ OnlyWarp s t ∧ t.w.At (s.w.pc + 8) i.h.sw ∧ t.w.batch = n ∧
        (∀ r, t.w.s r = if r = i.d.toNat then n.setWidth 64 else s.w.s r) ∧ KeepsV s t ∧ t.w.openCopies = [] ∧
        t.w.batches.head? = some (n, s.w.openCopies) ∧ t.w.batches.tail.filter (fun b => b.2 != []) = live))) ∧
  (∀ i : HI,
    let out := exec (.cwait i) s
    let open_ := ∃ b ∈ s.w.batches.drop i.imm.toNat, b.2 ≠ []
    idle out i.h 12 ∧ (s.w.parts i.h ≠ 0 →
      (open_ → ∃ t, out = .next t ∧ OnlyWarp s t ∧ t.w.stat = .parked ∧ t.w.reason = 7 ∧ t.w.pc = s.w.pc) ∧
      (¬open_ → WarpStep out s { s.w with batches := s.w.batches.filter (fun b => b.2 != []) } (s.w.pc + 12) i.h.sw))) ∧
  (∀ i : HA,
    let out := exec (.ccancel i) s
    let v := s.w.s i.a.toNat
    let ids := fun (id : Nat) => if v = 0 then id ∈ s.w.openCopies else ∃ b ∈ s.w.batches, b.1 = v.setWidth 32 ∧ id ∈ b.2
    idle out i.h 8 ∧ (s.w.parts i.h ≠ 0 →
      (v.extractLsb' 32 32 ≠ 0 → TrapsWith out s 0x1E3 (s.w.parts i.h)) ∧
      (v.extractLsb' 32 32 = 0 → ∃ t, out = .next t ∧ t.w.At (s.w.pc + 8) i.h.sw ∧ t.mem = s.mem ∧ KeepsV s t ∧
        (∀ p c, p = 4 ∨ p = 5 → (s.myCore.port p).exec = some c → (t.myCore.port p).exec = some c ∧
          ((t.myCore.port p).prog.canc = true ↔ (s.myCore.port p).prog.canc = true ∨ ids c.id)) ∧
        let queued := fun (p : Nat) => (s.myCore.port p).queue
        (∀ p, p = 4 ∨ p = 5 → ((queued p).map (·.id)).Nodup →
          (∀ c ∈ queued p, ids c.id → c.out = false ∧ c.dest ≠ .port) →
          ∀ c, c ∈ (t.myCore.port p).queue ↔ c ∈ queued p ∧ ¬ids c.id) ∧
        ∀ p c q n (r : Pending), p = 4 ∨ p = 5 → ((queued p).map (·.id)).Nodup → c ∈ queued p → ids c.id → c.body = .copy q →
          q.sched = none → q.bar = none → c.out = false → c.ovf = false → c.gone = false → c.slot = slotOf s.cur → c.dest = .sreg n →
          (∀ x d, (x = 4 ∨ x = 5) → d ∈ queued x → ids d.id → d ≠ c → d.dest ≠ .sreg n) →
          r ∈ s.w.pending → (∀ y ∈ s.w.pending, y.kind = .copy c.id n ∨ y.id = r.id ↔ y = r) →
          t.w.s n = 3 <<< 62 ∧ r ∉ t.w.pending)))

/-- R205, R246, R260, R264 to R268, R272 and R273. The wait for room in the status port is the model's choice (log entry 46). -/
def Obligations.CopyPartsMoveTheirElements : Prop :=
  ∀ (s : State) (r : PortRef) (c : Cmd) (q : CopyReq), (s.port r.core r.port).exec = some c → c.body = .copy q →
  let core := s.core r.core
  let p := (s.port r.core r.port).prog
  let f := fun (lo n : Nat) => (p.layout.extractLsb' lo n).toNat
  let e := 2 ^ f 216 2
  let total := layCount p.layout
  let va := fun (n : Nat) => q.gbase + BitVec.ofInt 64 (layGlobal p.layout n)
  let ended := p.canc = true ∨ p.code ≠ 0 ∨ total ≤ p.done
  let others := fun (t : State) => t.warps = s.warps ∧ (∀ k, k ≠ r.core → t.core k = s.core k) ∧
    (∀ n, n ≠ r.port → t.port r.core n = s.port r.core n) ∧ (t.port r.core r.port).exec = some c ∧
    (t.port r.core r.port).queue = (s.port r.core r.port).queue
  let leaves := fun (t : State) (k n : Nat) => match q.bar with
    | none => t.teams = s.teams ∧ t.cohorts = s.cohorts
    | some b =>
      let o := s.bar k b.toNat
      let x := max (o.txb.toInt - n) (-(2 ^ 35))
      let o1 : Barrier := { o with txb := BitVec.ofInt 36 x }
      let left := o.expect - o.drop
      t.bar k b.toNat = if o.valid = true ∧ o.pend = 0 ∧ o1.txb = 0 then
        ({ o1 with phase := o.phase + 1, expect := left, drop := 0, valid := decide (left ≠ 0), pend := left } : Barrier) else o1
  (ended ∨ p.stalled ≠ none ∨ p.remote ≠ none ∨ s.copyHalted r.core r.port c = true → exec (.copyPart r) s = .next s) ∧
  (core.active = true → core.copyTurn = r.port → s.copyReady r.core (9 - r.port) = true → exec (.copyPart r) s = .next s) ∧
  (¬ended → p.stalled = none → p.remote = none → s.copyHalted r.core r.port c = false → ¬(core.active = true ∧ core.copyTurn = r.port ∧ s.copyReady r.core (9 - r.port) = true) →
    let k := c.team
    let ctx := (s.team k).ctx
    let part := fun (n : Nat) => p.done ≤ n ∧ n < total ∧ (q.lbase + n * e) / 128 = (q.lbase + p.done * e) / 128
    let tr := fun (n : Nat) => s.translate ctx (r.core / 64) (if q.dir = .s2g then wantW else wantR) (n % 65536) (va n)
    let base := if q.dir = .g2o then (core.resvAt q.recNo).base * 128 else (s.team k).base
    let ob := decide (q.dir = .g2o)
    let place := fun (n b : Nat) => let a := q.lbase + n * e + b
      base + (a ^^^ ((f 242 5 &&& (a / 128 % 32)) * 4))
    (∀ n x, part n → tr n = .error x → (∀ m, part m → m < n → ∃ t, tr m = .ok t) → ∃ t, exec (.copyPart r) s = .next t ∧
      others t ∧ t.mem = s.mem ∧ (t.port r.core r.port).prog = { p with stalled := some s.nextId } ∧
      ∃ y : FaultRec, t.faultQ ++ t.faultHeld = s.faultQ ++ s.faultHeld ++ [y] ∧ y.id = s.nextId ∧ y.kind = 0 ∧ y.acc = 4 ∧
        y.cause = x ∧ y.va = va n ∧ y.ctx = ctx ∧ y.core = r.core ∧ y.slot = c.slot) ∧
    ∀ T : Nat → Trans, (∀ n, part n → tr n = .ok (T n) ∧ (T n).peer = s.peer) →
      ((∃ n, part n ∧ (T n).okind = 0) → ∀ x ∈ s.remotes, x.path = 2 → x.warp ≠ r.core * 16 + c.slot) →
      let addr := fun (n b : Nat) => (T n).addr (va n) + b
      ((∃ n, part n ∧ (T n).vers = true) → q.dir = .s2g → ∃ t, exec (.copyPart r) s = .next t ∧ others t ∧ t.mem = s.mem ∧
        (t.port r.core r.port).prog.code = 0x08A ∧ (t.port r.core r.port).prog.done = p.done) ∧
      ((∀ n, part n → (T n).vers = false) → (s.team k).used = true → p.bytes = p.done * e → f 242 5 = 0 ∨ q.lbase % 128 = 0 → ∃ t, exec (.copyPart r) s = .next t ∧ others t ∧
        (let g := (t.port r.core r.port).prog
         (∀ n, part n ↔ p.done ≤ n ∧ n < g.done) ∧ g.bytes = p.bytes + (g.done - p.done) * e ∧ g.code = 0 ∧ g.canc = false ∧
         g.stalled = none ∧ g.remote = none ∧ g.layout = p.layout ∧ leaves t k ((g.done - p.done) * e)) ∧
        (∀ n, (t.core r.core).full = core.full ∧ (t.core r.core).sram (!ob) n = core.sram (!ob) n) ∧
        (q.dir ≠ .s2g → t.mem = s.mem ∧
          (∀ n b, part n → b < e → (t.core r.core).sram ob (place n b) = s.byte (addr n b)) ∧
          ∀ a, (∀ n b, part n → b < e → place n b ≠ a) → (t.core r.core).sram ob a = core.sram ob a) ∧
        (q.dir = .s2g → (∀ a, (t.core r.core).sram ob a = core.sram ob a) ∧
          ∀ a, ((∀ n b, part n → b < e → addr n b ≠ a) ∧ t.byte a = s.byte a) ∨
            ∃ n b, part n ∧ b < e ∧ addr n b = a ∧ t.byte a = core.sram ob (place n b) ∧
              ∀ n' b', part n' → b' < e → addr n' b' = a → n' ≤ n))) ∧
  (∀ i : CopyData, ∀ w : RemotePart, s.portOfTag i.tag = some (r.core, r.port) → p.remote = some w →
    (i.bytes.length ≠ w.dests.length → exec (.copyReadResponse i) s = .next s) ∧
    (i.bytes.length = w.dests.length → w.dests.Nodup → ∃ t, exec (.copyReadResponse i) s = .next t ∧ others t ∧ t.mem = s.mem ∧
      (t.port r.core r.port).prog.done = p.done + w.elems ∧ (t.port r.core r.port).prog.remote = none ∧
      (∀ n, n < w.dests.length → (t.core r.core).sram (decide (q.dir = .g2o)) (w.dests.getD n 0) = i.bytes.getD n 0) ∧
      ((s.team c.team).used = true → p.canc = false → p.code = 0 → p.bytes = p.done * e → p.done + w.elems ≤ total →
        (t.port r.core r.port).prog.bytes = p.bytes + w.elems * e ∧ leaves t c.team (w.elems * e)) ∧
      ∀ a, a ∉ w.dests → (t.core r.core).sram (decide (q.dir = .g2o)) a = core.sram (decide (q.dir = .g2o)) a)) ∧
  exec (.copyComplete r) s = exec (.engineCommandComplete r) s ∧
  (¬ended ∨ p.remote ≠ none → exec (.copyComplete r) s = .next s) ∧
  (ended → p.remote = none → q.sched = none → (q.bar = none ∨ layTotal p.layout ≤ p.bytes) → c.gone = false →
    (∀ l ∈ s.lateCopies, l.cmd = c.id → l.dests = []) →
    let w := s.warp (r.core * 16 + c.slot)
    let status := fun (st : DWord) => st.getLsbD 63 = true ∧
      st.getLsbD 62 = (p.canc && decide (p.bytes < layTotal p.layout)) ∧ st.getLsbD 61 = (p.ovf || c.ovf) ∧
      st.extractLsb' 50 11 = 0 ∧ st.extractLsb' 40 10 = p.code ∧ (st.extractLsb' 0 40).toNat = p.bytes % 2 ^ 40
    let leaves := fun (t : State) => exec (.copyComplete r) s = .next t ∧ t.mem = s.mem ∧ (t.port r.core r.port).exec = none ∧
      (∀ k, k ≠ r.core * 16 + c.slot → t.warp k = s.warp k) ∧
      ∀ id, id ∈ (t.warp (r.core * 16 + c.slot)).openCopies ↔ id ∈ w.openCopies ∧ id ≠ c.id
    (∀ (n : Nat) (x : Pending), c.dest = .sreg n → x ∈ w.pending → x.kind = .copy c.id n →
      (∀ y ∈ w.pending, (y.kind = .copy c.id n ∨ y.id = x.id) → y = x) → ∃ t, leaves t ∧
        (let u := t.warp (r.core * 16 + c.slot)
         { u with sregs := w.sregs, pending := w.pending, openCopies := w.openCopies, batches := w.batches } = w ∧
         (∀ m, m ≠ n → u.s m = w.s m) ∧ (∀ y, y ∈ u.pending ↔ y ∈ w.pending ∧ y.id ≠ x.id) ∧ status (u.s n))) ∧
    (c.dest = .port → w.stat ≠ .free → w.stat ≠ .retiring →
      (w.statusPort.length < 16 → ∃ t st, leaves t ∧ status st ∧
        (let u := t.warp (r.core * 16 + c.slot)
         { u with statusPort := w.statusPort, openCopies := w.openCopies, batches := w.batches } = w ∧
         u.statusPort = w.statusPort ++ [(st, c.tag)])) ∧
      (16 ≤ w.statusPort.length → ∃ t, exec (.copyComplete r) s = .next t ∧ t.mem = s.mem ∧ t.warps = s.warps ∧
        (t.port r.core r.port).exec = some c)))

/-- R260: L / e, and GA - gbase. -/
def Obligations.LayoutsMapIndicesOneToOne : Prop :=
  ∀ r : BitVec 256,
  let f := fun (lo n : Nat) => (r.extractLsb' lo n).toNat
  let dims := f 213 3
  let ext := fun (d : Nat) => if d < dims then f (24 * d) 24 + 1 else 1
  let order := fun (k : Nat) => f (219 + 3 * k) 3
  let stride := fun (d : Nat) => (r.extractLsb' (120 + 22 * (d - 1)) 22).toInt * 2 ^ f 208 5
  let b0 := 2 ^ f 234 4
  let b1 := 2 ^ f 238 4
  let m := fun (d : Nat) => if d = 0 then ext 0 / b0 else if d = 1 then ext 1 / b1 else ext d
  let num := fun (i : Nat → Nat) =>
    let x := fun (d : Nat) => if d = 0 then i 0 / b0 else if d = 1 then i 1 / b1 else i d
    let w := if f 218 1 = 0 then i 0 % b0 + b0 * (i 1 % b1) else i 1 % b1 + b1 * (i 0 % b0)
    let blk := (List.range dims).foldl (fun a k => a * m (order k) + x (order k)) 0
    blk * b0 * b1 + w
  1 ≤ dims → dims ≤ 5 → (∀ d, d < dims → ∃ k, k < dims ∧ order k = d) → ext 0 % b0 = 0 → ext 1 % b1 = 0 →
  (∀ n, n < layCount r → ∃ i : Nat → Nat, (∀ d, d < 5 → i d < ext d) ∧ num i = n) ∧
  ∀ i : Nat → Nat, (∀ d, d < 5 → i d < ext d) →
    num i < layCount r ∧
    layGlobal r (num i) = (i 0 : Int) * 2 ^ f 216 2 + i 1 * stride 1 + i 2 * stride 2 + i 3 * stride 3 + i 4 * stride 4 ∧
    ∀ j : Nat → Nat, (∀ d, d < 5 → j d < ext d) → num j = num i → ∀ d, d < 5 → j d = i d

/-- R275 to R278, R280 to R288, R290, R335 and R336. The waits and holds of reading the records are log entry 42, the order of held copies
and the end of a region that has some 93, and a copy released for a claimed iteration 74. -/
def Obligations.StagedLoopsClaimAdvanceAndRetireInOrder : Prop :=
  ∀ s : State,
  let idle := fun (out : Out) (h : Hdr) (len : Nat) => s.w.parts h = 0 → WarpStep out s s.w (s.w.pc + BitVec.ofNat 64 len) h.sw
  let parks := fun (out : Out) (reason : Nat) => ∃ t, out = .next t ∧ OnlyWarp s t ∧ t.w.stat = .parked ∧ t.w.reason = reason ∧
    t.w.pc = s.w.pc ∧ t.w.sregs = s.w.sregs ∧ t.w.preds = s.w.preds ∧ t.w.stg = s.w.stg ∧ t.w.member = s.w.member
  let frame := fun (t : State) (k : Nat) => t.mem = s.mem ∧ (∀ x, x ≠ s.cur → t.warp x = s.warp x) ∧
    (∀ n, n ≠ k → t.region n = s.region n) ∧ ∀ c, c ≠ coreOf (s.region k).anchor → t.core c = s.core c
  let goes := fun (t : State) (g : Warp) (len : Nat) (sw : Bool) => t.w.body = g.body ∧ t.w.At (s.w.pc + BitVec.ofNat 64 len) sw
  -- the copies that the entries with a release stage from lo to hi issue for iteration i, in entry order
  let dues := fun (r : Region) (i lo hi stage : Nat) (ds : List (Nat × Nat × Nat)) =>
    ds.Pairwise (fun x y => x.2.1 < y.2.1) ∧ ∀ j e g, (j, e, g) ∈ ds ↔ g = stage ∧ j < r.count.toNat ∧
      ∃ x, (s.entriesOf r)[e]? = some x ∧ lo ≤ x.at_ ∧ x.at_ ≤ hi ∧ j = i + x.ahead
  let near := fun (r : Region) (c : Nat × Nat × Nat) => c.1 < r.low.toNat + 64
  let first := fun (x y : Nat × Nat × Nat) => x.2.1 < y.2.1 ∨ (x.2.1 = y.2.1 ∧ x.1 ≤ y.1)
  -- the held and released copies, but for those that have entered the port
  let moved := fun (t : State) (k : Nat) (ds : List (Nat × Nat × Nat)) =>
    (t.region k).held.Sublist ((s.region k).held ++ ds) ∧ ∃ gone, List.Perm (gone ++ (t.region k).held) ((s.region k).held ++ ds) ∧
      ∀ x ∈ gone, near (t.region k) x ∧ ∀ y ∈ (t.region k).held, near (t.region k) y → first x y
  -- a held or released copy of another iteration leaves the slot of j alone
  let apart := fun (r : Region) (j : Nat) (ds : List (Nat × Nat × Nat)) => ∀ c, c ∈ r.held ∨ c ∈ ds → c.1 % 64 ≠ j % 64
  let on := fun (out : Out) (h : Hdr) (R : Nat → Nat → Prop) => s.w.parts h ≠ 0 →
    (s.w.member = none → TrapsWith out s 0x242 (s.w.parts h)) ∧
    ∀ k, s.w.member = some k → (s.w.stg.getLsbD 31 = false → TrapsWith out s 0x243 (s.w.parts h)) ∧
      (s.w.stg.getLsbD 31 = true → R k ((s.region k).slot (s.w.stg.extractLsb' 16 6).toNat).iter.toNat)
  let sets := fun (out : Out) (h : Hdr) (k j : Nat) (new : Nat) =>
    let r := s.region k
    (r.lim.toNat < new → TrapsWith out s 0x245 (s.w.parts h)) ∧
    (new ≤ r.lim.toNat → ∀ ds, dues r j ((r.slot j).stage.toNat + 1) new new ds →
      (16 < r.held.length + ds.length → parks out 12) ∧
      (r.held.length + ds.length ≤ 16 → (s.releaseHolds none = true → out = .next s.hold) ∧
        (s.releaseHolds none = false → r.left < r.memb → ∃ t, out = .next t ∧ frame t k ∧ moved t k ds ∧
          goes t { s.w with stg := BitVec.ofNat 32 (2 ^ 31 + k % 64 * 2 ^ 22 + j % 64 * 2 ^ 16 + new) } 8 h.sw ∧
          (t.region k).next = r.next ∧ (t.region k).low = r.low ∧ (t.region k).state = r.state ∧
          (apart r j ds → (t.region k).slot j = { r.slot j with stage := BitVec.ofNat 16 new }))))
  (∀ i : SLoop,
    let out := exec (.sloop i) s
    let v := s.w.s i.a.toNat
    let traps := fun (c : Cause) => TrapsWith out s c (s.w.parts i.h)
    let anchor := if i.coh = true then (s.cohort s.myTeam.cohort).teams.headD s.w.team else s.w.team
    let members := if i.coh = true then (s.cohort s.myTeam.cohort).teams.length * s.myTeam.warps else s.myTeam.warps
    let mine := fun (e : Nat × Region) => e ∈ s.regions ∧ e.2.state ≠ .free ∧ e.2.anchor = anchor ∧ e.2.coh = i.coh ∧ e.2.tag = i.tag ∧
      (e.2.state = .closing → e.2.left < e.2.memb)
    let held := (s.launchOf s.w.team).elim 0 (fun l => l.num 0x2A 1)
    let base := groveOf (coreOf s.cur) * 64 + if (s.ctx s.w.ctx).resident = true then 32 else 0
    let full := (if (s.core (coreOf anchor)).splitMode = true then 2 else 4) ≤ (s.regions.filter (fun e => e.2.state != .free &&
      coreOf e.2.anchor == coreOf anchor && (s.team e.2.anchor).tenant == s.tenant)).length
    let lowest := fun (n : Nat) => n < 32 ∧ (s.region (base + n)).state = .free ∧ ∀ m, m < n → (s.region (base + m)).state ≠ .free
    let es := if i.cs = true then (s.launchOf s.w.team).elim [] (fun l => l.schedule i.tag.toNat) else []
    idle out i.h 12 ∧ (s.w.parts i.h ≠ 0 →
      (∀ k, s.w.member = some k → s.w.reason ≠ 9 → traps (if v.extractLsb' 32 32 ≠ 0 then 0x249 else 0x241)) ∧
      (s.w.member = none →
        (v.extractLsb' 32 32 ≠ 0 → traps 0x249) ∧
        (v.extractLsb' 32 32 = 0 → i.cs = true → i.coh = true ∨ held ≤ i.tag.toNat → traps 0x247) ∧
        (v.extractLsb' 32 32 = 0 → i.cs = false ∨ (i.coh = false ∧ i.tag.toNat < held) →
          (∀ e, mine e → (∀ y, mine y → y = e) →
            let same := e.2.count = v.setWidth 32 ∧ e.2.w = i.w.toNat ∧ e.2.lim = i.lim ∧ e.2.cs = i.cs
            (¬same → traps 0x241) ∧ (same → WarpStep out s { s.w with member := some e.1 } (s.w.pc + 12) i.h.sw)) ∧
          ((∀ e, ¬mine e) →
            (full ∨ (∀ n, ¬lowest n) → parks out 9) ∧
            ∀ n, ¬full → lowest n →
              (∀ c a, s.buildRecs (s.w.parts i.h) es 0 = .error (.trap c a) → out = .next (s.precise c (s.w.parts i.h) a)) ∧
              (∀ e l, es = e :: l → e.lrec.toNat % 32 ≠ 0 → Tab.get [] s.w.entries 0 = [] →
                out = .next (s.precise 0x1E1 (s.w.parts i.h) e.lrec)) ∧
              (s.buildRecs (s.w.parts i.h) es 0 = .error .hold → out = .next s.hold) ∧
              (∀ r, s.buildRecs (s.w.parts i.h) es 0 = .error (.wait r) → parks out r) ∧
              -- `u` is the state in which the records have been read, and no watch hit came of it
              ∀ u recs, s.buildRecs (s.w.parts i.h) es 0 = .ok (u, recs) → u.w.watch = none → ∃ t, out = .next t ∧ t.mem = s.mem ∧
                (∀ x, x ≠ s.cur → t.warp x = s.warp x) ∧ (∀ m, m ≠ base + n → t.region m = s.region m) ∧
                t.w.member = some (base + n) ∧ t.w.vregs = s.w.vregs ∧ t.w.sregs = s.w.sregs ∧ t.w.preds = s.w.preds ∧
                (let r := t.region (base + n)
                 let copies := (prologue es (v.extractLsb' 0 32).toNat).length
                 r.state = (if v.extractLsb' 0 32 = 0 then .closing else .opened) ∧ r.memb = members ∧ r.left = 0 ∧
                 r.anchor = anchor ∧ r.count = v.setWidth 32 ∧ r.next = 0 ∧ r.low = 0 ∧ r.lim = i.lim ∧ r.w = i.w.toNat ∧
                 r.tag = i.tag ∧ r.cs = i.cs ∧ r.coh = i.coh ∧ r.recs = recs ∧ r.held.length ≤ 16 ∧ r.pro ≤ copies ∧
                 (i.cs = false → r.held = [] ∧ r.slots = []) ∧ (r.pro = copies → t.w.At (s.w.pc + 12) i.h.sw) ∧
                 (r.pro < copies → t.w.stat = .parked ∧ t.w.reason = 9 ∧ t.w.pc = s.w.pc))))))) ∧
  (∀ i : HDB,
    let out := exec (.snext i) s
    let m := s.w.parts i.h
    idle out i.h 8 ∧ (m ≠ 0 →
      (s.w.member = none → TrapsWith out s 0x242 m) ∧
      ∀ k, s.w.member = some k →
      (s.w.stg.getLsbD 31 = true → TrapsWith out s 0x243 m) ∧
      (s.w.stg.getLsbD 31 = false →
        let r := s.region k
        let j := r.next.toNat
        let e := r.slot j
        (r.next = r.count →
          WarpStep out s ((s.w.setS i.d.toNat 0xFFFFFFFFFFFFFFFF).setPLanes m i.b.toNat 0) (s.w.pc + 8) i.h.sw) ∧
        (r.next ≠ r.count → ∀ ds, dues r j 0 0 0 ds →
          let waits := r.low.toNat + r.w ≤ j ∨ r.pro < (prologue (s.entriesOf r) r.count.toNat).length ∨ e.pendc ≠ 0 ∨
            16 < r.held.length + ds.length
          (waits → parks out 10) ∧
          (¬waits → e.iter = r.next → e.fcode ≠ 0 → out = .next (s.precise 0x248 m (e.fcode.setWidth 64))) ∧
          (¬waits → ¬(e.iter = r.next ∧ e.fcode ≠ 0) → r.left < r.memb → ∃ t, out = .next t ∧ frame t k ∧ moved t k ds ∧
            goes t ((({ s.w with stg := BitVec.ofNat 32 (2 ^ 31 + k % 64 * 2 ^ 22 + j % 64 * 2 ^ 16) } : Warp).setS i.d.toNat
              (BitVec.ofNat 64 j)).setPLanes m i.b.toNat 0xFFFFFFFF) 8 i.h.sw ∧
            (t.region k).next = r.next + 1 ∧ (t.region k).low = r.low ∧ (t.region k).state = r.state ∧
            (apart r j ds → (t.region k).slot j =
              ({ st := 2, pendc := 0, fcode := 0, stage := 0, iter := r.next } : Slot))))))) ∧
  (∀ i : HA,
    let v := (s.w.s i.a.toNat).toInt
    let adv := exec (.sadv i) s
    let jmp := exec (.sjmp i) s
    idle adv i.h 8 ∧ idle jmp i.h 8 ∧
    on adv i.h (fun k j => (v < 0 → TrapsWith adv s 0x244 (s.w.parts i.h)) ∧
      (0 ≤ v → sets adv i.h k j (((s.region k).slot j).stage.toNat + v.toNat))) ∧
    on jmp i.h (fun k j => (v < 0 → TrapsWith jmp s 0x244 (s.w.parts i.h)) ∧
      (0 ≤ v → sets jmp i.h k j (max ((s.region k).slot j).stage.toNat v.toNat)))) ∧
  (let waitl := fun (out : Out) (h : Hdr) (len k j st : Nat) =>
     let r := s.region k
     let e := r.slot (j - 1)
     let free := j = 0 ∨ j - 1 < r.low.toNat ∨ (e.iter.toNat = j - 1 ∧ (e.st = 3 ∨ st ≤ e.stage.toNat))
     (free → WarpStep out s s.w (s.w.pc + BitVec.ofNat 64 len) h.sw) ∧ (¬free → parks out 11)
   (∀ i : WaitL, idle (exec (.waitl i) s) i.h 12 ∧
     on (exec (.waitl i) s) i.h (fun k j => waitl (exec (.waitl i) s) i.h 12 k j i.s.toNat)) ∧
   ∀ i : HA, idle (exec (.waitlReg i) s) i.h 8 ∧
     on (exec (.waitlReg i) s) i.h (fun k j =>
       (65535 < (s.w.s i.a.toNat).toNat → TrapsWith (exec (.waitlReg i) s) s 0x246 (s.w.parts i.h)) ∧
       ((s.w.s i.a.toNat).toNat ≤ 65535 → waitl (exec (.waitlReg i) s) i.h 8 k j (s.w.s i.a.toNat).toNat))) ∧
  (∀ i : Hdr,
    let out := exec (.sret i) s
    idle out i 8 ∧ on out i (fun k j =>
      let r := s.region k
      let g := (r.slot j).stage.toNat
      ∀ ds, dues r j (g + 1) 65535 g ds →
      (16 < r.held.length + ds.length → parks out 12) ∧
      (r.held.length + ds.length ≤ 16 → (s.releaseHolds none = true → out = .next s.hold) ∧
        (s.releaseHolds none = false → r.left < r.memb → ∃ t, out = .next t ∧ frame t k ∧ moved t k ds ∧ goes t { s.w with stg := 0 } 8 i.sw ∧
          (let u := t.region k
           let gone := fun (n : Nat) => n % 64 = j % 64 ∧ (r.slot j).iter.toNat = n ∨ ((r.slot n).iter.toNat = n ∧ (r.slot n).st = 3)
           u.next = r.next ∧ r.low.toNat ≤ u.low.toNat ∧ u.low.toNat ≤ max r.low.toNat r.next.toNat ∧
           (∀ n, r.low.toNat ≤ n → n < u.low.toNat → gone n) ∧
           (u.low.toNat < r.next.toNat → u.low.toNat < r.low.toNat + 64 → ¬gone u.low.toNat) ∧
           u.state = (if r.state = .opened ∧ u.low = r.count then .closing else r.state) ∧
           (apart r j ds → (u.slot j).st = 3 ∧ (u.slot j).iter = (r.slot j).iter ∧ (u.slot j).stage = (r.slot j).stage)))))) ∧
  (∀ i : Hdr,
    let out := exec (.sclose i) s
    idle out i 8 ∧ (s.w.parts i ≠ 0 →
      (s.w.member = none → TrapsWith out s 0x242 (s.w.parts i)) ∧
      ∀ k, s.w.member = some k →
      (s.w.stg.getLsbD 31 = true → TrapsWith out s 0x243 (s.w.parts i)) ∧
      (s.w.stg.getLsbD 31 = false →
        let r := s.region k
        let left := r.left + 1
        (r.state ≠ .closing → parks out 13) ∧
        (r.state = .closing → ∃ t, out = .next t ∧ frame t k ∧ goes t { s.w with member := none } 8 i.sw ∧
          (r.memb ≤ left → r.held = [] → t.region k = {} ∧ ∀ p,
            let x := s.port (coreOf r.anchor) p
            t.port (coreOf r.anchor) p = if p = 4 ∨ p = 5 then
              { x with queue := x.queue.map (Cmd.cutSched k), exec := x.exec.map (Cmd.cutSched k) } else x) ∧
          (left < r.memb ∨ r.held ≠ [] → t.cores = s.cores ∧ (t.region k).left = left ∧ s.cur ∈ (t.region k).gone ∧
            (t.region k).state = .closing ∧ (t.region k).slots = r.slots ∧ (t.region k).held = r.held))))) ∧
  (∀ k : Nat,
    let r := s.region k
    let p := if (s.core (coreOf r.anchor)).splitMode = true then 4 + (s.team r.anchor).tenant else 4
    let x := s.port (coreOf r.anchor) p
    ∃ t, exec (.heldCopyEnterPort k) s = .next t ∧ t.mem = s.mem ∧ t.warps = s.warps ∧ (∀ n, n ≠ k → t.region n = s.region n) ∧
      (r.held = [] → t = s) ∧
      let full := 32 ≤ x.exec.toList.length + x.queue.length
      (full ∨ (∀ c ∈ r.held, ¬near r c) → t = s) ∧
      (¬full → (∃ c ∈ r.held, near r c) → ∃ c ∈ r.held, near r c ∧ (∀ y ∈ r.held, near r y → first c y) ∧
        (r.state = .closing → r.memb ≤ r.left → r.held = [c] → t.region k = {}) ∧
        ((r.state = .closing → r.left < r.memb) → (t.region k).held = r.held.erase c ∧
          ((t.port (coreOf r.anchor) p).queue = x.queue ∨ ∃ y q, (t.port (coreOf r.anchor) p).queue = x.queue ++ [y] ∧
            y.body = .copy q ∧ q.sched = some (k, c.1) ∧ y.dest = .none ∧ y.team = r.anchor))))

/-- R292, R298, R300, R301, R304, R305 and R310. That an entry whose COUNT is full takes no share is the model's choice (log entry 47), and
reason 19 for the wait for a stamp its reading (49). -/
def Obligations.SnapshotsAndTransactionsBeginAndEnd : Prop :=
  ∀ s : State,
  let idle := fun (out : Out) (h : Hdr) => s.w.parts h = 0 → WarpStep out s s.w (s.w.pc + 8) h.sw
  let inTx := fun (w : Warp) => w.txState = .active ∨ w.txState = .doomed
  -- the entries once warp w has released its own
  let base := fun (w : Warp) (d i : Nat) =>
    let e := s.snapEntry d i
    if w.snapIx = some (d, i) then (if e.count.toNat ≤ 1 then ({} : Snap) else { e with count := e.count - 1 }) else e
  let others := fun (u : State) (k : Nat) => (∀ n, n ≠ k → u.warp n = s.warp n) ∧ u.mem = s.mem ∧ u.cores = s.cores
  let takes := fun (out : Out) (t : DWord) (g : Nat → Warp) (sw : Bool) =>
    let d := s.myDie
    let joins := fun (i : Nat) => (base s.w d i).used = true ∧ (base s.w d i).ft = t ∧ (base s.w d i).ctx = s.w.ctx ∧
      (base s.w d i).count ≠ 0xFFFF
    let chosen := fun (i : Nat) => i < 1024 ∧ ((joins i ∧ ∀ j, j < i → ¬joins j) ∨
      ((∀ j, j < 1024 → ¬joins j) ∧ (base s.w d i).used = false ∧ ∀ j, j < i → (base s.w d j).used = true))
    (∀ i, chosen i → ∃ u, out = .next u ∧ others u s.cur ∧ u.w.body = (g i).body ∧ u.w.At (s.w.pc + 8) sw ∧
      ∀ c j, u.snapEntry c j = if c = d ∧ j = i then
        ({ used := true, ft := t, ctx := s.w.ctx, count := (base s.w d i).count + 1,
           expired := (base s.w d i).used && (base s.w d i).expired } : Snap) else base s.w c j) ∧
    ((∀ i, ¬chosen i) → ∃ u, out = .next u ∧ others u s.cur ∧ u.w.stat = .parked ∧ u.w.reason = 16 ∧ u.w.pc = s.w.pc ∧
      u.w.snapIx = none ∧ u.w.snapWait = some t ∧ u.w.snap = s.w.snap ∧ u.w.txState = s.w.txState ∧ ∀ c j, u.snapEntry c j = base s.w c j)
  let ends := fun (u : State) (k : Nat) (st : TxState) (code : BitVec 6) (g : Warp → Warp) =>
    others u k ∧ (∀ d i, u.snapEntry d i = base (s.warp k) d i) ∧
    (u.warp k).body = (g { s.warp k with snapIx := none, snap := 0, txState := st, txCode := code, txStart := 0 }).body
  -- the stamp t of warp k's commit is installed and 50 ns old
  let ready := fun (k : Nat) (t : DWord) => (∀ e ∈ s.chains, ∀ b, e.2.tentative ≠ some ((s.warp k).ctx.toNat * 4096 + k, b)) ∧
    t.toNat + 3200 ≤ s.ft.toNat
  (∀ i : HA,
    let a := s.w.s i.a.toNat
    -- the time it waits for, if it waits for an entry
    let t := s.w.snapWait.getD (if a = 0 then s.now else a)
    let snap := exec (.snap i) s
    let txb := exec (.txb i) s
    let m := s.w.parts i.h
    idle snap i.h ∧ idle txb i.h ∧ (m ≠ 0 →
      (inTx s.w → TrapsWith snap s 0x208 m ∧ TrapsWith txb s 0x206 m) ∧
      (¬inTx s.w → s.w.snapWait = none → s.now.toNat < t.toNat → TrapsWith snap s 0x202 m ∧ TrapsWith txb s 0x202 m) ∧
      (¬inTx s.w → s.w.snapWait = none → t.toNat ≤ s.now.toNat → t.toNat < s.rf.toNat →
        TrapsWith snap s 0x201 m ∧ TrapsWith txb s 0x201 m) ∧
      (¬inTx s.w → s.w.snapWait ≠ none ∨ (t.toNat ≤ s.now.toNat ∧ s.rf.toNat ≤ t.toNat) →
        takes snap t (fun n => { s.w with snapIx := some (s.myDie, n), snap := t }) i.h.sw ∧
        takes txb t (fun n => { s.w with
          snapIx := some (s.myDie, n), snap := t, txStart := t, txLines := 0, txCode := 0, txConf := 0, txState := .active })
          i.h.sw))) ∧
  (∀ i : Hdr,
    let out := exec (.snapx i) s
    idle out i ∧ (s.w.parts i ≠ 0 → (inTx s.w → TrapsWith out s 0x208 (s.w.parts i)) ∧
      (¬inTx s.w → ∃ u, out = .next u ∧ others u s.cur ∧ u.w.body = { s.w with snapIx := none, snap := 0 }.body ∧
        u.w.At (s.w.pc + 8) i.sw ∧ ∀ d n, u.snapEntry d n = base s.w d n))) ∧
  (∀ i : HD,
    let out := exec (.txc i) s
    idle out i.h ∧ (s.w.parts i.h ≠ 0 →
      (¬inTx s.w → TrapsWith out s 0x207 (s.w.parts i.h)) ∧
      (s.w.txState = .doomed → ∃ u, out = .next u ∧ u.w.At (s.w.pc + 8) i.h.sw ∧
        ends u s.cur .aborted s.w.txCode (fun w => w.setS i.d.toNat 0)) ∧
      (s.w.txState = .active →
        (s.w.txWait = none → s.releaseHolds none = true → out = .next s.hold) ∧
        (s.w.txWait = none → s.releaseHolds none = false → s.freshStamp = none → ∃ u, out = .next u ∧ OnlyWarp s u ∧
          u.w.stat = .parked ∧ u.w.reason = 19 ∧ u.w.pc = s.w.pc ∧ u.w.txState = .active) ∧
        (s.w.txWait = none → s.releaseHolds none = false → ∀ t, s.freshStamp = some t → s.lastStamp.toNat < t.toNat ∧
          ∃ u, out = .next u ∧ others u s.cur ∧ u.lastStamp = t ∧ u.w.stat = .parked ∧ u.w.reason = 19 ∧ u.w.pc = s.w.pc ∧
            u.w.txWait = some (t, i.d) ∧ u.w.txState = .active ∧ ∀ l, u.chain l = { s.chain l with
              installing := (s.chain l).installing || decide ((s.chain l).tentative.map (·.1) = some (s.w.ctx.toNat * 4096 + s.cur)) }) ∧
        (∀ t d, s.w.txWait = some (t, d) →
          (ready s.cur t → ∃ u, out = .next u ∧ u.w.At (s.w.pc + 8) i.h.sw ∧
            ends u s.cur .committed 0 (fun w => ({ w with txWait := none } : Warp).setS i.d.toNat t)) ∧
          (¬ready s.cur t → ∃ u, out = .next u ∧ OnlyWarp s u ∧ u.w.stat = .parked ∧ u.w.reason = 19 ∧ u.w.pc = s.w.pc))))) ∧
  (∀ k : Nat,
    let w := s.warp k
    let out := exec (.txcCommitWaitEnd k) s
    (w.txWait = none → out = .next s) ∧
    ∀ t d, w.txWait = some (t, d) →
      let waits := (w.stat = .parked ∨ w.stat = .halted) ∧ w.reason = 19
      (waits ∧ ready k t → ∃ u, out = .next u ∧ (u.warp k).pc = w.pc + 8 ∧
        ((u.warp k).stat = .halted ↔ w.stat = .halted) ∧
        (w.stat = .parked → ends u k .committed 0 (fun w => ({ w with txWait := none } : Warp).setS d.toNat t)) ∧
        (u.warp k).s d.toNat = t ∧ (u.warp k).txState = .committed ∧ (u.warp k).txWait = none) ∧
      (¬(waits ∧ ready k t) → out = .next s)) ∧
  (∀ i : Hdr,
    let out := exec (.txa i) s
    (s.w.parts i = 0 ∨ ¬inTx s.w → WarpStep out s s.w (s.w.pc + 8) i.sw) ∧
    (s.w.parts i ≠ 0 → inTx s.w → Tab.rising none s.chains = true → ∃ u, out = .next u ∧ u.w.At (s.w.pc + 8) i.sw ∧
      ends u s.cur .aborted (if s.w.txState = .active then 6 else s.w.txCode) id ∧
      ∀ l, u.chain l = if (s.chain l).tentative.map (·.1) = some (s.w.ctx.toNat * 4096 + s.cur) then
        { s.chain l with tentative := none, installing := false } else s.chain l)) ∧
  (∀ i : HD, ScalarResult (exec (.txq i) s) s i.h i.d 8 (fun x =>
    x.extractLsb' 62 2 = (match s.w.txState with | .none => 0 | .active => 1 | .committed => 2 | .doomed => 3 | .aborted => 3) ∧
    x.extractLsb' 56 6 = s.w.txCode ∧ (x.extractLsb' 46 10).toNat = s.w.txLines % 1024 ∧ x.extractLsb' 41 5 = 0 ∧
    x.extractLsb' 0 41 = s.w.txConf))

/-- R292, R293, R304, R307 and R308. That a package that has sent no watermark holds the floor at 0 is the model's reading (log entry 30),
and so are the waits of reasons 17 and 19 (49). -/
def Obligations.VersionsInstallAndAreReclaimed : Prop :=
  ∀ s : State,
  -- x is not above the time of any unexpired snapshot nor above now
  let local_ := fun (x : Nat) => x ≤ s.now.toNat ∧
    ∀ d ∈ s.dies, ∀ e ∈ d.2.snaps, e.2.used = true → e.2.expired = false → x ≤ e.2.ft.toNat
  let cleared := fun (x : Nat) => local_ x ∧ ∀ p ∈ s.clearing, p ≠ s.peer → x ≤ ((Tab.get none s.pws p.toNat).getD 0).toNat
  (∀ l : Nat,
    let c := s.chain l
    let out := exec (.versionInstallDone l) s
    (c.tentative = none ∨ c.installing = false → out = .next s) ∧
    ∀ o b, c.tentative = some (o, b) → c.installing = true → b.length = 128 → ∃ u, out = .next u ∧
      { u with mem := s.mem, chains := s.chains } = s ∧ (∀ n, n ≠ l → u.chain n = s.chain n) ∧
      (∀ n, n < 128 → u.byte (l * 128 + n) = b.getD n 0) ∧ (∀ a, a / 128 ≠ l → u.byte a = s.byte a) ∧
      (u.chain l).tentative = none ∧ (u.chain l).installing = false ∧
      (u.chain l).olds = (c.stamp, (List.range 128).map (fun n => s.byte (l * 128 + n))) :: c.olds ∧
      (u.chain l).stamp.peer = s.peer ∧ ∀ t d, (s.warp (o % 4096)).txWait = some (t, d) → (u.chain l).stamp.ft = t) ∧
  (∀ d : Nat, ∃ u, exec (.foragerPass d) s = .next u ∧ { u with chains := s.chains, dies := s.dies, rf := s.rf } = s ∧
    u.die d = { s.die d with foragerAt := s.ft } ∧ (∀ e, e ≠ d → u.die e = s.die e) ∧ s.rf.toNat ≤ u.rf.toNat ∧
    (u.rf ≠ s.rf → cleared u.rf.toNat) ∧ (∀ x, cleared x → x ≤ u.rf.toNat) ∧
    ∀ l, (l * 128 / 0x3000000000 ≠ d → u.chain l = s.chain l) ∧
      (l * 128 / 0x3000000000 = d → u.chain l = { s.chain l with
        olds := (((s.chain l).olds.zip ((s.chain l).stamp :: (s.chain l).olds.map (·.1))).filter
          (fun e => u.rf.toNat < e.2.ft.toNat)).map (·.1) })) ∧
  ((s.ft - s.pwSentAt).toNat < 64000000 → exec .watermarkFrameSend s = .next s) ∧
  (64000000 ≤ (s.ft - s.pwSentAt).toNat → ∃ (u : State) (w : DWord), exec .watermarkFrameSend s = .next u ∧
    u = { s with pwSentAt := s.ft, out := u.out } ∧ local_ w.toNat ∧ (∀ x, local_ x → x ≤ w.toNat) ∧
    u.out = s.out ++ (s.clearing.filter (fun p => p != s.peer)).map (fun p => ⟨p, 0, 0, none, false, 0, .watermark w, none⟩)) ∧
  (∀ i : Watermark, (i.peer ∉ s.clearing → exec (.watermarkFrameReceive i) s = .next s) ∧
    (i.peer ∈ s.clearing → ∃ u, exec (.watermarkFrameReceive i) s = .next u ∧ u = { s with pws := u.pws } ∧
      ∀ p, Tab.get none u.pws p = if p = i.peer.toNat then some i.pw else Tab.get none s.pws p)) ∧
  (∀ k : Nat,
    let w := s.warp k
    let me := w.ctx.toNat * 4096 + k
    let out := exec (.poolStallExpiry k) s
    let due := w.stat = .parked ∧ (s.ctx w.ctx).state = .running ∧ w.reason = 18 ∧
      s.stallLimit.toNat * 64000 ≤ w.waited + (s.ft - w.since).toNat
    let waits := fun (d : Nat) => d < 4 ∧ me ∈ (s.die d).poolWait
    let owns := fun (d o : Nat) => ∃ e ∈ s.chains, ∃ b, e.2.tentative = some (o, b) ∧ e.2.installing = false ∧
      e.1 * 128 / 0x3000000000 = d
    let live := fun (o : Nat) => s.savedOn (BitVec.ofNat 12 (o / 4096)) (coreOf (o % 4096)) = false
    let doomed := fun (u : State) (o : Nat) => (u.warp (o % 4096)).txState = .doomed ∧ (u.warp (o % 4096)).txCode = 4 ∧
      (∀ e ∈ u.chains, ∀ b, e.2.tentative ≠ some (o, b)) ∧ u.mem = s.mem
    (¬due → out = .next s) ∧ ((∀ d, ¬waits d) → out = .next s) ∧
    (due → ∀ d, waits d → (∀ e, e < d → ¬waits e) →
      (s.poolRoom d me = true → out = .next { s with recheck := s.recheck ++ [k] }) ∧ (s.poolRoom d me = false →
      (w.stalls = 0 → ∀ o, owns d o → live o →
        (∀ p, owns d p → live p ∧ (s.warp (p % 4096)).txStart.toNat ≤ (s.warp (o % 4096)).txStart.toNat ∧
          (p ≠ o → (s.warp (p % 4096)).txStart = (s.warp (o % 4096)).txStart → o % 4096 < p % 4096)) →
        s.snapMaxAge = 0 → ∃ u, out = .next u ∧ doomed u o) ∧
      (w.stalls = 0 → (∀ o, ¬owns d o) → s.snapMaxAge = 0 → ∃ u, out = .next u ∧
        { u with warps := s.warps } = s ∧ (∀ n, n ≠ k → u.warp n = s.warp n) ∧
        u.warp k = { w with stalls := 1, since := s.ft, waited := 0 }) ∧
      (w.stalls = 0 → (∀ o, ¬owns d o) → s.snapMaxAge ≠ 0 → ∃ u, out = .next u ∧ (u.warp k).stalls = 1 ∧
        (u.warp k).stat = .parked ∧ (u.warp k).waited = 0 ∧ ∀ c j, u.snapEntry c j = { s.snapEntry c j with
          expired := (s.snapEntry c j).expired || ((s.snapEntry c j).used &&
            decide (s.snapMaxAge.toNat * 64000000 < s.now.toNat - (s.snapEntry c j).ft.toNat)) }) ∧
      (w.stalls ≠ 0 → w.txState = .active → live me → ∃ u, out = .next u ∧ doomed u me) ∧
      (w.stalls ≠ 0 → w.txState ≠ .active → ∃ (u v : State) (a : DWord), out = .next { u with cur := s.cur } ∧
        u = v.enter 0x205 (if w.waiting = 0 then 0xFFFFFFFF else w.waiting) w.done a ∧
        v = { s with cur := k, dies := v.dies } ∧ ∀ d, me ∉ (v.die d).poolWait)))) ∧
  (∀ i : RegWrite,
    let out := exec (.vpoolCfgWrite i) s
    let d := (i.off - 0x4000) / 8
    let size := (i.val.extractLsb' 34 15).toNat
    let base := (i.val.extractLsb' 15 19).toNat * 2 ^ 21
    let inside := size ≠ 0 ∧ size ≤ 24576 ∧ d * 0x3000000000 ≤ base ∧ base + size * 2 ^ 21 ≤ (d + 1) * 0x3000000000
    let names := 0x4000 ≤ i.off ∧ d < 4 ∧ i.off % 8 = 0
    (¬names ∨ (s.die d).vpool.getLsbD 0 = true → out = .next s) ∧
    (names → (s.die d).vpool.getLsbD 0 = false → ∃ u, out = .next u ∧ { u with dies := s.dies } = s ∧
      (∀ e, e ≠ d → u.die e = s.die e) ∧ { u.die d with vpool := (s.die d).vpool } = s.die d ∧
      (u.die d).vpool.extractLsb' 15 34 = i.val.extractLsb' 15 34 ∧ (u.die d).vpool.extractLsb' 1 14 = 0 ∧
      (u.die d).vpool.extractLsb' 49 15 = 0 ∧ ((u.die d).vpool.getLsbD 0 = true ↔ i.val.getLsbD 0 = true ∧ inside))) ∧
  (∀ k : Nat,
    let w := s.warp k
    let looks := w.stat = .parked ∧ (s.ctx w.ctx).state = .running ∧ (w.reason = 17 ∨ w.reason = 19) ∧ s.freshStamp ≠ none
    (looks → exec (.commitStampNextNanosecond k) s = .next { s with recheck := s.recheck ++ [k] }) ∧
    (¬looks → exec (.commitStampNextNanosecond k) s = .next s))

/-- R311 to R317. The lowest refusal code of several and the codes of schedule entries are the model's choice (log entry 28), and so are the
slots, the numbers of teams, the base and the barrier objects (29), and that STATUS is written only where the whole block can be (51). -/
def Obligations.LaunchesAreSubmittedAndAccepted : Prop :=
  ∀ s : State,
  let queued := fun (ls : List Launch) => (ls.filter (fun l => l.state == .queued ||
    (l.state == .running && decide (l.nextCohort < l.num 8 8)))).length
  (∀ i : Submit, ∃ u, exec (.launchSubmit i) s = .next u ∧
    (64 ≤ queued s.launches → u = { s with submitDropped := true }) ∧
    (queued s.launches < 64 → ∃ l, u = { s with nextId := u.nextId, submitDropped := false, launches := s.launches ++ [l] } ∧
      l.state = .queued ∧ l.ctx = i.ctrl.extractLsb' 0 12 ∧ l.recva = i.recva ∧ l.prank = (i.ctrl.extractLsb' 12 12).toNat ∧
      l.pcnt = (i.ctrl.extractLsb' 24 12).toNat + 1 ∧ l.ft0 = i.ft0 ∧ l.ft1 = i.ft1 ∧ l.result = 0)) ∧
  ((∀ l ∈ s.launches, l.state ≠ .queued) → exec .launchAccept s = .next s) ∧
  (∀ (l : Launch) (xs ys : List Launch), s.launches = xs ++ l :: ys → l.state = .queued → (∀ x ∈ xs, x.state ≠ .queued) →
    (∀ x ∈ xs ++ ys, x.id ≠ l.id) →
    let out := exec .launchAccept s
    let sent := fun (u : State) => { u with nextId := s.nextId, launches := s.launches, out := s.out }
    -- STATUS is written, where the whole block can be; a block of another package's memory as an ordered store
    let refused := fun (code : Nat) => ∃ u, out = .next u ∧
      { sent u with mem := s.mem, leases := s.leases, poisonHits := s.poisonHits, tlb := s.tlb, mapped := s.mapped, outSeq := s.outSeq, remotes := s.remotes } = s ∧
      u.launches = xs ++ ys ∧
      (s.seqWritable l.ctx (l.recva + 0x100) 64 = false → u.mem = s.mem ∧ u.out = s.out) ∧
      (l.recva.toNat % 8 = 0 → s.seqWritable l.ctx (l.recva + 0x100) 64 = true →
        ∀ t, s.seqTrans l.ctx wantW (l.recva + 0x138) = some t → t.peer = s.peer →
        u.dword (t.addr (l.recva + 0x138)) = BitVec.ofNat 64 (1 + code * 256) ∧
        ∀ a, (a < t.addr (l.recva + 0x138) ∨ t.addr (l.recva + 0x138) + 8 ≤ a) → u.byte a = s.byte a)
    -- bytes that are still to come from other packages are asked for, once
    let asks := fun (ks : List Nat) => (l.asked ≠ [] → out = .next s) ∧ (l.asked = [] → ∃ u, out = .next u ∧ sent u = s ∧
      (∀ x ∈ u.launches, x.id = l.id → x.state = .queued) ∧ ∀ k ∈ ks, ∃ p ∈ u.out, ∃ as, p.body = .load as ∧
        k % 2 ^ 40 ∈ as ∧ p.dst = BitVec.ofNat 12 (k / 2 ^ 40))
    (s.readRecord l = .no → refused 1) ∧ (∀ ks, s.readRecord l = .ask ks → asks ks) ∧
    ∀ bytes, s.readRecord l = .bytes bytes →
      let r := { l with bytes := Tab.setRun 0 [] 0 bytes }
      let n := fun (off len : Nat) => r.num off len
      let wa := n 0x10 1
      let wb := n 0x11 1
      let xyz := n 0x12 1 + n 0x13 1 + n 0x14 1
      let lstk := n 0x2B 5
      let aff := fun (j : Nat) => n 0x15 1 / 4 ^ j % 4
      let entry := fun (R : Nat → Nat → Prop) => ∃ m e, m < min (n 0x2A 1) 8 ∧ e < 8 ∧ R (0x140 + 0x200 * m + 64 * e) e
      let limit := if ((s.withDesc l.ctx).ctx l.ctx).resident = true ∨ (List.range 256).all (fun k => (s.core k).splitMode) = true then 0x40000 else 0x80000
      let c1 := l.recva.toNat % 64 ≠ 0 ∨ n 0 8 % 32 ≠ 0 ∨ s.seqTrans l.ctx wantX (BitVec.ofNat 64 (n 0 8)) = none
      let c2 := 4 < wa ∨ 4 < wb ∨ 64 < 5 + wa + wb + xyz ∨ aff 0 = 3 ∨ aff 1 = 3 ∨ aff 2 = 3
      let c3 := n 8 8 = 0 ∨ 2 ^ xyz < n 8 8 ∨ 2 ^ wa < n 0x17 1 % 16 + 1 ∨ 2 ^ wb < n 0x16 1 % 16 + 1
      let c4 := n 0x18 4 % 4 ≠ 0 ∨ 128 < n 0x1C 2 ∨ limit < n 0x18 4 + 1024 * n 0x1C 2
      let c5 := n 0x15 1 / 64 ≠ 0 ∨ n 0x16 1 / 16 ≠ 0 ∨ n 0x17 1 / 16 ≠ 0 ∨ n 0x1E 1 ≠ 1 ∨ n 0x1F 1 / 64 ≠ 0 ∨
        n 0x1F 1 / 2 % 4 = 3 ∨ 4 < n 0x1F 1 / 8 % 8 ∨ n 0x28 2 % 4 ≠ 0 ∨ (lstk ≠ 0 ∧ lstk % 2 ^ 36 = 0) ∨
        entry (fun a _ => n (a + 44) 20 ≠ 0)
      let c6 := 8 < n 0x2A 1 ∨ entry (fun a e => (n (a + 41) 1 = 0 ∧ n a 44 ≠ 0) ∨ 1 < n (a + 41) 1 ∨ (n (a + 41) 1 = 1 ∧
        (n (a + 40) 1 = 0 ∨ 63 < n (a + 40) 1 ∨ (e ≠ 0 ∧ n (a - 64 + 41) 1 ≠ 1) ∨
          ∀ b, s.seqRead r (BitVec.ofNat 64 (n a 8)) 32 = .bytes b → layStatus (BitVec.ofNat 256 (natLE b)) ≠ 0)))
      let c7 := s.now.toNat < n 0x20 8 ∨ (n 0x1F 1 % 2 = 1 ∧ n 0x20 8 ≠ 0 ∧ n 0x20 8 < s.rf.toNat)
      let open_ := r.lrecs.flatMap (fun a => (s.seqRead r a 32).keys)
      (open_ ≠ [] → asks open_) ∧ (open_ = [] →
      (c1 → refused 1) ∧ (¬c1 → c2 → refused 2) ∧ (¬c1 → ¬c2 → c3 → refused 3) ∧ (¬c1 → ¬c2 → ¬c3 → c4 → refused 4) ∧
      (¬c1 → ¬c2 → ¬c3 → ¬c4 → c5 → refused 5) ∧ (¬c1 → ¬c2 → ¬c3 → ¬c4 → ¬c5 → c6 → refused 6) ∧
      (¬c1 → ¬c2 → ¬c3 → ¬c4 → ¬c5 → ¬c6 → c7 → refused 7) ∧
      (¬c1 → ¬c2 → ¬c3 → ¬c4 → ¬c5 → ¬c6 → ¬c7 → ∃ (u : State) (x : Launch), out = .next u ∧
        u = { s with launches := xs ++ x :: ys, leases := u.leases, poisonHits := u.poisonHits } ∧
        x = { r with state := .running, ftl := (if n 0x20 8 = 0 then s.now else BitVec.ofNat 64 (n 0x20 8)), ft2 := s.now,
                     nextCohort := x.nextCohort, got := [] } ∧
        (l.prank < l.pcnt → let mine := fun (c : Nat) => c / r.unitSpan % l.pcnt = l.prank
          x.nextCohort ≤ n 8 8 ∧ (x.nextCohort < n 8 8 → mine x.nextCohort) ∧ ∀ c, c < x.nextCohort → ¬mine c)))) ∧
  (∀ id : Nat,
    let out := exec (.cohortPlacement id) s
    ((∀ l ∈ s.launches, l.id ≠ id) → out = .next s) ∧
    ∀ (l : Launch) (xs ys : List Launch), s.launches = xs ++ l :: ys → l.id = id → (∀ x ∈ xs ++ ys, x.id ≠ id) →
      let unplaced := fun (x : Launch) => x.state = .running ∧ x.nextCohort < x.num 8 8
      let may := unplaced l ∧ (∀ x ∈ xs, x.ctx = l.ctx ∨ (s.ctx x.ctx).state = .running → x.state ≠ .queued ∧ ¬unplaced x) ∧
        (∀ r ∈ s.remotes, r.ctx = l.ctx → r.warp ≠ seqWarp) ∧ (s.ctx l.ctx).state = .running
      (¬may → out = .next s) ∧ (may → s.home l = none → out = .next s) ∧
      (may → ∀ g ks o, s.home l = some (g, ks, o) →
        -- the lowest grove that its affinity allows, distinct cores of it, free barrier objects
        (g < 16 ∧ ks.length = l.num 0x16 1 % 16 + 1 ∧ ks.Pairwise (· < ·) ∧ (∀ k ∈ ks, k / 16 = g) ∧ o % 16 = 0 ∧ o < 256 ∧
          (∀ c ∈ s.cohorts, c.2.used = true → c.2.grove = g → c.2.objects ≠ o) ∧
          (l.dieGroup l.nextCohort = none → l.snapl = false → ∀ h, h < g → s.coresIn l h = none ∨ s.freeObjects l.ctx h = none)) ∧
        ∃ u, out = .next u ∧ u.mem = s.mem ∧
          (∃ x, u.launches = xs ++ x :: ys ∧ x = { l with
            placedIx := l.nextCohort + 1, placedDie := g / 4, nextCohort := x.nextCohort } ∧ l.nextCohort < x.nextCohort) ∧
          (let c := u.cohort s.nextId
           c.used = true ∧ c.ctx = l.ctx ∧ c.launch = l.id ∧ c.index = BitVec.ofNat 64 l.nextCohort ∧ c.grove = g ∧ c.objects = o ∧
           c.teams.length = ks.length) ∧
          ∀ j k, ks[j]? = some k → ∀ h slots b key, s.fit l k = some (h, slots, b, key) →
            let t := u.team key
            ((s.team (k * 16 + slots.headD 0)).used = false → key = k * 16 + slots.headD 0) ∧ key / 16 = k ∧ (s.team key).used = false ∧
            (u.cohort s.nextId).teams[j]? = some key ∧ slots.length = l.num 0x17 1 % 16 + 1 ∧ t.used = true ∧ t.index = j ∧
            t.base = b ∧ t.size = l.num 0x18 4 ∧ t.cohort = s.nextId ∧ t.launch = l.id ∧ t.ctx = l.ctx ∧ t.tenant = h.tenant ∧
            (∀ a, b ≤ a → a < b + l.num 0x18 4 → u.spByte k a = 0) ∧ h.pad0 ≤ b ∧ b + l.num 0x18 4 + 1024 * l.num 0x1C 2 ≤ h.pad1 ∧
            slots.Pairwise (· < ·) ∧ (∀ n ∈ slots, h.slot0 ≤ n ∧ n < h.slot1) ∧
            (∀ n ∈ slots, ∀ q, h.slot0 ≤ q → q < n → (s.warp (k * 16 + q)).stat = .free → q ∈ slots) ∧
            ∀ i n, slots[i]? = some n → (s.warp (k * 16 + n)).stat = .free ∧
              (let w := u.warp (k * 16 + n)
               w.stat = .ready ∧ w.pc = BitVec.ofNat 64 (l.num 0 8) ∧ w.em = 0xFFFFFFFF ∧ w.exited = 0 ∧ w.ctx = l.ctx ∧
               w.team = key ∧ w.index = i ∧ w.snap = (if l.snapl = true then l.ftl else 0) ∧
               ∀ r, 2 ≤ r → w.s r = if r < 16 ∧ (BitVec.ofNat 16 (l.num 0x28 2)).getLsbD r = true then
                 BitVec.ofNat 64 (l.num (0x30 + 8 * (r - 2)) 8) else 0)))

/-- R134, R135 and R316 to R319. A RESULT frame to every other package of the clearing is the model's reading (log entry 30), and so is that
the block is written only where all of it can be (51). -/
def Obligations.LaunchesPostRetireAndComplete : Prop :=
  ∀ s : State,
  let comb := fun (l : Launch) (a b : DWord) =>
    match l.num 0x1F 1 / 2 % 4 with
    | 0 => a ||| b
    | 1 => BitVec.ofNat 64 (max a.toNat b.toNat)
    | _ => a + b
  (∀ i : HA,
    let out := exec (.postw i) s
    (s.w.parts i.h = 0 → WarpStep out s s.w (s.w.pc + 8) i.h.sw) ∧
    (s.w.parts i.h ≠ 0 → ∃ u, out = .next u ∧ { u with warps := s.warps, launches := s.launches } = s ∧
      (∀ k, k ≠ s.cur → u.warp k = s.warp k) ∧ u.w.body = s.w.body ∧ u.w.At (s.w.pc + 8) i.h.sw ∧
      u.launches = s.launches.map (fun l =>
        if l.id = s.myTeam.launch then { l with result := comb l l.result (s.w.s i.a.toNat) } else l))) ∧
  (∀ k : Nat,
    let w := s.warp k
    let out := exec (.warpRetire k) s
    let clear := w.pending = [] ∧ (∀ r ∈ s.remotes, r.warp = k → r.ctx = w.ctx → r.copy ≠ none) ∧ s.copiesQueued k = false
    (w.stat ≠ .retiring → out = .next s) ∧
    (w.stat = .retiring → w.reason = 0 → ¬clear → out = .next s) ∧
    (w.stat = .retiring → w.reason = 0 → clear → ∃ u, out = .next u ∧ u.warp k = {} ∧ (∀ n, n ≠ k → u.warp n = s.warp n) ∧
      u.mem = s.mem ∧ u.cur = s.cur ∧ ∀ e ∈ u.chains, ∀ b, w.txState = .active →
        e.2.tentative ≠ some (w.ctx.toNat * 4096 + k, b)) ∧
    (w.stat = .retiring → w.reason = 12 → ∃ u, out = .next u ∧ ∀ n, n ≠ k → u.warp n = s.warp n)) ∧
  (∀ i : ResultFrame, exec (.resultExchangeFrame i) s = .next { s with frames := s.frames ++ [i] }) ∧
  (∀ id : Nat,
    let out := exec (.launchComplete id) s
    ((∀ l ∈ s.launches, l.id ≠ id) → out = .next s) ∧
    ∀ (l : Launch) (xs ys : List Launch), s.launches = xs ++ l :: ys → l.id = id → (∀ x ∈ xs ++ ys, x.id ≠ id) →
      let ended := l.num 8 8 ≤ l.nextCohort ∧ s.imageBusy l = false ∧ (∀ r ∈ s.remotes, r.warp = seqWarp ∨ r.launch ≠ id) ∧ ∀ c ∈ s.cohorts, c.2.used = true → c.2.launch ≠ id
      let others := (List.range l.pcnt).filter (fun r => r != l.prank)
      let here := fun (r : Nat) (f : ResultFrame) => f.ctx = l.ctx ∧ f.gen = s.genNow l.ctx ∧ f.recva = l.recva ∧ f.rank = r
      let frames := if l.pcnt ≤ 1 ∨ l.state ≠ .running then [] else (s.clearing.filter (fun p => p != s.peer)).map (fun p =>
        (⟨p, l.ctx, s.genNow l.ctx, none, false, 0, .result l.recva l.prank l.result, none⟩ : Packet))
      (l.state = .queued ∨ ¬ended → out = .next s) ∧
      (l.state ≠ .queued → ended →
        ((∃ r ∈ others, ∀ f ∈ s.frames, ¬here r f) → ∃ u x, out = .next u ∧
          u = { s with launches := xs ++ x :: ys, out := s.out ++ frames } ∧ x = { l with state := x.state } ∧ x.state ≠ .queued ∧
          (l.state = .running → x.state = .ended)) ∧
        ∀ v : Nat → DWord, (∀ r ∈ others, (∃ f ∈ s.frames, here r f) ∧ ∀ f ∈ s.frames, here r f → f.result = v r) →
          let res := others.foldl (fun x r => comb l x (v r)) l.result
          let ns := fun (a b : DWord) => (b - a).toNat / 64
          let holds := fun (j : Nat) => j < min (l.num 0x1F 1 / 8 % 8) 4 ∧ l.num (0xA0 + 24 * j) 8 ≤ res.toNat ∧
            res.toNat ≤ l.num (0xA8 + 24 * j) 8
          let first := fun (j : Nat) => holds j ∧ ∀ i, i < j → ¬holds i
          ∃ u, out = .next u ∧ s.out ++ frames <+: u.out ∧ u.warps = s.warps ∧
            (∀ k, { u.core k with icache := [] } = { s.core k with icache := [] }) ∧
            (∀ j, first j → (State.queuedLaunches { s with launches := xs ++ ys }).length < 64 → ∃ x, u.launches = xs ++ ys ++ [x] ∧ x.state = .queued ∧
              x.ctx = l.ctx ∧ x.recva = BitVec.ofNat 64 (l.num (0xB0 + 24 * j) 8) ∧ x.prank = l.prank ∧ x.pcnt = l.pcnt ∧
              x.ft0 = s.now ∧ x.ft1 = s.now) ∧
            ((∀ j, ¬holds j) → u.launches = xs ++ ys) ∧
            (l.recva.toNat % 64 = 0 → ∀ t, s.seqTrans l.ctx wantW (l.recva + 0x100) = some t → t.vers = false → t.peer = s.peer →
              s.seqTrans l.ctx wantW (l.recva + 0x138) = some t →
              let at_ := fun (n : Nat) => u.dword (t.addr (l.recva + 0x100) + 8 * n)
              at_ 0 = res ∧ at_ 1 = BitVec.ofNat 64 (ns l.ft0 l.ft1) ∧ at_ 2 = BitVec.ofNat 64 (ns l.ft1 l.ft2 + l.part2) ∧
              at_ 3 = BitVec.ofNat 64 l.part3 ∧ at_ 4 = BitVec.ofNat 64 l.part4 ∧ at_ 5 = BitVec.ofNat 64 l.part5 ∧
              at_ 6 = s.now ∧ (∀ j, first j → at_ 7 = BitVec.ofNat 64 (5 + 8 * j)) ∧ ((∀ j, ¬holds j) → at_ 7 = 1) ∧
              ∀ a, (a < t.addr (l.recva + 0x100) ∨ t.addr (l.recva + 0x100) + 64 ≤ a) → u.byte a = s.byte a)))

/-- R357, R358 and R360 to R365. The fabric die that serves an issuer is the model's choice (log entry 76), and its readings are: the own
contribution formed at the result and the numbered store to the own package (27), any line of a member, and strong order by this package's
tables (69). -/
def Obligations.CollectivesReachEveryMember : Prop :=
  ∀ s : State,
  let usable := fun (x : Group) => x.valid = true ∧ x.peers.Nodup ∧ ∀ p ∈ x.peers, p ∈ s.clearing
  -- the place of lane n among the lanes of m
  let place := fun (m : Mask) (n : Nat) => ((List.range n).filter (fun i => m.getLsbD i)).length
  let lanes := fun (m : Mask) => (List.range 32).filter (fun i => m.getLsbD i)
  let elem := fun (w : DWord) (sz : Size) => if w.getLsbD 8 = false then sz.bytes else if w.getLsbD 9 = true then 4 else 2
  let len := fun (w : DWord) => 8 * 2 ^ (w.extractLsb' 10 3).toNat
  let span := fun (w : DWord) (sz : Size) => len w / (sz.bytes / elem w sz)
  let fits := fun (w : DWord) (sz : Size) (d : RegNo) =>
    (w.getLsbD 8 = false → (sz = .b16 ∨ sz = .b32) ∧ w.extractLsb' 9 55 = 0) ∧
    (w.getLsbD 8 = true → (sz.bytes = elem w sz ∨ sz.bytes = 2 * elem w sz ∨ sz.bytes = 4 * elem w sz) ∧
      w.extractLsb' 32 32 = 0 ∧ w.extractLsb' 13 3 = 0 ∧ (w.extractLsb' 10 3).toNat ≤ 4 ∧ w.extractLsb' 16 2 = 0 ∧
      span w sz ≤ 32 ∧ d.toNat % (sz.bytes / elem w sz) = 0)
  let head := fun (w : DWord) (sz : Size) (m : Mask) (n : Nat) => w.getLsbD 8 = true ∧ m.getLsbD n = true ∧ n % span w sz = 0
  let dist := fun (w : DWord) => (w.extractLsb' 16 16).signExtend 64
  let traps := fun (out : Out) (c : Cause) (flm : Mask) => ∃ (u : State) (a : DWord), out = .next (u.enter c flm 0 a) ∧
    u = s.passFence 3
  (∀ i : Agq, ScalarResult (exec (.agq i) s) s i.h i.d 12 (fun x =>
    let g := s.group s.w.ctx i.group
    (¬usable g → x = 0) ∧
    (usable g → g.peers.length ≤ 4096 →
      (i.rank = none → x.getLsbD 63 = true ∧ (x.getLsbD 62 = true ↔ ∀ p ∈ g.peers, s.present p = true) ∧
        x.extractLsb' 50 12 = (g.peers.find? (fun p => !s.present p)).getD 0 ∧
        (∀ n, g.peers[n]? = some s.peer → (x.extractLsb' 37 13).toNat = n) ∧
        (s.peer ∉ g.peers → x.extractLsb' 37 13 = 0x1FFF) ∧ x.extractLsb' 24 13 = 0 ∧
        x.extractLsb' 12 12 = Tab.get 0 (s.ctx s.w.ctx).changes i.group.toNat ∧
        (x.extractLsb' 0 12).toNat = g.peers.length - 1) ∧
      ∀ k, i.rank = some k → (g.peers.length ≤ k.toNat → x = 0) ∧ ∀ p, g.peers[k.toNat]? = some p →
        x.getLsbD 63 = true ∧ x.getLsbD 62 = s.present p ∧ x.extractLsb' 50 12 = p ∧ x.extractLsb' 12 38 = 0 ∧
        (x.extractLsb' 0 12).toNat = g.peers.length - 1))) ∧
  -- behind what a FENCE of their path orders, the core holds them
  (s.fenceHolds 3 = true → (∀ i, exec (.ldred i) s = .next s.hold) ∧ ∀ i, exec (.stmc i) s = .next s.hold) ∧
  (∀ i : LdRed, s.Unheld → s.Unwatched →
    let out := exec (.ldred i) s
    let m := s.w.parts i.h
    let w := s.w.s i.b.toNat
    let g := s.group s.w.ctx (w.setWidth 8)
    let ea := fun (n : Nat) => s.w.ea i.m n
    let crooked := fun (n : Nat) => n < 32 ∧ m.getLsbD n = true ∧
      ((ea n).toNat % i.size.bytes ≠ 0 ∨ (head w i.size m n ∧ (ea n + dist w).toNat % 4 ≠ 0))
    let outside := fun (n : Nat) => n < 32 ∧ m.getLsbD n = true ∧ (ea n).extractLsb' 48 16 ≠ 0
    let partly := w.getLsbD 8 = true ∧ ∃ n, n < 32 ∧ m.getLsbD n ≠ m.getLsbD (n / span w i.size * span w i.size)
    (m = 0 → ∃ t, AccessStep out s t 16 i.h.sw ∧ t.w.pending = s.w.pending ∧ t.mem = s.mem ∧ t.out = s.out) ∧
    (m ≠ 0 →
      (¬usable g → traps out 0x281 m) ∧ (usable g → ¬fits w i.size i.d → traps out 0x282 m) ∧
      (usable g → fits w i.size i.d → partly → traps out 0x283 m) ∧
      (usable g → fits w i.size i.d → ¬partly →
        (∀ f : Mask, (∃ n, crooked n) → (∀ n, n < 32 → (f.getLsbD n = true ↔ crooked n)) → traps out 0x089 f) ∧
        (∀ f : Mask, (¬∃ n, crooked n) → (∃ n, outside n) → (∀ n, n < 32 → (f.getLsbD n = true ↔ outside n)) → traps out 0x0C2 f) ∧
        ((¬∃ n, crooked n) → (¬∃ n, outside n) →
          (16 ≤ s.w.ldreds → ∃ t, out = .next t ∧ OnlyWarp s t ∧ t.w.stat = .parked ∧ t.w.reason = 25 ∧ t.w.pc = s.w.pc ∧
            t.w.pending = s.w.pending) ∧
          (s.w.ldreds < 16 → 1024 ≤ s.reduceUsed s.myDie → out = .next (s.passFence 3).hold) ∧
          (s.w.ldreds < 16 → s.reduceUsed s.myDie < 1024 → ∃ t eas, AccessStep out s t 16 i.h.sw ∧ t.mem = s.mem ∧
            (t.w.fence.xLoads = true ↔ i.acq = true ∨ ∃ n, n < 32 ∧ m.getLsbD n = true ∧ ∃ tr, s.lookup s.w.ctx s.myDie (n * 2) (ea n) = .ok tr ∧
              tr.okind = 0) ∧ { t.w.fence with xLoads := s.w.fence.xLoads } = { s.w.fence with x := false } ∧
            t.w.pending = s.w.pending ++ [⟨s.nextId, m, .ldred i.d.toNat i.size i.b.toNat w eas m s.nextId⟩] ∧
            (∀ n, n < 32 → m.getLsbD n = true → Tab.get 0 eas n = ea n) ∧
            t.out = s.out ++ (g.peers.filter (fun p => p != s.peer && s.present p)).map (fun p => (⟨p, s.w.ctx, s.myGen, none, false,
              s.nextId, .ldred g.gid w i.size m ((lanes m).map ea), some (coreOf s.cur, s.tenant)⟩ : Packet))))))) ∧
  (∀ i : StMc, s.Unheld → s.Unwatched →
    let out := exec (.stmc i) s
    let m := s.w.parts i.h
    let w := s.w.s i.b.toNat
    let g := s.group s.w.ctx (w.setWidth 8)
    let ea := fun (n : Nat) => s.w.ea i.m n
    let crooked := fun (n : Nat) => n < 32 ∧ m.getLsbD n = true ∧ (ea n).toNat % i.size.bytes ≠ 0
    let outside := fun (n : Nat) => n < 32 ∧ m.getLsbD n = true ∧ (ea n).extractLsb' 48 16 ≠ 0
    (m = 0 → ∃ t, AccessStep out s t 16 i.h.sw ∧ t.w.pending = s.w.pending ∧ t.mem = s.mem ∧ t.out = s.out) ∧
    (m ≠ 0 →
      (¬usable g → traps out 0x281 m) ∧ (usable g → w.extractLsb' 9 55 ≠ 0 → traps out 0x282 m) ∧
      (usable g → w.extractLsb' 9 55 = 0 → (∃ p ∈ g.peers, s.present p = false) → traps out 0x287 m) ∧
      (usable g → w.extractLsb' 9 55 = 0 → (∀ p ∈ g.peers, s.present p = true) →
        (∀ f : Mask, (∃ n, crooked n) → (∀ n, n < 32 → (f.getLsbD n = true ↔ crooked n)) → traps out 0x089 f) ∧
        (∀ f : Mask, (¬∃ n, crooked n) → (∃ n, outside n) → (∀ n, n < 32 → (f.getLsbD n = true ↔ outside n)) → traps out 0x0C2 f) ∧
        ((¬∃ n, crooked n) → (¬∃ n, outside n) → g.peers ≠ [] → ∃ t id data, AccessStep out s t 16 i.h.sw ∧ t.mem = s.mem ∧
          t.w.pending = s.w.pending ++ [⟨id, 1, .stmc ((List.range g.peers.length).map (fun j => s.nextId + j))⟩] ∧
          (∀ n, n < 32 → m.getLsbD n = true → ∀ b, b < i.size.bytes →
            (data.getD (place m n) []).getD b 0 = byteOf (s.w.v (i.a.toNat + b / 4) n) (b % 4)) ∧
          (∀ d ∈ data, d.length = i.size.bytes) ∧ data.length = (lanes m).length ∧
          t.out = s.out ++ g.peers.zipIdx.map (fun p => (⟨p.1, s.w.ctx, s.myGen,
            some (Tab.get 0 s.outSeq (streamKey p.1 s.w.ctx s.myGen)), i.rel || s.w.relFence, s.nextId + p.2,
            .stmc g.gid (w.setWidth 8) m ((lanes m).map ea) data, some (coreOf s.cur, s.tenant)⟩ : Packet)) ∧
          t.remotes = s.remotes ++ g.peers.zipIdx.map (fun p =>
            (⟨s.nextId + p.2, s.cur, s.w.ctx, 3, p.1, 2 ^ 40, none, 0, s.myGen, s.myTeam.launch⟩ : RemoteOp)))))) ∧
  (∀ i : LdRedRequest,
    let stale := i.gen ≠ s.genNow i.ctx
    let x := Tab.get ({} : Group) (s.ctx i.ctx).groups (i.word.extractLsb' 0 8).toNat
    let same := x.valid = true ∧ x.gid = i.gid
    let ea := fun (n : Nat) => i.eas.getD (place i.lanes n) 0
    let reads := s.memberReads i.ctx ((lanes i.lanes).map (fun n => (n, ea n, i.size.bytes)) ++
      ((lanes i.lanes).filter (fun n => decide (head i.word i.size i.lanes n))).map (fun n => (n, ea n + dist i.word, 4)))
    i.eas.length = (lanes i.lanes).length → ∃ u y, exec (.ldredContribution i) s = .next u ∧ u.mem = s.mem ∧
      u.warps = s.warps ∧ u.cores = s.cores ∧
      u.out = s.out ++ [⟨i.src, i.ctx, i.gen, none, false, i.tag, .contribution y, none⟩] ∧ y.member = s.peer ∧
      (u.link i.port).gendrop = (s.link i.port).gendrop + (if stale then 1 else 0) ∧
      (stale ∨ ¬same → y.code = 0x286) ∧
      (¬stale → same → reads.2 = none → y.code = 0x285) ∧
      (¬stale → same → ∀ bs, reads.2 = some bs → y.code = 0 ∧
        let e := elem i.word i.size
        let per := i.size.bytes / e
        (1 ≤ per → per * e = i.size.bytes →
          (∀ n j, i.lanes.getLsbD n = true → n < 32 → j < per → (y.elems.getD (place i.lanes n * per + j) 0).toNat =
            natLE (((bs.getD (place i.lanes n) []).drop (e * j)).take e) % 2 ^ 32) ∧
          (∀ k, k < bs.length - (lanes i.lanes).length →
            (y.scales.getD k 0).toNat = natLE ((bs.getD ((lanes i.lanes).length + k) []).take 4)) ∧
          -- the checksum of each block (R96)
          ∀ k, k < bs.length - (lanes i.lanes).length → y.sums.getD k 0 =
            BitVec.ofInt 64 ((List.range (min (len i.word) (y.elems.length - k * len i.word))).map (fun (j : Nat) => (2 * (j : Int) + 1) *
              (let x := y.elems.getD (k * len i.word + j) 0
               if i.word.getLsbD 9 = true then x.toInt else (x.extractLsb' 0 16).toInt))).sum))) ∧
  (∀ i : LdRedReply,
    let out := exec (.ldredResult i) s
    let w := s.warp i.warp
    ((∀ p ∈ w.pending, p.id ≠ i.id) → out = .next s) ∧
    ∀ (p : Pending) (d : Nat) (sz : Size) (sreg : Nat) (word : DWord) (eas : Tab DWord) (em : Mask) (tag : Nat),
      p ∈ w.pending → p.id = i.id → (∀ q ∈ w.pending, q.id = i.id → q = p) → p.kind = .ldred d sz sreg word eas em tag →
      fits word sz (BitVec.ofNat 8 d) → (∀ n, n < 32 → word.getLsbD 8 = true →
        p.lanes.getLsbD n = p.lanes.getLsbD (n / span word sz * span word sz)) →
      let g := s.group w.ctx (word.setWidth 8)
      let own := (s.contribute w.ctx word g.gid sz p.lanes (fun n => Tab.get 0 eas n) false).2
      let came := fun (q : Peer) (y : Contribution) => if q = s.peer then y = own else i.contribs.find? (fun y => y.member == q) = some y
      let back := fun (t : State) => out = .next t ∧ t.mem = s.mem ∧ (∀ k, k ≠ i.warp → t.warp k = s.warp k) ∧
        { t.warp i.warp with pending := w.pending, acqV := w.acqV, acqX := w.acqX } = w
      let kept := w.pending.filter (fun q => q.lanes != 0 && q.id != i.id)
      -- the status is on its way to its register
      let status := fun (x : DWord) => (⟨s.nextId, 1, .value [] [(sreg, x)]⟩ : Pending)
      (∀ (q : Peer) (n : Nat), g.peers[n]? = some q → (∀ (j : Nat) (r : Peer), j < n → g.peers[j]? = some r → ∃ y, came r y ∧ y.code = 0) →
        ((¬∃ y, came q y) ∨ ∃ y, came q y ∧ y.code ≠ 0) → ∃ t x, back t ∧ (t.warp i.warp).pending = kept ++ [status x] ∧
           x.extractLsb' 62 2 = 2 ∧ x.extractLsb' 40 12 = q ∧ x.extractLsb' 0 40 = 0 ∧
           ((¬∃ y, came q y) → x.extractLsb' 52 10 = 0x284) ∧ ∀ y, came q y → x.extractLsb' 52 10 = y.code) ∧
      ∀ y : Peer → Contribution, (∀ q ∈ g.peers, came q (y q) ∧ (y q).code = 0) → ∃ t x ws, back t ∧
        (t.warp i.warp).pending = kept ++
          (if p.lanes &&& em = 0 then [] else [⟨p.id, p.lanes &&& em, .value ws []⟩]) ++ [status x] ∧
        let per := sz.bytes / elem word sz
        -- every element of the lanes that are still enabled, and no other
        (ws.map (·.1)).Nodup ∧ (∀ e ∈ ws, ∃ n j, n < 32 ∧ p.lanes.getLsbD n = true ∧ em.getLsbD n = true ∧ j < per ∧ e.1 = (d + j) * 32 + n) ∧
        x.extractLsb' 32 32 = 0x80000000 ∧
        (word.getLsbD 8 = false → x.extractLsb' 0 32 = 0 ∧ ∀ n, n < 32 → p.lanes.getLsbD n = true → em.getLsbD n = true →
          (d * 32 + n, canonF32 (treeSum (g.peers.map (fun q =>
            let e := (y q).elems.getD (place p.lanes n) 0
            if sz = .b16 then e <<< 16 else e)))) ∈ ws) ∧
        (word.getLsbD 8 = true →
          let val : Peer → Nat → Int := fun q k => let e := (y q).elems.getD k 0
            if word.getLsbD 9 = true then e.toInt else (e.extractLsb' 0 16).toInt
          let sum : Nat → Int := fun k => (g.peers.map (fun q => val q k)).sum
          let nth := fun (b : Nat) => ((List.range b).filter (fun c => p.lanes.getLsbD (c * span word sz))).length
          let mixed := fun (b : Nat) => ∃ q ∈ g.peers, ∃ r ∈ g.peers,
            ((y q).scales.getD (nth b) 0).setWidth 24 ≠ (((y r).scales.getD (nth b) 0).setWidth 24 : BitVec 24)
          let res := fun (b k : Nat) (z : Int) => (mixed b → z = 0) ∧ (¬mixed b → z = max (-2147483648) (min 2147483647 (sum k)))
          let weigh := fun (f : Nat → Int) => BitVec.ofInt 64 ((List.range (len word)).map (fun (j : Nat) => (2 * (j : Int) + 1) * f j)).sum
          (∀ n j, n < 32 → p.lanes.getLsbD n = true → em.getLsbD n = true → j < per →
            ∃ v : Word, ((d + j) * 32 + n, v) ∈ ws ∧ res (n / span word sz) (place p.lanes n * per + j) v.toInt) ∧
          ∀ b, b < 16 → (p.lanes.getLsbD (b * span word sz) = false → x.getLsbD b = false ∧ x.getLsbD (16 + b) = false) ∧
            (p.lanes.getLsbD (b * span word sz) = true →
              let k := fun (j : Nat) => place p.lanes (b * span word sz) * per + j
              (x.getLsbD b = true ↔ mixed b ∨ ∃ j, j < len word ∧ (sum (k j) < -2147483648 ∨ 2147483647 < sum (k j))) ∧
              ∀ z : Nat → Int, (∀ j, j < len word → res b (k j) (z j)) →
                (x.getLsbD (16 + b) = true ↔ (g.peers.map (fun q => (y q).sums.getD (nth b) 0)).sum ≠ weigh z)))) ∧
  (∀ i : StMcDelivery,
    let out := exec (.stmcDelivery i) s
    let c := streamKey i.src i.ctx i.gen
    let x := s.streamAt c
    let seen := i.stream < x.next ∨ i.stream ∈ x.applied ∨ ∃ w ∈ x.waiting, w.stream = i.stream
    let stale := i.gen ≠ s.genNow i.ctx
    let g := Tab.get ({} : Group) (s.ctx i.ctx).groups i.group.toNat
    let refusal := fun (u : State) (code : Cause) (m : Mask) => ∃ r : FaultRec, u.faultQ ++ u.faultHeld = s.faultQ ++ s.faultHeld ++ [r] ∧
      r.kind = 6 ∧ r.cause = code ∧ r.acc = 1 ∧ r.ctx = i.ctx ∧ r.gen = i.gen ∧ r.slot = 0 ∧ r.lanes = m ∧
      r.core = 0xC000 + (if i.port < 6 then 0 else 1) ∧ r.ft = s.now ∧
      ∀ n, n < 32 → m.getLsbD n = true → (∀ k, k < n → m.getLsbD k = false) → r.va = i.eas.getD (place i.lanes n) 0
    let answers := fun (u : State) (body : PacketBody) => u.warps = s.warps ∧ u.cores = s.cores ∧
      u.out = s.out ++ [⟨i.src, i.ctx, i.gen, none, false, i.tag, body, none⟩]
    (seen → out = .next s) ∧
    -- a release, or a store to a strongly ordered page of this member
    let ordered := ¬stale ∧ (i.ordered = true ∨ ∃ n, n < 32 ∧ i.lanes.getLsbD n = true ∧
      ∃ t, s.memberTrans i.ctx wantW n (i.eas.getD (place i.lanes n) 0) = some t ∧ t.okind = 0)
    (¬seen → ordered → x.next ≠ i.stream → i.eas.length = (lanes i.lanes).length → ∃ u, out = .next u ∧ { u with streams := s.streams } = s ∧
      u.streamAt c = { x with waiting := x.waiting ++ [⟨i.stream, .mcast i⟩] }) ∧
    (¬seen → ¬ordered ∨ x.next = i.stream → x.waiting = [] → i.eas.length = (lanes i.lanes).length →
      i.data.length = (lanes i.lanes).length →
      (stale ∨ ¬(g.valid = true ∧ g.gid = i.gid) → i.lanes ≠ 0 → ∃ u, out = .next u ∧ u.mem = s.mem ∧ answers u .refusal ∧
        refusal u 0x286 i.lanes) ∧
      (¬stale → g.valid = true → g.gid = i.gid → ∃ (u v y : State) (m : Mask), out = .next u ∧ u.mem = y.mem ∧
        v = { s with streams := v.streams } ∧
        LaneOrder i.lanes (fun n (a b : State × Mask) =>
          let ea := i.eas.getD (place i.lanes n) 0
          let bytes := i.data.getD (place i.lanes n) []
          (a.1.memberTrans i.ctx wantW n ea = none → b = (a.1, a.2 ||| (1#32 <<< n))) ∧
          ∀ t, a.1.memberTrans i.ctx wantW n ea = some t → b.2 = a.2 ∧
            { b.1 with mem := a.1.mem, tlb := a.1.tlb, leases := a.1.leases, poisonHits := a.1.poisonHits } = a.1 ∧
            (∀ e ∈ b.1.tlb, e ∈ a.1.tlb ∨ e = ⟨4, i.ctx, ea.toNat / 4096, t⟩) ∧
            (∀ k, k < bytes.length → b.1.byte (t.addr ea + k) = bytes.getD k 0) ∧
            ∀ k, (k < t.addr ea ∨ t.addr ea + bytes.length ≤ k) → b.1.byte k = a.1.byte k) (v, 0) (y, m) ∧
        (m = 0 → answers u .ack ∧ u.faultQ = s.faultQ ∧ u.faultHeld = s.faultHeld) ∧
        (m ≠ 0 → answers u .refusal ∧ refusal u 0x285 m))))

/-- R47, R140, R337, R347, R355, R356, R368, R370 and R371. What an acknowledgement leaves of copies is the model's choice (log entry 8), the
key of a stream its reading (57), and that the instruction cache is kept by launch its choice (9). -/
def Obligations.OtherPackagesReachThisMemory : Prop :=
  ∀ s : State,
  let counted := fun (u : State) (p : Nat) (n : BitVec 16) =>
    (∀ q, q ≠ p → u.link q = s.link q) ∧ u.link p = { s.link p with gendrop := (s.link p).gendrop + n }
  let seen := fun (x : Stream) (n : Nat) => n < x.next ∨ n ∈ x.applied ∨ ∃ w ∈ x.waiting, w.stream = n
  let answers := fun (u : State) (dst : Peer) (c : CtxId) (g : BitVec 16) (tag : Nat) (body : PacketBody) =>
    u.warps = s.warps ∧ u.cores = s.cores ∧ u.out = s.out ++ [⟨dst, c, g, none, false, tag, body, none⟩]
  let numbered := fun (out : Out) (key n : Nat) (ordered : Bool) (what : Arrived) (R : State → Prop) =>
    let x := s.streamAt key
    (seen x n → out = .next s) ∧
    (¬seen x n → ordered = true → x.next ≠ n → ∃ u, out = .next u ∧ { u with streams := s.streams } = s ∧
      (∀ k, k ≠ key → u.streamAt k = s.streamAt k) ∧ u.streamAt key = { x with waiting := x.waiting ++ [⟨n, what⟩] }) ∧
    (¬seen x n → ordered = false ∨ x.next = n → ∃ u, out = .next u ∧
      (∀ w ∈ (u.streamAt key).waiting, w.stream ≠ (u.streamAt key).next) ∧
      (x.waiting = [] → R u ∧ (∀ k, k ≠ key → u.streamAt k = s.streamAt k) ∧ ∀ m, seen (u.streamAt key) m ↔ seen x m ∨ m = n))
  -- of another generation: dropped and counted, and behind it no ordered store waits for its number
  let drops := fun (out : Out) (p key : Nat) (stream : Option Nat) =>
    let x := s.streamAt key
    ∃ u, out = .next u ∧
    (stream = none → counted u p 1 ∧ { u with links := s.links } = s) ∧
    ∀ n, stream = some n →
      (seen x n → counted u p 1 ∧ { u with links := s.links } = s) ∧
      (¬seen x n → (∀ w ∈ (u.streamAt key).waiting, w.stream ≠ (u.streamAt key).next) ∧
        (x.waiting = [] → counted u p 1 ∧ { u with links := s.links, streams := s.streams } = s ∧
          (∀ k, k ≠ key → u.streamAt k = s.streamAt k) ∧ ∀ m, seen (u.streamAt key) m ↔ seen x m ∨ m = n))
  (∀ i : RemoteAccess,
    let out := exec (.remoteAccessIngress i) s
    let beyond := (∃ e ∈ i.store, 0xC000000000 ≤ e.1) ∨ ∃ a ∈ i.loads, 0xC000000000 ≤ a
    (i.gen ≠ s.genNow i.ctx → drops out i.port (streamKey i.src i.ctx i.gen) i.stream) ∧
    (i.gen = s.genNow i.ctx → beyond → out = .next s) ∧
    (i.gen = s.genNow i.ctx → ¬beyond →
      (i.stream = none → ∃ u, out = .next u ∧ u.mem = s.mem ∧
        answers u i.src i.ctx i.gen i.tag (.data (i.loads.map (fun a => s.byte a)))) ∧
      ∀ n, i.stream = some n → numbered out (streamKey i.src i.ctx i.gen) n i.ordered (.store i) (fun u =>
        answers u i.src i.ctx i.gen i.tag .ack ∧
        (∀ a, (∀ b, (a, b) ∉ i.store) → u.byte a = s.byte a) ∧
        ∀ xs a b ys, i.store = xs ++ (a, b) :: ys → (∀ e ∈ ys, e.1 ≠ a) → u.byte a = b))) ∧
  (∀ i : RemoteAtomic,
    let out := exec (.remoteAtomicIngress i) s
    let n := if i.wide = true then 8 else 4
    (i.gen ≠ s.genNow i.ctx → drops out i.port (streamKey i.src i.ctx i.gen) (some i.stream)) ∧
    (i.gen = s.genNow i.ctx → 0xC000000000 < i.addr + 8 → out = .next s) ∧
    (i.gen = s.genNow i.ctx → i.addr + 8 ≤ 0xC000000000 →
      numbered out (streamKey i.src i.ctx i.gen) i.stream i.ordered (.atomic i) (fun u =>
        answers u i.src i.ctx i.gen i.tag (.data ((List.range n).map (fun k => s.byte (i.addr + k)))) ∧
        (∀ a, (a < i.addr ∨ i.addr + n ≤ a) → u.byte a = s.byte a) ∧
        (i.a.toNat < 2 ^ (8 * n) → i.b.toNat < 2 ^ (8 * n) → i.aop = .fadd → i.wide = false →
          AtomNew i.aop 32 (s.num i.addr 4) i.a.toNat i.b.toNat (u.num i.addr 4)) ∧
        (i.a.toNat < 2 ^ (8 * n) → i.b.toNat < 2 ^ (8 * n) → i.aop ≠ .fadd →
          AtomNew i.aop (8 * n) (s.num i.addr n) i.a.toNat i.b.toNat (u.num i.addr n)) ∧
        (let lease := ((s.reg 0x9400).extractLsb' 0 16).toNat
         (lease = 0 → ∀ l ∈ u.leases, l ∈ s.leases) ∧
         (lease ≠ 0 → (⟨i.addr / 128, i.port, s.ft + BitVec.ofNat 64 (lease * 1024)⟩ : Lease) ∈ u.leases)))) ) ∧
  (∀ i : RemoteAck,
    let out := exec (.remoteAck i) s
    -- no access of the tag is open: it was given up, or nothing is known of it
    ((∀ r ∈ s.remotes, r.tag ≠ i.tag) → ∃ u, out = .next u ∧ { u with cutOff := s.cutOff, links := s.links } = s ∧
      u.cutOff = s.cutOff.filter (fun e => e.1 != i.tag) ∧
      ((∀ e ∈ s.cutOff, e.1 = i.tag → e.2.2 = s.genNow e.2.1) → u.links = s.links) ∧
      ∀ e ∈ s.cutOff, e.1 = i.tag → (∀ y ∈ s.cutOff, y.1 = i.tag → y = e) → e.2.2 ≠ s.genNow e.2.1 → counted u i.port 1) ∧
    ∀ r ∈ s.remotes, r.tag = i.tag → (∀ q ∈ s.remotes, q.tag = i.tag → q = r) → ∃ u, out = .next u ∧
      u.remotes = s.remotes.filter (fun x => x.tag != i.tag) ∧
      (u.link i.port).gendrop = (s.link i.port).gendrop + (if r.gen = s.genNow r.ctx then 0 else 1) ∧
      -- the die of an atomic or a delivery keeps no copy of the line; those of the other dies are known to be older
      (r.gen = s.genNow r.ctx → r.warp < seqWarp → ∀ a,
        (if r.line = 2 ^ 40 then a / 2 ^ 40 = r.peer.toNat else a / 128 = r.peer.toNat * 2 ^ 33 + r.line) →
        (r.path = 3 → Tab.get none (u.die (coreOf r.warp / 64)).copies a = none) ∧
        ∀ n, n < 4 → n ≠ coreOf r.warp / 64 → Tab.get none (u.die n).copies a ≠ none → a / 128 ∈ (u.die n).older) ∧
      (r.copy = none →
        { u with remotes := s.remotes, warps := s.warps, lateRes := s.lateRes, dies := s.dies, links := s.links } = s ∧
        ∀ k, { u.warp k with pending := (s.warp k).pending, done := (s.warp k).done, promotes := (s.warp k).promotes,
                             acqV := (s.warp k).acqV, acqX := (s.warp k).acqX } = s.warp k ∧
        -- the lane of a PROMOTE that the answer confirms has performed
        (∀ n, n < 32 → ((u.warp k).done.getLsbD n = true ↔ (s.warp k).done.getLsbD n = true ∨
          (k = r.warp ∧ k ≠ seqWarp ∧ r.gen = s.genNow r.ctx ∧ (s.warp k).ctx = r.ctx ∧ (s.warp k).stat ≠ .free ∧
            (i.tag, n) ∈ (s.warp k).promotes))) ∧
        ∀ p, p ∈ (u.warp k).pending ↔
          (∃ q ∈ (s.warp k).pending, (∀ ts, q.kind ≠ .stmc ts) ∧ p = q) ∨
          ∃ q ∈ (s.warp k).pending, ∃ ts, q.kind = .stmc ts ∧ ts.filter (fun t => t != i.tag) ≠ [] ∧
            p = { q with kind := .stmc (ts.filter (fun t => t != i.tag)) })) ∧
  (∀ l : Nat, ∃ u, exec (.leaseExpiry l) s = .next u ∧ { u with leases := s.leases } = s ∧
    ∀ x, x ∈ u.leases ↔ x ∈ s.leases ∧ (x.line ≠ l ∨ s.ft.toNat < x.till.toNat)) ∧
  (∀ k : Nat,
    let w := s.warp k
    let out := exec (.instructionFetch k) s
    (s.isReady k = false ∨ w.reissue ≠ none → out = .next s) ∧
    (s.isReady k = true → w.reissue = none →
      (w.ir ≠ none → out = .next s) ∧
      (w.ir = none → w.pc ≠ w.cj → w.em ≠ 0 ∨ w.depth = 0 →
        let die := coreOf k / 64
        (∀ x, s.translate w.ctx die wantX 0 w.pc = .error x → ∃ u, out = .next u ∧ (u.warp k).stat = .replayable ∧
          (u.warp k).pc = w.pc ∧ (∀ n, n ≠ k → u.warp n = s.warp n) ∧ u.mem = s.mem ∧
          ∃ r : FaultRec, r ∈ u.faultQ ++ u.faultHeld ∧ r.kind = 0 ∧ r.cause = x ∧ r.va = w.pc ∧ r.acc = 3 ∧ r.ctx = w.ctx) ∧
        ∀ t, s.translate w.ctx die wantX 0 w.pc = .ok t → s.fetchWatched w.ctx w.pc = false →
          -- the line of code: memory, or a copy that a fetch of the same launch left in the instruction cache
          let line := t.addr w.pc / 128
          let copy := Tab.get (0, []) (s.core (coreOf k)).icache line
          let src := State.codeLine { s with cur := k } s.ticks line
          let code := fun (n : Nat) => src.getD (t.addr w.pc % 128 + n) 0
          let len := [8, 12, 16, 4].getD ((code 0).toNat % 4) 0
          (copy.2 = [] ∨ copy.1 ≠ (s.team w.team).launch → src = (List.range 128).map (fun n => s.byte (line * 128 + n))) ∧
          (src = (List.range 128).map (fun n => s.byte (line * 128 + n)) ∨ src = copy.2) ∧
          ((code 0).toNat % 4 ≠ 3 → w.pc.toNat % 32 + len ≤ 32 → ∃ u f, out = .next u ∧ u.warp k = { w with ir := some f } ∧ f.len = len ∧
            (∀ n, n < 8 → f.w0.extractLsb' (8 * n) 8 = code n) ∧
            (∀ n, n < 8 → f.ext.extractLsb' (8 * n) 8 = if 8 + n < len then code (8 + n) else 0) ∧
            Tab.get (0, []) (u.core (coreOf k)).icache line = ((s.team w.team).launch, src) ∧
            (∀ n, n ≠ k → u.warp n = s.warp n) ∧ u.mem = s.mem))))

/-- R322, R324, R325, R327, R328, R337, R338, R339, R344 and R398. That a command accepted during a switch waits for its end is the model's
reading (log entry 48), and so is that an older entry ends the pre-emption (77); which row writes the fields of CTX_CMD is its choice (66). -/
def Obligations.ContextsSwitchByTheBill : Prop :=
  ∀ s : State,
  let same := fun (u : State) => u.warps = s.warps ∧ u.teams = s.teams ∧ u.cores = s.cores ∧ u.mem = s.mem
  let asks := fun (u : State) (src dst : Option CtxId) (c : Cause) =>
    u.switch = some ⟨0, src, dst, 0, some c, 0, false, false⟩
  -- the new context of a switch that has left its old one
  let onward := fun (u : State) (w : Switch) => match w.dst with
    | none => u.switch = some { w with phase := 2 }
    | some d =>
      let st := (s.ctx d).state
      (st = .idle ∨ st = .saved → (u.ctx d).state = .restoring ∧ u.switch = some { w with phase := 2, fresh := st == .idle }) ∧
      (st ≠ .idle → st ≠ .saved → u.switch = some { w with phase := 2, dst := none })
  let rebased := fun (t : DWord) => if t.toNat < 2 ^ 62 then (0 : DWord) else t - BitVec.ofNat 64 (2 ^ 62)
  (∀ i : BillEntry,
    let e : Entry := ⟨i.ft, i.w.extractLsb' 0 12, i.w.extractLsb' 12 2, i.w.extractLsb' 16 16, i.w.extractLsb' 32 32⟩
    let good := s.ft.toNat + 3200000 ≤ i.ft.toNat ∧ i.ft.extractLsb' 0 6 = 0 ∧ i.w.extractLsb' 12 2 ≠ 3 ∧ s.bill.length < 16 ∧
      ∀ b, s.bill.getLast? = some b → b.ft.toNat < i.ft.toNat
    (good → exec (.billEntryReceive i) s = .next { s with
      bill := s.bill ++ [e]
      out := s.out ++ s.ringmaster.toList.map (fun p => ⟨p, 0, 0, none, false, 0, .billAck i.ft, none⟩) }) ∧
    (¬good → exec (.billEntryReceive i) s = .next { s with late := s.late + 1 })) ∧
  (s.bill = [] → exec .billEntryPerform s = .next s) ∧
  (∀ e es, s.bill = e :: es →
    (s.ft.toNat < e.ft.toNat ∨ s.switch ≠ none → exec .billEntryPerform s = .next s) ∧
    (e.ft.toNat ≤ s.ft.toNat → s.switch = none → ∃ u, exec .billEntryPerform s = .next u ∧
      u.epochs = s.epochs + (if e.kind = 2 then 1 else 0) ∧ u.ft = (if e.kind = 2 then rebased s.ft else s.ft) ∧
      (e.kind ≠ 2 → u.bill = es ∧ u.lastEntry = some e ∧ same u) ∧
      (e.kind = 2 → u.bill.map (fun x => x.ft) = es.map (fun x => rebased x.ft) ∧ u.rf = rebased s.rf ∧ u.lastStamp = rebased s.lastStamp ∧
        u.mem = s.mem ∧ (∀ k, (u.warp k).snap = rebased (s.warp k).snap ∧ (u.warp k).txStart = rebased (s.warp k).txStart) ∧
        ∀ d j, (u.snapEntry d j).ft = rebased (s.snapEntry d j).ft) ∧
      -- an entry that fell due while an out-of-turn context held the package is not performed; an older one ends the pre-emption
      let then_ := fun (t : DWord) => if e.kind = 2 then rebased t else t
      let barred := s.preempt ≠ none ∧ (then_ s.preemptFrom).toNat < (then_ e.ft).toNat
      (barred → u.switch = none ∧ u.preempt = s.preempt ∧ u.slotEnd = s.slotEnd.map then_) ∧
      (¬barred → u.preempt = none ∧
        let runs := e.kind ≠ 1 ∧ s.run = some e.ctx ∧ (s.ctx e.ctx).gen = e.gen
        let fits := e.kind ≠ 1 ∧ s.descValid e.ctx = true ∧ s.descResident e.ctx = false ∧ s.descGen e.ctx = e.gen
        (runs → u.switch = none) ∧
        (¬runs → fits → s.run ≠ some e.ctx → asks u s.run (some e.ctx) 0x380) ∧
        (¬runs → ¬fits → asks u s.run none 0x380 ∧ u.slotEnd = none) ∧
        (runs ∨ fits → e.kind = 0 → u.slotEnd = some (e.ft + BitVec.ofNat 64 (e.len.toNat * 64000)))))) ∧
  (let ended := ∃ t, s.slotEnd = some t ∧ t.toNat ≤ s.ft.toNat ∧ (∀ e es, s.bill = e :: es → t.toNat < e.ft.toNat) ∧
     s.switch = none ∧ s.preempt = none
   (¬ended → exec .slotEnd s = .next s) ∧
   (ended → ∃ u, exec .slotEnd s = .next u ∧ same u ∧ u.slotEnd = none ∧ asks u s.run none 0x380)) ∧
  ((∀ w, s.switch = some w → w.phase ≠ 0) → exec .contextSwitch s = .next s) ∧
  (∀ w, s.switch = some w → w.phase = 0 →
    (w.src = none → ∃ u, exec .contextSwitch s = .next u ∧ u.warps = s.warps ∧ onward u w) ∧
    ∀ c, w.src = some c → ∃ u, exec .contextSwitch s = .next u ∧ (u.ctx c).state = .saving ∧
      u.switch = some { w with phase := 1, since := s.now, stopped := (s.ctx c).state == .stopped } ∧
      (∀ k, (s.warp k).ctx ≠ c → u.warp k = s.warp k) ∧
      (∀ k, (s.warp k).ctx = c → (s.warp k).stepping = false → { u.warp k with waited := (s.warp k).waited, since := (s.warp k).since } = s.warp k) ∧
      ∀ d, d < 4 → ∀ e ∈ (u.die d).copies, ∀ b, e.2 ≠ some (c, b)) ∧
  ((∀ w c, s.switch = some w → w.phase = 1 → w.src ≠ some c) → exec .saveComplete s = .next s) ∧
  (∀ w c, s.switch = some w → w.phase = 1 → w.src = some c →
    let drained := ∀ e ∈ s.servers c, s.drained e.1 e.2 = true
    (¬drained → exec .saveComplete s = .next s) ∧
    (drained → w.dst ≠ some c → ∃ u x, exec .saveComplete s = .next u ∧ (u.ctx c).state = .saved ∧ u.switch = some x ∧ x.phase = 2 ∧
      (s.run = some c → u.run = none) ∧ ∀ e ∈ s.servers c, ∀ n ∈ e.2.slots, (u.warp (e.1 * 16 + n)).stat = .free)) ∧
  ((∀ w, s.switch = some w → w.phase ≠ 2) → exec .restoreComplete s = .next s) ∧
  (∀ w, s.switch = some w → w.phase = 2 →
    ((∃ k, k < 256 ∧ s.leaving w k = true ∧ s.drained k .upper = false) → exec .restoreComplete s = .next s) ∧
    ((∀ k, k < 256 → s.leaving w k = false ∧ s.turnsOn w k = false) → s.heldCmds = [] → s.repairBusy = false → s.revokes = [] →
      (w.dst = none → exec .restoreComplete s = .next { s with
        switch := none, run := (if w.tenant = 0 then none else s.run),
        preemptFrom := (if w.reason = some 0x381 ∧ s.preempt ≠ none then s.ft else s.preemptFrom) }) ∧
      ∀ d, w.dst = some d → ∃ u, exec .restoreComplete s = .next u ∧ u.switch = none ∧
        ((u.ctx d).state = .running ∨ (u.ctx d).state = .stopped) ∧ u.run = (if w.tenant = 0 then some d else s.run) ∧
        (w.fresh = true → s.reduce = [] → s.barHits = [] → (s.ctx d).state = .restoring →
          (u.ctx d).state = .running ∧ (u.ctx d).gen = s.descGen d ∧ (u.ctx d).resident = s.descResident d ∧
          u.warps = s.warps ∧ u.cores = s.cores))) ∧
  (∀ c : CtxId,
    let pre := exec (.ctxCmdPreempt c) s
    let fin := exec .ctxCmdEndPreempt s
    -- the register keeps the context that a command named (R3)
    let wrote := s.setReg 0x6400 (c.setWidth 64 <<< 32)
    let free := s.ctxBusy = false
    (wrote.reg 0x6400).extractLsb' 32 12 = c ∧ (¬free → pre = .next s ∧ fin = .next s) ∧
    -- BUSY while one of them is held or its switch goes on (R339)
    (s.ctxBusy = true ↔ (∃ w, s.switch = some w ∧ w.reason = some 0x381) ∨ .endPreempt ∈ s.heldCmds ∨ ∃ d, .preempt d ∈ s.heldCmds) ∧
    (free → s.switch ≠ none → pre = .next { wrote with heldCmds := s.heldCmds ++ [.preempt c] } ∧
      (s.preempt ≠ none → fin = .next { s with heldCmds := s.heldCmds ++ [.endPreempt] })) ∧
    (free → s.switch = none →
      (s.descValid c = false ∨ s.descResident c = true → pre = .next wrote) ∧
      (s.descValid c = true → s.descResident c = false → ∃ u, pre = .next u ∧ same u ∧ u.preempt = some c ∧ u.preemptFrom = s.ft ∧
        (s.run = some c → u.switch = none) ∧ (s.run ≠ some c → asks u s.run (some c) 0x381)) ∧
      (s.preempt ≠ none → ∃ u, fin = .next u ∧ same u ∧ u.preempt = none ∧
        (u.billed = s.run → u.switch = none) ∧ (u.billed ≠ s.run → asks u s.run u.billed 0x381))) ∧
    (s.preempt = none → fin = .next s) ∧
    (s.ctxBusy = true → exec (.ctxCmdResume c) s = .next s) ∧
    ((s.ctx c).state ≠ .stopped → s.ctxBusy = false → exec (.ctxCmdResume c) s = .next wrote) ∧
    ((s.ctx c).state = .stopped → s.ctxBusy = false → ∃ u, exec (.ctxCmdResume c) s = .next u ∧ (u.ctx c).state = .running ∧
      ∀ k, let w := s.warp k
        (w.ctx ≠ c ∨ w.stat ≠ .halted → u.warp k = w) ∧
        (w.ctx = c → w.stat = .halted → (w.reason = 0 → u.warp k = { w with stat := .ready }) ∧
          (w.reason ≠ 0 → u.warp k = { w with stat := .parked, since := s.ft }))) ∧
    (let st := (s.ctx c).state
     let held := st = .running ∨ st = .stopped ∨ st = .saved ∨ st = .saving ∨ st = .restoring
     (s.ctxBusy = true → exec (.ctxCmdDiscard c) s = .next s) ∧
     (s.ctxBusy = false → ¬held → exec (.ctxCmdDiscard c) s = .next wrote) ∧
     (s.ctxBusy = false → held → ∃ (u : State) (r : FaultRec), exec (.ctxCmdDiscard c) s = .next u ∧ (u.ctx c).state = .idle ∧
       (∀ k, (u.warp k).ctx = c → (u.warp k).stat = .free) ∧
       (Tab.rising none s.warps = true → ∀ k, (s.warp k).ctx ≠ c → u.warp k = s.warp k) ∧
       u.faultQ ++ u.faultHeld = s.faultQ ++ s.faultHeld ++ [r] ∧ r.kind = 4 ∧ r.cause = 0x384 ∧ r.ctx = c ∧
       r.gen = (s.ctx c).gen ∧ u.run ≠ some c ∧ u.preempt ≠ some c ∧ (∀ l ∈ u.launches, l.ctx = c → l.state = .queued) ∧
       ∀ e ∈ u.chains, ∀ o b, e.2.tentative = some (o, b) → o / 4096 ≠ c.toNat))) ∧
  (let drops := fun (out : Out) (p : Nat) => ∃ u, out = .next u ∧ { u with links := s.links } = s ∧
     (u.link p).gendrop = (s.link p).gendrop + 1
   (∀ p t : Nat, exec (.latePacketApply (.copyAck p t)) s = exec (.remoteAck ⟨p, t⟩) s ∧
    exec (.latePacketApply (.storeAck p t)) s = exec (.remoteAck ⟨p, t⟩) s ∧
    ((∀ r ∈ s.remotes, r.tag ≠ t) → exec (.latePacketApply (.orphan p t)) s = exec (.remoteAck ⟨p, t⟩) s)) ∧
   (∀ p t bytes, (∀ l ∈ s.lateCopies, l.tag ≠ t) →
    ((∀ l ∈ s.launches, ∀ a ∈ l.asked, a.1 ≠ t) → exec (.latePacketApply (.copyData p t bytes)) s = .next s) ∧
    -- bytes of a launch record that the sequencer has asked for
    ∀ (l : Launch) (as : List Nat), l ∈ s.launches → l.asked.find? (fun a => a.1 == t) = some (t, as) → bytes.length = as.length →
      ∃ u, exec (.latePacketApply (.copyData p t bytes)) s = .next u ∧ { u with launches := s.launches } = s ∧
        ∃ x ∈ u.launches, x = { l with got := l.got ++ as.zip bytes, asked := x.asked } ∧ ∀ a ∈ x.asked, a.1 ≠ t) ∧
   (∀ (p : Nat) (r : LdRedReply),
    let out := exec (.latePacketApply (.ldredResult p r)) s
    ((∀ e ∈ s.lateRes, e.warp = r.warp → e.pend.id ≠ r.id) → out = .next s) ∧
    ∀ e ∈ s.lateRes, e.warp = r.warp → e.pend.id = r.id → (∀ f ∈ s.lateRes, f.pend.id = r.id → f = e) →
      (e.gen ≠ s.genNow e.ctx → drops out p) ∧
      (e.gen = s.genNow e.ctx → s.reduce.contains (.ldredResult p r) = true → out = .next s) ∧
      (e.gen = s.genNow e.ctx → s.reduce.contains (.ldredResult p r) = false →
        out = .next { s with reduce := s.reduce ++ [.ldredResult p r] })) ∧
   ∀ (q k id lane : Nat) (bytes : List Byte),
    let out := exec (.latePacketApply (.atomResult q k id lane bytes)) s
    ((∀ e ∈ s.lateRes, e.warp = k → e.pend.id ≠ id) → out = .next s) ∧
    ∀ (e : LateRes) (d : Nat) (wide : Bool) (tag : Nat), e ∈ s.lateRes → e.warp = k → e.pend.id = id → e.pend.kind = .atomr d wide tag →
      (∀ f ∈ s.lateRes, f.pend.id = id → f = e) →
      (e.gen ≠ s.genNow e.ctx → drops out q) ∧
      (e.gen = s.genNow e.ctx → e.pend.lanes.getLsbD lane = true → bytes.length = 8 →
      (s.descAddr e.ctx + 8 ≤ s.vregAddr e.ctx k d lane ∨ s.vregAddr e.ctx k (d + 1) lane + 4 ≤ s.descAddr e.ctx) →
      ∃ u, out = .next u ∧ u.warps = s.warps ∧ u.cores = s.cores ∧
        (∀ b, b < 4 → u.byte (s.vregAddr e.ctx k d lane + b) = bytes.getD b 0) ∧
        (wide = true → ∀ b, b < 4 → u.byte (s.vregAddr e.ctx k (d + 1) lane + b) = bytes.getD (4 + b) 0) ∧
        (let rest := e.pend.lanes &&& ~~~(1#32 <<< lane)
         ∀ f, f ∈ u.lateRes ↔ (f ∈ s.lateRes ∧ f ≠ e) ∨ (rest ≠ 0 ∧ f = { e with pend := { e.pend with lanes := rest } }))))

/-- R3, R4, R167, R291, R320, R321, R323, R326, R327 and R398 to R404. The model's choices among the clauses: the CORE of a host die's record
(log entry 33), CSR offsets (40), the range that a shootdown drops (79), the measured offset of a PTP frame (86), the place of an error (89), and
the map of retired cores that outlives a power cycle (102);
its readings: VALID noticed at once and a new retire request for a pending one (37), the end of a shootdown (44), pages mapped anew (78). -/
def Obligations.HealthEventsActOnThePackage : Prop :=
  ∀ s : State,
  -- the die that found it: compute dies 0 to 3, fabric dies 4 and 5; for the host die the spec names no code (log entry 33)
  let coded := fun (die : Nat) (r : FaultRec) => (die < 4 → r.core = 0x8000 + die) ∧ (die = 4 ∨ die = 5 → r.core = 0xC000 + (die - 4))
  let recorded := fun (u : State) (cause : Cause) (c : CtxId) (va : DWord) (die : Nat) => ∃ r : FaultRec,
    u.faultQ ++ u.faultHeld = s.faultQ ++ s.faultHeld ++ [r] ∧ r.kind = 5 ∧ r.cause = cause ∧ r.ctx = c ∧ r.va = va ∧
    coded die r
  let only := fun (u : State) => { u with faultQ := s.faultQ, faultHeld := s.faultHeld, nextId := s.nextId } = s
  let held := fun (c : CtxId) => (s.ctx c).state = .running ∨ (s.ctx c).state = .stopped ∨ (s.ctx c).state = .saved ∨
    (s.ctx c).state = .saving ∨ (s.ctx c).state = .restoring
  (∀ i : PowerOn, ∃ u, exec (.powerOn i) s = .next u ∧
    (i.failStep = 0 ∨ 5 < i.failStep → u = { State.reset with
      agenda := s.agenda, ticks := s.ticks, nextId := s.nextId, retired := s.retired, peer := i.peer, prio := i.prio,
      spareCores := u.spareCores, step := 0, ready := true } ∧
      -- a grove whose spare the record's map, or a retirement since, has taken
      ∀ g, g < 16 → (u.spareCores.getLsbD g = true ↔ i.spares.getLsbD g = true ∨ ∃ k ∈ s.retired, k.toNat / 16 = g)) ∧
    (1 ≤ i.failStep → i.failStep ≤ 5 → u.ready = false ∧ u.fail = true ∧ u.step.toNat = i.failStep ∧ u.fcode.toNat = i.failStep ∧
      u.mem = [] ∧ u.warps = [] ∧ u.agenda = s.agenda ∧ u.retired = s.retired)) ∧
  (∀ i : ScrubPass, ∃ (u : State) (rs : List FaultRec), exec (.scrubPass i) s = .next u ∧ only u ∧ u.faultQ ++ u.faultHeld = s.faultQ ++ s.faultHeld ++ rs ∧
    rs.length = i.corrected.length ∧ ∀ (n : Nat) (e : Nat × DWord) (r : FaultRec), i.corrected[n]? = some e → rs[n]? = some r →
      r.kind = 5 ∧ r.cause = 0x340 ∧ r.va = e.2 ∧ coded e.1 r) ∧
  (∀ i : SoftError, ∃ u, exec (.softError i) s = .next u ∧
    (i.corrected = true → only u ∧ recorded u 0x340 0 i.addr i.die) ∧
    (i.corrected = false →
      -- the context that holds the place of the error, if any
      let owner := fun (st : HoldState) (c : CtxId) => if st = .free then none else some c
      (∀ k b, s.contextAt (.band k b) = owner ((s.core k).band b).state ((s.core k).band b).ctx) ∧
      (∀ k n, s.contextAt (.record k n) = owner ((s.core k).resvAt n).state ((s.core k).resvAt n).ctx) ∧
      (∀ k n x, n < 32 → ((s.core k).resvAt n).state ≠ .free → ((s.core k).resvAt n).base ≤ x →
        x < ((s.core k).resvAt n).base + ((s.core k).resvAt n).size → (∀ m, m < n → ((s.core k).resvAt m).state = .free ∨
          x < ((s.core k).resvAt m).base ∨ ((s.core k).resvAt m).base + ((s.core k).resvAt m).size ≤ x) →
        s.contextAt (.obUnit k x) = owner ((s.core k).resvAt n).state ((s.core k).resvAt n).ctx) ∧
      (∀ k n, s.contextAt (.slot k n) = if (s.warp (k * 16 + n)).stat = .free then none else some (s.warp (k * 16 + n)).ctx) ∧
      (∀ c, s.contextAt (.context c) = some c) ∧
      (s.contextAt i.place = none → recorded u 0x342 0 i.addr i.die ∧
        (∀ a, i.place = .memory a → only { u with poison := s.poison } ∧ a / 8 * 8 ∈ u.poison ∧
          ∀ x, x ∈ u.poison → x ∈ s.poison ∨ x = a / 8 * 8) ∧
        (∀ d p l, i.place = .canopyCopy d p l → l < 2 ^ 33 → only { u with dies := s.dies } ∧ (∀ e, e ≠ d → u.die e = s.die e) ∧
          u.die d = { s.die d with epoch := (s.die d).epoch + 1
                                   copies := (s.die d).copies.filter (fun e => e.1 / 128 != p.toNat * 2 ^ 33 + l) }) ∧
        ((∀ a, i.place ≠ .memory a) → (∀ d p l, i.place ≠ .canopyCopy d p l) → only u)) ∧
      ∀ c, s.contextAt i.place = some c → (¬held c → only u ∧ recorded u 0x341 c i.addr i.die) ∧
        (held c → (u.ctx c).state = .idle ∧ (∀ k, (u.warp k).ctx = c → (u.warp k).stat = .free) ∧
          ∃ r q : FaultRec, u.faultQ ++ u.faultHeld = s.faultQ ++ s.faultHeld ++ [r, q] ∧ r.kind = 5 ∧ r.cause = 0x341 ∧ r.va = i.addr ∧
            coded i.die r ∧ q.kind = 4 ∧ q.cause = 0x341 ∧ q.ctx = c))) ∧
  (∀ c : CtxId, (¬held c → exec (.internalError c) s = .next s) ∧
    (held c → ∃ (u : State) (r : FaultRec), exec (.internalError c) s = .next u ∧ (u.ctx c).state = .idle ∧
      u.faultQ ++ u.faultHeld = s.faultQ ++ s.faultHeld ++ [r] ∧ r.kind = 4 ∧ r.cause = 0x3C0 ∧ r.ctx = c)) ∧
  (∀ k : BitVec 8,
    let out := exec (.coreRetireRequest k) s
    let spent := s.spareCores.getLsbD (k.toNat / 16)
    ∃ u, out = .next u ∧ (∀ o, u.reg o = if o = 0xA000 then k.setWidth 64 else s.reg o) ∧
      (spent = true → { u with win := s.win } = { s with repairBusy := false, repairFail := true }) ∧
      (spent = false → { u with win := s.win } = { s with repairCore := k, repairBusy := true, repairFail := false })) ∧
  exec .coolantOvertemp s = .next { s with hot := true } ∧
  exec .coolantBelowRatedInlet s = .next { s with hot := false } ∧
  (∀ i : PtpFrame, exec (.ptpFrame i) s = .next { s with
    ppm := max (-200) (min 200 i.ppm), offset := i.offset,
    syncErr := decide (25 * 64 < i.offset.natAbs) }) ∧
  (∀ i : Election, ∃ u, exec (.ringmasterElection i) s = .next u ∧
    { u with ringmaster := s.ringmaster, clearing := s.clearing, links := s.links, offset := s.offset, syncErr := s.syncErr } = s ∧
    (u.ringmaster = some s.peer → u.offset = 0 ∧ u.syncErr = false) ∧
    (u.ringmaster ≠ some s.peer → u.offset = s.offset ∧ u.syncErr = s.syncErr) ∧
    (let all := if (∃ c ∈ i.candidates, c.2 = s.peer) then i.candidates else i.candidates ++ [(s.prio, s.peer)]
     u.clearing = all.map (·.2) ∧
     (∃ w ∈ all, u.ringmaster = some w.2 ∧ ∀ c ∈ all, w.1.toNat < c.1.toNat ∨ (w.1 = c.1 ∧ w.2.toNat ≤ c.2.toNat)) ∧
     ∀ p, u.link p = if (s.link p).state = 3 ∧ (s.link p).peer ∈ all.map (·.2) then { s.link p with state := 4 } else s.link p)) ∧
  (∀ c : CtxId, (s.sdBusy = true → exec (.shootdownStart c) s = .next s) ∧
    (s.sdBusy = false → ∃ u, exec (.shootdownStart c) s = .next u ∧ { u with win := s.win } = { s with sdBusy := true, sdCtx := c } ∧
      ∀ o, u.reg o = if o = 0x2010 then c.setWidth 64 <<< 32 else s.reg o)) ∧
  (s.sdBusy = false ∨ s.usesRange s.sdCtx = true → exec .shootdownDone s = .next s) ∧
  (s.sdBusy = true → s.usesRange s.sdCtx = false → ∃ u, exec .shootdownDone s = .next u ∧
    { u with tlb := s.tlb, chains := s.chains, mapped := s.mapped } = { s with sdBusy := false } ∧
    (let hit := fun (e : TlbEntry) => e.ctx = s.sdCtx ∧
       ((s.reg 0x2000).extractLsb' 12 52).toNat ≤ e.vpage ∧ e.vpage ≤ ((s.reg 0x2008).extractLsb' 12 52).toNat
     (∀ e, e ∈ u.tlb ↔ e ∈ s.tlb ∧ ¬hit e) ∧
     -- of the versioned mappings known in the range, those stay to which the tables still lead
     (∀ m, m ∈ u.mapped ↔ m ∈ s.mapped ∧
       (¬(m.1 = s.sdCtx ∧ ((s.reg 0x2000).extractLsb' 12 52).toNat ≤ m.2.1 ∧ m.2.1 ≤ ((s.reg 0x2008).extractLsb' 12 52).toNat) ∨
         State.leadsFrom { s with sdBusy := false, tlb := u.tlb } m.1 m.2.2 (BitVec.ofNat 64 (m.2.1 * 4096)) = true)) ∧
     -- a versioned page that no known mapping, no cached translation and no table of a context maps starts over with its first versions
     (Tab.rising none s.chains = true → ∀ l,
       let page := l * 128 / 4096
       let kept := (∃ m ∈ u.mapped, m.2.2 = page) ∨ (∃ e ∈ u.tlb, e.trans.vers = true ∧ e.trans.page = page * 4096) ∨
         ∃ e ∈ s.ctxs, State.tablesMap { s with sdBusy := false, tlb := u.tlb, mapped := u.mapped } (BitVec.ofNat 12 e.1) page = true
       (¬kept ∧ (s.chain l).tentative = none → u.chain l = s.newChain) ∧
       (kept ∨ (s.chain l).tentative ≠ none → u.chain l = s.chain l)))) ∧
  (∀ i : RegWrite, ∃ u, exec (.registerWrite i) s = .next u ∧
    let mask : Option DWord :=
      if i.off = 0x2000 ∨ i.off = 0x2008 then some 0xFFFFFFFFFFFFFFFF
      else if 0x7000 ≤ i.off ∧ i.off < 0x9000 ∧ i.off % 32 = 0 then some 0x000000FFFFFFFFC0
      else if 0x7000 ≤ i.off ∧ i.off < 0x9000 ∧ i.off % 32 = 8 then some 0x0000FFFF0FFF8FFF
      else if i.off = 0x9400 then some 0xFFFF else none
    (∀ m, mask = some m → { u with win := s.win } = s ∧ ∀ o, u.reg o = if o = i.off then i.val &&& m else s.reg o) ∧
    (i.off = 0x2010 → { u with win := s.win } = s ∧ (i.val.getLsbD 0 = true → u = s) ∧
      (i.val.getLsbD 0 = false → u.reg 0x2010 = i.val &&& 0x00000FFF00000000)) ∧
    (i.off = 0xA000 → { u with win := s.win } = s ∧ (i.val.getLsbD 8 = true → u = s) ∧
      (i.val.getLsbD 8 = false → u.reg 0xA000 = i.val &&& 0xFF)) ∧
    (i.off = 0x6400 → (s.ctxBusy = true → u = s) ∧ (s.ctxBusy = false → { u with win := s.win } = s ∧
      ∀ o, u.reg o = if o = 0x6400 then i.val &&& 0x00000FFF00000000 else s.reg o)) ∧
    (i.off = 0x6800 →
      let ok := s.dbgBusy = false ∧ (s.ctx (i.val.extractLsb' 32 12)).dbgRight.getLsbD 0 = true
      (¬ok → u = s) ∧ (ok → { u with win := s.win } = s ∧
        ∀ o, u.reg o = if o = 0x6800 then i.val &&& 0x7FFFFFFF00000000 else s.reg o)) ∧
    (i.off = 0x6200 → u.reg 0x6200 = i.val &&& 0x000000FFFFFE0000 ∧ u.warps = s.warps) ∧
    (0x3000 ≤ i.off → i.off < 0x4000 → i.off % 8 = 0 →
      let d := (i.off - 0x3000) / 0x400
      let n := i.off / 0x10 % 64
      let q := s.taskq d n
      (∀ e m, ¬(e = d ∧ m = n) → u.taskq e m = s.taskq e m) ∧ u.mem = s.mem ∧
      u.taskq d n = { q with desc := if i.off % 16 = 0 then q.desc.extractLsb' 64 64 ++ (i.val &&& 0xFFFF1FFF00000003)
        else (i.val &&& 0x000FFFFFFFFFFFFF) ++ q.desc.extractLsb' 0 64 }) ∧
    (mask = none → i.off < 0x100000000 → i.off ≠ 0x2010 → i.off ≠ 0xA000 → i.off ≠ 0x6200 → i.off ≠ 0x6400 → i.off ≠ 0x6800 →
      ¬(0x3000 ≤ i.off ∧ i.off < 0x4000 ∧ i.off % 8 = 0) → u = s) ∧
    (∀ c n, i.off = 0x100000000 + c * 0x1000 + n → n < 0x1000 →
      (n = 0x030 → u = { s with stallLimit := i.val.setWidth 16 }) ∧ (n = 0x031 → u = { s with snapMaxAge := i.val.setWidth 32 }) ∧
      (∀ r, csrRights n = some r → r.2 < 2 → u = s) ∧ (csrRights n = none → u = s))) ∧
  (∀ i : HostWrite,
    let out := exec (.hostMemoryWrite i) s
    let base := s.descAddr 0
    (0xC000000000 < i.addr + i.bytes.length → out = .fault (.noSuchAddress (max i.addr 0xC000000000))) ∧
    (i.addr + i.bytes.length ≤ 0xC000000000 → ∃ u, out = .next u ∧ u.warps = s.warps ∧ u.cores = s.cores ∧
      ((∀ a, i.addr ≤ a → a < i.addr + i.bytes.length → ¬(base ≤ a ∧ a < base + 0x20000 ∧ (a - base) % 32 = 27)) →
        { u with mem := s.mem, leases := s.leases } = s ∧
        (∀ n, n < i.bytes.length → u.byte (i.addr + n) = i.bytes.getD n 0) ∧
        ∀ a, (a < i.addr ∨ i.addr + i.bytes.length ≤ a) → u.byte a = s.byte a) ∧
      ∀ (c : CtxId) (b : Byte), i.addr = s.descAddr c + 27 → i.bytes = [b] →
        (u.ctx c).state = (if b.getLsbD 0 = true then (if (s.ctx c).state = .free then .idle else (s.ctx c).state)
          else if (s.ctx c).state = .idle ∨ (s.ctx c).state = .saved then .free else (s.ctx c).state))) ∧
  (∀ n : Nat,
    exec (.residentDriverRingRead ⟨.fault, n⟩) s = .next { s with faultQ := s.faultQ.drop n } ∧
    exec (.residentDriverRingRead ⟨.sysc, n⟩) s = .next { s with syscQ := s.syscQ.drop n } ∧
    ∃ u, exec (.residentDriverRingRead ⟨.trace, n⟩) s = .next u ∧ { u with traceQ := s.traceQ, traceHeld := s.traceHeld } = s ∧
      u.traceQ ++ u.traceHeld = s.traceQ.drop n ++ s.traceHeld ∧ ((u.traceHeld = [] ∨ 4096 ≤ u.traceQ.length)))

/-- R348 to R352 and R354. What an event does in a state for which R350 has no line (ENABLE 0 in states 1 to 3, a heater in Replaying, a
receiver's error) is the model's reading (log entry 35); which flits an announcement and a control signal are is its choice (36, 80). -/
def Obligations.LinksFollowTheirStateTable : Prop :=
  ∀ (s : State) (p : Nat) (i : Instr),
  let l := s.link p
  let out := exec i s
  let goes := fun (x : Link) => ∃ u, out = .next u ∧ { u with links := s.links } = s ∧ (∀ q, q ≠ p → u.link q = s.link q) ∧
    u.link p = x
  let stays := out = .next s
  -- a flit without a packet, under the present key
  let flit := fun (type : BitVec 4) (seq : BitVec 24) => ({ type := type, seq := seq, keyep := l.keyep } : Flit)
  let down := fun (m : Link) =>
    let x := { m with state := (if m.enable = true then 7 else 0), buffer := [], keyold := false, rxBoundary := none, fruitless := 0,
                      replay := none, gap := false }
    let left := fun (n : Nat) => ∃ f ∈ m.buffer, f.pkt = some n
    let cut := fun (n : Nat) (y : Packet) => left n ∧ s.out[n]? = some y ∧ (s.setLink p x).present y.dst = false
    ∃ u, out = .next u ∧ u.link p = x ∧ (∀ q, q ≠ p → u.link q = s.link q) ∧ s.out <+: u.out ∧ ((∀ n y, ¬cut n y) → u.out = s.out) ∧
      (∀ n, n ∈ u.unsent ↔ n ∈ s.unsent ∨ (left n ∧ ∀ y, ¬cut n y)) ∧
      ((∀ n y, ¬cut n y) → { u with links := s.links, unsent := s.unsent } = s) ∧
      ∀ n y c, cut n y → y.owner = some c → (s.ctx c).state = .running → (u.ctx c).state = .idle
  let carries := 4 ≤ l.state ∧ l.state ≤ 6
  let replays := fun (seq : BitVec 24) => (8 ≤ l.fruitless → down l) ∧ (l.fruitless < 8 → ∀ a b, l.buffer = a ++ b →
    (∀ f ∈ a, f.seq ≠ seq) → (∃ f, b.head? = some f ∧ f.seq = seq) → goes { l with
      state := 6, replays := l.replays + 1, fruitless := l.fruitless + 1, replay := l.buffer.getLast?.map (fun f => f.seq)
      sent := l.sent ++ b })
  let names := (∃ b z, i = .linkEnable ⟨p, b, z⟩) ∨ i = .linkRetrain p ∨ (∃ k, i = .ringCalibrationDone ⟨p, k⟩) ∨
    i = .calibrationTimeout p ∨ (∃ x, i = .linkTrainingDone ⟨p, x⟩) ∨ (∃ k, i = .heaterSaturation ⟨p, k⟩) ∨ i = .lossOfLight p ∨
    (∃ q, i = .nakReceive ⟨p, q⟩) ∨ i = .ackTimeout p ∨ (∃ q, i = .ackReceive ⟨p, q⟩) ∨ (∃ h a b, i = .flitReceive ⟨p, h, a, b⟩) ∨
    i = .linkRotate p ∨ i = .keyAutoRotate p ∨ ∃ q, i = .keyAnnounce ⟨p, q⟩
  let recovers := fun (x : Link) => if x.state = 6 ∧ x.replay = none ∧ x.gap = false then
    { x with state := if x.spares = 0 then 4 else 5 } else x
  (names → 12 ≤ p → stays) ∧ (p < 12 →
    (∀ z, i = .linkEnable ⟨p, true, z⟩ → goes { l with enable := true, state := if l.state = 0 ∧ z = true then 1 else l.state }) ∧
    (∀ z, i = .linkEnable ⟨p, false, z⟩ → (l.state < 4 → goes { l with enable := false }) ∧
      (4 ≤ l.state → down { l with enable := false })) ∧
    (i = .linkRetrain p → (l.state = 7 → goes { l with state := 1, spares := 0 }) ∧ (l.state ≠ 7 → stays)) ∧
    (i = .ringCalibrationDone ⟨p, true⟩ → (l.state = 1 → goes { l with state := 2 }) ∧ (l.state ≠ 1 → stays)) ∧
    (i = .ringCalibrationDone ⟨p, false⟩ ∨ i = .calibrationTimeout p → (l.state = 1 → down l) ∧ (l.state ≠ 1 → stays)) ∧
    (∀ x, i = .linkTrainingDone ⟨p, x⟩ → (l.state ≠ 2 → stays) ∧
      (l.state = 2 → goes { l with
        state := if x ∈ s.clearing then 4 else 3, peer := x, keyep := false, rxKeyep := false, nextSeq := 0, expSeq := 0, wraps := 0, runs := 0,
        keygen := 0, buffer := [], keyold := false, rxBoundary := none, fruitless := 0, replay := none, gap := false })) ∧
    (∀ k, i = .heaterSaturation ⟨p, k⟩ → (¬carries → stays) ∧ (carries →
      (k = true → l.spares < 16 → goes { l with state := if l.state = 6 then 6 else 5, spares := l.spares + 1 }) ∧
      (k = false ∨ 16 ≤ l.spares → down l))) ∧
    (i = .lossOfLight p → (carries → down l) ∧ (¬carries → stays)) ∧
    (∀ q, i = .nakReceive ⟨p, q⟩ → (carries → (∃ f ∈ l.buffer, f.seq = q) → replays q) ∧
      (¬carries ∨ (∀ f ∈ l.buffer, f.seq ≠ q) → stays)) ∧
    (i = .ackTimeout p → (¬carries ∨ l.buffer = [] → stays) ∧ ∀ f fs, l.buffer = f :: fs → carries → replays f.seq) ∧
    (∀ q, i = .ackReceive ⟨p, q⟩ → (¬carries ∨ (∀ f ∈ l.buffer, f.seq ≠ q) → stays) ∧
      (carries → ∀ a f b, l.buffer = a ++ f :: b → f.seq = q → (∀ g ∈ a, g.seq ≠ q) →
        goes (recovers { l with
          buffer := b, fruitless := 0, replay := l.replay.filter (fun q => b.any (fun g => g.seq == q))
          keyold := l.keyold && b.any (fun g => g.keyep != l.keyep) }))) ∧
    (∀ h crc tag, i = .flitReceive ⟨p, h, crc, tag⟩ → (¬(carries ∨ l.state = 3) → stays) ∧ (carries ∨ l.state = 3 →
      let ty := (h.extractLsb' 36 4).toNat
      let seq := h.extractLsb' 40 24
      let bad := crc = false ∨ tag = false ∨ 5 < ty ∨ h.extractLsb' 0 31 ≠ 0
      let rejected := { l with gap := true, state := (if l.state = 3 then 3 else 6), sent := l.sent ++ [flit 3 l.expSeq] }
      (bad → goes { rejected with crcErr := l.crcErr + 1 }) ∧
      (¬bad → ty = 2 ∨ ty = 3 → stays) ∧
      (¬bad → ty ≠ 2 → ty ≠ 3 →
        (seq = l.expSeq → goes (recovers { l with
          expSeq := seq + 1, gap := false, sent := l.sent ++ [flit 2 seq],
          rxKeyep := (if l.rxBoundary = some (seq + 1) then !l.rxKeyep else l.rxKeyep),
          rxBoundary := (if l.rxBoundary = some (seq + 1) then none else l.rxBoundary) })) ∧
        (seq ≠ l.expSeq → (seq - l.expSeq).toNat < 2 ^ 23 → (l.gap = true → stays) ∧ (l.gap = false → goes rejected)) ∧
        (2 ^ 23 ≤ (seq - l.expSeq).toNat → goes { l with sent := l.sent ++ [flit 2 (l.expSeq - 1)] })))) ∧
    (i = .keyAutoRotate p → l.runs < 2 ^ 32 → stays) ∧
    (i = .linkRotate p ∨ (i = .keyAutoRotate p ∧ 2 ^ 32 ≤ l.runs) →
      (¬carries ∨ l.keyold = true ∨ l.rxBoundary ≠ none → stays) ∧
      (carries → l.keyold = false → l.rxBoundary = none → goes { l with
        buffer := l.buffer ++ [flit 4 l.nextSeq], sent := l.sent ++ [flit 4 l.nextSeq], runs := 0,
        nextSeq := l.nextSeq + 1, wraps := l.wraps + (if l.nextSeq = 0xFFFFFF then 1 else 0), keyep := !l.keyep, keygen := l.keygen + 1, keyold := true })) ∧
    ∀ q, i = .keyAnnounce ⟨p, q⟩ → (¬carries ∨ l.rxBoundary ≠ none → stays) ∧ (carries → l.rxBoundary = none →
      goes { l with
        rxBoundary := (if q = l.expSeq then none else some q)
        rxKeyep := (if q = l.expSeq then !l.rxKeyep else l.rxKeyep) }))

/-- The Reset columns of the register maps, with DEV_STATUS by R399. -/
def Obligations.ResetHoldsTheResetColumns : Prop :=
  let s := State.reset
  (s.ready = false ∧ s.fail = false ∧ s.step = 1 ∧ s.fcode = 0 ∧ s.spareCores = 0 ∧ s.devStatus = 0x08000000) ∧
  (s.sdBusy = false ∧ s.sdCtx = 0 ∧ s.repairBusy = false ∧ s.repairFail = false ∧ s.repairCore = 0) ∧
  (∀ o, s.reg o = if o = 0x9400 then 125 else 0) ∧
  (∀ o, o < 0x100000000 → s.readReg o = if o = 0x9400 then 125 else if o = 0x2010 then 2 else if o = 0xA000 then 0x200 else 0) ∧
  (∀ k n r, csrRights n = some r → State.csr { s with cur := k } n = if n = 0x030 then 100 else if n = 0x100 then 0x08000000 else 0) ∧
  (∀ p, (s.link p).stat = 0 ∧ (s.link p).state = 0 ∧ (s.link p).enable = false) ∧
  (s.late = 0 ∧ s.epochs = 0 ∧ s.syncErr = false ∧ s.ringmaster = none ∧ s.bill = [] ∧ s.switch = none ∧ s.heldCmds = []) ∧
  (∀ d n, (s.taskq d n).desc = 0 ∧ (s.die d).vpool = 0) ∧
  (∀ k, (s.warp k).stg = 0 ∧ (s.warp k).trap.valid = false ∧
    ∀ n, Tab.get 0 (s.warp k).fmt n = 0 ∧ Tab.get 0 (s.warp k).hregs n = 0) ∧
  (∀ c n, (s.core c).split = 0 ∧ (s.core c).active = false ∧ (Tab.get {} (s.core c).resv n).state = .free ∧
    (Tab.get {} (s.core c).bands n).state = .free) ∧
  (∀ k, (s.region k).state = .free) ∧ s.watches = [] ∧ Memory.wf s.mem = true

/-- R47, R136, R139, R140, R143 and R399; the order of the looks is that of log entries 1 and 3, and which instructions
the core holds while their warp goes on that of log entry 94. -/
def Obligations.StepRunsTheDecodedInstruction : Prop :=
  ∀ s : State,
  let b := s.begin
  (b.mem = s.mem ∧ b.warps = s.warps ∧ b.cores = s.cores ∧ b.ctxs = s.ctxs ∧ b.agenda = s.agenda ∧ b.ticks = s.ticks + 1) ∧
  (∀ i is, s.agenda = i :: is →
    let r := { b with agenda := is }
    (isEvent i = true → s.responds i = true → step s = onNext (exec i r) (fun t => (t.settleAll r).refill)) ∧
    (isEvent i = false ∨ s.responds i = false → step s = .next r)) ∧
  -- an instruction of the executing warp, behind one that the core holds for it or not
  let runs := fun (u : State) (i : Instr) =>
    if u.w.deferred ≠ [] ∧ i.stands = true then Host.Outcome.next u.hold.letPast else onNext (exec i u) State.letPast
  (∀ t : State, t.w.held = false → t.letPast = t) ∧
  (∀ k, s.agenda = [] → s.recheck = [] → b.choose b.turn = some k → (s.warp k).reissue = none →
    let u := { b.offer b.turn (some k) with turn := (b.turn + 1) % 1024, cur := k }
    (∀ f, (s.warp k).ir = some f →
      step s = onNext (runs u (decodeFetched (s.warp k).pc f)) (fun t => (t.done u b k).refill)) ∧
    (∀ tr,
      let pc := (s.warp k).pc
      -- the line of code, from memory or from the instruction cache
      let line := tr.addr pc / 128
      let copy := Tab.get (0, []) (u.core (coreOf k)).icache line
      let src := (u.codeLine u.ticks line).drop (tr.addr pc % 128)
      let w0 := BitVec.ofNat 64 (natLE (src.take 8))
      let len := lenBytes (w0.extractLsb' 0 2)
      let ext := BitVec.ofNat 64 (natLE ((src.drop 8).take (len - 8)))
      let f : Fetched := ⟨len, w0, ext⟩
      let x := (u.useCode pc len tr).upd (fun w => { w with ir := some f })
      let v := if f.passes pc ((x.ctx x.w.ctx).toolBase.getLsbD 0) = true then x.count (coreOf k) x.tenant 2 1 else x
      (copy.2 = [] ∨ copy.1 ≠ (u.team u.w.team).launch → u.codeLine u.ticks line = u.bytes (line * 128) 128) ∧
      ((s.warp k).ir = none → pc ≠ (s.warp k).cj → (s.warp k).em ≠ 0 → u.translate u.w.ctx u.myDie wantX 0 pc = .ok tr →
      w0.toNat % 4 ≠ 3 → pc.toNat % 32 + len ≤ 32 → u.fetchWatched u.w.ctx pc = false →
      step s = onNext (runs v (decode w0 ext)) (fun t => (t.done v b k).refill)))) ∧
  ∀ k ks, s.agenda = [] → s.recheck = k :: ks →
    let r := { b with recheck := ks }
    let v := r.tryHeld k
    let w := v.warp k
    let u := { v.setWarp k { w with held := false } with cur := k }
    let mayGo := (w.stat = .parked ∨ w.stat = .retiring ∨ w.held = true) ∧ v.mayRun k = true
    -- the first instruction that the warp has passed, at its own place
    ((s.warp k).deferred = [] → v = r) ∧
    (∀ d ds t, (s.warp k).deferred = d :: ds →
      exec (decodeFetched d.pc d.ir) ({ r with cur := k }.setWarp k ((s.warp k).before d)) = .next t →
      v = t.setWarp k ((s.warp k).afterTrial (t.warp k) d ds)) ∧
    (¬mayGo → step s = .next (if w.deferred = (s.warp k).deferred then r else (v.settleAll r).refill)) ∧
    -- parked at its instruction, or held by the core with its instruction issued
    (∀ f, mayGo → w.stat = .parked ∨ (w.stat = .ready ∧ w.held = true) → w.reissue = none → w.ir = some f →
      (w.held = false → u.waitOver = none) →
      step s = onNext (runs u (decodeFetched w.pc f)) (fun t =>
        let t := t.done u r k
        if (t.warp k).stat = (s.warp k).stat ∧ (t.warp k).held = (s.warp k).held ∧ (t.warp k).deferred = (s.warp k).deferred then t
        else t.refill))

/-- The invariant of memory (R9), for every state. -/
def Obligations.MemoryKeepsItsCanonicalForm : Prop :=
  (∀ s t, Memory.wf s.mem = true → step s = .next t → Memory.wf t.mem = true) ∧
  (∀ s, (∀ i is, s.agenda = .hostMemoryWrite i :: is → i.addr + i.bytes.length ≤ 0xC000000000) → GoesOn s) ∧
  (∀ s r, step s ≠ .refused r) ∧
  (∀ s e, step s = .fault e → ∃ a, e = .noSuchAddress a ∧ 0xC000000000 ≤ a)

/-- R45 to R60: no bit of an encoding is dropped, and no two words share a meaning. -/
def Obligations.DecodingInvertsEncoding : Prop :=
  (∀ i w e, wellFormed i = true → encode i = some (w, e) → decode w e = i) ∧
  (∀ i, wellFormed i = true → isEvent i = false → (∀ x, i ≠ .illegalEncoding x) → ∃ w e, encode i = some (w, e)) ∧
  ∀ w e : DWord, w.extractLsb' 0 2 ≠ 3 → trimExt (w.extractLsb' 0 2) e = e →
    (∃ c, decode w e = .illegalEncoding ⟨c, lenBytes (w.extractLsb' 0 2), w, e⟩ ∧
      c ∈ [0x041, 0x042, 0x043, 0x044, 0x045, 0x046, 0x047, 0x048, 0x04A]) ∨
    (wellFormed (decode w e) = true ∧ encode (decode w e) = some (w, e))

/-- The worked encodings, from 03_encoding.md to 19_link.md. -/
def Obligations.SpecWordsDecodeToTheirInstructions : Prop :=
  let g : Guard := ⟨false, 7⟩
  let h : Hdr := ⟨g, false⟩
  let off : XL := ⟨.none, 0⟩
  (decode 0x41010004030A2054 0 = .fadd ⟨⟨⟨true, 2⟩, true⟩, false, false, .f32, .rz, ⟨.xor, 1⟩, 10, 3, 4⟩ ∧
   decode 0x0000000000011CB9 7 = .movi ⟨h, false, .b32, off, 1, 7⟩ ∧
   decode 0x0018000007071039 0x7FFFFFF0 = .iaddImm ⟨h, false, .s32, true, off, 7, 7, 0x7FFFFFF0⟩ ∧
   decode 0x0000000014004839 0xFFFFFF7C = .spill ⟨false, false, false, 20, 0, 0xFFFFFF7C⟩ ∧
   decode 0x00200105040940B8 0 = .qpack ⟨h, false, 2, .rne, off, 9, 4, 5, 1⟩ ∧
   decode 0x000000000000500A 0x000000100000000C = .bra ⟨⟨⟨false, 1⟩, false⟩, 0xC, 0x10⟩) ∧
  (decode 0x005200000700633A 0x005AC20100000040 = .stef ⟨h, .grove, .rel, .b32, 7, ⟨some 2, some (1, 2), 64, some 5⟩⟩ ∧
   decode 0x0058000000007038 0 = .fence ⟨h, .grove, .acqrel⟩ ∧
   decode 0x025A00000000713A 0x0028470000000000 = .promote ⟨h, true, .grove, false, ⟨some 7, none, 0, some 2⟩⟩ ∧
   decode 0x0000000B0A008139 0x10 = .barx ⟨h, 10, 11, 0x10⟩ ∧
   decode 0x891F000000058ABA 0x88B3020004000008 =
     .mma ⟨h, 1, true, false, false, 31, true, false, 9, ⟨.ob, 2, 8⟩, ⟨.remote 5 (some 3), 4, 0x200⟩⟩ ∧
   decode 0x1E010000020090BA 0x0000000700000001 = .qcmd ⟨h, 0, some 2, none, false, 30, 1, 7⟩ ∧
   decode 0x00000908031494B9 0x84 = .copy ⟨h, 20, 3, 8, 9, .g2s, some 16⟩) ∧
  (decode 0x000000021400A039 1 = .sloop ⟨h, 20, 2, 1, 0, false, false⟩ ∧
   decode 0x000000010016A0B8 0 = .snext ⟨h, 22, 1⟩ ∧
   decode 0x000000000000A239 1 = .waitl ⟨h, 1⟩ ∧
   decode 0x000300080004AB3A 0x0003C60200000000 = .vat ⟨h, false, .warp, .plain, .b64, 4, 8, ⟨some 6, some (2, 3), 0, none⟩⟩ ∧
   decode 0x000000001400B038 0 = .postw ⟨h, 20⟩ ∧
   decode 0x000200140008B43E 0x0002C40100000000 = .ldred ⟨⟨g, true⟩, false, .b32, 8, 20, ⟨some 4, some (1, 2), 0, none⟩⟩ ∧
   decode 0x000000000015B539 3 = .agq ⟨h, 21, 3, none⟩ ∧
   decode 0x000000000014B5B8 0 = .ftime ⟨h, false, 20⟩ ∧
   decode 0x000000000000C139 0x8001 = .sysc ⟨h, 0x8001⟩ ∧
   decode 0x000000000000C2B8 0 = .halt h) ∧
  (decode 0x000000000000E2F8 0 = .illegalEncoding ⟨0x041, 8, 0xE2F8, 0⟩ ∧
   decode 0x0000000000002078 0 = .illegalEncoding ⟨0x044, 8, 0x2078, 0⟩ ∧
   decode 0x00000000000054F8 0 = .illegalEncoding ⟨0x044, 8, 0x54F8, 0⟩)
end

