-- ==== Sys2Proof/Laws/Bits.lean ====
section
/-! SUPPORT. Laws of lane masks, register pairs and bytes. -/

namespace Sys2Proof.Machine

theorem getLsbD_maskBelow (f : Nat → Bool) (n i : Nat) (hn : n ≤ 32) (hi : i < 32) :
    (maskBelow f n).getLsbD i = (f i && decide (i < n)) := by
  induction n with
  | zero => simp [maskBelow]
  | succ n ih =>
    have ih := ih (by omega)
    rw [maskBelow, BitVec.getLsbD_or, ih]
    have hb : (((if f n = true then (1 : Mask) <<< n else 0) : Mask)).getLsbD i = (f n && decide (i = n)) := by
      by_cases hf : f n = true
      · rw [if_pos hf]
        simp [hi, hf]
        by_cases h : i = n
        · simp [h]
        · have : ¬(i - n = 0 ∧ ¬ i < n) := by omega
          by_cases hl : i < n
          · simp [h, hl]
          · simp [h, hl]; omega
      · rw [if_neg hf]; simp [hf]
    rw [hb]
    by_cases h : i = n
    · subst h; simp
    · have : (i < n + 1) ↔ (i < n) := by omega
      simp [h, this]

/-- Bit `i` of a mask made from a function. -/
theorem getLsbD_maskOf (f : Nat → Bool) (i : Nat) (hi : i < 32) : (maskOf f).getLsbD i = f i := by
  rw [maskOf, getLsbD_maskBelow f 32 i (Nat.le_refl _) hi]; simp [hi]

theorem pairOf_halves (x : DWord) : pairOf (loWord x) (hiWord x) = x := by
  apply BitVec.eq_of_getLsbD_eq
  intro i hi
  simp only [pairOf, loWord, hiWord, BitVec.getLsbD_append, BitVec.getLsbD_setWidth, BitVec.getLsbD_extractLsb']
  by_cases h : i < 32
  · simp [h]
  · have h1 : i - 32 < 32 := by omega
    have h2 : 32 + (i - 32) = i := by omega
    simp [h, h1, h2]

@[simp] theorem loWord_pairOf (lo hi : Word) : loWord (pairOf lo hi) = lo := by
  apply BitVec.eq_of_getLsbD_eq
  intro i h
  have := BitVec.getLsbD_append (x := hi) (y := lo) (i := i)
  simp [loWord, pairOf, h, this]

@[simp] theorem hiWord_pairOf (lo hi : Word) : hiWord (pairOf lo hi) = hi := by
  apply BitVec.eq_of_getLsbD_eq
  intro i h
  have := BitVec.getLsbD_append (x := hi) (y := lo) (i := 32 + i)
  simp [hiWord, pairOf, h, this]

end Sys2Proof.Machine
end

