-- ==== Sys2Proof/Laws/State.lean ====
section
/-! SUPPORT. What each update of the state leaves as it was, field by field. -/

namespace Sys2Proof.Machine

/-! ### `State.setWarp` -/

@[simp] theorem State.setWarp_mem (s : State) (k : Nat) (w : Warp) : (s.setWarp k w).mem = s.mem := rfl
@[simp] theorem State.setWarp_ft (s : State) (k : Nat) (w : Warp) : (s.setWarp k w).ft = s.ft := rfl
@[simp] theorem State.setWarp_epochs (s : State) (k : Nat) (w : Warp) : (s.setWarp k w).epochs = s.epochs := rfl
@[simp] theorem State.setWarp_syncErr (s : State) (k : Nat) (w : Warp) : (s.setWarp k w).syncErr = s.syncErr := rfl
@[simp] theorem State.setWarp_ppm (s : State) (k : Nat) (w : Warp) : (s.setWarp k w).ppm = s.ppm := rfl
@[simp] theorem State.setWarp_offset (s : State) (k : Nat) (w : Warp) : (s.setWarp k w).offset = s.offset := rfl
@[simp] theorem State.setWarp_peer (s : State) (k : Nat) (w : Warp) : (s.setWarp k w).peer = s.peer := rfl
@[simp] theorem State.setWarp_clearing (s : State) (k : Nat) (w : Warp) : (s.setWarp k w).clearing = s.clearing := rfl
@[simp] theorem State.setWarp_prio (s : State) (k : Nat) (w : Warp) : (s.setWarp k w).prio = s.prio := rfl
@[simp] theorem State.setWarp_ringmaster (s : State) (k : Nat) (w : Warp) : (s.setWarp k w).ringmaster = s.ringmaster := rfl
@[simp] theorem State.setWarp_teams (s : State) (k : Nat) (w : Warp) : (s.setWarp k w).teams = s.teams := rfl
@[simp] theorem State.setWarp_cohorts (s : State) (k : Nat) (w : Warp) : (s.setWarp k w).cohorts = s.cohorts := rfl
@[simp] theorem State.setWarp_regions (s : State) (k : Nat) (w : Warp) : (s.setWarp k w).regions = s.regions := rfl
@[simp] theorem State.setWarp_cores (s : State) (k : Nat) (w : Warp) : (s.setWarp k w).cores = s.cores := rfl
@[simp] theorem State.setWarp_dies (s : State) (k : Nat) (w : Warp) : (s.setWarp k w).dies = s.dies := rfl
@[simp] theorem State.setWarp_ctxs (s : State) (k : Nat) (w : Warp) : (s.setWarp k w).ctxs = s.ctxs := rfl
@[simp] theorem State.setWarp_chains (s : State) (k : Nat) (w : Warp) : (s.setWarp k w).chains = s.chains := rfl
@[simp] theorem State.setWarp_launches (s : State) (k : Nat) (w : Warp) : (s.setWarp k w).launches = s.launches := rfl
@[simp] theorem State.setWarp_submitDropped (s : State) (k : Nat) (w : Warp) : (s.setWarp k w).submitDropped = s.submitDropped := rfl
@[simp] theorem State.setWarp_frames (s : State) (k : Nat) (w : Warp) : (s.setWarp k w).frames = s.frames := rfl
@[simp] theorem State.setWarp_faultQ (s : State) (k : Nat) (w : Warp) : (s.setWarp k w).faultQ = s.faultQ := rfl
@[simp] theorem State.setWarp_faultHeld (s : State) (k : Nat) (w : Warp) : (s.setWarp k w).faultHeld = s.faultHeld := rfl
@[simp] theorem State.setWarp_faultOpen (s : State) (k : Nat) (w : Warp) : (s.setWarp k w).faultOpen = s.faultOpen := rfl
@[simp] theorem State.setWarp_syscQ (s : State) (k : Nat) (w : Warp) : (s.setWarp k w).syscQ = s.syscQ := rfl
@[simp] theorem State.setWarp_traceQ (s : State) (k : Nat) (w : Warp) : (s.setWarp k w).traceQ = s.traceQ := rfl
@[simp] theorem State.setWarp_traceHeld (s : State) (k : Nat) (w : Warp) : (s.setWarp k w).traceHeld = s.traceHeld := rfl
@[simp] theorem State.setWarp_traceDropped (s : State) (k : Nat) (w : Warp) : (s.setWarp k w).traceDropped = s.traceDropped := rfl
@[simp] theorem State.setWarp_bill (s : State) (k : Nat) (w : Warp) : (s.setWarp k w).bill = s.bill := rfl
@[simp] theorem State.setWarp_late (s : State) (k : Nat) (w : Warp) : (s.setWarp k w).late = s.late := rfl
@[simp] theorem State.setWarp_lastEntry (s : State) (k : Nat) (w : Warp) : (s.setWarp k w).lastEntry = s.lastEntry := rfl
@[simp] theorem State.setWarp_run (s : State) (k : Nat) (w : Warp) : (s.setWarp k w).run = s.run := rfl
@[simp] theorem State.setWarp_slotEnd (s : State) (k : Nat) (w : Warp) : (s.setWarp k w).slotEnd = s.slotEnd := rfl
@[simp] theorem State.setWarp_preempt (s : State) (k : Nat) (w : Warp) : (s.setWarp k w).preempt = s.preempt := rfl
@[simp] theorem State.setWarp_preemptFrom (s : State) (k : Nat) (w : Warp) : (s.setWarp k w).preemptFrom = s.preemptFrom := rfl
@[simp] theorem State.setWarp_switch (s : State) (k : Nat) (w : Warp) : (s.setWarp k w).switch = s.switch := rfl
@[simp] theorem State.setWarp_heldCmds (s : State) (k : Nat) (w : Warp) : (s.setWarp k w).heldCmds = s.heldCmds := rfl
@[simp] theorem State.setWarp_revokes (s : State) (k : Nat) (w : Warp) : (s.setWarp k w).revokes = s.revokes := rfl
@[simp] theorem State.setWarp_win (s : State) (k : Nat) (w : Warp) : (s.setWarp k w).win = s.win := rfl
@[simp] theorem State.setWarp_watches (s : State) (k : Nat) (w : Warp) : (s.setWarp k w).watches = s.watches := rfl
@[simp] theorem State.setWarp_mapped (s : State) (k : Nat) (w : Warp) : (s.setWarp k w).mapped = s.mapped := rfl
@[simp] theorem State.setWarp_sdBusy (s : State) (k : Nat) (w : Warp) : (s.setWarp k w).sdBusy = s.sdBusy := rfl
@[simp] theorem State.setWarp_sdCtx (s : State) (k : Nat) (w : Warp) : (s.setWarp k w).sdCtx = s.sdCtx := rfl
@[simp] theorem State.setWarp_links (s : State) (k : Nat) (w : Warp) : (s.setWarp k w).links = s.links := rfl
@[simp] theorem State.setWarp_far (s : State) (k : Nat) (w : Warp) : (s.setWarp k w).far = s.far := rfl
@[simp] theorem State.setWarp_leases (s : State) (k : Nat) (w : Warp) : (s.setWarp k w).leases = s.leases := rfl
@[simp] theorem State.setWarp_streams (s : State) (k : Nat) (w : Warp) : (s.setWarp k w).streams = s.streams := rfl
@[simp] theorem State.setWarp_outSeq (s : State) (k : Nat) (w : Warp) : (s.setWarp k w).outSeq = s.outSeq := rfl
@[simp] theorem State.setWarp_out (s : State) (k : Nat) (w : Warp) : (s.setWarp k w).out = s.out := rfl
@[simp] theorem State.setWarp_taken (s : State) (k : Nat) (w : Warp) : (s.setWarp k w).taken = s.taken := rfl
@[simp] theorem State.setWarp_unsent (s : State) (k : Nat) (w : Warp) : (s.setWarp k w).unsent = s.unsent := rfl
@[simp] theorem State.setWarp_remotes (s : State) (k : Nat) (w : Warp) : (s.setWarp k w).remotes = s.remotes := rfl
@[simp] theorem State.setWarp_cutOff (s : State) (k : Nat) (w : Warp) : (s.setWarp k w).cutOff = s.cutOff := rfl
@[simp] theorem State.setWarp_reduce (s : State) (k : Nat) (w : Warp) : (s.setWarp k w).reduce = s.reduce := rfl
@[simp] theorem State.setWarp_lateRes (s : State) (k : Nat) (w : Warp) : (s.setWarp k w).lateRes = s.lateRes := rfl
@[simp] theorem State.setWarp_keptRegions (s : State) (k : Nat) (w : Warp) : (s.setWarp k w).keptRegions = s.keptRegions := rfl
@[simp] theorem State.setWarp_lateCopies (s : State) (k : Nat) (w : Warp) : (s.setWarp k w).lateCopies = s.lateCopies := rfl
@[simp] theorem State.setWarp_barHits (s : State) (k : Nat) (w : Warp) : (s.setWarp k w).barHits = s.barHits := rfl
@[simp] theorem State.setWarp_keptWarps (s : State) (k : Nat) (w : Warp) : (s.setWarp k w).keptWarps = s.keptWarps := rfl
@[simp] theorem State.setWarp_keptPorts (s : State) (k : Nat) (w : Warp) : (s.setWarp k w).keptPorts = s.keptPorts := rfl
@[simp] theorem State.setWarp_keptHolds (s : State) (k : Nat) (w : Warp) : (s.setWarp k w).keptHolds = s.keptHolds := rfl
@[simp] theorem State.setWarp_tlb (s : State) (k : Nat) (w : Warp) : (s.setWarp k w).tlb = s.tlb := rfl
@[simp] theorem State.setWarp_repairCore (s : State) (k : Nat) (w : Warp) : (s.setWarp k w).repairCore = s.repairCore := rfl
@[simp] theorem State.setWarp_repairBusy (s : State) (k : Nat) (w : Warp) : (s.setWarp k w).repairBusy = s.repairBusy := rfl
@[simp] theorem State.setWarp_repairFail (s : State) (k : Nat) (w : Warp) : (s.setWarp k w).repairFail = s.repairFail := rfl
@[simp] theorem State.setWarp_retired (s : State) (k : Nat) (w : Warp) : (s.setWarp k w).retired = s.retired := rfl
@[simp] theorem State.setWarp_step (s : State) (k : Nat) (w : Warp) : (s.setWarp k w).step = s.step := rfl
@[simp] theorem State.setWarp_ready (s : State) (k : Nat) (w : Warp) : (s.setWarp k w).ready = s.ready := rfl
@[simp] theorem State.setWarp_fail (s : State) (k : Nat) (w : Warp) : (s.setWarp k w).fail = s.fail := rfl
@[simp] theorem State.setWarp_fcode (s : State) (k : Nat) (w : Warp) : (s.setWarp k w).fcode = s.fcode := rfl
@[simp] theorem State.setWarp_spareCores (s : State) (k : Nat) (w : Warp) : (s.setWarp k w).spareCores = s.spareCores := rfl
@[simp] theorem State.setWarp_stallLimit (s : State) (k : Nat) (w : Warp) : (s.setWarp k w).stallLimit = s.stallLimit := rfl
@[simp] theorem State.setWarp_snapMaxAge (s : State) (k : Nat) (w : Warp) : (s.setWarp k w).snapMaxAge = s.snapMaxAge := rfl
@[simp] theorem State.setWarp_lastStamp (s : State) (k : Nat) (w : Warp) : (s.setWarp k w).lastStamp = s.lastStamp := rfl
@[simp] theorem State.setWarp_rf (s : State) (k : Nat) (w : Warp) : (s.setWarp k w).rf = s.rf := rfl
@[simp] theorem State.setWarp_pws (s : State) (k : Nat) (w : Warp) : (s.setWarp k w).pws = s.pws := rfl
@[simp] theorem State.setWarp_pwSentAt (s : State) (k : Nat) (w : Warp) : (s.setWarp k w).pwSentAt = s.pwSentAt := rfl
@[simp] theorem State.setWarp_poison (s : State) (k : Nat) (w : Warp) : (s.setWarp k w).poison = s.poison := rfl
@[simp] theorem State.setWarp_poisonHits (s : State) (k : Nat) (w : Warp) : (s.setWarp k w).poisonHits = s.poisonHits := rfl
@[simp] theorem State.setWarp_hot (s : State) (k : Nat) (w : Warp) : (s.setWarp k w).hot = s.hot := rfl
@[simp] theorem State.setWarp_nextId (s : State) (k : Nat) (w : Warp) : (s.setWarp k w).nextId = s.nextId := rfl
@[simp] theorem State.setWarp_agenda (s : State) (k : Nat) (w : Warp) : (s.setWarp k w).agenda = s.agenda := rfl
@[simp] theorem State.setWarp_cur (s : State) (k : Nat) (w : Warp) : (s.setWarp k w).cur = s.cur := rfl
@[simp] theorem State.setWarp_recheck (s : State) (k : Nat) (w : Warp) : (s.setWarp k w).recheck = s.recheck := rfl
@[simp] theorem State.setWarp_ticks (s : State) (k : Nat) (w : Warp) : (s.setWarp k w).ticks = s.ticks := rfl
@[simp] theorem State.setWarp_turn (s : State) (k : Nat) (w : Warp) : (s.setWarp k w).turn = s.turn := rfl

/-! ### `State.upd` -/

@[simp] theorem State.upd_mem (s : State) (f : Warp → Warp) : (s.upd f).mem = s.mem := rfl
@[simp] theorem State.upd_ft (s : State) (f : Warp → Warp) : (s.upd f).ft = s.ft := rfl
@[simp] theorem State.upd_epochs (s : State) (f : Warp → Warp) : (s.upd f).epochs = s.epochs := rfl
@[simp] theorem State.upd_syncErr (s : State) (f : Warp → Warp) : (s.upd f).syncErr = s.syncErr := rfl
@[simp] theorem State.upd_ppm (s : State) (f : Warp → Warp) : (s.upd f).ppm = s.ppm := rfl
@[simp] theorem State.upd_offset (s : State) (f : Warp → Warp) : (s.upd f).offset = s.offset := rfl
@[simp] theorem State.upd_peer (s : State) (f : Warp → Warp) : (s.upd f).peer = s.peer := rfl
@[simp] theorem State.upd_clearing (s : State) (f : Warp → Warp) : (s.upd f).clearing = s.clearing := rfl
@[simp] theorem State.upd_prio (s : State) (f : Warp → Warp) : (s.upd f).prio = s.prio := rfl
@[simp] theorem State.upd_ringmaster (s : State) (f : Warp → Warp) : (s.upd f).ringmaster = s.ringmaster := rfl
@[simp] theorem State.upd_teams (s : State) (f : Warp → Warp) : (s.upd f).teams = s.teams := rfl
@[simp] theorem State.upd_cohorts (s : State) (f : Warp → Warp) : (s.upd f).cohorts = s.cohorts := rfl
@[simp] theorem State.upd_regions (s : State) (f : Warp → Warp) : (s.upd f).regions = s.regions := rfl
@[simp] theorem State.upd_cores (s : State) (f : Warp → Warp) : (s.upd f).cores = s.cores := rfl
@[simp] theorem State.upd_dies (s : State) (f : Warp → Warp) : (s.upd f).dies = s.dies := rfl
@[simp] theorem State.upd_ctxs (s : State) (f : Warp → Warp) : (s.upd f).ctxs = s.ctxs := rfl
@[simp] theorem State.upd_chains (s : State) (f : Warp → Warp) : (s.upd f).chains = s.chains := rfl
@[simp] theorem State.upd_launches (s : State) (f : Warp → Warp) : (s.upd f).launches = s.launches := rfl
@[simp] theorem State.upd_submitDropped (s : State) (f : Warp → Warp) : (s.upd f).submitDropped = s.submitDropped := rfl
@[simp] theorem State.upd_frames (s : State) (f : Warp → Warp) : (s.upd f).frames = s.frames := rfl
@[simp] theorem State.upd_faultQ (s : State) (f : Warp → Warp) : (s.upd f).faultQ = s.faultQ := rfl
@[simp] theorem State.upd_faultHeld (s : State) (f : Warp → Warp) : (s.upd f).faultHeld = s.faultHeld := rfl
@[simp] theorem State.upd_faultOpen (s : State) (f : Warp → Warp) : (s.upd f).faultOpen = s.faultOpen := rfl
@[simp] theorem State.upd_syscQ (s : State) (f : Warp → Warp) : (s.upd f).syscQ = s.syscQ := rfl
@[simp] theorem State.upd_traceQ (s : State) (f : Warp → Warp) : (s.upd f).traceQ = s.traceQ := rfl
@[simp] theorem State.upd_traceHeld (s : State) (f : Warp → Warp) : (s.upd f).traceHeld = s.traceHeld := rfl
@[simp] theorem State.upd_traceDropped (s : State) (f : Warp → Warp) : (s.upd f).traceDropped = s.traceDropped := rfl
@[simp] theorem State.upd_bill (s : State) (f : Warp → Warp) : (s.upd f).bill = s.bill := rfl
@[simp] theorem State.upd_late (s : State) (f : Warp → Warp) : (s.upd f).late = s.late := rfl
@[simp] theorem State.upd_lastEntry (s : State) (f : Warp → Warp) : (s.upd f).lastEntry = s.lastEntry := rfl
@[simp] theorem State.upd_run (s : State) (f : Warp → Warp) : (s.upd f).run = s.run := rfl
@[simp] theorem State.upd_slotEnd (s : State) (f : Warp → Warp) : (s.upd f).slotEnd = s.slotEnd := rfl
@[simp] theorem State.upd_preempt (s : State) (f : Warp → Warp) : (s.upd f).preempt = s.preempt := rfl
@[simp] theorem State.upd_preemptFrom (s : State) (f : Warp → Warp) : (s.upd f).preemptFrom = s.preemptFrom := rfl
@[simp] theorem State.upd_switch (s : State) (f : Warp → Warp) : (s.upd f).switch = s.switch := rfl
@[simp] theorem State.upd_heldCmds (s : State) (f : Warp → Warp) : (s.upd f).heldCmds = s.heldCmds := rfl
@[simp] theorem State.upd_revokes (s : State) (f : Warp → Warp) : (s.upd f).revokes = s.revokes := rfl
@[simp] theorem State.upd_win (s : State) (f : Warp → Warp) : (s.upd f).win = s.win := rfl
@[simp] theorem State.upd_watches (s : State) (f : Warp → Warp) : (s.upd f).watches = s.watches := rfl
@[simp] theorem State.upd_mapped (s : State) (f : Warp → Warp) : (s.upd f).mapped = s.mapped := rfl
@[simp] theorem State.upd_sdBusy (s : State) (f : Warp → Warp) : (s.upd f).sdBusy = s.sdBusy := rfl
@[simp] theorem State.upd_sdCtx (s : State) (f : Warp → Warp) : (s.upd f).sdCtx = s.sdCtx := rfl
@[simp] theorem State.upd_links (s : State) (f : Warp → Warp) : (s.upd f).links = s.links := rfl
@[simp] theorem State.upd_far (s : State) (f : Warp → Warp) : (s.upd f).far = s.far := rfl
@[simp] theorem State.upd_leases (s : State) (f : Warp → Warp) : (s.upd f).leases = s.leases := rfl
@[simp] theorem State.upd_streams (s : State) (f : Warp → Warp) : (s.upd f).streams = s.streams := rfl
@[simp] theorem State.upd_outSeq (s : State) (f : Warp → Warp) : (s.upd f).outSeq = s.outSeq := rfl
@[simp] theorem State.upd_out (s : State) (f : Warp → Warp) : (s.upd f).out = s.out := rfl
@[simp] theorem State.upd_taken (s : State) (f : Warp → Warp) : (s.upd f).taken = s.taken := rfl
@[simp] theorem State.upd_unsent (s : State) (f : Warp → Warp) : (s.upd f).unsent = s.unsent := rfl
@[simp] theorem State.upd_remotes (s : State) (f : Warp → Warp) : (s.upd f).remotes = s.remotes := rfl
@[simp] theorem State.upd_cutOff (s : State) (f : Warp → Warp) : (s.upd f).cutOff = s.cutOff := rfl
@[simp] theorem State.upd_reduce (s : State) (f : Warp → Warp) : (s.upd f).reduce = s.reduce := rfl
@[simp] theorem State.upd_lateRes (s : State) (f : Warp → Warp) : (s.upd f).lateRes = s.lateRes := rfl
@[simp] theorem State.upd_keptRegions (s : State) (f : Warp → Warp) : (s.upd f).keptRegions = s.keptRegions := rfl
@[simp] theorem State.upd_lateCopies (s : State) (f : Warp → Warp) : (s.upd f).lateCopies = s.lateCopies := rfl
@[simp] theorem State.upd_barHits (s : State) (f : Warp → Warp) : (s.upd f).barHits = s.barHits := rfl
@[simp] theorem State.upd_keptWarps (s : State) (f : Warp → Warp) : (s.upd f).keptWarps = s.keptWarps := rfl
@[simp] theorem State.upd_keptPorts (s : State) (f : Warp → Warp) : (s.upd f).keptPorts = s.keptPorts := rfl
@[simp] theorem State.upd_keptHolds (s : State) (f : Warp → Warp) : (s.upd f).keptHolds = s.keptHolds := rfl
@[simp] theorem State.upd_tlb (s : State) (f : Warp → Warp) : (s.upd f).tlb = s.tlb := rfl
@[simp] theorem State.upd_repairCore (s : State) (f : Warp → Warp) : (s.upd f).repairCore = s.repairCore := rfl
@[simp] theorem State.upd_repairBusy (s : State) (f : Warp → Warp) : (s.upd f).repairBusy = s.repairBusy := rfl
@[simp] theorem State.upd_repairFail (s : State) (f : Warp → Warp) : (s.upd f).repairFail = s.repairFail := rfl
@[simp] theorem State.upd_retired (s : State) (f : Warp → Warp) : (s.upd f).retired = s.retired := rfl
@[simp] theorem State.upd_step (s : State) (f : Warp → Warp) : (s.upd f).step = s.step := rfl
@[simp] theorem State.upd_ready (s : State) (f : Warp → Warp) : (s.upd f).ready = s.ready := rfl
@[simp] theorem State.upd_fail (s : State) (f : Warp → Warp) : (s.upd f).fail = s.fail := rfl
@[simp] theorem State.upd_fcode (s : State) (f : Warp → Warp) : (s.upd f).fcode = s.fcode := rfl
@[simp] theorem State.upd_spareCores (s : State) (f : Warp → Warp) : (s.upd f).spareCores = s.spareCores := rfl
@[simp] theorem State.upd_stallLimit (s : State) (f : Warp → Warp) : (s.upd f).stallLimit = s.stallLimit := rfl
@[simp] theorem State.upd_snapMaxAge (s : State) (f : Warp → Warp) : (s.upd f).snapMaxAge = s.snapMaxAge := rfl
@[simp] theorem State.upd_lastStamp (s : State) (f : Warp → Warp) : (s.upd f).lastStamp = s.lastStamp := rfl
@[simp] theorem State.upd_rf (s : State) (f : Warp → Warp) : (s.upd f).rf = s.rf := rfl
@[simp] theorem State.upd_pws (s : State) (f : Warp → Warp) : (s.upd f).pws = s.pws := rfl
@[simp] theorem State.upd_pwSentAt (s : State) (f : Warp → Warp) : (s.upd f).pwSentAt = s.pwSentAt := rfl
@[simp] theorem State.upd_poison (s : State) (f : Warp → Warp) : (s.upd f).poison = s.poison := rfl
@[simp] theorem State.upd_poisonHits (s : State) (f : Warp → Warp) : (s.upd f).poisonHits = s.poisonHits := rfl
@[simp] theorem State.upd_hot (s : State) (f : Warp → Warp) : (s.upd f).hot = s.hot := rfl
@[simp] theorem State.upd_nextId (s : State) (f : Warp → Warp) : (s.upd f).nextId = s.nextId := rfl
@[simp] theorem State.upd_agenda (s : State) (f : Warp → Warp) : (s.upd f).agenda = s.agenda := rfl
@[simp] theorem State.upd_cur (s : State) (f : Warp → Warp) : (s.upd f).cur = s.cur := rfl
@[simp] theorem State.upd_recheck (s : State) (f : Warp → Warp) : (s.upd f).recheck = s.recheck := rfl
@[simp] theorem State.upd_ticks (s : State) (f : Warp → Warp) : (s.upd f).ticks = s.ticks := rfl
@[simp] theorem State.upd_turn (s : State) (f : Warp → Warp) : (s.upd f).turn = s.turn := rfl

/-! ### `State.setTeam` -/

@[simp] theorem State.setTeam_mem (s : State) (k : Nat) (x : Team) : (s.setTeam k x).mem = s.mem := rfl
@[simp] theorem State.setTeam_ft (s : State) (k : Nat) (x : Team) : (s.setTeam k x).ft = s.ft := rfl
@[simp] theorem State.setTeam_epochs (s : State) (k : Nat) (x : Team) : (s.setTeam k x).epochs = s.epochs := rfl
@[simp] theorem State.setTeam_syncErr (s : State) (k : Nat) (x : Team) : (s.setTeam k x).syncErr = s.syncErr := rfl
@[simp] theorem State.setTeam_ppm (s : State) (k : Nat) (x : Team) : (s.setTeam k x).ppm = s.ppm := rfl
@[simp] theorem State.setTeam_offset (s : State) (k : Nat) (x : Team) : (s.setTeam k x).offset = s.offset := rfl
@[simp] theorem State.setTeam_peer (s : State) (k : Nat) (x : Team) : (s.setTeam k x).peer = s.peer := rfl
@[simp] theorem State.setTeam_clearing (s : State) (k : Nat) (x : Team) : (s.setTeam k x).clearing = s.clearing := rfl
@[simp] theorem State.setTeam_prio (s : State) (k : Nat) (x : Team) : (s.setTeam k x).prio = s.prio := rfl
@[simp] theorem State.setTeam_ringmaster (s : State) (k : Nat) (x : Team) : (s.setTeam k x).ringmaster = s.ringmaster := rfl
@[simp] theorem State.setTeam_warps (s : State) (k : Nat) (x : Team) : (s.setTeam k x).warps = s.warps := rfl
@[simp] theorem State.setTeam_cohorts (s : State) (k : Nat) (x : Team) : (s.setTeam k x).cohorts = s.cohorts := rfl
@[simp] theorem State.setTeam_regions (s : State) (k : Nat) (x : Team) : (s.setTeam k x).regions = s.regions := rfl
@[simp] theorem State.setTeam_cores (s : State) (k : Nat) (x : Team) : (s.setTeam k x).cores = s.cores := rfl
@[simp] theorem State.setTeam_dies (s : State) (k : Nat) (x : Team) : (s.setTeam k x).dies = s.dies := rfl
@[simp] theorem State.setTeam_ctxs (s : State) (k : Nat) (x : Team) : (s.setTeam k x).ctxs = s.ctxs := rfl
@[simp] theorem State.setTeam_chains (s : State) (k : Nat) (x : Team) : (s.setTeam k x).chains = s.chains := rfl
@[simp] theorem State.setTeam_launches (s : State) (k : Nat) (x : Team) : (s.setTeam k x).launches = s.launches := rfl
@[simp] theorem State.setTeam_submitDropped (s : State) (k : Nat) (x : Team) : (s.setTeam k x).submitDropped = s.submitDropped := rfl
@[simp] theorem State.setTeam_frames (s : State) (k : Nat) (x : Team) : (s.setTeam k x).frames = s.frames := rfl
@[simp] theorem State.setTeam_faultQ (s : State) (k : Nat) (x : Team) : (s.setTeam k x).faultQ = s.faultQ := rfl
@[simp] theorem State.setTeam_faultHeld (s : State) (k : Nat) (x : Team) : (s.setTeam k x).faultHeld = s.faultHeld := rfl
@[simp] theorem State.setTeam_faultOpen (s : State) (k : Nat) (x : Team) : (s.setTeam k x).faultOpen = s.faultOpen := rfl
@[simp] theorem State.setTeam_syscQ (s : State) (k : Nat) (x : Team) : (s.setTeam k x).syscQ = s.syscQ := rfl
@[simp] theorem State.setTeam_traceQ (s : State) (k : Nat) (x : Team) : (s.setTeam k x).traceQ = s.traceQ := rfl
@[simp] theorem State.setTeam_traceHeld (s : State) (k : Nat) (x : Team) : (s.setTeam k x).traceHeld = s.traceHeld := rfl
@[simp] theorem State.setTeam_traceDropped (s : State) (k : Nat) (x : Team) : (s.setTeam k x).traceDropped = s.traceDropped := rfl
@[simp] theorem State.setTeam_bill (s : State) (k : Nat) (x : Team) : (s.setTeam k x).bill = s.bill := rfl
@[simp] theorem State.setTeam_late (s : State) (k : Nat) (x : Team) : (s.setTeam k x).late = s.late := rfl
@[simp] theorem State.setTeam_lastEntry (s : State) (k : Nat) (x : Team) : (s.setTeam k x).lastEntry = s.lastEntry := rfl
@[simp] theorem State.setTeam_run (s : State) (k : Nat) (x : Team) : (s.setTeam k x).run = s.run := rfl
@[simp] theorem State.setTeam_slotEnd (s : State) (k : Nat) (x : Team) : (s.setTeam k x).slotEnd = s.slotEnd := rfl
@[simp] theorem State.setTeam_preempt (s : State) (k : Nat) (x : Team) : (s.setTeam k x).preempt = s.preempt := rfl
@[simp] theorem State.setTeam_preemptFrom (s : State) (k : Nat) (x : Team) : (s.setTeam k x).preemptFrom = s.preemptFrom := rfl
@[simp] theorem State.setTeam_switch (s : State) (k : Nat) (x : Team) : (s.setTeam k x).switch = s.switch := rfl
@[simp] theorem State.setTeam_heldCmds (s : State) (k : Nat) (x : Team) : (s.setTeam k x).heldCmds = s.heldCmds := rfl
@[simp] theorem State.setTeam_revokes (s : State) (k : Nat) (x : Team) : (s.setTeam k x).revokes = s.revokes := rfl
@[simp] theorem State.setTeam_win (s : State) (k : Nat) (x : Team) : (s.setTeam k x).win = s.win := rfl
@[simp] theorem State.setTeam_watches (s : State) (k : Nat) (x : Team) : (s.setTeam k x).watches = s.watches := rfl
@[simp] theorem State.setTeam_mapped (s : State) (k : Nat) (x : Team) : (s.setTeam k x).mapped = s.mapped := rfl
@[simp] theorem State.setTeam_sdBusy (s : State) (k : Nat) (x : Team) : (s.setTeam k x).sdBusy = s.sdBusy := rfl
@[simp] theorem State.setTeam_sdCtx (s : State) (k : Nat) (x : Team) : (s.setTeam k x).sdCtx = s.sdCtx := rfl
@[simp] theorem State.setTeam_links (s : State) (k : Nat) (x : Team) : (s.setTeam k x).links = s.links := rfl
@[simp] theorem State.setTeam_far (s : State) (k : Nat) (x : Team) : (s.setTeam k x).far = s.far := rfl
@[simp] theorem State.setTeam_leases (s : State) (k : Nat) (x : Team) : (s.setTeam k x).leases = s.leases := rfl
@[simp] theorem State.setTeam_streams (s : State) (k : Nat) (x : Team) : (s.setTeam k x).streams = s.streams := rfl
@[simp] theorem State.setTeam_outSeq (s : State) (k : Nat) (x : Team) : (s.setTeam k x).outSeq = s.outSeq := rfl
@[simp] theorem State.setTeam_out (s : State) (k : Nat) (x : Team) : (s.setTeam k x).out = s.out := rfl
@[simp] theorem State.setTeam_taken (s : State) (k : Nat) (x : Team) : (s.setTeam k x).taken = s.taken := rfl
@[simp] theorem State.setTeam_unsent (s : State) (k : Nat) (x : Team) : (s.setTeam k x).unsent = s.unsent := rfl
@[simp] theorem State.setTeam_remotes (s : State) (k : Nat) (x : Team) : (s.setTeam k x).remotes = s.remotes := rfl
@[simp] theorem State.setTeam_cutOff (s : State) (k : Nat) (x : Team) : (s.setTeam k x).cutOff = s.cutOff := rfl
@[simp] theorem State.setTeam_reduce (s : State) (k : Nat) (x : Team) : (s.setTeam k x).reduce = s.reduce := rfl
@[simp] theorem State.setTeam_lateRes (s : State) (k : Nat) (x : Team) : (s.setTeam k x).lateRes = s.lateRes := rfl
@[simp] theorem State.setTeam_keptRegions (s : State) (k : Nat) (x : Team) : (s.setTeam k x).keptRegions = s.keptRegions := rfl
@[simp] theorem State.setTeam_lateCopies (s : State) (k : Nat) (x : Team) : (s.setTeam k x).lateCopies = s.lateCopies := rfl
@[simp] theorem State.setTeam_barHits (s : State) (k : Nat) (x : Team) : (s.setTeam k x).barHits = s.barHits := rfl
@[simp] theorem State.setTeam_keptWarps (s : State) (k : Nat) (x : Team) : (s.setTeam k x).keptWarps = s.keptWarps := rfl
@[simp] theorem State.setTeam_keptPorts (s : State) (k : Nat) (x : Team) : (s.setTeam k x).keptPorts = s.keptPorts := rfl
@[simp] theorem State.setTeam_keptHolds (s : State) (k : Nat) (x : Team) : (s.setTeam k x).keptHolds = s.keptHolds := rfl
@[simp] theorem State.setTeam_tlb (s : State) (k : Nat) (x : Team) : (s.setTeam k x).tlb = s.tlb := rfl
@[simp] theorem State.setTeam_repairCore (s : State) (k : Nat) (x : Team) : (s.setTeam k x).repairCore = s.repairCore := rfl
@[simp] theorem State.setTeam_repairBusy (s : State) (k : Nat) (x : Team) : (s.setTeam k x).repairBusy = s.repairBusy := rfl
@[simp] theorem State.setTeam_repairFail (s : State) (k : Nat) (x : Team) : (s.setTeam k x).repairFail = s.repairFail := rfl
@[simp] theorem State.setTeam_retired (s : State) (k : Nat) (x : Team) : (s.setTeam k x).retired = s.retired := rfl
@[simp] theorem State.setTeam_step (s : State) (k : Nat) (x : Team) : (s.setTeam k x).step = s.step := rfl
@[simp] theorem State.setTeam_ready (s : State) (k : Nat) (x : Team) : (s.setTeam k x).ready = s.ready := rfl
@[simp] theorem State.setTeam_fail (s : State) (k : Nat) (x : Team) : (s.setTeam k x).fail = s.fail := rfl
@[simp] theorem State.setTeam_fcode (s : State) (k : Nat) (x : Team) : (s.setTeam k x).fcode = s.fcode := rfl
@[simp] theorem State.setTeam_spareCores (s : State) (k : Nat) (x : Team) : (s.setTeam k x).spareCores = s.spareCores := rfl
@[simp] theorem State.setTeam_stallLimit (s : State) (k : Nat) (x : Team) : (s.setTeam k x).stallLimit = s.stallLimit := rfl
@[simp] theorem State.setTeam_snapMaxAge (s : State) (k : Nat) (x : Team) : (s.setTeam k x).snapMaxAge = s.snapMaxAge := rfl
@[simp] theorem State.setTeam_lastStamp (s : State) (k : Nat) (x : Team) : (s.setTeam k x).lastStamp = s.lastStamp := rfl
@[simp] theorem State.setTeam_rf (s : State) (k : Nat) (x : Team) : (s.setTeam k x).rf = s.rf := rfl
@[simp] theorem State.setTeam_pws (s : State) (k : Nat) (x : Team) : (s.setTeam k x).pws = s.pws := rfl
@[simp] theorem State.setTeam_pwSentAt (s : State) (k : Nat) (x : Team) : (s.setTeam k x).pwSentAt = s.pwSentAt := rfl
@[simp] theorem State.setTeam_poison (s : State) (k : Nat) (x : Team) : (s.setTeam k x).poison = s.poison := rfl
@[simp] theorem State.setTeam_poisonHits (s : State) (k : Nat) (x : Team) : (s.setTeam k x).poisonHits = s.poisonHits := rfl
@[simp] theorem State.setTeam_hot (s : State) (k : Nat) (x : Team) : (s.setTeam k x).hot = s.hot := rfl
@[simp] theorem State.setTeam_nextId (s : State) (k : Nat) (x : Team) : (s.setTeam k x).nextId = s.nextId := rfl
@[simp] theorem State.setTeam_agenda (s : State) (k : Nat) (x : Team) : (s.setTeam k x).agenda = s.agenda := rfl
@[simp] theorem State.setTeam_cur (s : State) (k : Nat) (x : Team) : (s.setTeam k x).cur = s.cur := rfl
@[simp] theorem State.setTeam_recheck (s : State) (k : Nat) (x : Team) : (s.setTeam k x).recheck = s.recheck := rfl
@[simp] theorem State.setTeam_ticks (s : State) (k : Nat) (x : Team) : (s.setTeam k x).ticks = s.ticks := rfl
@[simp] theorem State.setTeam_turn (s : State) (k : Nat) (x : Team) : (s.setTeam k x).turn = s.turn := rfl

/-! ### `State.setCore` -/

@[simp] theorem State.setCore_mem (s : State) (k : Nat) (x : Core) : (s.setCore k x).mem = s.mem := rfl
@[simp] theorem State.setCore_ft (s : State) (k : Nat) (x : Core) : (s.setCore k x).ft = s.ft := rfl
@[simp] theorem State.setCore_epochs (s : State) (k : Nat) (x : Core) : (s.setCore k x).epochs = s.epochs := rfl
@[simp] theorem State.setCore_syncErr (s : State) (k : Nat) (x : Core) : (s.setCore k x).syncErr = s.syncErr := rfl
@[simp] theorem State.setCore_ppm (s : State) (k : Nat) (x : Core) : (s.setCore k x).ppm = s.ppm := rfl
@[simp] theorem State.setCore_offset (s : State) (k : Nat) (x : Core) : (s.setCore k x).offset = s.offset := rfl
@[simp] theorem State.setCore_peer (s : State) (k : Nat) (x : Core) : (s.setCore k x).peer = s.peer := rfl
@[simp] theorem State.setCore_clearing (s : State) (k : Nat) (x : Core) : (s.setCore k x).clearing = s.clearing := rfl
@[simp] theorem State.setCore_prio (s : State) (k : Nat) (x : Core) : (s.setCore k x).prio = s.prio := rfl
@[simp] theorem State.setCore_ringmaster (s : State) (k : Nat) (x : Core) : (s.setCore k x).ringmaster = s.ringmaster := rfl
@[simp] theorem State.setCore_warps (s : State) (k : Nat) (x : Core) : (s.setCore k x).warps = s.warps := rfl
@[simp] theorem State.setCore_teams (s : State) (k : Nat) (x : Core) : (s.setCore k x).teams = s.teams := rfl
@[simp] theorem State.setCore_cohorts (s : State) (k : Nat) (x : Core) : (s.setCore k x).cohorts = s.cohorts := rfl
@[simp] theorem State.setCore_regions (s : State) (k : Nat) (x : Core) : (s.setCore k x).regions = s.regions := rfl
@[simp] theorem State.setCore_dies (s : State) (k : Nat) (x : Core) : (s.setCore k x).dies = s.dies := rfl
@[simp] theorem State.setCore_ctxs (s : State) (k : Nat) (x : Core) : (s.setCore k x).ctxs = s.ctxs := rfl
@[simp] theorem State.setCore_chains (s : State) (k : Nat) (x : Core) : (s.setCore k x).chains = s.chains := rfl
@[simp] theorem State.setCore_launches (s : State) (k : Nat) (x : Core) : (s.setCore k x).launches = s.launches := rfl
@[simp] theorem State.setCore_submitDropped (s : State) (k : Nat) (x : Core) : (s.setCore k x).submitDropped = s.submitDropped := rfl
@[simp] theorem State.setCore_frames (s : State) (k : Nat) (x : Core) : (s.setCore k x).frames = s.frames := rfl
@[simp] theorem State.setCore_faultQ (s : State) (k : Nat) (x : Core) : (s.setCore k x).faultQ = s.faultQ := rfl
@[simp] theorem State.setCore_faultHeld (s : State) (k : Nat) (x : Core) : (s.setCore k x).faultHeld = s.faultHeld := rfl
@[simp] theorem State.setCore_faultOpen (s : State) (k : Nat) (x : Core) : (s.setCore k x).faultOpen = s.faultOpen := rfl
@[simp] theorem State.setCore_syscQ (s : State) (k : Nat) (x : Core) : (s.setCore k x).syscQ = s.syscQ := rfl
@[simp] theorem State.setCore_traceQ (s : State) (k : Nat) (x : Core) : (s.setCore k x).traceQ = s.traceQ := rfl
@[simp] theorem State.setCore_traceHeld (s : State) (k : Nat) (x : Core) : (s.setCore k x).traceHeld = s.traceHeld := rfl
@[simp] theorem State.setCore_traceDropped (s : State) (k : Nat) (x : Core) : (s.setCore k x).traceDropped = s.traceDropped := rfl
@[simp] theorem State.setCore_bill (s : State) (k : Nat) (x : Core) : (s.setCore k x).bill = s.bill := rfl
@[simp] theorem State.setCore_late (s : State) (k : Nat) (x : Core) : (s.setCore k x).late = s.late := rfl
@[simp] theorem State.setCore_lastEntry (s : State) (k : Nat) (x : Core) : (s.setCore k x).lastEntry = s.lastEntry := rfl
@[simp] theorem State.setCore_run (s : State) (k : Nat) (x : Core) : (s.setCore k x).run = s.run := rfl
@[simp] theorem State.setCore_slotEnd (s : State) (k : Nat) (x : Core) : (s.setCore k x).slotEnd = s.slotEnd := rfl
@[simp] theorem State.setCore_preempt (s : State) (k : Nat) (x : Core) : (s.setCore k x).preempt = s.preempt := rfl
@[simp] theorem State.setCore_preemptFrom (s : State) (k : Nat) (x : Core) : (s.setCore k x).preemptFrom = s.preemptFrom := rfl
@[simp] theorem State.setCore_switch (s : State) (k : Nat) (x : Core) : (s.setCore k x).switch = s.switch := rfl
@[simp] theorem State.setCore_heldCmds (s : State) (k : Nat) (x : Core) : (s.setCore k x).heldCmds = s.heldCmds := rfl
@[simp] theorem State.setCore_revokes (s : State) (k : Nat) (x : Core) : (s.setCore k x).revokes = s.revokes := rfl
@[simp] theorem State.setCore_win (s : State) (k : Nat) (x : Core) : (s.setCore k x).win = s.win := rfl
@[simp] theorem State.setCore_watches (s : State) (k : Nat) (x : Core) : (s.setCore k x).watches = s.watches := rfl
@[simp] theorem State.setCore_mapped (s : State) (k : Nat) (x : Core) : (s.setCore k x).mapped = s.mapped := rfl
@[simp] theorem State.setCore_sdBusy (s : State) (k : Nat) (x : Core) : (s.setCore k x).sdBusy = s.sdBusy := rfl
@[simp] theorem State.setCore_sdCtx (s : State) (k : Nat) (x : Core) : (s.setCore k x).sdCtx = s.sdCtx := rfl
@[simp] theorem State.setCore_links (s : State) (k : Nat) (x : Core) : (s.setCore k x).links = s.links := rfl
@[simp] theorem State.setCore_far (s : State) (k : Nat) (x : Core) : (s.setCore k x).far = s.far := rfl
@[simp] theorem State.setCore_leases (s : State) (k : Nat) (x : Core) : (s.setCore k x).leases = s.leases := rfl
@[simp] theorem State.setCore_streams (s : State) (k : Nat) (x : Core) : (s.setCore k x).streams = s.streams := rfl
@[simp] theorem State.setCore_outSeq (s : State) (k : Nat) (x : Core) : (s.setCore k x).outSeq = s.outSeq := rfl
@[simp] theorem State.setCore_out (s : State) (k : Nat) (x : Core) : (s.setCore k x).out = s.out := rfl
@[simp] theorem State.setCore_taken (s : State) (k : Nat) (x : Core) : (s.setCore k x).taken = s.taken := rfl
@[simp] theorem State.setCore_unsent (s : State) (k : Nat) (x : Core) : (s.setCore k x).unsent = s.unsent := rfl
@[simp] theorem State.setCore_remotes (s : State) (k : Nat) (x : Core) : (s.setCore k x).remotes = s.remotes := rfl
@[simp] theorem State.setCore_cutOff (s : State) (k : Nat) (x : Core) : (s.setCore k x).cutOff = s.cutOff := rfl
@[simp] theorem State.setCore_reduce (s : State) (k : Nat) (x : Core) : (s.setCore k x).reduce = s.reduce := rfl
@[simp] theorem State.setCore_lateRes (s : State) (k : Nat) (x : Core) : (s.setCore k x).lateRes = s.lateRes := rfl
@[simp] theorem State.setCore_keptRegions (s : State) (k : Nat) (x : Core) : (s.setCore k x).keptRegions = s.keptRegions := rfl
@[simp] theorem State.setCore_lateCopies (s : State) (k : Nat) (x : Core) : (s.setCore k x).lateCopies = s.lateCopies := rfl
@[simp] theorem State.setCore_barHits (s : State) (k : Nat) (x : Core) : (s.setCore k x).barHits = s.barHits := rfl
@[simp] theorem State.setCore_keptWarps (s : State) (k : Nat) (x : Core) : (s.setCore k x).keptWarps = s.keptWarps := rfl
@[simp] theorem State.setCore_keptPorts (s : State) (k : Nat) (x : Core) : (s.setCore k x).keptPorts = s.keptPorts := rfl
@[simp] theorem State.setCore_keptHolds (s : State) (k : Nat) (x : Core) : (s.setCore k x).keptHolds = s.keptHolds := rfl
@[simp] theorem State.setCore_tlb (s : State) (k : Nat) (x : Core) : (s.setCore k x).tlb = s.tlb := rfl
@[simp] theorem State.setCore_repairCore (s : State) (k : Nat) (x : Core) : (s.setCore k x).repairCore = s.repairCore := rfl
@[simp] theorem State.setCore_repairBusy (s : State) (k : Nat) (x : Core) : (s.setCore k x).repairBusy = s.repairBusy := rfl
@[simp] theorem State.setCore_repairFail (s : State) (k : Nat) (x : Core) : (s.setCore k x).repairFail = s.repairFail := rfl
@[simp] theorem State.setCore_retired (s : State) (k : Nat) (x : Core) : (s.setCore k x).retired = s.retired := rfl
@[simp] theorem State.setCore_step (s : State) (k : Nat) (x : Core) : (s.setCore k x).step = s.step := rfl
@[simp] theorem State.setCore_ready (s : State) (k : Nat) (x : Core) : (s.setCore k x).ready = s.ready := rfl
@[simp] theorem State.setCore_fail (s : State) (k : Nat) (x : Core) : (s.setCore k x).fail = s.fail := rfl
@[simp] theorem State.setCore_fcode (s : State) (k : Nat) (x : Core) : (s.setCore k x).fcode = s.fcode := rfl
@[simp] theorem State.setCore_spareCores (s : State) (k : Nat) (x : Core) : (s.setCore k x).spareCores = s.spareCores := rfl
@[simp] theorem State.setCore_stallLimit (s : State) (k : Nat) (x : Core) : (s.setCore k x).stallLimit = s.stallLimit := rfl
@[simp] theorem State.setCore_snapMaxAge (s : State) (k : Nat) (x : Core) : (s.setCore k x).snapMaxAge = s.snapMaxAge := rfl
@[simp] theorem State.setCore_lastStamp (s : State) (k : Nat) (x : Core) : (s.setCore k x).lastStamp = s.lastStamp := rfl
@[simp] theorem State.setCore_rf (s : State) (k : Nat) (x : Core) : (s.setCore k x).rf = s.rf := rfl
@[simp] theorem State.setCore_pws (s : State) (k : Nat) (x : Core) : (s.setCore k x).pws = s.pws := rfl
@[simp] theorem State.setCore_pwSentAt (s : State) (k : Nat) (x : Core) : (s.setCore k x).pwSentAt = s.pwSentAt := rfl
@[simp] theorem State.setCore_poison (s : State) (k : Nat) (x : Core) : (s.setCore k x).poison = s.poison := rfl
@[simp] theorem State.setCore_poisonHits (s : State) (k : Nat) (x : Core) : (s.setCore k x).poisonHits = s.poisonHits := rfl
@[simp] theorem State.setCore_hot (s : State) (k : Nat) (x : Core) : (s.setCore k x).hot = s.hot := rfl
@[simp] theorem State.setCore_nextId (s : State) (k : Nat) (x : Core) : (s.setCore k x).nextId = s.nextId := rfl
@[simp] theorem State.setCore_agenda (s : State) (k : Nat) (x : Core) : (s.setCore k x).agenda = s.agenda := rfl
@[simp] theorem State.setCore_cur (s : State) (k : Nat) (x : Core) : (s.setCore k x).cur = s.cur := rfl
@[simp] theorem State.setCore_recheck (s : State) (k : Nat) (x : Core) : (s.setCore k x).recheck = s.recheck := rfl
@[simp] theorem State.setCore_ticks (s : State) (k : Nat) (x : Core) : (s.setCore k x).ticks = s.ticks := rfl
@[simp] theorem State.setCore_turn (s : State) (k : Nat) (x : Core) : (s.setCore k x).turn = s.turn := rfl

/-! ### `State.setCtx` -/

@[simp] theorem State.setCtx_mem (s : State) (c : CtxId) (x : Ctx) : (s.setCtx c x).mem = s.mem := rfl
@[simp] theorem State.setCtx_ft (s : State) (c : CtxId) (x : Ctx) : (s.setCtx c x).ft = s.ft := rfl
@[simp] theorem State.setCtx_epochs (s : State) (c : CtxId) (x : Ctx) : (s.setCtx c x).epochs = s.epochs := rfl
@[simp] theorem State.setCtx_syncErr (s : State) (c : CtxId) (x : Ctx) : (s.setCtx c x).syncErr = s.syncErr := rfl
@[simp] theorem State.setCtx_ppm (s : State) (c : CtxId) (x : Ctx) : (s.setCtx c x).ppm = s.ppm := rfl
@[simp] theorem State.setCtx_offset (s : State) (c : CtxId) (x : Ctx) : (s.setCtx c x).offset = s.offset := rfl
@[simp] theorem State.setCtx_peer (s : State) (c : CtxId) (x : Ctx) : (s.setCtx c x).peer = s.peer := rfl
@[simp] theorem State.setCtx_clearing (s : State) (c : CtxId) (x : Ctx) : (s.setCtx c x).clearing = s.clearing := rfl
@[simp] theorem State.setCtx_prio (s : State) (c : CtxId) (x : Ctx) : (s.setCtx c x).prio = s.prio := rfl
@[simp] theorem State.setCtx_ringmaster (s : State) (c : CtxId) (x : Ctx) : (s.setCtx c x).ringmaster = s.ringmaster := rfl
@[simp] theorem State.setCtx_warps (s : State) (c : CtxId) (x : Ctx) : (s.setCtx c x).warps = s.warps := rfl
@[simp] theorem State.setCtx_teams (s : State) (c : CtxId) (x : Ctx) : (s.setCtx c x).teams = s.teams := rfl
@[simp] theorem State.setCtx_cohorts (s : State) (c : CtxId) (x : Ctx) : (s.setCtx c x).cohorts = s.cohorts := rfl
@[simp] theorem State.setCtx_regions (s : State) (c : CtxId) (x : Ctx) : (s.setCtx c x).regions = s.regions := rfl
@[simp] theorem State.setCtx_cores (s : State) (c : CtxId) (x : Ctx) : (s.setCtx c x).cores = s.cores := rfl
@[simp] theorem State.setCtx_dies (s : State) (c : CtxId) (x : Ctx) : (s.setCtx c x).dies = s.dies := rfl
@[simp] theorem State.setCtx_chains (s : State) (c : CtxId) (x : Ctx) : (s.setCtx c x).chains = s.chains := rfl
@[simp] theorem State.setCtx_launches (s : State) (c : CtxId) (x : Ctx) : (s.setCtx c x).launches = s.launches := rfl
@[simp] theorem State.setCtx_submitDropped (s : State) (c : CtxId) (x : Ctx) : (s.setCtx c x).submitDropped = s.submitDropped := rfl
@[simp] theorem State.setCtx_frames (s : State) (c : CtxId) (x : Ctx) : (s.setCtx c x).frames = s.frames := rfl
@[simp] theorem State.setCtx_faultQ (s : State) (c : CtxId) (x : Ctx) : (s.setCtx c x).faultQ = s.faultQ := rfl
@[simp] theorem State.setCtx_faultHeld (s : State) (c : CtxId) (x : Ctx) : (s.setCtx c x).faultHeld = s.faultHeld := rfl
@[simp] theorem State.setCtx_faultOpen (s : State) (c : CtxId) (x : Ctx) : (s.setCtx c x).faultOpen = s.faultOpen := rfl
@[simp] theorem State.setCtx_syscQ (s : State) (c : CtxId) (x : Ctx) : (s.setCtx c x).syscQ = s.syscQ := rfl
@[simp] theorem State.setCtx_traceQ (s : State) (c : CtxId) (x : Ctx) : (s.setCtx c x).traceQ = s.traceQ := rfl
@[simp] theorem State.setCtx_traceHeld (s : State) (c : CtxId) (x : Ctx) : (s.setCtx c x).traceHeld = s.traceHeld := rfl
@[simp] theorem State.setCtx_traceDropped (s : State) (c : CtxId) (x : Ctx) : (s.setCtx c x).traceDropped = s.traceDropped := rfl
@[simp] theorem State.setCtx_bill (s : State) (c : CtxId) (x : Ctx) : (s.setCtx c x).bill = s.bill := rfl
@[simp] theorem State.setCtx_late (s : State) (c : CtxId) (x : Ctx) : (s.setCtx c x).late = s.late := rfl
@[simp] theorem State.setCtx_lastEntry (s : State) (c : CtxId) (x : Ctx) : (s.setCtx c x).lastEntry = s.lastEntry := rfl
@[simp] theorem State.setCtx_run (s : State) (c : CtxId) (x : Ctx) : (s.setCtx c x).run = s.run := rfl
@[simp] theorem State.setCtx_slotEnd (s : State) (c : CtxId) (x : Ctx) : (s.setCtx c x).slotEnd = s.slotEnd := rfl
@[simp] theorem State.setCtx_preempt (s : State) (c : CtxId) (x : Ctx) : (s.setCtx c x).preempt = s.preempt := rfl
@[simp] theorem State.setCtx_preemptFrom (s : State) (c : CtxId) (x : Ctx) : (s.setCtx c x).preemptFrom = s.preemptFrom := rfl
@[simp] theorem State.setCtx_switch (s : State) (c : CtxId) (x : Ctx) : (s.setCtx c x).switch = s.switch := rfl
@[simp] theorem State.setCtx_heldCmds (s : State) (c : CtxId) (x : Ctx) : (s.setCtx c x).heldCmds = s.heldCmds := rfl
@[simp] theorem State.setCtx_revokes (s : State) (c : CtxId) (x : Ctx) : (s.setCtx c x).revokes = s.revokes := rfl
@[simp] theorem State.setCtx_win (s : State) (c : CtxId) (x : Ctx) : (s.setCtx c x).win = s.win := rfl
@[simp] theorem State.setCtx_watches (s : State) (c : CtxId) (x : Ctx) : (s.setCtx c x).watches = s.watches := rfl
@[simp] theorem State.setCtx_mapped (s : State) (c : CtxId) (x : Ctx) : (s.setCtx c x).mapped = s.mapped := rfl
@[simp] theorem State.setCtx_sdBusy (s : State) (c : CtxId) (x : Ctx) : (s.setCtx c x).sdBusy = s.sdBusy := rfl
@[simp] theorem State.setCtx_sdCtx (s : State) (c : CtxId) (x : Ctx) : (s.setCtx c x).sdCtx = s.sdCtx := rfl
@[simp] theorem State.setCtx_links (s : State) (c : CtxId) (x : Ctx) : (s.setCtx c x).links = s.links := rfl
@[simp] theorem State.setCtx_far (s : State) (c : CtxId) (x : Ctx) : (s.setCtx c x).far = s.far := rfl
@[simp] theorem State.setCtx_leases (s : State) (c : CtxId) (x : Ctx) : (s.setCtx c x).leases = s.leases := rfl
@[simp] theorem State.setCtx_streams (s : State) (c : CtxId) (x : Ctx) : (s.setCtx c x).streams = s.streams := rfl
@[simp] theorem State.setCtx_outSeq (s : State) (c : CtxId) (x : Ctx) : (s.setCtx c x).outSeq = s.outSeq := rfl
@[simp] theorem State.setCtx_out (s : State) (c : CtxId) (x : Ctx) : (s.setCtx c x).out = s.out := rfl
@[simp] theorem State.setCtx_taken (s : State) (c : CtxId) (x : Ctx) : (s.setCtx c x).taken = s.taken := rfl
@[simp] theorem State.setCtx_unsent (s : State) (c : CtxId) (x : Ctx) : (s.setCtx c x).unsent = s.unsent := rfl
@[simp] theorem State.setCtx_remotes (s : State) (c : CtxId) (x : Ctx) : (s.setCtx c x).remotes = s.remotes := rfl
@[simp] theorem State.setCtx_cutOff (s : State) (c : CtxId) (x : Ctx) : (s.setCtx c x).cutOff = s.cutOff := rfl
@[simp] theorem State.setCtx_reduce (s : State) (c : CtxId) (x : Ctx) : (s.setCtx c x).reduce = s.reduce := rfl
@[simp] theorem State.setCtx_lateRes (s : State) (c : CtxId) (x : Ctx) : (s.setCtx c x).lateRes = s.lateRes := rfl
@[simp] theorem State.setCtx_keptRegions (s : State) (c : CtxId) (x : Ctx) : (s.setCtx c x).keptRegions = s.keptRegions := rfl
@[simp] theorem State.setCtx_lateCopies (s : State) (c : CtxId) (x : Ctx) : (s.setCtx c x).lateCopies = s.lateCopies := rfl
@[simp] theorem State.setCtx_barHits (s : State) (c : CtxId) (x : Ctx) : (s.setCtx c x).barHits = s.barHits := rfl
@[simp] theorem State.setCtx_keptWarps (s : State) (c : CtxId) (x : Ctx) : (s.setCtx c x).keptWarps = s.keptWarps := rfl
@[simp] theorem State.setCtx_keptPorts (s : State) (c : CtxId) (x : Ctx) : (s.setCtx c x).keptPorts = s.keptPorts := rfl
@[simp] theorem State.setCtx_keptHolds (s : State) (c : CtxId) (x : Ctx) : (s.setCtx c x).keptHolds = s.keptHolds := rfl
@[simp] theorem State.setCtx_tlb (s : State) (c : CtxId) (x : Ctx) : (s.setCtx c x).tlb = s.tlb := rfl
@[simp] theorem State.setCtx_repairCore (s : State) (c : CtxId) (x : Ctx) : (s.setCtx c x).repairCore = s.repairCore := rfl
@[simp] theorem State.setCtx_repairBusy (s : State) (c : CtxId) (x : Ctx) : (s.setCtx c x).repairBusy = s.repairBusy := rfl
@[simp] theorem State.setCtx_repairFail (s : State) (c : CtxId) (x : Ctx) : (s.setCtx c x).repairFail = s.repairFail := rfl
@[simp] theorem State.setCtx_retired (s : State) (c : CtxId) (x : Ctx) : (s.setCtx c x).retired = s.retired := rfl
@[simp] theorem State.setCtx_step (s : State) (c : CtxId) (x : Ctx) : (s.setCtx c x).step = s.step := rfl
@[simp] theorem State.setCtx_ready (s : State) (c : CtxId) (x : Ctx) : (s.setCtx c x).ready = s.ready := rfl
@[simp] theorem State.setCtx_fail (s : State) (c : CtxId) (x : Ctx) : (s.setCtx c x).fail = s.fail := rfl
@[simp] theorem State.setCtx_fcode (s : State) (c : CtxId) (x : Ctx) : (s.setCtx c x).fcode = s.fcode := rfl
@[simp] theorem State.setCtx_spareCores (s : State) (c : CtxId) (x : Ctx) : (s.setCtx c x).spareCores = s.spareCores := rfl
@[simp] theorem State.setCtx_stallLimit (s : State) (c : CtxId) (x : Ctx) : (s.setCtx c x).stallLimit = s.stallLimit := rfl
@[simp] theorem State.setCtx_snapMaxAge (s : State) (c : CtxId) (x : Ctx) : (s.setCtx c x).snapMaxAge = s.snapMaxAge := rfl
@[simp] theorem State.setCtx_lastStamp (s : State) (c : CtxId) (x : Ctx) : (s.setCtx c x).lastStamp = s.lastStamp := rfl
@[simp] theorem State.setCtx_rf (s : State) (c : CtxId) (x : Ctx) : (s.setCtx c x).rf = s.rf := rfl
@[simp] theorem State.setCtx_pws (s : State) (c : CtxId) (x : Ctx) : (s.setCtx c x).pws = s.pws := rfl
@[simp] theorem State.setCtx_pwSentAt (s : State) (c : CtxId) (x : Ctx) : (s.setCtx c x).pwSentAt = s.pwSentAt := rfl
@[simp] theorem State.setCtx_poison (s : State) (c : CtxId) (x : Ctx) : (s.setCtx c x).poison = s.poison := rfl
@[simp] theorem State.setCtx_poisonHits (s : State) (c : CtxId) (x : Ctx) : (s.setCtx c x).poisonHits = s.poisonHits := rfl
@[simp] theorem State.setCtx_hot (s : State) (c : CtxId) (x : Ctx) : (s.setCtx c x).hot = s.hot := rfl
@[simp] theorem State.setCtx_nextId (s : State) (c : CtxId) (x : Ctx) : (s.setCtx c x).nextId = s.nextId := rfl
@[simp] theorem State.setCtx_agenda (s : State) (c : CtxId) (x : Ctx) : (s.setCtx c x).agenda = s.agenda := rfl
@[simp] theorem State.setCtx_cur (s : State) (c : CtxId) (x : Ctx) : (s.setCtx c x).cur = s.cur := rfl
@[simp] theorem State.setCtx_recheck (s : State) (c : CtxId) (x : Ctx) : (s.setCtx c x).recheck = s.recheck := rfl
@[simp] theorem State.setCtx_ticks (s : State) (c : CtxId) (x : Ctx) : (s.setCtx c x).ticks = s.ticks := rfl
@[simp] theorem State.setCtx_turn (s : State) (c : CtxId) (x : Ctx) : (s.setCtx c x).turn = s.turn := rfl

/-! ### `State.setByte` -/

@[simp] theorem State.setByte_ft (s : State) (a : Nat) (b : Byte) : (s.setByte a b).ft = s.ft := rfl
@[simp] theorem State.setByte_epochs (s : State) (a : Nat) (b : Byte) : (s.setByte a b).epochs = s.epochs := rfl
@[simp] theorem State.setByte_syncErr (s : State) (a : Nat) (b : Byte) : (s.setByte a b).syncErr = s.syncErr := rfl
@[simp] theorem State.setByte_ppm (s : State) (a : Nat) (b : Byte) : (s.setByte a b).ppm = s.ppm := rfl
@[simp] theorem State.setByte_offset (s : State) (a : Nat) (b : Byte) : (s.setByte a b).offset = s.offset := rfl
@[simp] theorem State.setByte_peer (s : State) (a : Nat) (b : Byte) : (s.setByte a b).peer = s.peer := rfl
@[simp] theorem State.setByte_clearing (s : State) (a : Nat) (b : Byte) : (s.setByte a b).clearing = s.clearing := rfl
@[simp] theorem State.setByte_prio (s : State) (a : Nat) (b : Byte) : (s.setByte a b).prio = s.prio := rfl
@[simp] theorem State.setByte_ringmaster (s : State) (a : Nat) (b : Byte) : (s.setByte a b).ringmaster = s.ringmaster := rfl
@[simp] theorem State.setByte_warps (s : State) (a : Nat) (b : Byte) : (s.setByte a b).warps = s.warps := rfl
@[simp] theorem State.setByte_teams (s : State) (a : Nat) (b : Byte) : (s.setByte a b).teams = s.teams := rfl
@[simp] theorem State.setByte_cohorts (s : State) (a : Nat) (b : Byte) : (s.setByte a b).cohorts = s.cohorts := rfl
@[simp] theorem State.setByte_regions (s : State) (a : Nat) (b : Byte) : (s.setByte a b).regions = s.regions := rfl
@[simp] theorem State.setByte_cores (s : State) (a : Nat) (b : Byte) : (s.setByte a b).cores = s.cores := rfl
@[simp] theorem State.setByte_dies (s : State) (a : Nat) (b : Byte) : (s.setByte a b).dies = s.dies := rfl
@[simp] theorem State.setByte_ctxs (s : State) (a : Nat) (b : Byte) : (s.setByte a b).ctxs = s.ctxs := rfl
@[simp] theorem State.setByte_chains (s : State) (a : Nat) (b : Byte) : (s.setByte a b).chains = s.chains := rfl
@[simp] theorem State.setByte_launches (s : State) (a : Nat) (b : Byte) : (s.setByte a b).launches = s.launches := rfl
@[simp] theorem State.setByte_submitDropped (s : State) (a : Nat) (b : Byte) : (s.setByte a b).submitDropped = s.submitDropped := rfl
@[simp] theorem State.setByte_frames (s : State) (a : Nat) (b : Byte) : (s.setByte a b).frames = s.frames := rfl
@[simp] theorem State.setByte_faultQ (s : State) (a : Nat) (b : Byte) : (s.setByte a b).faultQ = s.faultQ := rfl
@[simp] theorem State.setByte_faultHeld (s : State) (a : Nat) (b : Byte) : (s.setByte a b).faultHeld = s.faultHeld := rfl
@[simp] theorem State.setByte_faultOpen (s : State) (a : Nat) (b : Byte) : (s.setByte a b).faultOpen = s.faultOpen := rfl
@[simp] theorem State.setByte_syscQ (s : State) (a : Nat) (b : Byte) : (s.setByte a b).syscQ = s.syscQ := rfl
@[simp] theorem State.setByte_traceQ (s : State) (a : Nat) (b : Byte) : (s.setByte a b).traceQ = s.traceQ := rfl
@[simp] theorem State.setByte_traceHeld (s : State) (a : Nat) (b : Byte) : (s.setByte a b).traceHeld = s.traceHeld := rfl
@[simp] theorem State.setByte_traceDropped (s : State) (a : Nat) (b : Byte) : (s.setByte a b).traceDropped = s.traceDropped := rfl
@[simp] theorem State.setByte_bill (s : State) (a : Nat) (b : Byte) : (s.setByte a b).bill = s.bill := rfl
@[simp] theorem State.setByte_late (s : State) (a : Nat) (b : Byte) : (s.setByte a b).late = s.late := rfl
@[simp] theorem State.setByte_lastEntry (s : State) (a : Nat) (b : Byte) : (s.setByte a b).lastEntry = s.lastEntry := rfl
@[simp] theorem State.setByte_run (s : State) (a : Nat) (b : Byte) : (s.setByte a b).run = s.run := rfl
@[simp] theorem State.setByte_slotEnd (s : State) (a : Nat) (b : Byte) : (s.setByte a b).slotEnd = s.slotEnd := rfl
@[simp] theorem State.setByte_preempt (s : State) (a : Nat) (b : Byte) : (s.setByte a b).preempt = s.preempt := rfl
@[simp] theorem State.setByte_preemptFrom (s : State) (a : Nat) (b : Byte) : (s.setByte a b).preemptFrom = s.preemptFrom := rfl
@[simp] theorem State.setByte_switch (s : State) (a : Nat) (b : Byte) : (s.setByte a b).switch = s.switch := rfl
@[simp] theorem State.setByte_heldCmds (s : State) (a : Nat) (b : Byte) : (s.setByte a b).heldCmds = s.heldCmds := rfl
@[simp] theorem State.setByte_revokes (s : State) (a : Nat) (b : Byte) : (s.setByte a b).revokes = s.revokes := rfl
@[simp] theorem State.setByte_win (s : State) (a : Nat) (b : Byte) : (s.setByte a b).win = s.win := rfl
@[simp] theorem State.setByte_watches (s : State) (a : Nat) (b : Byte) : (s.setByte a b).watches = s.watches := rfl
@[simp] theorem State.setByte_mapped (s : State) (a : Nat) (b : Byte) : (s.setByte a b).mapped = s.mapped := rfl
@[simp] theorem State.setByte_sdBusy (s : State) (a : Nat) (b : Byte) : (s.setByte a b).sdBusy = s.sdBusy := rfl
@[simp] theorem State.setByte_sdCtx (s : State) (a : Nat) (b : Byte) : (s.setByte a b).sdCtx = s.sdCtx := rfl
@[simp] theorem State.setByte_links (s : State) (a : Nat) (b : Byte) : (s.setByte a b).links = s.links := rfl
@[simp] theorem State.setByte_far (s : State) (a : Nat) (b : Byte) : (s.setByte a b).far = s.far := rfl
@[simp] theorem State.setByte_leases (s : State) (a : Nat) (b : Byte) : (s.setByte a b).leases = s.leases := rfl
@[simp] theorem State.setByte_streams (s : State) (a : Nat) (b : Byte) : (s.setByte a b).streams = s.streams := rfl
@[simp] theorem State.setByte_outSeq (s : State) (a : Nat) (b : Byte) : (s.setByte a b).outSeq = s.outSeq := rfl
@[simp] theorem State.setByte_out (s : State) (a : Nat) (b : Byte) : (s.setByte a b).out = s.out := rfl
@[simp] theorem State.setByte_taken (s : State) (a : Nat) (b : Byte) : (s.setByte a b).taken = s.taken := rfl
@[simp] theorem State.setByte_unsent (s : State) (a : Nat) (b : Byte) : (s.setByte a b).unsent = s.unsent := rfl
@[simp] theorem State.setByte_remotes (s : State) (a : Nat) (b : Byte) : (s.setByte a b).remotes = s.remotes := rfl
@[simp] theorem State.setByte_cutOff (s : State) (a : Nat) (b : Byte) : (s.setByte a b).cutOff = s.cutOff := rfl
@[simp] theorem State.setByte_reduce (s : State) (a : Nat) (b : Byte) : (s.setByte a b).reduce = s.reduce := rfl
@[simp] theorem State.setByte_lateRes (s : State) (a : Nat) (b : Byte) : (s.setByte a b).lateRes = s.lateRes := rfl
@[simp] theorem State.setByte_keptRegions (s : State) (a : Nat) (b : Byte) : (s.setByte a b).keptRegions = s.keptRegions := rfl
@[simp] theorem State.setByte_lateCopies (s : State) (a : Nat) (b : Byte) : (s.setByte a b).lateCopies = s.lateCopies := rfl
@[simp] theorem State.setByte_barHits (s : State) (a : Nat) (b : Byte) : (s.setByte a b).barHits = s.barHits := rfl
@[simp] theorem State.setByte_keptWarps (s : State) (a : Nat) (b : Byte) : (s.setByte a b).keptWarps = s.keptWarps := rfl
@[simp] theorem State.setByte_keptPorts (s : State) (a : Nat) (b : Byte) : (s.setByte a b).keptPorts = s.keptPorts := rfl
@[simp] theorem State.setByte_keptHolds (s : State) (a : Nat) (b : Byte) : (s.setByte a b).keptHolds = s.keptHolds := rfl
@[simp] theorem State.setByte_tlb (s : State) (a : Nat) (b : Byte) : (s.setByte a b).tlb = s.tlb := rfl
@[simp] theorem State.setByte_repairCore (s : State) (a : Nat) (b : Byte) : (s.setByte a b).repairCore = s.repairCore := rfl
@[simp] theorem State.setByte_repairBusy (s : State) (a : Nat) (b : Byte) : (s.setByte a b).repairBusy = s.repairBusy := rfl
@[simp] theorem State.setByte_repairFail (s : State) (a : Nat) (b : Byte) : (s.setByte a b).repairFail = s.repairFail := rfl
@[simp] theorem State.setByte_retired (s : State) (a : Nat) (b : Byte) : (s.setByte a b).retired = s.retired := rfl
@[simp] theorem State.setByte_step (s : State) (a : Nat) (b : Byte) : (s.setByte a b).step = s.step := rfl
@[simp] theorem State.setByte_ready (s : State) (a : Nat) (b : Byte) : (s.setByte a b).ready = s.ready := rfl
@[simp] theorem State.setByte_fail (s : State) (a : Nat) (b : Byte) : (s.setByte a b).fail = s.fail := rfl
@[simp] theorem State.setByte_fcode (s : State) (a : Nat) (b : Byte) : (s.setByte a b).fcode = s.fcode := rfl
@[simp] theorem State.setByte_spareCores (s : State) (a : Nat) (b : Byte) : (s.setByte a b).spareCores = s.spareCores := rfl
@[simp] theorem State.setByte_stallLimit (s : State) (a : Nat) (b : Byte) : (s.setByte a b).stallLimit = s.stallLimit := rfl
@[simp] theorem State.setByte_snapMaxAge (s : State) (a : Nat) (b : Byte) : (s.setByte a b).snapMaxAge = s.snapMaxAge := rfl
@[simp] theorem State.setByte_lastStamp (s : State) (a : Nat) (b : Byte) : (s.setByte a b).lastStamp = s.lastStamp := rfl
@[simp] theorem State.setByte_rf (s : State) (a : Nat) (b : Byte) : (s.setByte a b).rf = s.rf := rfl
@[simp] theorem State.setByte_pws (s : State) (a : Nat) (b : Byte) : (s.setByte a b).pws = s.pws := rfl
@[simp] theorem State.setByte_pwSentAt (s : State) (a : Nat) (b : Byte) : (s.setByte a b).pwSentAt = s.pwSentAt := rfl
@[simp] theorem State.setByte_poison (s : State) (a : Nat) (b : Byte) : (s.setByte a b).poison = s.poison := rfl
@[simp] theorem State.setByte_poisonHits (s : State) (a : Nat) (b : Byte) : (s.setByte a b).poisonHits = s.poisonHits := rfl
@[simp] theorem State.setByte_hot (s : State) (a : Nat) (b : Byte) : (s.setByte a b).hot = s.hot := rfl
@[simp] theorem State.setByte_nextId (s : State) (a : Nat) (b : Byte) : (s.setByte a b).nextId = s.nextId := rfl
@[simp] theorem State.setByte_agenda (s : State) (a : Nat) (b : Byte) : (s.setByte a b).agenda = s.agenda := rfl
@[simp] theorem State.setByte_cur (s : State) (a : Nat) (b : Byte) : (s.setByte a b).cur = s.cur := rfl
@[simp] theorem State.setByte_recheck (s : State) (a : Nat) (b : Byte) : (s.setByte a b).recheck = s.recheck := rfl
@[simp] theorem State.setByte_ticks (s : State) (a : Nat) (b : Byte) : (s.setByte a b).ticks = s.ticks := rfl
@[simp] theorem State.setByte_turn (s : State) (a : Nat) (b : Byte) : (s.setByte a b).turn = s.turn := rfl

/-! ### `State.setBytes` -/

@[simp] theorem State.setBytes_ft (s : State) (a : Nat) (l : List Byte) : (s.setBytes a l).ft = s.ft := rfl
@[simp] theorem State.setBytes_epochs (s : State) (a : Nat) (l : List Byte) : (s.setBytes a l).epochs = s.epochs := rfl
@[simp] theorem State.setBytes_syncErr (s : State) (a : Nat) (l : List Byte) : (s.setBytes a l).syncErr = s.syncErr := rfl
@[simp] theorem State.setBytes_ppm (s : State) (a : Nat) (l : List Byte) : (s.setBytes a l).ppm = s.ppm := rfl
@[simp] theorem State.setBytes_offset (s : State) (a : Nat) (l : List Byte) : (s.setBytes a l).offset = s.offset := rfl
@[simp] theorem State.setBytes_peer (s : State) (a : Nat) (l : List Byte) : (s.setBytes a l).peer = s.peer := rfl
@[simp] theorem State.setBytes_clearing (s : State) (a : Nat) (l : List Byte) : (s.setBytes a l).clearing = s.clearing := rfl
@[simp] theorem State.setBytes_prio (s : State) (a : Nat) (l : List Byte) : (s.setBytes a l).prio = s.prio := rfl
@[simp] theorem State.setBytes_ringmaster (s : State) (a : Nat) (l : List Byte) : (s.setBytes a l).ringmaster = s.ringmaster := rfl
@[simp] theorem State.setBytes_warps (s : State) (a : Nat) (l : List Byte) : (s.setBytes a l).warps = s.warps := rfl
@[simp] theorem State.setBytes_teams (s : State) (a : Nat) (l : List Byte) : (s.setBytes a l).teams = s.teams := rfl
@[simp] theorem State.setBytes_cohorts (s : State) (a : Nat) (l : List Byte) : (s.setBytes a l).cohorts = s.cohorts := rfl
@[simp] theorem State.setBytes_regions (s : State) (a : Nat) (l : List Byte) : (s.setBytes a l).regions = s.regions := rfl
@[simp] theorem State.setBytes_cores (s : State) (a : Nat) (l : List Byte) : (s.setBytes a l).cores = s.cores := rfl
@[simp] theorem State.setBytes_dies (s : State) (a : Nat) (l : List Byte) : (s.setBytes a l).dies = s.dies := rfl
@[simp] theorem State.setBytes_ctxs (s : State) (a : Nat) (l : List Byte) : (s.setBytes a l).ctxs = s.ctxs := rfl
@[simp] theorem State.setBytes_chains (s : State) (a : Nat) (l : List Byte) : (s.setBytes a l).chains = s.chains := rfl
@[simp] theorem State.setBytes_launches (s : State) (a : Nat) (l : List Byte) : (s.setBytes a l).launches = s.launches := rfl
@[simp] theorem State.setBytes_submitDropped (s : State) (a : Nat) (l : List Byte) : (s.setBytes a l).submitDropped = s.submitDropped := rfl
@[simp] theorem State.setBytes_frames (s : State) (a : Nat) (l : List Byte) : (s.setBytes a l).frames = s.frames := rfl
@[simp] theorem State.setBytes_faultQ (s : State) (a : Nat) (l : List Byte) : (s.setBytes a l).faultQ = s.faultQ := rfl
@[simp] theorem State.setBytes_faultHeld (s : State) (a : Nat) (l : List Byte) : (s.setBytes a l).faultHeld = s.faultHeld := rfl
@[simp] theorem State.setBytes_faultOpen (s : State) (a : Nat) (l : List Byte) : (s.setBytes a l).faultOpen = s.faultOpen := rfl
@[simp] theorem State.setBytes_syscQ (s : State) (a : Nat) (l : List Byte) : (s.setBytes a l).syscQ = s.syscQ := rfl
@[simp] theorem State.setBytes_traceQ (s : State) (a : Nat) (l : List Byte) : (s.setBytes a l).traceQ = s.traceQ := rfl
@[simp] theorem State.setBytes_traceHeld (s : State) (a : Nat) (l : List Byte) : (s.setBytes a l).traceHeld = s.traceHeld := rfl
@[simp] theorem State.setBytes_traceDropped (s : State) (a : Nat) (l : List Byte) : (s.setBytes a l).traceDropped = s.traceDropped := rfl
@[simp] theorem State.setBytes_bill (s : State) (a : Nat) (l : List Byte) : (s.setBytes a l).bill = s.bill := rfl
@[simp] theorem State.setBytes_late (s : State) (a : Nat) (l : List Byte) : (s.setBytes a l).late = s.late := rfl
@[simp] theorem State.setBytes_lastEntry (s : State) (a : Nat) (l : List Byte) : (s.setBytes a l).lastEntry = s.lastEntry := rfl
@[simp] theorem State.setBytes_run (s : State) (a : Nat) (l : List Byte) : (s.setBytes a l).run = s.run := rfl
@[simp] theorem State.setBytes_slotEnd (s : State) (a : Nat) (l : List Byte) : (s.setBytes a l).slotEnd = s.slotEnd := rfl
@[simp] theorem State.setBytes_preempt (s : State) (a : Nat) (l : List Byte) : (s.setBytes a l).preempt = s.preempt := rfl
@[simp] theorem State.setBytes_preemptFrom (s : State) (a : Nat) (l : List Byte) : (s.setBytes a l).preemptFrom = s.preemptFrom := rfl
@[simp] theorem State.setBytes_switch (s : State) (a : Nat) (l : List Byte) : (s.setBytes a l).switch = s.switch := rfl
@[simp] theorem State.setBytes_heldCmds (s : State) (a : Nat) (l : List Byte) : (s.setBytes a l).heldCmds = s.heldCmds := rfl
@[simp] theorem State.setBytes_revokes (s : State) (a : Nat) (l : List Byte) : (s.setBytes a l).revokes = s.revokes := rfl
@[simp] theorem State.setBytes_win (s : State) (a : Nat) (l : List Byte) : (s.setBytes a l).win = s.win := rfl
@[simp] theorem State.setBytes_watches (s : State) (a : Nat) (l : List Byte) : (s.setBytes a l).watches = s.watches := rfl
@[simp] theorem State.setBytes_mapped (s : State) (a : Nat) (l : List Byte) : (s.setBytes a l).mapped = s.mapped := rfl
@[simp] theorem State.setBytes_sdBusy (s : State) (a : Nat) (l : List Byte) : (s.setBytes a l).sdBusy = s.sdBusy := rfl
@[simp] theorem State.setBytes_sdCtx (s : State) (a : Nat) (l : List Byte) : (s.setBytes a l).sdCtx = s.sdCtx := rfl
@[simp] theorem State.setBytes_links (s : State) (a : Nat) (l : List Byte) : (s.setBytes a l).links = s.links := rfl
@[simp] theorem State.setBytes_far (s : State) (a : Nat) (l : List Byte) : (s.setBytes a l).far = s.far := rfl
@[simp] theorem State.setBytes_leases (s : State) (a : Nat) (l : List Byte) : (s.setBytes a l).leases = s.leases := rfl
@[simp] theorem State.setBytes_streams (s : State) (a : Nat) (l : List Byte) : (s.setBytes a l).streams = s.streams := rfl
@[simp] theorem State.setBytes_outSeq (s : State) (a : Nat) (l : List Byte) : (s.setBytes a l).outSeq = s.outSeq := rfl
@[simp] theorem State.setBytes_out (s : State) (a : Nat) (l : List Byte) : (s.setBytes a l).out = s.out := rfl
@[simp] theorem State.setBytes_taken (s : State) (a : Nat) (l : List Byte) : (s.setBytes a l).taken = s.taken := rfl
@[simp] theorem State.setBytes_unsent (s : State) (a : Nat) (l : List Byte) : (s.setBytes a l).unsent = s.unsent := rfl
@[simp] theorem State.setBytes_remotes (s : State) (a : Nat) (l : List Byte) : (s.setBytes a l).remotes = s.remotes := rfl
@[simp] theorem State.setBytes_cutOff (s : State) (a : Nat) (l : List Byte) : (s.setBytes a l).cutOff = s.cutOff := rfl
@[simp] theorem State.setBytes_reduce (s : State) (a : Nat) (l : List Byte) : (s.setBytes a l).reduce = s.reduce := rfl
@[simp] theorem State.setBytes_lateRes (s : State) (a : Nat) (l : List Byte) : (s.setBytes a l).lateRes = s.lateRes := rfl
@[simp] theorem State.setBytes_keptRegions (s : State) (a : Nat) (l : List Byte) : (s.setBytes a l).keptRegions = s.keptRegions := rfl
@[simp] theorem State.setBytes_lateCopies (s : State) (a : Nat) (l : List Byte) : (s.setBytes a l).lateCopies = s.lateCopies := rfl
@[simp] theorem State.setBytes_barHits (s : State) (a : Nat) (l : List Byte) : (s.setBytes a l).barHits = s.barHits := rfl
@[simp] theorem State.setBytes_keptWarps (s : State) (a : Nat) (l : List Byte) : (s.setBytes a l).keptWarps = s.keptWarps := rfl
@[simp] theorem State.setBytes_keptPorts (s : State) (a : Nat) (l : List Byte) : (s.setBytes a l).keptPorts = s.keptPorts := rfl
@[simp] theorem State.setBytes_keptHolds (s : State) (a : Nat) (l : List Byte) : (s.setBytes a l).keptHolds = s.keptHolds := rfl
@[simp] theorem State.setBytes_tlb (s : State) (a : Nat) (l : List Byte) : (s.setBytes a l).tlb = s.tlb := rfl
@[simp] theorem State.setBytes_repairCore (s : State) (a : Nat) (l : List Byte) : (s.setBytes a l).repairCore = s.repairCore := rfl
@[simp] theorem State.setBytes_repairBusy (s : State) (a : Nat) (l : List Byte) : (s.setBytes a l).repairBusy = s.repairBusy := rfl
@[simp] theorem State.setBytes_repairFail (s : State) (a : Nat) (l : List Byte) : (s.setBytes a l).repairFail = s.repairFail := rfl
@[simp] theorem State.setBytes_retired (s : State) (a : Nat) (l : List Byte) : (s.setBytes a l).retired = s.retired := rfl
@[simp] theorem State.setBytes_step (s : State) (a : Nat) (l : List Byte) : (s.setBytes a l).step = s.step := rfl
@[simp] theorem State.setBytes_ready (s : State) (a : Nat) (l : List Byte) : (s.setBytes a l).ready = s.ready := rfl
@[simp] theorem State.setBytes_fail (s : State) (a : Nat) (l : List Byte) : (s.setBytes a l).fail = s.fail := rfl
@[simp] theorem State.setBytes_fcode (s : State) (a : Nat) (l : List Byte) : (s.setBytes a l).fcode = s.fcode := rfl
@[simp] theorem State.setBytes_spareCores (s : State) (a : Nat) (l : List Byte) : (s.setBytes a l).spareCores = s.spareCores := rfl
@[simp] theorem State.setBytes_stallLimit (s : State) (a : Nat) (l : List Byte) : (s.setBytes a l).stallLimit = s.stallLimit := rfl
@[simp] theorem State.setBytes_snapMaxAge (s : State) (a : Nat) (l : List Byte) : (s.setBytes a l).snapMaxAge = s.snapMaxAge := rfl
@[simp] theorem State.setBytes_lastStamp (s : State) (a : Nat) (l : List Byte) : (s.setBytes a l).lastStamp = s.lastStamp := rfl
@[simp] theorem State.setBytes_rf (s : State) (a : Nat) (l : List Byte) : (s.setBytes a l).rf = s.rf := rfl
@[simp] theorem State.setBytes_pws (s : State) (a : Nat) (l : List Byte) : (s.setBytes a l).pws = s.pws := rfl
@[simp] theorem State.setBytes_pwSentAt (s : State) (a : Nat) (l : List Byte) : (s.setBytes a l).pwSentAt = s.pwSentAt := rfl
@[simp] theorem State.setBytes_poison (s : State) (a : Nat) (l : List Byte) : (s.setBytes a l).poison = s.poison := rfl
@[simp] theorem State.setBytes_poisonHits (s : State) (a : Nat) (l : List Byte) : (s.setBytes a l).poisonHits = s.poisonHits := rfl
@[simp] theorem State.setBytes_hot (s : State) (a : Nat) (l : List Byte) : (s.setBytes a l).hot = s.hot := rfl
@[simp] theorem State.setBytes_nextId (s : State) (a : Nat) (l : List Byte) : (s.setBytes a l).nextId = s.nextId := rfl
@[simp] theorem State.setBytes_agenda (s : State) (a : Nat) (l : List Byte) : (s.setBytes a l).agenda = s.agenda := rfl
@[simp] theorem State.setBytes_cur (s : State) (a : Nat) (l : List Byte) : (s.setBytes a l).cur = s.cur := rfl
@[simp] theorem State.setBytes_recheck (s : State) (a : Nat) (l : List Byte) : (s.setBytes a l).recheck = s.recheck := rfl
@[simp] theorem State.setBytes_ticks (s : State) (a : Nat) (l : List Byte) : (s.setBytes a l).ticks = s.ticks := rfl
@[simp] theorem State.setBytes_turn (s : State) (a : Nat) (l : List Byte) : (s.setBytes a l).turn = s.turn := rfl

/-! ### `State.setReg` -/

@[simp] theorem State.setReg_mem (s : State) (o : Nat) (v : DWord) : (s.setReg o v).mem = s.mem := rfl
@[simp] theorem State.setReg_ft (s : State) (o : Nat) (v : DWord) : (s.setReg o v).ft = s.ft := rfl
@[simp] theorem State.setReg_epochs (s : State) (o : Nat) (v : DWord) : (s.setReg o v).epochs = s.epochs := rfl
@[simp] theorem State.setReg_syncErr (s : State) (o : Nat) (v : DWord) : (s.setReg o v).syncErr = s.syncErr := rfl
@[simp] theorem State.setReg_ppm (s : State) (o : Nat) (v : DWord) : (s.setReg o v).ppm = s.ppm := rfl
@[simp] theorem State.setReg_offset (s : State) (o : Nat) (v : DWord) : (s.setReg o v).offset = s.offset := rfl
@[simp] theorem State.setReg_peer (s : State) (o : Nat) (v : DWord) : (s.setReg o v).peer = s.peer := rfl
@[simp] theorem State.setReg_clearing (s : State) (o : Nat) (v : DWord) : (s.setReg o v).clearing = s.clearing := rfl
@[simp] theorem State.setReg_prio (s : State) (o : Nat) (v : DWord) : (s.setReg o v).prio = s.prio := rfl
@[simp] theorem State.setReg_ringmaster (s : State) (o : Nat) (v : DWord) : (s.setReg o v).ringmaster = s.ringmaster := rfl
@[simp] theorem State.setReg_warps (s : State) (o : Nat) (v : DWord) : (s.setReg o v).warps = s.warps := rfl
@[simp] theorem State.setReg_teams (s : State) (o : Nat) (v : DWord) : (s.setReg o v).teams = s.teams := rfl
@[simp] theorem State.setReg_cohorts (s : State) (o : Nat) (v : DWord) : (s.setReg o v).cohorts = s.cohorts := rfl
@[simp] theorem State.setReg_regions (s : State) (o : Nat) (v : DWord) : (s.setReg o v).regions = s.regions := rfl
@[simp] theorem State.setReg_cores (s : State) (o : Nat) (v : DWord) : (s.setReg o v).cores = s.cores := rfl
@[simp] theorem State.setReg_dies (s : State) (o : Nat) (v : DWord) : (s.setReg o v).dies = s.dies := rfl
@[simp] theorem State.setReg_ctxs (s : State) (o : Nat) (v : DWord) : (s.setReg o v).ctxs = s.ctxs := rfl
@[simp] theorem State.setReg_chains (s : State) (o : Nat) (v : DWord) : (s.setReg o v).chains = s.chains := rfl
@[simp] theorem State.setReg_launches (s : State) (o : Nat) (v : DWord) : (s.setReg o v).launches = s.launches := rfl
@[simp] theorem State.setReg_submitDropped (s : State) (o : Nat) (v : DWord) : (s.setReg o v).submitDropped = s.submitDropped := rfl
@[simp] theorem State.setReg_frames (s : State) (o : Nat) (v : DWord) : (s.setReg o v).frames = s.frames := rfl
@[simp] theorem State.setReg_faultQ (s : State) (o : Nat) (v : DWord) : (s.setReg o v).faultQ = s.faultQ := rfl
@[simp] theorem State.setReg_faultHeld (s : State) (o : Nat) (v : DWord) : (s.setReg o v).faultHeld = s.faultHeld := rfl
@[simp] theorem State.setReg_faultOpen (s : State) (o : Nat) (v : DWord) : (s.setReg o v).faultOpen = s.faultOpen := rfl
@[simp] theorem State.setReg_syscQ (s : State) (o : Nat) (v : DWord) : (s.setReg o v).syscQ = s.syscQ := rfl
@[simp] theorem State.setReg_traceQ (s : State) (o : Nat) (v : DWord) : (s.setReg o v).traceQ = s.traceQ := rfl
@[simp] theorem State.setReg_traceHeld (s : State) (o : Nat) (v : DWord) : (s.setReg o v).traceHeld = s.traceHeld := rfl
@[simp] theorem State.setReg_traceDropped (s : State) (o : Nat) (v : DWord) : (s.setReg o v).traceDropped = s.traceDropped := rfl
@[simp] theorem State.setReg_bill (s : State) (o : Nat) (v : DWord) : (s.setReg o v).bill = s.bill := rfl
@[simp] theorem State.setReg_late (s : State) (o : Nat) (v : DWord) : (s.setReg o v).late = s.late := rfl
@[simp] theorem State.setReg_lastEntry (s : State) (o : Nat) (v : DWord) : (s.setReg o v).lastEntry = s.lastEntry := rfl
@[simp] theorem State.setReg_run (s : State) (o : Nat) (v : DWord) : (s.setReg o v).run = s.run := rfl
@[simp] theorem State.setReg_slotEnd (s : State) (o : Nat) (v : DWord) : (s.setReg o v).slotEnd = s.slotEnd := rfl
@[simp] theorem State.setReg_preempt (s : State) (o : Nat) (v : DWord) : (s.setReg o v).preempt = s.preempt := rfl
@[simp] theorem State.setReg_preemptFrom (s : State) (o : Nat) (v : DWord) : (s.setReg o v).preemptFrom = s.preemptFrom := rfl
@[simp] theorem State.setReg_switch (s : State) (o : Nat) (v : DWord) : (s.setReg o v).switch = s.switch := rfl
@[simp] theorem State.setReg_heldCmds (s : State) (o : Nat) (v : DWord) : (s.setReg o v).heldCmds = s.heldCmds := rfl
@[simp] theorem State.setReg_revokes (s : State) (o : Nat) (v : DWord) : (s.setReg o v).revokes = s.revokes := rfl
@[simp] theorem State.setReg_watches (s : State) (o : Nat) (v : DWord) : (s.setReg o v).watches = s.watches := rfl
@[simp] theorem State.setReg_mapped (s : State) (o : Nat) (v : DWord) : (s.setReg o v).mapped = s.mapped := rfl
@[simp] theorem State.setReg_sdBusy (s : State) (o : Nat) (v : DWord) : (s.setReg o v).sdBusy = s.sdBusy := rfl
@[simp] theorem State.setReg_sdCtx (s : State) (o : Nat) (v : DWord) : (s.setReg o v).sdCtx = s.sdCtx := rfl
@[simp] theorem State.setReg_links (s : State) (o : Nat) (v : DWord) : (s.setReg o v).links = s.links := rfl
@[simp] theorem State.setReg_far (s : State) (o : Nat) (v : DWord) : (s.setReg o v).far = s.far := rfl
@[simp] theorem State.setReg_leases (s : State) (o : Nat) (v : DWord) : (s.setReg o v).leases = s.leases := rfl
@[simp] theorem State.setReg_streams (s : State) (o : Nat) (v : DWord) : (s.setReg o v).streams = s.streams := rfl
@[simp] theorem State.setReg_outSeq (s : State) (o : Nat) (v : DWord) : (s.setReg o v).outSeq = s.outSeq := rfl
@[simp] theorem State.setReg_out (s : State) (o : Nat) (v : DWord) : (s.setReg o v).out = s.out := rfl
@[simp] theorem State.setReg_taken (s : State) (o : Nat) (v : DWord) : (s.setReg o v).taken = s.taken := rfl
@[simp] theorem State.setReg_unsent (s : State) (o : Nat) (v : DWord) : (s.setReg o v).unsent = s.unsent := rfl
@[simp] theorem State.setReg_remotes (s : State) (o : Nat) (v : DWord) : (s.setReg o v).remotes = s.remotes := rfl
@[simp] theorem State.setReg_cutOff (s : State) (o : Nat) (v : DWord) : (s.setReg o v).cutOff = s.cutOff := rfl
@[simp] theorem State.setReg_reduce (s : State) (o : Nat) (v : DWord) : (s.setReg o v).reduce = s.reduce := rfl
@[simp] theorem State.setReg_lateRes (s : State) (o : Nat) (v : DWord) : (s.setReg o v).lateRes = s.lateRes := rfl
@[simp] theorem State.setReg_keptRegions (s : State) (o : Nat) (v : DWord) : (s.setReg o v).keptRegions = s.keptRegions := rfl
@[simp] theorem State.setReg_lateCopies (s : State) (o : Nat) (v : DWord) : (s.setReg o v).lateCopies = s.lateCopies := rfl
@[simp] theorem State.setReg_barHits (s : State) (o : Nat) (v : DWord) : (s.setReg o v).barHits = s.barHits := rfl
@[simp] theorem State.setReg_keptWarps (s : State) (o : Nat) (v : DWord) : (s.setReg o v).keptWarps = s.keptWarps := rfl
@[simp] theorem State.setReg_keptPorts (s : State) (o : Nat) (v : DWord) : (s.setReg o v).keptPorts = s.keptPorts := rfl
@[simp] theorem State.setReg_keptHolds (s : State) (o : Nat) (v : DWord) : (s.setReg o v).keptHolds = s.keptHolds := rfl
@[simp] theorem State.setReg_tlb (s : State) (o : Nat) (v : DWord) : (s.setReg o v).tlb = s.tlb := rfl
@[simp] theorem State.setReg_repairCore (s : State) (o : Nat) (v : DWord) : (s.setReg o v).repairCore = s.repairCore := rfl
@[simp] theorem State.setReg_repairBusy (s : State) (o : Nat) (v : DWord) : (s.setReg o v).repairBusy = s.repairBusy := rfl
@[simp] theorem State.setReg_repairFail (s : State) (o : Nat) (v : DWord) : (s.setReg o v).repairFail = s.repairFail := rfl
@[simp] theorem State.setReg_retired (s : State) (o : Nat) (v : DWord) : (s.setReg o v).retired = s.retired := rfl
@[simp] theorem State.setReg_step (s : State) (o : Nat) (v : DWord) : (s.setReg o v).step = s.step := rfl
@[simp] theorem State.setReg_ready (s : State) (o : Nat) (v : DWord) : (s.setReg o v).ready = s.ready := rfl
@[simp] theorem State.setReg_fail (s : State) (o : Nat) (v : DWord) : (s.setReg o v).fail = s.fail := rfl
@[simp] theorem State.setReg_fcode (s : State) (o : Nat) (v : DWord) : (s.setReg o v).fcode = s.fcode := rfl
@[simp] theorem State.setReg_spareCores (s : State) (o : Nat) (v : DWord) : (s.setReg o v).spareCores = s.spareCores := rfl
@[simp] theorem State.setReg_stallLimit (s : State) (o : Nat) (v : DWord) : (s.setReg o v).stallLimit = s.stallLimit := rfl
@[simp] theorem State.setReg_snapMaxAge (s : State) (o : Nat) (v : DWord) : (s.setReg o v).snapMaxAge = s.snapMaxAge := rfl
@[simp] theorem State.setReg_lastStamp (s : State) (o : Nat) (v : DWord) : (s.setReg o v).lastStamp = s.lastStamp := rfl
@[simp] theorem State.setReg_rf (s : State) (o : Nat) (v : DWord) : (s.setReg o v).rf = s.rf := rfl
@[simp] theorem State.setReg_pws (s : State) (o : Nat) (v : DWord) : (s.setReg o v).pws = s.pws := rfl
@[simp] theorem State.setReg_pwSentAt (s : State) (o : Nat) (v : DWord) : (s.setReg o v).pwSentAt = s.pwSentAt := rfl
@[simp] theorem State.setReg_poison (s : State) (o : Nat) (v : DWord) : (s.setReg o v).poison = s.poison := rfl
@[simp] theorem State.setReg_poisonHits (s : State) (o : Nat) (v : DWord) : (s.setReg o v).poisonHits = s.poisonHits := rfl
@[simp] theorem State.setReg_hot (s : State) (o : Nat) (v : DWord) : (s.setReg o v).hot = s.hot := rfl
@[simp] theorem State.setReg_nextId (s : State) (o : Nat) (v : DWord) : (s.setReg o v).nextId = s.nextId := rfl
@[simp] theorem State.setReg_agenda (s : State) (o : Nat) (v : DWord) : (s.setReg o v).agenda = s.agenda := rfl
@[simp] theorem State.setReg_cur (s : State) (o : Nat) (v : DWord) : (s.setReg o v).cur = s.cur := rfl
@[simp] theorem State.setReg_recheck (s : State) (o : Nat) (v : DWord) : (s.setReg o v).recheck = s.recheck := rfl
@[simp] theorem State.setReg_ticks (s : State) (o : Nat) (v : DWord) : (s.setReg o v).ticks = s.ticks := rfl
@[simp] theorem State.setReg_turn (s : State) (o : Nat) (v : DWord) : (s.setReg o v).turn = s.turn := rfl

/-! ### `Warp.setV` -/

@[simp] theorem Warp.setV_stat (w : Warp) (r i : Nat) (x : Word) : (w.setV r i x).stat = w.stat := rfl
@[simp] theorem Warp.setV_reason (w : Warp) (r i : Nat) (x : Word) : (w.setV r i x).reason = w.reason := rfl
@[simp] theorem Warp.setV_trapMode (w : Warp) (r i : Nat) (x : Word) : (w.setV r i x).trapMode = w.trapMode := rfl
@[simp] theorem Warp.setV_yielding (w : Warp) (r i : Nat) (x : Word) : (w.setV r i x).yielding = w.yielding := rfl
@[simp] theorem Warp.setV_replay (w : Warp) (r i : Nat) (x : Word) : (w.setV r i x).replay = w.replay := rfl
@[simp] theorem Warp.setV_pc (w : Warp) (r i : Nat) (x : Word) : (w.setV r i x).pc = w.pc := rfl
@[simp] theorem Warp.setV_cj (w : Warp) (r i : Nat) (x : Word) : (w.setV r i x).cj = w.cj := rfl
@[simp] theorem Warp.setV_em (w : Warp) (r i : Nat) (x : Word) : (w.setV r i x).em = w.em := rfl
@[simp] theorem Warp.setV_exited (w : Warp) (r i : Nat) (x : Word) : (w.setV r i x).exited = w.exited := rfl
@[simp] theorem Warp.setV_stack (w : Warp) (r i : Nat) (x : Word) : (w.setV r i x).stack = w.stack := rfl
@[simp] theorem Warp.setV_depth (w : Warp) (r i : Nat) (x : Word) : (w.setV r i x).depth = w.depth := rfl
@[simp] theorem Warp.setV_spin (w : Warp) (r i : Nat) (x : Word) : (w.setV r i x).spin = w.spin := rfl
@[simp] theorem Warp.setV_trap (w : Warp) (r i : Nat) (x : Word) : (w.setV r i x).trap = w.trap := rfl
@[simp] theorem Warp.setV_done (w : Warp) (r i : Nat) (x : Word) : (w.setV r i x).done = w.done := rfl
@[simp] theorem Warp.setV_waiting (w : Warp) (r i : Nat) (x : Word) : (w.setV r i x).waiting = w.waiting := rfl
@[simp] theorem Warp.setV_fpFlags (w : Warp) (r i : Nat) (x : Word) : (w.setV r i x).fpFlags = w.fpFlags := rfl
@[simp] theorem Warp.setV_fpTrapen (w : Warp) (r i : Nat) (x : Word) : (w.setV r i x).fpTrapen = w.fpTrapen := rfl
@[simp] theorem Warp.setV_keep (w : Warp) (r i : Nat) (x : Word) : (w.setV r i x).keep = w.keep := rfl
@[simp] theorem Warp.setV_trampLink (w : Warp) (r i : Nat) (x : Word) : (w.setV r i x).trampLink = w.trampLink := rfl
@[simp] theorem Warp.setV_lstackLimit (w : Warp) (r i : Nat) (x : Word) : (w.setV r i x).lstackLimit = w.lstackLimit := rfl
@[simp] theorem Warp.setV_fmt (w : Warp) (r i : Nat) (x : Word) : (w.setV r i x).fmt = w.fmt := rfl
@[simp] theorem Warp.setV_snap (w : Warp) (r i : Nat) (x : Word) : (w.setV r i x).snap = w.snap := rfl
@[simp] theorem Warp.setV_stg (w : Warp) (r i : Nat) (x : Word) : (w.setV r i x).stg = w.stg := rfl
@[simp] theorem Warp.setV_widBase (w : Warp) (r i : Nat) (x : Word) : (w.setV r i x).widBase = w.widBase := rfl
@[simp] theorem Warp.setV_sr (w : Warp) (r i : Nat) (x : Word) : (w.setV r i x).sr = w.sr := rfl
@[simp] theorem Warp.setV_sregs (w : Warp) (r i : Nat) (x : Word) : (w.setV r i x).sregs = w.sregs := rfl
@[simp] theorem Warp.setV_preds (w : Warp) (r i : Nat) (x : Word) : (w.setV r i x).preds = w.preds := rfl
@[simp] theorem Warp.setV_hregs (w : Warp) (r i : Nat) (x : Word) : (w.setV r i x).hregs = w.hregs := rfl
@[simp] theorem Warp.setV_guards (w : Warp) (r i : Nat) (x : Word) : (w.setV r i x).guards = w.guards := rfl
@[simp] theorem Warp.setV_qbind (w : Warp) (r i : Nat) (x : Word) : (w.setV r i x).qbind = w.qbind := rfl
@[simp] theorem Warp.setV_draw (w : Warp) (r i : Nat) (x : Word) : (w.setV r i x).draw = w.draw := rfl
@[simp] theorem Warp.setV_qids (w : Warp) (r i : Nat) (x : Word) : (w.setV r i x).qids = w.qids := rfl
@[simp] theorem Warp.setV_member (w : Warp) (r i : Nat) (x : Word) : (w.setV r i x).member = w.member := rfl
@[simp] theorem Warp.setV_batch (w : Warp) (r i : Nat) (x : Word) : (w.setV r i x).batch = w.batch := rfl
@[simp] theorem Warp.setV_batches (w : Warp) (r i : Nat) (x : Word) : (w.setV r i x).batches = w.batches := rfl
@[simp] theorem Warp.setV_openCopies (w : Warp) (r i : Nat) (x : Word) : (w.setV r i x).openCopies = w.openCopies := rfl
@[simp] theorem Warp.setV_statusPort (w : Warp) (r i : Nat) (x : Word) : (w.setV r i x).statusPort = w.statusPort := rfl
@[simp] theorem Warp.setV_arrivals (w : Warp) (r i : Nat) (x : Word) : (w.setV r i x).arrivals = w.arrivals := rfl
@[simp] theorem Warp.setV_txState (w : Warp) (r i : Nat) (x : Word) : (w.setV r i x).txState = w.txState := rfl
@[simp] theorem Warp.setV_txStart (w : Warp) (r i : Nat) (x : Word) : (w.setV r i x).txStart = w.txStart := rfl
@[simp] theorem Warp.setV_txLines (w : Warp) (r i : Nat) (x : Word) : (w.setV r i x).txLines = w.txLines := rfl
@[simp] theorem Warp.setV_txCode (w : Warp) (r i : Nat) (x : Word) : (w.setV r i x).txCode = w.txCode := rfl
@[simp] theorem Warp.setV_txConf (w : Warp) (r i : Nat) (x : Word) : (w.setV r i x).txConf = w.txConf := rfl
@[simp] theorem Warp.setV_txWait (w : Warp) (r i : Nat) (x : Word) : (w.setV r i x).txWait = w.txWait := rfl
@[simp] theorem Warp.setV_snapIx (w : Warp) (r i : Nat) (x : Word) : (w.setV r i x).snapIx = w.snapIx := rfl
@[simp] theorem Warp.setV_reissue (w : Warp) (r i : Nat) (x : Word) : (w.setV r i x).reissue = w.reissue := rfl
@[simp] theorem Warp.setV_watch (w : Warp) (r i : Nat) (x : Word) : (w.setV r i x).watch = w.watch := rfl
@[simp] theorem Warp.setV_trapWatch (w : Warp) (r i : Nat) (x : Word) : (w.setV r i x).trapWatch = w.trapWatch := rfl
@[simp] theorem Warp.setV_pending (w : Warp) (r i : Nat) (x : Word) : (w.setV r i x).pending = w.pending := rfl
@[simp] theorem Warp.setV_records (w : Warp) (r i : Nat) (x : Word) : (w.setV r i x).records = w.records := rfl
@[simp] theorem Warp.setV_ir (w : Warp) (r i : Nat) (x : Word) : (w.setV r i x).ir = w.ir := rfl
@[simp] theorem Warp.setV_skipBreak (w : Warp) (r i : Nat) (x : Word) : (w.setV r i x).skipBreak = w.skipBreak := rfl
@[simp] theorem Warp.setV_stepping (w : Warp) (r i : Nat) (x : Word) : (w.setV r i x).stepping = w.stepping := rfl
@[simp] theorem Warp.setV_marked (w : Warp) (r i : Nat) (x : Word) : (w.setV r i x).marked = w.marked := rfl
@[simp] theorem Warp.setV_waitBand (w : Warp) (r i : Nat) (x : Word) : (w.setV r i x).waitBand = w.waitBand := rfl
@[simp] theorem Warp.setV_waitPort (w : Warp) (r i : Nat) (x : Word) : (w.setV r i x).waitPort = w.waitPort := rfl
@[simp] theorem Warp.setV_waitIds (w : Warp) (r i : Nat) (x : Word) : (w.setV r i x).waitIds = w.waitIds := rfl
@[simp] theorem Warp.setV_held (w : Warp) (r i : Nat) (x : Word) : (w.setV r i x).held = w.held := rfl
@[simp] theorem Warp.setV_deferred (w : Warp) (r i : Nat) (x : Word) : (w.setV r i x).deferred = w.deferred := rfl
@[simp] theorem Warp.setV_bandsBefore (w : Warp) (r i : Nat) (x : Word) : (w.setV r i x).bandsBefore = w.bandsBefore := rfl
@[simp] theorem Warp.setV_pins (w : Warp) (r i : Nat) (x : Word) : (w.setV r i x).pins = w.pins := rfl
@[simp] theorem Warp.setV_fence (w : Warp) (r i : Nat) (x : Word) : (w.setV r i x).fence = w.fence := rfl
@[simp] theorem Warp.setV_relFence (w : Warp) (r i : Nat) (x : Word) : (w.setV r i x).relFence = w.relFence := rfl
@[simp] theorem Warp.setV_acqV (w : Warp) (r i : Nat) (x : Word) : (w.setV r i x).acqV = w.acqV := rfl
@[simp] theorem Warp.setV_acqX (w : Warp) (r i : Nat) (x : Word) : (w.setV r i x).acqX = w.acqX := rfl
@[simp] theorem Warp.setV_stored (w : Warp) (r i : Nat) (x : Word) : (w.setV r i x).stored = w.stored := rfl
@[simp] theorem Warp.setV_promotes (w : Warp) (r i : Nat) (x : Word) : (w.setV r i x).promotes = w.promotes := rfl
@[simp] theorem Warp.setV_entries (w : Warp) (r i : Nat) (x : Word) : (w.setV r i x).entries = w.entries := rfl
@[simp] theorem Warp.setV_counted (w : Warp) (r i : Nat) (x : Word) : (w.setV r i x).counted = w.counted := rfl
@[simp] theorem Warp.setV_service (w : Warp) (r i : Nat) (x : Word) : (w.setV r i x).service = w.service := rfl
@[simp] theorem Warp.setV_snapWait (w : Warp) (r i : Nat) (x : Word) : (w.setV r i x).snapWait = w.snapWait := rfl
@[simp] theorem Warp.setV_since (w : Warp) (r i : Nat) (x : Word) : (w.setV r i x).since = w.since := rfl
@[simp] theorem Warp.setV_waited (w : Warp) (r i : Nat) (x : Word) : (w.setV r i x).waited = w.waited := rfl
@[simp] theorem Warp.setV_limit (w : Warp) (r i : Nat) (x : Word) : (w.setV r i x).limit = w.limit := rfl
@[simp] theorem Warp.setV_stalls (w : Warp) (r i : Nat) (x : Word) : (w.setV r i x).stalls = w.stalls := rfl
@[simp] theorem Warp.setV_passed (w : Warp) (r i : Nat) (x : Word) : (w.setV r i x).passed = w.passed := rfl
@[simp] theorem Warp.setV_team (w : Warp) (r i : Nat) (x : Word) : (w.setV r i x).team = w.team := rfl
@[simp] theorem Warp.setV_index (w : Warp) (r i : Nat) (x : Word) : (w.setV r i x).index = w.index := rfl
@[simp] theorem Warp.setV_ctx (w : Warp) (r i : Nat) (x : Word) : (w.setV r i x).ctx = w.ctx := rfl

/-! ### `Warp.setS` -/

@[simp] theorem Warp.setS_stat (w : Warp) (r : Nat) (x : DWord) : (w.setS r x).stat = w.stat := rfl
@[simp] theorem Warp.setS_reason (w : Warp) (r : Nat) (x : DWord) : (w.setS r x).reason = w.reason := rfl
@[simp] theorem Warp.setS_trapMode (w : Warp) (r : Nat) (x : DWord) : (w.setS r x).trapMode = w.trapMode := rfl
@[simp] theorem Warp.setS_yielding (w : Warp) (r : Nat) (x : DWord) : (w.setS r x).yielding = w.yielding := rfl
@[simp] theorem Warp.setS_replay (w : Warp) (r : Nat) (x : DWord) : (w.setS r x).replay = w.replay := rfl
@[simp] theorem Warp.setS_pc (w : Warp) (r : Nat) (x : DWord) : (w.setS r x).pc = w.pc := rfl
@[simp] theorem Warp.setS_cj (w : Warp) (r : Nat) (x : DWord) : (w.setS r x).cj = w.cj := rfl
@[simp] theorem Warp.setS_em (w : Warp) (r : Nat) (x : DWord) : (w.setS r x).em = w.em := rfl
@[simp] theorem Warp.setS_exited (w : Warp) (r : Nat) (x : DWord) : (w.setS r x).exited = w.exited := rfl
@[simp] theorem Warp.setS_stack (w : Warp) (r : Nat) (x : DWord) : (w.setS r x).stack = w.stack := rfl
@[simp] theorem Warp.setS_depth (w : Warp) (r : Nat) (x : DWord) : (w.setS r x).depth = w.depth := rfl
@[simp] theorem Warp.setS_spin (w : Warp) (r : Nat) (x : DWord) : (w.setS r x).spin = w.spin := rfl
@[simp] theorem Warp.setS_trap (w : Warp) (r : Nat) (x : DWord) : (w.setS r x).trap = w.trap := rfl
@[simp] theorem Warp.setS_done (w : Warp) (r : Nat) (x : DWord) : (w.setS r x).done = w.done := rfl
@[simp] theorem Warp.setS_waiting (w : Warp) (r : Nat) (x : DWord) : (w.setS r x).waiting = w.waiting := rfl
@[simp] theorem Warp.setS_fpFlags (w : Warp) (r : Nat) (x : DWord) : (w.setS r x).fpFlags = w.fpFlags := rfl
@[simp] theorem Warp.setS_fpTrapen (w : Warp) (r : Nat) (x : DWord) : (w.setS r x).fpTrapen = w.fpTrapen := rfl
@[simp] theorem Warp.setS_keep (w : Warp) (r : Nat) (x : DWord) : (w.setS r x).keep = w.keep := rfl
@[simp] theorem Warp.setS_trampLink (w : Warp) (r : Nat) (x : DWord) : (w.setS r x).trampLink = w.trampLink := rfl
@[simp] theorem Warp.setS_lstackLimit (w : Warp) (r : Nat) (x : DWord) : (w.setS r x).lstackLimit = w.lstackLimit := rfl
@[simp] theorem Warp.setS_fmt (w : Warp) (r : Nat) (x : DWord) : (w.setS r x).fmt = w.fmt := rfl
@[simp] theorem Warp.setS_snap (w : Warp) (r : Nat) (x : DWord) : (w.setS r x).snap = w.snap := rfl
@[simp] theorem Warp.setS_stg (w : Warp) (r : Nat) (x : DWord) : (w.setS r x).stg = w.stg := rfl
@[simp] theorem Warp.setS_widBase (w : Warp) (r : Nat) (x : DWord) : (w.setS r x).widBase = w.widBase := rfl
@[simp] theorem Warp.setS_sr (w : Warp) (r : Nat) (x : DWord) : (w.setS r x).sr = w.sr := rfl
@[simp] theorem Warp.setS_vregs (w : Warp) (r : Nat) (x : DWord) : (w.setS r x).vregs = w.vregs := rfl
@[simp] theorem Warp.setS_preds (w : Warp) (r : Nat) (x : DWord) : (w.setS r x).preds = w.preds := rfl
@[simp] theorem Warp.setS_hregs (w : Warp) (r : Nat) (x : DWord) : (w.setS r x).hregs = w.hregs := rfl
@[simp] theorem Warp.setS_guards (w : Warp) (r : Nat) (x : DWord) : (w.setS r x).guards = w.guards := rfl
@[simp] theorem Warp.setS_qbind (w : Warp) (r : Nat) (x : DWord) : (w.setS r x).qbind = w.qbind := rfl
@[simp] theorem Warp.setS_draw (w : Warp) (r : Nat) (x : DWord) : (w.setS r x).draw = w.draw := rfl
@[simp] theorem Warp.setS_qids (w : Warp) (r : Nat) (x : DWord) : (w.setS r x).qids = w.qids := rfl
@[simp] theorem Warp.setS_member (w : Warp) (r : Nat) (x : DWord) : (w.setS r x).member = w.member := rfl
@[simp] theorem Warp.setS_batch (w : Warp) (r : Nat) (x : DWord) : (w.setS r x).batch = w.batch := rfl
@[simp] theorem Warp.setS_batches (w : Warp) (r : Nat) (x : DWord) : (w.setS r x).batches = w.batches := rfl
@[simp] theorem Warp.setS_openCopies (w : Warp) (r : Nat) (x : DWord) : (w.setS r x).openCopies = w.openCopies := rfl
@[simp] theorem Warp.setS_statusPort (w : Warp) (r : Nat) (x : DWord) : (w.setS r x).statusPort = w.statusPort := rfl
@[simp] theorem Warp.setS_arrivals (w : Warp) (r : Nat) (x : DWord) : (w.setS r x).arrivals = w.arrivals := rfl
@[simp] theorem Warp.setS_txState (w : Warp) (r : Nat) (x : DWord) : (w.setS r x).txState = w.txState := rfl
@[simp] theorem Warp.setS_txStart (w : Warp) (r : Nat) (x : DWord) : (w.setS r x).txStart = w.txStart := rfl
@[simp] theorem Warp.setS_txLines (w : Warp) (r : Nat) (x : DWord) : (w.setS r x).txLines = w.txLines := rfl
@[simp] theorem Warp.setS_txCode (w : Warp) (r : Nat) (x : DWord) : (w.setS r x).txCode = w.txCode := rfl
@[simp] theorem Warp.setS_txConf (w : Warp) (r : Nat) (x : DWord) : (w.setS r x).txConf = w.txConf := rfl
@[simp] theorem Warp.setS_txWait (w : Warp) (r : Nat) (x : DWord) : (w.setS r x).txWait = w.txWait := rfl
@[simp] theorem Warp.setS_snapIx (w : Warp) (r : Nat) (x : DWord) : (w.setS r x).snapIx = w.snapIx := rfl
@[simp] theorem Warp.setS_reissue (w : Warp) (r : Nat) (x : DWord) : (w.setS r x).reissue = w.reissue := rfl
@[simp] theorem Warp.setS_watch (w : Warp) (r : Nat) (x : DWord) : (w.setS r x).watch = w.watch := rfl
@[simp] theorem Warp.setS_trapWatch (w : Warp) (r : Nat) (x : DWord) : (w.setS r x).trapWatch = w.trapWatch := rfl
@[simp] theorem Warp.setS_pending (w : Warp) (r : Nat) (x : DWord) : (w.setS r x).pending = w.pending := rfl
@[simp] theorem Warp.setS_records (w : Warp) (r : Nat) (x : DWord) : (w.setS r x).records = w.records := rfl
@[simp] theorem Warp.setS_ir (w : Warp) (r : Nat) (x : DWord) : (w.setS r x).ir = w.ir := rfl
@[simp] theorem Warp.setS_skipBreak (w : Warp) (r : Nat) (x : DWord) : (w.setS r x).skipBreak = w.skipBreak := rfl
@[simp] theorem Warp.setS_stepping (w : Warp) (r : Nat) (x : DWord) : (w.setS r x).stepping = w.stepping := rfl
@[simp] theorem Warp.setS_marked (w : Warp) (r : Nat) (x : DWord) : (w.setS r x).marked = w.marked := rfl
@[simp] theorem Warp.setS_waitBand (w : Warp) (r : Nat) (x : DWord) : (w.setS r x).waitBand = w.waitBand := rfl
@[simp] theorem Warp.setS_waitPort (w : Warp) (r : Nat) (x : DWord) : (w.setS r x).waitPort = w.waitPort := rfl
@[simp] theorem Warp.setS_waitIds (w : Warp) (r : Nat) (x : DWord) : (w.setS r x).waitIds = w.waitIds := rfl
@[simp] theorem Warp.setS_held (w : Warp) (r : Nat) (x : DWord) : (w.setS r x).held = w.held := rfl
@[simp] theorem Warp.setS_deferred (w : Warp) (r : Nat) (x : DWord) : (w.setS r x).deferred = w.deferred := rfl
@[simp] theorem Warp.setS_bandsBefore (w : Warp) (r : Nat) (x : DWord) : (w.setS r x).bandsBefore = w.bandsBefore := rfl
@[simp] theorem Warp.setS_pins (w : Warp) (r : Nat) (x : DWord) : (w.setS r x).pins = w.pins := rfl
@[simp] theorem Warp.setS_fence (w : Warp) (r : Nat) (x : DWord) : (w.setS r x).fence = w.fence := rfl
@[simp] theorem Warp.setS_relFence (w : Warp) (r : Nat) (x : DWord) : (w.setS r x).relFence = w.relFence := rfl
@[simp] theorem Warp.setS_acqV (w : Warp) (r : Nat) (x : DWord) : (w.setS r x).acqV = w.acqV := rfl
@[simp] theorem Warp.setS_acqX (w : Warp) (r : Nat) (x : DWord) : (w.setS r x).acqX = w.acqX := rfl
@[simp] theorem Warp.setS_stored (w : Warp) (r : Nat) (x : DWord) : (w.setS r x).stored = w.stored := rfl
@[simp] theorem Warp.setS_promotes (w : Warp) (r : Nat) (x : DWord) : (w.setS r x).promotes = w.promotes := rfl
@[simp] theorem Warp.setS_entries (w : Warp) (r : Nat) (x : DWord) : (w.setS r x).entries = w.entries := rfl
@[simp] theorem Warp.setS_counted (w : Warp) (r : Nat) (x : DWord) : (w.setS r x).counted = w.counted := rfl
@[simp] theorem Warp.setS_service (w : Warp) (r : Nat) (x : DWord) : (w.setS r x).service = w.service := rfl
@[simp] theorem Warp.setS_snapWait (w : Warp) (r : Nat) (x : DWord) : (w.setS r x).snapWait = w.snapWait := rfl
@[simp] theorem Warp.setS_since (w : Warp) (r : Nat) (x : DWord) : (w.setS r x).since = w.since := rfl
@[simp] theorem Warp.setS_waited (w : Warp) (r : Nat) (x : DWord) : (w.setS r x).waited = w.waited := rfl
@[simp] theorem Warp.setS_limit (w : Warp) (r : Nat) (x : DWord) : (w.setS r x).limit = w.limit := rfl
@[simp] theorem Warp.setS_stalls (w : Warp) (r : Nat) (x : DWord) : (w.setS r x).stalls = w.stalls := rfl
@[simp] theorem Warp.setS_passed (w : Warp) (r : Nat) (x : DWord) : (w.setS r x).passed = w.passed := rfl
@[simp] theorem Warp.setS_team (w : Warp) (r : Nat) (x : DWord) : (w.setS r x).team = w.team := rfl
@[simp] theorem Warp.setS_index (w : Warp) (r : Nat) (x : DWord) : (w.setS r x).index = w.index := rfl
@[simp] theorem Warp.setS_ctx (w : Warp) (r : Nat) (x : DWord) : (w.setS r x).ctx = w.ctx := rfl

/-! ### `Warp.setP` -/

@[simp] theorem Warp.setP_stat (w : Warp) (r : Nat) (x : Mask) : (w.setP r x).stat = w.stat := rfl
@[simp] theorem Warp.setP_reason (w : Warp) (r : Nat) (x : Mask) : (w.setP r x).reason = w.reason := rfl
@[simp] theorem Warp.setP_trapMode (w : Warp) (r : Nat) (x : Mask) : (w.setP r x).trapMode = w.trapMode := rfl
@[simp] theorem Warp.setP_yielding (w : Warp) (r : Nat) (x : Mask) : (w.setP r x).yielding = w.yielding := rfl
@[simp] theorem Warp.setP_replay (w : Warp) (r : Nat) (x : Mask) : (w.setP r x).replay = w.replay := rfl
@[simp] theorem Warp.setP_pc (w : Warp) (r : Nat) (x : Mask) : (w.setP r x).pc = w.pc := rfl
@[simp] theorem Warp.setP_cj (w : Warp) (r : Nat) (x : Mask) : (w.setP r x).cj = w.cj := rfl
@[simp] theorem Warp.setP_em (w : Warp) (r : Nat) (x : Mask) : (w.setP r x).em = w.em := rfl
@[simp] theorem Warp.setP_exited (w : Warp) (r : Nat) (x : Mask) : (w.setP r x).exited = w.exited := rfl
@[simp] theorem Warp.setP_stack (w : Warp) (r : Nat) (x : Mask) : (w.setP r x).stack = w.stack := rfl
@[simp] theorem Warp.setP_depth (w : Warp) (r : Nat) (x : Mask) : (w.setP r x).depth = w.depth := rfl
@[simp] theorem Warp.setP_spin (w : Warp) (r : Nat) (x : Mask) : (w.setP r x).spin = w.spin := rfl
@[simp] theorem Warp.setP_trap (w : Warp) (r : Nat) (x : Mask) : (w.setP r x).trap = w.trap := rfl
@[simp] theorem Warp.setP_done (w : Warp) (r : Nat) (x : Mask) : (w.setP r x).done = w.done := rfl
@[simp] theorem Warp.setP_waiting (w : Warp) (r : Nat) (x : Mask) : (w.setP r x).waiting = w.waiting := rfl
@[simp] theorem Warp.setP_fpFlags (w : Warp) (r : Nat) (x : Mask) : (w.setP r x).fpFlags = w.fpFlags := rfl
@[simp] theorem Warp.setP_fpTrapen (w : Warp) (r : Nat) (x : Mask) : (w.setP r x).fpTrapen = w.fpTrapen := rfl
@[simp] theorem Warp.setP_keep (w : Warp) (r : Nat) (x : Mask) : (w.setP r x).keep = w.keep := rfl
@[simp] theorem Warp.setP_trampLink (w : Warp) (r : Nat) (x : Mask) : (w.setP r x).trampLink = w.trampLink := rfl
@[simp] theorem Warp.setP_lstackLimit (w : Warp) (r : Nat) (x : Mask) : (w.setP r x).lstackLimit = w.lstackLimit := rfl
@[simp] theorem Warp.setP_fmt (w : Warp) (r : Nat) (x : Mask) : (w.setP r x).fmt = w.fmt := rfl
@[simp] theorem Warp.setP_snap (w : Warp) (r : Nat) (x : Mask) : (w.setP r x).snap = w.snap := rfl
@[simp] theorem Warp.setP_stg (w : Warp) (r : Nat) (x : Mask) : (w.setP r x).stg = w.stg := rfl
@[simp] theorem Warp.setP_widBase (w : Warp) (r : Nat) (x : Mask) : (w.setP r x).widBase = w.widBase := rfl
@[simp] theorem Warp.setP_sr (w : Warp) (r : Nat) (x : Mask) : (w.setP r x).sr = w.sr := rfl
@[simp] theorem Warp.setP_sregs (w : Warp) (r : Nat) (x : Mask) : (w.setP r x).sregs = w.sregs := rfl
@[simp] theorem Warp.setP_vregs (w : Warp) (r : Nat) (x : Mask) : (w.setP r x).vregs = w.vregs := rfl
@[simp] theorem Warp.setP_hregs (w : Warp) (r : Nat) (x : Mask) : (w.setP r x).hregs = w.hregs := rfl
@[simp] theorem Warp.setP_guards (w : Warp) (r : Nat) (x : Mask) : (w.setP r x).guards = w.guards := rfl
@[simp] theorem Warp.setP_qbind (w : Warp) (r : Nat) (x : Mask) : (w.setP r x).qbind = w.qbind := rfl
@[simp] theorem Warp.setP_draw (w : Warp) (r : Nat) (x : Mask) : (w.setP r x).draw = w.draw := rfl
@[simp] theorem Warp.setP_qids (w : Warp) (r : Nat) (x : Mask) : (w.setP r x).qids = w.qids := rfl
@[simp] theorem Warp.setP_member (w : Warp) (r : Nat) (x : Mask) : (w.setP r x).member = w.member := rfl
@[simp] theorem Warp.setP_batch (w : Warp) (r : Nat) (x : Mask) : (w.setP r x).batch = w.batch := rfl
@[simp] theorem Warp.setP_batches (w : Warp) (r : Nat) (x : Mask) : (w.setP r x).batches = w.batches := rfl
@[simp] theorem Warp.setP_openCopies (w : Warp) (r : Nat) (x : Mask) : (w.setP r x).openCopies = w.openCopies := rfl
@[simp] theorem Warp.setP_statusPort (w : Warp) (r : Nat) (x : Mask) : (w.setP r x).statusPort = w.statusPort := rfl
@[simp] theorem Warp.setP_arrivals (w : Warp) (r : Nat) (x : Mask) : (w.setP r x).arrivals = w.arrivals := rfl
@[simp] theorem Warp.setP_txState (w : Warp) (r : Nat) (x : Mask) : (w.setP r x).txState = w.txState := rfl
@[simp] theorem Warp.setP_txStart (w : Warp) (r : Nat) (x : Mask) : (w.setP r x).txStart = w.txStart := rfl
@[simp] theorem Warp.setP_txLines (w : Warp) (r : Nat) (x : Mask) : (w.setP r x).txLines = w.txLines := rfl
@[simp] theorem Warp.setP_txCode (w : Warp) (r : Nat) (x : Mask) : (w.setP r x).txCode = w.txCode := rfl
@[simp] theorem Warp.setP_txConf (w : Warp) (r : Nat) (x : Mask) : (w.setP r x).txConf = w.txConf := rfl
@[simp] theorem Warp.setP_txWait (w : Warp) (r : Nat) (x : Mask) : (w.setP r x).txWait = w.txWait := rfl
@[simp] theorem Warp.setP_snapIx (w : Warp) (r : Nat) (x : Mask) : (w.setP r x).snapIx = w.snapIx := rfl
@[simp] theorem Warp.setP_reissue (w : Warp) (r : Nat) (x : Mask) : (w.setP r x).reissue = w.reissue := rfl
@[simp] theorem Warp.setP_watch (w : Warp) (r : Nat) (x : Mask) : (w.setP r x).watch = w.watch := rfl
@[simp] theorem Warp.setP_trapWatch (w : Warp) (r : Nat) (x : Mask) : (w.setP r x).trapWatch = w.trapWatch := rfl
@[simp] theorem Warp.setP_pending (w : Warp) (r : Nat) (x : Mask) : (w.setP r x).pending = w.pending := rfl
@[simp] theorem Warp.setP_records (w : Warp) (r : Nat) (x : Mask) : (w.setP r x).records = w.records := rfl
@[simp] theorem Warp.setP_ir (w : Warp) (r : Nat) (x : Mask) : (w.setP r x).ir = w.ir := rfl
@[simp] theorem Warp.setP_skipBreak (w : Warp) (r : Nat) (x : Mask) : (w.setP r x).skipBreak = w.skipBreak := rfl
@[simp] theorem Warp.setP_stepping (w : Warp) (r : Nat) (x : Mask) : (w.setP r x).stepping = w.stepping := rfl
@[simp] theorem Warp.setP_marked (w : Warp) (r : Nat) (x : Mask) : (w.setP r x).marked = w.marked := rfl
@[simp] theorem Warp.setP_waitBand (w : Warp) (r : Nat) (x : Mask) : (w.setP r x).waitBand = w.waitBand := rfl
@[simp] theorem Warp.setP_waitPort (w : Warp) (r : Nat) (x : Mask) : (w.setP r x).waitPort = w.waitPort := rfl
@[simp] theorem Warp.setP_waitIds (w : Warp) (r : Nat) (x : Mask) : (w.setP r x).waitIds = w.waitIds := rfl
@[simp] theorem Warp.setP_held (w : Warp) (r : Nat) (x : Mask) : (w.setP r x).held = w.held := rfl
@[simp] theorem Warp.setP_deferred (w : Warp) (r : Nat) (x : Mask) : (w.setP r x).deferred = w.deferred := rfl
@[simp] theorem Warp.setP_bandsBefore (w : Warp) (r : Nat) (x : Mask) : (w.setP r x).bandsBefore = w.bandsBefore := rfl
@[simp] theorem Warp.setP_pins (w : Warp) (r : Nat) (x : Mask) : (w.setP r x).pins = w.pins := rfl
@[simp] theorem Warp.setP_fence (w : Warp) (r : Nat) (x : Mask) : (w.setP r x).fence = w.fence := rfl
@[simp] theorem Warp.setP_relFence (w : Warp) (r : Nat) (x : Mask) : (w.setP r x).relFence = w.relFence := rfl
@[simp] theorem Warp.setP_acqV (w : Warp) (r : Nat) (x : Mask) : (w.setP r x).acqV = w.acqV := rfl
@[simp] theorem Warp.setP_acqX (w : Warp) (r : Nat) (x : Mask) : (w.setP r x).acqX = w.acqX := rfl
@[simp] theorem Warp.setP_stored (w : Warp) (r : Nat) (x : Mask) : (w.setP r x).stored = w.stored := rfl
@[simp] theorem Warp.setP_promotes (w : Warp) (r : Nat) (x : Mask) : (w.setP r x).promotes = w.promotes := rfl
@[simp] theorem Warp.setP_entries (w : Warp) (r : Nat) (x : Mask) : (w.setP r x).entries = w.entries := rfl
@[simp] theorem Warp.setP_counted (w : Warp) (r : Nat) (x : Mask) : (w.setP r x).counted = w.counted := rfl
@[simp] theorem Warp.setP_service (w : Warp) (r : Nat) (x : Mask) : (w.setP r x).service = w.service := rfl
@[simp] theorem Warp.setP_snapWait (w : Warp) (r : Nat) (x : Mask) : (w.setP r x).snapWait = w.snapWait := rfl
@[simp] theorem Warp.setP_since (w : Warp) (r : Nat) (x : Mask) : (w.setP r x).since = w.since := rfl
@[simp] theorem Warp.setP_waited (w : Warp) (r : Nat) (x : Mask) : (w.setP r x).waited = w.waited := rfl
@[simp] theorem Warp.setP_limit (w : Warp) (r : Nat) (x : Mask) : (w.setP r x).limit = w.limit := rfl
@[simp] theorem Warp.setP_stalls (w : Warp) (r : Nat) (x : Mask) : (w.setP r x).stalls = w.stalls := rfl
@[simp] theorem Warp.setP_passed (w : Warp) (r : Nat) (x : Mask) : (w.setP r x).passed = w.passed := rfl
@[simp] theorem Warp.setP_team (w : Warp) (r : Nat) (x : Mask) : (w.setP r x).team = w.team := rfl
@[simp] theorem Warp.setP_index (w : Warp) (r : Nat) (x : Mask) : (w.setP r x).index = w.index := rfl
@[simp] theorem Warp.setP_ctx (w : Warp) (r : Nat) (x : Mask) : (w.setP r x).ctx = w.ctx := rfl

/-! ### `Warp.setLanes` -/

@[simp] theorem Warp.setLanes_stat (w : Warp) (m : Mask) (r : Nat) (f : Nat → Word) : (w.setLanes m r f).stat = w.stat := rfl
@[simp] theorem Warp.setLanes_reason (w : Warp) (m : Mask) (r : Nat) (f : Nat → Word) : (w.setLanes m r f).reason = w.reason := rfl
@[simp] theorem Warp.setLanes_trapMode (w : Warp) (m : Mask) (r : Nat) (f : Nat → Word) : (w.setLanes m r f).trapMode = w.trapMode := rfl
@[simp] theorem Warp.setLanes_yielding (w : Warp) (m : Mask) (r : Nat) (f : Nat → Word) : (w.setLanes m r f).yielding = w.yielding := rfl
@[simp] theorem Warp.setLanes_replay (w : Warp) (m : Mask) (r : Nat) (f : Nat → Word) : (w.setLanes m r f).replay = w.replay := rfl
@[simp] theorem Warp.setLanes_pc (w : Warp) (m : Mask) (r : Nat) (f : Nat → Word) : (w.setLanes m r f).pc = w.pc := rfl
@[simp] theorem Warp.setLanes_cj (w : Warp) (m : Mask) (r : Nat) (f : Nat → Word) : (w.setLanes m r f).cj = w.cj := rfl
@[simp] theorem Warp.setLanes_em (w : Warp) (m : Mask) (r : Nat) (f : Nat → Word) : (w.setLanes m r f).em = w.em := rfl
@[simp] theorem Warp.setLanes_exited (w : Warp) (m : Mask) (r : Nat) (f : Nat → Word) : (w.setLanes m r f).exited = w.exited := rfl
@[simp] theorem Warp.setLanes_stack (w : Warp) (m : Mask) (r : Nat) (f : Nat → Word) : (w.setLanes m r f).stack = w.stack := rfl
@[simp] theorem Warp.setLanes_depth (w : Warp) (m : Mask) (r : Nat) (f : Nat → Word) : (w.setLanes m r f).depth = w.depth := rfl
@[simp] theorem Warp.setLanes_spin (w : Warp) (m : Mask) (r : Nat) (f : Nat → Word) : (w.setLanes m r f).spin = w.spin := rfl
@[simp] theorem Warp.setLanes_trap (w : Warp) (m : Mask) (r : Nat) (f : Nat → Word) : (w.setLanes m r f).trap = w.trap := rfl
@[simp] theorem Warp.setLanes_done (w : Warp) (m : Mask) (r : Nat) (f : Nat → Word) : (w.setLanes m r f).done = w.done := rfl
@[simp] theorem Warp.setLanes_waiting (w : Warp) (m : Mask) (r : Nat) (f : Nat → Word) : (w.setLanes m r f).waiting = w.waiting := rfl
@[simp] theorem Warp.setLanes_fpFlags (w : Warp) (m : Mask) (r : Nat) (f : Nat → Word) : (w.setLanes m r f).fpFlags = w.fpFlags := rfl
@[simp] theorem Warp.setLanes_fpTrapen (w : Warp) (m : Mask) (r : Nat) (f : Nat → Word) : (w.setLanes m r f).fpTrapen = w.fpTrapen := rfl
@[simp] theorem Warp.setLanes_keep (w : Warp) (m : Mask) (r : Nat) (f : Nat → Word) : (w.setLanes m r f).keep = w.keep := rfl
@[simp] theorem Warp.setLanes_trampLink (w : Warp) (m : Mask) (r : Nat) (f : Nat → Word) : (w.setLanes m r f).trampLink = w.trampLink := rfl
@[simp] theorem Warp.setLanes_lstackLimit (w : Warp) (m : Mask) (r : Nat) (f : Nat → Word) : (w.setLanes m r f).lstackLimit = w.lstackLimit := rfl
@[simp] theorem Warp.setLanes_fmt (w : Warp) (m : Mask) (r : Nat) (f : Nat → Word) : (w.setLanes m r f).fmt = w.fmt := rfl
@[simp] theorem Warp.setLanes_snap (w : Warp) (m : Mask) (r : Nat) (f : Nat → Word) : (w.setLanes m r f).snap = w.snap := rfl
@[simp] theorem Warp.setLanes_stg (w : Warp) (m : Mask) (r : Nat) (f : Nat → Word) : (w.setLanes m r f).stg = w.stg := rfl
@[simp] theorem Warp.setLanes_widBase (w : Warp) (m : Mask) (r : Nat) (f : Nat → Word) : (w.setLanes m r f).widBase = w.widBase := rfl
@[simp] theorem Warp.setLanes_sr (w : Warp) (m : Mask) (r : Nat) (f : Nat → Word) : (w.setLanes m r f).sr = w.sr := rfl
@[simp] theorem Warp.setLanes_sregs (w : Warp) (m : Mask) (r : Nat) (f : Nat → Word) : (w.setLanes m r f).sregs = w.sregs := rfl
@[simp] theorem Warp.setLanes_preds (w : Warp) (m : Mask) (r : Nat) (f : Nat → Word) : (w.setLanes m r f).preds = w.preds := rfl
@[simp] theorem Warp.setLanes_hregs (w : Warp) (m : Mask) (r : Nat) (f : Nat → Word) : (w.setLanes m r f).hregs = w.hregs := rfl
@[simp] theorem Warp.setLanes_guards (w : Warp) (m : Mask) (r : Nat) (f : Nat → Word) : (w.setLanes m r f).guards = w.guards := rfl
@[simp] theorem Warp.setLanes_qbind (w : Warp) (m : Mask) (r : Nat) (f : Nat → Word) : (w.setLanes m r f).qbind = w.qbind := rfl
@[simp] theorem Warp.setLanes_draw (w : Warp) (m : Mask) (r : Nat) (f : Nat → Word) : (w.setLanes m r f).draw = w.draw := rfl
@[simp] theorem Warp.setLanes_qids (w : Warp) (m : Mask) (r : Nat) (f : Nat → Word) : (w.setLanes m r f).qids = w.qids := rfl
@[simp] theorem Warp.setLanes_member (w : Warp) (m : Mask) (r : Nat) (f : Nat → Word) : (w.setLanes m r f).member = w.member := rfl
@[simp] theorem Warp.setLanes_batch (w : Warp) (m : Mask) (r : Nat) (f : Nat → Word) : (w.setLanes m r f).batch = w.batch := rfl
@[simp] theorem Warp.setLanes_batches (w : Warp) (m : Mask) (r : Nat) (f : Nat → Word) : (w.setLanes m r f).batches = w.batches := rfl
@[simp] theorem Warp.setLanes_openCopies (w : Warp) (m : Mask) (r : Nat) (f : Nat → Word) : (w.setLanes m r f).openCopies = w.openCopies := rfl
@[simp] theorem Warp.setLanes_statusPort (w : Warp) (m : Mask) (r : Nat) (f : Nat → Word) : (w.setLanes m r f).statusPort = w.statusPort := rfl
@[simp] theorem Warp.setLanes_arrivals (w : Warp) (m : Mask) (r : Nat) (f : Nat → Word) : (w.setLanes m r f).arrivals = w.arrivals := rfl
@[simp] theorem Warp.setLanes_txState (w : Warp) (m : Mask) (r : Nat) (f : Nat → Word) : (w.setLanes m r f).txState = w.txState := rfl
@[simp] theorem Warp.setLanes_txStart (w : Warp) (m : Mask) (r : Nat) (f : Nat → Word) : (w.setLanes m r f).txStart = w.txStart := rfl
@[simp] theorem Warp.setLanes_txLines (w : Warp) (m : Mask) (r : Nat) (f : Nat → Word) : (w.setLanes m r f).txLines = w.txLines := rfl
@[simp] theorem Warp.setLanes_txCode (w : Warp) (m : Mask) (r : Nat) (f : Nat → Word) : (w.setLanes m r f).txCode = w.txCode := rfl
@[simp] theorem Warp.setLanes_txConf (w : Warp) (m : Mask) (r : Nat) (f : Nat → Word) : (w.setLanes m r f).txConf = w.txConf := rfl
@[simp] theorem Warp.setLanes_txWait (w : Warp) (m : Mask) (r : Nat) (f : Nat → Word) : (w.setLanes m r f).txWait = w.txWait := rfl
@[simp] theorem Warp.setLanes_snapIx (w : Warp) (m : Mask) (r : Nat) (f : Nat → Word) : (w.setLanes m r f).snapIx = w.snapIx := rfl
@[simp] theorem Warp.setLanes_reissue (w : Warp) (m : Mask) (r : Nat) (f : Nat → Word) : (w.setLanes m r f).reissue = w.reissue := rfl
@[simp] theorem Warp.setLanes_watch (w : Warp) (m : Mask) (r : Nat) (f : Nat → Word) : (w.setLanes m r f).watch = w.watch := rfl
@[simp] theorem Warp.setLanes_trapWatch (w : Warp) (m : Mask) (r : Nat) (f : Nat → Word) : (w.setLanes m r f).trapWatch = w.trapWatch := rfl
@[simp] theorem Warp.setLanes_pending (w : Warp) (m : Mask) (r : Nat) (f : Nat → Word) : (w.setLanes m r f).pending = w.pending := rfl
@[simp] theorem Warp.setLanes_records (w : Warp) (m : Mask) (r : Nat) (f : Nat → Word) : (w.setLanes m r f).records = w.records := rfl
@[simp] theorem Warp.setLanes_ir (w : Warp) (m : Mask) (r : Nat) (f : Nat → Word) : (w.setLanes m r f).ir = w.ir := rfl
@[simp] theorem Warp.setLanes_skipBreak (w : Warp) (m : Mask) (r : Nat) (f : Nat → Word) : (w.setLanes m r f).skipBreak = w.skipBreak := rfl
@[simp] theorem Warp.setLanes_stepping (w : Warp) (m : Mask) (r : Nat) (f : Nat → Word) : (w.setLanes m r f).stepping = w.stepping := rfl
@[simp] theorem Warp.setLanes_marked (w : Warp) (m : Mask) (r : Nat) (f : Nat → Word) : (w.setLanes m r f).marked = w.marked := rfl
@[simp] theorem Warp.setLanes_waitBand (w : Warp) (m : Mask) (r : Nat) (f : Nat → Word) : (w.setLanes m r f).waitBand = w.waitBand := rfl
@[simp] theorem Warp.setLanes_waitPort (w : Warp) (m : Mask) (r : Nat) (f : Nat → Word) : (w.setLanes m r f).waitPort = w.waitPort := rfl
@[simp] theorem Warp.setLanes_waitIds (w : Warp) (m : Mask) (r : Nat) (f : Nat → Word) : (w.setLanes m r f).waitIds = w.waitIds := rfl
@[simp] theorem Warp.setLanes_held (w : Warp) (m : Mask) (r : Nat) (f : Nat → Word) : (w.setLanes m r f).held = w.held := rfl
@[simp] theorem Warp.setLanes_deferred (w : Warp) (m : Mask) (r : Nat) (f : Nat → Word) : (w.setLanes m r f).deferred = w.deferred := rfl
@[simp] theorem Warp.setLanes_bandsBefore (w : Warp) (m : Mask) (r : Nat) (f : Nat → Word) : (w.setLanes m r f).bandsBefore = w.bandsBefore := rfl
@[simp] theorem Warp.setLanes_pins (w : Warp) (m : Mask) (r : Nat) (f : Nat → Word) : (w.setLanes m r f).pins = w.pins := rfl
@[simp] theorem Warp.setLanes_fence (w : Warp) (m : Mask) (r : Nat) (f : Nat → Word) : (w.setLanes m r f).fence = w.fence := rfl
@[simp] theorem Warp.setLanes_relFence (w : Warp) (m : Mask) (r : Nat) (f : Nat → Word) : (w.setLanes m r f).relFence = w.relFence := rfl
@[simp] theorem Warp.setLanes_acqV (w : Warp) (m : Mask) (r : Nat) (f : Nat → Word) : (w.setLanes m r f).acqV = w.acqV := rfl
@[simp] theorem Warp.setLanes_acqX (w : Warp) (m : Mask) (r : Nat) (f : Nat → Word) : (w.setLanes m r f).acqX = w.acqX := rfl
@[simp] theorem Warp.setLanes_stored (w : Warp) (m : Mask) (r : Nat) (f : Nat → Word) : (w.setLanes m r f).stored = w.stored := rfl
@[simp] theorem Warp.setLanes_promotes (w : Warp) (m : Mask) (r : Nat) (f : Nat → Word) : (w.setLanes m r f).promotes = w.promotes := rfl
@[simp] theorem Warp.setLanes_entries (w : Warp) (m : Mask) (r : Nat) (f : Nat → Word) : (w.setLanes m r f).entries = w.entries := rfl
@[simp] theorem Warp.setLanes_counted (w : Warp) (m : Mask) (r : Nat) (f : Nat → Word) : (w.setLanes m r f).counted = w.counted := rfl
@[simp] theorem Warp.setLanes_service (w : Warp) (m : Mask) (r : Nat) (f : Nat → Word) : (w.setLanes m r f).service = w.service := rfl
@[simp] theorem Warp.setLanes_snapWait (w : Warp) (m : Mask) (r : Nat) (f : Nat → Word) : (w.setLanes m r f).snapWait = w.snapWait := rfl
@[simp] theorem Warp.setLanes_since (w : Warp) (m : Mask) (r : Nat) (f : Nat → Word) : (w.setLanes m r f).since = w.since := rfl
@[simp] theorem Warp.setLanes_waited (w : Warp) (m : Mask) (r : Nat) (f : Nat → Word) : (w.setLanes m r f).waited = w.waited := rfl
@[simp] theorem Warp.setLanes_limit (w : Warp) (m : Mask) (r : Nat) (f : Nat → Word) : (w.setLanes m r f).limit = w.limit := rfl
@[simp] theorem Warp.setLanes_stalls (w : Warp) (m : Mask) (r : Nat) (f : Nat → Word) : (w.setLanes m r f).stalls = w.stalls := rfl
@[simp] theorem Warp.setLanes_passed (w : Warp) (m : Mask) (r : Nat) (f : Nat → Word) : (w.setLanes m r f).passed = w.passed := rfl
@[simp] theorem Warp.setLanes_team (w : Warp) (m : Mask) (r : Nat) (f : Nat → Word) : (w.setLanes m r f).team = w.team := rfl
@[simp] theorem Warp.setLanes_index (w : Warp) (m : Mask) (r : Nat) (f : Nat → Word) : (w.setLanes m r f).index = w.index := rfl
@[simp] theorem Warp.setLanes_ctx (w : Warp) (m : Mask) (r : Nat) (f : Nat → Word) : (w.setLanes m r f).ctx = w.ctx := rfl

/-! ### `Warp.retire` -/

@[simp] theorem Warp.retire_trapMode (w : Warp) (n : Nat) (sw : Bool) : (w.retire n sw).trapMode = w.trapMode := by
  unfold Warp.retire Warp.finish Warp.mark; split <;> rfl
@[simp] theorem Warp.retire_yielding (w : Warp) (n : Nat) (sw : Bool) : (w.retire n sw).yielding = w.yielding := by
  unfold Warp.retire Warp.finish Warp.mark; split <;> rfl
@[simp] theorem Warp.retire_cj (w : Warp) (n : Nat) (sw : Bool) : (w.retire n sw).cj = w.cj := by
  unfold Warp.retire Warp.finish Warp.mark; split <;> rfl
@[simp] theorem Warp.retire_em (w : Warp) (n : Nat) (sw : Bool) : (w.retire n sw).em = w.em := by
  unfold Warp.retire Warp.finish Warp.mark; split <;> rfl
@[simp] theorem Warp.retire_exited (w : Warp) (n : Nat) (sw : Bool) : (w.retire n sw).exited = w.exited := by
  unfold Warp.retire Warp.finish Warp.mark; split <;> rfl
@[simp] theorem Warp.retire_stack (w : Warp) (n : Nat) (sw : Bool) : (w.retire n sw).stack = w.stack := by
  unfold Warp.retire Warp.finish Warp.mark; split <;> rfl
@[simp] theorem Warp.retire_depth (w : Warp) (n : Nat) (sw : Bool) : (w.retire n sw).depth = w.depth := by
  unfold Warp.retire Warp.finish Warp.mark; split <;> rfl
@[simp] theorem Warp.retire_spin (w : Warp) (n : Nat) (sw : Bool) : (w.retire n sw).spin = w.spin := by
  unfold Warp.retire Warp.finish Warp.mark; split <;> rfl
@[simp] theorem Warp.retire_trap (w : Warp) (n : Nat) (sw : Bool) : (w.retire n sw).trap = w.trap := by
  unfold Warp.retire Warp.finish Warp.mark; split <;> rfl
@[simp] theorem Warp.retire_fpFlags (w : Warp) (n : Nat) (sw : Bool) : (w.retire n sw).fpFlags = w.fpFlags := by
  unfold Warp.retire Warp.finish Warp.mark; split <;> rfl
@[simp] theorem Warp.retire_fpTrapen (w : Warp) (n : Nat) (sw : Bool) : (w.retire n sw).fpTrapen = w.fpTrapen := by
  unfold Warp.retire Warp.finish Warp.mark; split <;> rfl
@[simp] theorem Warp.retire_keep (w : Warp) (n : Nat) (sw : Bool) : (w.retire n sw).keep = w.keep := by
  unfold Warp.retire Warp.finish Warp.mark; split <;> rfl
@[simp] theorem Warp.retire_trampLink (w : Warp) (n : Nat) (sw : Bool) : (w.retire n sw).trampLink = w.trampLink := by
  unfold Warp.retire Warp.finish Warp.mark; split <;> rfl
@[simp] theorem Warp.retire_lstackLimit (w : Warp) (n : Nat) (sw : Bool) : (w.retire n sw).lstackLimit = w.lstackLimit := by
  unfold Warp.retire Warp.finish Warp.mark; split <;> rfl
@[simp] theorem Warp.retire_fmt (w : Warp) (n : Nat) (sw : Bool) : (w.retire n sw).fmt = w.fmt := by
  unfold Warp.retire Warp.finish Warp.mark; split <;> rfl
@[simp] theorem Warp.retire_snap (w : Warp) (n : Nat) (sw : Bool) : (w.retire n sw).snap = w.snap := by
  unfold Warp.retire Warp.finish Warp.mark; split <;> rfl
@[simp] theorem Warp.retire_stg (w : Warp) (n : Nat) (sw : Bool) : (w.retire n sw).stg = w.stg := by
  unfold Warp.retire Warp.finish Warp.mark; split <;> rfl
@[simp] theorem Warp.retire_widBase (w : Warp) (n : Nat) (sw : Bool) : (w.retire n sw).widBase = w.widBase := by
  unfold Warp.retire Warp.finish Warp.mark; split <;> rfl
@[simp] theorem Warp.retire_sr (w : Warp) (n : Nat) (sw : Bool) : (w.retire n sw).sr = w.sr := by
  unfold Warp.retire Warp.finish Warp.mark; split <;> rfl
@[simp] theorem Warp.retire_sregs (w : Warp) (n : Nat) (sw : Bool) : (w.retire n sw).sregs = w.sregs := by
  unfold Warp.retire Warp.finish Warp.mark; split <;> rfl
@[simp] theorem Warp.retire_vregs (w : Warp) (n : Nat) (sw : Bool) : (w.retire n sw).vregs = w.vregs := by
  unfold Warp.retire Warp.finish Warp.mark; split <;> rfl
@[simp] theorem Warp.retire_preds (w : Warp) (n : Nat) (sw : Bool) : (w.retire n sw).preds = w.preds := by
  unfold Warp.retire Warp.finish Warp.mark; split <;> rfl
@[simp] theorem Warp.retire_hregs (w : Warp) (n : Nat) (sw : Bool) : (w.retire n sw).hregs = w.hregs := by
  unfold Warp.retire Warp.finish Warp.mark; split <;> rfl
@[simp] theorem Warp.retire_guards (w : Warp) (n : Nat) (sw : Bool) : (w.retire n sw).guards = w.guards := by
  unfold Warp.retire Warp.finish Warp.mark; split <;> rfl
@[simp] theorem Warp.retire_qbind (w : Warp) (n : Nat) (sw : Bool) : (w.retire n sw).qbind = w.qbind := by
  unfold Warp.retire Warp.finish Warp.mark; split <;> rfl
@[simp] theorem Warp.retire_draw (w : Warp) (n : Nat) (sw : Bool) : (w.retire n sw).draw = w.draw := by
  unfold Warp.retire Warp.finish Warp.mark; split <;> rfl
@[simp] theorem Warp.retire_qids (w : Warp) (n : Nat) (sw : Bool) : (w.retire n sw).qids = w.qids := by
  unfold Warp.retire Warp.finish Warp.mark; split <;> rfl
@[simp] theorem Warp.retire_member (w : Warp) (n : Nat) (sw : Bool) : (w.retire n sw).member = w.member := by
  unfold Warp.retire Warp.finish Warp.mark; split <;> rfl
@[simp] theorem Warp.retire_batch (w : Warp) (n : Nat) (sw : Bool) : (w.retire n sw).batch = w.batch := by
  unfold Warp.retire Warp.finish Warp.mark; split <;> rfl
@[simp] theorem Warp.retire_batches (w : Warp) (n : Nat) (sw : Bool) : (w.retire n sw).batches = w.batches := by
  unfold Warp.retire Warp.finish Warp.mark; split <;> rfl
@[simp] theorem Warp.retire_openCopies (w : Warp) (n : Nat) (sw : Bool) : (w.retire n sw).openCopies = w.openCopies := by
  unfold Warp.retire Warp.finish Warp.mark; split <;> rfl
@[simp] theorem Warp.retire_statusPort (w : Warp) (n : Nat) (sw : Bool) : (w.retire n sw).statusPort = w.statusPort := by
  unfold Warp.retire Warp.finish Warp.mark; split <;> rfl
@[simp] theorem Warp.retire_arrivals (w : Warp) (n : Nat) (sw : Bool) : (w.retire n sw).arrivals = w.arrivals := by
  unfold Warp.retire Warp.finish Warp.mark; split <;> rfl
@[simp] theorem Warp.retire_txState (w : Warp) (n : Nat) (sw : Bool) : (w.retire n sw).txState = w.txState := by
  unfold Warp.retire Warp.finish Warp.mark; split <;> rfl
@[simp] theorem Warp.retire_txStart (w : Warp) (n : Nat) (sw : Bool) : (w.retire n sw).txStart = w.txStart := by
  unfold Warp.retire Warp.finish Warp.mark; split <;> rfl
@[simp] theorem Warp.retire_txLines (w : Warp) (n : Nat) (sw : Bool) : (w.retire n sw).txLines = w.txLines := by
  unfold Warp.retire Warp.finish Warp.mark; split <;> rfl
@[simp] theorem Warp.retire_txCode (w : Warp) (n : Nat) (sw : Bool) : (w.retire n sw).txCode = w.txCode := by
  unfold Warp.retire Warp.finish Warp.mark; split <;> rfl
@[simp] theorem Warp.retire_txConf (w : Warp) (n : Nat) (sw : Bool) : (w.retire n sw).txConf = w.txConf := by
  unfold Warp.retire Warp.finish Warp.mark; split <;> rfl
@[simp] theorem Warp.retire_txWait (w : Warp) (n : Nat) (sw : Bool) : (w.retire n sw).txWait = w.txWait := by
  unfold Warp.retire Warp.finish Warp.mark; split <;> rfl
@[simp] theorem Warp.retire_snapIx (w : Warp) (n : Nat) (sw : Bool) : (w.retire n sw).snapIx = w.snapIx := by
  unfold Warp.retire Warp.finish Warp.mark; split <;> rfl
@[simp] theorem Warp.retire_reissue (w : Warp) (n : Nat) (sw : Bool) : (w.retire n sw).reissue = w.reissue := by
  unfold Warp.retire Warp.finish Warp.mark; split <;> rfl
@[simp] theorem Warp.retire_watch (w : Warp) (n : Nat) (sw : Bool) : (w.retire n sw).watch = w.watch := by
  unfold Warp.retire Warp.finish Warp.mark; split <;> rfl
@[simp] theorem Warp.retire_trapWatch (w : Warp) (n : Nat) (sw : Bool) : (w.retire n sw).trapWatch = w.trapWatch := by
  unfold Warp.retire Warp.finish Warp.mark; split <;> rfl
@[simp] theorem Warp.retire_pending (w : Warp) (n : Nat) (sw : Bool) : (w.retire n sw).pending = w.pending := by
  unfold Warp.retire Warp.finish Warp.mark; split <;> rfl
@[simp] theorem Warp.retire_records (w : Warp) (n : Nat) (sw : Bool) : (w.retire n sw).records = w.records := by
  unfold Warp.retire Warp.finish Warp.mark; split <;> rfl
@[simp] theorem Warp.retire_skipBreak (w : Warp) (n : Nat) (sw : Bool) : (w.retire n sw).skipBreak = w.skipBreak := by
  unfold Warp.retire Warp.finish Warp.mark; split <;> rfl
@[simp] theorem Warp.retire_stepping (w : Warp) (n : Nat) (sw : Bool) : (w.retire n sw).stepping = w.stepping := by
  unfold Warp.retire Warp.finish Warp.mark; split <;> rfl
@[simp] theorem Warp.retire_marked (w : Warp) (n : Nat) (sw : Bool) : (w.retire n sw).marked = w.marked := by
  unfold Warp.retire Warp.finish Warp.mark; split <;> rfl
@[simp] theorem Warp.retire_waitBand (w : Warp) (n : Nat) (sw : Bool) : (w.retire n sw).waitBand = w.waitBand := by
  unfold Warp.retire Warp.finish Warp.mark; split <;> rfl
@[simp] theorem Warp.retire_waitPort (w : Warp) (n : Nat) (sw : Bool) : (w.retire n sw).waitPort = w.waitPort := by
  unfold Warp.retire Warp.finish Warp.mark; split <;> rfl
@[simp] theorem Warp.retire_waitIds (w : Warp) (n : Nat) (sw : Bool) : (w.retire n sw).waitIds = w.waitIds := by
  unfold Warp.retire Warp.finish Warp.mark; split <;> rfl
@[simp] theorem Warp.retire_deferred (w : Warp) (n : Nat) (sw : Bool) : (w.retire n sw).deferred = w.deferred := by
  unfold Warp.retire Warp.finish Warp.mark; split <;> rfl
@[simp] theorem Warp.retire_bandsBefore (w : Warp) (n : Nat) (sw : Bool) : (w.retire n sw).bandsBefore = w.bandsBefore := by
  unfold Warp.retire Warp.finish Warp.mark; split <;> rfl
@[simp] theorem Warp.retire_pins (w : Warp) (n : Nat) (sw : Bool) : (w.retire n sw).pins = w.pins := by
  unfold Warp.retire Warp.finish Warp.mark; split <;> rfl
@[simp] theorem Warp.retire_fence (w : Warp) (n : Nat) (sw : Bool) : (w.retire n sw).fence = w.fence := by
  unfold Warp.retire Warp.finish Warp.mark; split <;> rfl
@[simp] theorem Warp.retire_relFence (w : Warp) (n : Nat) (sw : Bool) : (w.retire n sw).relFence = w.relFence := by
  unfold Warp.retire Warp.finish Warp.mark; split <;> rfl
@[simp] theorem Warp.retire_acqV (w : Warp) (n : Nat) (sw : Bool) : (w.retire n sw).acqV = w.acqV := by
  unfold Warp.retire Warp.finish Warp.mark; split <;> rfl
@[simp] theorem Warp.retire_acqX (w : Warp) (n : Nat) (sw : Bool) : (w.retire n sw).acqX = w.acqX := by
  unfold Warp.retire Warp.finish Warp.mark; split <;> rfl
@[simp] theorem Warp.retire_service (w : Warp) (n : Nat) (sw : Bool) : (w.retire n sw).service = w.service := by
  unfold Warp.retire Warp.finish Warp.mark; split <;> rfl
@[simp] theorem Warp.retire_since (w : Warp) (n : Nat) (sw : Bool) : (w.retire n sw).since = w.since := by
  unfold Warp.retire Warp.finish Warp.mark; split <;> rfl
@[simp] theorem Warp.retire_waited (w : Warp) (n : Nat) (sw : Bool) : (w.retire n sw).waited = w.waited := by
  unfold Warp.retire Warp.finish Warp.mark; split <;> rfl
@[simp] theorem Warp.retire_limit (w : Warp) (n : Nat) (sw : Bool) : (w.retire n sw).limit = w.limit := by
  unfold Warp.retire Warp.finish Warp.mark; split <;> rfl
@[simp] theorem Warp.retire_stalls (w : Warp) (n : Nat) (sw : Bool) : (w.retire n sw).stalls = w.stalls := by
  unfold Warp.retire Warp.finish Warp.mark; split <;> rfl
@[simp] theorem Warp.retire_passed (w : Warp) (n : Nat) (sw : Bool) : (w.retire n sw).passed = w.passed := by
  unfold Warp.retire Warp.finish Warp.mark; split <;> rfl
@[simp] theorem Warp.retire_team (w : Warp) (n : Nat) (sw : Bool) : (w.retire n sw).team = w.team := by
  unfold Warp.retire Warp.finish Warp.mark; split <;> rfl
@[simp] theorem Warp.retire_index (w : Warp) (n : Nat) (sw : Bool) : (w.retire n sw).index = w.index := by
  unfold Warp.retire Warp.finish Warp.mark; split <;> rfl
@[simp] theorem Warp.retire_ctx (w : Warp) (n : Nat) (sw : Bool) : (w.retire n sw).ctx = w.ctx := by
  unfold Warp.retire Warp.finish Warp.mark; split <;> rfl
@[simp] theorem Warp.retire_pc (w : Warp) (n : Nat) (sw : Bool) : (w.retire n sw).pc = w.pc + BitVec.ofNat 64 n := by
  unfold Warp.retire Warp.finish Warp.mark; split <;> rfl
@[simp] theorem Warp.retire_done (w : Warp) (n : Nat) (sw : Bool) : (w.retire n sw).done = 0 := by
  unfold Warp.retire Warp.finish Warp.mark; split <;> rfl
@[simp] theorem Warp.retire_waiting (w : Warp) (n : Nat) (sw : Bool) : (w.retire n sw).waiting = 0 := by
  unfold Warp.retire Warp.finish Warp.mark; split <;> rfl
@[simp] theorem Warp.retire_replay (w : Warp) (n : Nat) (sw : Bool) : (w.retire n sw).replay = false := by
  unfold Warp.retire Warp.finish Warp.mark; split <;> rfl
@[simp] theorem Warp.retire_ir (w : Warp) (n : Nat) (sw : Bool) : (w.retire n sw).ir = none := by
  unfold Warp.retire Warp.finish Warp.mark; split <;> rfl
@[simp] theorem Warp.retire_held (w : Warp) (n : Nat) (sw : Bool) : (w.retire n sw).held = false := by
  unfold Warp.retire Warp.finish Warp.mark; split <;> rfl
@[simp] theorem Warp.retire_stored (w : Warp) (n : Nat) (sw : Bool) : (w.retire n sw).stored = [] := by
  unfold Warp.retire Warp.finish Warp.mark; split <;> rfl
@[simp] theorem Warp.retire_promotes (w : Warp) (n : Nat) (sw : Bool) : (w.retire n sw).promotes = [] := by
  unfold Warp.retire Warp.finish Warp.mark; split <;> rfl
@[simp] theorem Warp.retire_entries (w : Warp) (n : Nat) (sw : Bool) : (w.retire n sw).entries = [] := by
  unfold Warp.retire Warp.finish Warp.mark; split <;> rfl
@[simp] theorem Warp.retire_counted (w : Warp) (n : Nat) (sw : Bool) : (w.retire n sw).counted = [] := by
  unfold Warp.retire Warp.finish Warp.mark; split <;> rfl
@[simp] theorem Warp.retire_snapWait (w : Warp) (n : Nat) (sw : Bool) : (w.retire n sw).snapWait = none := by
  unfold Warp.retire Warp.finish Warp.mark; split <;> rfl

end Sys2Proof.Machine
end

