-- ==== Sys2Proof/Laws/Tab.lean ====
section
/-! SUPPORT. Laws of the sparse tables: a read after a write, and the canonical form. -/

namespace Sys2Proof.Machine

theorem Tab.get_put_same {α : Type} (d : α) (t : Tab α) (n : Nat) (v : α) : Tab.get d (Tab.put n v t) n = v := by
  induction t with
  | nil => simp [Tab.put, Tab.get]
  | cons e t ih =>
    obtain ⟨k, w⟩ := e
    simp only [Tab.put]
    split
    · simp [Tab.get]
    · split
      · simp [Tab.get]
      · simp [Tab.get, *]

theorem Tab.get_put_ne {α : Type} (d : α) (t : Tab α) (n m : Nat) (v : α) (h : m ≠ n) :
    Tab.get d (Tab.put n v t) m = Tab.get d t m := by
  induction t with
  | nil => simp [Tab.put, Tab.get, h]
  | cons e t ih =>
    obtain ⟨k, w⟩ := e
    simp only [Tab.put]
    split
    · subst k; simp [Tab.get, h]
    · split
      · simp [Tab.get, h]
      · simp [Tab.get, ih]

theorem Tab.get_del_same {α : Type} (d : α) (t : Tab α) (n : Nat) : Tab.get d (Tab.del n t) n = d := by
  induction t with
  | nil => rfl
  | cons e t ih =>
    obtain ⟨k, w⟩ := e
    simp only [Tab.del]
    split
    · exact ih
    · simp [Tab.get, *]

theorem Tab.get_del_ne {α : Type} (d : α) (t : Tab α) (n m : Nat) (h : m ≠ n) :
    Tab.get d (Tab.del n t) m = Tab.get d t m := by
  induction t with
  | nil => rfl
  | cons e t ih =>
    obtain ⟨k, w⟩ := e
    simp only [Tab.del]
    split
    · subst k; simpa [Tab.get, h] using ih
    · simp [Tab.get, ih]

/-- A read after a write, at any key. -/
theorem Tab.get_set {α : Type} [DecidableEq α] (d : α) (t : Tab α) (n m : Nat) (v : α) :
    Tab.get d (Tab.set d t n v) m = if m = n then v else Tab.get d t m := by
  unfold Tab.set
  by_cases hv : v = d <;> by_cases h : m = n
  · subst h; simp [hv, Tab.get_del_same]
  · simp [hv, h, Tab.get_del_ne]
  · subst h; simp [hv, Tab.get_put_same]
  · simp [hv, h, Tab.get_put_ne]

@[simp] theorem Tab.get_set_same {α : Type} [DecidableEq α] (d : α) (t : Tab α) (n : Nat) (v : α) :
    Tab.get d (Tab.set d t n v) n = v := by simp [Tab.get_set]

theorem Tab.get_set_ne {α : Type} [DecidableEq α] (d : α) (t : Tab α) (n m : Nat) (v : α) (h : m ≠ n) :
    Tab.get d (Tab.set d t n v) m = Tab.get d t m := by simp [Tab.get_set, h]

/-- A read after a run of writes. -/
theorem Tab.get_setRun {α : Type} [DecidableEq α] (d : α) (vs : List α) (t : Tab α) (n m : Nat) :
    Tab.get d (Tab.setRun d t n vs) m = if h : n ≤ m ∧ m - n < vs.length then vs[m - n]'h.2 else Tab.get d t m := by
  induction vs generalizing t n with
  | nil => simp [Tab.setRun]
  | cons v vs ih =>
    rw [Tab.setRun, ih]
    by_cases h : n + 1 ≤ m ∧ m - (n + 1) < vs.length
    · have h' : n ≤ m ∧ m - n < (v :: vs).length := by simp; omega
      have e : m - n = (m - (n + 1)) + 1 := by omega
      rw [dif_pos h, dif_pos h']
      simp only [e, List.getElem_cons_succ]
    · rw [dif_neg h, Tab.get_set]
      by_cases hm : m = n
      · subst hm; simp
      · have h' : ¬ (n ≤ m ∧ m - n < (v :: vs).length) := by simp; omega
        rw [dif_neg h', if_neg hm]

/-- Keys outside a run of writes read as before. -/
theorem Tab.get_setRun_out {α : Type} [DecidableEq α] (d : α) (vs : List α) (t : Tab α) (n m : Nat)
    (h : m < n ∨ n + vs.length ≤ m) : Tab.get d (Tab.setRun d t n vs) m = Tab.get d t m := by
  rw [Tab.get_setRun, dif_neg (by omega)]

/-! ### The canonical form -/

theorem Tab.rising_put {α : Type} (n : Nat) (v : α) (t : Tab α) (o : Option Nat)
    (h : Tab.rising o t = true) (ho : ∀ l, o = some l → l < n) : Tab.rising o (Tab.put n v t) = true := by
  induction t generalizing o with
  | nil => cases o <;> simp [Tab.put, Tab.rising]; exact ho _ rfl
  | cons e t ih =>
    obtain ⟨k, w⟩ := e
    simp only [Tab.put]
    split
    · subst k; cases o <;> simpa [Tab.rising] using h
    · split
      · cases o with
        | none => simp [Tab.rising] at h ⊢; exact ⟨by assumption, h⟩
        | some l => simp [Tab.rising] at h ⊢; exact ⟨ho _ rfl, by assumption, h.2⟩
      · cases o with
        | none =>
          simp only [Tab.rising] at h ⊢
          exact ih (some k) h (by intro l hl; cases hl; omega)
        | some l =>
          simp only [Tab.rising, Bool.and_eq_true] at h ⊢
          exact ⟨h.1, ih (some k) h.2 (by intro l hl; cases hl; omega)⟩

theorem Tab.rising_weaken {α : Type} (t : Tab α) (a b : Nat) (h : Tab.rising (some b) t = true) (hab : a ≤ b) :
    Tab.rising (some a) t = true := by
  cases t with
  | nil => rfl
  | cons e t =>
    obtain ⟨k, w⟩ := e
    simp only [Tab.rising, Bool.and_eq_true, decide_eq_true_eq] at h ⊢
    exact ⟨by omega, h.2⟩

theorem Tab.rising_none {α : Type} (t : Tab α) (a : Nat) (h : Tab.rising (some a) t = true) :
    Tab.rising none t = true := by
  cases t with
  | nil => rfl
  | cons e t =>
    obtain ⟨k, w⟩ := e
    simp only [Tab.rising, Bool.and_eq_true] at h ⊢
    exact h.2

/-- Leaving entries out keeps the keys rising. -/
theorem Tab.rising_filter {α : Type} (p : Nat × α → Bool) (t : Tab α) (o : Option Nat) (h : Tab.rising o t = true) :
    Tab.rising o (List.filter p t) = true := by
  induction t generalizing o with
  | nil => exact h
  | cons e t ih =>
    obtain ⟨k, w⟩ := e
    rw [List.filter_cons]
    cases o with
    | none =>
      simp only [Tab.rising] at h
      split
      · exact ih (some k) h
      · exact Tab.rising_none _ _ (ih (some k) h)
    | some l =>
      simp only [Tab.rising, Bool.and_eq_true, decide_eq_true_eq] at h
      split
      · simpa [Tab.rising, h.1] using ih (some k) h.2
      · exact Tab.rising_weaken _ _ _ (ih (some k) h.2) (by omega)

/-- Changing values keeps the keys rising. -/
theorem Tab.rising_map {α β : Type} (f : Nat × α → β) (t : Tab α) (o : Option Nat) (h : Tab.rising o t = true) :
    Tab.rising o (List.map (fun e => (e.1, f e)) t) = true := by
  induction t generalizing o with
  | nil => cases o <;> rfl
  | cons e t ih =>
    obtain ⟨k, w⟩ := e
    cases o with
    | none => simp only [Tab.rising, List.map_cons] at h ⊢; exact ih _ h
    | some l =>
      simp only [Tab.rising, List.map_cons, Bool.and_eq_true] at h ⊢
      exact ⟨h.1, ih _ h.2⟩

theorem Tab.del_eq_filter {α : Type} (n : Nat) (t : Tab α) : Tab.del n t = List.filter (fun e => decide (n ≠ e.1)) t := by
  induction t with
  | nil => rfl
  | cons e t ih =>
    obtain ⟨k, w⟩ := e
    by_cases h : n = k
    · subst h; simpa [Tab.del] using ih
    · simp [Tab.del, h, ih]

theorem Tab.all_put {α : Type} (p : Nat × α → Bool) (n : Nat) (v : α) (t : Tab α) (h : t.all p = true)
    (hv : p (n, v) = true) : (Tab.put n v t).all p = true := by
  induction t with
  | nil => simpa [Tab.put] using hv
  | cons e t ih =>
    obtain ⟨k, w⟩ := e
    simp only [List.all_cons, Bool.and_eq_true] at h
    simp only [Tab.put]
    split
    · subst k; simp [hv, h.2]
    · split
      · simp [hv, h.1, h.2]
      · simp [h.1, ih h.2]

/-- Leaving entries out keeps the canonical form. -/
theorem Tab.wf_filter {α : Type} [DecidableEq α] (d : α) (p : Nat × α → Bool) (t : Tab α) (h : Tab.wf d t = true) :
    Tab.wf d (List.filter p t) = true := by
  simp only [Tab.wf, Bool.and_eq_true] at h ⊢
  refine ⟨Tab.rising_filter _ _ _ h.1, ?_⟩
  rw [List.all_eq_true] at h ⊢
  exact fun e he => h.2 e (List.mem_filter.1 he).1

theorem Tab.wf_drop {α : Type} [DecidableEq α] (d : α) (p : Nat → Bool) (t : Tab α) (h : Tab.wf d t = true) :
    Tab.wf d (Tab.drop p t) = true := Tab.wf_filter _ _ _ h

/-- A write keeps the canonical form. -/
theorem Tab.wf_set {α : Type} [DecidableEq α] (d : α) (t : Tab α) (n : Nat) (v : α) (h : Tab.wf d t = true) :
    Tab.wf d (Tab.set d t n v) = true := by
  unfold Tab.set
  split
  · rw [Tab.del_eq_filter]; exact Tab.wf_filter _ _ _ h
  · simp only [Tab.wf, Bool.and_eq_true] at h ⊢
    exact ⟨Tab.rising_put _ _ _ _ h.1 (by simp), Tab.all_put _ _ _ _ h.2 (by simpa using ‹¬ v = d›)⟩

/-- A run of writes keeps the canonical form. -/
theorem Tab.wf_setRun {α : Type} [DecidableEq α] (d : α) (vs : List α) (t : Tab α) (n : Nat) (h : Tab.wf d t = true) :
    Tab.wf d (Tab.setRun d t n vs) = true := by
  induction vs generalizing t n with
  | nil => exact h
  | cons v vs ih => exact ih _ _ (Tab.wf_set _ _ _ _ h)

/-- Changing values and leaving out the entries that became the default gives the canonical form. -/
theorem Tab.wf_map_filter {α : Type} [DecidableEq α] (d : α) (f : Nat × α → α) (t : Tab α) (h : Tab.wf d t = true) :
    Tab.wf d (List.filter (fun e => decide (e.2 ≠ d)) (List.map (fun e => (e.1, f e)) t)) = true := by
  simp only [Tab.wf, Bool.and_eq_true] at h ⊢
  exact ⟨Tab.rising_filter _ _ _ (Tab.rising_map _ _ _ h.1), by simp⟩

theorem Tab.get_low {α : Type} (d : α) (t : Tab α) (l n : Nat) (h : Tab.rising (some l) t = true) (hn : n ≤ l) :
    Tab.get d t n = d := by
  induction t generalizing l with
  | nil => rfl
  | cons e t ih =>
    obtain ⟨k, w⟩ := e
    simp only [Tab.rising, Bool.and_eq_true, decide_eq_true_eq] at h
    rw [Tab.get, if_neg (by omega)]
    exact ih k h.2 (by omega)

theorem Tab.ext_aux {α : Type} [DecidableEq α] (d : α) (t : Tab α) : ∀ (u : Tab α) (o : Option Nat),
    Tab.rising o t = true → Tab.rising o u = true → (∀ e ∈ t, e.2 ≠ d) → (∀ e ∈ u, e.2 ≠ d) →
    (∀ n, Tab.get d t n = Tab.get d u n) → t = u := by
  induction t with
  | nil =>
    intro u o _ _ _ hu hr
    cases u with
    | nil => rfl
    | cons e u =>
      have := hr e.1
      simp only [Tab.get, if_true] at this
      exact absurd this.symm (hu e (by simp))
  | cons e t ih =>
    intro u o ht hu hdt hdu hr
    have htl : Tab.rising (some e.1) t = true := by
      cases o <;> simp only [Tab.rising, Bool.and_eq_true] at ht
      · exact ht
      · exact ht.2
    cases u with
    | nil =>
      have := hr e.1
      simp only [Tab.get, if_true] at this
      exact absurd this (hdt e (by simp))
    | cons f u =>
      have hul : Tab.rising (some f.1) u = true := by
        cases o <;> simp only [Tab.rising, Bool.and_eq_true] at hu
        · exact hu
        · exact hu.2
      have hk : e.1 = f.1 := by
        by_contra hne
        rcases Nat.lt_or_gt_of_ne hne with hlt | hlt
        · have := hr e.1
          simp only [Tab.get, if_true, if_neg hne] at this
          rw [Tab.get_low d u f.1 e.1 hul (by omega)] at this
          exact hdt e (by simp) this
        · have := hr f.1
          simp only [Tab.get, if_true, if_neg (Ne.symm hne)] at this
          rw [Tab.get_low d t e.1 f.1 htl (by omega)] at this
          exact hdu f (by simp) this.symm
      have hv : e.2 = f.2 := by
        have := hr e.1
        simpa only [Tab.get, if_true, if_pos hk] using this
      have htu : t = u := by
        refine ih u (some e.1) htl (hk ▸ hul) (fun x hx => hdt x (by simp [hx])) (fun x hx => hdu x (by simp [hx])) ?_
        intro n
        by_cases hn : n = e.1
        · subst hn
          rw [Tab.get_low d t e.1 e.1 htl (Nat.le_refl _), Tab.get_low d u f.1 e.1 hul (by omega)]
        · have := hr n
          simpa only [Tab.get, if_neg hn, if_neg (hk ▸ hn : ¬ n = f.1)] using this
      rw [htu, show e = f from Prod.ext hk hv]

/-- Two canonical tables that read alike are equal: equal memories are equal data. -/
theorem Tab.ext {α : Type} [DecidableEq α] (d : α) (t u : Tab α) (ht : Tab.wf d t = true) (hu : Tab.wf d u = true)
    (h : ∀ n, Tab.get d t n = Tab.get d u n) : t = u := by
  simp only [Tab.wf, Bool.and_eq_true, List.all_eq_true, decide_eq_true_eq] at ht hu
  exact Tab.ext_aux d t u none ht.1 hu.1 ht.2 hu.2 h

end Sys2Proof.Machine
end

