-- ==== Sys2Proof/Laws/Ops.lean ====
section
/-! SUPPORT. Laws of the shared operations: a part of the state read after a write, registers, memory, retiring, and taking an
exception. -/

namespace Sys2Proof.Machine

/-! ### Parts by number -/

theorem State.warp_setWarp (s : State) (k j : Nat) (w : Warp) :
    (s.setWarp k w).warp j = if j = k then w else s.warp j := Tab.get_set _ _ _ _ _
@[simp] theorem State.warp_setWarp_same (s : State) (k : Nat) (w : Warp) : (s.setWarp k w).warp k = w := by
  simp [State.warp_setWarp]
@[simp] theorem State.w_upd (s : State) (f : Warp → Warp) : (s.upd f).w = f s.w := by
  simp [State.w, State.upd]
theorem State.warp_upd_ne (s : State) (f : Warp → Warp) (k : Nat) (h : k ≠ s.cur) : (s.upd f).warp k = s.warp k := by
  simp [State.upd, State.warp_setWarp, h]
@[simp] theorem State.team_upd (s : State) (f : Warp → Warp) (k : Nat) : (s.upd f).team k = s.team k := rfl
@[simp] theorem State.core_upd (s : State) (f : Warp → Warp) (k : Nat) : (s.upd f).core k = s.core k := rfl
@[simp] theorem State.ctx_upd (s : State) (f : Warp → Warp) (c : CtxId) : (s.upd f).ctx c = s.ctx c := rfl
@[simp] theorem State.byte_upd (s : State) (f : Warp → Warp) (a : Nat) : (s.upd f).byte a = s.byte a := rfl
theorem State.team_setTeam (s : State) (k j : Nat) (t : Team) :
    (s.setTeam k t).team j = if j = k then t else s.team j := Tab.get_set _ _ _ _ _
theorem State.core_setCore (s : State) (k j : Nat) (t : Core) :
    (s.setCore k t).core j = if j = k then t else s.core j := Tab.get_set _ _ _ _ _
theorem State.reg_setReg (s : State) (o p : Nat) (v : DWord) :
    (s.setReg o v).reg p = if p = o then v else s.reg p := Tab.get_set _ _ _ _ _
theorem State.ctx_setCtx (s : State) (c d : CtxId) (x : Ctx) :
    (s.setCtx c x).ctx d = if d = c then x else s.ctx d := by
  unfold State.setCtx State.ctx
  rw [Tab.get_set]
  by_cases h : d = c
  · simp [h]
  · rw [if_neg h, if_neg (fun e => h (BitVec.eq_of_toNat_eq e))]

/-! ### Memory -/

theorem State.byte_setByte (s : State) (a c : Nat) (b : Byte) :
    (s.setByte a b).byte c = if c = a then b else s.byte c := Tab.get_set _ _ _ _ _
/-- A byte outside a run of writes reads as before. -/
theorem State.byte_setBytes_out (s : State) (a c : Nat) (l : List Byte) (h : c < a ∨ a + l.length ≤ c) :
    (s.setBytes a l).byte c = s.byte c := Tab.get_setRun_out _ _ _ _ _ h
/-- A byte of a run of writes reads as written. -/
theorem State.byte_setBytes_in (s : State) (a k : Nat) (l : List Byte) (h : k < l.length) :
    (s.setBytes a l).byte (a + k) = l[k] := by
  have := Tab.get_setRun 0 l s.mem a (a + k)
  rw [dif_pos (by omega)] at this
  simpa [State.byte, State.setBytes] using this
/-- A run of bytes just written reads back. -/
theorem State.bytes_setBytes (s : State) (a : Nat) (l : List Byte) : (s.setBytes a l).bytes a l.length = l := by
  apply List.ext_getElem
  · simp [State.bytes, Tab.getRun]
  · intro k h1 h2
    have := State.byte_setBytes_in s a k l h2
    simpa [State.bytes, Tab.getRun, State.byte] using this
theorem State.wf_setByte (s : State) (a : Nat) (b : Byte) (h : Memory.wf s.mem = true) :
    Memory.wf (s.setByte a b).mem = true := Tab.wf_set _ _ _ _ h
theorem State.wf_setBytes (s : State) (a : Nat) (l : List Byte) (h : Memory.wf s.mem = true) :
    Memory.wf (s.setBytes a l).mem = true := Tab.wf_setRun _ _ _ _ h
theorem State.wf_setDword (s : State) (a : Nat) (v : DWord) (h : Memory.wf s.mem = true) :
    Memory.wf (s.setDword a v).mem = true := State.wf_setBytes _ _ _ h
theorem State.wf_setCState (s : State) (c : CtxId) (x : CState) (h : Memory.wf s.mem = true) :
    Memory.wf (s.setCState c x).mem = true := State.wf_setByte _ _ _ h

/-! ### Registers -/

theorem Warp.s_setS (w : Warp) (r q : Nat) (x : DWord) : (w.setS r x).s q = if q = r then x else w.s q :=
  Tab.get_set _ _ _ _ _
@[simp] theorem Warp.v_setS (w : Warp) (r q n : Nat) (x : DWord) : (w.setS r x).v q n = w.v q n := rfl
@[simp] theorem Warp.p_setS (w : Warp) (r q : Nat) (x : DWord) : (w.setS r x).p q = w.p q := rfl
@[simp] theorem Warp.s_setP (w : Warp) (r q : Nat) (x : Mask) : (w.setP r x).s q = w.s q := rfl
@[simp] theorem Warp.v_setP (w : Warp) (r q n : Nat) (x : Mask) : (w.setP r x).v q n = w.v q n := rfl
theorem Warp.p_setP (w : Warp) (r q : Nat) (x : Mask) :
    (w.setP r x).p q = if q = 7 then fullMask else if q = r then x else w.p q := by
  unfold Warp.p Warp.setP
  rw [Tab.get_set]
  split <;> rfl

theorem getLanes (m : Mask) (r : Nat) (f : Nat → Word) (t : Tab Word) (q n c : Nat) (hn : n < 32) (hc : c ≤ 32) :
    Tab.get 0 (putLanes m r f c t) (q * 32 + n) =
      if q = r ∧ n < c ∧ m.getLsbD n = true then f n else Tab.get 0 t (q * 32 + n) := by
  induction c with
  | zero => simp [putLanes]
  | succ c ih =>
    have ih := ih (by omega)
    simp only [putLanes]
    by_cases hm : m.getLsbD c = true
    · rw [if_pos hm, Tab.get_set]
      by_cases he : q * 32 + n = r * 32 + c
      · have : q = r := by omega
        have : n = c := by omega
        subst_vars
        simp [hm]
      · rw [if_neg he, ih]
        by_cases hq : q = r
        · have : n ≠ c := by omega
          have : (n < c + 1) = (n < c) := by simp; omega
          simp [hq, this]
        · simp [hq]
    · rw [if_neg hm, ih]
      by_cases hq : n = c
      · subst hq; simp [hm]
      · have : (n < c + 1) = (n < c) := by simp; omega
        simp [this]

/-- A vector register after a write of some lanes of a register. -/
theorem Warp.v_setLanes (w : Warp) (m : Mask) (r q n : Nat) (f : Nat → Word) (hn : n < 32) :
    (w.setLanes m r f).v q n = if q = r ∧ m.getLsbD n = true then f n else w.v q n := by
  have := getLanes m r f w.vregs q n 32 hn (Nat.le_refl _)
  simpa [Warp.v, Warp.setLanes, hn] using this
@[simp] theorem Warp.s_setLanes (w : Warp) (m : Mask) (r q : Nat) (f : Nat → Word) : (w.setLanes m r f).s q = w.s q := rfl
@[simp] theorem Warp.p_setLanes (w : Warp) (m : Mask) (r q : Nat) (f : Nat → Word) : (w.setLanes m r f).p q = w.p q := rfl
@[simp] theorem Warp.v_retire (w : Warp) (k : Nat) (sw : Bool) (q n : Nat) : (w.retire k sw).v q n = w.v q n := by
  simp [Warp.v]
@[simp] theorem Warp.s_retire (w : Warp) (k : Nat) (sw : Bool) (q : Nat) : (w.retire k sw).s q = w.s q := by
  simp [Warp.s]
@[simp] theorem Warp.p_retire (w : Warp) (k : Nat) (sw : Bool) (q : Nat) : (w.retire k sw).p q = w.p q := by
  simp [Warp.p]
@[simp] theorem Warp.parts_setLanes (w : Warp) (m : Mask) (r : Nat) (f : Nat → Word) (h : Hdr) :
    (w.setLanes m r f).parts h = w.parts h := rfl

theorem Warp.mark_stat (w : Warp) (sw : Bool) :
    (w.mark sw).stat = (if sw && !w.pending.isEmpty then .parked else .ready) ∧
    (w.mark sw).reason = (if sw && !w.pending.isEmpty then 1 else 0) := by
  unfold Warp.mark
  by_cases h : (sw && !w.pending.isEmpty) = true
  · rw [if_pos h, if_pos h, if_pos h]; exact ⟨rfl, rfl⟩
  · rw [if_neg h, if_neg h, if_neg h]; exact ⟨rfl, rfl⟩

/-- A retired warp is Ready, or parked for its long results where the instruction carries SW (R139). -/
theorem Warp.retire_stat (w : Warp) (k : Nat) (sw : Bool) :
    (w.retire k sw).stat = (if sw && !w.pending.isEmpty then .parked else .ready) ∧
    (w.retire k sw).reason = (if sw && !w.pending.isEmpty then 1 else 0) := Warp.mark_stat _ sw

end Sys2Proof.Machine
end

