-- ==== Sys2Proof/Laws/Lanes.lean ====
section
/-! SUPPORT. Laws of instructions that may be held, of the canopies' copies and leases, and of the shared writes of memory. -/

namespace Sys2Proof.Machine

/-! ### Memory instructions that may be held (R137, R199, R368) -/

/-- All that a memory instruction can answer: held with nothing else changed, or performed, which ends the waiting of that
path. -/
theorem State.memory_cases (s t : State) (p : Nat) (f : State → State) (h : s.memory p f = .next t) :
    s.fenceHolds p = true ∧ t = s.hold ∨ s.fenceHolds p = false ∧ t = f (s.passFence p) := by
  unfold State.memory at h
  by_cases c : s.fenceHolds p = true
  · rw [if_pos c] at h
    exact .inl ⟨c, by injection h with h; exact h.symm⟩
  · rw [if_neg c] at h
    exact .inr ⟨by simpa using c, by injection h with h; exact h.symm⟩
theorem State.memory_held (s : State) (p : Nat) (f : State → State) (h : s.fenceHolds p = true) :
    s.memory p f = .next s.hold := if_pos h
theorem State.memory_free (s : State) (p : Nat) (f : State → State) (h : s.fenceHolds p = false) :
    s.memory p f = .next (f (s.passFence p)) := if_neg (by simp [h])

@[simp] theorem State.w_hold (s : State) : s.hold.w = { s.w with held := true } := State.w_upd _ _
/-- Held, an instruction leaves every other warp as it was. -/
theorem State.warp_hold_ne (s : State) (k : Nat) (h : k ≠ s.cur) : s.hold.warp k = s.warp k := State.warp_upd_ne _ _ _ h
@[simp] theorem State.mem_hold (s : State) : s.hold.mem = s.mem := rfl
@[simp] theorem State.remotes_hold (s : State) : s.hold.remotes = s.remotes := rfl
@[simp] theorem State.cur_hold (s : State) : s.hold.cur = s.cur := rfl
@[simp] theorem State.w_passFence (s : State) (p : Nat) : (s.passFence p).w = { s.w with fence := s.w.fence.pass p } :=
  State.w_upd _ _
@[simp] theorem State.mem_passFence (s : State) (p : Nat) : (s.passFence p).mem = s.mem := rfl
@[simp] theorem State.cur_passFence (s : State) (p : Nat) : (s.passFence p).cur = s.cur := rfl

/-- A FENCE that holds nothing on a path any more holds nothing there later either, whatever is outstanding by then. -/
theorem State.fenceHolds_passFence (s : State) (p : Nat) : (s.passFence p).fenceHolds p = false := by
  unfold State.fenceHolds
  by_cases h : p = 0 <;> simp [h, FenceHold.pass]
/-- A warp with no FENCE and no acquire to wait for is not held. -/
theorem State.fenceHolds_none (s : State) (p : Nat) (h : s.w.fence = {}) : s.fenceHolds p = false := by
  unfold State.fenceHolds
  by_cases c : p = 0 <;> simp [h, c]

/-! ### Copies and leases (R356, R370) -/

@[simp] theorem State.mem_dropCopies (s : State) (c : CtxId) (d : Nat) (all : Bool) : (s.dropCopies c d all).mem = s.mem := rfl
@[simp] theorem State.warp_dropCopies (s : State) (c : CtxId) (d k : Nat) (all : Bool) :
    (s.dropCopies c d all).warp k = s.warp k := rfl
@[simp] theorem State.mem_acquireOf (s : State) (k r : Nat) : (s.acquireOf k r).mem = s.mem := by
  unfold State.acquireOf; split <;> rfl
@[simp] theorem State.warp_acquireOf (s : State) (k j r : Nat) : (s.acquireOf k r).warp j = s.warp j := by
  unfold State.acquireOf; split <;> rfl
theorem State.die_setDie (s : State) (k j : Nat) (d : Die) : (s.setDie k d).die j = if j = k then d else s.die j :=
  Tab.get_set _ _ _ _ _
/-- An acquire at `.clearing` leaves the warp's die no copy of its context (R370). -/
theorem State.acquireOf_clearing (s : State) (k : Nat) :
    ∀ e ∈ ((s.acquireOf k 3).die (dieOf (coreOf k))).copies, ∀ b, e.2 ≠ some ((s.warp k).ctx, b) := by
  intro e he b hb
  rw [State.acquireOf, if_neg (by decide), State.dropCopies, State.die_setDie, if_pos rfl] at he
  have := (List.mem_filter.mp he).2
  simp [hb] at this
@[simp] theorem State.mem_storeCopy (s : State) (d n : Nat) (p : Peer) (l : List (Nat × Byte)) :
    (s.storeCopy d p n l).mem = s.mem := rfl
@[simp] theorem State.warp_storeCopy (s : State) (d k n : Nat) (p : Peer) (l : List (Nat × Byte)) :
    (s.storeCopy d p n l).warp k = s.warp k := rfl
/-- A store to a line that another one of the die is still on its way to leaves the die no copy of it (R191). -/
theorem State.storeCopy_open (s : State) (d n : Nat) (p : Peer) (l : List (Nat × Byte)) (h : s.lineOpen d p n = true) :
    s.storeCopy d p n l = s.dropCopy d p n := by simp [State.storeCopy, State.dropCopy, h]
@[simp] theorem State.mem_endLeases (s : State) (a n : Nat) : (s.endLeases a n).mem = s.mem := rfl
@[simp] theorem State.warp_endLeases (s : State) (a n k : Nat) : (s.endLeases a n).warp k = s.warp k := rfl
/-- No lease is left on a line that a local access touches (R356). -/
theorem State.endLeases_none (s : State) (a n : Nat) :
    ∀ l ∈ (s.endLeases a n).leases, l.line < a / 128 ∨ (a + n + 127) / 128 ≤ l.line := by
  intro l h
  simpa using (List.mem_filter.mp h).2

/-! ### The canonical form of memory -/

theorem State.wf_foldl {α : Type} (f : State → α → State) (l : List α)
    (hf : ∀ s x, Memory.wf s.mem = true → Memory.wf (f s x).mem = true) (s : State) (h : Memory.wf s.mem = true) :
    Memory.wf (l.foldl f s).mem = true := by
  induction l generalizing s with
  | nil => exact h
  | cons x l ih => exact ih _ (hf _ _ h)
theorem State.wf_writeCells (s : State) (l : List (Nat × Byte)) (h : Memory.wf s.mem = true) :
    Memory.wf (s.writeCells l).mem = true := State.wf_foldl _ _ (fun _ _ => State.wf_setByte _ _ _) _ h
theorem State.wf_putCells (s : State) (a : Nat) (t : Tab Byte) (h : Memory.wf s.mem = true) :
    Memory.wf (s.putCells a t).mem = true := State.wf_foldl _ _ (fun _ _ => State.wf_setByte _ _ _) _ h
theorem State.wf_putNum (s : State) (a n v : Nat) (h : Memory.wf s.mem = true) :
    Memory.wf (s.putNum a n v).mem = true := State.wf_setBytes _ _ _ h
theorem State.wf_putBlock (s : State) (a : Nat) (fs : List (Nat × Nat × Nat)) (h : Memory.wf s.mem = true) :
    Memory.wf (s.putBlock a fs).mem = true := State.wf_foldl _ _ (fun _ _ => State.wf_putNum _ _ _ _) _ h
theorem State.wf_wipe (s : State) (a n : Nat) (h : Memory.wf s.mem = true) : Memory.wf (s.wipe a n).mem = true :=
  Tab.wf_drop _ (fun k => decide (a ≤ k) && decide (k < a + n)) _ h

end Sys2Proof.Machine
end

