-- ==== Sys2Proof/Laws/Defer.lean ====
section
/-! SUPPORT. Laws of instructions that the core holds while their warp goes on (R137, R199, R233). -/

namespace Sys2Proof.Machine

@[simp] theorem Warp.deferred_finish (w : Warp) (sw : Bool) : (w.finish sw).deferred = w.deferred := by
  unfold Warp.finish Warp.mark
  split <;> rfl

/-- A warp that goes on past an instruction changes its own slot, the numbers in use and the cached translations, nothing else. -/
theorem State.letPast_cases (s : State) :
    s.letPast = s ∨ ∃ w n tlb, s.letPast = { s with nextId := n, tlb := tlb }.setWarp s.cur w ∧ w.deferred ≠ [] := by
  unfold State.letPast
  cases s.w.ir with
  | none => exact .inl rfl
  | some f =>
    dsimp only
    generalize (!s.w.held || s.w.stepping || _ || _ : Bool) = c
    cases c with
    | true => exact .inl rfl
    | false =>
      cases State.trial s f with
      | none => exact .inl rfl
      | some t =>
        refine .inr ⟨_, _, _, rfl, ?_⟩
        rw [Warp.deferred_finish]
        simp
@[simp] theorem State.mem_letPast (s : State) : s.letPast.mem = s.mem := by
  obtain h | ⟨w, n, tlb, h, -⟩ := s.letPast_cases <;> rw [h]; rfl
@[simp] theorem State.cores_letPast (s : State) : s.letPast.cores = s.cores := by
  obtain h | ⟨w, n, tlb, h, -⟩ := s.letPast_cases <;> rw [h]; rfl
theorem State.warp_letPast_ne (s : State) (k : Nat) (h : k ≠ s.cur) : s.letPast.warp k = s.warp k := by
  obtain e | ⟨w, n, tlb, e, -⟩ := s.letPast_cases <;> rw [e]
  exact (State.warp_setWarp _ _ _ _).trans (if_neg h)
/-- With nothing passed there is nothing to try. -/
theorem State.tryHeld_none (s : State) (k : Nat) (h : (s.warp k).deferred = []) : s.tryHeld k = s := by
  unfold State.tryHeld; dsimp only; rw [h]
/-- A try of a passed instruction goes on where the warp stands, but for a stop of that instruction. -/
theorem Warp.rejoin_at (w x : Warp) : (w.rejoin x).pc = w.pc ∧ (w.rejoin x).stat = w.stat ∧ (w.rejoin x).ir = w.ir ∧
    (w.rejoin x).em = w.em ∧ (w.rejoin x).preds = w.preds ∧ (w.rejoin x).sregs = w.sregs ∧ (w.rejoin x).vregs = w.vregs :=
  ⟨rfl, rfl, rfl, rfl, rfl, rfl, rfl⟩

end Sys2Proof.Machine
end

