-- ==== Sys2Proof/Laws/Encoding.lean ====
section
/-! SUPPORT. Fields of encoded words (R45 to R54): what each builder of the decoder reads from what the encoder wrote. -/

namespace Sys2Proof

theorem ex_sw {n : Nat} (x : BitVec n) (h : n = 64) (s l : Nat) : (x.setWidth 64).extractLsb' s l = x.extractLsb' s l := by
  subst h; simp
theorem bit_sw {n : Nat} (x : BitVec n) (h : n = 64) (s : Nat) : (x.setWidth 64).getLsbD s = x.getLsbD s := by
  subst h; simp
/-- The lowest field of an append. -/
theorem ex_lo {v w s l : Nat} (x : BitVec v) (y : BitVec w) (h : s = 0) (h2 : l = w) (e : BitVec l) (he : e = y.cast h2.symm) : (x ++ y).extractLsb' s l = e := by
  subst h h2 he
  rw [BitVec.extractLsb'_append_eq_of_add_le (by omega), BitVec.extractLsb'_eq_self]; simp
theorem ex_hi {v w s l : Nat} (x : BitVec v) (y : BitVec w) (k : Nat) (h : s = w + k) : (x ++ y).extractLsb' s l = x.extractLsb' k l := by
  subst h
  rw [BitVec.extractLsb'_append_eq_of_le (by omega), Nat.add_sub_cancel_left]
theorem unpack_pack (r : Raw) (h : trimExt r.len r.ext = r.ext) : unpack (pack r) r.ext = r := by
  obtain ⟨x, m, c, b, a, d, op, g, sw, len, ext⟩ := r
  have hl : (pack ⟨x, m, c, b, a, d, op, g, sw, len, ext⟩).extractLsb' 0 2 = len := by
    rw [pack, ex_sw _ (by rfl)]
    exact ex_lo _ _ rfl rfl _ rfl
  simp only [unpack, hl, Raw.mk.injEq]
  refine ⟨?_, ?_, ?_, ?_, ?_, ?_, ?_, ?_, ?_, trivial, h⟩
  · rw [pack, ex_sw _ (by rfl), ex_hi _ _ 54 rfl, ex_hi _ _ 53 rfl, ex_hi _ _ 49 rfl, ex_hi _ _ 40 rfl, ex_hi _ _ 32 rfl, ex_hi _ _ 24 rfl, ex_hi _ _ 16 rfl, ex_hi _ _ 8 rfl, ex_hi _ _ 0 rfl, BitVec.extractLsb'_eq_self]
  · rw [pack, ex_sw _ (by rfl), ex_hi _ _ 46 rfl, ex_hi _ _ 45 rfl, ex_hi _ _ 41 rfl, ex_hi _ _ 32 rfl, ex_hi _ _ 24 rfl, ex_hi _ _ 16 rfl, ex_hi _ _ 8 rfl, ex_hi _ _ 0 rfl]
    exact ex_lo _ _ rfl rfl _ rfl
  · rw [pack, ex_sw _ (by rfl), ex_hi _ _ 38 rfl, ex_hi _ _ 37 rfl, ex_hi _ _ 33 rfl, ex_hi _ _ 24 rfl, ex_hi _ _ 16 rfl, ex_hi _ _ 8 rfl, ex_hi _ _ 0 rfl]
    exact ex_lo _ _ rfl rfl _ rfl
  · rw [pack, ex_sw _ (by rfl), ex_hi _ _ 30 rfl, ex_hi _ _ 29 rfl, ex_hi _ _ 25 rfl, ex_hi _ _ 16 rfl, ex_hi _ _ 8 rfl, ex_hi _ _ 0 rfl]
    exact ex_lo _ _ rfl rfl _ rfl
  · rw [pack, ex_sw _ (by rfl), ex_hi _ _ 22 rfl, ex_hi _ _ 21 rfl, ex_hi _ _ 17 rfl, ex_hi _ _ 8 rfl, ex_hi _ _ 0 rfl]
    exact ex_lo _ _ rfl rfl _ rfl
  · rw [pack, ex_sw _ (by rfl), ex_hi _ _ 14 rfl, ex_hi _ _ 13 rfl, ex_hi _ _ 9 rfl, ex_hi _ _ 0 rfl]
    exact ex_lo _ _ rfl rfl _ rfl
  · rw [pack, ex_sw _ (by rfl), ex_hi _ _ 5 rfl, ex_hi _ _ 4 rfl, ex_hi _ _ 0 rfl]
    exact ex_lo _ _ rfl rfl _ rfl
  · rw [pack, ex_sw _ (by rfl), ex_hi _ _ 1 rfl, ex_hi _ _ 0 rfl]
    exact ex_lo _ _ rfl rfl _ rfl
  · rw [pack, bit_sw _ (by rfl), BitVec.getLsbD_append, if_neg (by decide), BitVec.getLsbD_append, if_pos (by decide)]
    cases sw <;> simp [bit1]

theorem g_ok (g : Guard) (h : g.ok = true) : g.bits ≠ 15 := by
  obtain ⟨n, p⟩ := g
  revert h; cases n <;> revert p <;> decide
theorem guard_enc (g : Guard) : (⟨g.bits.getLsbD 3, g.bits.extractLsb' 0 3⟩ : Guard) = g := by
  obtain ⟨n, p⟩ := g
  cases n <;> revert p <;> decide
section
variable (op : Nat) (len : BitVec 2) (h : Hdr) (d a b c m x : BitVec 8) (e : DWord)
theorem enc_hdr : (enc op len h d a b c m x e).hdr = h := by simp only [enc, Raw.hdr, guard_enc]
theorem enc_x : (enc op len h d a b c m x e).x = x := rfl
theorem enc_m : (enc op len h d a b c m x e).m = m := rfl
theorem enc_d : (enc op len h d a b c m x e).d = d := rfl
theorem enc_a : (enc op len h d a b c m x e).a = a := rfl
theorem enc_b : (enc op len h d a b c m x e).b = b := rfl
theorem enc_c : (enc op len h d a b c m x e).c = c := rfl
theorem enc_ext : (enc op len h d a b c m x e).ext = e := rfl
end
theorem of_ITy (x : ITy) : ITy.ofBits x.bits = .ok x := by cases x <;> rfl
theorem of_FTy (x : FTy) : FTy.ofBits x.bits = .ok x := by cases x <;> rfl
theorem of_Rnd (x : Rnd) : Rnd.ofBits x.bits = .ok x := by cases x <;> rfl
theorem of_ICond (x : ICond) : ICond.ofBits x.bits = .ok x := by cases x <;> rfl
theorem of_FCond (x : FCond) : FCond.ofBits x.bits = .ok x := by cases x <;> rfl
theorem of_XMode (x : XMode) : XMode.ofBits x.bits = .ok x := by cases x <;> rfl
theorem of_MOrd (x : MOrd) : MOrd.ofBits x.bits = x := by cases x <;> rfl
theorem of_Scope (x : Scope) : Scope.ofBits x.bits = .ok x := by cases x <;> rfl
theorem of_Size (x : Size) : Size.ofBits x.bits = .ok x := by cases x <;> rfl
theorem of_Space (x : Space) : Space.ofBits x.bits = .ok x := by cases x <;> rfl
theorem of_AOp (x : AOp) : AOp.ofBits x.bits = .ok x := by cases x <;> rfl
theorem of_MovForm (x : MovForm) : MovForm.ofBits x.bits = .ok x := by cases x <;> rfl
theorem of_CvtW (x : CvtW) : CvtW.ofBits x.bits = .ok x := by cases x <;> rfl
theorem of_VoteMode (x : VoteMode) : VoteMode.ofBits x.bits = x := by cases x <;> rfl
theorem of_RedOp (x : RedOp) : RedOp.ofBits x.bits = .ok x := by cases x <;> rfl
theorem of_AccPart (x : AccPart) : AccPart.ofBits x.bits = .ok x := by cases x <;> rfl
theorem of_CopyDir (x : CopyDir) : CopyDir.ofBits x.bits = .ok x := by cases x <;> rfl

theorem int_ty (s : Bool) (ty : ITy) (sat : Bool) (o : BitVec 3) : (intBits s ty sat o).extractLsb' 4 3 = ty.bits := by
  cases s <;> cases ty <;> cases sat <;> revert o <;> decide
theorem int_s (s : Bool) (ty : ITy) (sat : Bool) (o : BitVec 3) : (intBits s ty sat o).getLsbD 7 = s := by
  cases s <;> cases ty <;> cases sat <;> revert o <;> decide
theorem int_sat (s : Bool) (ty : ITy) (sat : Bool) (o : BitVec 3) : (intBits s ty sat o).getLsbD 3 = sat := by
  cases s <;> cases ty <;> cases sat <;> revert o <;> decide
theorem int_o (s : Bool) (ty : ITy) (sat : Bool) (o : BitVec 3) : (intBits s ty sat o).extractLsb' 0 3 = o := by
  cases s <;> cases ty <;> cases sat <;> revert o <;> decide
theorem xl_mode (x : XL) : x.bits.extractLsb' 5 3 = x.mode.bits := by
  obtain ⟨m, p⟩ := x
  cases m <;> revert p <;> decide
theorem xl_par (x : XL) : x.bits.extractLsb' 0 5 = x.par := by
  obtain ⟨m, p⟩ := x
  cases m <;> revert p <;> decide
theorem fp_ty (s f : Bool) (ty : FTy) (r : BitVec 3) : (fpBits s f ty r).extractLsb' 3 3 = ty.bits := by
  cases s <;> cases f <;> cases ty <;> revert r <;> decide
theorem fp_rnd (s f : Bool) (ty : FTy) (r : BitVec 3) : (fpBits s f ty r).extractLsb' 0 3 = r := by
  cases s <;> cases f <;> cases ty <;> revert r <;> decide
theorem fp_sat (s f : Bool) (ty : FTy) (r : BitVec 3) : (fpBits s f ty r).getLsbD 7 = s := by
  cases s <;> cases f <;> cases ty <;> revert r <;> decide
theorem fp_ftz (s f : Bool) (ty : FTy) (r : BitVec 3) : (fpBits s f ty r).getLsbD 6 = f := by
  cases s <;> cases f <;> cases ty <;> revert r <;> decide
theorem mem_s (s : Scope) (o : MOrd) (z : Size) : (memBits s o z).extractLsb' 5 3 = s.bits := by
  cases s <;> cases o <;> cases z <;> rfl
theorem mem_o (s : Scope) (o : MOrd) (z : Size) : (memBits s o z).extractLsb' 3 2 = o.bits := by
  cases s <;> cases o <;> cases z <;> rfl
theorem mem_z (s : Scope) (o : MOrd) (z : Size) : (memBits s o z).extractLsb' 0 3 = z.bits := by
  cases s <;> cases o <;> cases z <;> rfl
theorem memX_a (a : BitVec 4) (s : Bool) (p : Space) : (memX a s p).extractLsb' 4 4 = a := by
  cases s <;> cases p <;> revert a <;> decide
theorem memX_s (a : BitVec 4) (s : Bool) (p : Space) : (memX a s p).getLsbD 3 = s := by
  cases s <;> cases p <;> revert a <;> decide
theorem memX_0 (a : BitVec 4) (s : Bool) (p : Space) : (memX a s p).getLsbD 2 = false := by
  cases s <;> cases p <;> revert a <;> decide
theorem memX_p (a : BitVec 4) (s : Bool) (p : Space) : (memX a s p).extractLsb' 0 2 = p.bits := by
  cases s <;> cases p <;> revert a <;> decide
theorem imm_ext (w : Word) : (immExt w).setWidth 32 = w := by
  simp [immExt, BitVec.setWidth_setWidth_of_le]
theorem desc_fields (z : BitVec 8) (core : BitVec 4) (hc : BitVec 1) (sh : BitVec 3) (hi hb : BitVec 1) (base : BitVec 6) (ix : BitVec 8)
    (disp : BitVec 32) (w : DWord) (hw : w = z ++ core ++ hc ++ sh ++ hi ++ hb ++ base ++ ix ++ disp) :
    w.extractLsb' 52 4 = core ∧ w.getLsbD 51 = hc.getLsbD 0 ∧ w.extractLsb' 48 3 = sh ∧ w.getLsbD 47 = hi.getLsbD 0 ∧
    w.getLsbD 46 = hb.getLsbD 0 ∧ w.extractLsb' 40 6 = base ∧ w.extractLsb' 32 8 = ix ∧ w.extractLsb' 0 32 = disp := by
  subst hw
  have bit : ∀ (v w k n : Nat) (x : BitVec v) (y : BitVec w), n = w + k → (x ++ y).getLsbD n = x.getLsbD k := by
    intro v w k n x y h; subst h
    rw [BitVec.getLsbD_append, if_neg (by omega), Nat.add_sub_cancel_left]
  have low : ∀ (v : Nat) (x : BitVec v) (y : BitVec 1), (x ++ y).getLsbD 0 = y.getLsbD 0 := by
    intro v x y
    rw [BitVec.getLsbD_append, if_pos (by omega)]
  refine ⟨?_, ?_, ?_, ?_, ?_, ?_, ?_, ?_⟩
  · exact (ex_hi _ _ 20 rfl).trans ((ex_hi _ _ 12 rfl).trans ((ex_hi _ _ 6 rfl).trans ((ex_hi _ _ 5 rfl).trans ((ex_hi _ _ 4 rfl).trans
      ((ex_hi _ _ 1 rfl).trans ((ex_hi _ _ 0 rfl).trans (ex_lo _ _ rfl rfl _ rfl)))))))
  · exact (bit _ _ 19 _ _ _ rfl).trans ((bit _ _ 11 _ _ _ rfl).trans ((bit _ _ 5 _ _ _ rfl).trans ((bit _ _ 4 _ _ _ rfl).trans
      ((bit _ _ 3 _ _ _ rfl).trans ((bit _ _ 0 _ _ _ rfl).trans (low _ _ _))))))
  · exact (ex_hi _ _ 16 rfl).trans ((ex_hi _ _ 8 rfl).trans ((ex_hi _ _ 2 rfl).trans ((ex_hi _ _ 1 rfl).trans ((ex_hi _ _ 0 rfl).trans
      (ex_lo _ _ rfl rfl _ rfl)))))
  · exact (bit _ _ 15 _ _ _ rfl).trans ((bit _ _ 7 _ _ _ rfl).trans ((bit _ _ 1 _ _ _ rfl).trans ((bit _ _ 0 _ _ _ rfl).trans (low _ _ _))))
  · exact (bit _ _ 14 _ _ _ rfl).trans ((bit _ _ 6 _ _ _ rfl).trans ((bit _ _ 0 _ _ _ rfl).trans (low _ _ _)))
  · exact (ex_hi _ _ 8 rfl).trans ((ex_hi _ _ 0 rfl).trans (ex_lo _ _ rfl rfl _ rfl))
  · exact (ex_hi _ _ 0 rfl).trans (ex_lo _ _ rfl rfl _ rfl)
  · exact ex_lo _ _ rfl rfl _ rfl
theorem memOp_ofBits (m : MemOp) : MemOp.ofBits m.bits = m := by
  obtain ⟨b, i, d, c⟩ := m
  obtain ⟨h1, h2, h3, h4, h5, h6, h7, h8⟩ := desc_fields 0 (c.getD 0) (bit1 c.isSome) ((i.map (·.2)).getD 0) (bit1 i.isSome) (bit1 b.isSome)
    (b.getD 0) ((i.map (·.1)).getD 0) d (MemOp.bits ⟨b, i, d, c⟩) (by rw [MemOp.bits])
  simp only [MemOp.ofBits, h1, h2, h3, h4, h5, h6, h7, h8]
  cases b <;> cases i <;> cases c <;> simp [bit1]
theorem need_true (c : Cause) : need true c = .ok () := rfl
theorem ok_bind {α β : Type} (x : α) (f : α → Except Cause β) : ((.ok x : Except Cause α) >>= f) = f x := rfl
theorem ok_pure {α : Type} (x : α) : (pure x : Except Cause α) = .ok x := rfl

theorem off_ok {x : XL} (h : (x == XL.off) = true) : x = XL.off := eq_of_beq h

theorem ex_ex {n : Nat} (z : BitVec n) (a b s l : Nat) (h : s + l ≤ b) : (z.extractLsb' a b).extractLsb' s l = z.extractLsb' (a + s) l := by
  apply BitVec.eq_of_getLsbD_eq
  intro j hj
  simp only [BitVec.getLsbD_extractLsb', hj, decide_true, Bool.true_and, decide_eq_true (show s + j < b by omega), Nat.add_assoc]
theorem ex_join {n : Nat} (z : BitVec n) (s a b t : Nat) (ht : t = s + b) :
    z.extractLsb' t a ++ z.extractLsb' s b = z.extractLsb' s (a + b) := by
  subst ht
  apply BitVec.eq_of_getLsbD_eq
  intro j hj
  rw [BitVec.getLsbD_append]
  by_cases h : j < b
  · simp only [h, if_true, BitVec.getLsbD_extractLsb', decide_true, Bool.true_and, decide_eq_true hj]
  · simp only [h, if_false, BitVec.getLsbD_extractLsb', decide_eq_true (show j - b < a by omega), Bool.true_and, decide_eq_true hj,
      show s + b + (j - b) = s + j by omega]
theorem bit_hi {v w n : Nat} (x : BitVec v) (y : BitVec w) (k : Nat) (h : n = w + k) : (x ++ y).getLsbD n = x.getLsbD k := by
  subst h
  rw [BitVec.getLsbD_append, if_neg (by omega), Nat.add_sub_cancel_left]
theorem bit_lo {v : Nat} (x : BitVec v) (b : Bool) : (x ++ bit1 b).getLsbD 0 = b := by
  rw [BitVec.getLsbD_append, if_pos (by omega)]; cases b <;> simp [bit1]
theorem bit_self (b : Bool) : (bit1 b).getLsbD 0 = b := by cases b <;> simp [bit1]
theorem f_p48 (z0 : BitVec 2) (b : BitVec 46) (z : BitVec 48) (hz : z = z0 ++ b) :
    z.extractLsb' 46 2 = z0 ∧ z.extractLsb' 0 46 = b := by
  subst hz
  refine ⟨?_, ?_⟩
  · exact (ex_hi _ _ 0 rfl).trans (BitVec.extractLsb'_eq_self)
  · exact ex_lo _ _ rfl rfl _ rfl
theorem f_two16 (a : BitVec 16) (b : BitVec 16) (z : BitVec 32) (hz : z = a ++ b) :
    z.extractLsb' 16 16 = a ∧ z.extractLsb' 0 16 = b := by
  subst hz
  refine ⟨?_, ?_⟩
  · exact (ex_hi _ _ 0 rfl).trans (BitVec.extractLsb'_eq_self)
  · exact ex_lo _ _ rfl rfl _ rfl
theorem f_two32 (a : BitVec 32) (b : BitVec 32) (z : BitVec 64) (hz : z = a ++ b) :
    z.extractLsb' 32 32 = a ∧ z.extractLsb' 0 32 = b := by
  subst hz
  refine ⟨?_, ?_⟩
  · exact (ex_hi _ _ 0 rfl).trans (BitVec.extractLsb'_eq_self)
  · exact ex_lo _ _ rfl rfl _ rfl
theorem f_obres (z0 : BitVec 12) (a : BitVec 10) (b : BitVec 10) (z : BitVec 32) (hz : z = z0 ++ a ++ b) :
    z.extractLsb' 20 12 = z0 ∧ z.extractLsb' 10 10 = a ∧ z.extractLsb' 0 10 = b := by
  subst hz
  refine ⟨?_, ?_, ?_⟩
  · exact (ex_hi _ _ 10 rfl).trans ((ex_hi _ _ 0 rfl).trans (BitVec.extractLsb'_eq_self))
  · exact (ex_hi _ _ 0 rfl).trans (ex_lo _ _ rfl rfl _ rfl)
  · exact ex_lo _ _ rfl rfl _ rfl
theorem f_acc (z0 : BitVec 18) (a : BitVec 6) (z1 : BitVec 2) (b : BitVec 6) (z : BitVec 32) (hz : z = z0 ++ a ++ z1 ++ b) :
    z.extractLsb' 14 18 = z0 ∧ z.extractLsb' 8 6 = a ∧ z.extractLsb' 6 2 = z1 ∧ z.extractLsb' 0 6 = b := by
  subst hz
  refine ⟨?_, ?_, ?_, ?_⟩
  · exact (ex_hi _ _ 8 rfl).trans ((ex_hi _ _ 6 rfl).trans ((ex_hi _ _ 0 rfl).trans (BitVec.extractLsb'_eq_self)))
  · exact (ex_hi _ _ 2 rfl).trans ((ex_hi _ _ 0 rfl).trans (ex_lo _ _ rfl rfl _ rfl))
  · exact (ex_hi _ _ 0 rfl).trans (ex_lo _ _ rfl rfl _ rfl)
  · exact ex_lo _ _ rfl rfl _ rfl
theorem f_qcmd (z0 : BitVec 12) (a : BitVec 4) (b : BitVec 16) (c : BitVec 32) (z : BitVec 64) (hz : z = z0 ++ a ++ b ++ c) :
    z.extractLsb' 52 12 = z0 ∧ z.extractLsb' 48 4 = a ∧ z.extractLsb' 32 16 = b ∧ z.extractLsb' 0 32 = c := by
  subst hz
  refine ⟨?_, ?_, ?_, ?_⟩
  · exact (ex_hi _ _ 20 rfl).trans ((ex_hi _ _ 4 rfl).trans ((ex_hi _ _ 0 rfl).trans (BitVec.extractLsb'_eq_self)))
  · exact (ex_hi _ _ 16 rfl).trans ((ex_hi _ _ 0 rfl).trans (ex_lo _ _ rfl rfl _ rfl))
  · exact (ex_hi _ _ 0 rfl).trans (ex_lo _ _ rfl rfl _ rfl)
  · exact ex_lo _ _ rfl rfl _ rfl
theorem f_tk (z0 : BitVec 24) (a : BitVec 8) (z : BitVec 32) (hz : z = z0 ++ a) :
    z.extractLsb' 8 24 = z0 ∧ z.extractLsb' 0 8 = a := by
  subst hz
  refine ⟨?_, ?_⟩
  · exact (ex_hi _ _ 0 rfl).trans (BitVec.extractLsb'_eq_self)
  · exact ex_lo _ _ rfl rfl _ rfl
theorem f_hrec (z0 : BitVec 31) (a : Bool) (b : BitVec 32) (z : BitVec 64) (hz : z = z0 ++ bit1 a ++ b) :
    z.extractLsb' 33 31 = z0 ∧ z.getLsbD 32 = a ∧ z.extractLsb' 0 32 = b := by
  subst hz
  refine ⟨?_, ?_, ?_⟩
  · exact (ex_hi _ _ 1 rfl).trans ((ex_hi _ _ 0 rfl).trans (BitVec.extractLsb'_eq_self))
  · exact (bit_hi _ _ 0 rfl).trans (bit_lo _ _)
  · exact ex_lo _ _ rfl rfl _ rfl
theorem f_copy (z0 : BitVec 24) (a : BitVec 5) (b : Bool) (c : BitVec 2) (z : BitVec 32) (hz : z = z0 ++ a ++ bit1 b ++ c) :
    z.extractLsb' 8 24 = z0 ∧ z.extractLsb' 3 5 = a ∧ z.getLsbD 2 = b ∧ z.extractLsb' 0 2 = c := by
  subst hz
  refine ⟨?_, ?_, ?_, ?_⟩
  · exact (ex_hi _ _ 6 rfl).trans ((ex_hi _ _ 5 rfl).trans ((ex_hi _ _ 0 rfl).trans (BitVec.extractLsb'_eq_self)))
  · exact (ex_hi _ _ 1 rfl).trans ((ex_hi _ _ 0 rfl).trans (ex_lo _ _ rfl rfl _ rfl))
  · exact (bit_hi _ _ 0 rfl).trans (bit_lo _ _)
  · exact ex_lo _ _ rfl rfl _ rfl
theorem f_sloop (z0 : BitVec 11) (a : Bool) (b : Bool) (c : BitVec 3) (d : BitVec 16) (z : BitVec 32) (hz : z = z0 ++ bit1 a ++ bit1 b ++ c ++ d) :
    z.extractLsb' 21 11 = z0 ∧ z.getLsbD 20 = a ∧ z.getLsbD 19 = b ∧ z.extractLsb' 16 3 = c ∧ z.extractLsb' 0 16 = d := by
  subst hz
  refine ⟨?_, ?_, ?_, ?_, ?_⟩
  · exact (ex_hi _ _ 5 rfl).trans ((ex_hi _ _ 2 rfl).trans ((ex_hi _ _ 1 rfl).trans ((ex_hi _ _ 0 rfl).trans (BitVec.extractLsb'_eq_self))))
  · exact (bit_hi _ _ 4 rfl).trans ((bit_hi _ _ 1 rfl).trans ((bit_hi _ _ 0 rfl).trans (bit_lo _ _)))
  · exact (bit_hi _ _ 3 rfl).trans ((bit_hi _ _ 0 rfl).trans (bit_lo _ _))
  · exact (ex_hi _ _ 0 rfl).trans (ex_lo _ _ rfl rfl _ rfl)
  · exact ex_lo _ _ rfl rfl _ rfl
theorem f_agq (z0 : BitVec 10) (a : BitVec 12) (z1 : BitVec 1) (b : Bool) (c : BitVec 8) (z : BitVec 32) (hz : z = z0 ++ a ++ z1 ++ bit1 b ++ c) :
    z.extractLsb' 22 10 = z0 ∧ z.extractLsb' 10 12 = a ∧ z.extractLsb' 9 1 = z1 ∧ z.getLsbD 8 = b ∧ z.extractLsb' 0 8 = c := by
  subst hz
  refine ⟨?_, ?_, ?_, ?_, ?_⟩
  · exact (ex_hi _ _ 14 rfl).trans ((ex_hi _ _ 13 rfl).trans ((ex_hi _ _ 12 rfl).trans ((ex_hi _ _ 0 rfl).trans (BitVec.extractLsb'_eq_self))))
  · exact (ex_hi _ _ 2 rfl).trans ((ex_hi _ _ 1 rfl).trans ((ex_hi _ _ 0 rfl).trans (ex_lo _ _ rfl rfl _ rfl)))
  · exact (ex_hi _ _ 1 rfl).trans ((ex_hi _ _ 0 rfl).trans (ex_lo _ _ rfl rfl _ rfl))
  · exact (bit_hi _ _ 0 rfl).trans (bit_lo _ _)
  · exact ex_lo _ _ rfl rfl _ rfl
theorem f_trap (z0 : BitVec 27) (a : BitVec 5) (z : BitVec 32) (hz : z = z0 ++ a) :
    z.extractLsb' 5 27 = z0 ∧ z.extractLsb' 0 5 = a := by
  subst hz
  refine ⟨?_, ?_⟩
  · exact (ex_hi _ _ 0 rfl).trans (BitVec.extractLsb'_eq_self)
  · exact ex_lo _ _ rfl rfl _ rfl
theorem f_csr (z0 : BitVec 20) (a : BitVec 12) (z : BitVec 32) (hz : z = z0 ++ a) :
    z.extractLsb' 12 20 = z0 ∧ z.extractLsb' 0 12 = a := by
  subst hz
  refine ⟨?_, ?_⟩
  · exact (ex_hi _ _ 0 rfl).trans (BitVec.extractLsb'_eq_self)
  · exact ex_lo _ _ rfl rfl _ rfl
theorem f_low1 (z0 : BitVec 7) (a : Bool) (z : BitVec 8) (hz : z = z0 ++ bit1 a) :
    z.extractLsb' 1 7 = z0 ∧ z.getLsbD 0 = a := by
  subst hz
  refine ⟨?_, ?_⟩
  · exact (ex_hi _ _ 0 rfl).trans (BitVec.extractLsb'_eq_self)
  · exact bit_lo _ _
theorem f_qpack (a : Bool) (b : BitVec 3) (z0 : BitVec 1) (c : BitVec 3) (z : BitVec 8) (hz : z = bit1 a ++ b ++ z0 ++ c) :
    z.getLsbD 7 = a ∧ z.extractLsb' 4 3 = b ∧ z.extractLsb' 3 1 = z0 ∧ z.extractLsb' 0 3 = c := by
  subst hz
  refine ⟨?_, ?_, ?_, ?_⟩
  · exact (bit_hi _ _ 4 rfl).trans ((bit_hi _ _ 3 rfl).trans ((bit_hi _ _ 0 rfl).trans (bit_self _)))
  · exact (ex_hi _ _ 1 rfl).trans ((ex_hi _ _ 0 rfl).trans (ex_lo _ _ rfl rfl _ rfl))
  · exact (ex_hi _ _ 0 rfl).trans (ex_lo _ _ rfl rfl _ rfl)
  · exact ex_lo _ _ rfl rfl _ rfl
theorem f_bscale (a : Bool) (b : Bool) (z0 : BitVec 2) (c : Bool) (d : BitVec 3) (z : BitVec 8) (hz : z = bit1 a ++ bit1 b ++ z0 ++ bit1 c ++ d) :
    z.getLsbD 7 = a ∧ z.getLsbD 6 = b ∧ z.extractLsb' 4 2 = z0 ∧ z.getLsbD 3 = c ∧ z.extractLsb' 0 3 = d := by
  subst hz
  refine ⟨?_, ?_, ?_, ?_, ?_⟩
  · exact (bit_hi _ _ 4 rfl).trans ((bit_hi _ _ 3 rfl).trans ((bit_hi _ _ 1 rfl).trans ((bit_hi _ _ 0 rfl).trans (bit_self _))))
  · exact (bit_hi _ _ 3 rfl).trans ((bit_hi _ _ 2 rfl).trans ((bit_hi _ _ 0 rfl).trans (bit_lo _ _)))
  · exact (ex_hi _ _ 1 rfl).trans ((ex_hi _ _ 0 rfl).trans (ex_lo _ _ rfl rfl _ rfl))
  · exact (bit_hi _ _ 0 rfl).trans (bit_lo _ _)
  · exact ex_lo _ _ rfl rfl _ rfl
theorem f_vote (z0 : BitVec 6) (a : BitVec 2) (z : BitVec 8) (hz : z = z0 ++ a) :
    z.extractLsb' 2 6 = z0 ∧ z.extractLsb' 0 2 = a := by
  subst hz
  refine ⟨?_, ?_⟩
  · exact (ex_hi _ _ 0 rfl).trans (BitVec.extractLsb'_eq_self)
  · exact ex_lo _ _ rfl rfl _ rfl
theorem f_wred (z0 : BitVec 4) (a : BitVec 4) (z : BitVec 8) (hz : z = z0 ++ a) :
    z.extractLsb' 4 4 = z0 ∧ z.extractLsb' 0 4 = a := by
  subst hz
  refine ⟨?_, ?_⟩
  · exact (ex_hi _ _ 0 rfl).trans (BitVec.extractLsb'_eq_self)
  · exact ex_lo _ _ rfl rfl _ rfl
theorem f_wscan (z0 : BitVec 3) (a : Bool) (b : BitVec 4) (z : BitVec 8) (hz : z = z0 ++ bit1 a ++ b) :
    z.extractLsb' 5 3 = z0 ∧ z.getLsbD 4 = a ∧ z.extractLsb' 0 4 = b := by
  subst hz
  refine ⟨?_, ?_, ?_⟩
  · exact (ex_hi _ _ 1 rfl).trans ((ex_hi _ _ 0 rfl).trans (BitVec.extractLsb'_eq_self))
  · exact (bit_hi _ _ 0 rfl).trans (bit_lo _ _)
  · exact ex_lo _ _ rfl rfl _ rfl
theorem f_movx (a : Bool) (b : Bool) (z0 : BitVec 6) (z : BitVec 8) (hz : z = bit1 a ++ bit1 b ++ z0) :
    z.getLsbD 7 = a ∧ z.getLsbD 6 = b ∧ z.extractLsb' 0 6 = z0 := by
  subst hz
  refine ⟨?_, ?_, ?_⟩
  · exact (bit_hi _ _ 1 rfl).trans ((bit_hi _ _ 0 rfl).trans (bit_self _))
  · exact (bit_hi _ _ 0 rfl).trans (bit_lo _ _)
  · exact ex_lo _ _ rfl rfl _ rfl
theorem f_spill (z0 : BitVec 6) (a : Bool) (b : Bool) (z : BitVec 8) (hz : z = z0 ++ bit1 a ++ bit1 b) :
    z.extractLsb' 2 6 = z0 ∧ z.getLsbD 1 = a ∧ z.getLsbD 0 = b := by
  subst hz
  refine ⟨?_, ?_, ?_⟩
  · exact (ex_hi _ _ 1 rfl).trans ((ex_hi _ _ 0 rfl).trans (BitVec.extractLsb'_eq_self))
  · exact (bit_hi _ _ 0 rfl).trans (bit_lo _ _)
  · exact bit_lo _ _
theorem f_fencep (a : BitVec 4) (b : BitVec 4) (z : BitVec 8) (hz : z = a ++ b) :
    z.extractLsb' 4 4 = a ∧ z.extractLsb' 0 4 = b := by
  subst hz
  refine ⟨?_, ?_⟩
  · exact (ex_hi _ _ 0 rfl).trans (BitVec.extractLsb'_eq_self)
  · exact ex_lo _ _ rfl rfl _ rfl
theorem f_mmaD (z0 : BitVec 4) (a : Bool) (b : Bool) (c : BitVec 2) (z : BitVec 8) (hz : z = z0 ++ bit1 a ++ bit1 b ++ c) :
    z.extractLsb' 4 4 = z0 ∧ z.getLsbD 3 = a ∧ z.getLsbD 2 = b ∧ z.extractLsb' 0 2 = c := by
  subst hz
  refine ⟨?_, ?_, ?_, ?_⟩
  · exact (ex_hi _ _ 2 rfl).trans ((ex_hi _ _ 1 rfl).trans ((ex_hi _ _ 0 rfl).trans (BitVec.extractLsb'_eq_self)))
  · exact (bit_hi _ _ 1 rfl).trans ((bit_hi _ _ 0 rfl).trans (bit_lo _ _))
  · exact (bit_hi _ _ 0 rfl).trans (bit_lo _ _)
  · exact ex_lo _ _ rfl rfl _ rfl
theorem f_mmaM (a : Bool) (b : BitVec 7) (z : BitVec 8) (hz : z = bit1 a ++ b) :
    z.getLsbD 7 = a ∧ z.extractLsb' 0 7 = b := by
  subst hz
  refine ⟨?_, ?_⟩
  · exact (bit_hi _ _ 0 rfl).trans (bit_self _)
  · exact ex_lo _ _ rfl rfl _ rfl
theorem f_mmaX (a : Bool) (b : Bool) (c : BitVec 6) (z : BitVec 8) (hz : z = bit1 a ++ bit1 b ++ c) :
    z.getLsbD 7 = a ∧ z.getLsbD 6 = b ∧ z.extractLsb' 0 6 = c := by
  subst hz
  refine ⟨?_, ?_, ?_⟩
  · exact (bit_hi _ _ 1 rfl).trans ((bit_hi _ _ 0 rfl).trans (bit_self _))
  · exact (bit_hi _ _ 0 rfl).trans (bit_lo _ _)
  · exact ex_lo _ _ rfl rfl _ rfl
theorem f_accz (z0 : BitVec 4) (a : BitVec 2) (b : BitVec 2) (z : BitVec 8) (hz : z = z0 ++ a ++ b) :
    z.extractLsb' 4 4 = z0 ∧ z.extractLsb' 2 2 = a ∧ z.extractLsb' 0 2 = b := by
  subst hz
  refine ⟨?_, ?_, ?_⟩
  · exact (ex_hi _ _ 2 rfl).trans ((ex_hi _ _ 0 rfl).trans (BitVec.extractLsb'_eq_self))
  · exact (ex_hi _ _ 0 rfl).trans (ex_lo _ _ rfl rfl _ rfl)
  · exact ex_lo _ _ rfl rfl _ rfl
theorem f_six2 (z0 : BitVec 6) (b : BitVec 2) (z : BitVec 8) (hz : z = z0 ++ b) :
    z.extractLsb' 2 6 = z0 ∧ z.extractLsb' 0 2 = b := by
  subst hz
  refine ⟨?_, ?_⟩
  · exact (ex_hi _ _ 0 rfl).trans (BitVec.extractLsb'_eq_self)
  · exact ex_lo _ _ rfl rfl _ rfl
theorem f_qcmdM (z0 : BitVec 5) (a : Bool) (b : Bool) (c : Bool) (z : BitVec 8) (hz : z = z0 ++ bit1 a ++ bit1 b ++ bit1 c) :
    z.extractLsb' 3 5 = z0 ∧ z.getLsbD 2 = a ∧ z.getLsbD 1 = b ∧ z.getLsbD 0 = c := by
  subst hz
  refine ⟨?_, ?_, ?_, ?_⟩
  · exact (ex_hi _ _ 2 rfl).trans ((ex_hi _ _ 1 rfl).trans ((ex_hi _ _ 0 rfl).trans (BitVec.extractLsb'_eq_self)))
  · exact (bit_hi _ _ 1 rfl).trans ((bit_hi _ _ 0 rfl).trans (bit_lo _ _))
  · exact (bit_hi _ _ 0 rfl).trans (bit_lo _ _)
  · exact bit_lo _ _
theorem f_two6 (z0 : BitVec 2) (a : BitVec 6) (z : BitVec 8) (hz : z = z0 ++ a) :
    z.extractLsb' 6 2 = z0 ∧ z.extractLsb' 0 6 = a := by
  subst hz
  refine ⟨?_, ?_⟩
  · exact (ex_hi _ _ 0 rfl).trans (BitVec.extractLsb'_eq_self)
  · exact ex_lo _ _ rfl rfl _ rfl
theorem f_spec (s : BitVec 2) (r : BitVec 5) (c : BitVec 4) (m : BitVec 1) (g : BitVec 4) (o : BitVec 16) (z : BitVec 32) (hz : z = s ++ r ++ c ++ m ++ g ++ o) :
    z.extractLsb' 30 2 = s ∧ z.extractLsb' 25 5 = r ∧ z.extractLsb' 21 4 = c ∧ z.extractLsb' 20 1 = m ∧ z.extractLsb' 16 4 = g ∧ z.extractLsb' 0 16 = o := by
  subst hz
  refine ⟨?_, ?_, ?_, ?_, ?_, ?_⟩
  · exact (ex_hi _ _ 14 rfl).trans ((ex_hi _ _ 10 rfl).trans ((ex_hi _ _ 9 rfl).trans ((ex_hi _ _ 5 rfl).trans ((ex_hi _ _ 0 rfl).trans (BitVec.extractLsb'_eq_self)))))
  · exact (ex_hi _ _ 9 rfl).trans ((ex_hi _ _ 5 rfl).trans ((ex_hi _ _ 4 rfl).trans ((ex_hi _ _ 0 rfl).trans (ex_lo _ _ rfl rfl _ rfl))))
  · exact (ex_hi _ _ 5 rfl).trans ((ex_hi _ _ 1 rfl).trans ((ex_hi _ _ 0 rfl).trans (ex_lo _ _ rfl rfl _ rfl)))
  · exact (ex_hi _ _ 4 rfl).trans ((ex_hi _ _ 0 rfl).trans (ex_lo _ _ rfl rfl _ rfl))
  · exact (ex_hi _ _ 0 rfl).trans (ex_lo _ _ rfl rfl _ rfl)
  · exact ex_lo _ _ rfl rfl _ rfl
theorem f_spec0 (s : BitVec 2) (r : BitVec 5) (z0 : BitVec 9) (o : BitVec 16) (z : BitVec 32) (hz : z = s ++ r ++ z0 ++ o) :
    z.extractLsb' 30 2 = s ∧ z.extractLsb' 25 5 = r ∧ z.extractLsb' 16 9 = z0 ∧ z.extractLsb' 0 16 = o := by
  subst hz
  refine ⟨?_, ?_, ?_, ?_⟩
  · exact (ex_hi _ _ 14 rfl).trans ((ex_hi _ _ 5 rfl).trans ((ex_hi _ _ 0 rfl).trans (BitVec.extractLsb'_eq_self)))
  · exact (ex_hi _ _ 9 rfl).trans ((ex_hi _ _ 0 rfl).trans (ex_lo _ _ rfl rfl _ rfl))
  · exact (ex_hi _ _ 0 rfl).trans (ex_lo _ _ rfl rfl _ rfl)
  · exact ex_lo _ _ rfl rfl _ rfl
theorem f_spec1 (s : BitVec 2) (r : BitVec 5) (c : BitVec 4) (z0 : BitVec 5) (o : BitVec 16) (z : BitVec 32) (hz : z = s ++ r ++ c ++ z0 ++ o) :
    z.extractLsb' 30 2 = s ∧ z.extractLsb' 25 5 = r ∧ z.extractLsb' 21 4 = c ∧ z.extractLsb' 16 5 = z0 ∧ z.extractLsb' 0 16 = o := by
  subst hz
  refine ⟨?_, ?_, ?_, ?_, ?_⟩
  · exact (ex_hi _ _ 14 rfl).trans ((ex_hi _ _ 9 rfl).trans ((ex_hi _ _ 5 rfl).trans ((ex_hi _ _ 0 rfl).trans (BitVec.extractLsb'_eq_self))))
  · exact (ex_hi _ _ 9 rfl).trans ((ex_hi _ _ 4 rfl).trans ((ex_hi _ _ 0 rfl).trans (ex_lo _ _ rfl rfl _ rfl)))
  · exact (ex_hi _ _ 5 rfl).trans ((ex_hi _ _ 0 rfl).trans (ex_lo _ _ rfl rfl _ rfl))
  · exact (ex_hi _ _ 0 rfl).trans (ex_lo _ _ rfl rfl _ rfl)
  · exact ex_lo _ _ rfl rfl _ rfl
theorem rInt2 (k : Int2 → Instr) (l : IntLegal) (op : Nat) (i : Int2) (h : wfInt2 l i = true) :
    (eInt2 op i).g ≠ 15 ∧ bInt2 k l (eInt2 op i) = .ok (k i) := by
  simp only [wfInt2, Bool.and_eq_true] at h
  refine ⟨g_ok i.h.g (by simp only [h]), ?_⟩
  simp only [bInt2, eInt2, Raw.int, Raw.xl, int_ty, int_s, int_sat, int_o, of_ITy, xl_mode, xl_par, of_XMode, enc_hdr, enc_x, enc_m, enc_d, enc_a, enc_b, enc_c, ok_bind, need_true, ok_pure, Bool.and_true, beq_self_eq_true, cls, zero, h]
theorem rInt3 (k : Int3 → Instr) (l : IntLegal) (op : Nat) (i : Int3) (h : wfInt3 l i = true) :
    (eInt3 op i).g ≠ 15 ∧ bInt3 k l (eInt3 op i) = .ok (k i) := by
  simp only [wfInt3, Bool.and_eq_true] at h
  refine ⟨g_ok i.h.g (by simp only [h]), ?_⟩
  simp only [bInt3, eInt3, Raw.int, Raw.xl, int_ty, int_s, int_sat, int_o, of_ITy, xl_mode, xl_par, of_XMode, enc_hdr, enc_x, enc_m, enc_d, enc_a, enc_b, enc_c, ok_bind, need_true, ok_pure, Bool.and_true, beq_self_eq_true, cls, zero, h]
theorem rInt3I (k : Int3I → Instr) (l : IntLegal) (op : Nat) (i : Int3I) (h : wfInt3I l i = true) :
    (eInt3I op i).g ≠ 15 ∧ bInt3I k l (eInt3I op i) = .ok (k i) := by
  simp only [wfInt3I, Bool.and_eq_true] at h
  refine ⟨g_ok i.h.g (by simp only [h]), ?_⟩
  simp only [bInt3I, eInt3I, Raw.int, Raw.xl, int_ty, int_s, int_sat, int_o, of_ITy, xl_mode, xl_par, of_XMode, enc_hdr, enc_x, enc_m, enc_d, enc_a, enc_b, enc_c, enc_ext, ok_bind, need_true, ok_pure, Bool.and_true, beq_self_eq_true, cls, zero, imm_ext, Raw.imm, h]
theorem rInt4 (k : Int4 → Instr) (l : IntLegal) (op : Nat) (i : Int4) (h : wfInt4 l i = true) :
    (eInt4 op i).g ≠ 15 ∧ bInt4 k l (eInt4 op i) = .ok (k i) := by
  simp only [wfInt4, Bool.and_eq_true] at h
  refine ⟨g_ok i.h.g (by simp only [h]), ?_⟩
  simp only [bInt4, eInt4, Raw.int, Raw.xl, int_ty, int_s, int_sat, int_o, of_ITy, xl_mode, xl_par, of_XMode, enc_hdr, enc_x, enc_m, enc_d, enc_a, enc_b, enc_c, ok_bind, need_true, ok_pure, Bool.and_true, beq_self_eq_true, cls, h]
theorem rInt4I (k : Int4I → Instr) (l : IntLegal) (op : Nat) (i : Int4I) (h : wfInt4I l i = true) :
    (eInt4I op i).g ≠ 15 ∧ bInt4I k l (eInt4I op i) = .ok (k i) := by
  simp only [wfInt4I, Bool.and_eq_true] at h
  refine ⟨g_ok i.h.g (by simp only [h]), ?_⟩
  simp only [bInt4I, eInt4I, Raw.int, Raw.xl, int_ty, int_s, int_sat, int_o, of_ITy, xl_mode, xl_par, of_XMode, enc_hdr, enc_x, enc_m, enc_d, enc_a, enc_b, enc_c, enc_ext, ok_bind, need_true, ok_pure, Bool.and_true, beq_self_eq_true, cls, zero, imm_ext, Raw.imm, h]
theorem rFp2 (k : Fp2 → Instr) (l : FpLegal) (op : Nat) (i : Fp2) (h : wfFp2 l i = true) :
    (eFp2 op i).g ≠ 15 ∧ bFp2 k l (eFp2 op i) = .ok (k i) := by
  simp only [wfFp2, Bool.and_eq_true] at h
  refine ⟨g_ok i.h.g (by simp only [h]), ?_⟩
  simp only [bFp2, eFp2, Raw.fp, Raw.xl, fp_ty, fp_rnd, fp_sat, fp_ftz, of_FTy, of_Rnd, xl_mode, xl_par, of_XMode, enc_hdr, enc_x, enc_m, enc_d, enc_a, enc_b, enc_c, ok_bind, need_true, ok_pure, Bool.and_true, beq_self_eq_true, zero, h]
theorem rFp3 (k : Fp3 → Instr) (l : FpLegal) (w : Bool) (op : Nat) (i : Fp3) (h : wfFp3 l w i = true) :
    (eFp3 op i).g ≠ 15 ∧ bFp3 k l w (eFp3 op i) = .ok (k i) := by
  simp only [wfFp3, Bool.and_eq_true] at h
  refine ⟨g_ok i.h.g (by simp only [h]), ?_⟩
  simp only [bFp3, eFp3, Raw.fp, Raw.xl, fp_ty, fp_rnd, fp_sat, fp_ftz, of_FTy, of_Rnd, xl_mode, xl_par, of_XMode, enc_hdr, enc_x, enc_m, enc_d, enc_a, enc_b, enc_c, ok_bind, need_true, ok_pure, Bool.and_true, beq_self_eq_true, cls, zero, h]
theorem rFp4 (k : Fp4 → Instr) (l : FpLegal) (w : Bool) (op : Nat) (i : Fp4) (h : wfFp4 l w i = true) :
    (eFp4 op i).g ≠ 15 ∧ bFp4 k l w (eFp4 op i) = .ok (k i) := by
  simp only [wfFp4, Bool.and_eq_true] at h
  refine ⟨g_ok i.h.g (by simp only [h]), ?_⟩
  simp only [bFp4, eFp4, Raw.fp, Raw.xl, fp_ty, fp_rnd, fp_sat, fp_ftz, of_FTy, of_Rnd, xl_mode, xl_par, of_XMode, enc_hdr, enc_x, enc_m, enc_d, enc_a, enc_b, enc_c, ok_bind, need_true, ok_pure, Bool.and_true, cls, h]
theorem rFp3I (k : Fp3I → Instr) (l : FpLegal) (w : Bool) (op : Nat) (i : Fp3I) (h : wfFp3I l w i = true) :
    (eFp3I op i).g ≠ 15 ∧ bFp3I k l w (eFp3I op i) = .ok (k i) := by
  simp only [wfFp3I, Bool.and_eq_true] at h
  refine ⟨g_ok i.h.g (by simp only [h]), ?_⟩
  simp only [bFp3I, eFp3I, Raw.fp, Raw.xl, fp_ty, fp_rnd, fp_sat, fp_ftz, of_FTy, of_Rnd, xl_mode, xl_par, of_XMode, enc_hdr, enc_x, enc_m, enc_d, enc_a, enc_b, enc_c, enc_ext, ok_bind, need_true, ok_pure, Bool.and_true, Bool.true_and, beq_self_eq_true, zero, imm_ext, Raw.imm, h]
theorem rFp4I (k : Fp4I → Instr) (l : FpLegal) (w : Bool) (op : Nat) (i : Fp4I) (h : wfFp4I l w i = true) :
    (eFp4I op i).g ≠ 15 ∧ bFp4I k l w (eFp4I op i) = .ok (k i) := by
  simp only [wfFp4I, Bool.and_eq_true] at h
  refine ⟨g_ok i.h.g (by simp only [h]), ?_⟩
  simp only [bFp4I, eFp4I, Raw.fp, Raw.xl, fp_ty, fp_rnd, fp_sat, fp_ftz, of_FTy, of_Rnd, xl_mode, xl_par, of_XMode, enc_hdr, enc_x, enc_m, enc_d, enc_a, enc_b, enc_c, enc_ext, ok_bind, need_true, ok_pure, Bool.true_and, beq_self_eq_true, zero, imm_ext, Raw.imm, h]
theorem rConv (k : FConv → Instr) (op : Nat) (l : FpLegal) (i : FConv) (h : wfConv op l i = true) :
    (eConv op i).g ≠ 15 ∧ bConv k op l (eConv op i) = .ok (k i) := by
  simp only [wfConv, Bool.and_eq_true] at h
  refine ⟨g_ok i.h.g (by simp only [h]), ?_⟩
  simp only [bConv, eConv, Raw.xl, fp_ty, fp_rnd, fp_sat, fp_ftz, of_FTy, of_Rnd, xl_mode, xl_par, of_XMode, enc_hdr, enc_x, enc_m, enc_d, enc_a, enc_b, enc_c, ok_bind, need_true, ok_pure, Bool.and_true, beq_self_eq_true, cls, zero, h]

theorem imm_trim (w : Word) : trimExt 1 (immExt w) = immExt w := by
  simp [trimExt, immExt, BitVec.setWidth_setWidth_of_le]
theorem row_round {i : Instr} {r : Raw} (row : OpRow) (he : encodeRaw i = some r) (ht : trimExt r.len r.ext = r.ext)
    (n : Nat) (hn : r.op.toNat = n) (hop : opRow n = some row) (hlo : n < 0x1C0) (hl : r.len = row.len) (hb : (row.bare && decide (r.g ≠ 7)) = false)
    (hB : r.g ≠ 15 ∧ row.build r = .ok i) : ∀ w e, encode i = some (w, e) → decode w e = i := by
  intro w e h
  rw [encode, he] at h
  obtain ⟨rfl, rfl⟩ := Prod.mk.inj (Option.some.inj h)
  have hu := unpack_pack r ht
  subst hn
  simp only [decode, hu, decodeRaw, hop, if_neg (show ¬(0x1F0 ≤ r.op.toNat) by omega), if_neg (show ¬(0x1C0 ≤ r.op.toNat) by omega),
    if_neg (show ¬(r.len ≠ row.len) by simp [hl]), if_neg hB.1, hB.2]
  rw [if_neg (by rw [hb]; decide)]
theorem bare_bits (sw : Bool) : (bareHdr sw).g.bits = 7 := by cases sw <;> decide
theorem bare_ne (sw : Bool) : (bareHdr sw).g.bits ≠ 15 := by rw [bare_bits]; decide
theorem bare_hb (sw : Bool) : (true && decide ((bareHdr sw).g.bits ≠ 7)) = false := by rw [bare_bits]; decide
theorem enc_sw (op : Nat) (len : BitVec 2) (h : Hdr) (d a b c m x : BitVec 8) (e : DWord) : (enc op len h d a b c m x e).sw = h.sw := rfl
theorem imm_ex (w : Word) : (immExt w).extractLsb' 0 10 = w.extractLsb' 0 10 ∧ (immExt w).extractLsb' 10 10 = w.extractLsb' 10 10 ∧
    (immExt w).extractLsb' 20 12 = w.extractLsb' 20 12 := by
  refine ⟨?_, ?_, ?_⟩ <;> (ext j hj; simp [immExt, BitVec.getLsbD_setWidth]; try omega)
theorem f_icmp (s : Bool) (c : ICond) : let m := intBits false (if s then .s32 else .b32) false c.bits
    (m.extractLsb' 5 3 = 0) ∧ m.getLsbD 3 = false ∧ m.extractLsb' 0 3 = c.bits ∧ m.getLsbD 4 = s := by
  cases s <;> cases c <;> decide
theorem f_lea (s w : Bool) : (leaBits s w).getLsbD 7 = s ∧ (leaBits s w).getLsbD 5 = w ∧ (leaBits s w).getLsbD 6 = false ∧
    (leaBits s w).extractLsb' 0 5 = 0 := by
  cases s <;> cases w <;> decide
theorem asize (w : Bool) : (atomSize w == .b32 || atomSize w == .b64) = true ∧ (atomSize w == .b64) = w ∧ (atomSize w == .b32) = !w := by
  cases w <;> decide
theorem sp_of (s : Bool) : ((if s then Space.sp else Space.dflt) != .gc) = true ∧ ((if s then Space.sp else Space.dflt) == .sp) = s := by
  cases s <;> decide
theorem memX_32 (a : BitVec 4) (p : Space) : (memX a false p).extractLsb' 2 2 = 0 := by
  cases p <;> revert a <;> decide
theorem spec_of (s : MatSpec) : MatSpec.ofBits s.bits = s := by
  obtain ⟨src, r, o⟩ := s
  cases src with
  | ob =>
    obtain ⟨f1, f2, f3, f4⟩ := f_spec0 0 r 0 o (MatSpec.bits ⟨.ob, r, o⟩) (by rw [MatSpec.bits])
    simp only [MatSpec.ofBits, f1, f2, f4, if_true]
  | sp =>
    obtain ⟨f1, f2, f3, f4⟩ := f_spec0 1 r 0 o (MatSpec.bits ⟨.sp, r, o⟩) (by rw [MatSpec.bits])
    simp only [MatSpec.ofBits, f1, f2, f4, if_true, if_neg (show ¬((1 : BitVec 2) = 0) by decide)]
  | remote c g => cases g with
    | none =>
      obtain ⟨f1, f2, f3, f4, f5⟩ := f_spec1 2 r c 0 o (MatSpec.bits ⟨.remote c none, r, o⟩) (by rw [MatSpec.bits])
      have f6 : (MatSpec.bits ⟨.remote c none, r, o⟩).getLsbD 20 = false := by
        have := congrArg (fun z => BitVec.getLsbD z 4) f4
        simpa using this
      simp only [MatSpec.ofBits, f1, f2, f3, f5, f6, if_neg (show ¬((2 : BitVec 2) = 0) by decide), if_neg (show ¬((2 : BitVec 2) = 1) by decide)]
      rfl
    | some g =>
      obtain ⟨f1, f2, f3, f4, f5, f6⟩ := f_spec 2 r c 1 g o (MatSpec.bits ⟨.remote c (some g), r, o⟩) (by rw [MatSpec.bits])
      have f7 : (MatSpec.bits ⟨.remote c (some g), r, o⟩).getLsbD 20 = true := by
        have := congrArg (fun z => BitVec.getLsbD z 0) f4
        simpa using this
      simp only [MatSpec.ofBits, f1, f2, f3, f5, f6, f7, if_true, if_neg (show ¬((2 : BitVec 2) = 0) by decide), if_neg (show ¬((2 : BitVec 2) = 1) by decide)]

theorem pack_unpack (w e : DWord) : pack (unpack w e) = w := by
  have h : bit1 (w.getLsbD 2) = w.extractLsb' 2 1 := by
    apply BitVec.eq_of_getLsbD_eq
    intro j hj
    obtain rfl : j = 0 := by omega
    rw [bit_self]
    simp
  unfold pack unpack
  simp only [h]
  rw [ex_join w 48 8 8 56 rfl, ex_join w 40 16 8 48 rfl, ex_join w 32 24 8 40 rfl, ex_join w 24 32 8 32 rfl, ex_join w 16 40 8 24 rfl,
    ex_join w 7 48 9 16 rfl, ex_join w 3 57 4 7 rfl, ex_join w 2 61 1 3 rfl, ex_join w 0 62 2 2 rfl]
  exact (BitVec.setWidth_eq _).trans BitVec.extractLsb'_eq_self
theorem tool_round {i : Instr} (t : Tool) (len : BitVec 2) (he : encodeRaw i = some (unpack t.w0 t.ext)) (hw : wfTool len t = true)
    (hx : trimExt len t.ext = t.ext) (hl : toolLen t.index.toNat = len) (hb : buildTool t.index t.w0 t.ext = i) :
    ∀ w e, encode i = some (w, e) → decode w e = i := by
  intro w e h
  simp only [wfTool, Bool.and_eq_true, beq_iff_eq] at hw
  have hext : (unpack t.w0 t.ext).ext = t.ext := by
    show trimExt (t.w0.extractLsb' 0 2) t.ext = t.ext
    rw [hw.2, hx]
  rw [encode, he] at h
  obtain ⟨rfl, rfl⟩ := Prod.mk.inj (Option.some.inj h)
  rw [pack_unpack, hext]
  have hop : (unpack t.w0 t.ext).op.toNat = 0x1F0 + t.index.toNat := by
    show (t.w0.extractLsb' 7 9).toNat = _
    rw [hw.1]
    have : ∀ x : BitVec 4, ((0x1F : BitVec 5) ++ x).toNat = 0x1F0 + x.toNat := by decide
    exact this _
  have hidx : (unpack t.w0 t.ext).op.extractLsb' 0 4 = t.index := by
    show (t.w0.extractLsb' 7 9).extractLsb' 0 4 = _
    rw [hw.1]
    exact ex_lo _ _ rfl rfl _ rfl
  simp only [decode, decodeRaw, hop, hidx, hext, Nat.le_add_right, if_true, Nat.add_sub_cancel_left]
  rw [if_pos (show (unpack t.w0 t.ext).len = toolLen t.index.toNat by rw [hl]; exact hw.2)]
  exact hb

end Sys2Proof
end

