-- ==== Sys2Proof/Laws/Flags.lean ====
section
/-! SUPPORT. Laws of flag unions and of the stochastic states of lanes. -/

namespace Sys2Proof.Machine

theorem getLsbD_foldl_or (l : List Nat) (f : Nat → BitVec 5) (a : BitVec 5) (k : Nat) :
    (l.foldl (fun a i => a ||| f i) a).getLsbD k = true ↔ a.getLsbD k = true ∨ ∃ i ∈ l, (f i).getLsbD k = true := by
  induction l generalizing a with
  | nil => simp
  | cons x l ih => simp [ih, or_assoc]

/-- A flag is in the union when some lane of the mask raises it (R102). -/
theorem flagUnion_bit (m : Mask) (f : Nat → BitVec 5) (k : Nat) :
    (flagUnion m f).getLsbD k = true ↔ ∃ i, i < 32 ∧ m.getLsbD i = true ∧ (f i).getLsbD k = true := by
  rw [flagUnion, getLsbD_foldl_or]
  simp [lanesOf, allLanes, and_assoc]

/-- The stochastic state of a lane after a write of the lanes of a mask below `c`. -/
theorem get_putSr (m : Mask) (f : Nat → Word) (t : Tab Word) (c n : Nat) :
    Tab.get 0 (putSr m f c t) n = if n < c ∧ m.getLsbD n = true then f n else Tab.get 0 t n := by
  induction c with
  | zero => simp [putSr]
  | succ c ih =>
    simp only [putSr]
    by_cases hm : m.getLsbD c = true
    · rw [if_pos hm, Tab.get_set]
      by_cases h : n = c
      · subst h; simp [hm]
      · have : n < c + 1 ↔ n < c := by omega
        rw [if_neg h, ih]
        simp [this]
    · rw [if_neg hm, ih]
      by_cases h : n = c
      · subst h; simp [hm]
      · have : n < c + 1 ↔ n < c := by omega
        simp [this]

end Sys2Proof.Machine
end

