-- ==== Sys2Proof/Laws/Operands.lean ====
section
/-! SUPPORT. Laws of operand forms: every integer source is a number of the width of its TYPE. -/

namespace Sys2Proof

open Machine

theorem ITy.width_pos (ty : ITy) : 0 < ty.width := by cases ty <;> decide
theorem ITy.word_lt (ty : ITy) (x : Word) : x.toNat < 2 ^ ty.width := by
  have := x.isLt
  cases ty <;> simp only [ITy.width] <;> omega

theorem ITy.imm_lt (ty : ITy) (x : Word) : ty.imm x < 2 ^ ty.width := by
  cases ty
  · exact x.isLt
  · exact x.isLt
  · exact ITy.word_lt .b64 x
  · exact (sx64 x).isLt

theorem ITy.wr_lt (ty : ITy) (sat : Bool) (x : Int) : ty.wr sat x < 2 ^ ty.width := by
  unfold ITy.wr
  have hp : (0 : Int) < ((2 ^ ty.width : Nat) : Int) := by positivity
  generalize (if sat = true then ty.clamp x else x) = y
  have h1 := Int.emod_nonneg y (ne_of_gt hp)
  have h2 := Int.emod_lt_of_pos y hp
  omega

theorem intA_lt (w : Warp) (s : Bool) (ty : ITy) (x : XL) (r : RegNo) (i : Nat) : w.intA s ty x r i < 2 ^ ty.width := by
  unfold Warp.intA
  split
  · exact Nat.mod_lt _ (by positivity)
  · exact ty.word_lt _

theorem intB_lt (w : Warp) (s : Bool) (ty : ITy) (r : RegNo) (i : Nat) : w.intB s ty r i < 2 ^ ty.width := by
  unfold Warp.intB
  split
  · exact Nat.mod_lt _ (by positivity)
  · exact ty.word_lt _

end Sys2Proof
end

