-- ==== Sys2Proof/Laws/PerInstr.lean ====
section
/-! SUPPORT. For every constructor of Instr: decoding the words of the well-formed instruction gives it back. -/

namespace Sys2Proof.Laws.RoundTrip

/-- Decoding the words of a well-formed instruction gives it back. -/
def Statement (i : Instr) : Prop := wellFormed i = true → ∀ w e, encode i = some (w, e) → decode w e = i

theorem iadd (i) : Statement (.iadd i) := fun h =>
  row_round ⟨0, false, (bInt3 .iadd legArith)⟩ rfl rfl 0x000 rfl rfl (by decide) rfl rfl (rInt3 .iadd legArith 0x000 i h)

theorem iaddImm (i) : Statement (.iaddImm i) := fun h =>
  row_round ⟨1, false, (bInt3I .iaddImm legArith)⟩ rfl (imm_trim _) 0x020 rfl rfl (by decide) rfl rfl (rInt3I .iaddImm legArith 0x020 i h)

theorem isub (i) : Statement (.isub i) := fun h =>
  row_round ⟨0, false, (bInt3 .isub legArith)⟩ rfl rfl 0x001 rfl rfl (by decide) rfl rfl (rInt3 .isub legArith 0x001 i h)

theorem isubImm (i) : Statement (.isubImm i) := fun h =>
  row_round ⟨1, false, (bInt3I .isubImm legArith)⟩ rfl (imm_trim _) 0x021 rfl rfl (by decide) rfl rfl (rInt3I .isubImm legArith 0x021 i h)

theorem imul (i) : Statement (.imul i) := fun h =>
  row_round ⟨0, false, (bInt3 .imul legArith)⟩ rfl rfl 0x002 rfl rfl (by decide) rfl rfl (rInt3 .imul legArith 0x002 i h)

theorem imulImm (i) : Statement (.imulImm i) := fun h =>
  row_round ⟨1, false, (bInt3I .imulImm legArith)⟩ rfl (imm_trim _) 0x022 rfl rfl (by decide) rfl rfl (rInt3I .imulImm legArith 0x022 i h)

theorem imulhi (i) : Statement (.imulhi i) := fun h =>
  row_round ⟨0, false, (bInt3 .imulhi legPlain)⟩ rfl rfl 0x003 rfl rfl (by decide) rfl rfl (rInt3 .imulhi legPlain 0x003 i h)

theorem imulhiImm (i) : Statement (.imulhiImm i) := fun h =>
  row_round ⟨1, false, (bInt3I .imulhiImm legPlain)⟩ rfl (imm_trim _) 0x023 rfl rfl (by decide) rfl rfl (rInt3I .imulhiImm legPlain 0x023 i h)

theorem imad (i) : Statement (.imad i) := fun h =>
  row_round ⟨0, false, (bInt4 .imad legArith)⟩ rfl rfl 0x004 rfl rfl (by decide) rfl rfl (rInt4 .imad legArith 0x004 i h)

theorem imadImm (i) : Statement (.imadImm i) := fun h =>
  row_round ⟨1, false, (bInt4I .imadImm legArith)⟩ rfl (imm_trim _) 0x024 rfl rfl (by decide) rfl rfl (rInt4I .imadImm legArith 0x024 i h)

theorem imin (i) : Statement (.imin i) := fun h =>
  row_round ⟨0, false, (bInt3 .imin legPlain)⟩ rfl rfl 0x005 rfl rfl (by decide) rfl rfl (rInt3 .imin legPlain 0x005 i h)

theorem iminImm (i) : Statement (.iminImm i) := fun h =>
  row_round ⟨1, false, (bInt3I .iminImm legPlain)⟩ rfl (imm_trim _) 0x025 rfl rfl (by decide) rfl rfl (rInt3I .iminImm legPlain 0x025 i h)

theorem imax (i) : Statement (.imax i) := fun h =>
  row_round ⟨0, false, (bInt3 .imax legPlain)⟩ rfl rfl 0x006 rfl rfl (by decide) rfl rfl (rInt3 .imax legPlain 0x006 i h)

theorem imaxImm (i) : Statement (.imaxImm i) := fun h =>
  row_round ⟨1, false, (bInt3I .imaxImm legPlain)⟩ rfl (imm_trim _) 0x026 rfl rfl (by decide) rfl rfl (rInt3I .imaxImm legPlain 0x026 i h)

theorem iabs (i) : Statement (.iabs i) := fun h =>
  row_round ⟨0, false, (bInt2 .iabs legAbs)⟩ rfl rfl 0x007 rfl rfl (by decide) rfl rfl (rInt2 .iabs legAbs 0x007 i h)

theorem ineg (i) : Statement (.ineg i) := fun h =>
  row_round ⟨0, false, (bInt2 .ineg legNeg)⟩ rfl rfl 0x008 rfl rfl (by decide) rfl rfl (rInt2 .ineg legNeg 0x008 i h)

theorem and (i) : Statement (.and i) := fun h =>
  row_round ⟨0, false, (bInt3 .and legLogic)⟩ rfl rfl 0x009 rfl rfl (by decide) rfl rfl (rInt3 .and legLogic 0x009 i h)

theorem andImm (i) : Statement (.andImm i) := fun h =>
  row_round ⟨1, false, (bInt3I .andImm legLogic)⟩ rfl (imm_trim _) 0x029 rfl rfl (by decide) rfl rfl (rInt3I .andImm legLogic 0x029 i h)

theorem or (i) : Statement (.or i) := fun h =>
  row_round ⟨0, false, (bInt3 .or legLogic)⟩ rfl rfl 0x00A rfl rfl (by decide) rfl rfl (rInt3 .or legLogic 0x00A i h)

theorem orImm (i) : Statement (.orImm i) := fun h =>
  row_round ⟨1, false, (bInt3I .orImm legLogic)⟩ rfl (imm_trim _) 0x02A rfl rfl (by decide) rfl rfl (rInt3I .orImm legLogic 0x02A i h)

theorem xor (i) : Statement (.xor i) := fun h =>
  row_round ⟨0, false, (bInt3 .xor legLogic)⟩ rfl rfl 0x00B rfl rfl (by decide) rfl rfl (rInt3 .xor legLogic 0x00B i h)

theorem xorImm (i) : Statement (.xorImm i) := fun h =>
  row_round ⟨1, false, (bInt3I .xorImm legLogic)⟩ rfl (imm_trim _) 0x02B rfl rfl (by decide) rfl rfl (rInt3I .xorImm legLogic 0x02B i h)

theorem not (i) : Statement (.not i) := fun h =>
  row_round ⟨0, false, (bInt2 .not legLogic)⟩ rfl rfl 0x00C rfl rfl (by decide) rfl rfl (rInt2 .not legLogic 0x00C i h)

theorem andn (i) : Statement (.andn i) := fun h =>
  row_round ⟨0, false, (bInt3 .andn legLogic)⟩ rfl rfl 0x00D rfl rfl (by decide) rfl rfl (rInt3 .andn legLogic 0x00D i h)

theorem andnImm (i) : Statement (.andnImm i) := fun h =>
  row_round ⟨1, false, (bInt3I .andnImm legLogic)⟩ rfl (imm_trim _) 0x02D rfl rfl (by decide) rfl rfl (rInt3I .andnImm legLogic 0x02D i h)

theorem shl (i) : Statement (.shl i) := fun h =>
  row_round ⟨0, false, (bInt3 .shl legLogic)⟩ rfl rfl 0x00E rfl rfl (by decide) rfl rfl (rInt3 .shl legLogic 0x00E i h)

theorem shlImm (i) : Statement (.shlImm i) := fun h =>
  row_round ⟨1, false, (bInt3I .shlImm legLogic)⟩ rfl (imm_trim _) 0x02E rfl rfl (by decide) rfl rfl (rInt3I .shlImm legLogic 0x02E i h)

theorem shr (i) : Statement (.shr i) := fun h =>
  row_round ⟨0, false, (bInt3 .shr legLogic)⟩ rfl rfl 0x00F rfl rfl (by decide) rfl rfl (rInt3 .shr legLogic 0x00F i h)

theorem shrImm (i) : Statement (.shrImm i) := fun h =>
  row_round ⟨1, false, (bInt3I .shrImm legLogic)⟩ rfl (imm_trim _) 0x02F rfl rfl (by decide) rfl rfl (rInt3I .shrImm legLogic 0x02F i h)

theorem sar (i) : Statement (.sar i) := fun h =>
  row_round ⟨0, false, (bInt3 .sar legSar)⟩ rfl rfl 0x010 rfl rfl (by decide) rfl rfl (rInt3 .sar legSar 0x010 i h)

theorem sarImm (i) : Statement (.sarImm i) := fun h =>
  row_round ⟨1, false, (bInt3I .sarImm legSar)⟩ rfl (imm_trim _) 0x030 rfl rfl (by decide) rfl rfl (rInt3I .sarImm legSar 0x030 i h)

theorem rot (i) : Statement (.rot i) := fun h =>
  row_round ⟨0, false, (bInt3 .rot legLogic)⟩ rfl rfl 0x011 rfl rfl (by decide) rfl rfl (rInt3 .rot legLogic 0x011 i h)

theorem rotImm (i) : Statement (.rotImm i) := fun h =>
  row_round ⟨1, false, (bInt3I .rotImm legLogic)⟩ rfl (imm_trim _) 0x031 rfl rfl (by decide) rfl rfl (rInt3I .rotImm legLogic 0x031 i h)

theorem popc (i) : Statement (.popc i) := fun h =>
  row_round ⟨0, false, (bInt2 .popc legLogic)⟩ rfl rfl 0x012 rfl rfl (by decide) rfl rfl (rInt2 .popc legLogic 0x012 i h)

theorem clz (i) : Statement (.clz i) := fun h =>
  row_round ⟨0, false, (bInt2 .clz legLogic)⟩ rfl rfl 0x013 rfl rfl (by decide) rfl rfl (rInt2 .clz legLogic 0x013 i h)

theorem brev (i) : Statement (.brev i) := fun h =>
  row_round ⟨0, false, (bInt2 .brev legLogic)⟩ rfl rfl 0x014 rfl rfl (by decide) rfl rfl (rInt2 .brev legLogic 0x014 i h)

theorem bfe (i) : Statement (.bfe i) := fun h =>
  row_round ⟨0, false, (bInt3 .bfe legPlain)⟩ rfl rfl 0x015 rfl rfl (by decide) rfl rfl (rInt3 .bfe legPlain 0x015 i h)

theorem bfeImm (i) : Statement (.bfeImm i) := fun h =>
  row_round ⟨1, false, (bInt3I .bfeImm legPlain)⟩ rfl (imm_trim _) 0x035 rfl rfl (by decide) rfl rfl (rInt3I .bfeImm legPlain 0x035 i h)

theorem bfi (i) : Statement (.bfi i) := fun h =>
  row_round ⟨0, false, (bInt4 .bfi legLogic)⟩ rfl rfl 0x016 rfl rfl (by decide) rfl rfl (rInt4 .bfi legLogic 0x016 i h)

theorem bfiImm (i) : Statement (.bfiImm i) := fun h =>
  row_round ⟨1, false, (bInt4I .bfiImm legLogic)⟩ rfl (imm_trim _) 0x036 rfl rfl (by decide) rfl rfl (rInt4I .bfiImm legLogic 0x036 i h)

theorem icmp (i) : Statement (.icmp i) := fun h =>
  row_round ⟨0, false, bIcmp⟩ rfl rfl 0x017 rfl rfl (by decide) rfl rfl (by
  have h : (i.h.g.ok && i.xl.ok && pdOk i.d) = true := h
  simp only [Bool.and_eq_true] at h
  refine ⟨g_ok i.h.g (by simp only [h]), ?_⟩
  show bIcmp (enc 0x017 0 i.h i.d i.a i.b 0 (intBits false (if i.sgn then .s32 else .b32) false i.cond.bits) i.xl.bits 0) = .ok _
  obtain ⟨f1, f2, f3, f4⟩ := f_icmp i.sgn i.cond
  simp only [bIcmp, Raw.icmp, f1, f2, f3, f4, Bool.not_false, of_ICond, Raw.xl, xl_mode, xl_par, of_XMode, enc_hdr, enc_x, enc_m, enc_d, enc_a, enc_b, enc_c, ok_bind, need_true, ok_pure, Bool.and_true, beq_self_eq_true, cls, zero, Bool.not_false, h])

theorem icmpImm (i) : Statement (.icmpImm i) := fun h =>
  row_round ⟨1, false, bIcmpI⟩ rfl (imm_trim _) 0x037 rfl rfl (by decide) rfl rfl (by
  have h : (i.h.g.ok && i.xl.ok && pdOk i.d) = true := h
  simp only [Bool.and_eq_true] at h
  refine ⟨g_ok i.h.g (by simp only [h]), ?_⟩
  show bIcmpI (enc 0x037 1 i.h i.d i.a 0 0 (intBits false (if i.sgn then .s32 else .b32) false i.cond.bits) i.xl.bits (immExt i.imm)) = .ok _
  obtain ⟨f1, f2, f3, f4⟩ := f_icmp i.sgn i.cond
  simp only [bIcmpI, Raw.icmp, f1, f2, f3, f4, Bool.not_false, of_ICond, Raw.xl, xl_mode, xl_par, of_XMode, enc_hdr, enc_x, enc_m, enc_d, enc_a, enc_b, enc_c, enc_ext, ok_bind, need_true, ok_pure, Bool.and_true, beq_self_eq_true, cls, zero, Raw.imm, imm_ext, Bool.not_false, h])

theorem sel (i) : Statement (.sel i) := fun h =>
  row_round ⟨0, false, bSel⟩ rfl rfl 0x018 rfl rfl (by decide) rfl rfl (by
  have h : (i.h.g.ok && i.xl.ok && pOk i.c) = true := h
  simp only [Bool.and_eq_true] at h
  refine ⟨g_ok i.h.g (by simp only [h]), ?_⟩
  show bSel (enc 0x018 0 i.h i.d i.a i.b i.c 0 i.xl.bits 0) = .ok _
  simp only [bSel, Raw.m0, Raw.xl, xl_mode, xl_par, of_XMode, enc_hdr, enc_x, enc_m, enc_d, enc_a, enc_b, enc_c, ok_bind, need_true, ok_pure, beq_self_eq_true, cls, h])

theorem selImm (i) : Statement (.selImm i) := fun h =>
  row_round ⟨1, false, bSelI⟩ rfl (imm_trim _) 0x038 rfl rfl (by decide) rfl rfl (by
  have h : (i.h.g.ok && i.xl.ok && pOk i.c) = true := h
  simp only [Bool.and_eq_true] at h
  refine ⟨g_ok i.h.g (by simp only [h]), ?_⟩
  show bSelI (enc 0x038 1 i.h i.d i.a 0 i.c 0 i.xl.bits (immExt i.imm)) = .ok _
  simp only [bSelI, Raw.m0, Raw.xl, xl_mode, xl_par, of_XMode, enc_hdr, enc_x, enc_m, enc_d, enc_a, enc_b, enc_c, enc_ext, ok_bind, need_true, ok_pure, beq_self_eq_true, cls, zero, Raw.imm, imm_ext, h])

theorem movReg (i) : Statement (.movReg i) := fun h =>
  row_round ⟨0, false, bMov⟩ rfl rfl 0x019 rfl rfl (by decide) rfl rfl (by
  have h : wfMovReg i = true := h
  obtain ⟨hd, f, s, ty, xl, d, a⟩ := i
  have h2 : hd.g.ok = true ∧ movMod f s ty = true ∧ movXl f s xl = true ∧ movCls f s d a = true := by
    cases f <;> simp only [wfMovReg, Bool.and_eq_true] at h <;> simp only [movMod, movXl, movCls, Bool.and_eq_true, h, and_self]
  refine ⟨g_ok hd.g h2.1, ?_⟩
  show bMov (enc 0x019 0 hd d a 0 0 (intBits s ty false f.bits) xl.bits 0) = .ok _
  simp only [bMov, int_ty, int_s, int_o, int_sat, of_ITy, of_MovForm, Raw.xl, xl_mode, xl_par, of_XMode, enc_hdr, enc_x, enc_m, enc_d, enc_a,
    enc_b, enc_c, ok_bind, need_true, ok_pure, Bool.and_true, Bool.not_false, beq_self_eq_true, cls, zero, h2])

theorem movi (i) : Statement (.movi i) := fun h =>
  row_round ⟨1, false, bMovi⟩ rfl (imm_trim _) 0x039 rfl rfl (by decide) rfl rfl (by
  have h : (i.h.g.ok && (!i.ty.wide || i.s) && xlY i.s i.xl && yOk i.s i.d) = true := h
  simp only [Bool.and_eq_true] at h
  refine ⟨g_ok i.h.g (by simp only [h]), ?_⟩
  show bMovi (enc 0x039 1 i.h i.d 0 0 0 (intBits i.s i.ty false 0) i.xl.bits (immExt i.imm)) = .ok _
  have f1 : (intBits i.s i.ty false 0).extractLsb' 0 4 = 0 := by cases i.s <;> cases i.ty <;> rfl
  simp only [bMovi, f1, int_ty, int_s, of_ITy, Raw.xl, xl_mode, xl_par, of_XMode, enc_hdr, enc_x, enc_m, enc_d, enc_a, enc_b, enc_c, enc_ext, ok_bind, need_true, ok_pure, Bool.and_true, beq_self_eq_true, cls, zero, Raw.imm, imm_ext, h])

theorem movSpecialSource (i) : Statement (.movSpecialSource i) := fun h =>
  row_round ⟨0, false, bMovSrc⟩ rfl rfl 0x01A rfl rfl (by decide) rfl rfl (by
  have h : (i.h.g.ok && nSrcOk i.a) = true := h
  simp only [Bool.and_eq_true] at h
  refine ⟨g_ok i.h.g (by simp only [h]), ?_⟩
  show bMovSrc (enc 0x01A 0 i.h i.d i.a 0 0 0 0 0) = .ok _
  simp only [bMovSrc, Raw.m0, Raw.x0, enc_hdr, enc_x, enc_m, enc_d, enc_a, enc_b, enc_c, ok_bind, need_true, ok_pure, Bool.and_true, beq_self_eq_true, cls, zero, h])

theorem movSpecialDestination (i) : Statement (.movSpecialDestination i) := fun h =>
  row_round ⟨0, false, bMovDst⟩ rfl rfl 0x01F rfl rfl (by decide) rfl rfl (by
  have h : (i.h.g.ok && nDstOk i.d) = true := h
  simp only [Bool.and_eq_true] at h
  refine ⟨g_ok i.h.g (by simp only [h]), ?_⟩
  show bMovDst (enc 0x01F 0 i.h i.d i.a 0 0 0 0 0) = .ok _
  simp only [bMovDst, Raw.m0, Raw.x0, enc_hdr, enc_x, enc_m, enc_d, enc_a, enc_b, enc_c, ok_bind, need_true, ok_pure, Bool.and_true, beq_self_eq_true, cls, zero, h])

theorem lea (i) : Statement (.lea i) := fun h =>
  row_round ⟨0, false, bLea⟩ rfl rfl 0x01B rfl rfl (by decide) rfl rfl (by
  have h : (i.h.g.ok && (!i.wide || i.s) && xlY i.s i.xl && yOk i.s i.d && yOk i.s i.a && yOk i.s i.b && shOk i.sh) = true := h
  simp only [Bool.and_eq_true] at h
  refine ⟨g_ok i.h.g (by simp only [h]), ?_⟩
  show bLea (enc 0x01B 0 i.h i.d i.a i.b i.sh (leaBits i.s i.wide) i.xl.bits 0) = .ok _
  obtain ⟨f1, f2, f3, f4⟩ := f_lea i.s i.wide
  simp only [bLea, Raw.lea, f1, f2, f3, f4, Bool.not_false, Raw.xl, xl_mode, xl_par, of_XMode, enc_hdr, enc_x, enc_m, enc_d, enc_a, enc_b, enc_c, ok_bind, need_true, ok_pure, Bool.and_true, beq_self_eq_true, cls, Bool.not_false, h])

theorem leaImm (i) : Statement (.leaImm i) := fun h =>
  row_round ⟨1, false, bLeaI⟩ rfl (imm_trim _) 0x03B rfl rfl (by decide) rfl rfl (by
  have h : (i.h.g.ok && (!i.wide || i.s) && xlY i.s i.xl && yOk i.s i.d && yOk i.s i.a && shOk i.sh) = true := h
  simp only [Bool.and_eq_true] at h
  refine ⟨g_ok i.h.g (by simp only [h]), ?_⟩
  show bLeaI (enc 0x03B 1 i.h i.d i.a 0 i.sh (leaBits i.s i.wide) i.xl.bits (immExt i.imm)) = .ok _
  obtain ⟨f1, f2, f3, f4⟩ := f_lea i.s i.wide
  simp only [bLeaI, Raw.lea, f1, f2, f3, f4, Bool.not_false, Raw.xl, xl_mode, xl_par, of_XMode, enc_hdr, enc_x, enc_m, enc_d, enc_a, enc_b, enc_c, enc_ext, ok_bind, need_true, ok_pure, Bool.and_true, beq_self_eq_true, cls, zero, Raw.imm, imm_ext, Bool.not_false, h])

theorem iadd64 (i) : Statement (.iadd64 i) := fun h =>
  row_round ⟨0, false, bIadd64⟩ rfl rfl 0x01C rfl rfl (by decide) rfl rfl (by
  have h : (i.h.g.ok && wfI64 i.s i.ty i.xl && wOk i.d && wOk i.a && wOk i.b) = true := h
  simp only [wfI64, Bool.not_eq_true', Bool.and_eq_true] at h
  refine ⟨g_ok i.h.g (by simp only [h]), ?_⟩
  show bIadd64 (eInt3 0x01C i) = .ok _
  obtain ⟨hd, s, ty, sat, xl, d, a, rest⟩ := i
  obtain rfl : s = false := by cases s <;> simp_all
  simp only [bIadd64, Raw.i64, eInt3, int_ty, int_s, int_sat, int_o, of_ITy, Bool.not_false, Raw.xl, xl_mode, xl_par, of_XMode, enc_hdr, enc_x, enc_m, enc_d, enc_a, enc_b, enc_c, ok_bind, need_true, ok_pure, Bool.and_true, Bool.true_and, beq_self_eq_true, cls, zero, Bool.not_false, h])

theorem iadd64Imm (i) : Statement (.iadd64Imm i) := fun h =>
  row_round ⟨1, false, bIadd64I⟩ rfl (imm_trim _) 0x03C rfl rfl (by decide) rfl rfl (by
  have h : (i.h.g.ok && wfI64 i.s i.ty i.xl && wOk i.d && wOk i.a) = true := h
  simp only [wfI64, Bool.not_eq_true', Bool.and_eq_true] at h
  refine ⟨g_ok i.h.g (by simp only [h]), ?_⟩
  show bIadd64I (eInt3I 0x03C i) = .ok _
  obtain ⟨hd, s, ty, sat, xl, d, a, rest⟩ := i
  obtain rfl : s = false := by cases s <;> simp_all
  simp only [bIadd64I, Raw.i64, eInt3I, int_ty, int_s, int_sat, int_o, of_ITy, Bool.not_false, Raw.xl, xl_mode, xl_par, of_XMode, enc_hdr, enc_x, enc_m, enc_d, enc_a, enc_b, enc_c, enc_ext, ok_bind, need_true, ok_pure, Bool.and_true, Bool.true_and, beq_self_eq_true, cls, zero, Raw.imm, imm_ext, Bool.not_false, h])

theorem imad64 (i) : Statement (.imad64 i) := fun h =>
  row_round ⟨0, false, bImad64⟩ rfl rfl 0x01D rfl rfl (by decide) rfl rfl (by
  have h : (i.h.g.ok && wfI64 i.s i.ty i.xl && wOk i.d && wOk i.c) = true := h
  simp only [wfI64, Bool.not_eq_true', Bool.and_eq_true] at h
  refine ⟨g_ok i.h.g (by simp only [h]), ?_⟩
  show bImad64 (eInt4 0x01D i) = .ok _
  obtain ⟨hd, s, ty, sat, xl, d, a, rest⟩ := i
  obtain rfl : s = false := by cases s <;> simp_all
  simp only [bImad64, Raw.i64, eInt4, int_ty, int_s, int_sat, int_o, of_ITy, Bool.not_false, Raw.xl, xl_mode, xl_par, of_XMode, enc_hdr, enc_x, enc_m, enc_d, enc_a, enc_b, enc_c, ok_bind, need_true, ok_pure, Bool.and_true, Bool.true_and, beq_self_eq_true, cls, Bool.not_false, h])

theorem imad64Imm (i) : Statement (.imad64Imm i) := fun h =>
  row_round ⟨1, false, bImad64I⟩ rfl (imm_trim _) 0x03D rfl rfl (by decide) rfl rfl (by
  have h : (i.h.g.ok && wfI64 i.s i.ty i.xl && wOk i.d && wOk i.c) = true := h
  simp only [wfI64, Bool.not_eq_true', Bool.and_eq_true] at h
  refine ⟨g_ok i.h.g (by simp only [h]), ?_⟩
  show bImad64I (eInt4I 0x03D i) = .ok _
  obtain ⟨hd, s, ty, sat, xl, d, a, rest⟩ := i
  obtain rfl : s = false := by cases s <;> simp_all
  simp only [bImad64I, Raw.i64, eInt4I, int_ty, int_s, int_sat, int_o, of_ITy, Bool.not_false, Raw.xl, xl_mode, xl_par, of_XMode, enc_hdr, enc_x, enc_m, enc_d, enc_a, enc_b, enc_c, enc_ext, ok_bind, need_true, ok_pure, Bool.and_true, Bool.true_and, beq_self_eq_true, cls, zero, Raw.imm, imm_ext, Bool.not_false, h])

theorem icvt (i) : Statement (.icvt i) := fun h =>
  row_round ⟨0, false, bIcvt⟩ rfl rfl 0x01E rfl rfl (by decide) rfl rfl (by
  have h : (wfICvt i) = true := h
  simp only [wfICvt, Bool.and_eq_true] at h
  refine ⟨g_ok i.h.g (by simp only [h]), ?_⟩
  show bIcvt (enc 0x01E 0 i.h i.d i.a 0 0 (intBits i.s i.ty i.sat i.w.bits) i.xl.bits 0) = .ok _
  simp only [bIcvt, int_ty, int_s, int_sat, int_o, of_ITy, of_CvtW, Raw.xl, xl_mode, xl_par, of_XMode, enc_hdr, enc_x, enc_m, enc_d, enc_a, enc_b, enc_c, ok_bind, need_true, ok_pure, Bool.and_true, beq_self_eq_true, cls, zero, h])

theorem fadd (i) : Statement (.fadd i) := fun h =>
  row_round ⟨0, false, (bFp3 .fadd legFp false)⟩ rfl rfl 0x040 rfl rfl (by decide) rfl rfl (rFp3 .fadd legFp false 0x040 i h)

theorem faddImm (i) : Statement (.faddImm i) := fun h =>
  row_round ⟨1, false, (bFp3I .faddImm legFp false)⟩ rfl (imm_trim _) 0x060 rfl rfl (by decide) rfl rfl (rFp3I .faddImm legFp false 0x060 i h)

theorem fsub (i) : Statement (.fsub i) := fun h =>
  row_round ⟨0, false, (bFp3 .fsub legFp false)⟩ rfl rfl 0x041 rfl rfl (by decide) rfl rfl (rFp3 .fsub legFp false 0x041 i h)

theorem fsubImm (i) : Statement (.fsubImm i) := fun h =>
  row_round ⟨1, false, (bFp3I .fsubImm legFp false)⟩ rfl (imm_trim _) 0x061 rfl rfl (by decide) rfl rfl (rFp3I .fsubImm legFp false 0x061 i h)

theorem fmul (i) : Statement (.fmul i) := fun h =>
  row_round ⟨0, false, (bFp3 .fmul legFp false)⟩ rfl rfl 0x042 rfl rfl (by decide) rfl rfl (rFp3 .fmul legFp false 0x042 i h)

theorem fmulImm (i) : Statement (.fmulImm i) := fun h =>
  row_round ⟨1, false, (bFp3I .fmulImm legFp false)⟩ rfl (imm_trim _) 0x062 rfl rfl (by decide) rfl rfl (rFp3I .fmulImm legFp false 0x062 i h)

theorem ffma (i) : Statement (.ffma i) := fun h =>
  row_round ⟨0, false, (bFp4 .ffma legFp false)⟩ rfl rfl 0x043 rfl rfl (by decide) rfl rfl (rFp4 .ffma legFp false 0x043 i h)

theorem ffmaImm (i) : Statement (.ffmaImm i) := fun h =>
  row_round ⟨1, false, (bFp4I .ffmaImm legFp false)⟩ rfl (imm_trim _) 0x063 rfl rfl (by decide) rfl rfl (rFp4I .ffmaImm legFp false 0x063 i h)

theorem fmin (i) : Statement (.fmin i) := fun h =>
  row_round ⟨0, false, (bFp3 .fmin legMinMax false)⟩ rfl rfl 0x044 rfl rfl (by decide) rfl rfl (rFp3 .fmin legMinMax false 0x044 i h)

theorem fminImm (i) : Statement (.fminImm i) := fun h =>
  row_round ⟨1, false, (bFp3I .fminImm legMinMax false)⟩ rfl (imm_trim _) 0x064 rfl rfl (by decide) rfl rfl (rFp3I .fminImm legMinMax false 0x064 i h)

theorem fmax (i) : Statement (.fmax i) := fun h =>
  row_round ⟨0, false, (bFp3 .fmax legMinMax false)⟩ rfl rfl 0x045 rfl rfl (by decide) rfl rfl (rFp3 .fmax legMinMax false 0x045 i h)

theorem fmaxImm (i) : Statement (.fmaxImm i) := fun h =>
  row_round ⟨1, false, (bFp3I .fmaxImm legMinMax false)⟩ rfl (imm_trim _) 0x065 rfl rfl (by decide) rfl rfl (rFp3I .fmaxImm legMinMax false 0x065 i h)

theorem fcmp (i) : Statement (.fcmp i) := fun h =>
  row_round ⟨0, false, (bFcmp .fcmp ty3 false)⟩ rfl rfl 0x046 rfl rfl (by decide) rfl rfl (by
  have h : (i.h.g.ok && ty3.contains i.ty && i.xl.ok && pdOk i.d) = true := h
  simp only [Bool.and_eq_true] at h
  refine ⟨g_ok i.h.g (by simp only [h]), ?_⟩
  show bFcmp .fcmp ty3 false (eFcmp 0x046 i) = .ok _
  simp only [bFcmp, eFcmp, Raw.fcmp, fp_ty, fp_rnd, fp_sat, fp_ftz, of_FTy, of_FCond, vwOk, Raw.xl, xl_mode, xl_par, of_XMode, enc_hdr, enc_x, enc_m, enc_d, enc_a, enc_b, enc_c, ok_bind, need_true, ok_pure, Bool.and_true, beq_self_eq_true, cls, zero, Bool.true_or, Bool.not_false, h])

theorem fcmpImm (i) : Statement (.fcmpImm i) := fun h =>
  row_round ⟨1, false, bFcmpI⟩ rfl (imm_trim _) 0x066 rfl rfl (by decide) rfl rfl (by
  have h : (i.h.g.ok && ty3.contains i.ty && i.xl.ok && pdOk i.d && immF false i.ty i.imm) = true := h
  simp only [Bool.and_eq_true] at h
  refine ⟨g_ok i.h.g (by simp only [h]), ?_⟩
  show bFcmpI (enc 0x066 1 i.h i.d i.a 0 0 (fpBits i.neg i.ftz i.ty i.cond.bits) i.xl.bits (immExt i.imm)) = .ok _
  simp only [bFcmpI, Raw.fcmp, fp_ty, fp_rnd, fp_sat, fp_ftz, of_FTy, of_FCond, Raw.xl, xl_mode, xl_par, of_XMode, enc_hdr, enc_x, enc_m, enc_d, enc_a, enc_b, enc_c, enc_ext, ok_bind, need_true, ok_pure, Bool.and_true, Bool.true_and, beq_self_eq_true, cls, zero, Raw.imm, imm_ext, h])

theorem fclass (i) : Statement (.fclass i) := fun h =>
  row_round ⟨0, false, (bFp2 .fclass legClass)⟩ rfl rfl 0x047 rfl rfl (by decide) rfl rfl (rFp2 .fclass legClass 0x047 i h)

theorem frcp (i) : Statement (.frcp i) := fun h =>
  row_round ⟨0, false, (bFp2 .frcp legFun)⟩ rfl rfl 0x048 rfl rfl (by decide) rfl rfl (rFp2 .frcp legFun 0x048 i h)

theorem frsq (i) : Statement (.frsq i) := fun h =>
  row_round ⟨0, false, (bFp2 .frsq legFun)⟩ rfl rfl 0x049 rfl rfl (by decide) rfl rfl (rFp2 .frsq legFun 0x049 i h)

theorem fsqrt (i) : Statement (.fsqrt i) := fun h =>
  row_round ⟨0, false, (bFp2 .fsqrt legSqrt)⟩ rfl rfl 0x04A rfl rfl (by decide) rfl rfl (rFp2 .fsqrt legSqrt 0x04A i h)

theorem fdivs (i) : Statement (.fdivs i) := fun h =>
  row_round ⟨0, false, (bFp2 .fdivs legClass)⟩ rfl rfl 0x04B rfl rfl (by decide) rfl rfl (rFp2 .fdivs legClass 0x04B i h)

theorem fexp2 (i) : Statement (.fexp2 i) := fun h =>
  row_round ⟨0, false, (bFp2 .fexp2 legFun)⟩ rfl rfl 0x04C rfl rfl (by decide) rfl rfl (rFp2 .fexp2 legFun 0x04C i h)

theorem flog2 (i) : Statement (.flog2 i) := fun h =>
  row_round ⟨0, false, (bFp2 .flog2 legFun)⟩ rfl rfl 0x04D rfl rfl (by decide) rfl rfl (rFp2 .flog2 legFun 0x04D i h)

theorem fsin (i) : Statement (.fsin i) := fun h =>
  row_round ⟨0, false, (bFp2 .fsin legFun)⟩ rfl rfl 0x04E rfl rfl (by decide) rfl rfl (rFp2 .fsin legFun 0x04E i h)

theorem fcos (i) : Statement (.fcos i) := fun h =>
  row_round ⟨0, false, (bFp2 .fcos legFun)⟩ rfl rfl 0x04F rfl rfl (by decide) rfl rfl (rFp2 .fcos legFun 0x04F i h)

theorem ftanh (i) : Statement (.ftanh i) := fun h =>
  row_round ⟨0, false, (bFp2 .ftanh legFun)⟩ rfl rfl 0x050 rfl rfl (by decide) rfl rfl (rFp2 .ftanh legFun 0x050 i h)

theorem frnd (i) : Statement (.frnd i) := fun h =>
  row_round ⟨0, false, (bFp2 .frnd legRnd)⟩ rfl rfl 0x051 rfl rfl (by decide) rfl rfl (rFp2 .frnd legRnd 0x051 i h)

theorem fcvt (i) : Statement (.fcvt i) := fun h =>
  row_round ⟨0, false, (bConv .fcvt 0x52 legCvt)⟩ rfl rfl 0x052 rfl rfl (by decide) rfl rfl (rConv .fcvt 0x52 legCvt i h)

theorem ftoi (i) : Statement (.ftoi i) := fun h =>
  row_round ⟨0, false, (bConv .ftoi 0x53 legFtoi)⟩ rfl rfl 0x053 rfl rfl (by decide) rfl rfl (rConv .ftoi 0x53 legFtoi i h)

theorem itof (i) : Statement (.itof i) := fun h =>
  row_round ⟨0, false, (bConv .itof 0x54 legItof)⟩ rfl rfl 0x054 rfl rfl (by decide) rfl rfl (rConv .itof 0x54 legItof i h)

theorem dadd (i) : Statement (.dadd i) := fun h =>
  row_round ⟨0, false, (bFp3 .dadd legF64 true)⟩ rfl rfl 0x055 rfl rfl (by decide) rfl rfl (rFp3 .dadd legF64 true 0x055 i h)

theorem dmul (i) : Statement (.dmul i) := fun h =>
  row_round ⟨0, false, (bFp3 .dmul legF64 true)⟩ rfl rfl 0x056 rfl rfl (by decide) rfl rfl (rFp3 .dmul legF64 true 0x056 i h)

theorem dfma (i) : Statement (.dfma i) := fun h =>
  row_round ⟨0, false, (bFp4 .dfma legF64 true)⟩ rfl rfl 0x057 rfl rfl (by decide) rfl rfl (rFp4 .dfma legF64 true 0x057 i h)

theorem dcmp (i) : Statement (.dcmp i) := fun h =>
  row_round ⟨0, false, (bFcmp .dcmp [.f64] true)⟩ rfl rfl 0x058 rfl rfl (by decide) rfl rfl (by
  have h : (i.h.g.ok && i.ty == .f64 && i.xl.ok && pdOk i.d && wOk i.a && wOk i.b) = true := h
  simp only [Bool.and_eq_true] at h
  refine ⟨g_ok i.h.g (by simp only [h]), ?_⟩
  show bFcmp .dcmp [.f64] true (eFcmp 0x058 i) = .ok _
  obtain ⟨hd, neg, ftz, ty, cond, xl, d, a, b⟩ := i
  obtain rfl : ty = .f64 := eq_of_beq (by simp only [h])
  have f1 : List.contains [FTy.f64] FTy.f64 = true := rfl
  simp only [bFcmp, eFcmp, Raw.fcmp, fp_ty, fp_rnd, fp_sat, fp_ftz, of_FTy, of_FCond, vwOk, Raw.xl, xl_mode, xl_par, of_XMode, f1, enc_hdr, enc_x, enc_m, enc_d, enc_a, enc_b, enc_c, ok_bind, need_true, ok_pure, Bool.and_true, beq_self_eq_true, cls, zero, Bool.not_true, Bool.or_true, h])

theorem hadd2 (i) : Statement (.hadd2 i) := fun h =>
  row_round ⟨0, false, (bFp3 .hadd2 legPacked false)⟩ rfl rfl 0x059 rfl rfl (by decide) rfl rfl (rFp3 .hadd2 legPacked false 0x059 i h)

theorem hadd2Imm (i) : Statement (.hadd2Imm i) := fun h =>
  row_round ⟨1, false, (bFp3I .hadd2Imm legPacked true)⟩ rfl (imm_trim _) 0x079 rfl rfl (by decide) rfl rfl (rFp3I .hadd2Imm legPacked true 0x079 i h)

theorem hmul2 (i) : Statement (.hmul2 i) := fun h =>
  row_round ⟨0, false, (bFp3 .hmul2 legPacked false)⟩ rfl rfl 0x05A rfl rfl (by decide) rfl rfl (rFp3 .hmul2 legPacked false 0x05A i h)

theorem hmul2Imm (i) : Statement (.hmul2Imm i) := fun h =>
  row_round ⟨1, false, (bFp3I .hmul2Imm legPacked true)⟩ rfl (imm_trim _) 0x07A rfl rfl (by decide) rfl rfl (rFp3I .hmul2Imm legPacked true 0x07A i h)

theorem hfma2 (i) : Statement (.hfma2 i) := fun h =>
  row_round ⟨0, false, (bFp4 .hfma2 legPacked false)⟩ rfl rfl 0x05B rfl rfl (by decide) rfl rfl (rFp4 .hfma2 legPacked false 0x05B i h)

theorem hfma2Imm (i) : Statement (.hfma2Imm i) := fun h =>
  row_round ⟨1, false, (bFp4I .hfma2Imm legPacked true)⟩ rfl (imm_trim _) 0x07B rfl rfl (by decide) rfl rfl (rFp4I .hfma2Imm legPacked true 0x07B i h)

theorem hmin2 (i) : Statement (.hmin2 i) := fun h =>
  row_round ⟨0, false, (bFp3 .hmin2 legPackedMM false)⟩ rfl rfl 0x05C rfl rfl (by decide) rfl rfl (rFp3 .hmin2 legPackedMM false 0x05C i h)

theorem hmin2Imm (i) : Statement (.hmin2Imm i) := fun h =>
  row_round ⟨1, false, (bFp3I .hmin2Imm legPackedMM true)⟩ rfl (imm_trim _) 0x07C rfl rfl (by decide) rfl rfl (rFp3I .hmin2Imm legPackedMM true 0x07C i h)

theorem hmax2 (i) : Statement (.hmax2 i) := fun h =>
  row_round ⟨0, false, (bFp3 .hmax2 legPackedMM false)⟩ rfl rfl 0x05D rfl rfl (by decide) rfl rfl (rFp3 .hmax2 legPackedMM false 0x05D i h)

theorem hmax2Imm (i) : Statement (.hmax2Imm i) := fun h =>
  row_round ⟨1, false, (bFp3I .hmax2Imm legPackedMM true)⟩ rfl (imm_trim _) 0x07D rfl rfl (by decide) rfl rfl (rFp3I .hmax2Imm legPackedMM true 0x07D i h)

theorem qfmt (i) : Statement (.qfmt i) := fun h =>
  row_round ⟨0, false, bQfmt⟩ rfl rfl 0x080 rfl rfl (by decide) rfl rfl (by
  have h : (i.h.g.ok && fOk i.d && sOk i.a) = true := h
  simp only [Bool.and_eq_true] at h
  refine ⟨g_ok i.h.g (by simp only [h]), ?_⟩
  show bQfmt (enc 0x080 0 i.h i.d i.a 0 0 0 0 0) = .ok _
  simp only [bQfmt, Raw.m0, Raw.x0, enc_hdr, enc_x, enc_m, enc_d, enc_a, enc_b, enc_c, ok_bind, need_true, ok_pure, Bool.and_true, beq_self_eq_true, cls, zero, h])

theorem qfmtImm (i) : Statement (.qfmtImm i) := fun h =>
  row_round ⟨1, false, bQfmtI⟩ rfl (imm_trim _) 0x085 rfl rfl (by decide) rfl rfl (by
  have h : (wfHDI fOk immAny i) = true := h
  simp only [wfHDI, Bool.and_eq_true] at h
  refine ⟨g_ok i.h.g (by simp only [h]), ?_⟩
  show bQfmtI (enc 0x085 1 i.h i.d 0 0 0 0 0 (immExt i.imm)) = .ok _
  simp only [bQfmtI, Raw.m0, Raw.x0, enc_hdr, enc_x, enc_m, enc_d, enc_a, enc_b, enc_c, enc_ext, ok_bind, need_true, ok_pure, Bool.and_true, beq_self_eq_true, cls, zero, Raw.imm, imm_ext, h])

theorem qpack (i) : Statement (.qpack i) := fun h =>
  row_round ⟨0, false, bQpack⟩ rfl rfl 0x081 rfl rfl (by decide) rfl rfl (by
  have h : (i.h.g.ok && i.xl.ok && fOk i.c) = true := h
  simp only [Bool.and_eq_true] at h
  refine ⟨g_ok i.h.g (by simp only [h]), ?_⟩
  show bQpack (enc 0x081 0 i.h i.d i.a i.b i.c (bit1 i.sat ++ i.j ++ (0 : BitVec 1) ++ i.rnd.bits) i.xl.bits 0) = .ok _
  obtain ⟨f1, f2, f3, f4⟩ := f_qpack i.sat i.j 0 i.rnd.bits _ rfl
  have f5 : ∀ (z : BitVec 8), z.extractLsb' 3 1 = 0 → z.getLsbD 3 = false := by decide
  have f6 := f5 _ f3
  simp only [bQpack, f1, f2, f4, f6, Bool.not_false, of_Rnd, Raw.xl, xl_mode, xl_par, of_XMode, enc_hdr, enc_x, enc_m, enc_d, enc_a, enc_b, enc_c, ok_bind, need_true, ok_pure, cls, Bool.not_false, h])

theorem qunpack (i) : Statement (.qunpack i) := fun h =>
  row_round ⟨0, false, bQunpack⟩ rfl rfl 0x082 rfl rfl (by decide) rfl rfl (by
  have h : (i.h.g.ok && i.xl.ok && elemOk i.j && fOk i.c) = true := h
  simp only [Bool.and_eq_true] at h
  refine ⟨g_ok i.h.g (by simp only [h]), ?_⟩
  show bQunpack (enc 0x082 0 i.h i.d i.a i.j i.c 0 i.xl.bits 0) = .ok _
  simp only [bQunpack, Raw.m0, Raw.xl, xl_mode, xl_par, of_XMode, enc_hdr, enc_x, enc_m, enc_d, enc_a, enc_b, enc_c, ok_bind, need_true, ok_pure, Bool.and_true, beq_self_eq_true, cls, h])

theorem bscale (i) : Statement (.bscale i) := fun h =>
  row_round ⟨0, false, bBscale⟩ rfl rfl 0x083 rfl rfl (by decide) rfl rfl (by
  have h : (i.h.g.ok && i.xl.ok) = true := h
  simp only [Bool.and_eq_true] at h
  refine ⟨g_ok i.h.g (by simp only [h]), ?_⟩
  show bBscale (enc 0x083 0 i.h i.d i.a i.b 0 (bit1 i.sat ++ bit1 i.ftz ++ (0 : BitVec 2) ++ bit1 i.div ++ i.rnd.bits) i.xl.bits 0) = .ok _
  obtain ⟨f1, f2, f3, f4, f5⟩ := f_bscale i.sat i.ftz 0 i.div i.rnd.bits _ rfl
  simp only [bBscale, f1, f2, f3, f4, f5, of_Rnd, Raw.xl, xl_mode, xl_par, of_XMode, enc_hdr, enc_x, enc_m, enc_d, enc_a, enc_b, enc_c, ok_bind, need_true, ok_pure, beq_self_eq_true, zero, h])

theorem srseed (i) : Statement (.srseed i) := fun h =>
  row_round ⟨0, false, bSrseed⟩ rfl rfl 0x084 rfl rfl (by decide) rfl rfl (by
  have h : (i.h.g.ok && i.xl.ok) = true := h
  simp only [Bool.and_eq_true] at h
  refine ⟨g_ok i.h.g (by simp only [h]), ?_⟩
  show bSrseed (enc 0x084 0 i.h 0 i.a 0 0 0 i.xl.bits 0) = .ok _
  simp only [bSrseed, Raw.m0, Raw.xl, xl_mode, xl_par, of_XMode, enc_hdr, enc_x, enc_m, enc_d, enc_a, enc_b, enc_c, ok_bind, need_true, ok_pure, Bool.and_true, beq_self_eq_true, zero, h])

theorem perm (i) : Statement (.perm i) := fun h =>
  row_round ⟨0, false, bPerm⟩ rfl rfl 0x088 rfl rfl (by decide) rfl rfl (by
  have h : (i.h.g.ok) = true := h
  refine ⟨g_ok i.h.g (by simp only [h]), ?_⟩
  show bPerm (enc 0x088 0 i.h i.d i.a i.b 0 (low1 i.byte) 0 0) = .ok _
  obtain ⟨f1, f2⟩ := f_low1 0 i.byte (low1 i.byte) rfl
  simp only [bPerm, Raw.x0, f1, f2, enc_hdr, enc_x, enc_m, enc_d, enc_a, enc_b, enc_c, ok_bind, need_true, ok_pure, beq_self_eq_true, zero])

theorem vote (i) : Statement (.vote i) := fun h =>
  row_round ⟨0, false, bVote⟩ rfl rfl 0x089 rfl rfl (by decide) rfl rfl (by
  have h : (i.h.g.ok && sOk i.d && pOk i.a) = true := h
  simp only [Bool.and_eq_true] at h
  refine ⟨g_ok i.h.g (by simp only [h]), ?_⟩
  show bVote (enc 0x089 0 i.h i.d i.a 0 0 0 ((0 : BitVec 6) ++ i.mode.bits) 0) = .ok _
  obtain ⟨f1, f2⟩ := f_vote 0 i.mode.bits _ rfl
  simp only [bVote, f1, f2, of_VoteMode, enc_hdr, enc_x, enc_m, enc_d, enc_a, enc_b, enc_c, ok_bind, need_true, ok_pure, Bool.and_true, beq_self_eq_true, cls, zero, h])

theorem wred (i) : Statement (.wred i) := fun h =>
  row_round ⟨0, false, bWred⟩ rfl rfl 0x08A rfl rfl (by decide) rfl rfl (by
  have h : (i.h.g.ok) = true := h
  refine ⟨g_ok i.h.g (by simp only [h]), ?_⟩
  show bWred (enc 0x08A 0 i.h i.d i.a 0 0 0 ((0 : BitVec 4) ++ i.op.bits) 0) = .ok _
  obtain ⟨f1, f2⟩ := f_wred 0 i.op.bits _ rfl
  simp only [bWred, f1, f2, of_RedOp, enc_hdr, enc_x, enc_m, enc_d, enc_a, enc_b, enc_c, ok_bind, need_true, ok_pure, Bool.and_true, beq_self_eq_true, zero])

theorem wscan (i) : Statement (.wscan i) := fun h =>
  row_round ⟨0, false, bWscan⟩ rfl rfl 0x08B rfl rfl (by decide) rfl rfl (by
  have h : (i.h.g.ok) = true := h
  refine ⟨g_ok i.h.g (by simp only [h]), ?_⟩
  show bWscan (enc 0x08B 0 i.h i.d i.a 0 0 0 ((0 : BitVec 3) ++ bit1 i.excl ++ i.op.bits) 0) = .ok _
  obtain ⟨f1, f2, f3⟩ := f_wscan 0 i.excl i.op.bits _ rfl
  simp only [bWscan, f1, f2, f3, of_RedOp, enc_hdr, enc_x, enc_m, enc_d, enc_a, enc_b, enc_c, ok_bind, need_true, ok_pure, Bool.and_true, beq_self_eq_true, zero])

theorem matchLanes (i) : Statement (.matchLanes i) := fun h =>
  row_round ⟨0, false, bMatch⟩ rfl rfl 0x08C rfl rfl (by decide) rfl rfl (by
  have h : (i.h.g.ok && vwOk i.b64 i.a) = true := h
  simp only [Bool.and_eq_true] at h
  refine ⟨g_ok i.h.g (by simp only [h]), ?_⟩
  show bMatch (enc 0x08C 0 i.h i.d i.a 0 0 0 (low1 i.b64) 0) = .ok _
  obtain ⟨f1, f2⟩ := f_low1 0 i.b64 (low1 i.b64) rfl
  simp only [bMatch, f1, f2, enc_m, enc_hdr, enc_x, enc_m, enc_d, enc_a, enc_b, enc_c, ok_bind, need_true, ok_pure, Bool.and_true, beq_self_eq_true, cls, zero, h])

theorem movx (i) : Statement (.movx i) := fun h =>
  row_round ⟨0, false, bMovx⟩ rfl rfl 0x08D rfl rfl (by decide) rfl rfl (by
  have h : (i.h.g.ok && yOk i.scalar i.a) = true := h
  simp only [Bool.and_eq_true] at h
  refine ⟨g_ok i.h.g (by simp only [h]), ?_⟩
  show bMovx (enc 0x08D 0 i.h i.d i.a i.e 0 (bit1 i.scalar ++ bit1 i.b64 ++ (0 : BitVec 6)) 0 0) = .ok _
  obtain ⟨f1, f2, f3⟩ := f_movx i.scalar i.b64 0 _ rfl
  simp only [bMovx, Raw.x0, f1, f2, f3, enc_hdr, enc_x, enc_m, enc_d, enc_a, enc_b, enc_c, ok_bind, need_true, ok_pure, beq_self_eq_true, cls, zero, h])

theorem movxw (i) : Statement (.movxw i) := fun h =>
  row_round ⟨0, false, bMovxw⟩ rfl rfl 0x08E rfl rfl (by decide) rfl rfl (by
  have h : (i.h.g.ok && yOk i.scalar i.d) = true := h
  simp only [Bool.and_eq_true] at h
  refine ⟨g_ok i.h.g (by simp only [h]), ?_⟩
  show bMovxw (enc 0x08E 0 i.h i.d i.a i.e 0 (bit1 i.scalar ++ bit1 i.b64 ++ (0 : BitVec 6)) 0 0) = .ok _
  obtain ⟨f1, f2, f3⟩ := f_movx i.scalar i.b64 0 _ rfl
  simp only [bMovxw, Raw.x0, f1, f2, f3, enc_hdr, enc_x, enc_m, enc_d, enc_a, enc_b, enc_c, ok_bind, need_true, ok_pure, beq_self_eq_true, cls, zero, h])

theorem spill (i) : Statement (.spill i) := fun h =>
  row_round ⟨1, true, bSpill⟩ rfl (imm_trim _) 0x090 rfl rfl (by decide) rfl (bare_hb i.sw) (by
  have h : (sOk i.b) = true := h
  refine ⟨bare_ne i.sw, ?_⟩
  show bSpill (enc 0x090 1 (bareHdr i.sw) 0 i.a i.b 0 ((0 : BitVec 6) ++ bit1 i.raw ++ bit1 i.sp) 0 (immExt i.off)) = .ok _
  obtain ⟨f1, f2, f3⟩ := f_spill 0 i.raw i.sp _ rfl
  simp only [bSpill, Raw.x0, f1, f2, f3, enc_sw, bareHdr, enc_x, enc_m, enc_d, enc_a, enc_b, enc_c, enc_ext, ok_bind, need_true, ok_pure, Bool.and_true, beq_self_eq_true, cls, zero, Raw.imm, imm_ext, h])

theorem fill (i) : Statement (.fill i) := fun h =>
  row_round ⟨1, true, bFill⟩ rfl (imm_trim _) 0x091 rfl rfl (by decide) rfl (bare_hb i.sw) (by
  have h : (sOk i.b) = true := h
  refine ⟨bare_ne i.sw, ?_⟩
  show bFill (enc 0x091 1 (bareHdr i.sw) i.d 0 i.b 0 (low1 i.sp) 0 (immExt i.off)) = .ok _
  obtain ⟨f1, f2⟩ := f_low1 0 i.sp (low1 i.sp) rfl
  simp only [bFill, Raw.x0, f1, f2, enc_sw, bareHdr, enc_x, enc_m, enc_d, enc_a, enc_b, enc_c, enc_ext, ok_bind, need_true, ok_pure, Bool.and_true, beq_self_eq_true, cls, zero, Raw.imm, imm_ext, h])

theorem bra (i) : Statement (.bra i) := fun h =>
  row_round ⟨2, false, bBra⟩ rfl rfl 0x0A0 rfl rfl (by decide) rfl rfl (by
  have h : (i.h.g.ok) = true := h
  refine ⟨g_ok i.h.g (by simp only [h]), ?_⟩
  show bBra (enc 0x0A0 2 i.h 0 0 0 0 0 0 (i.join ++ i.target)) = .ok _
  obtain ⟨f1, f2⟩ := f_two32 i.join i.target _ rfl
  simp only [bBra, Raw.m0, Raw.x0, f1, f2, enc_hdr, enc_x, enc_m, enc_d, enc_a, enc_b, enc_c, enc_ext, ok_bind, need_true, ok_pure, Bool.and_true, beq_self_eq_true, zero])

theorem brx (i) : Statement (.brx i) := fun h =>
  row_round ⟨1, false, (bHAI .brx wOk)⟩ rfl (imm_trim _) 0x0A1 rfl rfl (by decide) rfl rfl (by
  have h : (i.h.g.ok && wOk i.a) = true := h
  simp only [Bool.and_eq_true] at h
  refine ⟨g_ok i.h.g (by simp only [h]), ?_⟩
  show bHAI .brx wOk (enc 0x0A1 1 i.h 0 i.a 0 0 0 0 (immExt i.imm)) = .ok _
  simp only [bHAI, Raw.m0, Raw.x0, enc_hdr, enc_x, enc_m, enc_d, enc_a, enc_b, enc_c, enc_ext, ok_bind, need_true, ok_pure, Bool.and_true, beq_self_eq_true, cls, zero, Raw.imm, imm_ext, h])

theorem call (i) : Statement (.call i) := fun h =>
  row_round ⟨1, false, (bHDI .call wOk immAny)⟩ rfl (imm_trim _) 0x0A2 rfl rfl (by decide) rfl rfl (by
  have h : (wfHDI wOk immAny i) = true := h
  simp only [wfHDI, immAny, Bool.and_eq_true] at h
  refine ⟨g_ok i.h.g (by simp only [h]), ?_⟩
  show bHDI .call wOk immAny (enc 0x0A2 1 i.h i.d 0 0 0 0 0 (immExt i.imm)) = .ok _
  simp only [bHDI, Raw.m0, Raw.x0, immAny, enc_hdr, enc_x, enc_m, enc_d, enc_a, enc_b, enc_c, enc_ext, ok_bind, need_true, ok_pure, Bool.and_true, beq_self_eq_true, cls, zero, Raw.imm, imm_ext, h])

theorem callx (i) : Statement (.callx i) := fun h =>
  row_round ⟨1, false, (bHDAI .callx wOk wOk)⟩ rfl (imm_trim _) 0x0A3 rfl rfl (by decide) rfl rfl (by
  have h : (i.h.g.ok && wOk i.d && wOk i.a) = true := h
  simp only [Bool.and_eq_true] at h
  refine ⟨g_ok i.h.g (by simp only [h]), ?_⟩
  show bHDAI .callx wOk wOk (enc 0x0A3 1 i.h i.d i.a 0 0 0 0 (immExt i.imm)) = .ok _
  simp only [bHDAI, Raw.m0, Raw.x0, enc_hdr, enc_x, enc_m, enc_d, enc_a, enc_b, enc_c, enc_ext, ok_bind, need_true, ok_pure, Bool.and_true, beq_self_eq_true, cls, zero, Raw.imm, imm_ext, h])

theorem ret (i) : Statement (.ret i) := fun h =>
  row_round ⟨0, false, (bHA .ret wOk)⟩ rfl rfl 0x0A4 rfl rfl (by decide) rfl rfl (by
  have h : (i.h.g.ok && wOk i.a) = true := h
  simp only [Bool.and_eq_true] at h
  refine ⟨g_ok i.h.g (by simp only [h]), ?_⟩
  show bHA .ret wOk (enc 0x0A4 0 i.h 0 i.a 0 0 0 0 0) = .ok _
  simp only [bHA, Raw.m0, Raw.x0, enc_hdr, enc_x, enc_m, enc_d, enc_a, enc_b, enc_c, ok_bind, need_true, ok_pure, Bool.and_true, beq_self_eq_true, cls, zero, h])

theorem exit (i) : Statement (.exit i) := fun h =>
  row_round ⟨0, false, (bNone .exit)⟩ rfl rfl 0x0A5 rfl rfl (by decide) rfl rfl (by
  have h : (i.g.ok) = true := h
  refine ⟨g_ok i.g (by simp only [h]), ?_⟩
  show bNone .exit (enc 0x0A5 0 i 0 0 0 0 0 0 0) = .ok _
  simp only [bNone, Raw.m0, Raw.x0, enc_hdr, enc_x, enc_m, enc_d, enc_a, enc_b, enc_c, ok_bind, need_true, ok_pure, Bool.and_true, beq_self_eq_true, zero])

theorem yield (i) : Statement (.yield i) := fun h =>
  row_round ⟨0, false, (bNone .yield)⟩ rfl rfl 0x0A6 rfl rfl (by decide) rfl rfl (by
  have h : (i.g.ok) = true := h
  refine ⟨g_ok i.g (by simp only [h]), ?_⟩
  show bNone .yield (enc 0x0A6 0 i 0 0 0 0 0 0 0) = .ok _
  simp only [bNone, Raw.m0, Raw.x0, enc_hdr, enc_x, enc_m, enc_d, enc_a, enc_b, enc_c, ok_bind, need_true, ok_pure, Bool.and_true, beq_self_eq_true, zero])

theorem yieldExpiry (i) : Statement (.yieldExpiry i) := fun _ _ _ h => nomatch h

theorem nop (i) : Statement (.nop i) := fun h =>
  row_round ⟨0, false, (bNone .nop)⟩ rfl rfl 0x0A7 rfl rfl (by decide) rfl rfl (by
  have h : (i.g.ok) = true := h
  refine ⟨g_ok i.g (by simp only [h]), ?_⟩
  show bNone .nop (enc 0x0A7 0 i 0 0 0 0 0 0 0) = .ok _
  simp only [bNone, Raw.m0, Raw.x0, enc_hdr, enc_x, enc_m, enc_d, enc_a, enc_b, enc_c, ok_bind, need_true, ok_pure, Bool.and_true, beq_self_eq_true, zero])

theorem bkpt (i) : Statement (.bkpt i) := fun h =>
  row_round ⟨0, false, (bHB .bkpt)⟩ rfl rfl 0x0A8 rfl rfl (by decide) rfl rfl (by
  have h : (i.h.g.ok) = true := h
  refine ⟨g_ok i.h.g (by simp only [h]), ?_⟩
  show bHB .bkpt (enc 0x0A8 0 i.h 0 0 i.b 0 0 0 0) = .ok _
  simp only [bHB, Raw.m0, Raw.x0, enc_hdr, enc_x, enc_m, enc_d, enc_a, enc_b, enc_c, ok_bind, need_true, ok_pure, Bool.and_true, beq_self_eq_true, zero])

theorem tramp (i) : Statement (.tramp i) := fun _ =>
  row_round ⟨0, true, bTramp⟩ rfl rfl 0x0A9 rfl rfl (by decide) rfl rfl ⟨(show (7 : BitVec 4) ≠ 15 by decide), by
    obtain ⟨sw, disp⟩ := i
    obtain ⟨f1, f2⟩ := f_p48 0 disp _ rfl
    have f3 : (((0 : BitVec 2) ++ disp : BitVec 48).extractLsb' 40 8).extractLsb' 6 2 = 0 := by
      rw [ex_ex _ _ _ _ _ (by decide)]; exact f1
    have f4 : (((0 : BitVec 2) ++ disp).extractLsb' 40 8 ++ ((0 : BitVec 2) ++ disp).extractLsb' 32 8 ++ ((0 : BitVec 2) ++ disp).extractLsb' 24 8 ++
      ((0 : BitVec 2) ++ disp).extractLsb' 16 8 ++ ((0 : BitVec 2) ++ disp).extractLsb' 8 8 ++ ((0 : BitVec 2) ++ disp).extractLsb' 0 8) = ((0 : BitVec 2) ++ disp) := by
      rw [ex_join _ 32 8 8 40 rfl, ex_join _ 24 16 8 32 rfl, ex_join _ 16 24 8 24 rfl, ex_join _ 8 32 8 16 rfl, ex_join _ 0 40 8 8 rfl]
      exact BitVec.extractLsb'_eq_self
    show bTramp (trampRaw ⟨sw, disp⟩) = .ok _
    simp only [bTramp, trampRaw, f3, f4, f2, zero, need_true, ok_bind, ok_pure, beq_self_eq_true]⟩

theorem tret (i) : Statement (.tret i) := fun h =>
  row_round ⟨0, true, bTret⟩ rfl rfl 0x0AA rfl rfl (by decide) rfl (bare_hb i) (by
  have h : (true) = true := h
  refine ⟨bare_ne i, ?_⟩
  show bTret (enc 0x0AA 0 (bareHdr i) 0 0 0 0 0 0 0) = .ok _
  simp only [bTret, Raw.m0, Raw.x0, enc_sw, bareHdr, enc_x, enc_m, enc_d, enc_a, enc_b, enc_c, ok_bind, need_true, ok_pure, Bool.and_true, beq_self_eq_true, zero])

theorem syncw (i) : Statement (.syncw i) := fun h =>
  row_round ⟨0, false, (bHA .syncw vAny)⟩ rfl rfl 0x0AB rfl rfl (by decide) rfl rfl (by
  have h : (i.h.g.ok) = true := h
  refine ⟨g_ok i.h.g (by simp only [h]), ?_⟩
  show bHA .syncw vAny (enc 0x0AB 0 i.h 0 i.a 0 0 0 0 0) = .ok _
  simp only [bHA, Raw.m0, Raw.x0, vAny, enc_hdr, enc_x, enc_m, enc_d, enc_a, enc_b, enc_c, ok_bind, need_true, ok_pure, Bool.and_true, beq_self_eq_true, cls, zero])

theorem syncwImm (i) : Statement (.syncwImm i) := fun h =>
  row_round ⟨1, false, (bHI .syncwImm)⟩ rfl (imm_trim _) 0x0AC rfl rfl (by decide) rfl rfl (by
  have h : (i.h.g.ok) = true := h
  refine ⟨g_ok i.h.g (by simp only [h]), ?_⟩
  show bHI .syncwImm (enc 0x0AC 1 i.h 0 0 0 0 0 0 (immExt i.imm)) = .ok _
  simp only [bHI, Raw.m0, Raw.x0, enc_hdr, enc_x, enc_m, enc_d, enc_a, enc_b, enc_c, enc_ext, ok_bind, need_true, ok_pure, Bool.and_true, beq_self_eq_true, zero, Raw.imm, imm_ext])

theorem ld (i) : Statement (.ld i) := fun h =>
  row_round ⟨2, false, (bLoad .ld true false false)⟩ rfl rfl 0x0C0 rfl rfl (by decide) rfl rfl (by
  have h : (wfLoad true false i) = true := h
  simp only [wfLoad, Bool.true_and, Bool.and_eq_true] at h
  refine ⟨g_ok i.h.g (by simp only [h]), ?_⟩
  show bLoad .ld true false false (eLoad 0x0C0 i) = .ok _
  simp only [bLoad, eLoad, Bool.not_false, Raw.mem, Raw.memOp, memOpOk, mem_s, mem_o, mem_z, of_Scope, of_MOrd, of_Size, memX_a, memX_s, memX_0, memX_p, of_Space, memOp_ofBits, enc_hdr, enc_x, enc_m, enc_d, enc_a, enc_b, enc_c, enc_ext, ok_bind, need_true, ok_pure, Bool.and_true, Bool.true_and, beq_self_eq_true, cls, zero, Bool.true_or, Bool.not_false, h])

theorem st (i) : Statement (.st i) := fun h =>
  row_round ⟨2, false, (bStore .st false false)⟩ rfl rfl 0x0C1 rfl rfl (by decide) rfl rfl (by
  have h : (wfStore false i) = true := h
  simp only [wfStore, Bool.and_eq_true] at h
  refine ⟨g_ok i.h.g (by simp only [h]), ?_⟩
  show bStore .st false false (eStore 0x0C1 i) = .ok _
  simp only [bStore, eStore, Bool.not_false, Raw.mem, Raw.memOp, memOpOk, mem_s, mem_o, mem_z, of_Scope, of_MOrd, of_Size, memOp_ofBits, enc_hdr, enc_x, enc_m, enc_d, enc_a, enc_b, enc_c, enc_ext, ok_bind, need_true, ok_pure, Bool.and_true, beq_self_eq_true, cls, zero, Bool.true_or, Bool.not_false, h])

theorem lds (i) : Statement (.lds i) := fun h =>
  row_round ⟨2, false, (bLoad .lds false true false)⟩ rfl rfl 0x0C2 rfl rfl (by decide) rfl rfl (by
  have h : (wfLoad false true i) = true := h
  simp only [wfLoad, Bool.false_and, Bool.or_false, Bool.and_eq_true] at h
  refine ⟨g_ok i.h.g (by simp only [h]), ?_⟩
  show bLoad .lds false true false (eLoad 0x0C2 i) = .ok _
  simp only [bLoad, eLoad, Bool.not_false, Raw.mem, Raw.memOp, memOpOk, mem_s, mem_o, mem_z, of_Scope, of_MOrd, of_Size, memX_a, memX_s, memX_0, memX_p, of_Space, memOp_ofBits, enc_hdr, enc_x, enc_m, enc_d, enc_a, enc_b, enc_c, enc_ext, ok_bind, need_true, ok_pure, Bool.and_true, beq_self_eq_true, cls, zero, Bool.true_or, Bool.not_false, Bool.false_and, Bool.or_false, h])

theorem sts (i) : Statement (.sts i) := fun h =>
  row_round ⟨2, false, (bStore .sts true false)⟩ rfl rfl 0x0C3 rfl rfl (by decide) rfl rfl (by
  have h : (wfStore true i) = true := h
  simp only [wfStore, Bool.and_eq_true] at h
  refine ⟨g_ok i.h.g (by simp only [h]), ?_⟩
  show bStore .sts true false (eStore 0x0C3 i) = .ok _
  simp only [bStore, eStore, Bool.not_false, Raw.mem, Raw.memOp, memOpOk, mem_s, mem_o, mem_z, of_Scope, of_MOrd, of_Size, memOp_ofBits, enc_hdr, enc_x, enc_m, enc_d, enc_a, enc_b, enc_c, enc_ext, ok_bind, need_true, ok_pure, Bool.and_true, beq_self_eq_true, cls, zero, Bool.true_or, Bool.not_false, h])

theorem ldfe (i) : Statement (.ldfe i) := fun h =>
  row_round ⟨2, false, (bLoad .ldfe false true true)⟩ rfl rfl 0x0C4 rfl rfl (by decide) rfl rfl (by
  have h : (wfLoadFe i) = true := h
  simp only [wfLoad, wfLoadFe, Bool.false_and, Bool.or_false, Bool.and_eq_true] at h
  refine ⟨g_ok i.h.g (by simp only [h]), ?_⟩
  show bLoad .ldfe false true true (eLoad 0x0C4 i) = .ok _
  simp only [bLoad, eLoad, Bool.not_false, Raw.mem, Raw.memOp, memOpOk, mem_s, mem_o, mem_z, of_Scope, of_MOrd, of_Size, memX_a, memX_s, memX_0, memX_p, of_Space, memOp_ofBits, enc_hdr, enc_x, enc_m, enc_d, enc_a, enc_b, enc_c, enc_ext, ok_bind, need_true, ok_pure, Bool.and_true, beq_self_eq_true, cls, zero, Bool.not_true, Bool.not_false, Bool.false_or, Bool.false_and, Bool.or_false, h])

theorem ldff (i) : Statement (.ldff i) := fun h =>
  row_round ⟨2, false, (bLoad .ldff false true true)⟩ rfl rfl 0x0C5 rfl rfl (by decide) rfl rfl (by
  have h : (wfLoadFe i) = true := h
  simp only [wfLoad, wfLoadFe, Bool.false_and, Bool.or_false, Bool.and_eq_true] at h
  refine ⟨g_ok i.h.g (by simp only [h]), ?_⟩
  show bLoad .ldff false true true (eLoad 0x0C5 i) = .ok _
  simp only [bLoad, eLoad, Bool.not_false, Raw.mem, Raw.memOp, memOpOk, mem_s, mem_o, mem_z, of_Scope, of_MOrd, of_Size, memX_a, memX_s, memX_0, memX_p, of_Space, memOp_ofBits, enc_hdr, enc_x, enc_m, enc_d, enc_a, enc_b, enc_c, enc_ext, ok_bind, need_true, ok_pure, Bool.and_true, beq_self_eq_true, cls, zero, Bool.not_true, Bool.not_false, Bool.false_or, Bool.false_and, Bool.or_false, h])

theorem stef (i) : Statement (.stef i) := fun h =>
  row_round ⟨2, false, (bStore .stef true true)⟩ rfl rfl 0x0C6 rfl rfl (by decide) rfl rfl (by
  have h : (wfStoreFe i) = true := h
  simp only [wfStore, wfStoreFe, Bool.and_eq_true] at h
  refine ⟨g_ok i.h.g (by simp only [h]), ?_⟩
  show bStore .stef true true (eStore 0x0C6 i) = .ok _
  simp only [bStore, eStore, Raw.mem, Raw.memOp, memOpOk, mem_s, mem_o, mem_z, of_Scope, of_MOrd, of_Size, memOp_ofBits, enc_hdr, enc_x, enc_m, enc_d, enc_a, enc_b, enc_c, enc_ext, ok_bind, need_true, ok_pure, Bool.and_true, beq_self_eq_true, cls, zero, Bool.not_true, Bool.false_or, h])

theorem stf (i) : Statement (.stf i) := fun h =>
  row_round ⟨2, false, (bStore .stf true true)⟩ rfl rfl 0x0C7 rfl rfl (by decide) rfl rfl (by
  have h : (wfStoreFe i) = true := h
  simp only [wfStore, wfStoreFe, Bool.and_eq_true] at h
  refine ⟨g_ok i.h.g (by simp only [h]), ?_⟩
  show bStore .stf true true (eStore 0x0C7 i) = .ok _
  simp only [bStore, eStore, Raw.mem, Raw.memOp, memOpOk, mem_s, mem_o, mem_z, of_Scope, of_MOrd, of_Size, memOp_ofBits, enc_hdr, enc_x, enc_m, enc_d, enc_a, enc_b, enc_c, enc_ext, ok_bind, need_true, ok_pure, Bool.and_true, beq_self_eq_true, cls, zero, Bool.not_true, Bool.false_or, h])

theorem fest (i) : Statement (.fest i) := fun h =>
  row_round ⟨2, false, bFest⟩ rfl rfl 0x0C8 rfl rfl (by decide) rfl rfl (by
  have h : (i.h.g.ok && storeOrd i.ord && ordOk i.ord i.scope && i.m.ok true) = true := h
  simp only [Bool.and_eq_true] at h
  refine ⟨g_ok i.h.g (by simp only [h]), ?_⟩
  show bFest (enc 0x0C8 2 i.h 0 0 (low1 i.full) 0 (memBits i.scope i.ord .b32) 0 i.m.bits) = .ok _
  have f1 : bitOk (low1 i.full) = true ∧ (low1 i.full == 1) = i.full := by cases i.full <;> decide
  simp only [bFest, f1, Raw.mem, Raw.memOp, memOpOk, mem_s, mem_o, mem_z, of_Scope, of_MOrd, of_Size, memOp_ofBits, enc_hdr, enc_x, enc_m, enc_d, enc_a, enc_b, enc_c, enc_ext, ok_bind, need_true, ok_pure, Bool.and_true, beq_self_eq_true, cls, zero, h])

theorem feq (i) : Statement (.feq i) := fun h =>
  row_round ⟨2, false, (bLoad .feq false true true)⟩ rfl rfl 0x0C9 rfl rfl (by decide) rfl rfl (by
  have h : (wfLoadFe i) = true := h
  simp only [wfLoad, wfLoadFe, Bool.false_and, Bool.or_false, Bool.and_eq_true] at h
  refine ⟨g_ok i.h.g (by simp only [h]), ?_⟩
  show bLoad .feq false true true (eLoad 0x0C9 i) = .ok _
  simp only [bLoad, eLoad, Bool.not_false, Raw.mem, Raw.memOp, memOpOk, mem_s, mem_o, mem_z, of_Scope, of_MOrd, of_Size, memX_a, memX_s, memX_0, memX_p, of_Space, memOp_ofBits, enc_hdr, enc_x, enc_m, enc_d, enc_a, enc_b, enc_c, enc_ext, ok_bind, need_true, ok_pure, Bool.and_true, beq_self_eq_true, cls, zero, Bool.not_true, Bool.not_false, Bool.false_or, Bool.false_and, Bool.or_false, h])

theorem feTimeoutExpiry (i) : Statement (.feTimeoutExpiry i) := fun _ _ _ h => nomatch h

theorem pfch (i) : Statement (.pfch i) := fun h =>
  row_round ⟨2, false, (bLine .pfch)⟩ rfl rfl 0x0CA rfl rfl (by decide) rfl rfl (by
  have h : (i.h.g.ok && i.m.ok false) = true := h
  simp only [Bool.and_eq_true] at h
  refine ⟨g_ok i.h.g (by simp only [h]), ?_⟩
  show bLine .pfch (enc 0x0CA 2 i.h 0 0 0 0 0 0 i.m.bits) = .ok _
  simp only [bLine, Raw.memOp, memOpOk, memOp_ofBits, enc_hdr, enc_x, enc_m, enc_d, enc_a, enc_b, enc_c, enc_ext, ok_bind, need_true, ok_pure, Bool.and_true, beq_self_eq_true, zero, h])

theorem cflush (i) : Statement (.cflush i) := fun h =>
  row_round ⟨2, false, (bLine .cflush)⟩ rfl rfl 0x0CB rfl rfl (by decide) rfl rfl (by
  have h : (i.h.g.ok && i.m.ok false) = true := h
  simp only [Bool.and_eq_true] at h
  refine ⟨g_ok i.h.g (by simp only [h]), ?_⟩
  show bLine .cflush (enc 0x0CB 2 i.h 0 0 0 0 0 0 i.m.bits) = .ok _
  simp only [bLine, Raw.memOp, memOpOk, memOp_ofBits, enc_hdr, enc_x, enc_m, enc_d, enc_a, enc_b, enc_c, enc_ext, ok_bind, need_true, ok_pure, Bool.and_true, beq_self_eq_true, zero, h])

theorem atom (i) : Statement (.atom i) := fun h =>
  row_round ⟨2, false, bAtom⟩ rfl rfl 0x0CC rfl rfl (by decide) rfl rfl (by
  have h : wfAtom i = true := h
  simp only [wfAtom, Bool.and_eq_true] at h
  refine ⟨g_ok i.h.g (by simp only [h]), ?_⟩
  show bAtom (enc 0x0CC 2 i.h 0 i.a i.b 0 (memBits i.scope i.ord (atomSize i.wide)) (memX i.aop.bits false (if i.sp then .sp else .dflt)) i.m.bits) = .ok _
  have hc : casUnused i.aop i.b = true ∧ (i.aop != .cas || zOk (atomSize i.wide) i.b) = true := by
    have hb := h.1.2
    cases hc : (i.aop == AOp.cas) <;> simp only [casB, casUnused, bne, hc, if_true, Bool.false_eq_true, if_false, Bool.not_true, Bool.not_false,
      Bool.true_or, Bool.false_or, and_true, true_and] at hb ⊢ <;> exact hb
  simp only [bAtom, Raw.atom, Raw.mem, Raw.memOp, memOpOk, mem_s, mem_o, mem_z, of_Scope, of_MOrd, of_Size, of_AOp, of_Space, memX_a, memX_p,
    memX_32, memOp_ofBits, asize, sp_of, hc, Bool.not_or_self, Bool.true_and,  enc_hdr, enc_x, enc_m, enc_d, enc_a, enc_b, enc_c, enc_ext, ok_bind, need_true, ok_pure,
    Bool.and_true, beq_self_eq_true, cls, zero, h])

theorem atomr (i) : Statement (.atomr i) := fun h =>
  row_round ⟨2, false, bAtomr⟩ rfl rfl 0x0CD rfl rfl (by decide) rfl rfl (by
  have h : wfAtomR i = true := h
  simp only [wfAtomR, Bool.and_eq_true] at h
  refine ⟨g_ok i.h.g (by simp only [h]), ?_⟩
  show bAtomr (enc 0x0CD 2 i.h i.d i.a i.b 0 (memBits i.scope i.ord (atomSize i.wide)) (memX i.aop.bits false (if i.sp then .sp else .dflt)) i.m.bits) = .ok _
  have hc : casUnused i.aop i.b = true ∧ (i.aop != .cas || zOk (atomSize i.wide) i.b) = true := by
    have hb := h.1.2
    cases hc : (i.aop == AOp.cas) <;> simp only [casB, casUnused, bne, hc, if_true, Bool.false_eq_true, if_false, Bool.not_true, Bool.not_false,
      Bool.true_or, Bool.false_or, and_true, true_and] at hb ⊢ <;> exact hb
  simp only [bAtomr, Raw.atom, Raw.mem, Raw.memOp, memOpOk, mem_s, mem_o, mem_z, of_Scope, of_MOrd, of_Size, of_AOp, of_Space, memX_a, memX_p,
    memX_32, memOp_ofBits, asize, sp_of, hc, Bool.not_or_self, Bool.true_and,  enc_hdr, enc_x, enc_m, enc_d, enc_a, enc_b, enc_c, enc_ext, ok_bind, need_true, ok_pure,
    Bool.and_true, beq_self_eq_true, cls, zero, h])

theorem fence (i) : Statement (.fence i) := fun h =>
  row_round ⟨0, false, bFence⟩ rfl rfl 0x0E0 rfl rfl (by decide) rfl rfl (by
  have h : (i.h.g.ok && i.ord != .plain) = true := h
  simp only [Bool.and_eq_true] at h
  refine ⟨g_ok i.h.g (by simp only [h]), ?_⟩
  show bFence (enc 0x0E0 0 i.h 0 0 0 0 (memBits i.scope i.ord .b8) 0 0) = .ok _
  simp only [bFence, Raw.x0, Raw.mem, mem_s, mem_o, mem_z, of_Scope, of_MOrd, of_Size, enc_hdr, enc_x, enc_m, enc_d, enc_a, enc_b, enc_c, ok_bind, need_true, ok_pure, Bool.and_true, beq_self_eq_true, zero, h])

theorem fencep (i) : Statement (.fencep i) := fun h =>
  row_round ⟨0, false, bFencep⟩ rfl rfl 0x0E1 rfl rfl (by decide) rfl rfl (by
  have h : (i.h.g.ok && i.ord != .plain && i.eset != 0 && i.lset != 0) = true := h
  simp only [Bool.and_eq_true] at h
  refine ⟨g_ok i.h.g (by simp only [h]), ?_⟩
  show bFencep (enc 0x0E1 0 i.h 0 0 0 0 (memBits i.scope i.ord .b8) (i.eset ++ i.lset) 0) = .ok _
  obtain ⟨f1, f2⟩ := f_fencep i.eset i.lset _ rfl
  simp only [bFencep, f1, f2, Raw.mem, mem_s, mem_o, mem_z, of_Scope, of_MOrd, of_Size, enc_hdr, enc_x, enc_m, enc_d, enc_a, enc_b, enc_c, ok_bind, need_true, ok_pure, Bool.and_true, beq_self_eq_true, zero, h])

theorem promote (i) : Statement (.promote i) := fun h =>
  row_round ⟨2, false, bPromote⟩ rfl rfl 0x0E2 rfl rfl (by decide) rfl rfl (by
  have h : (i.h.g.ok && i.scope != .warp && i.scope != .team && i.m.ok i.sp) = true := h
  simp only [Bool.and_eq_true] at h
  refine ⟨g_ok i.h.g (by simp only [h]), ?_⟩
  show bPromote (enc 0x0E2 2 i.h 0 0 0 0 (memBits i.scope .acqrel (atomSize i.wide)) (memX 0 false (if i.sp then .sp else .dflt)) i.m.bits) = .ok _
  have hx : ∀ p : Space, (memX 0 false p).extractLsb' 2 6 = 0 := by intro p; cases p <;> rfl
  simp only [bPromote, Raw.mem, Raw.memOp, memOpOk, mem_s, mem_o, mem_z, of_Scope, of_MOrd, of_Size, of_Space, memX_p, hx,
    memOp_ofBits, asize, sp_of, Bool.not_or_self, Bool.true_and, enc_hdr, enc_x, enc_m, enc_d, enc_a, enc_b, enc_c, enc_ext, ok_bind, need_true, ok_pure,
    Bool.and_true, beq_self_eq_true, zero, h])

theorem faultRecordEnqueue : Statement (.faultRecordEnqueue) := fun _ _ _ h => nomatch h

theorem faultResolved (i) : Statement (.faultResolved i) := fun _ _ _ h => nomatch h

theorem faultUnresolvable (i) : Statement (.faultUnresolvable i) := fun _ _ _ h => nomatch h

theorem loadResponse (i) : Statement (.loadResponse i) := fun _ _ _ h => nomatch h

theorem remoteAccessIngress (i) : Statement (.remoteAccessIngress i) := fun _ _ _ h => nomatch h

theorem remoteAck (i) : Statement (.remoteAck i) := fun _ _ _ h => nomatch h

theorem remoteAtomicIngress (i) : Statement (.remoteAtomicIngress i) := fun _ _ _ h => nomatch h

theorem leaseExpiry (i) : Statement (.leaseExpiry i) := fun _ _ _ h => nomatch h

theorem instructionFetch (i) : Statement (.instructionFetch i) := fun _ _ _ h => nomatch h

theorem illegalEncoding (i) : Statement (.illegalEncoding i) := fun _ _ _ h => nomatch h

theorem tool64 (t) : Statement (.tool64 t) := fun h => by
  have h : (wfTool 0 t && decide (t.index.toNat < 8) && t.ext == 0) = true := h
  simp only [Bool.and_eq_true, decide_eq_true_eq, beq_iff_eq] at h
  exact tool_round t 0 rfl h.1.1 (by rw [h.2]; rfl) (by rw [toolLen, if_pos h.1.2]) (by rw [buildTool, if_pos h.1.2])

theorem tool96 (t) : Statement (.tool96 t) := fun h => by
  have h : (wfTool 1 t && decide (8 ≤ t.index.toNat) && decide (t.index.toNat < 12) && t.ext.extractLsb' 32 32 == 0) = true := h
  simp only [Bool.and_eq_true, decide_eq_true_eq, beq_iff_eq] at h
  obtain ⟨⟨⟨h1, h2⟩, h3⟩, h4⟩ := h
  refine tool_round t 1 rfl h1 ?_ (by rw [toolLen, if_neg (by omega), if_pos h3]) (by rw [buildTool, if_neg (by omega), if_pos h3])
  show (t.ext.setWidth 32).setWidth 64 = t.ext
  apply BitVec.eq_of_getLsbD_eq
  intro j hj
  by_cases hj2 : j < 32
  · simp [hj2, hj]
  · have := congrArg (fun z => BitVec.getLsbD z (j - 32)) h4
    simp only [BitVec.getLsbD_extractLsb', show j - 32 < 32 by omega, show 32 + (j - 32) = j by omega] at this
    simp [BitVec.getLsbD_setWidth, hj2]
    simpa using this

theorem tool128 (t) : Statement (.tool128 t) := fun h => by
  have h : (wfTool 2 t && decide (12 ≤ t.index.toNat)) = true := h
  simp only [Bool.and_eq_true, decide_eq_true_eq] at h
  exact tool_round t 2 rfl h.1 rfl (by rw [toolLen, if_neg (by omega), if_neg (by omega)]) (by rw [buildTool, if_neg (by omega), if_neg (by omega)])

theorem binit (i) : Statement (.binit i) := fun h =>
  row_round ⟨1, false, (bHABI .binit sOk sOk)⟩ rfl (imm_trim _) 0x100 rfl rfl (by decide) rfl rfl (by
  have h : (i.h.g.ok && sOk i.a && sOk i.b) = true := h
  simp only [Bool.and_eq_true] at h
  refine ⟨g_ok i.h.g (by simp only [h]), ?_⟩
  show bHABI .binit sOk sOk (enc 0x100 1 i.h 0 i.a i.b 0 0 0 (immExt i.imm)) = .ok _
  simp only [bHABI, Raw.m0, Raw.x0, enc_hdr, enc_x, enc_m, enc_d, enc_a, enc_b, enc_c, enc_ext, ok_bind, need_true, ok_pure, Bool.and_true, beq_self_eq_true, cls, zero, Raw.imm, imm_ext, h])

theorem barv (i) : Statement (.barv i) := fun h =>
  row_round ⟨1, false, (bHAI .barv sOk)⟩ rfl (imm_trim _) 0x101 rfl rfl (by decide) rfl rfl (by
  have h : (i.h.g.ok && sOk i.a) = true := h
  simp only [Bool.and_eq_true] at h
  refine ⟨g_ok i.h.g (by simp only [h]), ?_⟩
  show bHAI .barv sOk (enc 0x101 1 i.h 0 i.a 0 0 0 0 (immExt i.imm)) = .ok _
  simp only [bHAI, Raw.m0, Raw.x0, enc_hdr, enc_x, enc_m, enc_d, enc_a, enc_b, enc_c, enc_ext, ok_bind, need_true, ok_pure, Bool.and_true, beq_self_eq_true, cls, zero, Raw.imm, imm_ext, h])

theorem barx (i) : Statement (.barx i) := fun h =>
  row_round ⟨1, false, (bHABI .barx sOk sOk)⟩ rfl (imm_trim _) 0x102 rfl rfl (by decide) rfl rfl (by
  have h : (i.h.g.ok && sOk i.a && sOk i.b) = true := h
  simp only [Bool.and_eq_true] at h
  refine ⟨g_ok i.h.g (by simp only [h]), ?_⟩
  show bHABI .barx sOk sOk (enc 0x102 1 i.h 0 i.a i.b 0 0 0 (immExt i.imm)) = .ok _
  simp only [bHABI, Raw.m0, Raw.x0, enc_hdr, enc_x, enc_m, enc_d, enc_a, enc_b, enc_c, enc_ext, ok_bind, need_true, ok_pure, Bool.and_true, beq_self_eq_true, cls, zero, Raw.imm, imm_ext, h])

theorem bwait (i) : Statement (.bwait i) := fun h =>
  row_round ⟨1, false, (bHAI .bwait sOk)⟩ rfl (imm_trim _) 0x103 rfl rfl (by decide) rfl rfl (by
  have h : (i.h.g.ok && sOk i.a) = true := h
  simp only [Bool.and_eq_true] at h
  refine ⟨g_ok i.h.g (by simp only [h]), ?_⟩
  show bHAI .bwait sOk (enc 0x103 1 i.h 0 i.a 0 0 0 0 (immExt i.imm)) = .ok _
  simp only [bHAI, Raw.m0, Raw.x0, enc_hdr, enc_x, enc_m, enc_d, enc_a, enc_b, enc_c, enc_ext, ok_bind, need_true, ok_pure, Bool.and_true, beq_self_eq_true, cls, zero, Raw.imm, imm_ext, h])

theorem btest (i) : Statement (.btest i) := fun h =>
  row_round ⟨1, false, (bHDAI .btest pdOk sOk)⟩ rfl (imm_trim _) 0x104 rfl rfl (by decide) rfl rfl (by
  have h : (i.h.g.ok && pdOk i.d && sOk i.a) = true := h
  simp only [Bool.and_eq_true] at h
  refine ⟨g_ok i.h.g (by simp only [h]), ?_⟩
  show bHDAI .btest pdOk sOk (enc 0x104 1 i.h i.d i.a 0 0 0 0 (immExt i.imm)) = .ok _
  simp only [bHDAI, Raw.m0, Raw.x0, enc_hdr, enc_x, enc_m, enc_d, enc_a, enc_b, enc_c, enc_ext, ok_bind, need_true, ok_pure, Bool.and_true, beq_self_eq_true, cls, zero, Raw.imm, imm_ext, h])

theorem bdrop (i) : Statement (.bdrop i) := fun h =>
  row_round ⟨1, false, (bHAI .bdrop sOk)⟩ rfl (imm_trim _) 0x105 rfl rfl (by decide) rfl rfl (by
  have h : (i.h.g.ok && sOk i.a) = true := h
  simp only [Bool.and_eq_true] at h
  refine ⟨g_ok i.h.g (by simp only [h]), ?_⟩
  show bHAI .bdrop sOk (enc 0x105 1 i.h 0 i.a 0 0 0 0 (immExt i.imm)) = .ok _
  simp only [bHAI, Raw.m0, Raw.x0, enc_hdr, enc_x, enc_m, enc_d, enc_a, enc_b, enc_c, enc_ext, ok_bind, need_true, ok_pure, Bool.and_true, beq_self_eq_true, cls, zero, Raw.imm, imm_ext, h])

theorem bandacq (i) : Statement (.bandacq i) := fun h =>
  row_round ⟨0, false, bBandacq⟩ rfl rfl 0x110 rfl rfl (by decide) rfl rfl (by
  have h : (i.h.g.ok && sOk i.d) = true := h
  simp only [Bool.and_eq_true] at h
  refine ⟨g_ok i.h.g (by simp only [h]), ?_⟩
  show bBandacq (enc 0x110 0 i.h i.d 0 0 0 (low1 i.two) 0 0) = .ok _
  obtain ⟨f1, f2⟩ := f_low1 0 i.two (low1 i.two) rfl
  simp only [bBandacq, Raw.x0, f1, f2, enc_hdr, enc_x, enc_m, enc_d, enc_a, enc_b, enc_c, ok_bind, need_true, ok_pure, Bool.and_true, beq_self_eq_true, cls, zero, h])

theorem bandrel (i) : Statement (.bandrel i) := fun h =>
  row_round ⟨0, false, (bHA .bandrel sOk)⟩ rfl rfl 0x111 rfl rfl (by decide) rfl rfl (by
  have h : (i.h.g.ok && sOk i.a) = true := h
  simp only [Bool.and_eq_true] at h
  refine ⟨g_ok i.h.g (by simp only [h]), ?_⟩
  show bHA .bandrel sOk (enc 0x111 0 i.h 0 i.a 0 0 0 0 0) = .ok _
  simp only [bHA, Raw.m0, Raw.x0, enc_hdr, enc_x, enc_m, enc_d, enc_a, enc_b, enc_c, ok_bind, need_true, ok_pure, Bool.and_true, beq_self_eq_true, cls, zero, h])

theorem obres (i) : Statement (.obres i) := fun h =>
  row_round ⟨1, false, bObres⟩ rfl (imm_trim _) 0x112 rfl rfl (by decide) rfl rfl (by
  have h : (i.h.g.ok && sOk i.d && sOk i.a) = true := h
  simp only [Bool.and_eq_true] at h
  refine ⟨g_ok i.h.g (by simp only [h]), ?_⟩
  show bObres (enc 0x112 1 i.h i.d i.a 0 0 0 0 (immExt ((0 : BitVec 12) ++ i.soff ++ i.size))) = .ok _
  obtain ⟨f1, f2, f3⟩ := f_obres 0 i.soff i.size _ rfl
  simp only [bObres, Raw.m0, Raw.x0, f1, f2, f3, imm_ex, enc_hdr, enc_x, enc_m, enc_d, enc_a, enc_b, enc_c, enc_ext, ok_bind, need_true, ok_pure, Bool.and_true, beq_self_eq_true, cls, zero, h])

theorem obrel (i) : Statement (.obrel i) := fun h =>
  row_round ⟨0, false, (bHA .obrel sOk)⟩ rfl rfl 0x113 rfl rfl (by decide) rfl rfl (by
  have h : (i.h.g.ok && sOk i.a) = true := h
  simp only [Bool.and_eq_true] at h
  refine ⟨g_ok i.h.g (by simp only [h]), ?_⟩
  show bHA .obrel sOk (enc 0x113 0 i.h 0 i.a 0 0 0 0 0) = .ok _
  simp only [bHA, Raw.m0, Raw.x0, enc_hdr, enc_x, enc_m, enc_d, enc_a, enc_b, enc_c, ok_bind, need_true, ok_pure, Bool.and_true, beq_self_eq_true, cls, zero, h])

theorem obld (i) : Statement (.obld i) := fun h =>
  row_round ⟨1, false, (bHABI .obld vAny sOk)⟩ rfl (imm_trim _) 0x114 rfl rfl (by decide) rfl rfl (by
  have h : (i.h.g.ok && sOk i.b) = true := h
  simp only [Bool.and_eq_true] at h
  refine ⟨g_ok i.h.g (by simp only [h]), ?_⟩
  show bHABI .obld vAny sOk (enc 0x114 1 i.h 0 i.a i.b 0 0 0 (immExt i.imm)) = .ok _
  simp only [bHABI, Raw.m0, Raw.x0, vAny, enc_hdr, enc_x, enc_m, enc_d, enc_a, enc_b, enc_c, enc_ext, ok_bind, need_true, ok_pure, Bool.and_true, beq_self_eq_true, cls, zero, Raw.imm, imm_ext, h])

theorem mma (i) : Statement (.mma i) := fun h =>
  row_round ⟨2, false, bMma⟩ rfl rfl 0x115 rfl rfl (by decide) rfl rfl (by
  have h : (i.h.g.ok && (i.sa || i.sb || i.sreg == 0)) = true := h
  simp only [Bool.and_eq_true] at h
  refine ⟨g_ok i.h.g (by simp only [h]), ?_⟩
  show bMma (enc 0x115 2 i.h ((0 : BitVec 4) ++ bit1 i.z ++ bit1 i.half ++ i.band) 0 0 0 (bit1 i.n64 ++ i.kc) (bit1 i.sa ++ bit1 i.sb ++ i.sreg) (i.bop.bits ++ i.aop.bits)) = .ok _
  obtain ⟨a1, a2, a3, a4⟩ := f_mmaD 0 i.z i.half i.band _ rfl
  obtain ⟨b1, b2⟩ := f_mmaM i.n64 i.kc _ rfl
  obtain ⟨c1, c2, c3⟩ := f_mmaX i.sa i.sb i.sreg _ rfl
  obtain ⟨d1, d2⟩ := f_two32 i.bop.bits i.aop.bits _ rfl
  simp only [bMma, matOk, spec_of, a1, a2, a3, a4, b1, b2, c1, c2, c3, d1, d2, enc_hdr, enc_x, enc_m, enc_d, enc_a, enc_b, enc_c, enc_ext, ok_bind, need_true, ok_pure,
    Bool.and_true, beq_self_eq_true, cls, zero, h])

theorem accz (i) : Statement (.accz i) := fun h =>
  row_round ⟨0, false, bAccz⟩ rfl rfl 0x116 rfl rfl (by decide) rfl rfl (by
  have h : (i.h.g.ok) = true := h
  refine ⟨g_ok i.h.g (by simp only [h]), ?_⟩
  show bAccz (enc 0x116 0 i.h ((0 : BitVec 4) ++ i.part.bits ++ i.band) 0 0 0 0 0 0) = .ok _
  obtain ⟨f1, f2, f3⟩ := f_accz 0 i.part.bits i.band _ rfl
  simp only [bAccz, Raw.m0, Raw.x0, f1, f2, f3, of_AccPart, enc_hdr, enc_x, enc_m, enc_d, enc_a, enc_b, enc_c, ok_bind, need_true, ok_pure, Bool.and_true, beq_self_eq_true, cls, zero])

theorem accrd (i) : Statement (.accrd i) := fun h =>
  row_round ⟨1, false, bAccrd⟩ rfl (imm_trim _) 0x117 rfl rfl (by decide) rfl rfl (by
  have h : (i.h.g.ok) = true := h
  refine ⟨g_ok i.h.g (by simp only [h]), ?_⟩
  show bAccrd (enc 0x117 1 i.h i.reg ((0 : BitVec 6) ++ i.band) 0 0 0 0 (immExt (accImm i.col i.nm1))) = .ok _
  obtain ⟨f1, f2, f3, f4⟩ := f_acc 0 i.nm1 0 i.col (accImm i.col i.nm1) rfl
  obtain ⟨f5, f6⟩ := f_six2 0 i.band _ rfl
  have f7 : ∀ b : BitVec 2, bandOk ((0 : BitVec 6) ++ b) = true := by decide
  simp only [bAccrd, Raw.m0, Raw.x0, accImmOk, f1, f2, f3, f4, f6, f7, enc_hdr, enc_x, enc_m, enc_d, enc_a, enc_b, enc_c, enc_ext, ok_bind, need_true, ok_pure, Bool.and_true, beq_self_eq_true, cls, zero, Raw.imm, imm_ext])

theorem accwr (i) : Statement (.accwr i) := fun h =>
  row_round ⟨1, false, bAccwr⟩ rfl (imm_trim _) 0x118 rfl rfl (by decide) rfl rfl (by
  have h : (i.h.g.ok) = true := h
  refine ⟨g_ok i.h.g (by simp only [h]), ?_⟩
  show bAccwr (enc 0x118 1 i.h ((0 : BitVec 6) ++ i.band) i.reg 0 0 0 0 (immExt (accImm i.col i.nm1))) = .ok _
  obtain ⟨f1, f2, f3, f4⟩ := f_acc 0 i.nm1 0 i.col (accImm i.col i.nm1) rfl
  obtain ⟨f5, f6⟩ := f_six2 0 i.band _ rfl
  have f7 : ∀ b : BitVec 2, bandOk ((0 : BitVec 6) ++ b) = true := by decide
  simp only [bAccwr, Raw.m0, Raw.x0, accImmOk, f1, f2, f3, f4, f6, f7, enc_hdr, enc_x, enc_m, enc_d, enc_a, enc_b, enc_c, enc_ext, ok_bind, need_true, ok_pure, Bool.and_true, beq_self_eq_true, cls, zero, Raw.imm, imm_ext])

theorem bandCmdMma (i) : Statement (.bandCmdMma i) := fun _ _ _ h => nomatch h

theorem bandCmdAccz (i) : Statement (.bandCmdAccz i) := fun _ _ _ h => nomatch h

theorem bandCmdAccrd (i) : Statement (.bandCmdAccrd i) := fun _ _ _ h => nomatch h

theorem bandCmdAccwr (i) : Statement (.bandCmdAccwr i) := fun _ _ _ h => nomatch h

theorem bandCmdColrd (i) : Statement (.bandCmdColrd i) := fun _ _ _ h => nomatch h

theorem qbind (i) : Statement (.qbind i) := fun h =>
  row_round ⟨1, false, (bHDI .qbind qOk portWordOk)⟩ rfl (imm_trim _) 0x120 rfl rfl (by decide) rfl rfl (by
  have h : (wfHDI qOk portWordOk i) = true := h
  simp only [wfHDI, Bool.and_eq_true] at h
  refine ⟨g_ok i.h.g (by simp only [h]), ?_⟩
  show bHDI .qbind qOk portWordOk (enc 0x120 1 i.h i.d 0 0 0 0 0 (immExt i.imm)) = .ok _
  simp only [bHDI, Raw.m0, Raw.x0, enc_hdr, enc_x, enc_m, enc_d, enc_a, enc_b, enc_c, enc_ext, ok_bind, need_true, ok_pure, Bool.and_true, beq_self_eq_true, cls, zero, Raw.imm, imm_ext, h])

theorem qcmd (i) : Statement (.qcmd i) := fun h =>
  row_round ⟨2, false, bQcmd⟩ rfl rfl 0x121 rfl rfl (by decide) rfl rfl (by
  have h : i.h.g.ok = true := h
  refine ⟨g_ok i.h.g h, ?_⟩
  obtain ⟨hd, q, g, su, hold, sreg, body, tag⟩ := i
  show bQcmd (enc 0x121 2 hd ((0 : BitVec 4) ++ q) ((0 : BitVec 4) ++ g.getD 0) 0 0 ((0 : BitVec 5) ++ bit1 hold ++ bit1 su.isSome ++ bit1 g.isSome) ((0 : BitVec 2) ++ sreg) ((0 : BitVec 12) ++ su.getD 0 ++ tag ++ body)) = .ok _
  obtain ⟨a1, a2, a3, a4⟩ := f_qcmd 0 (su.getD 0) tag body _ rfl
  obtain ⟨b1, b2, b3, b4⟩ := f_qcmdM 0 hold su.isSome g.isSome _ rfl
  obtain ⟨c1, c2⟩ := f_two6 0 sreg _ rfl
  obtain ⟨d1, d2⟩ := f_wred 0 q _ rfl
  obtain ⟨e1, e2⟩ := f_wred 0 (g.getD 0) _ rfl
  have k1 : ∀ b : BitVec 4, qOk ((0 : BitVec 4) ++ b) = true := by decide
  have k2 : (((0 : BitVec 4) ++ (0 : BitVec 4) : BitVec 8) == 0) = true := by decide
  simp only [bQcmd, a1, a2, a3, a4, b1, b2, b3, b4, c1, c2, d2, e2, k1, enc_hdr, enc_x, enc_m, enc_d, enc_a, enc_b, enc_c, enc_ext, ok_bind, need_true, ok_pure,
    Bool.and_true, beq_self_eq_true, cls, zero]
  cases g <;> cases su <;> rfl)

theorem qstat (i) : Statement (.qstat i) := fun h =>
  row_round ⟨0, false, (bHDA .qstat sOk qOk)⟩ rfl rfl 0x122 rfl rfl (by decide) rfl rfl (by
  have h : (i.h.g.ok && sOk i.d && qOk i.a) = true := h
  simp only [Bool.and_eq_true] at h
  refine ⟨g_ok i.h.g (by simp only [h]), ?_⟩
  show bHDA .qstat sOk qOk (enc 0x122 0 i.h i.d i.a 0 0 0 0 0) = .ok _
  simp only [bHDA, Raw.m0, Raw.x0, enc_hdr, enc_x, enc_m, enc_d, enc_a, enc_b, enc_c, ok_bind, need_true, ok_pure, Bool.and_true, beq_self_eq_true, cls, zero, h])

theorem qdrain (i) : Statement (.qdrain i) := fun h =>
  row_round ⟨0, false, (bHA .qdrain qOk)⟩ rfl rfl 0x123 rfl rfl (by decide) rfl rfl (by
  have h : (i.h.g.ok && qOk i.a) = true := h
  simp only [Bool.and_eq_true] at h
  refine ⟨g_ok i.h.g (by simp only [h]), ?_⟩
  show bHA .qdrain qOk (enc 0x123 0 i.h 0 i.a 0 0 0 0 0) = .ok _
  simp only [bHA, Raw.m0, Raw.x0, enc_hdr, enc_x, enc_m, enc_d, enc_a, enc_b, enc_c, ok_bind, need_true, ok_pure, Bool.and_true, beq_self_eq_true, cls, zero, h])

theorem gset (i) : Statement (.gset i) := fun h =>
  row_round ⟨0, false, (bHD .gset qOk)⟩ rfl rfl 0x124 rfl rfl (by decide) rfl rfl (by
  have h : (i.h.g.ok && qOk i.d) = true := h
  simp only [Bool.and_eq_true] at h
  refine ⟨g_ok i.h.g (by simp only [h]), ?_⟩
  show bHD .gset qOk (enc 0x124 0 i.h i.d 0 0 0 0 0 0) = .ok _
  simp only [bHD, Raw.m0, Raw.x0, enc_hdr, enc_x, enc_m, enc_d, enc_a, enc_b, enc_c, ok_bind, need_true, ok_pure, Bool.and_true, beq_self_eq_true, cls, zero, h])

theorem gclr (i) : Statement (.gclr i) := fun h =>
  row_round ⟨0, false, bGclr⟩ rfl rfl 0x125 rfl rfl (by decide) rfl rfl (by
  have h : (i.h.g.ok && qOk i.d) = true := h
  simp only [Bool.and_eq_true] at h
  refine ⟨g_ok i.h.g (by simp only [h]), ?_⟩
  show bGclr (enc 0x125 0 i.h i.d 0 0 0 (low1 i.u) 0 0) = .ok _
  obtain ⟨f1, f2⟩ := f_low1 0 i.u (low1 i.u) rfl
  simp only [bGclr, Raw.x0, f1, f2, enc_hdr, enc_x, enc_m, enc_d, enc_a, enc_b, enc_c, ok_bind, need_true, ok_pure, Bool.and_true, beq_self_eq_true, cls, zero, h])

theorem queueHeadDispatch (i) : Statement (.queueHeadDispatch i) := fun _ _ _ h => nomatch h

theorem engineCommandComplete (i) : Statement (.engineCommandComplete i) := fun _ _ _ h => nomatch h

theorem tkput (i) : Statement (.tkput i) := fun h =>
  row_round ⟨1, false, bTkput⟩ rfl (imm_trim _) 0x131 rfl rfl (by decide) rfl rfl (by
  have h : (i.h.g.ok && s4Ok i.a) = true := h
  simp only [Bool.and_eq_true] at h
  refine ⟨g_ok i.h.g (by simp only [h]), ?_⟩
  show bTkput (enc 0x131 1 i.h 0 i.a 0 0 0 0 (immExt ((0 : BitVec 24) ++ i.queue))) = .ok _
  obtain ⟨f1, f2⟩ := f_tk 0 i.queue _ rfl
  simp only [bTkput, Raw.m0, Raw.x0, f1, f2, enc_hdr, enc_x, enc_m, enc_d, enc_a, enc_b, enc_c, enc_ext, ok_bind, need_true, ok_pure, Bool.and_true, beq_self_eq_true, cls, zero, Raw.imm, imm_ext, h])

theorem tkget (i) : Statement (.tkget i) := fun h =>
  row_round ⟨0, false, (bHD .tkget s4Ok)⟩ rfl rfl 0x130 rfl rfl (by decide) rfl rfl (by
  have h : (i.h.g.ok && s4Ok i.d) = true := h
  simp only [Bool.and_eq_true] at h
  refine ⟨g_ok i.h.g (by simp only [h]), ?_⟩
  show bHD .tkget s4Ok (enc 0x130 0 i.h i.d 0 0 0 0 0 0) = .ok _
  simp only [bHD, Raw.m0, Raw.x0, enc_hdr, enc_x, enc_m, enc_d, enc_a, enc_b, enc_c, ok_bind, need_true, ok_pure, Bool.and_true, beq_self_eq_true, cls, zero, h])

theorem tkdone (i) : Statement (.tkdone i) := fun h =>
  row_round ⟨0, false, (bHA .tkdone sOk)⟩ rfl rfl 0x132 rfl rfl (by decide) rfl rfl (by
  have h : (i.h.g.ok && sOk i.a) = true := h
  simp only [Bool.and_eq_true] at h
  refine ⟨g_ok i.h.g (by simp only [h]), ?_⟩
  show bHA .tkdone sOk (enc 0x132 0 i.h 0 i.a 0 0 0 0 0) = .ok _
  simp only [bHA, Raw.m0, Raw.x0, enc_hdr, enc_x, enc_m, enc_d, enc_a, enc_b, enc_c, ok_bind, need_true, ok_pure, Bool.and_true, beq_self_eq_true, cls, zero, h])

theorem usherPass (i) : Statement (.usherPass i) := fun _ _ _ h => nomatch h

theorem hrec (i) : Statement (.hrec i) := fun h =>
  row_round ⟨2, false, bHrec⟩ rfl rfl 0x128 rfl rfl (by decide) rfl rfl (by
  have h : (i.h.g.ok && qOk i.d && sOk i.a) = true := h
  simp only [Bool.and_eq_true] at h
  refine ⟨g_ok i.h.g (by simp only [h]), ?_⟩
  show bHrec (enc 0x128 2 i.h i.d i.a 0 0 0 0 ((0 : BitVec 31) ++ bit1 i.sp ++ i.disp)) = .ok _
  obtain ⟨f1, f2, f3⟩ := f_hrec 0 i.sp i.disp _ rfl
  simp only [bHrec, Raw.m0, Raw.x0, f1, f2, f3, enc_hdr, enc_x, enc_m, enc_d, enc_a, enc_b, enc_c, enc_ext, ok_bind, need_true, ok_pure, Bool.and_true, beq_self_eq_true, cls, zero, h])

theorem copy (i) : Statement (.copy i) := fun h =>
  row_round ⟨1, false, bCopy⟩ rfl (imm_trim _) 0x129 rfl rfl (by decide) rfl rfl (by
  have h : (i.h.g.ok && sOk i.d && qOk i.hreg && sOk i.dst && sOk i.src) = true := h
  simp only [Bool.and_eq_true] at h
  refine ⟨g_ok i.h.g (by simp only [h]), ?_⟩
  show bCopy (enc 0x129 1 i.h i.d i.hreg i.dst i.src 0 0 (immExt (copyImm i.dir i.bar))) = .ok _
  obtain ⟨hd, d, hreg, dst, src, dir, bar⟩ := i
  obtain ⟨f1, f2, f3, f4⟩ := f_copy 0 (bar.getD 0) bar.isSome dir.bits (copyImm dir bar) rfl
  cases bar <;>
  simp only [bCopy, Option.isSome_some, Option.isSome_none, Option.getD_some, Option.getD_none, if_true, Bool.false_eq_true, if_false, Raw.m0, Raw.x0, f1, f2, f3, f4, of_CopyDir, enc_hdr, enc_x, enc_m, enc_d, enc_a, enc_b, enc_c, enc_ext, ok_bind, need_true, ok_pure, Bool.and_true, beq_self_eq_true, cls, zero, Raw.imm, imm_ext, Bool.true_or, Bool.or_true, h])

theorem copyPart (i) : Statement (.copyPart i) := fun _ _ _ h => nomatch h

theorem copyReadResponse (i) : Statement (.copyReadResponse i) := fun _ _ _ h => nomatch h

theorem copyComplete (i) : Statement (.copyComplete i) := fun _ _ _ h => nomatch h

theorem cbatch (i) : Statement (.cbatch i) := fun h =>
  row_round ⟨0, false, (bHD .cbatch sOk)⟩ rfl rfl 0x12A rfl rfl (by decide) rfl rfl (by
  have h : (i.h.g.ok && sOk i.d) = true := h
  simp only [Bool.and_eq_true] at h
  refine ⟨g_ok i.h.g (by simp only [h]), ?_⟩
  show bHD .cbatch sOk (enc 0x12A 0 i.h i.d 0 0 0 0 0 0) = .ok _
  simp only [bHD, Raw.m0, Raw.x0, enc_hdr, enc_x, enc_m, enc_d, enc_a, enc_b, enc_c, ok_bind, need_true, ok_pure, Bool.and_true, beq_self_eq_true, cls, zero, h])

theorem cwait (i) : Statement (.cwait i) := fun h =>
  row_round ⟨1, false, (bHI .cwait)⟩ rfl (imm_trim _) 0x12B rfl rfl (by decide) rfl rfl (by
  have h : (i.h.g.ok) = true := h
  refine ⟨g_ok i.h.g (by simp only [h]), ?_⟩
  show bHI .cwait (enc 0x12B 1 i.h 0 0 0 0 0 0 (immExt i.imm)) = .ok _
  simp only [bHI, Raw.m0, Raw.x0, enc_hdr, enc_x, enc_m, enc_d, enc_a, enc_b, enc_c, enc_ext, ok_bind, need_true, ok_pure, Bool.and_true, beq_self_eq_true, zero, Raw.imm, imm_ext])

theorem ccancel (i) : Statement (.ccancel i) := fun h =>
  row_round ⟨0, false, (bHA .ccancel sOk)⟩ rfl rfl 0x12C rfl rfl (by decide) rfl rfl (by
  have h : (i.h.g.ok && sOk i.a) = true := h
  simp only [Bool.and_eq_true] at h
  refine ⟨g_ok i.h.g (by simp only [h]), ?_⟩
  show bHA .ccancel sOk (enc 0x12C 0 i.h 0 i.a 0 0 0 0 0) = .ok _
  simp only [bHA, Raw.m0, Raw.x0, enc_hdr, enc_x, enc_m, enc_d, enc_a, enc_b, enc_c, ok_bind, need_true, ok_pure, Bool.and_true, beq_self_eq_true, cls, zero, h])

theorem sloop (i) : Statement (.sloop i) := fun h =>
  row_round ⟨1, false, bSloop⟩ rfl (imm_trim _) 0x140 rfl rfl (by decide) rfl rfl (by
  have h : (i.h.g.ok && sOk i.a && slotsOk i.w) = true := h
  simp only [Bool.and_eq_true] at h
  refine ⟨g_ok i.h.g (by simp only [h]), ?_⟩
  show bSloop (enc 0x140 1 i.h 0 i.a i.w 0 0 0 (immExt (sloopImm i))) = .ok _
  obtain ⟨f1, f2, f3, f4, f5⟩ := f_sloop 0 i.coh i.cs i.tag i.lim (sloopImm i) rfl
  simp only [bSloop, Raw.m0, Raw.x0, f1, f2, f3, f4, f5, enc_hdr, enc_x, enc_m, enc_d, enc_a, enc_b, enc_c, enc_ext, ok_bind, need_true, ok_pure, Bool.and_true, beq_self_eq_true, cls, zero, Raw.imm, imm_ext, h])

theorem snext (i) : Statement (.snext i) := fun h =>
  row_round ⟨0, false, (bHDB .snext sOk pdOk)⟩ rfl rfl 0x141 rfl rfl (by decide) rfl rfl (by
  have h : (i.h.g.ok && sOk i.d && pdOk i.b) = true := h
  simp only [Bool.and_eq_true] at h
  refine ⟨g_ok i.h.g (by simp only [h]), ?_⟩
  show bHDB .snext sOk pdOk (enc 0x141 0 i.h i.d 0 i.b 0 0 0 0) = .ok _
  simp only [bHDB, Raw.m0, Raw.x0, enc_hdr, enc_x, enc_m, enc_d, enc_a, enc_b, enc_c, ok_bind, need_true, ok_pure, Bool.and_true, beq_self_eq_true, cls, zero, h])

theorem sadv (i) : Statement (.sadv i) := fun h =>
  row_round ⟨0, false, (bHA .sadv sOk)⟩ rfl rfl 0x142 rfl rfl (by decide) rfl rfl (by
  have h : (i.h.g.ok && sOk i.a) = true := h
  simp only [Bool.and_eq_true] at h
  refine ⟨g_ok i.h.g (by simp only [h]), ?_⟩
  show bHA .sadv sOk (enc 0x142 0 i.h 0 i.a 0 0 0 0 0) = .ok _
  simp only [bHA, Raw.m0, Raw.x0, enc_hdr, enc_x, enc_m, enc_d, enc_a, enc_b, enc_c, ok_bind, need_true, ok_pure, Bool.and_true, beq_self_eq_true, cls, zero, h])

theorem sjmp (i) : Statement (.sjmp i) := fun h =>
  row_round ⟨0, false, (bHA .sjmp sOk)⟩ rfl rfl 0x143 rfl rfl (by decide) rfl rfl (by
  have h : (i.h.g.ok && sOk i.a) = true := h
  simp only [Bool.and_eq_true] at h
  refine ⟨g_ok i.h.g (by simp only [h]), ?_⟩
  show bHA .sjmp sOk (enc 0x143 0 i.h 0 i.a 0 0 0 0 0) = .ok _
  simp only [bHA, Raw.m0, Raw.x0, enc_hdr, enc_x, enc_m, enc_d, enc_a, enc_b, enc_c, ok_bind, need_true, ok_pure, Bool.and_true, beq_self_eq_true, cls, zero, h])

theorem waitl (i) : Statement (.waitl i) := fun h =>
  row_round ⟨1, false, bWaitl⟩ rfl (imm_trim _) 0x144 rfl rfl (by decide) rfl rfl (by
  have h : (i.h.g.ok) = true := h
  refine ⟨g_ok i.h.g (by simp only [h]), ?_⟩
  show bWaitl (enc 0x144 1 i.h 0 0 0 0 0 0 (immExt ((0 : BitVec 16) ++ i.s))) = .ok _
  obtain ⟨f1, f2⟩ := f_two16 0 i.s _ rfl
  simp only [bWaitl, Raw.m0, Raw.x0, f1, f2, enc_hdr, enc_x, enc_m, enc_d, enc_a, enc_b, enc_c, enc_ext, ok_bind, need_true, ok_pure, Bool.and_true, beq_self_eq_true, zero, Raw.imm, imm_ext])

theorem waitlReg (i) : Statement (.waitlReg i) := fun h =>
  row_round ⟨0, false, (bHA .waitlReg sOk)⟩ rfl rfl 0x147 rfl rfl (by decide) rfl rfl (by
  have h : (i.h.g.ok && sOk i.a) = true := h
  simp only [Bool.and_eq_true] at h
  refine ⟨g_ok i.h.g (by simp only [h]), ?_⟩
  show bHA .waitlReg sOk (enc 0x147 0 i.h 0 i.a 0 0 0 0 0) = .ok _
  simp only [bHA, Raw.m0, Raw.x0, enc_hdr, enc_x, enc_m, enc_d, enc_a, enc_b, enc_c, ok_bind, need_true, ok_pure, Bool.and_true, beq_self_eq_true, cls, zero, h])

theorem sret (i) : Statement (.sret i) := fun h =>
  row_round ⟨0, false, (bNone .sret)⟩ rfl rfl 0x145 rfl rfl (by decide) rfl rfl (by
  have h : (i.g.ok) = true := h
  refine ⟨g_ok i.g (by simp only [h]), ?_⟩
  show bNone .sret (enc 0x145 0 i 0 0 0 0 0 0 0) = .ok _
  simp only [bNone, Raw.m0, Raw.x0, enc_hdr, enc_x, enc_m, enc_d, enc_a, enc_b, enc_c, ok_bind, need_true, ok_pure, Bool.and_true, beq_self_eq_true, zero])

theorem sclose (i) : Statement (.sclose i) := fun h =>
  row_round ⟨0, false, (bNone .sclose)⟩ rfl rfl 0x146 rfl rfl (by decide) rfl rfl (by
  have h : (i.g.ok) = true := h
  refine ⟨g_ok i.g (by simp only [h]), ?_⟩
  show bNone .sclose (enc 0x146 0 i 0 0 0 0 0 0 0) = .ok _
  simp only [bNone, Raw.m0, Raw.x0, enc_hdr, enc_x, enc_m, enc_d, enc_a, enc_b, enc_c, ok_bind, need_true, ok_pure, Bool.and_true, beq_self_eq_true, zero])

theorem heldCopyEnterPort (i) : Statement (.heldCopyEnterPort i) := fun _ _ _ h => nomatch h

theorem snap (i) : Statement (.snap i) := fun h =>
  row_round ⟨0, false, (bHA .snap sOk)⟩ rfl rfl 0x150 rfl rfl (by decide) rfl rfl (by
  have h : (i.h.g.ok && sOk i.a) = true := h
  simp only [Bool.and_eq_true] at h
  refine ⟨g_ok i.h.g (by simp only [h]), ?_⟩
  show bHA .snap sOk (enc 0x150 0 i.h 0 i.a 0 0 0 0 0) = .ok _
  simp only [bHA, Raw.m0, Raw.x0, enc_hdr, enc_x, enc_m, enc_d, enc_a, enc_b, enc_c, ok_bind, need_true, ok_pure, Bool.and_true, beq_self_eq_true, cls, zero, h])

theorem snapx (i) : Statement (.snapx i) := fun h =>
  row_round ⟨0, false, (bNone .snapx)⟩ rfl rfl 0x151 rfl rfl (by decide) rfl rfl (by
  have h : (i.g.ok) = true := h
  refine ⟨g_ok i.g (by simp only [h]), ?_⟩
  show bNone .snapx (enc 0x151 0 i 0 0 0 0 0 0 0) = .ok _
  simp only [bNone, Raw.m0, Raw.x0, enc_hdr, enc_x, enc_m, enc_d, enc_a, enc_b, enc_c, ok_bind, need_true, ok_pure, Bool.and_true, beq_self_eq_true, zero])

theorem txb (i) : Statement (.txb i) := fun h =>
  row_round ⟨0, false, (bHA .txb sOk)⟩ rfl rfl 0x152 rfl rfl (by decide) rfl rfl (by
  have h : (i.h.g.ok && sOk i.a) = true := h
  simp only [Bool.and_eq_true] at h
  refine ⟨g_ok i.h.g (by simp only [h]), ?_⟩
  show bHA .txb sOk (enc 0x152 0 i.h 0 i.a 0 0 0 0 0) = .ok _
  simp only [bHA, Raw.m0, Raw.x0, enc_hdr, enc_x, enc_m, enc_d, enc_a, enc_b, enc_c, ok_bind, need_true, ok_pure, Bool.and_true, beq_self_eq_true, cls, zero, h])

theorem txc (i) : Statement (.txc i) := fun h =>
  row_round ⟨0, false, (bHD .txc sOk)⟩ rfl rfl 0x153 rfl rfl (by decide) rfl rfl (by
  have h : (i.h.g.ok && sOk i.d) = true := h
  simp only [Bool.and_eq_true] at h
  refine ⟨g_ok i.h.g (by simp only [h]), ?_⟩
  show bHD .txc sOk (enc 0x153 0 i.h i.d 0 0 0 0 0 0) = .ok _
  simp only [bHD, Raw.m0, Raw.x0, enc_hdr, enc_x, enc_m, enc_d, enc_a, enc_b, enc_c, ok_bind, need_true, ok_pure, Bool.and_true, beq_self_eq_true, cls, zero, h])

theorem txcCommitWaitEnd (i) : Statement (.txcCommitWaitEnd i) := fun _ _ _ h => nomatch h

theorem txa (i) : Statement (.txa i) := fun h =>
  row_round ⟨0, false, (bNone .txa)⟩ rfl rfl 0x154 rfl rfl (by decide) rfl rfl (by
  have h : (i.g.ok) = true := h
  refine ⟨g_ok i.g (by simp only [h]), ?_⟩
  show bNone .txa (enc 0x154 0 i 0 0 0 0 0 0 0) = .ok _
  simp only [bNone, Raw.m0, Raw.x0, enc_hdr, enc_x, enc_m, enc_d, enc_a, enc_b, enc_c, ok_bind, need_true, ok_pure, Bool.and_true, beq_self_eq_true, zero])

theorem txq (i) : Statement (.txq i) := fun h =>
  row_round ⟨0, false, (bHD .txq sOk)⟩ rfl rfl 0x155 rfl rfl (by decide) rfl rfl (by
  have h : (i.h.g.ok && sOk i.d) = true := h
  simp only [Bool.and_eq_true] at h
  refine ⟨g_ok i.h.g (by simp only [h]), ?_⟩
  show bHD .txq sOk (enc 0x155 0 i.h i.d 0 0 0 0 0 0) = .ok _
  simp only [bHD, Raw.m0, Raw.x0, enc_hdr, enc_x, enc_m, enc_d, enc_a, enc_b, enc_c, ok_bind, need_true, ok_pure, Bool.and_true, beq_self_eq_true, cls, zero, h])

theorem vat (i) : Statement (.vat i) := fun h =>
  row_round ⟨2, false, bVat⟩ rfl rfl 0x156 rfl rfl (by decide) rfl rfl (by
  have h : (i.h.g.ok && loadOrd i.ord && ordOk i.ord i.scope && sxOk i.sx i.size && zOk i.size i.d && sOk i.b && i.m.ok false) = true := h
  simp only [Bool.and_eq_true] at h
  refine ⟨g_ok i.h.g (by simp only [h]), ?_⟩
  show bVat (enc 0x156 2 i.h i.d 0 i.b 0 (memBits i.scope i.ord i.size) (memX 0 i.sx .dflt) i.m.bits) = .ok _
  have f1 : ∀ b, (memX 0 b .dflt).extractLsb' 0 3 = 0 := by decide
  simp only [bVat, f1, Raw.mem, Raw.memOp, memOpOk, mem_s, mem_o, mem_z, of_Scope, of_MOrd, of_Size, memX_a, memX_s, memOp_ofBits, enc_hdr, enc_x, enc_m, enc_d, enc_a, enc_b, enc_c, enc_ext, ok_bind, need_true, ok_pure, Bool.and_true, beq_self_eq_true, cls, zero, h])

theorem versionInstallDone (i) : Statement (.versionInstallDone i) := fun _ _ _ h => nomatch h

theorem foragerPass (i) : Statement (.foragerPass i) := fun _ _ _ h => nomatch h

theorem watermarkFrameSend : Statement (.watermarkFrameSend) := fun _ _ _ h => nomatch h

theorem watermarkFrameReceive (i) : Statement (.watermarkFrameReceive i) := fun _ _ _ h => nomatch h

theorem poolStallExpiry (i) : Statement (.poolStallExpiry i) := fun _ _ _ h => nomatch h

theorem vpoolCfgWrite (i) : Statement (.vpoolCfgWrite i) := fun _ _ _ h => nomatch h

theorem postw (i) : Statement (.postw i) := fun h =>
  row_round ⟨0, false, (bHA .postw sOk)⟩ rfl rfl 0x160 rfl rfl (by decide) rfl rfl (by
  have h : (i.h.g.ok && sOk i.a) = true := h
  simp only [Bool.and_eq_true] at h
  refine ⟨g_ok i.h.g (by simp only [h]), ?_⟩
  show bHA .postw sOk (enc 0x160 0 i.h 0 i.a 0 0 0 0 0) = .ok _
  simp only [bHA, Raw.m0, Raw.x0, enc_hdr, enc_x, enc_m, enc_d, enc_a, enc_b, enc_c, ok_bind, need_true, ok_pure, Bool.and_true, beq_self_eq_true, cls, zero, h])

theorem launchSubmit (i) : Statement (.launchSubmit i) := fun _ _ _ h => nomatch h

theorem launchAccept : Statement (.launchAccept) := fun _ _ _ h => nomatch h

theorem cohortPlacement (i) : Statement (.cohortPlacement i) := fun _ _ _ h => nomatch h

theorem warpRetire (i) : Statement (.warpRetire i) := fun _ _ _ h => nomatch h

theorem launchComplete (i) : Statement (.launchComplete i) := fun _ _ _ h => nomatch h

theorem resultExchangeFrame (i) : Statement (.resultExchangeFrame i) := fun _ _ _ h => nomatch h

theorem ldred (i) : Statement (.ldred i) := fun h =>
  row_round ⟨2, false, bLdred⟩ rfl rfl 0x168 rfl rfl (by decide) rfl rfl (by
  have h : (i.h.g.ok && zOk i.size i.d && sOk i.b && i.m.ok false) = true := h
  simp only [Bool.and_eq_true] at h
  refine ⟨g_ok i.h.g (by simp only [h]), ?_⟩
  show bLdred (enc 0x168 2 i.h i.d 0 i.b 0 (if i.acq then memBits .clearing .acq i.size else memBits .warp .plain i.size) 0 i.m.bits) = .ok _
  obtain ⟨hd, acq, size, d, b, m⟩ := i
  have t1 : (MOrd.acq == .plain && Scope.clearing == .warp || MOrd.acq == .acq && Scope.clearing == .clearing) = true := rfl
  have t2 : (MOrd.plain == .plain && Scope.warp == .warp || MOrd.plain == .acq && Scope.warp == .clearing) = true := rfl
  have t3 : (MOrd.plain == .acq) = false := rfl
  cases acq <;> simp only [bLdred, if_true, Bool.false_eq_true, if_false, Raw.mem, Raw.memOp, memOpOk, mem_s, mem_o, mem_z, of_Scope, of_MOrd,
    of_Size, memOp_ofBits, enc_hdr, enc_x, enc_m, enc_d, enc_a, enc_b, enc_c, enc_ext, ok_bind, need_true, ok_pure, t3, Bool.true_or, Bool.or_true,
    Bool.and_true, beq_self_eq_true, cls, zero, h])

theorem ldredContribution (i) : Statement (.ldredContribution i) := fun _ _ _ h => nomatch h

theorem ldredResult (i) : Statement (.ldredResult i) := fun _ _ _ h => nomatch h

theorem stmc (i) : Statement (.stmc i) := fun h =>
  row_round ⟨2, false, bStmc⟩ rfl rfl 0x169 rfl rfl (by decide) rfl rfl (by
  have h : (i.h.g.ok && zOk i.size i.a && sOk i.b && i.m.ok false) = true := h
  simp only [Bool.and_eq_true] at h
  refine ⟨g_ok i.h.g (by simp only [h]), ?_⟩
  show bStmc (enc 0x169 2 i.h 0 i.a i.b 0 (if i.rel then memBits .clearing .rel i.size else memBits .warp .plain i.size) 0 i.m.bits) = .ok _
  obtain ⟨hd, rel, size, a, b, m⟩ := i
  have t1 : (MOrd.rel == .plain && Scope.clearing == .warp || MOrd.rel == .rel && Scope.clearing == .clearing) = true := rfl
  have t2 : (MOrd.plain == .plain && Scope.warp == .warp || MOrd.plain == .rel && Scope.warp == .clearing) = true := rfl
  have t3 : (MOrd.plain == .rel) = false := rfl
  cases rel <;> simp only [bStmc, if_true, Bool.false_eq_true, if_false, Raw.mem, Raw.memOp, memOpOk, mem_s, mem_o, mem_z, of_Scope, of_MOrd,
    of_Size, memOp_ofBits, enc_hdr, enc_x, enc_m, enc_d, enc_a, enc_b, enc_c, enc_ext, ok_bind, need_true, ok_pure, t3, Bool.true_or, Bool.or_true,
    Bool.and_true, beq_self_eq_true, cls, zero, h])

theorem stmcDelivery (i) : Statement (.stmcDelivery i) := fun _ _ _ h => nomatch h

theorem agq (i) : Statement (.agq i) := fun h =>
  row_round ⟨1, false, bAgq⟩ rfl (imm_trim _) 0x16A rfl rfl (by decide) rfl rfl (by
  have h : (i.h.g.ok && sOk i.d) = true := h
  simp only [Bool.and_eq_true] at h
  refine ⟨g_ok i.h.g (by simp only [h]), ?_⟩
  show bAgq (enc 0x16A 1 i.h i.d 0 0 0 0 0 (immExt (agqImm i))) = .ok _
  obtain ⟨hd, d, group, rank⟩ := i
  obtain ⟨f1, f2, f3, f4, f5⟩ := f_agq 0 (rank.getD 0) 0 rank.isSome group (agqImm ⟨hd, d, group, rank⟩) rfl
  have f6 : (agqImm ⟨hd, d, group, rank⟩).getLsbD 9 = false := by
    have := congrArg (fun z => BitVec.getLsbD z 0) f3
    simpa using this
  cases rank <;>
  simp only [bAgq, Raw.m0, Raw.x0, f1, f2, f4, f5, f6, Option.isSome_some, Option.isSome_none, Option.getD_some, Option.getD_none, if_true, Bool.false_eq_true, if_false, enc_hdr, enc_x, enc_m, enc_d, enc_a, enc_b, enc_c, enc_ext, ok_bind, need_true, ok_pure, Bool.and_true, beq_self_eq_true, cls, zero, Raw.imm, imm_ext, Bool.true_or, Bool.or_true, h])

theorem ftime (i) : Statement (.ftime i) := fun h =>
  row_round ⟨0, false, bFtime⟩ rfl rfl 0x16B rfl rfl (by decide) rfl rfl (by
  have h : (i.h.g.ok && sOk i.d) = true := h
  simp only [Bool.and_eq_true] at h
  refine ⟨g_ok i.h.g (by simp only [h]), ?_⟩
  show bFtime (enc 0x16B 0 i.h i.d 0 0 0 (low1 i.epoch) 0 0) = .ok _
  obtain ⟨f1, f2⟩ := f_low1 0 i.epoch (low1 i.epoch) rfl
  simp only [bFtime, Raw.x0, f1, f2, enc_hdr, enc_x, enc_m, enc_d, enc_a, enc_b, enc_c, ok_bind, need_true, ok_pure, Bool.and_true, beq_self_eq_true, cls, zero, h])

theorem sysc (i) : Statement (.sysc i) := fun h =>
  row_round ⟨1, false, bSysc⟩ rfl (imm_trim _) 0x182 rfl rfl (by decide) rfl rfl (by
  have h : (i.h.g.ok) = true := h
  refine ⟨g_ok i.h.g (by simp only [h]), ?_⟩
  show bSysc (enc 0x182 1 i.h 0 0 0 0 0 0 (immExt ((0 : BitVec 16) ++ i.service))) = .ok _
  obtain ⟨f1, f2⟩ := f_two16 0 i.service _ rfl
  simp only [bSysc, Raw.m0, Raw.x0, f1, f2, enc_hdr, enc_x, enc_m, enc_d, enc_a, enc_b, enc_c, enc_ext, ok_bind, need_true, ok_pure, Bool.and_true, beq_self_eq_true, zero, Raw.imm, imm_ext])

theorem syscReply (i) : Statement (.syscReply i) := fun _ _ _ h => nomatch h

theorem halt (i) : Statement (.halt i) := fun h =>
  row_round ⟨0, false, (bNone .halt)⟩ rfl rfl 0x185 rfl rfl (by decide) rfl rfl (by
  have h : (i.g.ok) = true := h
  refine ⟨g_ok i.g (by simp only [h]), ?_⟩
  show bNone .halt (enc 0x185 0 i 0 0 0 0 0 0 0) = .ok _
  simp only [bNone, Raw.m0, Raw.x0, enc_hdr, enc_x, enc_m, enc_d, enc_a, enc_b, enc_c, ok_bind, need_true, ok_pure, Bool.and_true, beq_self_eq_true, zero])

theorem trap (i) : Statement (.trap i) := fun h =>
  row_round ⟨1, false, bTrap⟩ rfl (imm_trim _) 0x180 rfl rfl (by decide) rfl rfl (by
  have h : (i.h.g.ok) = true := h
  refine ⟨g_ok i.h.g (by simp only [h]), ?_⟩
  show bTrap (enc 0x180 1 i.h 0 0 0 0 0 0 (immExt ((0 : BitVec 27) ++ i.n))) = .ok _
  obtain ⟨f1, f2⟩ := f_trap 0 i.n _ rfl
  simp only [bTrap, Raw.m0, Raw.x0, f1, f2, enc_hdr, enc_x, enc_m, enc_d, enc_a, enc_b, enc_c, enc_ext, ok_bind, need_true, ok_pure, Bool.and_true, beq_self_eq_true, zero, Raw.imm, imm_ext])

theorem rett (i) : Statement (.rett i) := fun h =>
  row_round ⟨0, true, bRett⟩ rfl rfl 0x181 rfl rfl (by decide) rfl (bare_hb i.sw) (by
  have h : (true) = true := h
  refine ⟨bare_ne i.sw, ?_⟩
  show bRett (enc 0x181 0 (bareHdr i.sw) 0 0 0 0 (low1 i.next) 0 0) = .ok _
  obtain ⟨f1, f2⟩ := f_low1 0 i.next (low1 i.next) rfl
  simp only [bRett, Raw.x0, f1, f2, enc_sw, bareHdr, enc_x, enc_m, enc_d, enc_a, enc_b, enc_c, ok_bind, need_true, ok_pure, Bool.and_true, beq_self_eq_true, zero])

theorem csrr (i) : Statement (.csrr i) := fun h =>
  row_round ⟨1, false, bCsrr⟩ rfl (imm_trim _) 0x183 rfl rfl (by decide) rfl rfl (by
  have h : (i.h.g.ok && sOk i.d) = true := h
  simp only [Bool.and_eq_true] at h
  refine ⟨g_ok i.h.g (by simp only [h]), ?_⟩
  show bCsrr (enc 0x183 1 i.h i.d 0 0 0 0 0 (immExt ((0 : BitVec 20) ++ i.csr))) = .ok _
  obtain ⟨f1, f2⟩ := f_csr 0 i.csr _ rfl
  simp only [bCsrr, Raw.m0, Raw.x0, f1, f2, enc_hdr, enc_x, enc_m, enc_d, enc_a, enc_b, enc_c, enc_ext, ok_bind, need_true, ok_pure, Bool.and_true, beq_self_eq_true, cls, zero, Raw.imm, imm_ext, h])

theorem csrw (i) : Statement (.csrw i) := fun h =>
  row_round ⟨1, false, bCsrw⟩ rfl (imm_trim _) 0x184 rfl rfl (by decide) rfl rfl (by
  have h : (i.h.g.ok && sOk i.a) = true := h
  simp only [Bool.and_eq_true] at h
  refine ⟨g_ok i.h.g (by simp only [h]), ?_⟩
  show bCsrw (enc 0x184 1 i.h 0 i.a 0 0 0 0 (immExt ((0 : BitVec 20) ++ i.csr))) = .ok _
  obtain ⟨f1, f2⟩ := f_csr 0 i.csr _ rfl
  simp only [bCsrw, Raw.m0, Raw.x0, f1, f2, enc_hdr, enc_x, enc_m, enc_d, enc_a, enc_b, enc_c, enc_ext, ok_bind, need_true, ok_pure, Bool.and_true, beq_self_eq_true, cls, zero, Raw.imm, imm_ext, h])


theorem debugRevoke (i) : Statement (.debugRevoke i) := fun _ _ _ h => nomatch h

theorem watchWrite (i) : Statement (.watchWrite i) := fun _ _ _ h => nomatch h

theorem dbgStop (i) : Statement (.dbgStop i) := fun _ _ _ h => nomatch h

theorem dbgSave (i) : Statement (.dbgSave i) := fun _ _ _ h => nomatch h

theorem dbgRestore (i) : Statement (.dbgRestore i) := fun _ _ _ h => nomatch h

theorem dbgStep (i) : Statement (.dbgStep i) := fun _ _ _ h => nomatch h

theorem dbgSetWmode (i) : Statement (.dbgSetWmode i) := fun _ _ _ h => nomatch h

theorem billEntryReceive (i) : Statement (.billEntryReceive i) := fun _ _ _ h => nomatch h

theorem billEntryPerform : Statement (.billEntryPerform) := fun _ _ _ h => nomatch h

theorem slotEnd : Statement (.slotEnd) := fun _ _ _ h => nomatch h

theorem contextSwitch : Statement (.contextSwitch) := fun _ _ _ h => nomatch h

theorem saveComplete : Statement (.saveComplete) := fun _ _ _ h => nomatch h

theorem restoreComplete : Statement (.restoreComplete) := fun _ _ _ h => nomatch h

theorem latePacketApply (i) : Statement (.latePacketApply i) := fun _ _ _ h => nomatch h

theorem ctxCmdPreempt (i) : Statement (.ctxCmdPreempt i) := fun _ _ _ h => nomatch h

theorem ctxCmdEndPreempt : Statement (.ctxCmdEndPreempt) := fun _ _ _ h => nomatch h

theorem ctxCmdResume (i) : Statement (.ctxCmdResume i) := fun _ _ _ h => nomatch h

theorem ctxCmdDiscard (i) : Statement (.ctxCmdDiscard i) := fun _ _ _ h => nomatch h

theorem ptpFrame (i) : Statement (.ptpFrame i) := fun _ _ _ h => nomatch h

theorem ringmasterElection (i) : Statement (.ringmasterElection i) := fun _ _ _ h => nomatch h

theorem shootdownStart (i) : Statement (.shootdownStart i) := fun _ _ _ h => nomatch h

theorem shootdownDone : Statement (.shootdownDone) := fun _ _ _ h => nomatch h

theorem coreRetireRequest (i) : Statement (.coreRetireRequest i) := fun _ _ _ h => nomatch h

theorem linkEnable (i) : Statement (.linkEnable i) := fun _ _ _ h => nomatch h

theorem linkRetrain (i) : Statement (.linkRetrain i) := fun _ _ _ h => nomatch h

theorem linkRotate (i) : Statement (.linkRotate i) := fun _ _ _ h => nomatch h

theorem keyAutoRotate (i) : Statement (.keyAutoRotate i) := fun _ _ _ h => nomatch h

theorem ringCalibrationDone (i) : Statement (.ringCalibrationDone i) := fun _ _ _ h => nomatch h

theorem calibrationTimeout (i) : Statement (.calibrationTimeout i) := fun _ _ _ h => nomatch h

theorem linkTrainingDone (i) : Statement (.linkTrainingDone i) := fun _ _ _ h => nomatch h

theorem heaterSaturation (i) : Statement (.heaterSaturation i) := fun _ _ _ h => nomatch h

theorem lossOfLight (i) : Statement (.lossOfLight i) := fun _ _ _ h => nomatch h

theorem flitReceive (i) : Statement (.flitReceive i) := fun _ _ _ h => nomatch h

theorem ackReceive (i) : Statement (.ackReceive i) := fun _ _ _ h => nomatch h

theorem nakReceive (i) : Statement (.nakReceive i) := fun _ _ _ h => nomatch h

theorem ackTimeout (i) : Statement (.ackTimeout i) := fun _ _ _ h => nomatch h

theorem keyAnnounce (i) : Statement (.keyAnnounce i) := fun _ _ _ h => nomatch h

theorem powerOn (i) : Statement (.powerOn i) := fun _ _ _ h => nomatch h

theorem scrubPass (i) : Statement (.scrubPass i) := fun _ _ _ h => nomatch h

theorem softError (i) : Statement (.softError i) := fun _ _ _ h => nomatch h

theorem coolantOvertemp : Statement (.coolantOvertemp) := fun _ _ _ h => nomatch h

theorem registerWrite (i) : Statement (.registerWrite i) := fun _ _ _ h => nomatch h

theorem hostMemoryWrite (i) : Statement (.hostMemoryWrite i) := fun _ _ _ h => nomatch h

theorem residentDriverRingRead (i) : Statement (.residentDriverRingRead i) := fun _ _ _ h => nomatch h

theorem internalError (i) : Statement (.internalError i) := fun _ _ _ h => nomatch h

theorem commitStampNextNanosecond (i) : Statement (.commitStampNextNanosecond i) := fun _ _ _ h => nomatch h

theorem coolantBelowRatedInlet : Statement (.coolantBelowRatedInlet) := fun _ _ _ h => nomatch h

end Sys2Proof.Laws.RoundTrip
end

