-- ==== Sys2Proof/Laws/Shapes.lean ====
section
/-! SUPPORT. One law per form of a result: an update of the executing warp by `putV`, `putV64`, `putS`, `putP`, `putInt` or
`fpV` gives a next state of that form. -/

namespace Sys2Proof.Machine

theorem OnlyWarp.upd (s : State) (f : Warp → Warp) : OnlyWarp s (s.upd f) :=
  ⟨rfl, fun k h => State.warp_upd_ne s f k h⟩

theorem OnlyWarp.refl (s : State) : OnlyWarp s s := ⟨rfl, fun _ _ => rfl⟩

/-- Retiring a warp whose registers alone were changed. -/
theorem Retired.of (s : State) (f : Warp → Warp) (len : Nat) (sw : Bool) (hr : (f s.w).rest = s.w.rest)
    (hp : (f s.w).pc = s.w.pc) : Retired s (s.upd (fun w => (f w).retire len sw)) len sw := by
  refine ⟨OnlyWarp.upd _ _, ?_, ?_⟩
  · rw [State.w_upd, ← hr]
    unfold Warp.retire Warp.finish Warp.mark
    split <;> rfl
  · have h := Warp.retire_stat (f s.w) len sw
    have hpend : (f s.w).pending = s.w.pending := by
      have h' := congrArg (fun w : Warp => w.pending) hr
      exact h'
    rw [State.w_upd]
    refine ⟨?_, ?_, ?_, ?_, ?_, ?_, ?_⟩
    · simp [hp]
    · simp
    · simp
    · simp
    · simp
    · simp
    · rw [h.1, h.2]
      have h1 : ((f s.w).retire len sw).pending = (f s.w).pending := by simp
      rw [h1]
      cases (f s.w).pending <;> cases sw <;> rfl

theorem laneResult_putV (s : State) (h : Hdr) (d : RegNo) (len : Nat) (f : Warp → Nat → Word) (R : Nat → Word → Prop)
    (hR : ∀ i, i < 32 → (s.w.parts h).getLsbD i = true → R i (f s.w i)) :
    LaneResult (s.warpNext (fun w => w.putV h d len (f w))) s h d len R := by
  refine ⟨_, rfl, Retired.of s (fun w => w.setLanes (w.parts h) d.toNat (f w)) len h.sw rfl rfl, ?_, ?_, ?_, ?_, ?_⟩
  · intro r; simp [Warp.putV]
  · intro r; simp [Warp.putV]
  · simp [KeepsF, Warp.putV, Warp.srState, Warp.setLanes]
  · intro r i hi hn
    simp only [State.w_upd, Warp.putV, Warp.v_retire, Warp.v_setLanes _ _ _ _ _ _ hi]
    rw [if_neg]
    rintro ⟨rfl, hm⟩
    exact hn ⟨hm, Nat.le_refl _, Nat.lt_succ_self _⟩
  · intro i hi hm
    simp only [State.w_upd, Warp.putV, Warp.v_retire, Warp.v_setLanes _ _ _ _ _ _ hi, hm, and_self, if_true]
    exact hR i hi hm

/-- Both registers of a pair after a write of some lanes of it. -/
theorem Warp.v64_setLanes64 (w : Warp) (m : Mask) (r n : Nat) (f : Nat → DWord) (hn : n < 32) (hm : m.getLsbD n = true) :
    (w.setLanes64 m r f).v64 r n = f n := by
  simp only [Warp.v64, Warp.setLanes64, Warp.v_setLanes _ _ _ _ _ _ hn, hm, and_true, if_true]
  rw [if_neg (by omega)]
  exact pairOf_halves _

theorem Warp.v_setLanes64_out (w : Warp) (m : Mask) (r q n : Nat) (f : Nat → DWord) (hn : n < 32)
    (hq : ¬(m.getLsbD n = true ∧ r ≤ q ∧ q < r + 2)) : (w.setLanes64 m r f).v q n = w.v q n := by
  simp only [Warp.setLanes64, Warp.v_setLanes _ _ _ _ _ _ hn]
  rw [if_neg, if_neg]
  · rintro ⟨rfl, hm⟩; exact hq ⟨hm, by omega, by omega⟩
  · rintro ⟨rfl, hm⟩; exact hq ⟨hm, by omega, by omega⟩

theorem pairResult_putV64 (s : State) (h : Hdr) (d : RegNo) (len : Nat) (f : Warp → Nat → DWord) (R : Nat → DWord → Prop)
    (hR : ∀ i, i < 32 → (s.w.parts h).getLsbD i = true → R i (f s.w i)) :
    PairResult (s.warpNext (fun w => w.putV64 h d len (f w))) s h d len R := by
  refine ⟨_, rfl, Retired.of s (fun w => w.setLanes64 (w.parts h) d.toNat (f w)) len h.sw rfl rfl, ?_, ?_, ?_, ?_, ?_⟩
  · intro r; simp [Warp.putV64, Warp.setLanes64]
  · intro r; simp [Warp.putV64, Warp.setLanes64]
  · simp [KeepsF, Warp.putV64, Warp.srState, Warp.setLanes64, Warp.setLanes]
  · intro r i hi hn
    simp only [State.w_upd, Warp.putV64, Warp.v_retire]
    exact Warp.v_setLanes64_out _ _ _ _ _ _ hi hn
  · intro i hi hm
    have := Warp.v64_setLanes64 s.w (s.w.parts h) d.toNat i (f s.w) hi hm
    simp only [State.w_upd, Warp.putV64, Warp.v64, Warp.v_retire] at this ⊢
    rw [this]
    exact hR i hi hm

theorem scalarResult_putS (s : State) (h : Hdr) (d : RegNo) (len : Nat) (x : Warp → DWord) (R : DWord → Prop)
    (hR : s.w.parts h ≠ 0 → R (x s.w)) :
    ScalarResult (s.warpNext (fun w => w.putS h d len (x w))) s h d len R := by
  refine ⟨_, rfl, Retired.of s (fun w => if w.any h then w.setS d.toNat (x w) else w) len h.sw ?_ ?_, ?_, ?_, ?_, ?_, ?_⟩
  · split <;> rfl
  · split <;> rfl
  · intro r i; simp only [State.w_upd, Warp.putS, Warp.v_retire]; split <;> rfl
  · intro r; simp only [State.w_upd, Warp.putS, Warp.p_retire]; split <;> rfl
  · simp only [KeepsF, Warp.srState, State.w_upd, Warp.putS, Warp.retire_fpFlags, Warp.retire_sr]
    split <;> exact ⟨rfl, fun _ => rfl⟩
  · intro r hr
    simp only [State.w_upd, Warp.putS, Warp.s_retire]
    split
    · rw [Warp.s_setS, if_neg hr]
    · rfl
  · simp only [State.w_upd, Warp.putS, Warp.s_retire, Warp.any, bne_iff_ne, ne_eq, ite_not]
    by_cases hm : s.w.parts h = 0
    · rw [if_pos hm, if_pos hm]
    · rw [if_neg hm, if_neg hm, Warp.s_setS, if_pos rfl]
      exact hR hm

theorem predResult_putP (s : State) (h : Hdr) (d : RegNo) (len : Nat) (f : Warp → Nat → Bool) :
    PredResult (s.warpNext (fun w => w.putP h d len (f w))) s h d len (f s.w) := by
  refine ⟨_, rfl, Retired.of s (fun w => w.setPLanes (w.parts h) d.toNat (maskOf (f w))) len h.sw rfl rfl, ?_, ?_, ?_, ?_, ?_⟩
  · intro r i; simp [Warp.putP, Warp.setPLanes]
  · intro r; simp [Warp.putP, Warp.setPLanes]
  · simp [KeepsF, Warp.putP, Warp.srState, Warp.setPLanes, Warp.setP]
  · intro r hr
    simp only [State.w_upd, Warp.putP, Warp.p_retire, Warp.setPLanes, Warp.p_setP, if_neg hr]
    split
    · next h7 => simp [Warp.p, h7]
    · rfl
  · intro i hi
    simp only [State.w_upd, Warp.putP, Warp.p_retire, Warp.setPLanes, Warp.p_setP]
    by_cases h7 : d.toNat = 7
    · rw [if_pos h7, if_pos h7]; simp only [fullMask]; interval_cases i <;> rfl
    · rw [if_neg h7, if_neg h7, if_pos trivial]
      by_cases hm : (s.w.parts h).getLsbD i = true
      · simp [hm, getLsbD_maskOf _ i hi]
      · rw [if_neg hm]
        simp only [Bool.not_eq_true] at hm
        simp only [BitVec.getLsbD_or, BitVec.getLsbD_and, BitVec.getLsbD_not, hm]
        simp [hi]

theorem intResult_putInt (s : State) (h : Hdr) (sc : Bool) (ty : ITy) (d : RegNo) (len : Nat) (f : Warp → Nat → Nat)
    (R : Nat → Nat → Prop) (hR : ∀ i, R i (f s.w i)) :
    IntResult (s.warpNext (fun w => w.putInt h sc ty d len (f w))) s h sc ty d len R := by
  constructor
  · rintro rfl
    exact scalarResult_putS s h d len (fun w => ty.toScalar (f w 0)) _ (fun _ => ⟨_, hR 0, rfl⟩)
  · rintro rfl
    exact laneResult_putV s h d len (fun w i => BitVec.ofNat 32 (f w i)) _ (fun i _ _ => ⟨_, hR i, rfl⟩)

/-! ### Retiring a warp that changed elsewhere -/

theorem Warp.body_finish (w : Warp) (sw : Bool) : (w.finish sw).body = w.body := by
  unfold Warp.finish Warp.mark; split <;> rfl
theorem Warp.body_retire (w : Warp) (len : Nat) (sw : Bool) : (w.retire len sw).body = w.body :=
  Warp.body_finish { w with pc := w.pc + BitVec.ofNat 64 len } sw

theorem Warp.at_finish (w : Warp) (sw : Bool) : (w.finish sw).At w.pc sw := by
  have h := Warp.mark_stat w.clear sw
  unfold Warp.finish
  refine ⟨?_, ?_, ?_, ?_, ?_, ?_, ?_⟩
  iterate 6
    · unfold Warp.mark; split <;> rfl
  · have h1 : (w.clear.mark sw).pending = w.pending := by
      unfold Warp.mark; split <;> rfl
    rw [h.1, h.2, h1, show w.clear.pending = w.pending from rfl]
    cases w.pending <;> cases sw <;> rfl
theorem Warp.at_retire (w : Warp) (len : Nat) (sw : Bool) : (w.retire len sw).At (w.pc + BitVec.ofNat 64 len) sw :=
  Warp.at_finish { w with pc := w.pc + BitVec.ofNat 64 len } sw

/-- The executing warp finishes its instruction as the warp `f` of itself. -/
theorem WarpStep.finish (s : State) (f : Warp → Warp) (sw : Bool) :
    WarpStep (.next (s.upd (fun w => (f w).finish sw))) s (f s.w) (f s.w).pc sw :=
  ⟨_, rfl, OnlyWarp.upd _ _, by rw [State.w_upd, Warp.body_finish], by rw [State.w_upd]; exact Warp.at_finish _ _⟩
/-- The executing warp retires its instruction as the warp `f` of itself. -/
theorem WarpStep.retire (s : State) (f : Warp → Warp) (len : Nat) (sw : Bool) :
    WarpStep (.next (s.upd (fun w => (f w).retire len sw))) s (f s.w) ((f s.w).pc + BitVec.ofNat 64 len) sw :=
  ⟨_, rfl, OnlyWarp.upd _ _, by rw [State.w_upd, Warp.body_retire], by rw [State.w_upd]; exact Warp.at_retire _ _ _⟩

end Sys2Proof.Machine
end

