-- ==== Sys2Proof/Tests/Slice0.lean ====
section
/-! SUPPORT. Tests: terms that WellFormed refuses, words of the reference with the instructions they stand for, single steps
of its worked examples, and for every statement with hypotheses a state and operands that meet them. Expected results come
from the reference; a comment names the place. -/

namespace Sys2Proof.Tests

open Sys2Proof Sys2Proof.Machine

set_option Elab.async false

/-- The unguarded form and no cross-lane modifier. -/
abbrev h : Hdr := ⟨⟨false, 7⟩, false⟩
/-- See `h`; with the switch marker. -/
abbrev hs : Hdr := ⟨⟨false, 7⟩, true⟩
/-- See `h`. -/
abbrev off : XL := ⟨.none, 0⟩
/-- [s1], a legal memory operand. -/
abbrev ms : MemOp := ⟨some 1, none, 0, none⟩

/-! ### An ill-formed term for each check -/

theorem test_wf_guard : wellFormed (.nop ⟨⟨true, 7⟩, false⟩) = false := by decide
theorem test_wf_crossLane : wellFormed (.iadd ⟨h, false, .b32, false, ⟨.up, 0⟩, 1, 2, 3⟩) = false ∧
    wellFormed (.iadd ⟨h, false, .b32, false, ⟨.none, 1⟩, 1, 2, 3⟩) = false ∧
    wellFormed (.iadd ⟨h, true, .b32, false, ⟨.bc, 1⟩, 1, 2, 3⟩) = false := by decide
theorem test_wf_scalarClass : wellFormed (.iadd ⟨h, true, .b32, false, off, 64, 2, 3⟩) = false ∧
    wellFormed (.tkget ⟨h, 2⟩) = false ∧ wellFormed (.tkget ⟨h, 64⟩) = false := by decide
theorem test_wf_pairClass : wellFormed (.iadd64 ⟨h, false, .b64, false, off, 1, 2, 4⟩) = false ∧
    wellFormed (.dadd ⟨h, false, false, .f64, .rne, off, 2, 3, 4⟩) = false ∧
    wellFormed (.matchLanes ⟨h, true, 0, 3⟩) = false := by decide
theorem test_wf_predicateClass : wellFormed (.icmp ⟨h, .eq, false, off, 7, 1, 2⟩) = false ∧
    wellFormed (.sel ⟨h, off, 1, 2, 3, 8⟩) = false := by decide
theorem test_wf_queueAndFormatClass : wellFormed (.gset ⟨h, 16⟩) = false ∧ wellFormed (.qfmtImm ⟨h, 8, 0⟩) = false := by decide
theorem test_wf_specialRegisters : wellFormed (.movSpecialSource ⟨h, 1, 7⟩) = false ∧
    wellFormed (.movSpecialDestination ⟨h, 3, 1⟩) = false ∧ wellFormed (.movSpecialSource ⟨h, 1, 32⟩) = false := by decide
theorem test_wf_integerTypes : wellFormed (.imin ⟨h, false, .s32, true, off, 1, 2, 3⟩) = false ∧
    wellFormed (.iadd ⟨h, false, .b64, false, off, 1, 2, 3⟩) = false ∧
    wellFormed (.sar ⟨h, false, .b32, false, off, 1, 2, 3⟩) = false ∧
    wellFormed (.icvt ⟨h, false, .b32, false, .w32, off, 1, 2⟩) = false ∧
    wellFormed (.movReg ⟨h, .lo, false, .s32, off, 1, 2⟩) = false := by decide
theorem test_wf_floatTypes : wellFormed (.fadd ⟨h, false, false, .f64, .rne, off, 1, 2, 3⟩) = false ∧
    wellFormed (.fsqrt ⟨h, false, false, .f32, .rs, off, 1, 2⟩) = false ∧
    wellFormed (.fmin ⟨h, true, false, .f32, .rne, off, 1, 2, 3⟩) = false ∧
    wellFormed (.faddImm ⟨h, false, false, .f16, .rne, off, 1, 2, 0x10000⟩) = false := by decide
theorem test_wf_smallImmediates : wellFormed (.lea ⟨h, false, false, off, 1, 2, 3, 5⟩) = false ∧
    wellFormed (.qunpack ⟨h, off, 1, 2, 8, 0⟩) = false ∧ wellFormed (.sloop ⟨h, 1, 0, 0, 0, false, false⟩) = false ∧
    wellFormed (.sloop ⟨h, 1, 65, 0, 0, false, false⟩) = false := by decide
theorem test_wf_memoryOperand : wellFormed (.pfch ⟨h, ⟨none, none, 0, none⟩⟩) = false ∧
    wellFormed (.pfch ⟨h, ⟨none, some (1, 5), 0, none⟩⟩) = false ∧
    wellFormed (.pfch ⟨h, ⟨some 1, none, 0, some 0⟩⟩) = false := by decide
theorem test_wf_access : wellFormed (.ld ⟨h, false, .dflt, .team, .plain, .b32, 1, ms⟩) = false ∧
    wellFormed (.ld ⟨h, false, .dflt, .team, .rel, .b32, 1, ms⟩) = false ∧
    wellFormed (.ld ⟨h, true, .dflt, .warp, .plain, .b32, 1, ms⟩) = false ∧
    wellFormed (.ld ⟨h, false, .dflt, .warp, .plain, .b128, 2, ms⟩) = false ∧
    wellFormed (.lds ⟨h, false, .gc, .warp, .plain, .b32, 1, ms⟩) = false ∧
    wellFormed (.st ⟨h, .team, .acq, .b32, 1, ms⟩) = false ∧
    wellFormed (.ldfe ⟨h, false, .dflt, .warp, .plain, .b16, 1, ms⟩) = false := by decide
theorem test_wf_atomic : wellFormed (.atom ⟨h, .add, false, .warp, .plain, false, 1, 2, ms⟩) = false ∧
    wellFormed (.atom ⟨h, .fadd, false, .warp, .plain, true, 2, 0, ms⟩) = false ∧
    wellFormed (.atomr ⟨h, .cas, false, .warp, .plain, true, 2, 4, 5, ms⟩) = false := by decide
theorem test_wf_fences : wellFormed (.fence ⟨h, .team, .plain⟩) = false ∧ wellFormed (.fencep ⟨h, .team, .acq, 0, 1⟩) = false ∧
    wellFormed (.promote ⟨h, false, .team, false, ms⟩) = false := by decide
theorem test_wf_portWord : wellFormed (.qbind ⟨h, 0, 6⟩) = false ∧ wellFormed (.qbind ⟨h, 0, 0x41⟩) = false ∧
    wellFormed (.qbind ⟨h, 0, 0x20000⟩) = false ∧ wellFormed (.qbind ⟨h, 0, 0x13⟩) = false := by decide
theorem test_wf_matrix : wellFormed (.mma ⟨h, 0, false, false, false, 0, false, false, 1, ⟨.ob, 0, 0⟩, ⟨.ob, 1, 0⟩⟩) = false := by decide
theorem test_wf_tool : wellFormed (.tool64 ⟨8, 0xFC38, 0⟩) = false ∧ wellFormed (.tool64 ⟨0, 0xF838, 0⟩) = true ∧
    wellFormed (.tool96 ⟨0, 0xF839, 0⟩) = false ∧ wellFormed (.tool64 ⟨0, 0xF8B8, 0⟩) = false := by decide

/-! ### Words of the reference -/

-- 23_prog_gemm.md, 24_prog_pipeline.md, 25_prog_snapshot.md, 26_prog_allreduce.md, 27_prog_timeslice.md
theorem test_decode_gemm :
    decode 0x5052 0x0000001000000010 = .bra ⟨⟨⟨true, 2⟩, false⟩, 16, 16⟩ ∧
    decode 0x05198939 0x2012 = .obres ⟨h, 25, 5, 18, 8⟩ ∧
    decode 0x21400A039 0x80001 = .sloop ⟨h, 20, 2, 1, 0, true, false⟩ ∧
    decode 0x42080000000070B8 0 = .fencep ⟨h, .warp, .acq, 4, 2⟩ ∧
    decode 0xDD0F000000008ABA 0x0200000000000000 =
      .mma ⟨h, 0, false, false, false, 15, true, true, 29, ⟨.ob, 0, 0⟩, ⟨.ob, 1, 0⟩⟩ ∧
    decode 0x22300000000070B8 0 = .fencep ⟨h, .team, .rel, 2, 2⟩ ∧
    decode 0x5002 0xFFFFFFE1FFFFFFE1 = .bra ⟨⟨⟨false, 0⟩, false⟩, 0xFFFFFFE1, 0xFFFFFFE1⟩ ∧
    decode 0x208BBD 0x1F00 = .accrd ⟨hs, 32, 0, 0, 31⟩ := by decide
theorem test_decode_pipeline :
    decode 0x09000FB8 0 = .movSpecialDestination ⟨h, 0, 9⟩ ∧
    decode 0x000200000004623E 0x0002801800000000 = .ldfe ⟨hs, false, .dflt, .warp, .plain, .b32, 4, ⟨none, some (24, 2), 0, none⟩⟩ ∧
    decode 0x000200000007603E 0x0002C30600000000 = .ld ⟨hs, false, .dflt, .warp, .plain, .b32, 7, ⟨some 3, some (6, 2), 0, none⟩⟩ ∧
    decode 0x00020000F900633A 0x000280F800000020 = .stef ⟨h, .warp, .plain, .b32, 249, ⟨none, some (248, 2), 32, none⟩⟩ ∧
    decode 0x000100000000C0B8 0 = .rett ⟨false, true⟩ := by decide
theorem test_decode_snapshot :
    decode 0x1700A838 0 = .snap ⟨h, 23⟩ ∧ decode 0x0000000A0B020BB8 0 = .icmp ⟨h, .eq, false, off, 2, 11, 10⟩ ∧
    decode 0x170080B9 0 = .barv ⟨h, 23, 0⟩ ∧
    decode 0x000400000004603E 0x0000420000000000 = .ld ⟨hs, false, .dflt, .warp, .plain, .b128, 4, ⟨some 2, none, 0, none⟩⟩ ∧
    decode 0xA8B8 0 = .snapx h ∧ decode 0x1700A938 0 = .txb ⟨h, 23⟩ ∧
    decode 0x00040000080060BA 0x0000420000000000 = .st ⟨h, .warp, .plain, .b128, 8, ⟨some 2, none, 0, none⟩⟩ ∧
    decode 0x000EA9B8 0 = .txc ⟨h, 14⟩ ∧ decode 0x00A000000E0F17B9 32 = .shrImm ⟨h, true, .b64, false, off, 15, 14, 32⟩ ∧
    decode 0x00A0000E0F0F0538 0 = .or ⟨h, true, .b64, false, off, 15, 15, 14⟩ ∧ decode 0xDAAB8 0 = .txq ⟨h, 13⟩ := by decide
theorem test_decode_links :
    decode 0x00A0000000141CB9 5 = .movi ⟨h, true, .b64, off, 20, 5⟩ ∧
    decode 0x000100140008B43E 0x0001C40100000000 = .ldred ⟨hs, false, .b16, 8, 20, ⟨some 4, some (1, 1), 0, none⟩⟩ ∧
    decode 0x00B200140C00B4BA 0x00004A0000000040 = .stmc ⟨h, true, .b32, 12, 20, ⟨some 10, none, 64, none⟩⟩ ∧
    decode 0x00AA0000000D603E 0x00004B0000000040 = .ld ⟨hs, false, .dflt, .clearing, .acq, .b32, 13, ⟨some 11, none, 64, none⟩⟩ ∧
    decode 0x1A0081BD 0x10 = .bwait ⟨hs, 26, 16⟩ ∧
    decode 0xC021 3 = .trap ⟨⟨⟨false, 4⟩, false⟩, 3⟩ := by decide
-- 20_order_far.md
theorem test_decode_fencep : decode 0x42180000000070B8 0 = .fencep ⟨h, .warp, .acqrel, 4, 2⟩ := by decide

-- assembled by hand from R45 to R60 and the entry named
-- R104: M = S·128 + TYPE·16 + SAT·8
theorem test_decode_integer :
    decode 0x0010040302010238 0 = .imad ⟨h, false, .s32, false, off, 1, 2, 3, 4⟩ ∧
    decode 0x00B8000706050038 0 = .iadd ⟨h, true, .s64, true, off, 5, 6, 7⟩ ∧
    decode 0x0000000002011739 9 = .shlImm ⟨h, false, .b32, false, off, 1, 2, 9⟩ ∧
    decode 0x0010000302010838 0 = .sar ⟨h, false, .s32, false, off, 1, 2, 3⟩ ∧
    decode 0x0010000002010F38 0 = .icvt ⟨h, false, .s32, false, .w8, off, 1, 2⟩ ∧
    decode 0x0000040302010DB8 0 = .lea ⟨h, false, false, off, 1, 2, 3, 4⟩ ∧
    decode 0x0030000604020E38 0 = .iadd64 ⟨h, false, .s64, false, off, 2, 4, 6⟩ ∧
    decode 0x2703000002140CB8 0 = .movReg ⟨h, .tos, false, .b32, ⟨.bc, 7⟩, 20, 2⟩ ∧
    decode 0x0000000012030D38 0 = .movSpecialSource ⟨h, 3, 18⟩ := by decide
-- R111 to R125: M = SAT·128 + FTZ·64 + TYPE·8 + RND; M[7] of FCMP is NEG
theorem test_decode_float :
    decode 0x00CC0403020121B8 0 = .ffma ⟨h, true, true, .f16, .rs, off, 1, 2, 3, 4⟩ ∧
    decode 0x0018000604022AB8 0 = .dadd ⟨h, false, false, .f64, .rne, off, 2, 4, 6⟩ ∧
    decode 0x0082000302012338 0 = .fcmp ⟨h, true, false, .f32, .le, off, 1, 2, 3⟩ ∧
    decode 0x0058000002012938 0 = .fcvt ⟨h, false, true, .f64, .rne, off, 1, 2⟩ ∧
    decode 0x00410000020129B8 0 = .ftoi ⟨h, false, true, .f32, .rz, off, 1, 2⟩ := by decide
theorem test_decode_narrow :
    decode 0x0000000005024038 0 = .qfmt ⟨h, 2, 5⟩ ∧ decode 0x0000020603014138 0 = .qunpack ⟨h, off, 1, 3, 6, 2⟩ ∧
    decode 0x00CB0004030241B8 0 = .bscale ⟨h, true, true, true, .ru, off, 2, 3, 4⟩ := by decide
-- R126 to R130 and R64: MOVX M = S·128 + B64·64
theorem test_decode_crossLane :
    decode 0x0001000302014438 0 = .perm ⟨h, true, 1, 2, 3⟩ ∧ decode 0x03000000021444B8 0 = .vote ⟨h, .uni, 20, 2⟩ ∧
    decode 0x0800000002014538 0 = .wred ⟨h, .fadd, 1, 2⟩ ∧ decode 0x12000000020145B8 0 = .wscan ⟨h, true, .imaxS, 1, 2⟩ ∧
    decode 0x0100000002014638 0 = .matchLanes ⟨h, true, 1, 2⟩ ∧ decode 0x00C00005020146B8 0 = .movx ⟨h, true, true, 1, 2, 5⟩ ∧
    decode 0x0000000502014738 0 = .movxw ⟨h, false, false, 1, 2, 5⟩ := by decide
-- R54, R147 to R152, R383
theorem test_decode_control :
    decode 0x00000000040050B9 0x20 = .brx ⟨h, 4, 0x20⟩ ∧ decode 0x0000000000065139 0xFFFFFFF0 = .call ⟨h, 6, 0xFFFFFFF0⟩ ∧
    decode 0x0000000006005238 0 = .ret ⟨h, 6⟩ ∧ decode 0x00000000000052B8 0 = .exit h ∧ decode 0x00000000000053B8 0 = .nop h ∧
    decode 0x0000000900005438 0 = .bkpt ⟨h, 9⟩ ∧ decode 0x3FFFFFFFFFFF54B8 0 = .tramp ⟨false, 0x3FFFFFFFFFFF⟩ ∧
    decode 0x0000000000005639 0xFF = .syncwImm ⟨h, 0xFF⟩ ∧ decode 0x000000000014C1B9 0x101 = .csrr ⟨h, 20, 0x101⟩ ∧
    decode 0x000000001400C239 0x102 = .csrw ⟨h, 20, 0x102⟩ := by decide
-- R50, R53, R169: X = AOP·16 + SX·8 + SPACE
theorem test_decode_access :
    decode 0x924B0004020666BA 0x0000420000000000 = .atomr ⟨h, .cas, true, .grove, .acq, true, 6, 2, 4, ⟨some 2, none, 0, none⟩⟩ ∧
    decode 0x080100000001603A 0x0000410000000008 = .ld ⟨h, true, .dflt, .warp, .plain, .b16, 1, ⟨some 1, none, 8, none⟩⟩ ∧
    decode 0x000200010000643A 0x000041000000000C = .fest ⟨h, .warp, .plain, true, ⟨some 1, none, 12, none⟩⟩ := by decide
-- R206, R215, R220, R223, R230
theorem test_decode_barriersAndMatrix :
    decode 0x0000000003018239 0 = .btest ⟨h, 1, 3, 0⟩ ∧ decode 0x0001000000148838 0 = .bandacq ⟨h, true, 20⟩ ∧
    decode 0x0000000405008A39 0x40 = .obld ⟨h, 5, 4, 0x40⟩ ∧ decode 0x0000000000098B38 0 = .accz ⟨h, 1, .hi⟩ ∧
    decode 0x0000000005028C39 0x0305 = .accwr ⟨h, 5, 2, 5, 3⟩ := by decide
-- R239 to R254, R261, R269, R279
theorem test_decode_enginesAndStages :
    decode 0x0000000000039039 0x11 = .qbind ⟨h, 3, 0x11⟩ ∧ decode 0x0000000000059238 0 = .gset ⟨h, 5⟩ ∧
    decode 0x00010000000292B8 0 = .gclr ⟨h, true, 2⟩ ∧
    decode 0x0000000000149838 0 = .tkget ⟨h, 20⟩ ∧ decode 0x00000000140098B9 0xC5 = .tkput ⟨h, 20, 0xC5⟩ ∧
    decode 0x000000000503943A 0x0000000100000040 = .hrec ⟨h, 3, 5, true, 0x40⟩ ∧
    decode 0x0000000000149538 0 = .cbatch ⟨h, 20⟩ ∧ decode 0x00000000000095B9 1 = .cwait ⟨h, 1⟩ ∧
    decode 0x000000000900A138 0 = .sadv ⟨h, 9⟩ := by decide
-- R60; R59: the first condition that holds
theorem test_decode_toolsAndIllegal :
    decode 0x123456789ABCF838 0 = .tool64 ⟨0, 0x123456789ABCF838, 0⟩ ∧
    decode 0x123456789ABCFE7E 0xFEDCBA9876543210 = .tool128 ⟨12, 0x123456789ABCFE7E, 0xFEDCBA9876543210⟩ ∧
    decode 0x38 0 = .iadd ⟨h, false, .b32, false, off, 0, 0, 0⟩ ∧
    decode 0x39 0 = .illegalEncoding ⟨0x043, 12, 0x39, 0⟩ ∧ decode 0x4038 0 = .qfmt ⟨h, 0, 0⟩ ∧
    decode 0x4338 0 = .illegalEncoding ⟨0x042, 8, 0x4338, 0⟩ ∧ decode 0x52B0 0 = .exit ⟨⟨false, 6⟩, false⟩ ∧
    decode 0x54B0 0 = .illegalEncoding ⟨0x04A, 8, 0x54B0, 0⟩ ∧
    decode 0x0040000000000038 0 = .illegalEncoding ⟨0x045, 8, 0x0040000000000038, 0⟩ ∧
    decode 0xE000000000000038 0 = .illegalEncoding ⟨0x046, 8, 0xE000000000000038, 0⟩ ∧
    decode 0x0000000000080BB8 0 = .illegalEncoding ⟨0x047, 8, 0x0000000000080BB8, 0⟩ ∧
    decode 0x0000010000000038 0 = .illegalEncoding ⟨0x048, 8, 0x0000010000000038, 0⟩ := by decide

/-! ### Small states -/

/-- Warp 0 of core 0, in every lane. -/
def wu : Warp := { stat := .ready, pc := 0x1000, cj := 0xFFFFFFFFFFFFFFFF, em := 0xFFFFFFFF, ctx := 1 }

/-- The package with that warp, its team of 1 KiB, and context 1 Running, whose one range entry maps the addresses below
16 MiB to 1 MiB and up, readable, writable and executable (R158). -/
def su (w : Warp) : State := { State.reset with
  warps := [(0, w)], ready := true, step := 0, ft := 0x100000
  teams := [(0, { used := true, slots := 1, size := 1024, ctx := 1, warps := 1 })]
  ctxs := [(1, { state := .running, range := 0x20000, trapBase := 0x4001, toolBase := 0x5001 })]
  mem := [(0x20008, 0xFF), (0x20009, 0xFF), (0x2000A, 0xFF), (0x20012, 0x10), (0x20018, 0x39)] }

/-- The decidable form of `State.Here`. -/
def hereB (s : State) (want : Want) (i : Nat) (ea : DWord) (n : Nat) : Bool :=
  decide (ea.toNat + n ≤ 2 ^ 48) && (List.range n).all (fun k => match s.byteOfAccess want i ea n k with
    | some (t, _) => decide (t.peer = s.peer) && !t.vers && decide (t.page % 4096 = 0)
    | none => false)

theorem here_of {s : State} {want : Want} {i : Nat} {ea : DWord} {n : Nat} (h : hereB s want i ea n = true) :
    s.Here want i ea n := by
  simp only [hereB, Bool.and_eq_true, decide_eq_true_eq, List.all_eq_true, List.mem_range] at h
  refine ⟨h.1, fun k hk => ?_⟩
  have := h.2 k hk
  cases hb : s.byteOfAccess want i ea n k with
  | none => simp [hb] at this
  | some p =>
    obtain ⟨t, a⟩ := p
    simp only [hb, Bool.and_eq_true, decide_eq_true_eq, Bool.not_eq_true'] at this
    exact ⟨t, a, rfl, this.1.1, this.1.2, this.2⟩

/-- What holds of lane 0 holds of every lane of a mask whose one lane that is. -/
theorem only_lane0 {m : Mask} {P : Nat → Prop} (hm : m = 1) (h : P 0) : ∀ i, i < 32 → m.getLsbD i = true → P i := by
  subst hm
  intro i hi hp
  rcases Nat.eq_zero_or_pos i with rfl | h0
  · exact h
  · have : ∀ i, i < 32 → (1 : Mask).getLsbD i = true → i = 0 := by decide
    exact absurd (this i hi hp) (by omega)

/-! ### Worked examples of the reference, one step each -/

/-- The warp after an instruction. -/
def after (i : Instr) (w : Warp) : Warp := match exec i (su w) with
  | .next t => t.w
  | .fault _ => {}
  | .refused _ => {}

-- 06_vector.md: IADD.sat.s32 of 0x7FFFFFF0 + ... saturates
theorem test_iadd_saturates :
    (after (.iaddImm ⟨h, false, .s32, true, off, 7, 7, 0x7FFFFFF0⟩) { wu with vregs := [(224, 0x20)] }).v 7 0 = 0x7FFFFFFF := by
  decide +kernel
-- R104: IABS of the most negative value
theorem test_iabs_mostNegative :
    (after (.iabs ⟨h, false, .s32, false, off, 1, 2⟩) { wu with vregs := [(64, 0x80000000)] }).v 1 0 = 0x80000000 ∧
    (after (.iabs ⟨h, false, .s32, true, off, 1, 2⟩) { wu with vregs := [(64, 0x80000000)] }).v 1 0 = 0x7FFFFFFF := by decide +kernel
-- R128: WRED.fadd of a single lane holding -0 delivers -0; of lanes that all hold NaN, WRED.fmin delivers CanonNaN
theorem test_wred_specialValues :
    (after (.wred ⟨h, .fadd, 1, 2⟩) { wu with em := 1, vregs := [(64, 0x80000000)] }).v 1 0 = 0x80000000 ∧
    (after (.wred ⟨h, .fmin, 1, 2⟩) { wu with em := 1, vregs := [(64, 0xFFC00001)] }).v 1 0 = 0x7FC00000 := by decide +kernel
-- R149: EXIT of some lanes goes on with the others; of the last lane it retires the warp
theorem test_exit :
    (after (.exit ⟨⟨false, 1⟩, false⟩) { wu with preds := [(1, 3)] }).em = 0xFFFFFFFC ∧
    (after (.exit h) wu).stat = .retiring := by decide +kernel
-- R384, R380: TRAP #3 in lanes 8 and 9 enters at TRAP_BASE with those lanes (21_trap.md, worked example)
theorem test_trap_enters :
    (let w := after (.trap ⟨⟨⟨false, 4⟩, false⟩, 3⟩) { wu with preds := [(4, 0x300)] }
     w.trapMode = true ∧ w.pc = 0x4000 ∧ w.em = 0x300 ∧ w.trap.cause = 0x303 ∧ w.trap.addr = 3 ∧ w.trap.pc = 0x1000) := by
  decide +kernel
-- R385: RETT.next returns behind the instruction
theorem test_rett_next :
    (let w := after (.rett ⟨false, true⟩) { wu with trapMode := true, em := 1, trap := { valid := true, pc := 0x2000, len := 12, em := 0xFF, cj := 7 } }
     w.trapMode = false ∧ w.pc = 0x200C ∧ w.em = 0xFF ∧ w.cj = 7) := by decide +kernel
-- R70: a scalar-context read of a protected register traps, of a readable one answers
theorem test_csrr :
    (after (.csrr ⟨h, 20, 0x030⟩) wu).trap.cause = 0x101 ∧ (after (.csrr ⟨h, 20, 0x004⟩) { wu with lstackLimit := 0x1001 }).s 20 = 0x1001 := by
  decide +kernel

/-! ### For each statement with hypotheses, values that meet them -/

theorem wit_CompareSelectAndAddressInstructionsComplete :
    (⟨h, false, .b64, false, off, 2, 4, 6, 8⟩ : Int4).ty = .b64 ∧ (⟨h, false, .s64, false, off, 2, 4, 255, 8⟩ : Int4I).ty = .s64 ∧
    (⟨h, .plain, false, .b32, off, 1, 2⟩ : MovReg).form = .plain ∧ (⟨h, .lo, false, .b32, off, 1, 2⟩ : MovReg).form = .lo ∧
    (⟨h, .hi, false, .b32, off, 1, 2⟩ : MovReg).form = .hi ∧ (⟨h, .tos, false, .b32, off, 1, 2⟩ : MovReg).form = .tos ∧
    (⟨h, .tohi, false, .b32, off, 1, 2⟩ : MovReg).form = .tohi := by decide
theorem wit_CrossLaneModifierPicksTheSourceLane :
    (⟨h, false, .b32, false, ⟨.rot, 31⟩, 1, 2, 3⟩ : Int3).s = false ∧ (⟨h, false, .b32, false, ⟨.rot, 31⟩, 1, 2, 3⟩ : Int3).ty = .b32 ∧
    (⟨h, false, .b32, false, ⟨.rot, 31⟩, 1, 2, 3⟩ : Int3).sat = false ∧ 31 < 32 := by decide
/-- 1 + 2^-24, which raises NX alone. -/
def inexact : Instr := .fadd ⟨h, false, false, .f32, .rne, off, 1, 2, 3⟩
/-- See `inexact`. -/
def wInexact : Warp := { wu with em := 1, vregs := [(64, 0x3F800000), (96, 0x33800000)] }
theorem wit_FlagRaisingInstructionsCompleteWithoutTrap :
    ∃ p, floatForm inexact (su wInexact) = some p ∧ ∀ k, p.Raises (su wInexact) k → (su wInexact).w.fpTrapen.getLsbD k = false :=
  ⟨_, rfl, fun k _ => by show (0 : BitVec 5).getLsbD k = false; simp⟩
/-- Both cases: NX is raised, and with NX enabled it traps. -/
theorem wit_EnabledFlagTrapsBeforeAnyLaneWrites :
    (∃ p, floatForm inexact (su wInexact) = some p) ∧ (after inexact wInexact).fpFlags = 1 ∧
    (after inexact { wInexact with fpTrapen := 1 }).trap.cause = 0x145 := ⟨⟨_, rfl⟩, by decide +kernel⟩
theorem wit_ExactArithmeticIsExact :
    (match Num.fin false 3 4 (-1) with | .fin _ _ d _ => 0 < d | _ => False) ∧ scaleExp 0x00800000 ≠ 0 ∧ scaleExp 0x00800000 ≠ 255 := by
  refine ⟨by decide, by decide, by decide⟩
theorem wit_RoundingPicksTheNearestRepresentableValue : 0 < 1 ∧ 0 < 1 ∧ (Machine.Num.fin false 1 1 0).rat = some 1 ∧
    (((fmtOf .f32).decode false (((fmtOf .f32).round (.fin false 1 1 0) (.rnd .ru 0) false).val)).rat).isSome = true ∧ Rnd.ru ≠ .rs := by
  refine ⟨by decide, by decide, by simp [Num.rat], by decide +kernel, by decide⟩
theorem wit_SelectingFloatInstructionsRaiseNoFlag :
    (fmtOf .f32).decode false 0x7FC00000 = .nan ∧ ¬((fmtOf .f32).decode false 0x3F800000 = .nan) ∧
    (fmtOf .f16).decode false 0xFFFF = .nan := by decide +kernel
/-- Lanes 0 and 2 participate. -/
theorem wit_CrossLaneInstructionsCombineParticipatingLanes :
    let m := (su { wu with em := 5 }).w.parts h
    (m.getLsbD 0 = true ∧ ∀ j, j < 0 → m.getLsbD j = false) ∧
    (m.getLsbD 0 = true ∧ m.getLsbD 2 = true ∧ 0 < 2 ∧ ∀ k, 0 < k → k < 2 → m.getLsbD k = false) := by
  refine ⟨⟨by decide +kernel, by omega⟩, by decide +kernel, by decide +kernel, by decide, ?_⟩
  intro k h0 h2
  obtain rfl : k = 1 := by omega
  decide +kernel
/-- MOVX of v2 with e = 0: register number 255 is the highest, 254 the highest pair, 256 is above. -/
theorem wit_IndexedMovesCheckThenMove :
    let s := fun n : Word => su { wu with em := 1, vregs := [(64, n)] }
    (∀ i, i < 32 → ((s 255).w.parts h).getLsbD i = true → ((s 255).w.v 2 i).toNat + 0 ≤ 255) ∧
    (∀ i, i < 32 → ((s 254).w.parts h).getLsbD i = true → ((s 254).w.v 2 i).toNat + 0 ≤ 255 ∧
      ((s 254).w.v 2 i).toNat % 2 = 0) ∧
    ((s 255).w.v 2 0).toNat % 2 = 1 ∧ (3 : RegNo).toNat % 2 = 1 ∧ (4 : RegNo).toNat % 2 = 0 ∧
    ((s 256).w.parts h).getLsbD 0 = true ∧ 255 < ((s 256).w.v 2 0).toNat := by
  refine ⟨only_lane0 (by decide +kernel) (by decide +kernel), only_lane0 (by decide +kernel) (by decide +kernel), by decide +kernel,
    by decide +kernel, by decide +kernel, by decide +kernel, by decide +kernel⟩
theorem wit_FormatAndSeedInstructionsWriteTheirRegister :
    (su { wu with em := 0 }).w.parts h = 0 ∧ (su wu).w.parts h ≠ 0 ∧ narrowFmt 0xFFFFFFFF = none ∧ narrowFmt 0x000101A1 ≠ none ∧
    (∃ f, narrowFmt (Tab.get 0 (su { wu with fmt := [(1, 0x000101A1)] }).w.fmt 1) = some f ∧ (if f.width ≤ 4 then 8 else 4) ≤ 8) := by
  refine ⟨by decide +kernel, by decide +kernel, by decide +kernel, by decide +kernel, _, rfl, by decide +kernel⟩
/-- RET to 2 traps; a BRA of no lane, of one path backward, and of two paths. -/
theorem wit_BranchesTransferLanesToTheirTargets :
    (∃ b, branchForm (.ret ⟨h, 2⟩) (su { wu with em := 1, vregs := [(64, 2)] }) = some b ∧
      maskOf (fun n => ((su { wu with em := 1, vregs := [(64, 2)] }).w.parts b.h).getLsbD n && (b.target n).toNat % 4 != 0) ≠ 0) ∧
    (∃ b, branchForm (.bra ⟨h, 0, 4⟩) (su { wu with em := 1, spin := 62 }) = some b ∧ b.back = true ∧
      (su { wu with em := 1, spin := 62 }).w.em ≠ ~~~(su { wu with em := 1, spin := 62 }).w.exited ∧
      (su { wu with em := 1, spin := 62 }).w.spin.toNat + 1 < 64 ∧ b.dest (su { wu with em := 1, spin := 62 }) 0 = 0x1000) ∧
    (∃ b, branchForm (.bra ⟨⟨⟨false, 1⟩, false⟩, 8, 8⟩) (su { wu with em := 3, preds := [(1, 1)] }) = some b ∧
      b.dest (su { wu with em := 3, preds := [(1, 1)] }) 0 = 0x1020 ∧ b.dest (su { wu with em := 3, preds := [(1, 1)] }) 1 = 0x1010 ∧
      (su { wu with em := 3, preds := [(1, 1)] }).w.depth = (su { wu with em := 3, preds := [(1, 1)] }).w.stack.length ∧
      1 + 1 + (su { wu with em := 3, preds := [(1, 1)] }).w.stack.length ≤ 32) ∧
    (su { wu with em := 0 }).w.em = 0 ∧ wu.watch = none := by
  refine ⟨⟨_, rfl, by decide +kernel⟩, ⟨_, rfl, by decide +kernel⟩, ⟨_, rfl, by decide +kernel⟩, by decide +kernel⟩
/-- A stack entry. -/
def entry : StackEntry := ⟨.path, 0x2000, 1, 0x3000, 0⟩
/-- Depth 32 without and 288 with a spill area traps; depth 31 is held; at depth 32 the oldest entry is spilled. -/
theorem wit_StackOverflowTrapsAndTheThirtyThirdEntrySpills :
    let full := { wu with depth := 32, stack := List.replicate 32 entry }
    (full.lstackLimit.getLsbD 0 = false ∧ 32 ≤ full.depth) ∧
    (({ full with lstackLimit := 0x3001, depth := 288 } : Warp).lstackLimit.getLsbD 0 = true ∧ 288 ≤ 288) ∧
    (({ wu with depth := 31, stack := List.replicate 31 entry } : Warp).stack.length < 32) ∧
    (full.stack.length = 32 ∧ full.stack.getLast? = some entry ∧
      (let s : State := { su { full with lstackLimit := 0x3001 } with mem := (su wu).mem ++ [(0x2001E, 1)] }
       (match s.translate s.w.ctx s.myDie wantW 0 (s.w.spillVa 0) with
         | .ok t => decide (t.peer = s.peer) && !t.vers && decide (t.okind ≠ 0) | .error _ => false) = true ∧
       s.fenceHolds 0 = false ∧ s.w.stored = [] ∧ s.Unwatched)) := by
  unfold State.Unwatched; decide +kernel
theorem wit_PathEndTakesTheNextPath :
    let live := fun (st : List StackEntry) => st.filter (fun e => e.mask &&& ~~~(0 : Mask) != 0)
    let wait : StackEntry := ⟨.wait, 0x10, 2, 0, 3⟩
    let join : StackEntry := ⟨.join, 0x20, 3, 0, 0⟩
    live [wait, entry] = [wait] ++ entry :: [] ∧ entry.kind = .path ∧ (∀ x ∈ [wait], x.kind = .wait) ∧ [wait] ≠ [] ∧
    live [wait, join] = [wait] ++ [join] ∧ join.kind = .join ∧ live [] = [] ∧ live [join] = join :: [] := by decide
theorem wit_NopYieldTrampolinesAndExitComplete :
    (su wu).w.trapMode = false ∧ (su wu).w.trampLink.getLsbD 0 = false ∧ (su { wu with trampLink := 1 }).w.trampLink.getLsbD 0 = true ∧
    (su { wu with trapMode := true }).w.trapMode = true ∧
    ((su wu).w.em &&& ~~~(su wu).w.parts h = 0 ∧ (su wu).w.depth = 0) ∧
    ¬((su wu).w.em &&& ~~~(su { wu with preds := [(1, 1)] }).w.parts ⟨⟨false, 1⟩, false⟩ = 0 ∧ (su wu).w.depth = 0) ∧
    (let s := { su wu with warps := [(0, { wu with yielding := 4 }), (4, wu)] }
     4 / 16 = 0 / 16 ∧ 4 % 4 = 0 % 4 ∧ 4 ≠ 0 ∧ (s.warp 4).stat = .ready ∧ (s.warp 4).yielding = 0) ∧
    (∀ n, n < 16 → n % 4 = 0 → n ≠ 0 → ¬(((su wu).warp n).stat = .ready ∧ ((su wu).warp n).yielding = 0)) := by decide +kernel
/-- SYNCW with mask 3 in lanes 0 and 1; mask 1 lacks lane 1; lanes that disagree; another wait that overlaps. -/
theorem wit_SyncwAgreesOrWaits :
    let w : Warp := { wu with em := 3, vregs := [(64, 3), (65, 3)] }
    (su { w with em := 0 }).w.parts h = 0 ∧ (su w).w.parts h = 3 ∧ (su { w with trapMode := true }).w.trapMode = true ∧
    maskOf (fun i => ((su w).w.parts h).getLsbD i && !((1 : Mask)).getLsbD i) ≠ 0 ∧
    maskOf (fun i => ((su w).w.parts h).getLsbD i && !((su w).w.v 2 i).getLsbD i) = 0 ∧
    (su { w with vregs := [(64, 3), (65, 7)] }).w.v 2 0 ≠ (su { w with vregs := [(64, 3), (65, 7)] }).w.v 2 1 ∧
    (∀ i, i < 32 → ((su w).w.parts h).getLsbD i = true → (su w).w.v 2 i = 3) ∧ w.depth = w.stack.length ∧ w.stack.length ≤ 32 ∧
    (∃ e ∈ [(⟨.wait, 0, 4, 0, 6⟩ : StackEntry)], e.kind = .wait ∧ e.smask ≠ 3 ∧ e.smask &&& 3 ≠ 0) ∧
    (∀ k, k < 32 → (3 : Mask).getLsbD k = true → w.exited.getLsbD k = false → ((su w).w.parts h).getLsbD k = true) ∧
    w.watch = none := by decide +kernel
theorem wit_TrapEntersTheHandler :
    (su wu).w.trapMode = false ∧ ((su wu).ctx 1).trapBase.getLsbD 0 = true ∧ (0x303 : Cause) ≠ 0 ∧ (0x300 : Mask) ≠ 0 ∧
    (su { wu with trapMode := true }).w.trapMode = true ∧ ((su wu).ctx 2).trapBase.getLsbD 0 = false := by decide +kernel
theorem wit_StopsWithoutHandler :
    (su { wu with trapMode := true }).w.trapMode = true ∧
    ((su { wu with ctx := 2 }).ctx (su { wu with ctx := 2 }).w.ctx).trapBase.getLsbD 0 = false := by decide +kernel
theorem wit_SoftwareTrapsAndEncodingTrapsTakeTheirCause :
    (su { wu with em := 0 }).w.parts h = 0 ∧ (su wu).w.parts h ≠ 0 ∧ ((su wu).ctx 1).dbgRight.getLsbD 1 = false ∧
    ((su wu).ctx (su wu).w.ctx).toolBase.getLsbD 0 = true ∧ ((su { wu with ctx := 2 }).ctx 2).toolBase.getLsbD 0 = false ∧
    (su wu).w.trapMode = false := by decide +kernel
theorem wit_RettRestoresThePath :
    (su { wu with trapMode := true }).w.trapMode = true ∧ wu.depth ≤ wu.trap.tb.toNat ∧ wu.depth = wu.stack.length ∧
    (List.replicate 32 entry).length ≤ 32 ∧ wu.watch = none := by decide +kernel
theorem wit_HaltAndAttachedBreakpointStopTheContext :
    let s := { su wu with ctxs := [(1, ({ state := .running, dbgRight := 2 } : Ctx))] }
    (su { wu with em := 0 }).w.parts h = 0 ∧ s.w.parts h ≠ 0 ∧ (s.ctx s.w.ctx).dbgRight.getLsbD 1 = true ∧
    (su { wu with trapMode := true }).w.trapMode = true ∧ s.w.trapMode = false := by decide +kernel
/-- A store not yet acknowledged, a full ring, and a reply to the waiting warp, of another run, and to no waiting warp. -/
theorem wit_SystemCallWaitsRecordsAndReturns :
    let s := su { wu with stat := .parked, reason := 22 }
    let r : SyscReply := ⟨1, 0, 0, 0, 1, 2⟩
    (su wu).w.parts h ≠ 0 ∧ (su { wu with em := 0 }).w.parts h = 0 ∧
    ({ su wu with remotes := [⟨5, 0, 1, 0, 9, 0, none, 0, 0, 0⟩] } : State).accessOpen 0 = true ∧ 4096 ≤ (List.replicate 4096 ()).length ∧
    r.gen = s.genNow r.ctx ∧ s.savedOn r.ctx r.core = false ∧ (s.warp 0).ctx = r.ctx ∧ (s.warp 0).stat = .parked ∧
    (s.warp 0).reason = 22 ∧ (s.warp 0).pending = [] ∧ (⟨1, 1, 0, 0, 1, 2⟩ : SyscReply).gen ≠ s.genNow 1 ∧
    ¬(((su wu).warp 0).ctx = r.ctx ∧ (((su wu).warp 0).stat = .parked ∨ ((su wu).warp 0).stat = .halted) ∧ ((su wu).warp 0).reason = 22) := by
  decide +kernel
/-- A debugger of context 1, Running, Stopped and Saved. -/
def sDbg (st : CState) : State := { su wu with ctxs := [(1, ({ state := st, dbgRight := 1 } : Ctx))] }
theorem wit_ControlRegistersReadAndWriteByTheirRights :
    (su { wu with em := 0 }).w.parts h = 0 ∧ (su wu).w.parts h ≠ 0 ∧ (su wu).w.ctx ≠ 0 ∧ (su { wu with ctx := 0 }).w.ctx = 0 ∧
    csrRights 0x030 = some (0, 2) ∧ csrRights 0x020 = some (1, 1) ∧ csrRights 0x003 = some (1, 2) ∧ csrRights 0x001 = some (2, 2) ∧
    csrRights 0xFFF = none ∧ csrRights 0x101 = some (1, 2) ∧ csrRights 0x102 = some (0, 2) ∧
    -- a revoke that nothing delays, and one behind a command
    ((su wu).csr 0x101).getLsbD 0 = false ∧ ((sDbg .stopped).csr 0x101).getLsbD 0 = true ∧
    ((sDbg .stopped).dbgBusy = false ∧ (sDbg .stopped).revokes = []) ∧
    (let s : State := { sDbg .stopped with heldCmds := [.dbgSave 1] }
     (s.csr 0x101).getLsbD 0 = true ∧ s.dbgBusy = true) := by decide +kernel
theorem wit_DebuggerCommandsActOnlyWithTheRight :
    ((sDbg .running).ctx 1).dbgRight.getLsbD 0 = true ∧ ¬(((su wu).ctx 1).dbgRight.getLsbD 0 = true) ∧ (sDbg .running).dbgBusy = false ∧
    ({ sDbg .running with heldCmds := [.dbgSave 1] } : State).dbgBusy = true ∧ Tab.rising none (su wu).warps = true ∧
    ((sDbg .running).ctx 1).state = .running ∧ ((sDbg .stopped).ctx 1).state = .stopped ∧ ((sDbg .saved).ctx 1).state = .saved ∧
    (sDbg .stopped).heldCmds = [] ∧ (sDbg .stopped).switch = none ∧ (sDbg .stopped).revokes = [] ∧
    (let s : State := { sDbg .stopped with heldCmds := [.dbgSave 1] }
     (s.ctx 1).dbgRight.getLsbD 0 = true ∧ s.dbgBusy = true ∧ s.revokes = []) ∧
    (let s : State := { sDbg .stopped with switch := some ⟨0, some 2, none, 0, some 0x380, 0, false, false⟩ }
     s.dbgBusy = false ∧ s.heldCmds = [] ∧ s.switch ≠ none) ∧
    (let v : BitVec 128 := 1 <<< 96
     ((v &&& 0x00007FFFFFFFFFFF0000FFFFFFFFFFFF).extractLsb' 96 12 = 1)) ∧
    (let s : State := { sDbg .saved with mem := [(4, 3)] }
     s.headerValid 1 = true ∧ (s.num (s.areaOf 1) 8).testBit 33 = true) ∧
    (let s := { sDbg .stopped with warps := [(0, { wu with stat := .halted })] }
     (s.warp 0).ctx = 1 ∧ (s.warp 0).stat = .halted ∧ s.savedOn 1 0 = false ∧ s.teamOfSlot 0 0 = some 0 ∧ (s.team 0).ctx = 1) := by
  decide +kernel
/-- Lane 0 at 0xFFC, whose 8 bytes lie on two pages. -/
def sMem : State := su { wu with em := 1, sregs := [(1, 0xFFC)] }
theorem sMem_unheld : sMem.Unheld := by unfold State.Unheld; decide +kernel
theorem sMem_unwatched : sMem.Unwatched := by unfold State.Unwatched; decide +kernel
theorem sMem_here : ∀ want ∈ [wantR, wantW, wantRW], ∀ i, i < 32 → (sMem.w.parts h).getLsbD i = true →
    sMem.Here want i (sMem.w.ea ms i) 8 := by
  intro want hw
  refine only_lane0 (by decide +kernel) (here_of ?_)
  simp only [List.mem_cons, List.not_mem_nil, or_false] at hw
  rcases hw with rfl | rfl | rfl <;> decide +kernel
theorem wit_GlobalLoadsAndStoresMoveTheirBytes : sMem.Unheld ∧ sMem.Unwatched ∧
    (∀ i, i < 32 → (sMem.w.parts h).getLsbD i = true → sMem.Here wantR i (sMem.w.ea ms i) Size.b64.bytes) ∧
    (∀ i, i < 32 → (sMem.w.parts h).getLsbD i = true → sMem.Here wantW i (sMem.w.ea ms i) Size.b64.bytes) ∧
    (sMem.w.s 9).toNat ≤ sMem.now.toNat ∧ (sMem.w.s 1).toNat ≤ sMem.now.toNat ∧ sMem.w.stored = [] ∧
    (∀ n, Tab.get [] sMem.myTeam.rocLines n ≠ [] → (Tab.get [] sMem.myTeam.rocLines n).length = 128) :=
  ⟨sMem_unheld, sMem_unwatched, sMem_here wantR (by simp), sMem_here wantW (by simp), by decide +kernel, by decide +kernel, rfl,
    fun _ h => absurd rfl h⟩
/-- Lane 0 at 0x100 and lane 1 at 32 MiB, which nothing maps. -/
def sFault : State := su { wu with em := 3, vregs := [(64, 0x100), (65, 0x2000000)] }
/-- [v2]. -/
abbrev mv : MemOp := ⟨none, some (2, 0), 0, none⟩
theorem wit_FaultingLanesMakeTheWarpReplayable : sFault.Unheld ∧ sFault.Unwatched ∧
    ∀ want ∈ [wantR, wantW, wantRW],
    (∃ i, i < 32 ∧ (sFault.w.parts h).getLsbD i = true ∧
      ∃ f, sFault.transParts sFault.w.ctx sFault.myDie want i (sFault.w.ea mv i) (partsOf (sFault.w.ea mv i) 4) = .error f) ∧
    (∀ i, i < 32 → (sFault.w.parts h).getLsbD i = true → (sFault.w.ea mv i).toNat + 4 ≤ 2 ^ 48 ∧ (sFault.w.ea mv i).toNat % 4 = 0 ∧
      ((∃ f, sFault.transParts sFault.w.ctx sFault.myDie want i (sFault.w.ea mv i) (partsOf (sFault.w.ea mv i) 4) = .error f) ∨
        sFault.Here want i (sFault.w.ea mv i) 4)) ∧ sFault.w.done = 0 ∧
    ∀ n, n < 32 → (sFault.w.parts h).getLsbD n = true → sFault.versionedAt n (sFault.w.ea mv n) = false := by
  refine ⟨by unfold State.Unheld; decide +kernel, by unfold State.Unwatched; decide +kernel, fun want hw => ?_⟩
  have bad : ∃ f, sFault.transParts sFault.w.ctx sFault.myDie want 1 (sFault.w.ea mv 1) (partsOf (sFault.w.ea mv 1) 4) = .error f := by
    have : (match sFault.transParts sFault.w.ctx sFault.myDie want 1 (sFault.w.ea mv 1) (partsOf (sFault.w.ea mv 1) 4) with
        | .ok _ => false | .error _ => true) = true := by
      simp only [List.mem_cons, List.not_mem_nil, or_false] at hw
      rcases hw with rfl | rfl | rfl <;> decide +kernel
    split at this
    · cases this
    · exact ⟨_, ‹_›⟩
  have good : sFault.Here want 0 (sFault.w.ea mv 0) 4 := here_of (by
    simp only [List.mem_cons, List.not_mem_nil, or_false] at hw
    rcases hw with rfl | rfl | rfl <;> decide +kernel)
  refine ⟨⟨1, by decide, by decide +kernel, bad⟩, fun i hi hp => ?_, rfl, by decide +kernel⟩
  have two : ∀ i, i < 32 → (sFault.w.parts h).getLsbD i = true → i = 0 ∨ i = 1 := by decide +kernel
  rcases two i hi hp with rfl | rfl
  · exact ⟨by decide +kernel, by decide +kernel, .inr good⟩
  · exact ⟨by decide +kernel, by decide +kernel, .inl bad⟩
/-- Lane 0 at the last word of the team's 1 KiB, and one byte further. -/
theorem wit_ScratchpadInstructionsActOnTheirOffsets :
    let s := su { wu with em := 1, sregs := [(1, 1020)] }
    let t := su { wu with em := 1, sregs := [(1, 1021)] }
    s.Unheld ∧ s.w.watch = none ∧ s.spTeam ms.core = some 0 ∧ s.w.parts h ≠ 0 ∧
    (∀ i, i < 32 → (s.w.parts h).getLsbD i = true → (s.w.ea ms i).toNat + 4 ≤ (s.team 0).size ∧ (s.w.ea ms i).toNat % 4 = 0) ∧
    t.Unheld ∧ (t.w.parts h).getLsbD 0 = true ∧ (t.team 0).size < (t.w.ea ms 0).toNat + 4 ∧
    s.spTeam (some 9) = none := by
  unfold State.Unheld; decide +kernel
theorem wit_AtomicsReplaceTheOldValueInLaneOrder :
    let s := su { wu with em := 1, sregs := [(1, 1016)] }
    s.Unheld ∧ s.Unwatched ∧ (∀ i, i < 32 → (s.w.parts h).getLsbD i = true →
      (s.w.ea ms i).toNat % 8 = 0 ∧ s.Here wantRW i (s.w.ea ms i) 8 ∧ s.Stands wantRW i (s.w.ea ms i) 8 0 0x1003F8) ∧
    s.spTeam ms.core = some 0 ∧
    (∀ i, i < 32 → (s.w.parts h).getLsbD i = true → (s.w.ea ms i).toNat % 8 = 0 ∧ (s.w.ea ms i).toNat + 8 ≤ (s.team 0).size) := by
  refine ⟨by unfold State.Unheld; decide +kernel, by unfold State.Unwatched; decide +kernel,
    only_lane0 (by decide +kernel) ⟨by decide +kernel, here_of (by decide +kernel), _, rfl⟩, by decide +kernel,
    only_lane0 (by decide +kernel) (by decide +kernel)⟩
theorem wit_LinesAndFencesComplete :
    let open_ : State := { sMem with remotes := [⟨5, 0, 1, 0, 9, 0, none, 0, 0, 0⟩] }
    let held : State := { open_ with warps := [(0, { sMem.w with fence := { v := true } })] }
    (∀ n, n < 32 → (sMem.w.parts h).getLsbD n = true →
      (sMem.w.ea ms n).toNat < 2 ^ 48 ∧ ∃ a, sMem.Stands wantR n (sMem.w.ea ms n) 1 0 a) ∧
    (∀ i, i < 32 → (sMem.w.parts h).getLsbD i = true → (sMem.w.ea ms i).toNat % 4 = 0 ∧ sMem.Here wantR i (sMem.w.ea ms i) 4) ∧
    (∀ i, i < 32 → (held.w.parts h).getLsbD i = true → (held.w.ea ms i).toNat % 4 = 0 ∧ held.Here wantRW i (held.w.ea ms i) 4 ∧
      ∀ tr a, held.byteOfAccess wantRW i (held.w.ea ms i) 4 0 = some (tr, a) → tr.amode = 0) ∧
    sMem.Unheld ∧ sMem.Unwatched ∧
    (sMem.w.promotes = [] ∧ sMem.w.watch = none ∧ sMem.w.parts h ≠ 0 ∧ (su { wu with em := 0 }).w.parts h = 0 ∧ isAcq .acq = true ∧
      sMem.fencepOpen 15 = false ∧ open_.fencepOpen 1 = true ∧ sMem.spTeam none = some 0 ∧ held.fenceHolds 0 = true ∧
      held.w.parts h ≠ 0) := by
  refine ⟨only_lane0 (by decide +kernel) ⟨by decide +kernel, _, _, rfl⟩,
    only_lane0 (by decide +kernel) ⟨by decide +kernel, here_of (by decide +kernel)⟩,
    only_lane0 (by decide +kernel) ⟨by decide +kernel, here_of (by decide +kernel), ?_⟩, sMem_unheld, sMem_unwatched, by decide +kernel⟩
  intro tr a he
  have all : (sMem.byteOfAccess wantRW 0 (sMem.w.ea ms 0) 4 0).all (fun x => x.1.amode == 0) = true := by decide +kernel
  have he' : sMem.byteOfAccess wantRW 0 (sMem.w.ea ms 0) 4 0 = some (tr, a) := he
  rw [he'] at all
  exact beq_iff_eq.mp all
/-- Slots of 132 bytes: the last of the team's 1 KiB, one beyond, one that is not aligned, and one in memory. -/
theorem wit_SpillWritesTheSmallestFormAndFillReadsItBack :
    (sMem.Here wantW 0 0xF80 132 ∧ sMem.Here wantR 0 0xF80 132 ∧ ∀ n, sMem.copyByte sMem.peer n = none) ∧
    (∀ k, k < 132 → sMem.Stands wantW 0 0xF80 132 k (0x100F80 + k)) ∧ (∀ k, k < 132 → sMem.Stands wantR 0 0xF80 132 k (0x100F80 + k)) ∧
    sMem.Unheld ∧ sMem.Unwatched ∧
    (sMem.w.done ≠ fullMask ∧ sMem.w.stored = [] ∧ (sMem.w.s 0 + (892 : Word).signExtend 64).toNat % 4 = 0 ∧
     (sMem.w.s 0 + (892 : Word).signExtend 64).toNat + 132 ≤ sMem.myTeam.size ∧
     sMem.myTeam.size < (sMem.w.s 0 + (896 : Word).signExtend 64).toNat + 132 ∧ (sMem.w.s 0 + (1 : Word).signExtend 64).toNat % 4 ≠ 0 ∧
     (sMem.byte (0x100F80 + 128)).toNat ≤ 3 ∧ 3 < (({ sMem with mem := [(0x101000, 4)] } : State).byte (0x100F80 + 128)).toNat) := by
  have st : ∀ want, ((List.range 132).all (fun k => match sMem.byteOfAccess want 0 0xF80 132 k with
      | some (_, a) => a == 0x100F80 + k | none => false)) = true → ∀ k, k < 132 → sMem.Stands want 0 0xF80 132 k (0x100F80 + k) := by
    intro want hall k hk
    have := (List.all_eq_true.mp hall) k (List.mem_range.mpr hk)
    split at this
    · rename_i t a he
      exact ⟨t, by rw [he, beq_iff_eq.mp this]⟩
    · cases this
  exact ⟨⟨here_of (by decide +kernel), here_of (by decide +kernel), fun n => rfl⟩, st _ (by decide +kernel), st _ (by decide +kernel),
    sMem_unheld, sMem_unwatched, by decide +kernel⟩
/-- Context 2 has no range entry; its four tables map the lowest page to 1 MiB. -/
def sWalk (leaf : List (Nat × Byte)) : State := { su { wu with ctx := 2 } with
  ctxs := [(2, { state := .running, range := 0x40000, troot := 0x30000 })]
  mem := [(0x30000, 0x03), (0x30001, 0x10), (0x30002, 0x03), (0x31000, 0x03), (0x31001, 0x20), (0x31002, 0x03),
    (0x32000, 0x03), (0x32001, 0x30), (0x32002, 0x03)] ++ leaf }
/-- R157: an address of 49 bits; R158: the first and last address of a range entry; R162: a walk to level 0, whose entry is
valid, invalid, and a table. -/
theorem wit_AddressesTranslateByRangesThenTables :
    (0x1000000000000 : DWord).extractLsb' 48 16 ≠ 0 ∧ (0xFFFFFF : DWord).extractLsb' 48 16 = 0 ∧ (su wu).cached 1 0 0xFFFFFF = [] ∧
    (let s := su wu
     let range := fun (k b : Nat) => s.dword ((s.ctx 1).range.toNat + 32 * k + b)
     (range 0 24).getLsbD 0 = true ∧ (range 0 0).toNat ≤ 0 ∧ 0xFFFFFF ≤ (range 0 8).toNat ∧
     ¬((range 0 0).extractLsb' 0 12 ≠ 0 ∨ (range 0 8).extractLsb' 0 12 ≠ 0xFFF ∨ (range 0 16).extractLsb' 0 12 ≠ 0 ∨
       (range 0 16).extractLsb' 40 24 ≠ 0 ∨ (range 0 24).extractLsb' 12 28 ≠ 0 ∨ (range 0 24).getLsbD 1 = true ∨
       (range 0 24).getLsbD 7 = true ∨ 0xBFFFFFFFFF < 0xFFFFFF - (range 0 0).toNat + (range 0 16).toNat) ∧
     (range 0 24).extractLsb' 52 12 = s.peer) ∧
    (let s := sWalk [(0x33000, 0x39), (0x33002, 0x10)]
     let table := fun (j : Nat) => 0x33000 - 0x1000 * j
     let entry := fun (j : Nat) => s.dword (table j + 8 * (0 / 2 ^ (12 + 9 * j) % 512))
     (∀ k, k < 64 → (s.dword ((s.ctx 2).range.toNat + 32 * k + 24)).getLsbD 0 = false) ∧ table 3 = (s.ctx 2).troot.toNat ∧
     (∀ j, j ≤ 3 → 0 < j → (entry j).getLsbD 0 = true ∧ (entry j).getLsbD 1 = true ∧ (entry j).extractLsb' 40 24 = 0 ∧
       (entry j).extractLsb' 2 10 = 0 ∧ table (j - 1) = ((entry j).extractLsb' 12 28).toNat * 4096) ∧
     (entry 0).getLsbD 0 = true ∧ (entry 0).getLsbD 1 = false ∧ (sWalk []).dword 0x33000 = 0 ∧
     ((sWalk [(0x33000, 3)]).dword 0x33000).getLsbD 1 = true) := by decide +kernel
theorem wit_LongResultsReturnByLane :
    let p : Pending := ⟨7, 1, .value [(32, 5)] []⟩
    let s := su { wu with pending := [p] }
    (∀ p ∈ ((su wu).warp 0).pending, p.id ≠ 7) ∧ p ∈ (s.warp 0).pending ∧ (∀ q ∈ (s.warp 0).pending, q.id = 7 → q = p) ∧
    ([((32 : Nat), (5 : Word))].map (·.1)).Nodup ∧
    (let w : Warp := { wu with stat := .parked, reason := 5, limit := 1, since := (su wu).ft - 64000 }
     w.stat = .parked ∧ ((su w).ctx w.ctx).state = .running ∧ w.limit ≠ 0 ∧
     w.limit.toNat * 64000 ≤ w.waited + ((su w).ft - w.since).toNat) := by decide +kernel
/-- An open record of the Replayable warp 0: its only one, and one of two. -/
theorem wit_FaultRecordsAreAnsweredByTheHost :
    let r : FaultRec := ⟨3, 0x2000000, 0x0C1, 0, 0, 1, 0, 0, 0, 1, 0⟩
    let w : Warp := { wu with stat := .replayable, records := [3] }
    let s : State := { su w with faultOpen := [r] }
    (∀ r ∈ (su wu).faultOpen, r.id ≠ 3) ∧ (su wu).faultHeld = [] ∧ (su wu).faultQ.length < 4096 ∧
    s.faultOpen.find? (fun x => x.id == 3) = some r ∧ r.acc ≠ 4 ∧ r.slot < 16 ∧ s.savedOn r.ctx r.core = false ∧ w.ctx = r.ctx ∧
    w.stat = .replayable ∧ (s.ctx w.ctx).state = .running ∧ r.id ∈ w.records ∧ w.records = [r.id] ∧ ([3, 4].erase r.id) ≠ [] ∧
    w.trapMode = false ∧ (s.ctx r.ctx).trapBase.getLsbD 0 = true := by decide +kernel
/-- Barrier 31 is the highest, 32 is none; arrivals that go on, that flip, that are watched, and that come too often. -/
theorem wit_BarrierInstructionsActOnTheirObject :
    let num := fun (v : DWord) => (v + (0 : Word).signExtend 64).toNat
    let two : Barrier := { valid := true, pend := 2, expect := 2 }
    let flips := fun (o : Barrier) (bytes : Nat) => o.pend - 1 = 0 ∧ o.txb + BitVec.ofNat 36 bytes = 0
    (su { wu with em := 0 }).w.parts h = 0 ∧ (su wu).w.parts h ≠ 0 ∧ 32 ≤ num 32 ∧ num 31 < 32 ∧
    (0 : DWord) = 0 ∧ 65535 < (65536 : DWord).toNat ∧ (65535 : DWord).toNat ≤ 65535 ∧
    (two.valid = true ∧ ({ two with pend := 1 } : Barrier).pend ≠ two.expect) ∧ ¬(two.pend ≠ two.expect ∨ two.txb ≠ 0 ∨ two.drop ≠ 0) ∧
    (two.valid = true ∧ ¬(2 ^ 35 - 1 < 2 ^ 35 - 1) ∧ ¬(2 ^ 35 - 1 < two.txb.toInt + (2 ^ 35 - 1 : Nat)) ∧ two.pend ≠ 0) ∧
    (2 ^ 35 - 1 < 2 ^ 35) ∧ ({ two with pend := 0 } : Barrier).pend = 0 ∧ ¬flips two 0 ∧ flips { two with pend := 1 } 0 ∧
    ({ two with wmode := 1 } : Barrier).wmode = 1 ∧ (su wu).releaseHolds none = false ∧
    ({ su wu with remotes := [⟨5, 0, 1, 0, 9, 0, none, 0, 0, 0⟩] } : State).releaseHolds none = true ∧
    (su wu).w.arrival 31 = none ∧ (su { wu with arrivals := [(31, some 4)] }).w.arrival 31 = some 4 := by decide +kernel
/-- A core whose band 0, record 0 and record 1 the team of warp 0 holds. -/
def cHeld : Core := { bands := [(0, ⟨.held, 0, 1⟩)]
                      resv := [(0, { state := .held, kind := 1, size := 4, ctx := 1 }), (1, { state := .held, kind := 1, size := 8, base := 4, ctx := 1 })] }
/-- See `cHeld`. -/
def sHeld : State := { su wu with cores := [(0, cHeld)] }
theorem wit_BandsAndReservationsAreClaimedAndReleased :
    (su wu).w.parts h ≠ 0 ∧ (su { wu with em := 0 }).w.parts h = 0 ∧ ((su wu).myCore.band 0).state = .free ∧
    ((1 : DWord).extractLsb' 4 60 = 0 ∧ (sHeld.myCore.band 0).state = .held ∧ (sHeld.myCore.band 0).owner = slotOf sHeld.w.team) ∧
    (2 : DWord).getLsbD 1 = true ∧ (sHeld.myCore.band 1).state = .free ∧ sHeld.releaseHolds none = false ∧
    -- OBRES of 512 units, BF16; 513 units; a narrow template without and with a format
    ((0x100000000 : DWord).extractLsb' 38 26 = 0 ∧ (0x100000000 : DWord).extractLsb' 32 3 = 1 ∧ (1 ≤ 512 ∧ 512 ≤ 512)) ∧ ¬(1 ≤ 513 ∧ 513 ≤ 512) ∧
    narrowFmt 0xFFFFFFFF = none ∧ narrowFmt 0x000101A1 ≠ none ∧ ((su wu).myCore.resvAt 0).state = .free ∧
    -- OBREL and OBLD
    (0 < 32 ∧ (sHeld.myCore.resvAt 0).state = .held ∧ (sHeld.myCore.resvAt 0).owner = slotOf sHeld.w.team) ∧
    (384 % 4 = 0 ∧ 384 + 128 ≤ (sHeld.myCore.resvAt 0).size * 128) ∧ ¬(388 + 128 ≤ (sHeld.myCore.resvAt 0).size * 128) ∧
    sHeld.bandsOpen sHeld.w.fence.bands = false ∧ (∀ p, p < 6 → (sHeld.myCore.port p).all = []) ∧
    -- port 0 executes an ACCZ of the warp, and an MMA that takes both records, from their beginning
    (let c : Cmd := { id := 9, slot := 0, team := 0, lanes := 1, guard := none, hold := false, succ := none, tag := 0, dest := .none, body := .accz .all }
     let m : Cmd := { c with body := .mma false false false 3 0 0 ⟨.ob, 0, 0⟩ ⟨.ob, 1, 0⟩ }
     let s : State := { sHeld with cores := [(0, { cHeld with ports := [(0, { exec := some c })] })]
                                   warps := [(0, { wu with fence := { bands := [9] } })] }
     s.bandsOpen s.w.fence.bands = true ∧ (s.myCore.port 0).exec = some c ∧ s.w.parts h ≠ 0 ∧ s.releaseHolds none = true ∧
     m.body.names 0 = true ∧ m.slot = slotOf s.cur ∧ m.gone = false ∧ 0 < 0 + 4 ∧ 0 < (s.myCore.resvAt 0).reach 32 8) := by
  repeat' refine And.intro ?_ ?_
  all_goals decide +kernel
theorem wit_MatrixCommandsQueueToTheirBand :
    let i : Mma := ⟨h, 0, false, true, false, 7, false, false, 0, ⟨.ob, 0, 0⟩, ⟨.ob, 1, 0⟩⟩
    let ra := sHeld.myCore.resvAt 0
    let rb := sHeld.myCore.resvAt 1
    ¬(i.half = true ∧ i.n64 = true) ∧ ((sHeld.myCore.band 0).state = .held ∧ (sHeld.myCore.band 0).owner = slotOf sHeld.w.team) ∧
    (ra.state = .held ∧ ra.owner = slotOf sHeld.w.team) ∧ (rb.state = .held ∧ rb.owner = slotOf sHeld.w.team) ∧ ra.bits = 16 ∧
    16 % 2 = 0 ∧ ra.kind ≠ 0 ∧
    -- K = 8: 32 rows of 16 bytes are the 512 bytes of record 0; K = 10 is more
    32 * 8 * ra.bits / 8 ≤ ra.size * 128 ∧ ra.size * 128 < 32 * 10 * ra.bits / 8 ∧
    (sHeld.myCore.band 1).state ≠ .held ∧ sHeld.w.parts h ≠ 0 ∧ ¬(64 < 32 + 32 ∨ 256 < 224 + 32) ∧ 64 < 33 + 32 ∧
    -- a push with room, and one that finds 16 commands
    (sHeld.port 0 0).all = [] ∧
    16 ≤ (List.replicate 16 ()).length := by decide +kernel
/-- Command 9 of slot 0 in one lane: unguarded, without a destination. -/
def cmdOf (b : CmdBody) : Cmd :=
  { id := 9, slot := 0, team := 0, lanes := 1, guard := none, hold := false, succ := none, sq := 0, tag := 0, dest := .none, body := b }
/-- Port 0 of core 0 executes a command. -/
def sExec (b : CmdBody) (acted : Bool) : State := { sHeld with
  cores := [(0, { cHeld with ports := [(0, { exec := some (cmdOf b), acted := acted })] })]
  warps := [(0, { wu with pending := [⟨9, 1, .accrd 9⟩] })] }
theorem wit_BandsExecuteTheirCommandOnce :
    ((sExec (.accz .all) false).port 0 0).exec = some (cmdOf (.accz .all)) ∧
    ((sExec (.accz .all) true).port 0 0).acted = true ∧ ((sExec (.accz .all) false).port 0 0).acted = false ∧ 0 < 4 ∧ 32 + 32 ≤ 64 ∧
    (Tab.get [] ((sExec (.colrd 3) false).core 0).results 0).length < 8 ∧ ¬(false = true ∧ true = true) ∧
    (let w := (sExec (.accrd 8 0 4) false).warp 0
     (⟨9, 1, .accrd 9⟩ : Pending) ∈ w.pending ∧
     ∀ q ∈ w.pending, (q.kind = .accrd 9 ∨ q.id = 9) → q = ⟨9, 1, .accrd 9⟩) := by
  repeat' refine And.intro ?_ ?_
  all_goals decide +kernel
/-- q0 bound to band 0 (KIND 1), q1 to its result port, q2 to the copy port, q3 to the status port. -/
def wQ : Warp := { wu with qbind := [(0, 0x1), (1, 0x2), (2, 0x3), (3, 0x4)], statusPort := [(5, 6)] }
theorem wit_SpecialRegistersAndQueuesMove :
    let s : State := { sHeld with warps := [(0, wQ)] }
    let kind := fun (q : Nat) => ((Tab.get 0 s.w.qbind q).extractLsb' 0 4).toNat
    s.w.parts h ≠ 0 ∧ (su { wQ with em := 0 }).w.parts h = 0 ∧ kind 4 ≠ 2 ∧ kind 4 ≠ 4 ∧ kind 1 = 2 ∧ kind 3 = 4 ∧ kind 0 = 1 ∧ kind 2 = 3 ∧
    Tab.get [] s.myCore.results 0 = [] ∧ s.w.statusPort ≠ [] ∧ (su wu).w.statusPort = [] ∧
    (Tab.get [] ({ cHeld with results := [(0, [[1]])] } : Core).results 0 = [[1]]) ∧
    ((s.w.parts h).getLsbD 0 = true ∧ ∀ k, k < 0 → (s.w.parts h).getLsbD k = false) ∧
    (s.w.txState ≠ .active ∧ s.w.txState ≠ .doomed) ∧ (su { wQ with txState := .doomed }).w.txState = .doomed ∧
    -- a COLRD body for band 0 and one whose reserved bits are set
    (let x : BitVec 128 := 0x3 <<< 64
     1 ≤ (x.extractLsb' 64 8).toNat ∧ (x.extractLsb' 64 8).toNat ≤ 3 ∧ x.extractLsb' 88 8 = 0 ∧ x.extractLsb' 72 2 = 0 ∧
     x.extractLsb' 123 5 = 0 ∧ (match s.wordBody 0 x with | .ok _ => true | .error _ => false) = true) ∧
    (BitVec.extractLsb' 123 5 ((1 : BitVec 128) <<< 127)).toNat ≠ 0 := by
  repeat' refine And.intro ?_ ?_
  all_goals decide +kernel
theorem wit_QueueControlInstructionsComplete :
    let s : State := { sHeld with
      warps := [(0, wQ)], dies := [(0, ({ tasks := [(5, { desc := 0x100000001 })] } : Die))] }
    s.w.parts h ≠ 0 ∧ (su { wQ with em := 0 }).w.parts h = 0 ∧ ¬(s.myCore.band 1).state = .held ∧
    ((s.taskq 0 5).desc.getLsbD 0 = true ∧ (s.taskq 0 5).desc.extractLsb' 32 12 = s.w.ctx) ∧ (s.taskq 0 6).desc.getLsbD 0 = false ∧
    ((s.myCore.port 0).exec.toList ++ (s.myCore.port 0).queue).length ≤ 32 ∧ (Tab.get [] s.myCore.results 0).length ≤ 8 ∧
    s.w.statusPort.length ≤ 16 ∧ (s.taskq 0 5).entries.length ≤ 1048575 ∧ s.w.qids.length ≤ 15 ∧
    (let c : Cmd := { cmdOf (.accz .all) with hold := true }
     let p : Port := { queue := [c] }
     p.exec = none ∧ p.queue = [c] ∧ c.guard = none ∧ c.dead = false ∧ (p.queue.map (fun c => c.id)).Nodup ∧
     ∀ x ∈ p.queue, x.mine 0 = true → x.dest = .none ∧ x.succ = none ∧ x.out = false ∧ x.body = .accz .all) := by
  repeat' refine And.intro ?_ ?_
  all_goals decide +kernel
theorem wit_PortsTakeCommandsInOrder :
    let c : Cmd := { cmdOf (.accz .all) with guard := some 2, hold := true, succ := some 4 }
    let s := fun (g : BitVec 2) (p : Port) => ({ su { wu with guards := [(2, g)] } with cores := [(0, { cHeld with ports := [(0, p)] })] } : State)
    let g := fun (v : BitVec 2) => c.guard.map (fun n => Tab.get (0 : BitVec 2) ((s v { queue := [c] }).warp (0 * 16 + c.slot)).guards n.toNat)
    ((s 1 { exec := some c }).port 0 0).exec ≠ none ∧ ((s 1 {}).port 0 0).queue = [] ∧ c.dead = false ∧ g 0 = some 0 ∧ g 1 = some 1 ∧ g 2 = some 2 ∧
    ((s 0 { queue := [c] }).warp 0).stat ≠ .retiring ∧ c.hold = true ∧ ((s 1 { queue := [c] }).port 0 0).rels = 0 ∧
    ((s 1 { queue := [c], rels := 1 }).port 0 0).rels ≠ 0 ∧ c.dest = .none ∧
    ((s 1 { exec := some c, acted := true }).port 0 0).acted = true ∧ ((s 1 { exec := some c }).port 0 0).acted = false ∧ c.succ = some 4 ∧
    (({ rels := 255 } : Port)).rels = 255 ∧ c.out = false ∧ c.body = .accz .all ∧
    -- a COLRD before a full and a free result port
    (let d : Cmd := { c with body := .colrd 3 }
     d.body = .colrd 3 ∧ 8 ≤ (List.replicate 8 ([] : List Word)).length ∧
     (Tab.get [] ((s 1 { queue := [d] }).core 0).results 0).length < 8) := by
  repeat' refine And.intro ?_ ?_
  all_goals decide +kernel
/-- Queue 5 of die 0 is open to context 1; an entry of 256 registers is accepted, of 257 it is not. -/
theorem wit_TaskQueuesKeepOrderAndDeliverOnce :
    let q : TaskQueue := { desc := 0x200000000100000003, entries := [⟨1, 2, 3, 4⟩] }
    let s : State := { su { wu with draw := 0x10505, qids := [5] } with dies := [(0, ({ tasks := [(5, q)] } : Die))] }
    s.w.parts h ≠ 0 ∧ (su { wu with em := 0 }).w.parts h = 0 ∧ s.w.reason ≠ 15 ∧
    ((s.taskq 0 5).desc.getLsbD 0 = true ∧ (s.taskq 0 5).desc.extractLsb' 32 12 = s.w.ctx) ∧ ¬(s.taskq 0 6).desc.getLsbD 0 = true ∧
    (0x2000000 : DWord).extractLsb' 25 7 ≠ 0 ∧ 256 < ((0x1010000 : DWord).extractLsb' 16 9).toNat ∧
    ¬(256 < ((0x1000000 : DWord).extractLsb' 16 9).toNat) ∧ s.releaseHolds none = false ∧ (s.taskq 0 5).entries.length < 1048575 ∧
    (s.w.draw.extractLsb' 0 4 = 5 ∧ s.w.qids.length < 15) ∧ (su wu).w.draw.extractLsb' 0 4 ≠ 5 ∧
    ((s.w.draw.extractLsb' 14 2).toNat = 0 ∧ (s.w.draw.extractLsb' 8 6).toNat = 5) ∧ (s.taskq 0 5).entries = ⟨1, 2, 3, 4⟩ :: [] ∧
    (s.taskq 0 6).entries = [] ∧ (5 : BitVec 8) ∈ s.w.qids ∧ (6 : BitVec 8) ∉ s.w.qids ∧
    64000 ≤ (s.ft - (s.die 0).usherAt).toNat ∧ ((63999 : DWord) - (s.die 0).usherAt).toNat < 64000 ∧ Tab.rising none s.warps = true ∧
    (∀ n, n < 64 → (s.taskq 0 n).desc.getLsbD 1 = true → (s.taskq 0 n).entries.length < ((s.taskq 0 n).desc.extractLsb' 68 20).toNat) := by
  repeat' refine And.intro ?_ ?_
  all_goals decide +kernel
theorem ok_of {x : Except Cause Trans} {P : Trans → Bool} (hx : (match x with | .ok t => P t | .error _ => false) = true) :
    ∃ t, x = .ok t ∧ P t = true := by
  cases x with
  | ok t => exact ⟨t, rfl, hx⟩
  | error e => cases hx
theorem error_of {x : Except Cause Trans} (hx : (match x with | .ok _ => false | .error _ => true) = true) : ∃ e, x = .error e := by
  cases x with
  | ok t => cases hx
  | error e => exact ⟨e, rfl⟩
/-- The layout image of 27_prog_timeslice.md: 64 elements of 4 bytes. -/
def img : BitVec 256 := 0x3F ||| (0x02200000 <<< 192)
/-- The record that HREC makes of it. -/
def rec64 : BitVec 256 := img ||| (1 <<< 255)
/-- h3 holds the record; s8 and s9 are the destination at the end of the team's 1 KiB and a source. -/
def wCopy : Warp := { wu with hregs := [(3, rec64)], sregs := [(8, 768), (9, 0x100)] }
/-- R259: an image for each status; R262 and R264: the conditions in order; R269 and R270: 16 and 15 open batches. -/
theorem wit_RecordsCopiesAndBatchesComplete :
    (su wCopy).Here wantR 0 0x100 32 ∧ (∀ n, (su wCopy).copyByte (su wCopy).peer n = none) ∧ (su wCopy).Unheld ∧ (su wCopy).Unwatched ∧
    ([(1 : BitVec 256) <<< 247, 2 <<< 247, img ||| (1 <<< 24) ||| (1 <<< 120) ||| (3 <<< 213) ^^^ (1 <<< 213) ||| (1 <<< 222), 0,
      (1 <<< 213) ||| (2 <<< 216) ||| (1 <<< 234), (1 <<< 213) ||| (1 <<< 216), (1 <<< 213) ||| (2 <<< 216) ||| (1 <<< 242), img].map layStatus =
        [1, 2, 3, 4, 5, 6, 7, 0]) ∧
    ((su wCopy).w.parts h ≠ 0 ∧ (su { wCopy with em := 0 }).w.parts h = 0) ∧
    (16 % 32 ≠ 0 ∧ 992 % 32 = 0 ∧ 992 + 32 ≤ (su wCopy).myTeam.size ∧ (su wCopy).myTeam.size < 1024 + 32) ∧
    (coreOf (su wCopy).w.team = coreOf (su wCopy).cur ∧ ((su wCopy).w.h 3).getLsbD 255 = true ∧ ((su wCopy).w.h 4).getLsbD 255 = false) ∧
    ((su wCopy).w.s 9).toNat % 4 = 0 ∧ ((su wCopy).w.s 8).toNat % 4 = 0 ∧
    ((su wCopy).myTeam.size = ((su wCopy).w.s 8).toNat + layTotal rec64 ∧ (su wCopy).myTeam.size < 772 + layTotal rec64) ∧
    (layOutside rec64 ((su wCopy).w.s 9) = false ∧ layOutside rec64 0xFFFFFFFFFFFF = true) ∧
    ((su wCopy).bar (su wCopy).w.team 16).valid = false ∧
    (let b := fun n => (List.range n).map (fun k => (BitVec.ofNat 32 k, [k]))
     16 ≤ ((b 16).filter (fun x => x.2 != [])).length ∧ ((b 15).filter (fun x => x.2 != [])).length < 16 ∧
     (∃ x ∈ (b 2).drop 1, x.2 ≠ []) ∧ ¬∃ x ∈ (b 2).drop 2, x.2 ≠ []) ∧
    ((0x100000000 : DWord).extractLsb' 32 32 ≠ 0 ∧ (0xFFFFFFFF : DWord).extractLsb' 32 32 = 0) ∧
    -- no copy of the warp is queued
    ((su wCopy).myCore.port 4).queue = [] ∧ ((su wCopy).myCore.port 5).queue = [] := by
  refine ⟨here_of (by decide +kernel), fun n => rfl, ?_⟩
  repeat' refine And.intro ?_ ?_
  all_goals decide +kernel
/-- A copy of that record from `g`, and the command it is. -/
def copyFrom (g : DWord) : CopyReq := ⟨3, .g2s, g, 0, 0, none, 0, none, none⟩
/-- See `copyFrom`. -/
def copyCmd (g : DWord) : Cmd := { cmdOf (.copy (copyFrom g)) with dest := .sreg 20 }
/-- The copy port of core 0 executes it, so far. -/
def sCopy (g : DWord) (p : CopyProg) : State := { su { wCopy with pending := [⟨9, 1, .copy 9 20⟩], openCopies := [9] } with
  cores := [(0, ({ ports := [(4, { exec := some (copyCmd g), prog := { p with layout := rec64 } })] } : Core))] }
/-- The first part is elements 0 to 31; a copy at its end; one that faults; one with a remote part outstanding. -/
theorem wit_CopyPartsMoveTheirElements :
    (∀ n, n < 32 → ∃ t, (sCopy 0x100 {}).translate 1 0 wantR (n % 65536) (0x100 + BitVec.ofInt 64 (layGlobal rec64 n)) = .ok t ∧
      (decide (t.peer = (sCopy 0x100 {}).peer) && !t.vers) = true) ∧
    (∃ e, (sCopy 0x2000000 {}).translate 1 0 wantR 0 (0x2000000 + BitVec.ofInt 64 (layGlobal rec64 0)) = .error e) ∧
    (((sCopy 0x100 {}).port 0 4).exec = some (copyCmd 0x100) ∧ (copyCmd 0x100).body = .copy (copyFrom 0x100) ∧ layCount rec64 = 64) ∧
    ¬(((sCopy 0x100 {}).port 0 4).prog.canc = true ∨ ((sCopy 0x100 {}).port 0 4).prog.code ≠ 0 ∨ 64 ≤ ((sCopy 0x100 {}).port 0 4).prog.done) ∧
    64 ≤ ((sCopy 0x100 { done := 64 }).port 0 4).prog.done ∧
    (((sCopy 0x100 {}).port 0 4).prog.stalled = none ∧ ((sCopy 0x100 {}).port 0 4).prog.remote = none ∧
     ((sCopy 0x100 { stalled := some 1 }).port 0 4).prog.stalled ≠ none ∧ ((sCopy 0x100 {}).core 0).active = false) ∧
    ((sCopy 0x100 {}).team 0).used = true ∧ (copyCmd 0x100).team = 0 ∧ lay rec64 242 5 = 0 ∧
    (let s := sCopy 0x100 { remote := some ⟨5, 1, [0, 1, 2, 3], false⟩ }
     s.portOfTag 5 = some (0, 4) ∧ (s.port 0 4).prog.remote = some ⟨5, 1, [0, 1, 2, 3], false⟩ ∧ [0, 1, 2, 3].length = 4 ∧ [0, 1, 2, 3].Nodup) ∧
    ((copyFrom 0x100).sched = none ∧ (copyFrom 0x100).bar = none ∧ (copyCmd 0x100).dest = .sreg 20 ∧ (copyCmd 0x100).gone = false ∧
     (sCopy 0x100 {}).lateCopies = []) ∧
    (let w := (sCopy 0x100 { done := 64 }).warp 0
     (⟨9, 1, .copy 9 20⟩ : Pending) ∈ w.pending ∧ ∀ y ∈ w.pending, (y.kind = .copy 9 20 ∨ y.id = 9) → y = ⟨9, 1, .copy 9 20⟩) ∧
    -- split mode, the other tenant's copy ready
    (let p : Port := { exec := some (copyCmd 0x100), prog := { layout := rec64 } }
     let s : State := { sCopy 0x100 {} with cores := [(0, { active := true, copyTurn := 4, ports := [(4, p), (5, p)] })] }
     (s.core 0).active = true ∧ (s.core 0).copyTurn = 4 ∧ s.copyReady 0 (9 - 4) = true) := by
  have all : (List.range 32).all (fun n =>
      match (sCopy 0x100 {}).translate 1 0 wantR (n % 65536) (0x100 + BitVec.ofInt 64 (layGlobal rec64 n)) with
      | .ok t => decide (t.peer = (sCopy 0x100 {}).peer) && !t.vers | .error _ => false) = true := by decide +kernel
  refine ⟨fun n hn => ok_of ((List.all_eq_true.mp all) n (List.mem_range.mpr hn)), error_of (by decide +kernel), ?_⟩
  repeat' refine And.intro ?_ ?_
  all_goals decide +kernel
/-- One dimension of 64, and the last index. -/
theorem wit_LayoutsMapIndicesOneToOne :
    let f := fun (lo n : Nat) => (rec64.extractLsb' lo n).toNat
    let dims := f 213 3
    let ext := fun (d : Nat) => if d < dims then f (24 * d) 24 + 1 else 1
    1 ≤ dims ∧ dims ≤ 5 ∧ (∀ d, d < dims → ∃ k, k < dims ∧ f (219 + 3 * k) 3 = d) ∧ ext 0 % 2 ^ f 234 4 = 0 ∧ ext 1 % 2 ^ f 238 4 = 0 ∧
    ∀ d, d < 5 → (if d = 0 then 63 else 0) < ext d := by
  have e : (rec64.extractLsb' 213 3).toNat = 1 := by decide +kernel
  refine ⟨by decide +kernel, by decide +kernel, fun d hd => ⟨0, ?_, ?_⟩, by decide +kernel, by decide +kernel, by decide +kernel⟩
  · show 0 < (rec64.extractLsb' 213 3).toNat; omega
  · obtain rfl : d = 0 := by
      have : d < (rec64.extractLsb' 213 3).toNat := hd
      omega
    decide +kernel
/-- A launch of context 1: one cohort of one team of one warp, at entry 0x1000. -/
def launch (st : LState) : Launch :=
  { id := 3, ctx := 1, recva := 0x8000, prank := 0, pcnt := 1, ft0 := 0, ft1 := 0, ft2 := 0, state := st,
    bytes := [(0x1, 0x10), (0x8, 1), (0x1E, 1)], ftl := 0, nextCohort := 0, result := 0, placedIx := 0, placedDie := 0,
    part2 := 0, part3 := 0, part4 := 0, part5 := 0 }
/-- Region 0 of grove 0: two iterations, a window of 2, the first claimed by warp 0. -/
def reg0 : Region := { state := .opened, memb := 1, count := 2, next := 1, lim := 3, w := 2, slots := [(0, { st := 2 })] }
/-- Warp 0 is a member; `stg` is the stage pointer. -/
def sStage (r : Region) (stg : Word) : State := { su { wu with member := some 0, stg := stg } with regions := [(0, r)] }
/-- A launch whose schedule 0 has one entry, with AT 1 and its LREC at 0x100 or 0x104. -/
def sched (lrec : Byte) : Launch := { launch .running with
  bytes := [(0x1, 0x10), (0x8, 1), (0x1E, 1), (0x2A, 1), (0x140, lrec), (0x141, 1), (0x168, 1), (0x169, 1)] }
/-- Warp 0 of a team of that launch; the page of its LREC is at home, or on package 9. -/
def sSched (lrec : Byte) (away : Bool) (w : Warp) : State := { su w with
  launches := [sched lrec], clearing := [0, 9]
  teams := [(0, { used := true, slots := 1, size := 1024, ctx := 1, warps := 1, launch := 3 })]
  mem := (su w).mem ++ if away then [(0x2001E, 0x95)] else [] }
/-- SLOOP's records: none to read, read, read as a bad image, at no multiple of 32, behind a FENCE, on another package. -/
theorem wit_StagedLoops_records :
    let es := fun (s : State) => (s.launchOf s.w.team).elim [] (fun l => l.schedule 0)
    let got := fun (s : State) => s.buildRecs (s.w.parts h) (es s) 0
    let s := sSched 0 false wu
    let full : State := { s with mem := s.mem ++ (List.range 32).filterMap (fun n =>
      if rec64.extractLsb' (8 * n) 8 = 0 then none else some (0x100100 + n, rec64.extractLsb' (8 * n) 8)) }
    let held := sSched 0 false { wu with fence := { v := true } }
    (es s).length = 1 ∧ s.buildRecs (s.w.parts h) [] 0 = .ok (s, []) ∧
    (match got s with | .error (.trap _ _) => true | _ => false) = true ∧
    (match got full with | .ok (u, _) => u.w.watch == none | _ => false) = true ∧
    ((es (sSched 4 false wu)).all (fun e => e.lrec.toNat % 32 != 0) = true ∧ Tab.get [] s.w.entries 0 = []) ∧
    (match got { held with remotes := [⟨5, 0, 1, 0, 9, 0, none, 0, 0, 0⟩] } with | .error .hold => true | _ => false) = true ∧
    (match got (sSched 0 true { wu with pending := [⟨1, 1, .hrec 1 0 [] 0 1⟩] }) with | .error (.wait _) => true | _ => false) = true := by
  refine ⟨by decide +kernel, rfl, ?_⟩
  repeat' refine And.intro ?_ ?_
  all_goals decide +kernel
/-- Members and others, inside and outside an iteration; counters at and above LIM 3; WAITL on a stage reached and not. -/
theorem wit_StagedLoopsClaimAdvanceAndRetireInOrder :
    let s := sStage reg0 0
    let t := sStage reg0 0x80000000
    s.w.parts h ≠ 0 ∧ (su { wu with em := 0 }).w.parts h = 0 ∧ s.w.member = some 0 ∧ (su wu).w.member = none ∧ s.w.reason ≠ 9 ∧
    s.w.stg.getLsbD 31 = false ∧ t.w.stg.getLsbD 31 = true ∧
    ((t.region 0).slot (t.w.stg.extractLsb' 16 6).toNat).iter.toNat = 0 ∧ (t.region 0).lim.toNat < 0 + 4 ∧ 0 + 3 ≤ (t.region 0).lim.toNat ∧
    t.entriesOf (t.region 0) = [] ∧ (t.region 0).held.length + 0 ≤ 16 ∧ t.releaseHolds none = false ∧ (-1 : Int) < 0 ∧
    -- SLOOP: the upper half of the count, a free region, more iterations
    (0x100000000 : DWord).extractLsb' 32 32 ≠ 0 ∧ ((su wu).region 0).state = .free ∧ (∀ e ∈ (su wu).regions, e.2.state = .free) ∧
    (s.region 0).count ≠ 3 ∧
    -- SNEXT: an iteration to claim, none left, one beyond the window
    ((s.region 0).next ≠ (s.region 0).count ∧ ¬((s.region 0).low.toNat + (s.region 0).w ≤ 1) ∧ ((s.region 0).slot 1).pendc = 0) ∧
    ((sStage { reg0 with next := 2 } 0).region 0).next = ((sStage { reg0 with next := 2 } 0).region 0).count ∧
    (0 + ({ reg0 with w := 1 } : Region).w ≤ 1) ∧ (({ fcode := 0x0C1 } : Slot).fcode ≠ 0) ∧
    -- WAITL of iteration 1 for stage 1, and of iteration 0
    (let r : Region := { reg0 with next := 2, slots := [(0, { st := 2, stage := 1 }), (1, { st := 2, iter := 1 })] }
     ¬(1 - 1 < r.low.toNat) ∧ ((r.slot 0).iter.toNat = 0 ∧ 1 ≤ (r.slot 0).stage.toNat) ∧ ¬((r.slot 0).st = 3 ∨ 2 ≤ (r.slot 0).stage.toNat)) ∧
    65535 < (65536 : DWord).toNat ∧
    -- SCLOSE of the only member
    (let s := sStage { reg0 with state := .closing, next := 2, low := 2 } 0
     (s.region 0).state = .closing ∧ (s.region 0).memb ≤ (s.region 0).left + 1) ∧
    0 + 1 < ({ reg0 with memb := 2 } : Region).memb ∧
    (s.region 0).state ≠ .closing ∧ (s.region 0).held = [] ∧
    (let r : Region := { reg0 with held := [(1, 0, 0)] }
     r.held = (1, 0, 0) :: [] ∧ 1 < r.low.toNat + 64 ∧ ¬(r.low.toNat + 64 ≤ 63)) := by
  repeat' refine And.intro ?_ ?_
  all_goals decide +kernel
/-- Entry 1 of die 0 holds the snapshot of context 1 at 0x4000; line 0x2000 has a tentative version of warp 0. -/
def sVer (w : Warp) (installing : Bool) : State := { su w with
  dies := [(0, { snaps := [(1, ⟨true, 0x4000, 1, 1, false⟩)] })]
  chains := [(0x2000, { tentative := some (4096, List.replicate 128 7), installing := installing })] }
theorem wit_SnapshotsAndTransactionsBeginAndEnd :
    let s := sVer wu false
    let x := sVer { wu with txState := .active } false
    let c := sVer { wu with stat := .parked, reason := 19, txState := .active, txWait := some (0xFF380, 14) } false
    (∀ e ∈ ({ c with chains := [] } : State).chains, ∀ b, e.2.tentative ≠ some (4096, b)) ∧
    (s.w.parts h ≠ 0 ∧ (su { wu with em := 0 }).w.parts h = 0 ∧ ¬(s.w.txState = .active ∨ s.w.txState = .doomed) ∧ x.w.txState = .active) ∧
    ((sVer { wu with txState := .doomed } false).w.txState = .doomed ∧ s.w.snapWait = none ∧ s.now.toNat < (0x100001 : DWord).toNat ∧
     (0x100000 : DWord).toNat ≤ s.now.toNat ∧ s.rf.toNat ≤ (0 : DWord).toNat) ∧
    ((0x4000 : DWord).toNat < ({ s with rf := 0x4001 } : State).rf.toNat ∧ (sVer { wu with snapWait := some 7 } false).w.snapWait = some 7) ∧
    -- the entry joined, and the lowest free one
    ((s.snapEntry 0 1).used = true ∧ (s.snapEntry 0 1).ft = 0x4000 ∧ (s.snapEntry 0 1).ctx = s.w.ctx ∧ (s.snapEntry 0 1).count ≠ 0xFFFF) ∧
    ((s.snapEntry 0 0).used = false ∧ (sVer { wu with snapIx := some (0, 1) } false).w.snapIx = some (0, 1)) ∧
    -- TXC
    (x.w.txWait = none ∧ x.releaseHolds none = false ∧ x.freshStamp = some 0x100000) ∧
    ({ x with lastStamp := 0x10003F } : State).freshStamp = none ∧
    (c.w.txWait = some (0xFF380, 14) ∧ 0xFF380 + 3200 ≤ c.ft.toNat ∧ ¬(0xFF381 + 3200 ≤ c.ft.toNat) ∧ c.w.stat = .parked ∧ c.w.reason = 19) ∧
    Tab.rising none x.chains = true := by
  refine ⟨fun e he => absurd he (by simp), ?_⟩
  repeat' refine And.intro ?_ ?_
  all_goals decide +kernel
theorem wit_VersionsInstallAndAreReclaimed :
    let w : Warp := { wu with stat := .parked, reason := 18, since := (su wu).ft - 6400000 }
    let s : State := { sVer w false with dies := [(0, { poolWait := [4096] })], ft := 0x700000 }
    (sVer wu true).chain 0x2000 = { tentative := some (4096, List.replicate 128 7), installing := true } ∧
    (List.replicate 128 (7 : Byte)).length = 128 ∧ ((sVer wu false).chain 0x2000).installing = false ∧ ((su wu).chain 0x2000).tentative = none ∧
    ((63999999 : DWord) - (su wu).pwSentAt).toNat < 64000000 ∧ 64000000 ≤ ((64000000 : DWord) - (su wu).pwSentAt).toNat ∧
    (5 : Peer) ∉ (su wu).clearing ∧ (5 : Peer) ∈ ({ su wu with clearing := [5] } : State).clearing ∧
    -- a pool stall that is due, and whose oldest owner is warp 0 itself
    ((s.warp 0).stat = .parked ∧ (s.ctx (s.warp 0).ctx).state = .running ∧ (s.warp 0).reason = 18 ∧
      s.stallLimit.toNat * 64000 ≤ (s.warp 0).waited + (s.ft - (s.warp 0).since).toNat) ∧ 4096 ∈ (s.die 0).poolWait ∧ (s.warp 0).stalls = 0 ∧
    (∃ e ∈ s.chains, e.2.tentative = some (4096, List.replicate 128 7) ∧ e.2.installing = false ∧ e.1 * 128 / 0x3000000000 = 0) ∧
    s.savedOn 1 0 = false ∧ s.snapMaxAge = 0 ∧ ({ s with snapMaxAge := 1 } : State).snapMaxAge ≠ 0 ∧ ({ s with chains := [] } : State).chains = [] ∧
    ({ w with stalls := 1 } : Warp).stalls ≠ 0 ∧ ¬(4096 ∈ ((su wu).die 0).poolWait) ∧
    -- VPOOL_CFG of die 3, once written and not
    (0x4000 ≤ 0x4018 ∧ (0x4018 - 0x4000) / 8 < 4 ∧ 0x4018 % 8 = 0) ∧ ((su wu).die 3).vpool.getLsbD 0 = false ∧ ¬((0x4020 - 0x4000) / 8 < 4) ∧
    (let w : Warp := { wu with stat := .parked, reason := 17 }
     (su w).freshStamp ≠ none ∧ ((su w).warp 0).reason = 17 ∧ ((su w).ctx 1).state = .running) ∧
    -- a pool without an entry (VPOOL_CFG of die 0 is invalid at reset), and with one
    s.poolRoom 0 4096 = false ∧
    ({ s with dies := [(0, { poolWait := [4096], vpool := 1 + 2 ^ 34 })] } : State).poolRoom 0 4096 = true ∧
    ({ w with stalls := 1, txState := .active } : Warp).txState = .active := by
  repeat' refine And.intro ?_ ?_
  all_goals decide +kernel
/-- Context 1 with that launch; its record stands at 0x8000. -/
def sLaunch (st : LState) : State := { su wu with
  warps := [], teams := [], launches := [launch st]
  mem := (su wu).mem ++ [(0x108001, 0x10), (0x108008, 1), (0x10801E, 1)] }
theorem wit_LaunchesAreSubmittedAndAccepted :
    let s := sLaunch .queued
    let t := sLaunch .running
    ((List.replicate 64 (launch .queued)).filter (fun l => l.state == .queued)).length = 64 ∧
    (s.launches.filter (fun l => l.state == .queued)).length < 64 ∧ (∀ l ∈ t.launches, l.state ≠ .queued) ∧
    (s.launches = [] ++ launch .queued :: [] ∧ (launch .queued).state = .queued) ∧
    (match s.readRecord { launch .queued with ctx := 2 } with | .no => true | _ => false) = true ∧
    (match s.readRecord (launch .queued) with | .bytes b => b.getD 0x1E 0 == 1 | _ => false) = true ∧
    -- a record on package 9: its bytes are asked for, and are awaited
    (match ({ s with mem := s.mem ++ [(0x2001E, 0x95)], clearing := [0, 9] } : State).readRecord (launch .queued) with
      | .ask ks => ks != [] | _ => false) = true ∧ (launch .queued).asked = [] ∧
    ({ launch .queued with asked := [(5, [1])] } : Launch).asked ≠ [] ∧
    (launch .queued).lrecs.flatMap (fun a => (s.seqRead (launch .queued) a 32).keys) = [] ∧ (launch .queued).prank < (launch .queued).pcnt ∧
    (s.seqWritable 1 (0x8000 + 0x100) 64 = true ∧ s.seqWritable 2 (0x8000 + 0x100) 64 = false) ∧
    (0x8004 : DWord).toNat % 8 ≠ 0 ∧ (0x8000 : DWord).toNat % 64 = 0 ∧ (launch .queued).num 0 8 % 32 = 0 ∧
    (match s.seqTrans 1 wantX 0x1000 with | some t => !t.vers | none => false) = true ∧ s.seqTrans 1 wantX 0x2000000 = none ∧
    (match s.seqTrans 1 wantW 0x8138 with | some t => !t.vers | none => false) = true ∧
    (launch .queued).num 8 8 = 1 ∧ (launch .queued).num 0x1E 1 = 1 ∧ (launch .queued).num 0x20 8 ≤ s.now.toNat ∧ 0 < 1 ∧
    (∀ l ∈ s.launches, l.id ≠ 4) ∧
    (t.launches = [] ++ launch .running :: [] ∧ (launch .running).id = 3 ∧ (launch .running).nextCohort < (launch .running).num 8 8 ∧
      (t.ctx 1).state = .running ∧ t.remotes = [] ∧ (match t.home (launch .running) with | some (g, ks, _) => g == 0 && ks == [0] | none => false) = true) ∧
    (t.fit (launch .running) 0).isSome = true ∧ t.home { launch .running with bytes := [(0x8, 1), (0x18, 0xFF), (0x19, 0xFF), (0x1A, 0xFF)] } = none := by
  repeat' refine And.intro ?_ ?_
  all_goals decide +kernel
theorem wit_LaunchesPostRetireAndComplete :
    let l : Launch := { launch .running with nextCohort := 1 }
    let s : State := { sLaunch .running with launches := [l] }
    (su wu).w.parts h ≠ 0 ∧ (su { wu with em := 0 }).w.parts h = 0 ∧ (wu.stat ≠ .retiring) ∧
    (let r := su { wu with stat := .retiring }
     (r.warp 0).stat = .retiring ∧ (r.warp 0).reason = 0 ∧ (r.warp 0).pending = [] ∧ r.remotes = [] ∧ r.copiesQueued 0 = false) ∧
    (su { wu with stat := .retiring, pending := [⟨1, 1, .accrd 1⟩] }).w.pending ≠ [] ∧
    (su { wu with stat := .retiring, reason := 12 }).w.reason = 12 ∧ (∀ x ∈ s.launches, x.id ≠ 4) ∧
    (s.launches = [] ++ l :: [] ∧ l.num 8 8 ≤ l.nextCohort ∧ s.imageBusy l = false ∧ s.remotes = [] ∧ (∀ c ∈ s.cohorts, c.2.used = true → c.2.launch ≠ 3) ∧
      l.state = .running) ∧ ¬((launch .running).num 8 8 ≤ (launch .running).nextCohort) ∧
    ((List.range l.pcnt).filter (fun r => r != l.prank) = []) ∧
    -- two packages: the other's result is missing, and present
    (let l : Launch := { l with pcnt := 2 }
     (List.range l.pcnt).filter (fun r => r != l.prank) = [1] ∧ s.frames = [] ∧
     ((⟨1, 0, 0x8000, 1, 9⟩ : ResultFrame).ctx = l.ctx ∧ (⟨1, 0, 0x8000, 1, 9⟩ : ResultFrame).gen = s.genNow l.ctx ∧
      (⟨1, 0, 0x8000, 1, 9⟩ : ResultFrame).recva = l.recva)) ∧
    l.recva.toNat % 64 = 0 ∧ (match s.seqTrans 1 wantW (l.recva + 0x100) with | some t => !t.vers | none => false) = true := by
  decide +kernel
/-- Group 5 of context 1 is packages 0 and 9; a link to package 9 is up or not. -/
def sGroup (up : Bool) (w : Warp) : State := { su w with
  clearing := [0, 9], ctxs := [(1, { (su w).ctx 1 with groups := [(5, ⟨true, 0x77, [0, 9]⟩)] })]
  links := if up then [(0, { state := 4, peer := 9 })] else [] }
/-- Lane 0 at 0x100, with the group word in s20. -/
def wRed (g : DWord) : Warp := { wu with em := 1, sregs := [(1, 0x100), (20, g)] }
theorem wit_CollectivesReachEveryMember :
    let s := sGroup true (wRed 5)
    let usable := fun (x : Group) => x.valid = true ∧ x.peers.Nodup ∧ ∀ p ∈ x.peers, p ∈ s.clearing
    let red : Pending := ⟨1, 1, .ldred 8 .b32 20 5 [] 1 1⟩
    s.Unheld ∧ s.Unwatched ∧
    (usable (s.group 1 5) ∧ ¬usable (s.group 1 6) ∧ (s.group 1 5).peers.length ≤ 4096 ∧ (s.group 1 5).peers ≠ []) ∧
    (s.present 9 = true ∧ (sGroup false (wRed 5)).present 9 = false ∧ (s.group 1 5).peers[1]? = some 9) ∧
    (s.w.parts h = 1 ∧ (su { wu with em := 0 }).w.parts h = 0) ∧
    -- floating point: two bytes, and eight, which the word does not fit; blocks of 8 whose lanes do not all participate
    ((5 : DWord).getLsbD 8 = false ∧ (5 : DWord).extractLsb' 9 55 = 0 ∧ Size.b64 ≠ .b16 ∧ (0x205 : DWord).extractLsb' 9 55 ≠ 0) ∧
    ((0x305 : DWord).getLsbD 8 = true ∧ Size.b32.bytes = 4 ∧ (0x305 : DWord).extractLsb' 32 32 = 0 ∧ 8 / (4 / 4) ≤ 32) ∧
    (s.w.parts h).getLsbD 1 ≠ (s.w.parts h).getLsbD (1 / 8 * 8) ∧
    ((s.w.ea ms 0).toNat % 4 = 0 ∧ (0x101 : DWord).toNat % 4 ≠ 0 ∧ (0x1000000000000 : DWord).extractLsb' 48 16 ≠ 0) ∧
    (s.w.ldreds < 16 ∧ 16 ≤ ({ wu with pending := List.replicate 16 red } : Warp).ldreds ∧ s.reduceUsed s.myDie < 1024 ∧
     1024 ≤ ({ s with warps := s.warps ++ [(1, { wu with pending := List.replicate 1024 red })] } : State).reduceUsed 0) ∧
    ({ sGroup true { wRed 5 with fence := { x := true } } with remotes := [⟨5, 0, 1, 3, 9, 0, none, 0, 0, 0⟩] } : State).fenceHolds 3 = true ∧
    -- contributions, results and deliveries
    (0 = s.genNow 1 ∧ 1 ≠ s.genNow 1 ∧ (s.group 1 5).gid = 0x77) ∧
    ((match (s.memberReads 1 [(0, 0x100, 4)]).2 with | some b => b.length == 1 | none => false) = true ∧
     (s.memberReads 1 [(0, 0x2000000, 4)]).2 = none) ∧
    -- a strongly ordered page of the member, and none
    (match s.memberTrans 1 wantW 0 0x100 with | some t => !t.vers && t.okind == 0 | none => false) = true ∧
    s.memberTrans 1 wantW 0 0x2000000 = none ∧
    (let t := sGroup true { wRed 5 with pending := [{ red with id := 7 }] }
     { red with id := 7 } ∈ (t.warp 0).pending ∧ ∀ q ∈ (t.warp 0).pending, q.id = 7 → q = { red with id := 7 }) ∧
    (s.streamAt (streamKey 9 1 0)).next = 0 ∧ (s.streamAt (streamKey 9 1 0)).waiting = [] ∧ ¬(0 < 0) := by
  refine ⟨by unfold State.Unheld; decide +kernel, by unfold State.Unwatched; decide +kernel, ?_⟩
  repeat' refine And.intro ?_ ?_
  all_goals decide +kernel
/-- Addresses: the last byte of the package's memory, and the first beyond it. -/
theorem wit_OtherPackagesReachThisMemory :
    let s := su wu
    let f : Fetched := ⟨8, 0x53B8, 0⟩
    let op : RemoteOp := ⟨5, 0, 1, 0, 9, 0, none, 0, 0, 0⟩
    (∃ t, s.translate 1 0 wantX 0 wu.pc = .ok t ∧ (decide ((s.byte (t.addr wu.pc)).toNat % 4 ≠ 3)) = true) ∧
    (∃ e, s.translate 1 0 wantX 0 0x2000000 = .error e) ∧
    ((0 : BitVec 16) = s.genNow 1 ∧ (1 : BitVec 16) ≠ s.genNow 1) ∧
    (¬(0xC000000000 ≤ 0xBFFFFFFFFF) ∧ 0xC000000000 ≤ 0xC000000000 ∧ 0xBFFFFFFFF8 + 8 ≤ 0xC000000000 ∧
     0xC000000000 < 0xBFFFFFFFF9 + 8) ∧
    ((s.streamAt 1).next = 0 ∧ (s.streamAt 1).waiting = [] ∧ (1 : Nat) ≠ (s.streamAt 1).next) ∧
    ((∀ r ∈ s.remotes, r.tag ≠ 5) ∧ op.copy = none ∧ op.gen = s.genNow op.ctx ∧ op.warp ≠ seqWarp ∧ { op with gen := 1 }.gen ≠ s.genNow 1) ∧
    (((s.reg 0x9400).extractLsb' 0 16).toNat ≠ 0 ∧ (({ s with win := [] } : State).reg 0x9400).extractLsb' 0 16 = 0) ∧
    (s.isReady 0 = true ∧ wu.reissue = none ∧ s.isReady 1 = false ∧ ({ wu with ir := some f } : Warp).ir ≠ none ∧ wu.ir = none) ∧
    (wu.pc ≠ wu.cj ∧ wu.em ≠ 0 ∧ s.fetchWatched 1 wu.pc = false ∧ wu.pc.toNat % 32 + 8 ≤ 32) ∧
    -- no copy of the line of code, and one of another launch
    (Tab.get (0, []) (s.core 0).icache 8224).2 = [] ∧
    (let c : Core := { icache := [(8224, (7, [1]))] }
     (Tab.get (0, []) c.icache 8224).1 ≠ (s.team 0).launch) := by
  refine ⟨ok_of (by decide +kernel), error_of (by decide +kernel), ?_⟩
  repeat' refine And.intro ?_ ?_
  all_goals decide +kernel
/-- Context 0x41 has a valid descriptor (byte 27 of it). -/
def sBill : State := { su wu with mem := [(32 * 0x41 + 27, 1)], run := some 1, bill := [⟨0x100000, 0x41, 0, 0, 100⟩] }
/-- A switch from context 1 to `d` in a phase. -/
def switch (d : Option CtxId) (phase : Nat) : Switch := ⟨0, some 1, d, phase, some 0x380, 0, false, false⟩
theorem wit_ContextsSwitchByTheBill :
    let s := sBill
    let good := fun (ft : DWord) => s.ft.toNat + 3200000 ≤ ft.toNat ∧ ft.extractLsb' 0 6 = 0
    (∀ b, s.bill.getLast? = some b → b.ft.toNat < (s.ft + 3200000).toNat) ∧
    (∀ l ∈ s.launches, ∀ a ∈ l.asked, a.1 ≠ 5) ∧
    (good (s.ft + 3200000) ∧ ¬good (s.ft + 3199999) ∧ (0x41 : DWord).extractLsb' 12 2 ≠ 3 ∧ s.bill.length < 16) ∧
    (s.bill = ⟨0x100000, 0x41, 0, 0, 100⟩ :: [] ∧ (0x100000 : DWord).toNat ≤ s.ft.toNat ∧ s.switch = none ∧ s.preempt = none) ∧
    (s.ft.toNat < (0x100001 : DWord).toNat ∧ s.run ≠ some 0x41 ∧ s.descValid 0x41 = true ∧ s.descResident 0x41 = false ∧
     s.descGen 0x41 = 0) ∧
    (s.descValid 0x42 = false ∧ s.run = some 1 ∧ (s.ctx 1).gen = 0) ∧
    -- an entry that fell due while an out-of-turn context held the package, and one from before
    (let t : State := { s with preempt := some 0x41, preemptFrom := 0xFFFFF }
     t.preempt ≠ none ∧ t.preemptFrom.toNat < (0x100000 : DWord).toNat ∧ ¬(t.preemptFrom.toNat < (0xFFFFF : DWord).toNat)) ∧
    (let t : State := { s with slotEnd := some 0x100000, bill := [] }
     t.slotEnd = some 0x100000 ∧ (0x100000 : DWord).toNat ≤ t.ft.toNat ∧ t.switch = none ∧ t.preempt = none ∧ t.bill = []) ∧
    (({ s with switch := some (switch none 0) } : State).switch = some (switch none 0) ∧ (switch none 0).phase = 0 ∧
     (switch none 1).phase = 1 ∧ (switch none 2).phase = 2 ∧ (switch (some 0x41) 2).dst ≠ some 1) ∧
    (∀ e ∈ (s.servers 2), s.drained e.1 e.2 = true) ∧ (∃ e ∈ s.servers 1, s.drained e.1 e.2 = true) ∧
    (∀ k, k < 256 → s.leaving (switch (some 0x41) 2) k = false ∧ s.turnsOn (switch (some 0x41) 2) k = false) ∧
    (s.heldCmds = [] ∧ s.repairBusy = false ∧ s.revokes = [] ∧ s.reduce = [] ∧ s.barHits = []) ∧
    ((s.ctx 0x41).state = .free ∧ s.ctxBusy = false ∧ (s.ctx 1).state = .running ∧
     ({ s with heldCmds := [.endPreempt] } : State).ctxBusy = true ∧ ({ s with preempt := some 1 } : State).preempt ≠ none) ∧
    (((sDbg .stopped).ctx 1).state = .stopped ∧ (sDbg .stopped).ctxBusy = false ∧ Tab.rising none s.warps = true) ∧
    (∀ l ∈ s.lateCopies, l.tag ≠ 5) ∧
    (let l : Launch := { launch .queued with asked := [(5, [1, 2])] }
     l.asked.find? (fun a => a.1 == 5) = some (5, [1, 2]) ∧ [(7 : Byte), 8].length = [1, 2].length) ∧
    -- late results of the context's and of another generation
    (let e : LateRes := ⟨1, 0, 0, ⟨7, 1, .atomr 4 true 7⟩⟩
     let t : State := { s with lateRes := [e], mem := [(33, 0x10)] }
     e ∈ t.lateRes ∧ (∀ f ∈ t.lateRes, f.pend.id = 7 → f = e) ∧ e.gen = t.genNow 1 ∧ { e with gen := 1 }.gen ≠ t.genNow 1 ∧
     e.pend.lanes.getLsbD 0 = true ∧ t.descAddr 1 + 8 ≤ t.vregAddr 1 0 4 0 ∧
     t.reduce.contains (.ldredResult 0 ⟨0, 7, []⟩) = false ∧
     ({ t with reduce := [.ldredResult 0 ⟨0, 7, []⟩] } : State).reduce.contains (.ldredResult 0 ⟨0, 7, []⟩) = true) := by
  refine ⟨?_, by simp [sBill, su, State.reset], ?_⟩
  · intro b hb
    have : sBill.bill.getLast? = some ⟨0x100000, 0x41, 0, 0, 100⟩ := by decide +kernel
    rw [this] at hb
    cases hb
    decide +kernel
  · repeat' refine And.intro ?_ ?_
    all_goals decide +kernel
theorem wit_HealthEventsActOnThePackage :
    let s := su wu
    (∀ c ∈ ([] : List (BitVec 16 × Peer)), c.2 ≠ s.peer) ∧
    ((0 = 0 ∨ 5 < 6) ∧ (1 ≤ 5 ∧ 5 ≤ 5)) ∧ ([((2 : Nat), (0x80 : DWord))] : List (Nat × DWord))[0]? = some (2, 0x80) ∧
    ((s.ctx 1).state = .running ∧ (s.ctx 2).state = .free) ∧
    -- places that belong to a context, and to none
    (sHeld.contextAt (.band 0 0) = some 1 ∧ sHeld.contextAt (.band 0 1) = none ∧ sHeld.contextAt (.record 0 1) = some 1 ∧
     sHeld.contextAt (.obUnit 0 4) = some 1 ∧ sHeld.contextAt (.obUnit 0 12) = none ∧ s.contextAt (.slot 0 0) = some 1 ∧
     s.contextAt (.memory 0x80) = none ∧ s.contextAt (.canopyCopy 0 9 0) = none) ∧
    (((sHeld.core 0).resvAt 1).state ≠ .free ∧ ((sHeld.core 0).resvAt 1).base ≤ 4 ∧ 4 < 4 + 8 ∧
     ¬(4 < ((sHeld.core 0).resvAt 0).base + ((sHeld.core 0).resvAt 0).size)) ∧
    (s.repairBusy = false ∧ ({ s with repairBusy := true } : State).repairBusy = true) ∧
    (s.spareCores.getLsbD (255 / 16) = false ∧ ({ s with spareCores := 0x8000 } : State).spareCores.getLsbD (255 / 16) = true) ∧
    (s.sdBusy = false ∧ s.chains = [] ∧ Tab.rising none s.chains = true) ∧
    (let e : TlbEntry := ⟨0, 1, 0x10, ⟨0, 0, 1, true, 0x100000, false, false, true, true⟩⟩
     let t : State := { s with sdBusy := true, sdCtx := 1, tlb := [e] }
     t.sdBusy = true ∧ t.usesRange t.sdCtx = false ∧ e.ctx = t.sdCtx ∧ e.trans.vers = true) ∧
    ((0x7000 ≤ 0x8FE0 ∧ 0x8FE0 < 0x9000 ∧ 0x8FE0 % 32 = 0) ∧ 0x3000 ≤ 0x3FF8 ∧ 0x3FF8 < 0x4000 ∧ 0x3FF8 % 8 = 0) ∧
    (csrRights 0x100 = some (1, 1) ∧ csrRights 0x0FF = none ∧ 0x030 < 0x1000) ∧
    (0xC000000000 < 0xC000000000 + 1 ∧ 0xBFFFFFFFFF + 1 ≤ 0xC000000000) ∧
    s.descAddr 1 + 27 = 59 ∧ (¬(s.descAddr 0 ≤ 0x20000 ∧ 0x20000 < s.descAddr 0 + 0x20000 ∧ (0x20000 - s.descAddr 0) % 32 = 27)) ∧
    (1 : Byte).getLsbD 0 = true := by
  refine ⟨nofun, ?_⟩
  repeat' refine And.intro ?_ ?_
  all_goals decide +kernel
/-- Port 11 is the last; a replay buffer of two flits. -/
theorem wit_LinksFollowTheirStateTable :
    let f5 : Flit := { type := 0, seq := 5, keyep := false }
    let f6 : Flit := { f5 with seq := 6, pkt := some 0 }
    let l : Link := { state := 4, buffer := [f5, f6], expSeq := 9 }
    let hdr := fun (seq ty : DWord) => seq <<< 40 ||| ty <<< 36
    (12 ≤ 12 ∧ 11 < 12 ∧ (4 ≤ l.state ∧ l.state ≤ 6) ∧ ({} : Link).state < 4) ∧
    (({ state := 7 } : Link).state = 7 ∧ ({ state := 1 } : Link).state = 1 ∧ ({ state := 2 } : Link).state = 2 ∧
     ({ state := 3 } : Link).state = 3) ∧
    (l.spares < 16 ∧ 16 ≤ ({ l with spares := 16 } : Link).spares) ∧ (∃ f ∈ l.buffer, f.seq = 6) ∧ (∀ f ∈ l.buffer, f.seq ≠ 7) ∧
    (8 ≤ ({ l with fruitless := 8 } : Link).fruitless ∧ l.fruitless < 8) ∧
    (l.buffer = [f5] ++ [f6] ∧ ∀ f ∈ [f5], f.seq ≠ 6) ∧
    (((hdr 9 0).extractLsb' 36 4).toNat = 0 ∧ (hdr 9 0).extractLsb' 40 24 = l.expSeq ∧ (hdr 9 0).extractLsb' 0 31 = 0) ∧
    (((hdr 9 2).extractLsb' 36 4).toNat = 2 ∧ 5 < ((hdr 9 6).extractLsb' 36 4).toNat) ∧
    (((hdr 10 0).extractLsb' 40 24 - l.expSeq).toNat < 2 ^ 23 ∧ 2 ^ 23 ≤ ((hdr 8 0).extractLsb' 40 24 - l.expSeq).toNat) ∧
    (l.gap = false ∧ l.keyold = false ∧ l.rxBoundary = none ∧ ({ l with keyold := true } : Link).keyold = true) ∧
    (l.runs < 2 ^ 32 ∧ 2 ^ 32 ≤ ({ l with runs := 2 ^ 32 } : Link).runs) ∧
    -- the one link to package 9 goes down with a packet of warp 0's context in its buffer
    (let y : Packet := ⟨9, 1, 0, none, false, 3, .stmc 0 0 0 [] [], some (0, 0)⟩
     let s : State := { su wu with links := [(0, { l with peer := 9 })], out := [y] }
     s.out[0]? = some y ∧ (s.setLink 0 { l with peer := 9, state := 0, buffer := [] }).present 9 = false ∧ y.owner = some 1 ∧
     (s.ctx 1).state = .running) := by
  repeat' refine And.intro ?_ ?_
  all_goals decide +kernel
/-- The clauses about CTX_CMD and DBG_CMD. -/
theorem wit_HealthEventsActOnThePackage_commands :
    let s := su wu
    s.ctxBusy = false ∧ ({ s with heldCmds := [.endPreempt] } : State).ctxBusy = true ∧ s.dbgBusy = false ∧
    ({ s with heldCmds := [.dbgSave 1] } : State).dbgBusy = true ∧
    (s.ctx ((0x0000000700000000 : DWord).extractLsb' 32 12)).dbgRight.getLsbD 0 = false ∧
    ((s.setCtx 7 { dbgRight := 1 }).ctx ((0x0000000700000000 : DWord).extractLsb' 32 12)).dbgRight.getLsbD 0 = true := by
  refine ⟨by decide, by decide, by decide, by decide, by decide, by decide⟩
-- R324: LATE in [63:48], SYNCERR in [31], COUNT in [4:0]; the head at 0x6100
theorem test_billStatus_and_ring :
    let s : State := { late := 3, syncErr := true, bill := [⟨0x1240, 5, 0, 9, 2⟩] }
    s.readReg 0x6000 = 0x0003000080000001 ∧ s.readReg 0x6100 = 0x1240 ∧ s.readReg 0x6108 = 0x0000000200090005 ∧
    s.readReg 0x6110 = 0 := by
  refine ⟨by decide, by decide, by decide, by decide⟩
theorem wit_StepRunsTheDecodedInstruction :
    let f : Fetched := ⟨8, 0x53B8, 0⟩
    let s := su wu
    let i : Instr := .coolantOvertemp
    (∃ t, s.translate 1 0 wantX 0 wu.pc = .ok t ∧ decide ((s.dword (t.addr wu.pc)).toNat % 4 ≠ 3) = true) ∧
    (isEvent i = true ∧ s.responds i = true ∧ isEvent (.nop h) = false) ∧
    (s.agenda = [] ∧ s.recheck = [] ∧ (s.warp 0).reissue = none ∧ ({ s with agenda := [i] } : State).agenda = i :: []) ∧
    ((su { wu with ir := some f }).w.ir = some f ∧ wu.ir = none ∧ wu.pc ≠ wu.cj ∧ wu.em ≠ 0) ∧
    (wu.pc.toNat % 32 + 8 ≤ 32 ∧ s.fetchWatched 1 wu.pc = false ∧ s.begin.choose s.begin.turn = some 0 ∧
     (Tab.get (0, []) (s.core 0).icache 8224).2 = []) ∧
    (let t : State := { su { wu with stat := .parked, reason := 6, ir := some f } with recheck := [0] }
     t.recheck = 0 :: [] ∧ (t.warp 0).stat = .parked ∧ (t.warp 0).held = false ∧ (t.begin).mayRun 0 = true ∧ t.waitOver.isNone = true) ∧
    (let t : State := { su { wu with held := true, ir := some f } with recheck := [0] }
     t.recheck = 0 :: [] ∧ (t.warp 0).stat = .ready ∧ (t.warp 0).held = true ∧ (t.begin).mayRun 0 = true) := by
  refine ⟨ok_of (by decide +kernel), ?_⟩
  repeat' refine And.intro ?_ ?_
  all_goals decide +kernel
theorem wit_MemoryKeepsItsCanonicalForm : Memory.wf State.reset.mem = true ∧ Memory.wf (su wu).mem = true ∧
    (let i : HostWrite := ⟨0xBFFFFFFFFF, [1]⟩; i.addr + i.bytes.length ≤ 0xC000000000) := by decide
theorem wit_DecodingInvertsEncoding : wellFormed (.nop h) = true ∧ encode (.nop h) = some (0x53B8, 0) ∧ isEvent (.nop h) = false ∧
    (∀ x, (Instr.nop h) ≠ .illegalEncoding x) ∧ (0x53B8 : DWord).extractLsb' 0 2 ≠ 3 ∧
    trimExt ((0x53B8 : DWord).extractLsb' 0 2) 0 = 0 := by
  refine ⟨by decide, by decide, by decide, nofun, by decide, by decide⟩
/-- R144: SPIN at its limit; a PATH entry to rotate to, none, and spilled entries that can be and cannot be read. -/
theorem wit_BranchesTransferLanesToTheirTargets_rotation :
    let i : Instr := .bra ⟨h, 0, 4⟩
    let w : Warp := { wu with em := 1, spin := 63, depth := 2, stack := [⟨.wait, 0x10, 2, 0, 3⟩, { entry with mask := 4 }] }
    let back := fun (w : Warp) => ∃ b, branchForm i (su w) = some b ∧ b.back = true ∧ b.dest (su w) 0 = 0x1000 ∧ b.next = 0x1010
    let deep : Warp := { w with lstackLimit := 0x3001, depth := 33, stack := List.replicate 32 entry }
    back w ∧ (w.em ≠ ~~~w.exited ∧ 64 ≤ w.spin.toNat + 1 ∧ w.trapMode = false ∧ w.depth = w.stack.length ∧ w.watch = none) ∧
    w.stack = [⟨.wait, 0x10, 2, 0, 3⟩] ++ { entry with mask := 4 } :: [] ∧
    (after i w).pc = 0x2000 ∧ (after i w).em = 4 ∧ (after i w).spin = 0 ∧
    (after i w).stack = [⟨.path, 0x1000, 1, 0xFFFFFFFFFFFFFFFF, 0⟩, ⟨.wait, 0x10, 2, 0, 3⟩] ∧
    (after i { w with depth := 1, stack := [⟨.wait, 0x10, 2, 0, 3⟩] }).spin = 0 ∧
    (match (su deep).loadPath with | .ok l => l.path.st.length == 33 | .error _ => false) = true ∧
    (match (su { deep with lstackLimit := 0x2000001 }).loadPath with | .ok _ => false | .error _ => true) = true := by
  refine ⟨⟨_, rfl, by decide +kernel⟩, ?_⟩
  repeat' refine And.intro ?_ ?_
  all_goals decide +kernel
/-- Places of a spilled entry: all zeros, and with KIND 4. -/
theorem wit_StackOverflowTrapsAndTheThirtyThirdEntrySpills_fill :
    let s : State := { su { wu with lstackLimit := 0x3001, depth := 33, stack := List.replicate 32 entry } with
      mem := (su wu).mem ++ [(0x2001E, 1)] }
    let t : State := { s with mem := s.mem ++ [(0x103018, 7)] }
    Tab.get [] s.w.entries 0 = [] ∧
    (∃ x, s.translate s.w.ctx s.myDie wantR 0 (s.w.spillVa 0) = .ok x ∧ (decide (x.peer = s.peer) && !x.vers && decide (x.okind ≠ 0) &&
      !x.copies && decide (x.page % 4096 = 0) && (StackEntry.ofBytes (s.bytes (x.addr (s.w.spillVa 0)) 32)).isSome &&
      (StackEntry.ofBytes (t.bytes (x.addr (s.w.spillVa 0)) 32)).isNone) = true) ∧ s.fenceHolds 0 = false ∧ s.Unwatched := by
  refine ⟨by decide +kernel, ok_of (by decide +kernel), by decide +kernel, by unfold State.Unwatched; decide +kernel⟩
/-- Lane 1 of the mask 3 is missing: in no entry, and in a PATH entry. -/
theorem wit_SyncwAgreesOrWaits_waits :
    let i : Instr := .syncwImm ⟨h, 3⟩
    let w : Warp := { wu with em := 1, depth := 1, stack := [{ entry with mask := 2 }] }
    let none_ : Warp := { w with stack := [{ entry with mask := 4 }] }
    (w.parts h = 1 ∧ w.trapMode = false ∧ w.depth = w.stack.length ∧ w.watch = none ∧ (3 : Mask).getLsbD 1 = true ∧
     w.exited.getLsbD 1 = false ∧ (w.parts h).getLsbD 1 = false ∧ (∀ e ∈ w.stack, e.kind ≠ .wait)) ∧
    (∀ e ∈ none_.stack.takeWhile (fun e => e.kind != .join), e.kind = .path → e.mask.getLsbD 1 = false) ∧
    (w.stack.takeWhile (fun e => e.kind != .join)).any (fun e => e.kind == .path && e.mask.getLsbD 1) = true ∧
    ((⟨.wait, 0x100C, 1, w.cj, 3⟩ : StackEntry) :: w.stack).filter (fun x => x.mask &&& ~~~w.exited != 0) =
      [⟨.wait, 0x100C, 1, w.cj, 3⟩] ++ { entry with mask := 2 } :: [] ∧
    (after i none_).trap.cause = 0x185 ∧ (after i none_).trap.flm = 1 ∧
    (after i w).pc = 0x2000 ∧ (after i w).em = 2 ∧ (after i w).stack = [⟨.wait, 0x100C, 1, w.cj, 3⟩] := by
  repeat' refine And.intro ?_ ?_
  all_goals decide +kernel
/-- A right under revocation; work of the warp that SYSC waits for; a command that waits for a switch. -/
theorem wit_CommandsAndCallsThatWait :
    let s := sDbg .running
    let t : State := { s with ctxs := [(1, ({ state := .running, dbgRight := 3 } : Ctx))], revokes := [1] }
    t.w.ctx ∈ t.revokes ∧ t.w.parts h ≠ 0 ∧ s.w.ctx ∉ s.revokes ∧ (su wu).workOpen = false ∧
    ({ su wu with remotes := [⟨5, 0, 1, 0, 9, 0, none, 0, 0, 0⟩] } : State).workOpen = true ∧ t.dbgBusy = false ∧
    ({ s with switch := some ⟨0, some 2, none, 0, some 0x380, 0, false, false⟩ } : State).switch ≠ none := by
  repeat' refine And.intro ?_ ?_
  all_goals decide +kernel
/-- Lanes beyond the address space, and a slot of 132 bytes that nothing maps. -/
theorem wit_FaultingLanesMakeTheWarpReplayable_beyond :
    let s := su { wu with em := 3, vregs := [(64, 0xFFFFFFFC), (65, 0x100)], sregs := [(1, 0xFFFFFFFFFFFC), (3, 0x2000000)] }
    s.Unheld ∧ s.Unwatched ∧ ((s.w.parts h).getLsbD 0 = true ∧ 2 ^ 48 < (s.w.ea ms 0).toNat + 8) ∧
    ((s.w.s 3 + sx64 0).toNat % 4 = 0 ∧ (s.w.s 3 + sx64 0).toNat + 132 ≤ 2 ^ 48 ∧ s.w.done ≠ fullMask) ∧
    (match s.transParts s.w.ctx s.myDie wantW 0 0x2000000 (partsOf 0x2000000 132) with | .ok _ => false | .error fs => fs != []) = true ∧
    (after (.ld ⟨h, false, .dflt, .warp, .plain, .b64, 8, ms⟩) s.w).stat = .replayable ∧
    (after (.ld ⟨h, false, .dflt, .warp, .plain, .b64, 8, ms⟩) s.w).trap.cause = 0x0C2 ∧
    (after (.spill ⟨false, true, false, 8, 3, 0⟩) s.w).stat = .replayable ∧
    (after (.fill ⟨false, false, 8, 3, 0⟩) s.w).trap.cause = 0x0C1 := by
  refine ⟨by unfold State.Unheld; decide +kernel, by unfold State.Unwatched; decide +kernel, ?_⟩
  repeat' refine And.intro ?_ ?_
  all_goals decide +kernel
/-- A scratchpad atomic beyond the team's 1 KiB, and a slot of 132 bytes there. -/
theorem wit_ScratchpadInstructionsActOnTheirOffsets_traps :
    let w : Warp := { wu with em := 1, sregs := [(1, 1024), (3, 900)] }
    (su w).Unheld ∧ ((su w).w.parts h).getLsbD 0 = true ∧ (su w).spTeam ms.core = some 0 ∧ ((su w).w.ea ms 0).toNat % 4 = 0 ∧
    ((su w).team 0).size < ((su w).w.ea ms 0).toNat + 4 ∧ (900 % 4 = 0 ∧ (su w).myTeam.size < 900 + 132 ∧ (su w).w.done ≠ fullMask) ∧
    (after (.atom ⟨h, .add, true, .warp, .plain, false, 1, 0, ms⟩) w).trap.cause = 0x114 ∧
    (after (.fest ⟨h, .warp, .plain, true, ms⟩) w).trap.flm = 1 ∧ (after (.fill ⟨false, true, 8, 3, 0⟩) w).trap.cause = 0x114 := by
  refine ⟨by unfold State.Unheld; decide +kernel, ?_⟩
  repeat' refine And.intro ?_ ?_
  all_goals decide +kernel
/-- FENCEP from path V to path V; an acquire with an older copy of another package's line; the top of the address space; no pin. -/
theorem wit_LinesAndFencesComplete_own :
    let s : State := { su wu with dies := [(0, { older := [copyKey 9 0x100 / 128] })] }
    (s.w.parts h ≠ 0 ∧ s.fencepOpen 1 = false ∧ isAcq .acqrel = true) ∧ copyKey 9 0x100 / 128 ∈ (s.die s.myDie).older ∧
    (s.w.loadAway = false ∧ s.w.ldredAway = false ∧ s.myBandIds = []) ∧
    (0xFFFFFFFFFF80 % 4 = 0 ∧ 2 ^ 48 < 0xFFFFFFFFFF80 + 132) ∧ (∀ e ∈ s.w.pins, e.1 ≠ 0) := by
  repeat' refine And.intro ?_ ?_
  all_goals decide +kernel
/-- A release that must wait for an access, and one that need not. -/
theorem wit_BandsAndReservationsAreClaimedAndReleased_remote :
    sHeld.remoteHolds none = false ∧
    ({ sHeld with remotes := [⟨5, 0, 1, 0, 9, 0, none, 0, 0, 0⟩] } : State).remoteHolds none = true ∧
    ((1 : DWord).extractLsb' 4 60 = 0 ∧ (sHeld.myCore.band 0).state = .held ∧ (sHeld.myCore.band 0).owner = slotOf sHeld.w.team) := by
  repeat' refine And.intro ?_ ?_
  all_goals decide +kernel
/-- Command 9 of the warp, a copy with a status entry. -/
def portCopy : Cmd := { cmdOf (.copy ⟨3, .g2s, 0x100, 0, 0, none, 0, none, none⟩) with dest := .port, succ := some 0, tag := 7 }
/-- The copy port of core 0 queues it behind a guard of value `g`. -/
def sPortCopy (g : BitVec 2) (w : Warp) (c : Cmd) : State := { su { w with openCopies := [9], guards := [(2, g)] } with
  cores := [(0, ({ ports := [(4, { queue := [{ c with guard := some 2 }] })] } : Core))] }
/-- QDRAIN of band commands with a successor and of an ACCRD, and of a copy with and without room in the status port. -/
theorem wit_QueueControlInstructionsComplete_drains :
    let a : Cmd := { cmdOf (.accrd 4 0 1) with succ := some 1 }
    let s : State := { sHeld with warps := [(0, { wQ with pending := [⟨9, 1, .accrd 9⟩] })]
                                  cores := [(0, { cHeld with ports := [(0, { queue := [a] })] })] }
    let t := sPortCopy 0 { wQ with statusPort := [] } portCopy
    let f := sPortCopy 0 { wQ with statusPort := List.replicate 16 (0, 0) } portCopy
    (s.w.parts h ≠ 0 ∧ (Tab.get 0 s.w.qbind 0).extractLsb' 0 4 = 1 ∧ (s.myCore.port 0).queue = [a] ∧ a.mine 0 = true ∧
      a.dest = .none ∧ a.out = false) ∧
    ((Tab.get 0 t.w.qbind 2).extractLsb' 0 4 = 3 ∧ t.w.stat = .ready ∧ (t.myCore.port 4).queue.length = 1 ∧
      portCopy.mine 0 = true ∧ portCopy.ovf = false ∧ t.w.statusPort.length + 1 ≤ 16 ∧ 16 ≤ f.w.statusPort.length) ∧
    (match exec (.qdrain ⟨h, 0⟩) s with
      | .next u => u.w.pending == [] && (u.myCore.port 1).rels == 1 && (u.myCore.port 0).queue == [] | _ => false) = true ∧
    (match exec (.qdrain ⟨h, 2⟩) t with
      | .next u => u.w.statusPort == [((3 : DWord) <<< 62, 7)] && u.w.openCopies == [] && (u.myCore.port 0).rels == 1 | _ => false) = true ∧
    (match exec (.qdrain ⟨h, 2⟩) f with
      | .next u => u.w.statusPort.length == 16 && (u.myCore.port 4).queue.all (·.out) | _ => false) = true := by
  repeat' refine And.intro ?_ ?_
  all_goals decide +kernel
/-- Discarded heads: drained, on a false guard, of a Retiring warp behind a guard that never came, a copy with its status entry. -/
theorem wit_PortsTakeCommandsInOrder_discards :
    let t := sPortCopy 2 wu portCopy
    let f := sPortCopy 2 { wu with statusPort := List.replicate 16 (0, 0) } portCopy
    let r := sPortCopy 0 { wu with stat := .retiring } { portCopy with body := .accz .all, dest := .none }
    let disp : Instr := .queueHeadDispatch ⟨0, 4⟩
    (t.warp 0).stat ≠ .retiring ∧ (t.warp 0).stat ≠ .free ∧ (t.port 0 4).exec = none ∧ portCopy.gone = false ∧ portCopy.ovf = false ∧
    ({ portCopy with dead := true } : Cmd).dead = true ∧ (r.warp 0).stat = .retiring ∧
    (match exec disp t with
      | .next u => u.w.statusPort == [((3 : DWord) <<< 62, 7)] && (u.port 0 4).queue == [] && (u.myCore.port 0).rels == 1
      | _ => false) = true ∧
    (match exec disp f with | .next u => (u.port 0 4).queue.length == 1 | _ => false) = true ∧
    (match exec disp r with | .next u => (u.port 0 4).queue == [] | _ => false) = true ∧
    (let a : Cmd := { cmdOf (.accz .all) with after := [3] }
     (su wu).afterOpen 0 a = false) := by
  repeat' refine And.intro ?_ ?_
  all_goals decide +kernel
/-- Queue 5 is governed and full, queue 6 of the same context governed and starved, and warp 0 waits for it. -/
theorem wit_TaskQueuesKeepOrderAndDeliverOnce_usher :
    let d : BitVec 128 := 1 + 2 + (1 <<< 32) + (1 <<< 68)
    let s : State := { su { wu with draw := 0x10605, stat := .parked, reason := 14 } with
      dies := [(0, ({ tasks := [(5, { desc := d, entries := [⟨1, 2, 3, 4⟩] }), (6, { desc := d })] } : Die))] }
    let q := s.taskq 0
    (64000 ≤ (s.ft - (s.die 0).usherAt).toNat ∧ Tab.rising none s.warps = true) ∧
    ((q 5).desc.getLsbD 1 = true ∧ ((q 5).desc.extractLsb' 68 20).toNat ≤ (q 5).entries.length) ∧
    (∀ m, m < 64 → m ≠ 5 → ¬((q m).desc.getLsbD 1 = true ∧ ((q m).desc.extractLsb' 68 20).toNat ≤ (q m).entries.length)) ∧
    ((q 6).desc.extractLsb' 32 12 = (q 5).desc.extractLsb' 32 12 ∧ (q 6).desc.getLsbD 1 = true ∧
      (q 6).entries.length ≤ ((q 6).desc.extractLsb' 48 20).toNat) ∧
    (∀ m, m < 6 → m ≠ 5 → (q m).desc.getLsbD 1 = false) ∧
    (s.w.draw.extractLsb' 0 4 = 5 ∧ s.w.draw.getLsbD 16 = true ∧ (s.w.draw.extractLsb' 14 2).toNat = 0 ∧
      (s.w.draw.extractLsb' 8 6).toNat = 6 ∧ s.w.stat = .parked ∧ s.w.reason = 14 ∧ s.w.qids = [] ∧ (s.ctx s.w.ctx).state = .running) ∧
    (match exec (.usherPass 0) s with | .next u => u.w.draw == 0x10505 | _ => false) = true := by
  repeat' refine And.intro ?_ ?_
  all_goals decide +kernel
/-- HREC without a lane and of a register that a queued copy will read; CCANCEL of a queued copy. -/
theorem wit_RecordsCopiesAndBatchesComplete_queued :
    let c : Cmd := { copyCmd 0x100 with guard := some 2 }
    let s : State := { su { wCopy with pending := [⟨9, 1, .copy 9 20⟩], openCopies := [9] } with
      cores := [(0, ({ ports := [(4, { queue := [c] })] } : Core))] }
    (su { wCopy with em := 0 }).w.parts h = 0 ∧ (s.w.parts h ≠ 0 ∧ (s.w.s 9 + (0 : Word).signExtend 64).toNat % 32 = 0) ∧
    (c ∈ (s.myCore.port 4).queue ∧ c.body = .copy (copyFrom 0x100) ∧ (copyFrom 0x100).sched = none ∧ c.slot = slotOf s.cur ∧
      c.gone = false ∧ (copyFrom 0x100).hreg = 3) ∧
    (c.id ∈ s.w.openCopies ∧ c.out = false ∧ c.ovf = false ∧ c.dest = .sreg 20 ∧ (((s.myCore.port 4).queue).map (·.id)).Nodup ∧
      (s.myCore.port 5).queue = [] ∧ (copyFrom 0x100).bar = none ∧
      ∀ y ∈ s.w.pending, y.kind = .copy 9 20 ∨ y.id = 9 ↔ y = ⟨9, 1, .copy 9 20⟩) ∧
    (match exec (.hrec ⟨h, 3, 9, false, 0⟩) s with | .next t => t.w.stat == .parked && t.w.reason == 26 | _ => false) = true ∧
    (match exec (.ccancel ⟨h, 21⟩) s with
      | .next t => (t.myCore.port 4).queue == [] && t.w.s 20 == 3 <<< 62 && t.w.pending == [] | _ => false) = true := by
  repeat' refine And.intro ?_ ?_
  all_goals decide +kernel
/-- A copy whose context a switch halts, one with a remote part outstanding, a page of ordering kind 0, and status entries. -/
theorem wit_CopyPartsMoveTheirElements_more :
    let s : State := { sCopy 0x100 {} with ctxs := [(1, ({ state := .saving, range := 0x20000 } : Ctx))] }
    let part : RemotePart := ⟨5, 1, [0, 1, 2, 3], false⟩
    let done := fun (c : Cmd) (w : Warp) (p : CopyProg) => ({ sCopy 0x100 {} with warps := [(0, w)]
                                                                                  cores := [(0, ({ ports := [(4, { exec := some c, prog := { p with layout := rec64 } })] } : Core))] } : State)
    let c : Cmd := { copyCmd 0x100 with dest := .port, tag := 7 }
    let got := fun (s : State) => match exec (.copyComplete ⟨0, 4⟩) s with
      | .next t => t.w.statusPort.map (fun e => (e.1.getLsbD 63, e.1.extractLsb' 0 40, e.2)) | _ => []
    s.copyHalted 0 4 (copyCmd 0x100) = true ∧ (sCopy 0x100 {}).copyHalted 0 4 (copyCmd 0x100) = false ∧
    (∀ x ∈ (sCopy 0x100 {}).remotes, x.path = 2 → x.warp ≠ 0) ∧
    (({} : CopyProg).bytes = ({} : CopyProg).done * 4 ∧ (copyFrom 0x100).lbase % 128 = 0) ∧
    ((sCopy 0x100 { remote := some part, done := 8, bytes := 32 }).team 0).used = true ∧ 8 + 1 ≤ 64 ∧
    (match exec (.copyReadResponse ⟨0, 5, [1, 2, 3, 4]⟩) (sCopy 0x100 { remote := some part, done := 8, bytes := 32 }) with
      | .next t => (t.port 0 4).prog.done == 9 && (t.port 0 4).prog.bytes == 36 && (t.port 0 4).prog.remote.isNone | _ => false) = true ∧
    (let w := (sCopy 0x100 {}).w
     w.stat ≠ .free ∧ w.stat ≠ .retiring ∧ w.statusPort.length < 16) ∧ 16 ≤ (List.replicate 16 ()).length ∧
    got (done c { wu with openCopies := [9] } { done := 64, bytes := 256 }) = [(true, 256, 7)] := by
  repeat' refine And.intro ?_ ?_
  all_goals decide +kernel
/-- The last index of the layout. -/
theorem wit_LayoutsMapIndicesOneToOne_onto : 63 < layCount rec64 ∧ layGlobal rec64 63 = 252 := by decide +kernel
/-- A held copy that may enter, with members left and as the last copy of a region that has ended; a Closing region that has one. -/
theorem wit_StagedLoopsClaimAdvanceAndRetireInOrder_held :
    let r : Region := { reg0 with held := [(1, 0, 0), (200, 1, 0)], cs := true, recs := [(0, rec64)] }
    let s : State := { sSched 0 false wu with regions := [(0, r)] }
    let ended : Region := { r with state := .closing, left := 1, held := [(1, 0, 0)] }
    let u : State := { s with regions := [(0, ended)] }
    (r.left < r.memb ∧ (∃ c ∈ r.held, c.1 < r.low.toNat + 64) ∧ ((s.port 0 4).exec.toList.length + (s.port 0 4).queue.length < 32)) ∧
    (ended.state = .closing ∧ ended.memb ≤ ended.left ∧ ended.held = [(1, 0, 0)]) ∧
    (∃ c ∈ ({ r with state := .closing } : Region).held, c.1 < r.low.toNat + 64) ∧
    (match exec (.heldCopyEnterPort 0) s with | .next t => (t.region 0).held == [(200, 1, 0)] | _ => false) = true ∧
    (match exec (.heldCopyEnterPort 0) u with | .next t => t.region 0 == {} | _ => false) = true ∧
    (let v : State := { sStage { ended with left := 0, next := 2, low := 2 } 0 with regions := [(0, { ended with left := 0, next := 2, low := 2 })] }
     (v.region 0).state = .closing ∧ (v.region 0).held ≠ [] ∧
     (match exec (.sclose h) v with | .next t => (t.region 0).left == 1 && t.w.member.isNone | _ => false) = true) := by
  repeat' refine And.intro ?_ ?_
  all_goals decide +kernel
/-- An acknowledgement of an access that was given up in an older and in the running generation. -/
theorem wit_OtherPackagesReachThisMemory_late :
    let s : State := { su wu with cutOff := [(5, 1, 9), (6, 1, 0)] }
    (∀ r ∈ s.remotes, r.tag ≠ 5) ∧ ((5, (1 : CtxId), (9 : BitVec 16)) ∈ s.cutOff ∧ (9 : BitVec 16) ≠ s.genNow 1 ∧
      ∀ y ∈ s.cutOff, y.1 = 5 → y = (5, 1, 9)) ∧ (0 : BitVec 16) = s.genNow 1 ∧
    (∀ r ∈ s.remotes, r.tag ≠ 6) ∧
    (match exec (.remoteAck ⟨0, 5⟩) s with | .next t => (t.link 0).gendrop == 1 && t.cutOff == [(6, 1, 0)] | _ => false) = true ∧
    (match exec (.remoteAck ⟨0, 6⟩) s with | .next t => (t.link 0).gendrop == 0 && t.cutOff == [(5, 1, 9)] | _ => false) = true ∧
    -- a delivery acknowledged to a warp of die 0
    (let r : RemoteOp := ⟨7, 0, 1, 3, 9, 2, none, 0, 0, 0⟩
     let s : State := { su wu with remotes := [r] }
     r ∈ s.remotes ∧ (∀ q ∈ s.remotes, q.tag = 7 → q = r) ∧ r.gen = s.genNow r.ctx ∧ r.warp < seqWarp ∧ r.copy = none ∧ r.path = 3) ∧
    -- an access of another generation with a number, and one already seen
    ((3 : BitVec 16) ≠ (su wu).genNow 1 ∧ ((su wu).streamAt (streamKey 9 1 3)).waiting = []) := by
  repeat' refine And.intro ?_ ?_
  all_goals decide +kernel
/-- CTX_CMD written behind another command, during a switch and in none. -/
theorem wit_ContextsSwitchByTheBill_commands :
    let s : State := { sBill with switch := some (switch none 0), preempt := some 1 }
    s.ctxBusy = false ∧ s.switch ≠ none ∧ s.preempt ≠ none ∧ s.heldCmds = [] ∧
    (match exec (.ctxCmdPreempt 0x41) s with | .next t => t.heldCmds == [.preempt 0x41] && t.ctxBusy | _ => false) = true ∧
    (match exec .ctxCmdEndPreempt s with | .next t => t.heldCmds == [.endPreempt] | _ => false) = true ∧
    (∀ k, k < 256 → s.leaving (switch none 0) k = false ∧ s.turnsOn (switch none 0) k = false) := by
  repeat' refine And.intro ?_ ?_
  all_goals decide +kernel
/-- A shootdown of context 2, whose tables lead to page 0x100 or to none; a power-on with a core retired before. -/
theorem wit_HealthEventsActOnThePackage_kept :
    let leaf : List (Nat × Byte) := [(0x33000, 0x39), (0x33002, 0x10), (0x33005, 0x80)]
    let s := fun (leaf : List (Nat × Byte)) => ({ sWalk leaf with
      sdBusy := true, sdCtx := 2, mapped := [(2, 0, 0x100)], chains := [(0x2000, { stamp := ⟨7, 0⟩ })],
      win := [(0x2008, 0xFFFFFFFFFFFFFFFF)] } : State)
    (s leaf).usesRange 2 = false ∧ Tab.rising none (s leaf).chains = true ∧
    ((s leaf).leadsFrom 2 0x100 0 = true ∧ (s []).leadsFrom 2 0x100 0 = false) ∧
    (((s leaf).reg 0x2000).extractLsb' 12 52).toNat ≤ 0 ∧ ((s leaf).chain 0x2000).tentative = none ∧
    (match exec .shootdownDone (s leaf) with | .next t => t.mapped == [(2, 0, 0x100)] && (t.chain 0x2000).stamp.ft == 7 | _ => false) = true ∧
    (match exec .shootdownDone (s []) with | .next t => t.mapped == [] && (t.chain 0x2000).stamp.ft == 0 | _ => false) = true ∧
    (match exec (.powerOn ⟨0, 0, 0, 0⟩) ({ su wu with retired := [0x25] } : State) with
      | .next t => t.spareCores == 4 && t.retired == [0x25] | _ => false) = true := by
  repeat' refine And.intro ?_ ?_
  all_goals decide +kernel
/-- Behind a band command warp 0 passes an ST.rel; its next instruction is a load, which stands behind it, or a NOP, which does not. -/
theorem wit_StepRunsTheDecodedInstruction_passed :
    let st : Instr := .st ⟨h, .team, .rel, .b32, 1, ms⟩
    let s : State := { sExec (.accz .all) false with
      warps := [(0, { wu with em := 1, sregs := [(1, 0x100)], vregs := [(32, 0xAB)], ir := (encode st).map (fun x => ⟨16, x.1, x.2⟩) })] }
    let t := match exec st s with | .next t => t.letPast | _ => s
    ((t.warp 0).deferred.length = 1 ∧ t.w.deferred ≠ [] ∧ t.w.stat = .ready ∧ t.w.pc = 0x1010 ∧ t.mem = s.mem) ∧
    ((Instr.ld ⟨h, false, .dflt, .warp, .plain, .b32, 1, ms⟩).stands = true ∧ (Instr.nop h).stands = false) ∧ (su wu).w.held = false ∧
    -- it waits on; once the command has left its port it is performed
    ((t.tryHeld 0).warp 0).deferred.length = 1 ∧
    (let u : State := { t with cores := [(0, cHeld)] }
     ((u.tryHeld 0).warp 0).deferred = [] ∧ (u.tryHeld 0).byte 0x100100 = 0xAB ∧ ((u.tryHeld 0).warp 0).pc = 0x1010) := by
  repeat' refine And.intro ?_ ?_
  all_goals decide +kernel
-- R200: a nonzero D of PROMOTE is cause 0x045
theorem test_decode_promote_constraints :
    let w := (encode (.promote ⟨h, false, .clearing, false, ms⟩)).getD (0, 0)
    decode w.1 w.2 = .promote ⟨h, false, .clearing, false, ms⟩ ∧
    decode (w.1 ||| 0x10000) w.2 = .illegalEncoding ⟨0x045, 16, w.1 ||| 0x10000, w.2⟩ := by decide +kernel

end Sys2Proof.Tests
end

section
/-! Laws of the sparse tables -/
namespace Sys2Proof.Machine

/-- A value read is the default or listed under its key. -/
theorem Tab.get_default_or_mem {α : Type} (d : α) (t : Tab α) (n : Nat) : Tab.get d t n = d ∨ (n, Tab.get d t n) ∈ t := by
  induction t with
  | nil => exact .inl rfl
  | cons e t ih =>
    obtain ⟨k, v⟩ := e
    by_cases h : n = k
    · subst h; exact .inr (by simp [Tab.get])
    · rw [Tab.get, if_neg h]
      exact ih.imp id (List.mem_cons_of_mem _)

/-- A read of a table whose every value was changed by a function that keeps the default. -/
theorem Tab.get_map {α : Type} (d : α) (f : Nat → α → α) (hd : ∀ n, f n d = d) (t : Tab α) (n : Nat) :
    Tab.get d (Tab.map f t) n = f n (Tab.get d t n) := by
  induction t with
  | nil => exact (hd n).symm
  | cons e t ih =>
    obtain ⟨k, v⟩ := e
    by_cases h : n = k
    · subst h; simp [Tab.map, Tab.get]
    · have ih : Tab.get d (List.map (fun e => (e.1, f e.1 e.2)) t) n = _ := ih
      simp [Tab.map, Tab.get, h, ih]

theorem Tab.not_mem_of_le {α : Type} (t : Tab α) (l n : Nat) (v : α) (h : Tab.rising (some l) t = true) (hn : n ≤ l) :
    (n, v) ∉ t := by
  induction t generalizing l with
  | nil => simp
  | cons e t ih =>
    obtain ⟨k, w⟩ := e
    simp only [Tab.rising, Bool.and_eq_true, decide_eq_true_eq] at h
    rw [List.mem_cons, not_or]
    exact ⟨fun e => by cases e; omega, ih k h.2 (by omega)⟩

/-- Keys that rise list each key once: what an entry holds is what its key reads as. -/
theorem Tab.get_of_mem {α : Type} (d : α) (t : Tab α) (o : Option Nat) (h : Tab.rising o t = true) (n : Nat) (v : α)
    (hm : (n, v) ∈ t) : Tab.get d t n = v := by
  induction t generalizing o with
  | nil => cases hm
  | cons e t ih =>
    obtain ⟨k, w⟩ := e
    have ht : Tab.rising (some k) t = true := by
      cases o <;> simp only [Tab.rising, Bool.and_eq_true] at h
      · exact h
      · exact h.2
    rcases List.mem_cons.1 hm with e | hm
    · cases e; simp [Tab.get]
    · have hn : n ≠ k := fun e => Tab.not_mem_of_le t k n v ht (by omega) hm
      rw [Tab.get, if_neg hn]
      exact ih _ ht hm

/-- A read of a table with rising keys of which some entries are left out. -/
theorem Tab.get_filter {α : Type} (d : α) (p : Nat × α → Bool) (t : Tab α) (o : Option Nat) (h : Tab.rising o t = true) (n : Nat) :
    Tab.get d (List.filter p t) n = if p (n, Tab.get d t n) = true then Tab.get d t n else d := by
  have hf := Tab.rising_filter p t o h
  rcases Tab.get_default_or_mem d (List.filter p t) n with hd | hm
  · rcases Tab.get_default_or_mem d t n with e | hm
    · rw [hd, e, ite_self]
    · by_cases hp : p (n, Tab.get d t n) = true
      · rw [if_pos hp, Tab.get_of_mem d _ o hf n _ (List.mem_filter.2 ⟨hm, hp⟩)]
      · rw [if_neg hp, hd]
  · obtain ⟨hm, hp⟩ := List.mem_filter.1 hm
    rw [Tab.get_of_mem d t o h n _ hm, if_pos hp]

end Sys2Proof.Machine
end

section
namespace Sys2Proof.Machine

/-! ### Records and traces -/

/-- Every fault record that waits for the host, oldest first (R166). -/
def State.faults (s : State) : List FaultRec := s.faultQ ++ s.faultHeld

/-- A fault record changes the queues of records and the count of numbers given, nothing else (R166). -/
theorem State.fault_eq (s : State) (r : FaultRec) : s.fault r =
    { s with nextId := s.nextId + 1, faultQ := (s.fault r).faultQ, faultHeld := (s.fault r).faultHeld
             faultOpen := (s.fault r).faultOpen } := by
  unfold State.fault
  dsimp only
  split <;> split <;> rfl
/-- It joins the others under the next number. -/
@[simp] theorem State.fault_faults (s : State) (r : FaultRec) :
    (s.fault r).faults = s.faults ++ [{ r with id := s.nextId }] := by
  unfold State.faults State.fault
  dsimp only
  by_cases hq : s.faultQ.length < 4096 ∧ s.faultHeld = []
  · rw [if_pos hq]; split <;> simp [hq.2]
  · rw [if_neg hq]; split <;> simp
/-- Only a record of KIND 0 awaits an answer of the host. -/
theorem State.fault_faultOpen (s : State) (r : FaultRec) (h : r.kind ≠ 0) : (s.fault r).faultOpen = s.faultOpen := by
  unfold State.fault
  dsimp only
  rw [if_neg h]
  split <;> rfl
@[simp] theorem State.fault_warps (s : State) (r : FaultRec) : (s.fault r).warps = s.warps := by rw [State.fault_eq]
@[simp] theorem State.fault_ctxs (s : State) (r : FaultRec) : (s.fault r).ctxs = s.ctxs := by rw [State.fault_eq]
@[simp] theorem State.fault_win (s : State) (r : FaultRec) : (s.fault r).win = s.win := by rw [State.fault_eq]

/-- A trace record changes the trace ring, what the dies hold of it and the count of samples dropped, nothing else (R396). -/
theorem State.trace_eq (s : State) (r : TraceRec) : s.trace r =
    { s with traceQ := (s.trace r).traceQ, traceHeld := (s.trace r).traceHeld, traceDropped := (s.trace r).traceDropped } := by
  unfold State.trace
  split
  · rfl
  · split <;> rfl
@[simp] theorem State.trace_faults (s : State) (r : TraceRec) : (s.trace r).faults = s.faults := by rw [State.trace_eq]; rfl
@[simp] theorem State.trace_warps (s : State) (r : TraceRec) : (s.trace r).warps = s.warps := by rw [State.trace_eq]
@[simp] theorem State.trace_ctxs (s : State) (r : TraceRec) : (s.trace r).ctxs = s.ctxs := by rw [State.trace_eq]
@[simp] theorem State.trace_win (s : State) (r : TraceRec) : (s.trace r).win = s.win := by rw [State.trace_eq]
@[simp] theorem State.trace_watches (s : State) (r : TraceRec) : (s.trace r).watches = s.watches := by rw [State.trace_eq]

/-! ### The state of a context -/

theorem State.ctx_setCState (s : State) (c d : CtxId) (x : CState) :
    (s.setCState c x).ctx d = if d = c then { s.ctx c with state := x } else s.ctx d := s.ctx_setCtx c d _
theorem State.ctx_setCState_same (s : State) (c : CtxId) (x : CState) :
    (s.setCState c x).ctx c = { s.ctx c with state := x } := (s.ctx_setCState c c x).trans (if_pos rfl)
@[simp] theorem State.setCState_warps (s : State) (c : CtxId) (x : CState) : (s.setCState c x).warps = s.warps := rfl
@[simp] theorem State.setCState_win (s : State) (c : CtxId) (x : CState) : (s.setCState c x).win = s.win := rfl
@[simp] theorem State.setCState_watches (s : State) (c : CtxId) (x : CState) : (s.setCState c x).watches = s.watches := rfl
@[simp] theorem State.setCState_faults (s : State) (c : CtxId) (x : CState) : (s.setCState c x).faults = s.faults := rfl

end Sys2Proof.Machine
end

section
/-! ### The debugger's commands (21_trap.md R390, R393, R395) -/
namespace Sys2Proof.Machine

theorem exec_watchWrite (i : WatchWrite) (s : State) : exec (.watchWrite i) s = execWatchWrite i s := rfl
theorem exec_dbgStop (c : CtxId) (s : State) : exec (.dbgStop c) s = execDbgStop c s := rfl
theorem exec_dbgSave (c : CtxId) (s : State) : exec (.dbgSave c) s = execDbgSave c s := rfl
theorem exec_dbgRestore (c : CtxId) (s : State) : exec (.dbgRestore c) s = execDbgRestore c s := rfl
theorem exec_dbgStep (i : DbgWarp) (s : State) : exec (.dbgStep i) s = execDbgStep i s := rfl
theorem exec_dbgSetWmode (i : DbgWmode) (s : State) : exec (.dbgSetWmode i) s = execDbgSetWmode i s := rfl
theorem exec_debugRevoke (c : CtxId) (s : State) : exec (.debugRevoke c) s = .next (s.askRevoke c) := rfl

/-! #### When a command is taken, and the fields of DBG_CMD -/

/-- A command is taken under the debug right, with no other in progress. -/
theorem State.dbgTaken_iff (s : State) (c : CtxId) :
    s.dbgTaken c = true ↔ (s.ctx c).dbgRight.getLsbD 0 = true ∧ s.dbgBusy = false := by
  simp [State.dbgTaken, State.granted]

/-- Part of a field that a command writes from bit 32 of a register on, read back. -/
theorem extract_written {n : Nat} (x mask : DWord) (v : BitVec n) (hn : n ≤ 32) (hm : ∀ i, i < n → mask.getLsbD (32 + i) = true)
    (j l : Nat) (hl : j + l ≤ n) : (x &&& ~~~mask ||| v.setWidth 64 <<< 32).extractLsb' (32 + j) l = v.extractLsb' j l := by
  apply BitVec.eq_of_getLsbD_eq
  intro i hi
  have hmask := hm (j + i) (by omega)
  simp [hi, Nat.add_assoc, hmask, show 32 + (j + i) < 64 by omega]

theorem State.reg_dbgWrite (s : State) (mask val : DWord) :
    (s.dbgWrite mask val).reg 0x6800 = s.reg 0x6800 &&& ~~~mask ||| val := by
  rw [State.dbgWrite, State.reg_setReg, if_pos rfl]
/-- A command that names a context leaves its number in CTX. -/
theorem State.reg_dbgCtx (s : State) (c : CtxId) : ((s.dbgCtx c).reg 0x6800).extractLsb' 32 12 = c := by
  rw [State.dbgCtx, State.reg_dbgWrite]
  exact (extract_written _ _ c (by decide) (by decide) 0 12 (by decide)).trans BitVec.extractLsb'_eq_self
/-- DBG_CMD tells nothing of where a context's descriptor and save area lie. -/
theorem State.areaOf_dbgCtx (s : State) (c d : CtxId) : (s.dbgCtx c).areaOf d = s.areaOf d := by
  have hreg : (s.dbgCtx c).reg 0x6200 = s.reg 0x6200 := by
    rw [State.dbgCtx, State.dbgWrite, State.reg_setReg, if_neg (by decide)]
  have hdesc : (s.dbgCtx c).descAddr d = s.descAddr d := by rw [State.descAddr, State.descAddr, hreg]
  rw [State.areaOf, hdesc]; rfl

/-! #### DBG_STOP -/

/-- From `s` to `t` the trap state maps of the warps named changed, and nothing else. -/
def MapsOnly (keys : List Nat) (s t : State) : Prop :=
  t = { s with warps := t.warps } ∧ (∀ k, t.warp k = { s.warp k with trap := (t.warp k).trap }) ∧ ∀ k, k ∉ keys → t.warp k = s.warp k

theorem MapsOnly.refl (keys : List Nat) (s : State) : MapsOnly keys s s := ⟨rfl, fun _ => rfl, fun _ _ => rfl⟩
theorem MapsOnly.setWarp (keys : List Nat) (s : State) (k : Nat) (hk : k ∈ keys) (m : TrapMap) :
    MapsOnly keys s (s.setWarp k { s.warp k with trap := m }) := by
  refine ⟨rfl, fun j => ?_, fun j hj => ?_⟩ <;> rw [State.warp_setWarp]
  · by_cases h : j = k
    · rw [if_pos h, h]
    · rw [if_neg h]
  · exact if_neg (fun h : j = k => hj (h ▸ hk))
theorem MapsOnly.trans {keys : List Nat} {s t u : State} (h : MapsOnly keys s t) (h' : MapsOnly keys t u) : MapsOnly keys s u := by
  obtain ⟨hrest, hbut, hkeep⟩ := h
  obtain ⟨hrest', hbut', hkeep'⟩ := h'
  exact ⟨hrest'.trans (congrArg (fun x : State => { x with warps := u.warps }) hrest),
    fun k => (hbut' k).trans (congrArg (fun x : Warp => { x with trap := (u.warp k).trap }) (hbut k)),
    fun k hk => (hkeep' k hk).trans (hkeep k hk)⟩

/-- A stop request writes the map of the executing warp, or in trap mode nothing (R379). -/
theorem State.requestMap_cases (s : State) (cause : Cause) :
    s.requestMap cause = s ∨ ∃ m, s.requestMap cause = s.setWarp s.cur { s.w with trap := m } := by
  unfold State.requestMap State.writeMap
  dsimp only
  split
  · exact .inl rfl
  · exact .inr ⟨_, rfl⟩
theorem MapsOnly.requestMap (keys : List Nat) (s : State) (k : Nat) (hk : k ∈ keys) (cause : Cause) :
    MapsOnly keys s (s.at k (fun s => s.requestMap cause)) := by
  unfold State.at
  rcases State.requestMap_cases { s with cur := k } cause with h | ⟨m, h⟩ <;> dsimp only <;> rw [h]
  · exact MapsOnly.refl keys s
  · exact MapsOnly.setWarp keys s k hk m
theorem MapsOnly.requestMaps (keys l : List Nat) (s : State) (hl : ∀ k ∈ l, k ∈ keys) (cause : Cause) :
    MapsOnly keys s (l.foldl (fun s k => s.at k (fun s => s.requestMap cause)) s) := by
  induction l generalizing s with
  | nil => exact MapsOnly.refl keys s
  | cons k l ih =>
    rw [List.forall_mem_cons] at hl
    exact (MapsOnly.requestMap keys s k hl.1 cause).trans (ih _ hl.2)

/-- Each warp of a context that stops is as `Warp.stop` says; no other changes (R344). -/
theorem State.warp_stopCtx (s : State) (c : CtxId) (k : Nat) :
    (s.stopCtx c).warp k = if (s.warp k).ctx = c then (s.warp k).stop s.ft else s.warp k := by
  exact Tab.get_map {} (fun _ (w : Warp) => if w.ctx = c then w.stop s.ft else w) (fun _ => ite_self _) s.warps k
theorem State.ctx_stopCtx (s : State) (c : CtxId) : ((s.stopCtx c).ctx c).state = .stopped := by
  unfold State.stopCtx
  rw [State.ctx_setCState_same]
theorem Warp.stop_ctx (w : Warp) (ft : DWord) : (w.stop ft).ctx = w.ctx := by
  unfold Warp.stop; split <;> rfl
theorem Warp.stop_stat (w : Warp) (ft : DWord) (h : w.stat = .ready ∨ w.stat = .parked) : (w.stop ft).stat = .halted := by
  unfold Warp.stop
  rcases h with h | h <;> rw [h]

/-- The warps that a stop request halts, by key. -/
def State.live (s : State) (c : CtxId) : List Nat :=
  (s.warps.filter (fun e => e.2.ctx == c && (e.2.stat == .ready || e.2.stat == .parked))).map (·.1)
/-- The context stopped, each warp that halts with its map written, and no record of it yet. -/
def State.stopped (s : State) (c : CtxId) : State :=
  ((s.live c).foldl (fun s k => s.at k (fun s => s.requestMap 0x2C4)) s).stopCtx c

theorem State.ctx_of_live (s : State) (c : CtxId) (h : Tab.rising none s.warps = true) (k : Nat) (hk : k ∈ s.live c) :
    (s.warp k).ctx = c := by
  obtain ⟨e, he, rfl⟩ := List.mem_map.1 hk
  obtain ⟨hm, hp⟩ := List.mem_filter.1 he
  have hw : s.warp e.1 = e.2 := Tab.get_of_mem ({} : Warp) s.warps none h e.1 e.2 hm
  simp only [Bool.and_eq_true, beq_iff_eq] at hp
  rw [hw, hp.1]

/-- A stop request writes one fault record, of KIND 2 with cause 0x2C4, and one trace record (R393; log entry 34). -/
theorem State.stopAll_eq (s : State) (c : CtxId) : ∃ (r : FaultRec) (x : TraceRec), s.stopAll c = ((s.stopped c).fault r).trace x ∧
    r.kind = 2 ∧ r.cause = 0x2C4 ∧ (r.ctx = c ∨ ∃ k ∈ s.live c, r.ctx = ((s.stopped c).warp k).ctx) := by
  unfold State.stopAll
  dsimp only
  split
  · next k ks h => exact ⟨_, _, rfl, rfl, rfl, .inr ⟨k, by rw [State.live, h]; exact List.mem_cons_self, rfl⟩⟩
  · exact ⟨_, _, rfl, rfl, rfl, .inl rfl⟩

theorem State.stopped_maps (s : State) (c : CtxId) : ∃ u, s.stopped c = u.stopCtx c ∧ MapsOnly (s.live c) s u :=
  ⟨_, rfl, MapsOnly.requestMaps _ _ s (fun _ h => h) _⟩
theorem State.stopped_win (s : State) (c : CtxId) : (s.stopped c).win = s.win := by
  obtain ⟨u, hu, hrest, -, -⟩ := s.stopped_maps c
  rw [hu, show (u.stopCtx c).win = u.win from rfl, hrest]
theorem State.stopped_faults (s : State) (c : CtxId) : (s.stopped c).faults = s.faults := by
  obtain ⟨u, hu, hrest, -, -⟩ := s.stopped_maps c
  rw [hu, show (u.stopCtx c).faults = u.faults from rfl, hrest]; rfl
theorem State.warp_stopped_ctx (s : State) (c : CtxId) (k : Nat) : ((s.stopped c).warp k).ctx = (s.warp k).ctx := by
  obtain ⟨u, hu, -, hbut, -⟩ := s.stopped_maps c
  have hctx : (u.warp k).ctx = (s.warp k).ctx := by rw [hbut]
  rw [hu, State.warp_stopCtx]
  split
  · rw [Warp.stop_ctx, hctx]
  · exact hctx
theorem State.warp_stopped_stat (s : State) (c : CtxId) (k : Nat) (hc : (s.warp k).ctx = c)
    (h : (s.warp k).stat = .ready ∨ (s.warp k).stat = .parked) : ((s.stopped c).warp k).stat = .halted := by
  obtain ⟨u, hu, -, hbut, -⟩ := s.stopped_maps c
  have hctx : (u.warp k).ctx = c := by rw [hbut]; exact hc
  have hstat : (u.warp k).stat = (s.warp k).stat := by rw [hbut]
  rw [hu, State.warp_stopCtx, if_pos hctx]
  exact Warp.stop_stat _ _ (by rw [hstat]; exact h)
theorem State.warp_stopped_other (s : State) (c : CtxId) (hr : Tab.rising none s.warps = true) (k : Nat)
    (hc : (s.warp k).ctx ≠ c) : (s.stopped c).warp k = s.warp k := by
  obtain ⟨u, hu, -, hbut, hkeep⟩ := s.stopped_maps c
  have hk : u.warp k = s.warp k := hkeep k (fun h => hc (s.ctx_of_live c hr k h))
  rw [hu, State.warp_stopCtx, hk, if_neg hc]

/-- DBG_STOP of a Running context (R389, R393; log entry 34). -/
theorem State.stopAll_stops (s : State) (c : CtxId) :
    (s.stopAll c).win = s.win ∧ ((s.stopAll c).ctx c).state = .stopped ∧
    (Tab.rising none s.warps = true → (∀ k, (s.warp k).ctx ≠ c → (s.stopAll c).warp k = s.warp k) ∧
      (∀ k, (s.warp k).ctx = c → (s.warp k).stat = .ready ∨ (s.warp k).stat = .parked → ((s.stopAll c).warp k).stat = .halted) ∧
      ∃ r : FaultRec, (s.stopAll c).faults = s.faults ++ [r] ∧ r.kind = 2 ∧ r.cause = 0x2C4 ∧ r.ctx = c) := by
  obtain ⟨r, x, e, hkind, hcause, hctx⟩ := s.stopAll_eq c
  have hwarp : ∀ k, (s.stopAll c).warp k = (s.stopped c).warp k := fun k => by simp [e, State.warp]
  refine ⟨?_, ?_, fun hr => ⟨fun k hc => ?_, fun k hc h => ?_, { r with id := (s.stopped c).nextId }, ?_, hkind, hcause, ?_⟩⟩
  · simp [e, State.stopped_win]
  · have : (s.stopAll c).ctx c = (s.stopped c).ctx c := by simp [e, State.ctx]
    rw [this]; exact State.ctx_stopCtx _ c
  · rw [hwarp, s.warp_stopped_other c hr k hc]
  · rw [hwarp, s.warp_stopped_stat c k hc h]
  · simp [e, State.stopped_faults]
  · rcases hctx with h | ⟨k, hk, h⟩
    · exact h
    · exact h.trans ((s.warp_stopped_ctx c k).trans (s.ctx_of_live c hr k hk))

/-! #### DBG_SAVE and DBG_RESTORE -/

/-- A command during a switch waits for its end (log entry 48). -/
theorem State.command_waits (s : State) (d : HeldCmd) (h : s.switch ≠ none) :
    s.command d = { s with heldCmds := s.heldCmds ++ [d] } := if_pos (Option.isSome_iff_ne_none.2 h)
theorem State.command_dbgSave (s : State) (c : CtxId) (h : s.switch = none) : s.command (.dbgSave c) = s.dbgSaveNow c := by
  rw [State.command, h]; rfl
theorem State.command_dbgRestore (s : State) (c : CtxId) (h : s.switch = none) :
    s.command (.dbgRestore c) = s.dbgRestoreNow c := by
  rw [State.command, h]; rfl
/-- A save changes the switch in progress alone, and begins one from a Stopped context. -/
theorem State.dbgSaveNow_spec (s : State) (c : CtxId) (hg : s.granted c = true) :
    { s.dbgSaveNow c with switch := s.switch } = s ∧
    ((s.ctx c).state = .stopped → ∃ w, (s.dbgSaveNow c).switch = some w ∧ w.src = some c ∧ w.dst = none ∧ w.phase = 0) := by
  unfold State.dbgSaveNow
  refine ⟨by split <;> rfl, fun h => ?_⟩
  rw [hg, h]
  exact ⟨_, rfl, rfl, rfl, rfl⟩
/-- A restore changes the switch in progress alone, and begins one to a Saved context whose header says that it was Stopped. -/
theorem State.dbgRestoreNow_spec (s : State) (c : CtxId) (hg : s.granted c = true) :
    { s.dbgRestoreNow c with switch := s.switch } = s ∧
    ((s.ctx c).state = .saved → s.headerValid c = true → (s.num (s.areaOf c) 8).testBit 33 = true →
      ∃ w, (s.dbgRestoreNow c).switch = some w ∧ w.dst = some c ∧ w.phase = 0) := by
  unfold State.dbgRestoreNow
  refine ⟨by dsimp only; split <;> rfl, fun h hv hs => ?_⟩
  rw [hg, h, hv, hs]
  exact ⟨_, rfl, rfl, rfl⟩

theorem exec_dbgSave_taken (s : State) (c : CtxId) (h : s.dbgTaken c = true) :
    exec (.dbgSave c) s = .next ((s.dbgCtx c).command (.dbgSave c)) := congrArg Host.Outcome.next (if_pos h)
theorem exec_dbgRestore_taken (s : State) (c : CtxId) (h : s.dbgTaken c = true) :
    exec (.dbgRestore c) s = .next ((s.dbgCtx c).command (.dbgRestore c)) := congrArg Host.Outcome.next (if_pos h)
/-- A state that differs in the switch alone from that in which the command has been written to DBG_CMD. -/
theorem State.dbgCtx_switched (s t : State) (c : CtxId) (h : { t with switch := (s.dbgCtx c).switch } = s.dbgCtx c) :
    (t.reg 0x6800).extractLsb' 32 12 = c ∧ { t with switch := s.switch, win := s.win } = s :=
  ⟨(congrArg (fun x : State => (x.reg 0x6800).extractLsb' 32 12) h).trans (s.reg_dbgCtx c),
    congrArg (fun x : State => { x with win := s.win }) h⟩

/-! #### DBG_STEP and DBG_SET_WMODE -/

/-- The fields that name a warp slot. -/
theorem State.reg_dbgWrite_slot (s : State) (c : CtxId) (core : BitVec 8) (slot : BitVec 4) :
    let r := (s.dbgWrite (0xFFFFFF <<< 32) ((slot ++ core ++ c).setWidth 64 <<< 32)).reg 0x6800
    r.extractLsb' 32 12 = c ∧ r.extractLsb' 44 8 = core ∧ r.extractLsb' 52 4 = slot := by
  have part := extract_written (s.reg 0x6800) (0xFFFFFF <<< 32) (slot ++ core ++ c) (by decide) (by decide)
  rw [State.reg_dbgWrite]
  refine ⟨(part 0 12 (by decide)).trans ?_, (part 12 8 (by decide)).trans ?_, (part 20 4 (by decide)).trans ?_⟩
  · rw [BitVec.extractLsb'_append_eq_right]
  · rw [BitVec.extractLsb'_append_eq_of_le (by decide), BitVec.extractLsb'_append_eq_right]
  · rw [BitVec.extractLsb'_append_eq_of_le (by decide), BitVec.extractLsb'_append_eq_left]
/-- The fields that name a barrier object, and WMODE. -/
theorem State.reg_dbgWrite_wmode (s : State) (c : CtxId) (core : BitVec 8) (slot : BitVec 4) (bar : BitVec 5) (m : BitVec 2) :
    let r := (s.dbgWrite (0x7FFFFFFF <<< 32) ((m ++ bar ++ slot ++ core ++ c).setWidth 64 <<< 32)).reg 0x6800
    (r.extractLsb' 32 12 = c ∧ r.extractLsb' 44 8 = core ∧ r.extractLsb' 52 4 = slot) ∧ r.extractLsb' 56 5 = bar ∧
      r.extractLsb' 61 2 = m := by
  have part := extract_written (s.reg 0x6800) (0x7FFFFFFF <<< 32) (m ++ bar ++ slot ++ core ++ c) (by decide) (by decide)
  rw [State.reg_dbgWrite]
  refine ⟨⟨(part 0 12 (by decide)).trans ?_, (part 12 8 (by decide)).trans ?_, (part 20 4 (by decide)).trans ?_⟩,
    (part 24 5 (by decide)).trans ?_, (part 29 2 (by decide)).trans ?_⟩
  · rw [BitVec.extractLsb'_append_eq_right]
  · iterate rw [BitVec.extractLsb'_append_eq_of_le (by decide)]
    rw [BitVec.extractLsb'_append_eq_right]
  · iterate rw [BitVec.extractLsb'_append_eq_of_le (by decide)]
    rw [BitVec.extractLsb'_append_eq_right]
  · iterate rw [BitVec.extractLsb'_append_eq_of_le (by decide)]
    rw [BitVec.extractLsb'_append_eq_right]
  · iterate rw [BitVec.extractLsb'_append_eq_of_le (by decide)]
    rw [BitVec.extractLsb'_eq_self]

/-- A halted warp that goes on stands where it stood. -/
theorem Warp.resume_halted (w : Warp) (ft : DWord) (h : w.stat = .halted) : (w.resume ft).stat ≠ .halted ∧ (w.resume ft).pc = w.pc := by
  unfold Warp.resume
  rw [if_pos h]
  split <;> exact ⟨by simp, rfl⟩

theorem State.cohort_setCohort (s : State) (k j : Nat) (x : Cohort) :
    (s.setCohort k x).cohort j = if j = k then x else s.cohort j := Tab.get_set _ _ _ _ _
/-- A team barrier, and a grove barrier of a team's cohort (R201). -/
theorem State.bar_team (s : State) (n b : Nat) (h : b < 16) : s.bar n b = Tab.get {} (s.team n).bars b := if_pos h
theorem State.bar_grove (s : State) (n b : Nat) (h : ¬b < 16) :
    s.bar n b = Tab.get {} (s.cohort (s.team n).cohort).bars (b - 16) := if_neg h
theorem State.setBar_team (s : State) (n b : Nat) (o : Barrier) (h : b < 16) :
    s.setBar n b o = s.setTeam n { s.team n with bars := Tab.set {} (s.team n).bars b o } := if_pos h
theorem State.setBar_grove (s : State) (n b : Nat) (o : Barrier) (h : ¬b < 16) : s.setBar n b o = s.setCohort (s.team n).cohort
    { s.cohort (s.team n).cohort with bars := Tab.set {} (s.cohort (s.team n).cohort).bars (b - 16) o } := if_neg h

theorem State.bar_setBar_same (s : State) (n b : Nat) (o : Barrier) : (s.setBar n b o).bar n b = o := by
  by_cases h : b < 16
  · rw [s.setBar_team n b o h, State.bar_team _ _ _ h, State.team_setTeam, if_pos rfl, Tab.get_set_same]
  · rw [s.setBar_grove n b o h, State.bar_grove _ _ _ h, State.cohort_setCohort]
    exact (congrArg (fun x : Cohort => Tab.get {} x.bars (b - 16)) (if_pos rfl)).trans (Tab.get_set_same _ _ _ _)
/-- No other object changes; a grove barrier is one object for every team of its cohort. -/
theorem State.bar_setBar_other (s : State) (n b m a : Nat) (o : Barrier) (h : a ≠ b ∨ (a < 16 ∧ m ≠ n)) :
    (s.setBar n b o).bar m a = s.bar m a := by
  by_cases hb : b < 16
  · rw [s.setBar_team n b o hb]
    by_cases hm : m = n
    · subst hm
      have hab : a ≠ b := h.resolve_right (fun e => e.2 rfl)
      by_cases ha : a < 16
      · rw [State.bar_team _ _ _ ha, State.bar_team _ _ _ ha, State.team_setTeam, if_pos rfl, Tab.get_set_ne _ _ _ _ _ hab]
      · rw [State.bar_grove _ _ _ ha, State.bar_grove _ _ _ ha, State.team_setTeam, if_pos rfl]; rfl
    · have ht : ∀ x, (s.setTeam n x).team m = s.team m := fun x => (s.team_setTeam n m x).trans (if_neg hm)
      unfold State.bar
      rw [ht]; rfl
  · rw [s.setBar_grove n b o hb]
    by_cases ha : a < 16
    · rw [State.bar_team _ _ _ ha, State.bar_team _ _ _ ha]; rfl
    · have hab : a - 16 ≠ b - 16 := by omega
      rw [State.bar_grove _ _ _ ha, State.bar_grove _ _ _ ha, State.cohort_setCohort]
      change Tab.get {} (Cohort.bars (if (s.team m).cohort = (s.team n).cohort then _ else _)) _ = _
      by_cases hc : (s.team m).cohort = (s.team n).cohort
      · rw [if_pos hc, Tab.get_set_ne _ _ _ _ _ hab, hc]
      · rw [if_neg hc]; rfl

theorem State.reg_setBar (s : State) (n b p : Nat) (o : Barrier) : (s.setBar n b o).reg p = s.reg p := by
  unfold State.setBar; dsimp only; split <;> rfl
theorem State.setBar_warps (s : State) (n b : Nat) (o : Barrier) : (s.setBar n b o).warps = s.warps := by
  unfold State.setBar; dsimp only; split <;> rfl
theorem State.setBar_mem (s : State) (n b : Nat) (o : Barrier) : (s.setBar n b o).mem = s.mem := by
  unfold State.setBar; dsimp only; split <;> rfl

/-- DBG_SET_WMODE of a live object. -/
theorem exec_dbgSetWmode_live (s : State) (i : DbgWmode) (n : Nat) (h : s.dbgTaken i.ctx = true)
    (hsaved : s.savedOn i.ctx i.core.toNat = false) (hteam : s.teamOfSlot i.core.toNat i.slot.toNat = some n)
    (hctx : (s.team n).ctx = i.ctx) : exec (.dbgSetWmode i) s =
      .next ((s.dbgWrite (0x7FFFFFFF <<< 32) ((i.wmode ++ i.bar ++ i.slot ++ i.core ++ i.ctx).setWidth 64 <<< 32)).setBar n i.bar.toNat
        { s.bar n i.bar.toNat with wmode := i.wmode }) := by
  rw [exec_dbgSetWmode, execDbgSetWmode]
  simp [h, hsaved, hteam, hctx]

/-! #### DEBUG_REVOKE -/

theorem State.dbgRight_setCState (s : State) (c d : CtxId) (x : CState) :
    ((s.setCState c x).ctx d).dbgRight = (s.ctx d).dbgRight := by
  rw [State.ctx_setCState]
  split
  · next h => rw [h]
  · rfl
theorem State.unstop_ctxs (s : State) (c : CtxId) :
    (s.unstop c).ctxs = (if (s.ctx c).state = .stopped then s.resumeCtx c else s).ctxs := by
  unfold State.unstop
  dsimp only
  generalize (if (s.ctx c).state = .stopped then s.resumeCtx c else s) = t
  split
  · exact State.setByte_ctxs _ _ _
  · rfl
theorem State.dbgRight_unstop (s : State) (c d : CtxId) : ((s.unstop c).ctx d).dbgRight = (s.ctx d).dbgRight := by
  rw [State.ctx, State.unstop_ctxs]
  split
  · exact State.dbgRight_setCState _ c d _
  · rfl
theorem State.clearImages_ctxs (s : State) (c : CtxId) : (s.clearImages c).ctxs = s.ctxs := rfl
theorem State.clearImages_watches (s : State) (c : CtxId) : (s.clearImages c).watches = s.watches := rfl
/-- A revocation clears DBG_RIGHT (R395). -/
theorem State.dbgRight_revoke (s : State) (c : CtxId) : ((s.revoke c).ctx c).dbgRight = 0 := by
  let t := (s.setCtx c { s.ctx c with dbgRight := 0 }).fresh1
  have hctxs : (s.revoke c).ctxs = (t.unstop c).ctxs := by
    unfold State.revoke
    dsimp only
    rw [State.trace_ctxs]
    split
    · rw [State.clearImages_ctxs]
    · dsimp only
  calc ((s.revoke c).ctx c).dbgRight
    _ = ((t.unstop c).ctx c).dbgRight := by rw [State.ctx, hctxs]; rfl
    _ = (t.ctx c).dbgRight := State.dbgRight_unstop t c c
    _ = 0 := congrArg Ctx.dbgRight ((s.ctx_setCtx c c _).trans (if_pos rfl))

/-- A watch register of a context, turned off; another one as it was (R390, R395). -/
def watchOff (c : CtxId) (v : BitVec 128) : BitVec 128 :=
  if v.extractLsb' 96 12 = c then v &&& ~~~((7 : BitVec 128) <<< 108) else v
theorem watchOff_off (c : CtxId) (v : BitVec 128) (h : (watchOff c v).extractLsb' 96 12 = c) :
    (watchOff c v).extractLsb' 108 3 = 0 := by
  unfold watchOff at h ⊢
  split at h
  · next hc =>
    rw [if_pos hc]
    apply BitVec.eq_of_getLsbD_eq
    intro i hi
    have hi : i = 0 ∨ i = 1 ∨ i = 2 := by omega
    rcases hi with rfl | rfl | rfl <;> simp
  · next hc => exact absurd h hc
theorem State.watches_revoke (s : State) (c : CtxId) : ∃ ws : Tab (BitVec 128),
    (s.revoke c).watches = List.filter (fun e => e.2 != 0) (Tab.map (fun _ v => watchOff c v) ws) := by
  refine ⟨(((s.setCtx c { s.ctx c with dbgRight := 0 }).fresh1).unstop c).watches, ?_⟩
  unfold State.revoke
  dsimp only
  rw [State.trace_watches]
  split
  · rw [State.clearImages_watches]; rfl
  · rfl
/-- And it turns off the context's watches. -/
theorem State.watch_revoke (s : State) (c : CtxId) (n : Nat) (h : (Tab.get 0 (s.revoke c).watches n).extractLsb' 96 12 = c) :
    (Tab.get 0 (s.revoke c).watches n).extractLsb' 108 3 = 0 := by
  obtain ⟨ws, e⟩ := s.watches_revoke c
  rcases Tab.get_default_or_mem 0 (s.revoke c).watches n with hd | hm
  · rw [hd]; rfl
  · rw [e] at hm
    obtain ⟨x, -, hx⟩ := List.mem_map.1 (List.mem_filter.1 hm).1
    have hv : Tab.get 0 (s.revoke c).watches n = watchOff c x.2 := by rw [e]; exact (congrArg Prod.snd hx).symm
    rw [hv] at h ⊢
    exact watchOff_off c x.2 h

/-- A revocation with no other pending takes place at once, or waits for the command in progress. -/
theorem State.askRevoke_first (s : State) (c : CtxId) (hg : s.granted c = true) (hr : s.revokes = []) :
    s.askRevoke c = if s.dbgBusy = true then { s with revokes := [c] } else { ({ s with revokes := [c] } : State).revoke c with revokes := [] } := by
  have hask : s.askRevoke c = ({ s with revokes := [c] } : State).revokeHeld := by
    unfold State.askRevoke
    rw [hg, hr]; rfl
  rw [hask, State.revokeHeld]
  change (if s.dbgBusy = true then _ else _) = _
  split
  · rfl
  · simp
theorem State.askRevoke_without (s : State) (c : CtxId) (hg : ¬s.granted c = true) : s.askRevoke c = s := by
  rw [State.askRevoke, Bool.eq_false_iff.2 hg]; rfl
end Sys2Proof.Machine
end

section
open Sys2Proof Sys2Proof.Machine

/-- Settles O25: each command is taken exactly under the debug right with no other in progress (`State.dbgTaken_iff`), and each taken
one has the effect of its rule. -/
theorem debuggerCommandsActOnlyWithTheRight : Obligations.DebuggerCommandsActOnlyWithTheRight := by
  unfold Obligations.DebuggerCommandsActOnlyWithTheRight
  intro s granted free bits target asks names
  have taken : ∀ c, free c → s.dbgTaken c = true := fun c h => (s.dbgTaken_iff c).2 h
  have refused : ∀ c, ¬free c → s.dbgTaken c = false := fun c h => by
    rw [← Bool.not_eq_true, s.dbgTaken_iff c]; exact h
  refine ⟨fun i => ⟨fun h => ?_, fun h => ?_⟩, fun c h => ⟨?_, ?_, ?_⟩, fun i h => ?_, fun i h => ?_, fun c h => ?_, fun c h hs => ?_,
    fun c h hs => ?_, fun i h => ?_, fun i n h hsaved hteam hctx => ?_, fun c => ⟨fun h => ?_, fun h hr => ?_, fun h hb hr => ?_⟩⟩
  -- WATCH_WRITE
  · rw [exec_watchWrite]; exact congrArg Host.Outcome.next (if_neg h)
  · rw [exec_watchWrite]; exact congrArg Host.Outcome.next (if_pos h)
  -- without the right, or behind a command in progress
  · rw [exec_dbgStop, execDbgStop, refused c h]; rfl
  · rw [exec_dbgSave, execDbgSave, refused c h]; rfl
  · rw [exec_dbgRestore, execDbgRestore, refused c h]; rfl
  · rw [exec_dbgStep, execDbgStep, refused i.ctx h]; rfl
  · rw [exec_dbgSetWmode, execDbgSetWmode, refused i.ctx h]; rfl
  -- DBG_STOP
  · rw [exec_dbgStop, execDbgStop, taken c h]
    by_cases hrun : (s.ctx c).state = .running
    · obtain ⟨hwin, hstop, hwarps⟩ := (s.dbgCtx c).stopAll_stops c
      refine ⟨(s.dbgCtx c).stopAll c, by rw [hrun]; rfl, ?_, fun hn => absurd hrun hn, fun _ => hstop, fun _ => hwarps⟩
      change (Tab.get 0 ((s.dbgCtx c).stopAll c).win 0x6800).extractLsb' 32 12 = c
      rw [hwin]
      exact s.reg_dbgCtx c
    · have hne : ((s.ctx c).state == .running) = false := by simpa using hrun
      exact ⟨s.dbgCtx c, by rw [hne]; rfl, s.reg_dbgCtx c, fun _ => rfl, fun e => absurd e hrun, fun e => absurd e hrun⟩
  -- DBG_SAVE and DBG_RESTORE
  · obtain ⟨hsave, hbegin⟩ := (s.dbgCtx c).dbgSaveNow_spec c h.1
    obtain ⟨hrest, hback⟩ := (s.dbgCtx c).dbgRestoreNow_spec c h.1
    rw [exec_dbgSave_taken s c (taken c h), exec_dbgRestore_taken s c (taken c h), State.command_dbgSave (s.dbgCtx c) c hs,
      State.command_dbgRestore (s.dbgCtx c) c hs]
    obtain ⟨hasks, hkeep⟩ := s.dbgCtx_switched _ c hsave
    obtain ⟨hasks', hkeep'⟩ := s.dbgCtx_switched _ c hrest
    refine ⟨⟨_, rfl, hasks, hkeep, hbegin⟩, ⟨_, rfl, hasks', hkeep', fun hst hv hb => hback hst ?_ ?_⟩⟩
    · rw [State.headerValid, State.areaOf_dbgCtx]; exact hv
    · rw [State.areaOf_dbgCtx]; exact hb
  · rw [exec_dbgSave_taken s c (taken c h), exec_dbgRestore_taken s c (taken c h), State.command_waits (s.dbgCtx c) _ hs,
      State.command_waits (s.dbgCtx c) _ hs]
    exact ⟨⟨_, rfl, s.reg_dbgCtx c, rfl, rfl⟩, ⟨_, rfl, s.reg_dbgCtx c, rfl, rfl⟩⟩
  -- DBG_STEP
  · have hk := State.reg_dbgWrite_slot s i.ctx i.core i.slot
    rw [exec_dbgStep, execDbgStep, taken i.ctx h]
    dsimp only
    by_cases hgo : ((s.ctx i.ctx).state == .stopped && (s.warp (i.core.toNat * 16 + i.slot.toNat)).ctx == i.ctx &&
        (s.warp (i.core.toNat * 16 + i.slot.toNat)).stat == .halted) = true
    · rw [if_pos hgo]
      refine ⟨_, rfl, hk, fun n hn => (State.warp_setWarp _ _ _ _).trans (if_neg hn), fun _ _ hh => ?_⟩
      obtain ⟨hstat, hpc⟩ := Warp.resume_halted _ s.ft hh
      rw [State.warp_setWarp_same]
      exact ⟨rfl, hstat, hpc⟩
    · rw [if_neg hgo]
      refine ⟨_, rfl, hk, fun _ _ => rfl, fun hs hc hh => absurd ?_ hgo⟩
      rw [hs, hc, hh]; simp
  -- DBG_SET_WMODE
  · rw [exec_dbgSetWmode_live s i n (taken i.ctx h) hsaved hteam hctx]
    obtain ⟨hnames, hbar, hmode⟩ := State.reg_dbgWrite_wmode s i.ctx i.core i.slot i.bar i.wmode
    refine ⟨_, rfl, ?_, ?_, ?_, State.bar_setBar_same _ _ _ _, fun m b hb => State.bar_setBar_other _ n _ m b _ hb,
      State.setBar_warps _ _ _ _, State.setBar_mem _ _ _ _⟩
    · simp only [names, asks, State.reg_setBar]; exact hnames
    · rw [State.reg_setBar]; exact hbar
    · rw [State.reg_setBar]; exact hmode
  -- DEBUG_REVOKE
  · rw [exec_debugRevoke, s.askRevoke_without c h]
  · rw [exec_debugRevoke, s.askRevoke_first c h.1 hr, h.2]
    exact ⟨_, rfl, State.dbgRight_revoke _ c, rfl, fun n => State.watch_revoke _ c n⟩
  · rw [exec_debugRevoke, s.askRevoke_first c h hr, hb]; rfl
end

section
/-! ### Discards (18_context.md R327, 21_trap.md R398) -/
namespace Sys2Proof.Machine

/-! #### What a discard leaves out of the package -/

theorem State.faults_touch (s : State) (c : CtxId) (a n : Nat) : (s.touch c a n).faults = s.faults := by
  unfold State.touch; split <;> rfl
theorem State.faults_cache (s : State) (c : CtxId) (d : Nat) (va : DWord) (t : Trans) : (s.cache c d va t).faults = s.faults := by
  unfold State.cache; dsimp only; split <;> split <;> rfl
theorem State.faults_seqStore (s : State) (c : CtxId) (p : Peer) (ws : List (Nat × Byte)) :
    (s.seqStore c p ws).faults = s.faults := rfl
theorem State.faults_endLeases (s : State) (a n : Nat) : (s.endLeases a n).faults = s.faults := rfl
theorem State.faults_setBytes (s : State) (a : Nat) (bs : List Byte) : (s.setBytes a bs).faults = s.faults := rfl
theorem State.faults_seqWrite (s v : State) (c : CtxId) (va : DWord) (bs : List Byte) :
    (s.seqWrite v c va bs).faults = s.faults := by
  unfold State.seqWrite
  refine List.foldlRecOn (motive := fun u : State => u.faults = s.faults) _ _ rfl (fun u hu p _ => ?_)
  dsimp only
  split
  · exact hu
  · next t _ =>
    split
    · rw [State.faults_seqStore, State.faults_cache, hu]
    · rw [State.faults_endLeases, State.faults_setBytes, State.faults_touch, hu]
theorem State.faults_dropLaunches (s : State) (c : CtxId) : (s.dropLaunches c).faults = s.faults := by
  unfold State.dropLaunches
  refine List.foldlRecOn (motive := fun u : State => u.faults = s.faults) _ _ rfl (fun u hu l _ => ?_)
  split
  · exact (State.faults_seqWrite u u c _ _).trans hu
  · exact hu
/-- Of the cores of a context only what it has there goes; the warps of others stay, with the slots that are free. -/
theorem State.dropCores_keeps (s : State) (c : CtxId) (live : Bool) : (s.dropCores c live).faults = s.faults ∧
    (s.dropCores c live).warps = s.warps.filter (fun e => e.2.ctx != c || e.2.stat == .free) := by
  unfold State.dropCores
  cases live with
  | false => exact ⟨rfl, rfl⟩
  | true =>
    have h := List.foldlRecOn (motive := fun u : State => u.faults = s.faults ∧ u.warps = s.warps)
      (s.servers c) (fun s e => s.setCore e.1 ((s.core e.1).without e.2)) ⟨rfl, rfl⟩ (fun u hu e _ => hu)
    exact ⟨h.1, congrArg (List.filter _) h.2⟩

/-- The package without what it holds of a context, whose area is no longer valid: a discard before its record. -/
def State.emptied (s : State) (c : CtxId) : State :=
  let live := (s.ctx c).state != .saved
  let t := ((((s.setCState c .discarding).dropLaunches c).dropVersions c).dropFlights c).dropCores c live
  t.setByte (t.areaOf c + 4) (t.byte (t.areaOf c + 4) &&& ~~~(1 : Byte))

theorem State.emptied_faults (s : State) (c : CtxId) : (s.emptied c).faults = s.faults :=
  ((State.dropCores_keeps _ c _).1).trans (State.faults_dropLaunches (s.setCState c .discarding) c)
/-- No slot of the context is in use. -/
theorem State.emptied_warp (s : State) (c : CtxId) (k : Nat) (h : ((s.emptied c).warp k).ctx = c) :
    ((s.emptied c).warp k).stat = .free := by
  obtain ⟨ws, hw⟩ : ∃ ws : Tab Warp, (s.emptied c).warps = ws.filter (fun e => e.2.ctx != c || e.2.stat == .free) :=
    ⟨_, (State.dropCores_keeps _ c _).2⟩
  rcases Tab.get_default_or_mem ({} : Warp) (s.emptied c).warps k with hd | hm
  · rw [State.warp, hd]
  · have hm : (k, (s.emptied c).warp k) ∈ ws.filter (fun e => e.2.ctx != c || e.2.stat == .free) := by rw [← hw]; exact hm
    simpa [h] using (List.mem_filter.1 hm).2

/-! #### The switch goes on without the context -/

theorem State.toRestore_keeps (s : State) (w : Switch) : (s.toRestore w).faults = s.faults ∧ (s.toRestore w).warps = s.warps := by
  unfold State.toRestore
  split
  · exact ⟨rfl, rfl⟩
  · dsimp only; split <;> exact ⟨rfl, rfl⟩
theorem State.ctx_toRestore (s : State) (w : Switch) (c : CtxId) (h : w.dst ≠ some c) : (s.toRestore w).ctx c = s.ctx c := by
  unfold State.toRestore
  split
  · rfl
  · next d hd =>
    have hc : c ≠ d := fun e => h (by rw [hd, e])
    dsimp only
    split
    · exact (s.ctx_setCState d c .restoring).trans (if_neg hc)
    · rfl
theorem State.abandon_keeps (s : State) (c : CtxId) : (s.abandon c).faults = s.faults ∧ (s.abandon c).warps = s.warps ∧
    (s.abandon c).ctx c = s.ctx c := by
  unfold State.abandon
  dsimp only
  split
  · exact ⟨rfl, rfl, rfl⟩
  · next w _ =>
    split
    · split
      · obtain ⟨hf, hw⟩ := State.toRestore_keeps _ _
        refine ⟨hf, hw, State.ctx_toRestore _ _ c ?_⟩
        dsimp only
        split
        · exact (Option.some_ne_none c).symm
        · assumption
      · exact ⟨rfl, rfl, rfl⟩
    · exact ⟨rfl, rfl, rfl⟩

/-! #### The discard -/

theorem State.discardCtx_held (s : State) (c : CtxId) (cause : Cause) (die : Nat)
    (h : [CState.running, .stopped, .saved, .saving, .restoring].contains (s.ctx c).state = true) : ∃ (r : FaultRec) (x : TraceRec),
    s.discardCtx c cause die = ((((s.emptied c).fault r).trace x).setCState c .idle).abandon c ∧ r.kind = 4 ∧ r.cause = cause ∧
      r.ctx = c := by
  unfold State.discardCtx
  rw [if_pos h]
  exact ⟨_, _, rfl, rfl, rfl, rfl⟩
theorem State.discardCtx_free (s : State) (c : CtxId) (cause : Cause) (die : Nat)
    (h : ¬[CState.running, .stopped, .saved, .saving, .restoring].contains (s.ctx c).state = true) :
    s.discardCtx c cause die = s := if_neg h

/-- A discarded context is Idle, no warp slot is its own, and one record of KIND 4 names the cause (R398). -/
theorem State.discardCtx_discards (s : State) (c : CtxId) (cause : Cause) (die : Nat)
    (h : [CState.running, .stopped, .saved, .saving, .restoring].contains (s.ctx c).state = true) :
    ((s.discardCtx c cause die).ctx c).state = .idle ∧
    (∀ k, ((s.discardCtx c cause die).warp k).ctx = c → ((s.discardCtx c cause die).warp k).stat = .free) ∧
    ∃ r : FaultRec, (s.discardCtx c cause die).faults = s.faults ++ [r] ∧ r.kind = 4 ∧ r.cause = cause ∧ r.ctx = c := by
  obtain ⟨r, x, e, hkind, hcause, hctx⟩ := s.discardCtx_held c cause die h
  obtain ⟨hf, hw, hc⟩ := State.abandon_keeps ((((s.emptied c).fault r).trace x).setCState c .idle) c
  rw [e]
  refine ⟨?_, fun k hk => ?_, { r with id := (s.emptied c).nextId }, ?_, hkind, hcause, hctx⟩
  · rw [hc, State.ctx_setCState_same]
  · rw [State.warp, hw] at hk ⊢
    simp only [State.setCState_warps, State.trace_warps, State.fault_warps] at hk ⊢
    exact s.emptied_warp c k hk
  · rw [hf]
    simp [State.emptied_faults]
end Sys2Proof.Machine
end

section
/-! ### Bring-up and soft errors (22_health.md R399, R400) -/
namespace Sys2Proof.Machine

theorem exec_powerOn (i : PowerOn) (s : State) : exec (.powerOn i) s = .next (s.bringUp i) := rfl
theorem exec_scrubPass (i : ScrubPass) (s : State) : exec (.scrubPass i) s = execScrubPass i s := rfl
theorem exec_softError (i : SoftError) (s : State) : exec (.softError i) s = execSoftError i s := rfl
theorem exec_internalError (c : CtxId) (s : State) :
    exec (.internalError c) s = .next (s.discardCtx c 0x3C0 (Config.reportDie s.nextId % 4)) := rfl

/-! #### POWER_ON -/

/-- The groves whose spare a retired core has taken, with those of the record's map. -/
theorem getLsbD_spares (l : List (BitVec 8)) (m : BitVec 16) (g : Nat) (hg : g < 16) :
    (l.foldl (fun (m : BitVec 16) k => m ||| (1 <<< (k.toNat / 16))) m).getLsbD g = true ↔
      m.getLsbD g = true ∨ ∃ k ∈ l, k.toNat / 16 = g := by
  induction l generalizing m with
  | nil => simp
  | cons k l ih =>
    have hone : ((1 <<< (k.toNat / 16) : Nat) : BitVec 16).getLsbD g = decide (k.toNat / 16 = g) := by
      rw [BitVec.natCast_eq_ofNat, BitVec.getLsbD_ofNat, Nat.one_shiftLeft, Nat.testBit_two_pow]
      simp [hg]
    have hbit : (m ||| (1 <<< (k.toNat / 16))).getLsbD g = true ↔ m.getLsbD g = true ∨ k.toNat / 16 = g := by
      rw [BitVec.getLsbD_or, hone, Bool.or_eq_true, decide_eq_true_eq]
    rw [List.foldl_cons, ih, hbit, List.exists_mem_cons_iff, or_assoc]

theorem State.bringUp_ready (s : State) (i : PowerOn) (h : i.failStep = 0 ∨ 5 < i.failStep) : s.bringUp i = { State.reset with
    agenda := s.agenda, ticks := s.ticks, nextId := s.nextId, retired := s.retired, peer := i.peer, prio := i.prio
    spareCores := s.retired.foldl (fun m k => m ||| (1 <<< (k.toNat / 16))) i.spares, step := 0, ready := true } := by
  unfold State.bringUp
  dsimp only
  rw [if_neg (by omega), if_neg (by omega), if_neg (by omega)]
theorem State.bringUp_failed (s : State) (i : PowerOn) (h1 : 1 ≤ i.failStep) (h5 : i.failStep ≤ 5) :
    let u := s.bringUp i
    u.ready = false ∧ u.fail = true ∧ u.step.toNat = i.failStep ∧ u.fcode.toNat = i.failStep ∧ u.mem = [] ∧ u.warps = [] ∧
      u.agenda = s.agenda ∧ u.retired = s.retired := by
  unfold State.bringUp
  dsimp only
  rw [if_pos ⟨h1, h5⟩]
  have hstep : (BitVec.ofNat 3 i.failStep).toNat = i.failStep := by rw [BitVec.toNat_ofNat]; omega
  have hcode : (BitVec.ofNat 8 i.failStep).toNat = i.failStep := by rw [BitVec.toNat_ofNat]; omega
  split <;> split <;> exact ⟨rfl, rfl, hstep, hcode, rfl, rfl, rfl, rfl⟩

/-! #### Records of errors -/

/-- From `s` to `u` fault records alone are written. -/
def RecordsOnly (s u : State) : Prop := { u with faultQ := s.faultQ, faultHeld := s.faultHeld, nextId := s.nextId } = s
/-- CORE of a record that a compute die or a fabric die writes (R166). -/
def Coded (die : Nat) (r : FaultRec) : Prop :=
  (die < 4 → r.core = 0x8000 + die) ∧ (die = 4 ∨ die = 5 → r.core = 0xC000 + (die - 4))

theorem State.fault_only (s : State) (r : FaultRec) (h : r.kind ≠ 0) : RecordsOnly s (s.fault r) := by
  unfold RecordsOnly
  rw [State.fault_eq, s.fault_faultOpen r h]
theorem RecordsOnly.trans {s t u : State} (h : RecordsOnly s t) (h' : RecordsOnly t u) : RecordsOnly s u :=
  Eq.trans (congrArg (fun x : State => { x with faultQ := s.faultQ, faultHeld := s.faultHeld, nextId := s.nextId }) h') h
theorem State.dieCore_coded (s : State) (die : Nat) :
    (die < 4 → s.dieCore die = 0x8000 + die) ∧ (die = 4 ∨ die = 5 → s.dieCore die = 0xC000 + (die - 4)) := by
  unfold State.dieCore
  refine ⟨fun h => if_pos h, fun h => ?_⟩
  rw [if_neg (by omega), if_pos (by omega)]
theorem State.softRec_only (s : State) (c : CtxId) (cause : Cause) (addr : DWord) (die : Nat) :
    RecordsOnly s (s.softRec c cause addr die) := s.fault_only _ (by decide : (5 : Nat) ≠ 0)
theorem State.softRec_records (s : State) (c : CtxId) (cause : Cause) (addr : DWord) (die : Nat) : ∃ r : FaultRec,
    (s.softRec c cause addr die).faults = s.faults ++ [r] ∧ r.kind = 5 ∧ r.cause = cause ∧ r.ctx = c ∧ r.va = addr ∧ Coded die r :=
  ⟨_, s.fault_faults _, rfl, rfl, rfl, rfl, s.dieCore_coded die⟩
theorem State.ctx_softRec (s : State) (c d : CtxId) (cause : Cause) (addr : DWord) (die : Nat) :
    (s.softRec c cause addr die).ctx d = s.ctx d := by
  rw [State.softRec, State.ctx, State.fault_ctxs]; rfl

/-- SCRUB_PASS: one record for each corrected word, in order (R400, R401). -/
theorem State.scrub_records (l : List (Nat × DWord)) (s : State) : ∃ rs : List FaultRec,
    let u := l.foldl (fun s e => s.softRec 0 0x340 e.2 e.1) s
    RecordsOnly s u ∧ u.faults = s.faults ++ rs ∧ rs.length = l.length ∧
      ∀ (n : Nat) (e : Nat × DWord) (r : FaultRec), l[n]? = some e → rs[n]? = some r →
        r.kind = 5 ∧ r.cause = 0x340 ∧ r.va = e.2 ∧ Coded e.1 r := by
  induction l generalizing s with
  | nil => exact ⟨[], rfl, by simp, rfl, by simp⟩
  | cons e l ih =>
    obtain ⟨rs, honly, hf, hlen, hrs⟩ := ih (s.softRec 0 0x340 e.2 e.1)
    obtain ⟨r, hr, hkind, hcause, -, hva, hcode⟩ := s.softRec_records 0 0x340 e.2 e.1
    refine ⟨r :: rs, (s.softRec_only _ _ _ _).trans honly, ?_, by simp [hlen], fun n e' r' he hr' => ?_⟩
    · rw [List.foldl_cons, hf, hr, List.append_assoc]; rfl
    · cases n with
      | zero => cases he; cases hr'; exact ⟨hkind, hcause, hva, hcode⟩
      | succ n => exact hrs n e' r' he hr'

/-! #### SOFT_ERROR -/

/-- An operand-buffer unit belongs to the first record that covers it (R235). -/
theorem State.contextAt_obUnit (s : State) (k n x : Nat) (hn : n < 32) (hst : ((s.core k).resvAt n).state ≠ .free)
    (hlo : ((s.core k).resvAt n).base ≤ x) (hhi : x < ((s.core k).resvAt n).base + ((s.core k).resvAt n).size)
    (hfirst : ∀ m, m < n → ((s.core k).resvAt m).state = .free ∨ x < ((s.core k).resvAt m).base ∨
      ((s.core k).resvAt m).base + ((s.core k).resvAt m).size ≤ x) :
    s.contextAt (.obUnit k x) = ((s.core k).resvAt n).state.holder ((s.core k).resvAt n).ctx := by
  have hfind : (List.range 32).find? (fun n => ((s.core k).resvAt n).state != .free && decide (((s.core k).resvAt n).base ≤ x) &&
      decide (x < ((s.core k).resvAt n).base + ((s.core k).resvAt n).size)) = some n := by
    rw [List.find?_range_eq_some]
    refine ⟨by simp [hst, hlo, hhi], List.mem_range.2 hn, fun m hm => ?_⟩
    rcases hfirst m hm with h | h | h
    · simp [h]
    · simp [Nat.not_le.2 h]
    · simp [Nat.not_lt.2 h]
  unfold State.contextAt
  dsimp only
  rw [hfind]; rfl

/-- An error outside any context writes no fault record of its own in its place. -/
theorem State.spoil_faults (s : State) (p : SoftPlace) : (s.spoil p).faults = s.faults := by
  cases p with
  | memory a => unfold State.spoil; dsimp only; split <;> rfl
  | canopyCopy d p l => rfl
  | band _ _ => rfl
  | obUnit _ _ => rfl
  | record _ _ => rfl
  | slot _ _ => rfl
  | context _ => rfl
  | other => rfl
/-- Only the two places that R400 names change. -/
theorem State.spoil_other (s : State) (p : SoftPlace) (hm : ∀ a, p ≠ .memory a) (hc : ∀ d q l, p ≠ .canopyCopy d q l) :
    s.spoil p = s := by
  cases p with
  | memory a => exact absurd rfl (hm a)
  | canopyCopy d p l => exact absurd rfl (hc d p l)
  | band _ _ => rfl
  | obUnit _ _ => rfl
  | record _ _ => rfl
  | slot _ _ => rfl
  | context _ => rfl
  | other => rfl
/-- A word of memory keeps its poisoned ECC. -/
theorem State.spoil_memory (s : State) (a : Nat) : ∃ ps, s.spoil (.memory a) = { s with poison := ps } ∧ a / 8 * 8 ∈ ps ∧
    ∀ x, x ∈ ps → x ∈ s.poison ∨ x = a / 8 * 8 := by
  unfold State.spoil
  dsimp only
  split
  · next h => exact ⟨s.poison, rfl, by simpa using h, fun x hx => .inl hx⟩
  · exact ⟨_, rfl, by simp, fun x hx => by simpa using hx⟩
/-- A clean canopy copy is dropped. -/
theorem Die.dropLine_line (d : Die) (p : Peer) (l : Nat) (h : l < 2 ^ 33) : d.dropLine p l =
    { d with epoch := d.epoch + 1, copies := d.copies.filter (fun e => e.1 / 128 != p.toNat * 2 ^ 33 + l) } := by
  have hline : ¬l = anyLine := by unfold anyLine; omega
  have hkey : copyKey p (l * 128) / 128 = p.toNat * 2 ^ 33 + l := by unfold copyKey; omega
  have hon : ∀ key, onCopyLine p l key = (key / 128 == p.toNat * 2 ^ 33 + l) := fun key => by
    rw [onCopyLine, if_neg hline, hkey]
  unfold Die.dropLine
  simp only [hon]; rfl

/-- An uncorrected error outside any context (R400). -/
theorem softError_outside (s : State) (i : SoftError) (hc : i.corrected = false) (hn : s.contextAt i.place = none) :
    exec (.softError i) s = .next ((s.spoil i.place).softRec 0 0x342 i.addr i.die) := by
  rw [exec_softError, execSoftError, hc, hn]; rfl
/-- An uncorrected error in a context's place. -/
theorem softError_inside (s : State) (i : SoftError) (c : CtxId) (hc : i.corrected = false) (hn : s.contextAt i.place = some c) :
    exec (.softError i) s = .next ((s.softRec c 0x341 i.addr i.die).discardCtx c 0x341 (i.die % 4)) := by
  rw [exec_softError, execSoftError, hc, hn]; rfl
theorem softError_corrected (s : State) (i : SoftError) (hc : i.corrected = true) :
    exec (.softError i) s = .next (s.softRec 0 0x340 i.addr i.die) := by
  rw [exec_softError, execSoftError, hc]; rfl
end Sys2Proof.Machine
end

section
namespace Sys2Proof.Machine
/-! ### Repair, time and the election (R321, R323, R402) -/

/-- Candidate `a` comes before `b` or is level with it: the lower priority, then the lower peer number. -/
def NotAfter (a b : BitVec 16 × Peer) : Prop := a.1.toNat < b.1.toNat ∨ (a.1 = b.1 ∧ a.2.toNat ≤ b.2.toNat)

theorem before_iff (a b : BitVec 16 × Peer) : before a b = true ↔ a.1.toNat < b.1.toNat ∨ (a.1 = b.1 ∧ a.2.toNat < b.2.toNat) := by
  simp [before]
theorem NotAfter.of_before {a b : BitVec 16 × Peer} (h : before a b = true) : NotAfter a b :=
  ((before_iff a b).1 h).imp id (fun h => ⟨h.1, h.2.le⟩)
theorem NotAfter.of_not_before {a b : BitVec 16 × Peer} (h : ¬before b a = true) : NotAfter a b := by
  rw [before_iff, BitVec.toNat_eq] at h
  unfold NotAfter
  rw [BitVec.toNat_eq]
  omega
theorem NotAfter.trans {a b c : BitVec 16 × Peer} (h : NotAfter a b) (h' : NotAfter b c) : NotAfter a c := by
  unfold NotAfter at *
  rw [BitVec.toNat_eq] at *
  omega
/-- The candidate kept of the one kept so far and the next. -/
def better (b : Option (BitVec 16 × Peer)) (c : BitVec 16 × Peer) : Option (BitVec 16 × Peer) :=
  match b with
  | none => some c
  | some d => if before c d then some c else some d
theorem better_some (l : List (BitVec 16 × Peer)) (d : BitVec 16 × Peer) :
    ∃ w ∈ d :: l, l.foldl better (some d) = some w ∧ ∀ c ∈ d :: l, NotAfter w c := by
  induction l generalizing d with
  | nil => exact ⟨d, by simp, rfl, fun c hc => by rw [List.mem_singleton.1 hc]; exact .inr ⟨rfl, le_rfl⟩⟩
  | cons c l ih =>
    have hstep : ∃ e, (e = c ∨ e = d) ∧ better (some d) c = some e ∧ NotAfter e c ∧ NotAfter e d := by
      by_cases h : before c d = true
      · exact ⟨c, .inl rfl, if_pos h, .inr ⟨rfl, le_rfl⟩, .of_before h⟩
      · exact ⟨d, .inr rfl, if_neg h, .of_not_before h, .inr ⟨rfl, le_rfl⟩⟩
    obtain ⟨e, he, hbetter, hec, hed⟩ := hstep
    obtain ⟨w, hw, hfold, hall⟩ := ih e
    have hwe : NotAfter w e := hall e List.mem_cons_self
    refine ⟨w, ?_, by rw [List.foldl_cons, hbetter, hfold], fun x hx => ?_⟩
    · rcases List.mem_cons.1 hw with rfl | hw
      · rcases he with rfl | rfl <;> simp
      · simp [hw]
    · rcases List.mem_cons.1 hx with rfl | hx
      · exact hwe.trans hed
      · rcases List.mem_cons.1 hx with rfl | hx
        · exact hwe.trans hec
        · exact hall x (List.mem_cons_of_mem _ hx)
/-- Some candidate wins: none comes before it (R323). -/
theorem better_wins (l : List (BitVec 16 × Peer)) (h : l ≠ []) :
    ∃ w ∈ l, l.foldl better none = some w ∧ ∀ c ∈ l, NotAfter w c := by
  cases l with
  | nil => exact absurd rfl h
  | cons d l => exact better_some l d
end Sys2Proof.Machine
end

section
namespace Sys2Proof.Machine

/-! #### The ringmaster's election -/

/-- The candidates of an election, this package among them (R323). -/
def State.entrants (s : State) (i : Election) : List (BitVec 16 × Peer) :=
  if i.candidates.any (fun c => c.2 == s.peer) then i.candidates else i.candidates ++ [(s.prio, s.peer)]
theorem State.entrants_eq (s : State) (i : Election) : s.entrants i =
    if (∃ c ∈ i.candidates, c.2 = s.peer) then i.candidates else i.candidates ++ [(s.prio, s.peer)] := by
  have hany : i.candidates.any (fun c => c.2 == s.peer) = true ↔ ∃ c ∈ i.candidates, c.2 = s.peer := by simp
  unfold State.entrants
  by_cases h : ∃ c ∈ i.candidates, c.2 = s.peer
  · rw [if_pos h, if_pos (hany.2 h)]
  · rw [if_neg h, if_neg (fun e => h (hany.1 e))]
theorem State.entrants_ne (s : State) (i : Election) : s.entrants i ≠ [] := by
  unfold State.entrants
  split
  · next h =>
    intro e
    rw [e] at h
    exact Bool.noConfusion h
  · simp
theorem exec_ringmasterElection (i : Election) (s : State) : ∃ w ∈ s.entrants i, (∀ c ∈ s.entrants i, NotAfter w c) ∧
    exec (.ringmasterElection i) s = .next { s with
      ringmaster := some w.2, clearing := (s.entrants i).map (·.2)
      offset := if (some w.2 == some s.peer) = true then 0 else s.offset, syncErr := !(some w.2 == some s.peer) && s.syncErr
      links := Tab.map (fun _ (l : Link) => l.admitted ((s.entrants i).map (·.2))) s.links } := by
  obtain ⟨w, hw, hfold, hall⟩ := better_wins (s.entrants i) (s.entrants_ne i)
  refine ⟨w, hw, hall, ?_⟩
  have hexec : exec (.ringmasterElection i) s = .next { s with
      ringmaster := ((s.entrants i).foldl better none).map (·.2), clearing := (s.entrants i).map (·.2)
      offset := if (((s.entrants i).foldl better none).map (·.2) == some s.peer) = true then 0 else s.offset
      syncErr := !(((s.entrants i).foldl better none).map (·.2) == some s.peer) && s.syncErr
      links := Tab.map (fun _ (l : Link) => l.admitted ((s.entrants i).map (·.2))) s.links } := rfl
  rw [hexec, hfold]; rfl
/-- Keyed ports to peers of the clearing are Up (R350). -/
theorem Link.admitted_eq (l : Link) (ps : List Peer) :
    l.admitted ps = if l.state = 3 ∧ l.peer ∈ ps then { l with state := 4 } else l := by
  unfold Link.admitted
  simp only [List.contains_iff_mem]
theorem State.link_admitted (s : State) (ps : List Peer) (p : Nat) :
    Tab.get {} (Tab.map (fun _ (l : Link) => l.admitted ps) s.links) p = (s.link p).admitted ps :=
  Tab.get_map {} (fun _ (l : Link) => l.admitted ps) (fun _ => rfl) s.links p

/-! ### Shootdowns (08_page.md R167, R291) -/

theorem exec_shootdownStart (c : CtxId) (s : State) : exec (.shootdownStart c) s =
    .next (if s.sdBusy = true then s else { s with sdBusy := true, sdCtx := c }.setReg 0x2010 (c.setWidth 64 <<< 32)) := rfl

/-- The package with its shootdown ended and the translations in range dropped, before the lines that nothing maps start over. -/
def State.shot (s : State) : State :=
  { s with sdBusy := false, tlb := s.tlb.filter (fun e => !(e.ctx == s.sdCtx && s.inShootdown e.vpage)) }
theorem exec_shootdownDone_idle (s : State) (h : s.sdBusy = false ∨ s.usesRange s.sdCtx = true) :
    exec .shootdownDone s = .next s := by
  refine congrArg Host.Outcome.next (if_neg ?_)
  rcases h with h | h <;> simp [h]
theorem exec_shootdownDone_over (s : State) (hb : s.sdBusy = true) (hu : s.usesRange s.sdCtx = false) :
    exec .shootdownDone s = .next s.shot.unmapped := by
  refine congrArg Host.Outcome.next (if_pos ?_)
  rw [hb, hu]; rfl
theorem State.inShootdown_iff (s : State) (page : Nat) : s.inShootdown page = true ↔
    ((s.reg 0x2000).extractLsb' 12 52).toNat ≤ page ∧ page ≤ ((s.reg 0x2008).extractLsb' 12 52).toNat := by
  rw [State.inShootdown, Bool.and_eq_true, decide_eq_true_iff, decide_eq_true_iff, BitVec.extractLsb'_toNat, BitVec.extractLsb'_toNat]
  rfl
/-- The translations of the context in the range are dropped. -/
theorem State.mem_shot_tlb (s : State) (e : TlbEntry) :
    e ∈ s.shot.tlb ↔ e ∈ s.tlb ∧ ¬(e.ctx = s.sdCtx ∧ s.inShootdown e.vpage = true) := by
  simp only [State.shot, List.mem_filter, Bool.not_eq_true', Bool.and_eq_false_iff, beq_eq_false_iff_ne]
  rw [not_and_or, Bool.not_eq_true]
/-- Of the versioned mappings known in the range, those stay to which the tables still lead (R291; log entry 78). -/
theorem State.mem_unmapped_mapped (s : State) (m : CtxId × Nat × Nat) : m ∈ s.unmapped.mapped ↔ m ∈ s.mapped ∧
    (¬(m.1 = s.sdCtx ∧ s.inShootdown m.2.1 = true) ∨ s.leadsFrom m.1 m.2.2 (BitVec.ofNat 64 (m.2.1 * 4096)) = true) := by
  simp only [State.unmapped, List.mem_filter, Bool.or_eq_true, Bool.not_eq_true', Bool.and_eq_false_iff, beq_eq_false_iff_ne]
  rw [not_and_or, Bool.not_eq_true]

/-- Whether something still maps a versioned page: a known mapping, a cached translation or a table. -/
def State.keeps (s : State) (page : Nat) : Prop :=
  (∃ m ∈ s.mapped, m.2.2 = page) ∨ (∃ e ∈ s.tlb, e.trans.vers = true ∧ e.trans.page = page * 4096) ∨
    ∃ e ∈ s.ctxs, s.tablesMap (BitVec.ofNat 12 e.1) page = true
/-- The chains of a page that nothing maps start over, unless a transaction holds them. -/
theorem State.chain_unmapped (s : State) (hr : Tab.rising none s.chains = true) (l : Nat) :
    let kept := State.keeps { s with mapped := s.unmapped.mapped } (l * 128 / 4096)
    (¬kept ∧ (s.chain l).tentative = none → s.unmapped.chain l = s.newChain) ∧
    (kept ∨ (s.chain l).tentative ≠ none → s.unmapped.chain l = s.chain l) := by
  intro kept
  let v : State := { s with mapped := s.unmapped.mapped }
  let p : Nat × Chain → Bool := fun c => c.2.tentative.isSome || (v.mapped.any (fun m => m.2.2 == c.1 * 128 / 4096) ||
    v.tlb.any (fun e => e.trans.vers && e.trans.page == c.1 * 128 / 4096 * 4096) ||
    v.ctxs.any (fun e => v.tablesMap (BitVec.ofNat 12 e.1) (c.1 * 128 / 4096)))
  have hp : p (l, s.chain l) = true ↔ (s.chain l).tentative ≠ none ∨ kept := by
    simp only [p, kept, v, State.keeps, Bool.or_eq_true, List.any_eq_true, Bool.and_eq_true, beq_iff_eq, Option.isSome_iff_ne_none, or_assoc]
  have hchain : s.unmapped.chain l = if p (l, s.chain l) = true then s.chain l else s.newChain :=
    Tab.get_filter s.newChain p s.chains none hr l
  rw [hchain]
  constructor
  · rintro ⟨hk, ht⟩
    exact if_neg (fun e => (hp.1 e).elim (fun h => h ht) hk)
  · exact fun h => if_pos (hp.2 h.symm)
end Sys2Proof.Machine
end

section
/-! ### Writes of window registers (R3, R4, R69) -/
namespace Sys2Proof.Machine

theorem State.setReg_win (s : State) (o : Nat) (v : DWord) : { s.setReg o v with win := s.win } = s := rfl
/-- A register that takes no write while `b` holds. -/
theorem State.setReg_unless (s : State) (b : Bool) (o : Nat) (v : DWord) :
    let u := if b = true then s else s.setReg o v
    { u with win := s.win } = s ∧ (b = true → u = s) ∧ (b = false → ∀ p, u.reg p = if p = o then v else s.reg p) := by
  cases b with
  | true => exact ⟨rfl, fun _ => rfl, fun h => Bool.noConfusion h⟩
  | false => exact ⟨s.setReg_win o v, fun h => Bool.noConfusion h, fun _ p => s.reg_setReg o p v⟩
theorem exec_registerWrite (i : RegWrite) (s : State) : exec (.registerWrite i) s = .next (s.writeReg i.off i.val) := rfl

/-- The writable bits of a register that has no meaning beyond what it holds. -/
def plainBits (off : Nat) : Option DWord :=
  if off = 0x2000 ∨ off = 0x2008 then some 0xFFFFFFFFFFFFFFFF
  else if 0x7000 ≤ off ∧ off < 0x9000 ∧ off % 32 = 0 then some 0x000000FFFFFFFFC0
  else if 0x7000 ≤ off ∧ off < 0x9000 ∧ off % 32 = 8 then some 0x0000FFFF0FFF8FFF
  else if off = 0x9400 then some 0xFFFF else none

theorem State.writeReg_plain (s : State) (off : Nat) (v m : DWord) (h : plainBits off = some m) :
    s.writeReg off v = s.setReg off (v &&& m) := by
  unfold plainBits at h
  unfold State.writeReg
  split at h
  · next ho =>
    cases h
    rw [if_neg (by omega), if_pos ho, show (0xFFFFFFFFFFFFFFFF : DWord) = BitVec.allOnes 64 from rfl, BitVec.and_allOnes]
  · next ho =>
    split at h
    · next h7 =>
      cases h
      rw [if_neg (by omega), if_neg ho, if_neg (by omega), if_neg (by omega), if_neg (by omega), if_neg (by omega),
        if_neg (by omega), if_pos h7]
    · next h7 =>
      split at h
      · next h8 =>
        cases h
        rw [if_neg (by omega), if_neg ho, if_neg (by omega), if_neg (by omega), if_neg (by omega), if_neg (by omega),
          if_neg (by omega), if_neg h7, if_pos h8]
      · split at h
        · next h9 => cases h; subst h9; rfl
        · cases h
/-- A write where there is no writable field changes nothing. -/
theorem State.writeReg_none (s : State) (off : Nat) (v : DWord) (h : plainBits off = none) (hcsr : off < 0x100000000)
    (h2 : off ≠ 0x2010) (ha : off ≠ 0xA000) (h62 : off ≠ 0x6200) (h64 : off ≠ 0x6400) (h68 : off ≠ 0x6800)
    (h3 : ¬(0x3000 ≤ off ∧ off < 0x4000 ∧ off % 8 = 0)) : s.writeReg off v = s := by
  unfold plainBits at h
  split at h
  · cases h
  · next ho =>
    split at h
    · cases h
    · next h7 =>
      split at h
      · cases h
      · next h8 =>
        split at h
        · cases h
        · next h9 =>
          unfold State.writeReg
          rw [if_neg (by omega), if_neg ho, if_neg h2, if_neg h3, if_neg h62, if_neg h64, if_neg h68, if_neg h7, if_neg h8,
            if_neg h9, if_neg ha]
theorem State.writeReg_sdCtl (s : State) (v : DWord) :
    s.writeReg 0x2010 v = if v.getLsbD 0 = true then s else s.setReg 0x2010 (v &&& 0x00000FFF00000000) := rfl
theorem State.writeReg_repairCtl (s : State) (v : DWord) :
    s.writeReg 0xA000 v = if v.getLsbD 8 = true then s else s.setReg 0xA000 (v &&& 0xFF) := rfl
theorem State.writeReg_ctxTable (s : State) (v : DWord) : s.writeReg 0x6200 v =
    (List.range 4096).foldl (fun s c => s.validWritten (BitVec.ofNat 12 c)) (s.setReg 0x6200 (v &&& 0x000000FFFFFE0000)) := rfl
theorem State.writeReg_ctxCmd (s : State) (v : DWord) :
    s.writeReg 0x6400 v = if s.ctxBusy = true then s else s.setReg 0x6400 (v &&& 0x00000FFF00000000) := rfl
theorem State.writeReg_dbgCmd (s : State) (v : DWord) : s.writeReg 0x6800 v =
    if (s.dbgBusy || !s.granted (v.extractLsb' 32 12)) = true then s else s.setReg 0x6800 (v &&& 0x7FFFFFFF00000000) := rfl
theorem State.writeReg_queue (s : State) (off : Nat) (v : DWord) (h : 0x3000 ≤ off ∧ off < 0x4000 ∧ off % 8 = 0) :
    s.writeReg off v = s.writeQueue (off - 0x3000) v := by
  unfold State.writeReg
  rw [if_neg (by omega), if_neg (by omega), if_neg (by omega), if_pos h]
theorem State.writeReg_csr (s : State) (c n : Nat) (v : DWord) (hn : n < 0x1000) :
    s.writeReg (0x100000000 + c * 0x1000 + n) v = s.writeCsr c n v := by
  have hc : (0x100000000 + c * 0x1000 + n - 0x100000000) / 0x1000 = c := by omega
  have hm : (0x100000000 + c * 0x1000 + n) % 0x1000 = n := by omega
  rw [State.writeReg, if_pos (by omega), hc, hm]
/-- A command is taken with the debug right while none is in progress (R393). -/
theorem State.dbgWritten_iff (s : State) (c : CtxId) :
    (s.dbgBusy || !s.granted c) = false ↔ s.dbgBusy = false ∧ (s.ctx c).dbgRight.getLsbD 0 = true := by
  rw [Bool.or_eq_false_iff, Bool.not_eq_false', State.granted]
/-- A CSR that the privileged view only reads, or that no row names, takes no write (R69). -/
theorem State.writeCsr_readonly (s : State) (c n : Nat) (v : DWord) (r : Nat × Nat) (h : csrRights n = some r) (hr : r.2 < 2) :
    s.writeCsr c n v = s := by
  unfold State.writeCsr
  rw [h]
  exact if_pos hr
theorem State.writeCsr_unassigned (s : State) (c n : Nat) (v : DWord) (h : csrRights n = none) : s.writeCsr c n v = s := by
  unfold State.writeCsr
  rw [h]
theorem State.writeCsr_stallLimit (s : State) (c : Nat) (v : DWord) :
    s.writeCsr c 0x030 v = { s with stallLimit := v.setWidth 16 } := rfl
theorem State.writeCsr_snapMaxAge (s : State) (c : Nat) (v : DWord) :
    s.writeCsr c 0x031 v = { s with snapMaxAge := v.setWidth 32 } := rfl

theorem State.taskq_setTaskq (s : State) (d q e m : Nat) (x : TaskQueue) :
    (s.setTaskq d q x).taskq e m = if e = d ∧ m = q then x else s.taskq e m := by
  unfold State.taskq State.setTaskq
  dsimp only
  rw [State.die_setDie]
  by_cases he : e = d
  · rw [if_pos he, Tab.get_set]
    by_cases hm : m = q
    · rw [if_pos hm, if_pos ⟨he, hm⟩]
    · rw [if_neg hm, if_neg (fun h => hm h.2), he]
  · rw [if_neg he, if_neg (fun h => he h.1)]
/-- 8 bytes of one task queue descriptor are written (R251). -/
theorem State.writeQueue_eq (s : State) (off : Nat) (v : DWord) (h : 0x3000 ≤ off ∧ off < 0x4000 ∧ off % 8 = 0) :
    let q := s.taskq ((off - 0x3000) / 0x400) (off / 0x10 % 64)
    s.writeQueue (off - 0x3000) v = s.setTaskq ((off - 0x3000) / 0x400) (off / 0x10 % 64) { q with
      desc := if off % 16 = 0 then q.desc.extractLsb' 64 64 ++ (v &&& 0xFFFF1FFF00000003)
        else (v &&& 0x000FFFFFFFFFFFFF) ++ q.desc.extractLsb' 0 64 } := by
  have hd : (off - 0x3000) / 0x400 % 4 = (off - 0x3000) / 0x400 := by omega
  have hq : (off - 0x3000) / 0x10 % 64 = off / 0x10 % 64 := by omega
  have hm : (off - 0x3000) % 0x10 = off % 16 := by omega
  unfold State.writeQueue
  rw [hd, hq, hm]

/-! #### VALID of a descriptor (R326, R327) -/

theorem State.validWritten_keeps (s : State) (c : CtxId) :
    (s.validWritten c).warps = s.warps ∧ (s.validWritten c).cores = s.cores ∧ (s.validWritten c).win = s.win := by
  unfold State.validWritten
  dsimp only
  split
  · exact ⟨rfl, rfl, rfl⟩
  · split <;> exact ⟨rfl, rfl, rfl⟩
theorem State.validWritten_all {α : Type} (l : List α) (f : α → CtxId) (s : State) :
    let u := l.foldl (fun s a => s.validWritten (f a)) s
    u.warps = s.warps ∧ u.cores = s.cores ∧ u.win = s.win :=
  List.foldlRecOn (motive := fun u : State => u.warps = s.warps ∧ u.cores = s.cores ∧ u.win = s.win) l _ ⟨rfl, rfl, rfl⟩
    (fun u ⟨hw, hc, hv⟩ a _ => by
      obtain ⟨hw', hc', hv'⟩ := u.validWritten_keeps (f a)
      exact ⟨hw'.trans hw, hc'.trans hc, hv'.trans hv⟩)
/-- Placing the table of contexts notices VALID of each, and no warp changes. -/
theorem State.writeReg_ctxTable_keeps (s : State) (v : DWord) :
    (s.writeReg 0x6200 v).reg 0x6200 = v &&& 0x000000FFFFFE0000 ∧ (s.writeReg 0x6200 v).warps = s.warps := by
  obtain ⟨hw, -, hwin⟩ := State.validWritten_all (List.range 4096) (BitVec.ofNat 12) (s.setReg 0x6200 (v &&& 0x000000FFFFFE0000))
  rw [State.writeReg_ctxTable]
  refine ⟨?_, hw⟩
  rw [State.reg, hwin]
  exact (s.reg_setReg 0x6200 0x6200 _).trans (if_pos rfl)
theorem State.state_validWritten (s : State) (c : CtxId) : ((s.validWritten c).ctx c).state =
    if s.descValid c = true then (if (s.ctx c).state = .free then .idle else (s.ctx c).state)
    else if (s.ctx c).state = .idle ∨ (s.ctx c).state = .saved then .free else (s.ctx c).state := by
  unfold State.validWritten
  dsimp only
  by_cases hv : s.descValid c = true
  · rw [if_pos hv]
    by_cases hs : (s.ctx c).state = .free
    · rw [if_pos ⟨hv, hs⟩, if_pos hs, State.ctx_setCState_same]
    · rw [if_neg (fun h => hs h.2), if_neg (fun h => absurd hv (by simp [h.1])), if_neg hs]
  · have hv' : s.descValid c = false := by simpa using hv
    rw [if_neg hv, if_neg (fun h => hv h.1)]
    by_cases hs : (s.ctx c).state = .idle ∨ (s.ctx c).state = .saved
    · rw [if_pos ⟨hv', hs⟩, if_pos hs, State.ctx_setCState_same]
    · rw [if_neg (fun h => hs h.2), if_neg hs]

/-! ### Writes of package memory (R326, R327) -/

theorem exec_hostMemoryWrite (i : HostWrite) (s : State) : exec (.hostMemoryWrite i) s = execHostMemoryWrite i s := rfl

/-- The package with the bytes written, and VALID of no descriptor noticed yet. -/
def State.hostWritten (s : State) (i : HostWrite) : State := (s.endLeases i.addr i.bytes.length).setBytes i.addr i.bytes
/-- The addresses written that hold VALID of a descriptor. -/
def State.validBytes (s : State) (i : HostWrite) : List Nat :=
  ((List.range i.bytes.length).map (fun n => i.addr + n)).filter (fun a =>
    decide (s.descAddr 0 ≤ a) && decide (a < s.descAddr 0 + 0x20000) && (a - s.descAddr 0) % 32 == 27)
theorem State.descAddr_hostWritten (s : State) (i : HostWrite) (c : CtxId) : (s.hostWritten i).descAddr c = s.descAddr c := rfl

theorem hostMemoryWrite_beyond (s : State) (i : HostWrite) (h : 0xC000000000 < i.addr + i.bytes.length) :
    exec (.hostMemoryWrite i) s = .fault (.noSuchAddress (max i.addr 0xC000000000)) := if_pos h
theorem hostMemoryWrite_within (s : State) (i : HostWrite) (h : i.addr + i.bytes.length ≤ 0xC000000000) :
    exec (.hostMemoryWrite i) s = .next ((s.validBytes i).foldl
      (fun t a => t.validWritten (BitVec.ofNat 12 ((a - s.descAddr 0) / 32))) (s.hostWritten i)) := by
  have h : ¬memTop < i.addr + i.bytes.length := Nat.not_lt.2 h
  rw [exec_hostMemoryWrite, execHostMemoryWrite, if_neg h]
  rfl
theorem hostMemoryWrite_within_keeps (s : State) (i : HostWrite) (h : i.addr + i.bytes.length ≤ 0xC000000000) :
    ∃ u, exec (.hostMemoryWrite i) s = .next u ∧ u = (s.validBytes i).foldl
      (fun t a => t.validWritten (BitVec.ofNat 12 ((a - s.descAddr 0) / 32))) (s.hostWritten i) ∧ u.warps = s.warps ∧ u.cores = s.cores := by
  obtain ⟨hw, hc, -⟩ := State.validWritten_all (s.validBytes i) (fun a => BitVec.ofNat 12 ((a - s.descAddr 0) / 32)) (s.hostWritten i)
  exact ⟨_, hostMemoryWrite_within s i h, rfl, hw, hc⟩
theorem State.hostWritten_frame (s : State) (i : HostWrite) :
    { s.hostWritten i with mem := s.mem, leases := s.leases } = s := rfl
theorem State.byte_hostWritten_in (s : State) (i : HostWrite) (n : Nat) (h : n < i.bytes.length) :
    (s.hostWritten i).byte (i.addr + n) = i.bytes.getD n 0 := by
  rw [State.hostWritten, State.byte_setBytes_in _ _ _ _ h, List.getD_eq_getElem _ _ h]
theorem State.byte_hostWritten_out (s : State) (i : HostWrite) (a : Nat) (h : a < i.addr ∨ i.addr + i.bytes.length ≤ a) :
    (s.hostWritten i).byte a = s.byte a := State.byte_setBytes_out _ _ _ _ h
theorem State.validBytes_none (s : State) (i : HostWrite) (h : ∀ a, i.addr ≤ a → a < i.addr + i.bytes.length →
    ¬(s.descAddr 0 ≤ a ∧ a < s.descAddr 0 + 0x20000 ∧ (a - s.descAddr 0) % 32 = 27)) : s.validBytes i = [] := by
  unfold State.validBytes
  rw [List.filter_eq_nil_iff]
  intro a ha
  obtain ⟨n, hn, rfl⟩ := List.mem_map.1 ha
  have hn := List.mem_range.1 hn
  have := h (i.addr + n) (by omega) (by omega)
  simpa [and_assoc] using this
/-- The one byte that holds VALID of a context's descriptor. -/
theorem State.validBytes_one (s : State) (c : CtxId) (b : Byte) :
    s.validBytes ⟨s.descAddr c + 27, [b]⟩ = [s.descAddr c + 27] ∧ BitVec.ofNat 12 ((s.descAddr c + 27 - s.descAddr 0) / 32) = c := by
  have hoff : s.descAddr c = s.descAddr 0 + 32 * c.toNat := by simp [State.descAddr]
  have hc := c.isLt
  constructor
  · unfold State.validBytes
    generalize s.descAddr 0 = base at hoff ⊢
    generalize s.descAddr c = a at hoff ⊢
    simp
    omega
  · rw [show (s.descAddr c + 27 - s.descAddr 0) / 32 = c.toNat by omega, BitVec.ofNat_toNat, BitVec.setWidth_eq]
theorem State.descValid_hostWritten (s : State) (c : CtxId) (b : Byte) :
    (s.hostWritten ⟨s.descAddr c + 27, [b]⟩).descValid c = b.getLsbD 0 := by
  have hbytes : (s.hostWritten ⟨s.descAddr c + 27, [b]⟩).bytes (s.descAddr c + 27) 1 = [b] :=
    State.bytes_setBytes (s.endLeases (s.descAddr c + 27) 1) (s.descAddr c + 27) [b]
  rw [State.descValid, State.descAddr_hostWritten, State.num, hbytes]
  simp [natLE, BitVec.getLsbD]

/-! ### The rings (R166, R343, R396) -/

/-- The trace buffer holds 4096 records; those that do not fit stay held. -/
theorem State.traceIn_spec (s : State) : { s.traceIn with traceQ := s.traceQ, traceHeld := s.traceHeld } = s ∧
    s.traceIn.traceQ ++ s.traceIn.traceHeld = s.traceQ ++ s.traceHeld ∧
    (s.traceIn.traceHeld = [] ∨ 4096 ≤ s.traceIn.traceQ.length) := by
  unfold State.traceIn
  dsimp only
  refine ⟨rfl, by rw [List.append_assoc, List.take_append_drop], ?_⟩
  rw [List.drop_eq_nil_iff, List.length_append, List.length_take]
  omega
end Sys2Proof.Machine
end

section
/-! ### Outcomes of soft errors, repair and time frames (R321, R400, R402) -/
namespace Sys2Proof.Machine

theorem exec_softError_next (i : SoftError) (s : State) : ∃ u, exec (.softError i) s = .next u := by
  rw [exec_softError]
  unfold execSoftError
  split
  · exact ⟨_, rfl⟩
  · split <;> exact ⟨_, rfl⟩
/-- One record of 0x342, and the word poisoned or the copies of the line dropped, where the error lies there. -/
theorem State.spoil_softRec (s : State) (p : SoftPlace) (c : CtxId) (cause : Cause) (addr : DWord) (die : Nat) :
    let u := (s.spoil p).softRec c cause addr die
    (∃ r : FaultRec, u.faults = s.faults ++ [r] ∧ r.kind = 5 ∧ r.cause = cause ∧ r.ctx = c ∧ r.va = addr ∧ Coded die r) ∧
    (∀ a, p = .memory a → RecordsOnly s { u with poison := s.poison } ∧ a / 8 * 8 ∈ u.poison ∧
      ∀ x, x ∈ u.poison → x ∈ s.poison ∨ x = a / 8 * 8) ∧
    (∀ d q l, p = .canopyCopy d q l → l < 2 ^ 33 → RecordsOnly s { u with dies := s.dies } ∧ (∀ e, e ≠ d → u.die e = s.die e) ∧
      u.die d = { s.die d with epoch := (s.die d).epoch + 1
                               copies := (s.die d).copies.filter (fun e => e.1 / 128 != q.toNat * 2 ^ 33 + l) }) ∧
    ((∀ a, p ≠ .memory a) → (∀ d q l, p ≠ .canopyCopy d q l) → RecordsOnly s u) := by
  intro u
  have honly : RecordsOnly (s.spoil p) u := (s.spoil p).softRec_only c cause addr die
  refine ⟨?_, fun a hp => ?_, fun d q l hp hl => ?_, fun hm hc => ?_⟩
  · obtain ⟨r, hr, hrest⟩ := (s.spoil p).softRec_records c cause addr die
    exact ⟨r, by rw [hr, State.spoil_faults], hrest⟩
  · obtain ⟨ps, hps, hin, hsub⟩ := s.spoil_memory a
    have hu : { u with faultQ := s.faultQ, faultHeld := s.faultHeld, nextId := s.nextId } = { s with poison := ps } := by
      rw [hp, hps] at honly; exact honly
    have hpoison : u.poison = ps := congrArg State.poison hu
    rw [hpoison]
    have hrest : RecordsOnly s { u with poison := s.poison } :=
      Eq.trans (congrArg (fun x : State => { x with poison := s.poison }) hu) rfl
    exact ⟨hrest, hin, hsub⟩
  · have hu : { u with faultQ := s.faultQ, faultHeld := s.faultHeld, nextId := s.nextId } = s.setDie d ((s.die d).dropLine q l) := by
      rw [hp] at honly; exact honly
    have hdie : ∀ e, u.die e = if e = d then (s.die d).dropLine q l else s.die e := fun e =>
      (congrArg (fun x : State => x.die e) hu).trans (s.die_setDie d e _)
    have hrest : RecordsOnly s { u with dies := s.dies } :=
      Eq.trans (congrArg (fun x : State => { x with dies := s.dies }) hu) rfl
    refine ⟨hrest, fun e he => (hdie e).trans (if_neg he), ?_⟩
    rw [hdie, if_pos rfl, Die.dropLine_line _ _ _ hl]
  · rw [s.spoil_other p hm hc] at honly
    exact honly

/-- A context that is up and holds the place of an error is discarded, with a record of its own after the error's (R400). -/
theorem State.discardCtx_softRec (s : State) (c : CtxId) (addr : DWord) (die : Nat)
    (h : [CState.running, .stopped, .saved, .saving, .restoring].contains ((s.softRec c 0x341 addr die).ctx c).state = true) :
    let u := (s.softRec c 0x341 addr die).discardCtx c 0x341 (die % 4)
    (u.ctx c).state = .idle ∧ (∀ k, (u.warp k).ctx = c → (u.warp k).stat = .free) ∧
      ∃ r q : FaultRec, u.faults = s.faults ++ [r, q] ∧ r.kind = 5 ∧ r.cause = 0x341 ∧ r.va = addr ∧ Coded die r ∧
        q.kind = 4 ∧ q.cause = 0x341 ∧ q.ctx = c := by
  obtain ⟨r, hr, hkind, hcause, -, hva, hcode⟩ := s.softRec_records c 0x341 addr die
  obtain ⟨hidle, hwarps, q, hq, hq'⟩ := State.discardCtx_discards _ c 0x341 (die % 4) h
  refine ⟨hidle, hwarps, r, q, ?_, hkind, hcause, hva, hcode, hq'⟩
  rw [hq, hr, List.append_assoc]; rfl

theorem exec_coreRetireRequest (k : BitVec 8) (s : State) : exec (.coreRetireRequest k) s = .next (s.retireCore k) := rfl
/-- A request fails at once where the grove's spare is in use, else it waits for a switch (R402). -/
theorem State.retireCore_eq (s : State) (k : BitVec 8) : s.retireCore k = if s.spareCores.getLsbD (k.toNat / 16) = true then
      { s.setReg 0xA000 (k.setWidth 64) with repairBusy := false, repairFail := true }
    else { s.setReg 0xA000 (k.setWidth 64) with repairCore := k, repairBusy := true, repairFail := false } := rfl
theorem exec_ptpFrame (i : PtpFrame) (s : State) : exec (.ptpFrame i) s = .next { s with
    ppm := max (-200) (min 200 i.ppm), offset := i.offset, syncErr := decide (25 * 64 < i.offset.natAbs) } := by
  have hppm : max (-200) (min 200 i.ppm) = if 200 < i.ppm then 200 else if i.ppm < -200 then -200 else i.ppm := by omega
  rw [hppm]; rfl
end Sys2Proof.Machine
end

section
open Sys2Proof Sys2Proof.Machine

/-- Settles O54: the step of each event is given by its lemma above. -/
theorem healthEventsActOnThePackage : Obligations.HealthEventsActOnThePackage := by
  unfold Obligations.HealthEventsActOnThePackage
  intro s coded recorded only held
  have holds : ∀ c, held c ↔ [CState.running, .stopped, .saved, .saving, .restoring].contains (s.ctx c).state = true := fun c => by
    simp [held]
  refine ⟨fun i => ?_, fun i => ?_, fun i => ?_, fun c => ?_, fun k => ?_, rfl, rfl, fun i => ?_, fun i => ?_, fun c => ?_, fun h => ?_,
    fun hb hu => ?_, fun i => ?_, fun i => ?_, fun n => ?_⟩
  -- POWER_ON
  · refine ⟨_, exec_powerOn i s, fun h => ?_, s.bringUp_failed i⟩
    rw [s.bringUp_ready i h]
    exact ⟨rfl, fun g hg => getLsbD_spares s.retired i.spares g hg⟩
  -- SCRUB_PASS
  · obtain ⟨rs, hscrub⟩ := State.scrub_records i.corrected s
    exact ⟨_, rs, exec_scrubPass i s, hscrub⟩
  -- SOFT_ERROR
  · obtain ⟨u, hu⟩ := exec_softError_next i s
    refine ⟨u, hu, fun hc => ?_, fun hc => ⟨fun _ _ => rfl, fun _ _ => rfl, fun k n x hn h1 h2 h3 h4 =>
      s.contextAt_obUnit k n x hn h1 h2 h3 h4, fun _ _ => rfl, fun _ => rfl, fun hn => ?_, fun c hn => ?_⟩⟩
    · cases hu.symm.trans (softError_corrected s i hc)
      exact ⟨s.softRec_only _ _ _ _, s.softRec_records _ _ _ _⟩
    · cases hu.symm.trans (softError_outside s i hc hn)
      exact s.spoil_softRec i.place 0 0x342 i.addr i.die
    · cases hu.symm.trans (softError_inside s i c hc hn)
      rw [holds, ← s.ctx_softRec c c 0x341 i.addr i.die]
      refine ⟨fun h => ?_, State.discardCtx_softRec s c i.addr i.die⟩
      rw [State.discardCtx_free _ _ _ _ h]
      exact ⟨s.softRec_only _ _ _ _, s.softRec_records _ _ _ _⟩
  -- INTERNAL_ERROR
  · rw [exec_internalError, holds]
    refine ⟨fun h => congrArg Host.Outcome.next (s.discardCtx_free c _ _ h), fun h => ?_⟩
    obtain ⟨hidle, -, r, hr⟩ := s.discardCtx_discards c 0x3C0 (Config.reportDie s.nextId % 4) h
    exact ⟨_, r, rfl, hidle, hr⟩
  -- CORE_RETIRE_REQUEST
  · refine ⟨_, exec_coreRetireRequest k s, ?_⟩
    rw [s.retireCore_eq k]
    split
    · next h => exact ⟨fun o => s.reg_setReg 0xA000 o _, fun _ => rfl, fun h' => absurd (h'.symm.trans h) Bool.false_ne_true⟩
    · next h => exact ⟨fun o => s.reg_setReg 0xA000 o _, fun h' => absurd h' h, fun _ => rfl⟩
  -- PTP_FRAME
  · exact exec_ptpFrame i s
  -- RINGMASTER_ELECTION
  · obtain ⟨w, hw, hall, hexec⟩ := exec_ringmasterElection i s
    refine ⟨_, hexec, rfl, fun h => ?_, fun h => ?_, ?_⟩
    · have hown : (some w.2 == some s.peer) = true := beq_iff_eq.2 h
      simp only [hown]
      exact ⟨rfl, rfl⟩
    · have hown : (some w.2 == some s.peer) = false := beq_eq_false_iff_ne.2 h
      simp only [hown]
      exact ⟨rfl, rfl⟩
    · dsimp only
      rw [← s.entrants_eq i]
      refine ⟨rfl, ⟨w, hw, rfl, hall⟩, fun p => ?_⟩
      rw [← Link.admitted_eq, ← State.link_admitted]; rfl
  -- SHOOTDOWN_START
  · rw [exec_shootdownStart]
    refine ⟨fun h => by rw [if_pos h], fun h => ?_⟩
    rw [if_neg (fun hb => absurd (h.symm.trans hb) Bool.false_ne_true)]
    exact ⟨_, rfl, State.setReg_win { s with sdBusy := true, sdCtx := c } 0x2010 _,
      fun o => State.reg_setReg { s with sdBusy := true, sdCtx := c } 0x2010 o _⟩
  -- SHOOTDOWN_DONE
  · exact exec_shootdownDone_idle s h
  · refine ⟨_, exec_shootdownDone_over s hb hu, rfl, fun e => ?_, fun m => ?_, fun hr l => State.chain_unmapped s.shot hr l⟩
    · have h := s.mem_shot_tlb e
      rwa [s.inShootdown_iff] at h
    · have h := s.shot.mem_unmapped_mapped m
      rwa [State.inShootdown_iff] at h
  -- REGISTER_WRITE
  · refine ⟨_, exec_registerWrite i s, fun m hm => ?_, fun h => ?_, fun h => ?_, fun h => ?_, fun h => ?_, fun h => ?_,
      fun h3 h4 h8 => ?_, fun hm hcsr h2 ha h62 h64 h68 h3 => s.writeReg_none i.off i.val hm hcsr h2 ha h62 h64 h68 h3,
      fun c n h hn => ?_⟩
    · rw [s.writeReg_plain i.off i.val m hm]
      exact ⟨rfl, fun o => s.reg_setReg i.off o _⟩
    · rw [h, State.writeReg_sdCtl]
      obtain ⟨hframe, hkept, hreg⟩ := s.setReg_unless (i.val.getLsbD 0) 0x2010 (i.val &&& 0x00000FFF00000000)
      exact ⟨hframe, hkept, fun hv => (hreg hv 0x2010).trans (if_pos rfl)⟩
    · rw [h, State.writeReg_repairCtl]
      obtain ⟨hframe, hkept, hreg⟩ := s.setReg_unless (i.val.getLsbD 8) 0xA000 (i.val &&& 0xFF)
      exact ⟨hframe, hkept, fun hv => (hreg hv 0xA000).trans (if_pos rfl)⟩
    · rw [h, State.writeReg_ctxCmd]
      obtain ⟨hframe, hkept, hreg⟩ := s.setReg_unless s.ctxBusy 0x6400 (i.val &&& 0x00000FFF00000000)
      exact ⟨hkept, fun hb => ⟨hframe, hreg hb⟩⟩
    · rw [h, State.writeReg_dbgCmd, ← s.dbgWritten_iff]
      obtain ⟨hframe, hkept, hreg⟩ := s.setReg_unless _ 0x6800 (i.val &&& 0x7FFFFFFF00000000)
      exact ⟨fun hno => hkept (Bool.eq_true_of_not_eq_false hno), fun hok => ⟨hframe, hreg hok⟩⟩
    · rw [h]
      exact s.writeReg_ctxTable_keeps i.val
    · rw [s.writeReg_queue i.off i.val ⟨h3, h4, h8⟩, s.writeQueue_eq i.off i.val ⟨h3, h4, h8⟩]
      refine ⟨fun e m hem => ?_, rfl, ?_⟩
      · rw [State.taskq_setTaskq, if_neg hem]
      · rw [State.taskq_setTaskq, if_pos ⟨rfl, rfl⟩]
    · rw [h, s.writeReg_csr c n _ hn]
      refine ⟨fun h30 => ?_, fun h31 => ?_, fun r hr => s.writeCsr_readonly c n _ r hr, s.writeCsr_unassigned c n _⟩
      · rw [h30, State.writeCsr_stallLimit]
      · rw [h31, State.writeCsr_snapMaxAge]
  -- HOST_MEMORY_WRITE
  · refine ⟨hostMemoryWrite_beyond s i, fun h => ?_⟩
    obtain ⟨u, hexec, hu, hwarps, hcores⟩ := hostMemoryWrite_within_keeps s i h
    refine ⟨u, hexec, hwarps, hcores, fun hnone => ?_, fun c b haddr hbytes => ?_⟩
    · rw [s.validBytes_none i hnone] at hu
      rw [hu]
      exact ⟨s.hostWritten_frame i, s.byte_hostWritten_in i, s.byte_hostWritten_out i⟩
    · obtain rfl : i = ⟨s.descAddr c + 27, [b]⟩ := by rw [← haddr, ← hbytes]
      obtain ⟨hone, hctx⟩ := s.validBytes_one c b
      rw [hone, List.foldl_cons, List.foldl_nil, hctx] at hu
      rw [hu, State.state_validWritten, s.descValid_hostWritten c b]
      rfl
  -- RESIDENT_DRIVER_RING_READ
  · obtain ⟨hkeep, happ, hroom⟩ := State.traceIn_spec { s with traceQ := s.traceQ.drop n }
    exact ⟨rfl, rfl, _, rfl, congrArg (fun x : State => { x with traceQ := s.traceQ }) hkeep, happ, hroom⟩
end

section
/-! ### What an outcome says of memory (log entry 13) -/
namespace Sys2Proof.Machine

/-- Memory `n` is in canonical form if memory `m` is. Below, each operation of the model has one rule: `mem_f`, if `f` leaves memory
as it is, else `kept_f`, which carries `Kept m` over from the state before to the state after. -/
def Memory.Kept (m n : Tab Byte) : Bool := !Memory.wf m || Memory.wf n

theorem Memory.kept_iff (m n : Tab Byte) : Memory.Kept m n ↔ (Memory.wf m = true → Memory.wf n = true) := by
  cases h : Memory.wf m <;> simp [Memory.Kept, h]
@[simp] theorem Memory.kept_refl (m : Tab Byte) : Memory.Kept m m := (Memory.kept_iff m m).2 id
theorem Memory.kept_trans {m n o : Tab Byte} (h : Memory.Kept m n) (k : Memory.Kept n o) : Memory.Kept m o :=
  (Memory.kept_iff m o).2 ((Memory.kept_iff n o).1 k ∘ (Memory.kept_iff m n).1 h)
/-- An operation that keeps the canonical form keeps it from `m` on. -/
theorem Memory.kept_of_wf {m n o : Tab Byte} (h : Memory.Kept m n) (k : Memory.wf n = true → Memory.wf o = true) :
    Memory.Kept m o :=
  Memory.kept_trans h ((Memory.kept_iff n o).2 k)

/-- The outcome is a next state, whose memory is in canonical form if memory `m` is. -/
def Goes (m : Tab Byte) : Host.Outcome State Fault Refusal → Prop
  | .next t => Memory.Kept m t.mem
  | .fault _ => False
  | .refused _ => False

@[simp] theorem goes_next (m : Tab Byte) (t : State) : Goes m (.next t) ↔ Memory.Kept m t.mem := Iff.rfl

@[simp] theorem State.mem_ite (c : Prop) [Decidable c] (s t : State) : (if c then s else t).mem = if c then s.mem else t.mem :=
  apply_ite _ _ _ _
theorem State.kept_of_ite {m : Tab Byte} {c : Prop} [Decidable c] {s t : State} (hs : Memory.Kept m s.mem)
    (ht : Memory.Kept m t.mem) : Memory.Kept m (if c then s else t).mem := by split <;> assumption
@[simp] theorem Memory.kept_ite (c : Prop) [Decidable c] (m n o : Tab Byte) :
    Memory.Kept m (if c then n else o) = if c then Memory.Kept m n else Memory.Kept m o := apply_ite _ _ _ _
@[simp] theorem goes_ite (c : Prop) [Decidable c] (m : Tab Byte) (o p : Host.Outcome State Fault Refusal) :
    Goes m (if c then o else p) ↔ if c then Goes m o else Goes m p := by split <;> rfl

variable {α β : Type}

theorem State.mem_foldl (f : State → α → State) (l : List α) (s : State) (h : ∀ t x, (f t x).mem = t.mem) :
    (l.foldl f s).mem = s.mem := by
  induction l generalizing s with
  | nil => rfl
  | cons x l ih => rw [List.foldl_cons, ih, h]
theorem State.mem_foldl_fst (f : State × β → α → State × β) (l : List α) (a : State × β)
    (h : ∀ b x, (f b x).1.mem = b.1.mem) : (l.foldl f a).1.mem = a.1.mem := by
  induction l generalizing a with
  | nil => rfl
  | cons x l ih => rw [List.foldl_cons, ih, h]
/-- `State.mem_foldl` for `simp`, which cannot give back a hypothesis that is an equation true by unfolding alone. -/
@[simp] theorem State.mem_foldl_of_beq (f : State → α → State) (l : List α) (s : State) (h : ∀ t x, (f t x).mem == t.mem) :
    (l.foldl f s).mem = s.mem := State.mem_foldl f l s fun t x => beq_iff_eq.1 (h t x)
@[simp] theorem State.mem_foldl_fst_of_beq (f : State × β → α → State × β) (l : List α) (a : State × β)
    (h : ∀ b x, (f b x).1.mem == b.1.mem) : (l.foldl f a).1.mem = a.1.mem :=
  State.mem_foldl_fst f l a fun b x => beq_iff_eq.1 (h b x)
@[simp] theorem State.kept_foldl {m : Tab Byte} (f : State → α → State) (l : List α) (s : State)
    (h : ∀ t x, Memory.Kept t.mem (f t x).mem) (hs : Memory.Kept m s.mem) : Memory.Kept m (l.foldl f s).mem := by
  induction l generalizing s with
  | nil => exact hs
  | cons x l ih => exact ih _ (Memory.kept_trans hs (h _ _))
theorem State.kept_foldl_fst {m : Tab Byte} (f : State × β → α → State × β) (l : List α) (a : State × β)
    (h : ∀ b x, Memory.Kept b.1.mem (f b x).1.mem) (ha : Memory.Kept m a.1.mem) : Memory.Kept m (l.foldl f a).1.mem := by
  induction l generalizing a with
  | nil => exact ha
  | cons x l ih => exact ih _ (Memory.kept_trans ha (h _ _))
end Sys2Proof.Machine
end

section
/-! ### Registers, records, exceptions (R61, R166, R378 to R382, R396) -/
namespace Sys2Proof.Machine

@[simp] theorem State.mem_setCohort (s : State) (k : Nat) (c : Cohort) : (s.setCohort k c).mem = s.mem := rfl
@[simp] theorem State.mem_setRegion (s : State) (k : Nat) (r : Region) : (s.setRegion k r).mem = s.mem := rfl
@[simp] theorem State.mem_setDie (s : State) (k : Nat) (d : Die) : (s.setDie k d).mem = s.mem := rfl
@[simp] theorem State.mem_updTeam (s : State) (f : Team → Team) : (s.updTeam f).mem = s.mem := rfl
@[simp] theorem State.mem_updCore (s : State) (f : Core → Core) : (s.updCore f).mem = s.mem := rfl
@[simp] theorem State.kept_setByte {m : Tab Byte} (s : State) (a : Nat) (b : Byte) (hk : Memory.Kept m s.mem) :
    Memory.Kept m (s.setByte a b).mem := Memory.kept_of_wf hk (s.wf_setByte a b)
@[simp] theorem State.kept_setBytes {m : Tab Byte} (s : State) (a : Nat) (bs : List Byte) (hk : Memory.Kept m s.mem) :
    Memory.Kept m (s.setBytes a bs).mem := Memory.kept_of_wf hk (s.wf_setBytes a bs)
@[simp] theorem State.kept_setDword {m : Tab Byte} (s : State) (a : Nat) (v : DWord) (hk : Memory.Kept m s.mem) :
    Memory.Kept m (s.setDword a v).mem := by
  simp [State.setDword, hk]
@[simp] theorem State.mem_retire (s : State) (len : Nat) (sw : Bool) : (s.retire len sw).mem = s.mem := rfl
@[simp] theorem State.mem_park (s : State) (r : Nat) : (s.park r).mem = s.mem := rfl
@[simp] theorem State.mem_setPort (s : State) (k p : Nat) (x : Port) : (s.setPort k p x).mem = s.mem := rfl
@[simp] theorem State.mem_trace (s : State) (r : TraceRec) : (s.trace r).mem = s.mem := by simp [State.trace]
@[simp] theorem State.mem_sample (s : State) (core n : Nat) : (s.sample core n).mem = s.mem := by
  induction n generalizing s with
  | zero => rfl
  | succ n ih => simp [State.sample, ih]
@[simp] theorem State.mem_count (s : State) (core tenant e n : Nat) : (s.count core tenant e n).mem = s.mem := by
  simp [State.count]
@[simp] theorem State.mem_fault (s : State) (r : FaultRec) : (s.fault r).mem = s.mem := by simp [State.fault]
@[simp] theorem State.kept_setCState {m : Tab Byte} (s : State) (c : CtxId) (x : CState) (hk : Memory.Kept m s.mem) :
    Memory.Kept m (s.setCState c x).mem := Memory.kept_of_wf hk (s.wf_setCState c x)
@[simp] theorem State.kept_stopCtx {m : Tab Byte} (s : State) (c : CtxId) (hk : Memory.Kept m s.mem) :
    Memory.Kept m (s.stopCtx c).mem := by
  simp [State.stopCtx, hk]
@[simp] theorem State.mem_writeMap (s : State) (m : TrapMap) : (s.writeMap m).mem = s.mem := by simp [State.writeMap]
@[simp] theorem State.kept_noHandler {m₀ : Tab Byte} (s : State) (rec kind : Nat) (cause : Cause) (flm : Mask)
    (hk : Memory.Kept m₀ s.mem) : Memory.Kept m₀ (s.noHandler rec kind cause flm).mem := by
  simp [State.noHandler, hk]
@[simp] theorem State.kept_enterMap {m₀ : Tab Byte} (s : State) (cause : Cause) (m : TrapMap) (hk : Memory.Kept m₀ s.mem) :
    Memory.Kept m₀ (s.enterMap cause m).mem := by
  unfold State.enterMap
  split <;> simp [hk]
@[simp] theorem State.kept_enter {m : Tab Byte} (s : State) (cause : Cause) (flm done : Mask) (addr : DWord)
    (hk : Memory.Kept m s.mem) : Memory.Kept m (s.enter cause flm done addr).mem := by
  simp [State.enter, hk]
@[simp] theorem State.kept_stopMap {m₀ : Tab Byte} (s : State) (m : TrapMap) (hk : Memory.Kept m₀ s.mem) :
    Memory.Kept m₀ (s.stopMap m).mem := by
  simp [State.stopMap, hk]
@[simp] theorem State.kept_debugStop {m : Tab Byte} (s : State) (cause : Cause) (flm done : Mask) (addr : DWord)
    (hk : Memory.Kept m s.mem) : Memory.Kept m (s.debugStop cause flm done addr).mem := by
  simp [State.debugStop, hk]
@[simp] theorem State.kept_precise {m : Tab Byte} (s : State) (cause : Cause) (flm : Mask) (addr : DWord)
    (hk : Memory.Kept m s.mem) : Memory.Kept m (s.precise cause flm addr).mem := by
  simp [State.precise, hk]
@[simp] theorem State.mem_at (s : State) (k : Nat) (f : State → State) : (s.at k f).mem = (f { s with cur := k }).mem := rfl
end Sys2Proof.Machine
end

section
/-! ### Translation and scratchpad places (R157 to R170) -/
namespace Sys2Proof.Machine

@[simp] theorem State.mem_cache (s : State) (c : CtxId) (die : Nat) (va : DWord) (t : Trans) :
    (s.cache c die va t).mem = s.mem := by
  simp [State.cache]
@[simp] theorem State.mem_touch (s : State) (c : CtxId) (a n : Nat) : (s.touch c a n).mem = s.mem := by simp [State.touch]
@[simp] theorem State.mem_touchWalk (s : State) (c : CtxId) (die : Nat) (va : DWord) : (s.touchWalk c die va).mem = s.mem := by
  simp [State.touchWalk]
@[simp] theorem State.mem_use (s : State) (c : CtxId) (die : Nat) (va : DWord) (n : Nat) (t : Trans) :
    (s.use c die va n t).mem = s.mem := by
  simp [State.use]
@[simp] theorem State.mem_faultRecs (s : State) (acc : Nat) (fs : List (LaneFault × Mask)) :
    (s.faultRecs acc fs).1.mem = s.mem := by
  induction fs generalizing s with
  | nil => rfl
  | cons f fs ih => simp [State.faultRecs, ih]
@[simp] theorem State.mem_replayable (s : State) (fs : List LaneFault) (done : Mask) (acc : Nat) :
    (s.replayable fs done acc).mem = s.mem := by
  unfold State.replayable
  split <;> simp
@[simp] theorem State.mem_setSpBytes (s : State) (k off : Nat) (bs : List Byte) : (s.setSpBytes k off bs).mem = s.mem := rfl
@[simp] theorem State.mem_setFull (s : State) (k off : Nat) (b : Bool) : (s.setFull k off b).mem = s.mem := rfl
@[simp] theorem State.mem_countRemote (s : State) (c : CtxId) (die : Nat) (va : DWord) :
    (s.countRemote c die va).mem = s.mem := by
  simp [State.countRemote]
@[simp] theorem State.mem_countPages (s : State) (c : CtxId) (die : Nat) (ps : List (DWord × Trans)) :
    (s.countPages c die ps).mem = s.mem := by
  simp [State.countPages]
end Sys2Proof.Machine
end

section
/-! ### Save areas (R331 to R338) -/
namespace Sys2Proof.Machine

@[simp] theorem State.kept_putNum {m : Tab Byte} (s : State) (a n v : Nat) (hk : Memory.Kept m s.mem) :
    Memory.Kept m (s.putNum a n v).mem := by
  simp [State.putNum, hk]
@[simp] theorem State.kept_countLate {m : Tab Byte} (s : State) (c : CtxId) (hk : Memory.Kept m s.mem) :
    Memory.Kept m (s.countLate c).mem := by
  simp [State.countLate, hk]
end Sys2Proof.Machine
end

section
/-! ### Versioned lines (R291 to R308) -/
namespace Sys2Proof.Machine

@[simp] theorem State.mem_setChain (s : State) (l : Nat) (c : Chain) : (s.setChain l c).mem = s.mem := rfl
@[simp] theorem State.mem_waitPool (s : State) (die o : Nat) : (s.waitPool die o).mem = s.mem := by simp [State.waitPool]
@[simp] theorem State.mem_leavePool (s : State) (o : Nat) : (s.leavePool o).mem = s.mem := rfl
@[simp] theorem State.mem_gotEntry (s : State) : s.gotEntry.mem = s.mem := rfl
@[simp] theorem State.mem_dropShare (s : State) (die i : Nat) : (s.dropShare die i).mem = s.mem := rfl
@[simp] theorem State.mem_releaseSnap (s : State) : s.releaseSnap.mem = s.mem := by
  unfold State.releaseSnap
  split <;> simp
@[simp] theorem State.mem_shareSnap (s : State) (die : Nat) (c : CtxId) (t : DWord) (i : Nat) :
    (s.shareSnap die c t i).mem = s.mem := rfl
@[simp] theorem State.mem_dropTentative (s : State) (o : Nat) : (s.dropTentative o).mem = s.mem := rfl
@[simp] theorem State.kept_doom {m : Tab Byte} (s : State) (o : Nat) (code : BitVec 6) (conf : BitVec 41)
    (hk : Memory.Kept m s.mem) : Memory.Kept m (s.doom o code conf).mem := by
  simp [State.doom, hk]
@[simp] theorem State.kept_writeCells {m : Tab Byte} (s : State) (ws : List (Nat × Byte)) (hk : Memory.Kept m s.mem) :
    Memory.Kept m (s.writeCells ws).mem := Memory.kept_of_wf hk (s.wf_writeCells ws)
end Sys2Proof.Machine
end

section
/-! ### Lane-wise memory instructions (R176, R368 to R373) -/
namespace Sys2Proof.Machine

@[simp] theorem State.goes_memory (s : State) (p : Nat) (f : State → State) (h : ∀ t, Memory.Kept t.mem (f t).mem) :
    Goes s.mem (s.memory p f) := by
  have hp := h (s.passFence p)
  unfold State.memory
  split
  · simp
  · simpa using hp
@[simp] theorem State.mem_storeDone (s : State) (die path : Nat) (p : Peer) (line : Nat) :
    (s.storeDone die path p line).mem = s.mem := by
  simp [State.storeDone]
@[simp] theorem State.mem_dropCopy (s : State) (die : Nat) (p : Peer) (line : Nat) : (s.dropCopy die p line).mem = s.mem := rfl
@[simp] theorem State.mem_acquire (s : State) (reach : Nat) : (s.acquire reach).mem = s.mem := by simp [State.acquire]
@[simp] theorem State.mem_acquireOn (s : State) (p reach : Nat) : (s.acquireOn p reach).mem = s.mem := by simp [State.acquireOn]
@[simp] theorem State.mem_backAt (s : State) (k : Nat) : (s.backAt k).mem = s.mem := by simp [State.backAt]
@[simp] theorem State.mem_countFor (s : State) (ps : List (DWord × Trans)) : (s.countFor ps).mem = s.mem := by
  simp [State.countFor]
@[simp] theorem State.mem_noteParts (s : State) (count : Bool) (ps : List (Part × Trans)) :
    (s.noteParts count ps).mem = s.mem := by
  simp [State.noteParts]
@[simp] theorem State.kept_checkFails {m : Tab Byte} (s : State) (c : Cause) (flm : Mask) (n : Nat) (ea : Nat → DWord) (acc : Nat)
    (hk : Memory.Kept m s.mem) : Memory.Kept m (s.checkFails c flm n ea acc).mem := by
  simp [State.checkFails, hk]
@[simp] theorem State.mem_fresh1 (s : State) : s.fresh1.mem = s.mem := rfl
@[simp] theorem State.mem_send (s : State) (dst : Peer) (tag : Nat) (body : PacketBody) : (s.send dst tag body).mem = s.mem := rfl
@[simp] theorem State.mem_sendStore (s : State) (dst : Peer) (line path : Nat) (ordered : Bool) (body : PacketBody) :
    (s.sendStore dst line path ordered body).mem = s.mem := rfl
@[simp] theorem State.mem_addPending (s : State) (lanes : Mask) (kind : PendKind) : (s.addPending lanes kind).mem = s.mem := by
  simp [State.addPending]
@[simp] theorem State.mem_noteHit (s : State) (m : Mask) (rd wr : Bool) (va : DWord) (n : Nat) :
    (s.noteHit m rd wr va n).mem = s.mem := by
  simp [State.noteHit]
@[simp] theorem State.mem_noteHits (s : State) (m : Mask) (rd wr : Bool) (n : Nat) (ea : Nat → DWord) :
    (s.noteHits m rd wr n ea).mem = s.mem := rfl
@[simp] theorem State.kept_failLanes {m : Tab Byte} (s : State) (fs : List (Nat × Cause)) (done : Mask) (ea : Nat → DWord)
    (hk : Memory.Kept m s.mem) : Memory.Kept m (s.failLanes fs done ea).mem := by
  unfold State.failLanes
  split <;> simp [hk]
@[simp] theorem State.kept_complete {m : Tab Byte} (s : State) (all : Mask) (len : Nat) (sw : Bool) (hk : Memory.Kept m s.mem) :
    Memory.Kept m (s.complete all len sw).mem := by
  unfold State.complete
  split <;> simp [hk]
@[simp] theorem Pass.kept_finish {m : Tab Byte} (p : Pass) (all : Mask) (acc len : Nat) (sw : Bool) (ea : Nat → DWord)
    (hk : Memory.Kept m p.s.mem) : Memory.Kept m (p.finish all acc len sw ea).mem := by
  simp [Pass.finish, hk]
end Sys2Proof.Machine
end

section
/-! ### Loads, stores, atomics, SPILL, FILL, fences (R74 to R77, R169 to R200) -/
namespace Sys2Proof.Machine

@[simp] theorem State.mem_plainLine (s : State) (t : Trans) (seed line : Nat) : (s.plainLine t seed line).1.mem = s.mem := by
  unfold State.plainLine; dsimp only
  repeat' split
  all_goals rfl
@[simp] theorem State.mem_rocLine (s : State) (t : Trans) (seed line : Nat) : (s.rocLine t seed line).1.mem = s.mem := by
  unfold State.rocLine; dsimp only
  repeat' split
  all_goals simp
@[simp] theorem State.mem_readLines (s : State) (gc : Bool) (t : Trans) (seed n l : Nat) :
    (s.readLines gc t seed n l).1.mem = s.mem := by
  induction n generalizing s seed l with
  | zero => rfl
  | succ n ih =>
    rw [State.readLines, ih]
    split <;> simp
@[simp] theorem State.mem_readPart (s : State) (v : View) (gc : Bool) (seed : Nat) (p : Part × Trans) :
    (s.readPart v gc seed p).1.mem = s.mem := by
  unfold State.readPart; dsimp only
  repeat' split
  all_goals simp
@[simp] theorem State.mem_readParts (s : State) (v : View) (gc : Bool) (seed : Nat) (ps : List (Part × Trans)) :
    (s.readParts v gc seed ps).1.mem = s.mem := by
  induction ps generalizing s seed with
  | nil => rfl
  | cons p ps ih => rw [State.readParts, ih, State.mem_readPart]
@[simp] theorem Loads.mem_lane (a : Loads) (v : View) (gc : Bool) (put : Nat → List Byte → List (Nat × Word)) (l : Lane) :
    (a.lane v gc put l).s.mem = a.s.mem := by
  unfold Loads.lane; dsimp only
  split <;> simp
@[simp] theorem Loads.mem_lanes (v : View) (gc : Bool) (put : Nat → List Byte → List (Nat × Word)) (ls : List Lane) (a : Loads) :
    (ls.foldl (fun b l => b.lane v gc put l) a).s.mem = a.s.mem := by
  induction ls generalizing a with
  | nil => rfl
  | cons l ls ih => rw [List.foldl_cons, ih, Loads.mem_lane]
@[simp] theorem State.mem_sendLoads (s : State) (tag : Nat) (asks : List Ask) : (s.sendLoads tag asks).mem = s.mem := by
  simp [State.sendLoads]
@[simp] theorem Loads.mem_issue (a : Loads) (d : RegNo) (sz : Size) (sx : Bool) : (a.issue d sz sx).mem = a.s.mem := by
  simp [Loads.issue]
@[simp] theorem State.kept_load {m : Tab Byte} (s : State) (h : Hdr) (v : View) (gc sx acq : Bool) (reach : Nat) (sz : Size)
    (d : RegNo) (ea : Nat → DWord) (more : List Cause) (hk : Memory.Kept m s.mem) :
    Memory.Kept m (s.load h v gc sx acq reach sz d ea more).mem := by
  unfold State.load; dsimp only
  repeat' split
  all_goals simp [hk]
@[simp] theorem State.kept_storeHere {m : Tab Byte} (s : State) (t : Trans) (ws : List (Nat × Byte)) (hk : Memory.Kept m s.mem) :
    Memory.Kept m (s.storeHere t ws).mem := by
  simp [State.storeHere, hk]
@[simp] theorem State.mem_storeAway (s : State) (rel : Bool) (cs : List (Trans × List (Nat × Byte))) :
    (s.storeAway rel cs).mem = s.mem := by
  unfold State.storeAway; dsimp only
  refine State.mem_foldl _ _ _ fun t p => ?_
  split <;> simp
/-- What a store to a versioned line comes to keeps memory's form. -/
def Stored.Keeps (m : Tab Byte) : Stored → Prop
  | .ok t => Memory.Kept m t.mem
  | .wait t _ => Memory.Kept m t.mem
@[simp] theorem Stored.keeps_ok (m : Tab Byte) (t : State) : Stored.Keeps m (.ok t) ↔ Memory.Kept m t.mem := Iff.rfl
@[simp] theorem Stored.keeps_wait (m : Tab Byte) (t : State) (r : Nat) :
    Stored.Keeps m (.wait t r) ↔ Memory.Kept m t.mem := Iff.rfl
theorem State.keeps_txStore (s : State) (va : DWord) (l : Nat) (ws : List (Nat × Byte)) :
    Stored.Keeps s.mem (s.txStore va l ws) := by
  unfold State.txStore; dsimp only
  repeat' split
  all_goals simp
theorem State.keeps_lineCommit (s : State) (l : Nat) (ws : List (Nat × Byte)) : Stored.Keeps s.mem (s.lineCommit l ws) := by
  unfold State.lineCommit; dsimp only
  repeat' split
  all_goals simp
theorem State.keeps_storeLine (s : State) (va : DWord) (l : Nat) (ws : List (Nat × Byte)) :
    Stored.Keeps s.mem (s.storeLine va l ws) := by
  unfold State.storeLine
  split <;> simp [State.keeps_txStore, State.keeps_lineCommit]
theorem State.kept_storeLines (s : State) (cs : List VCell) (ls : List Nat) : Memory.Kept s.mem (s.storeLines cs ls).1.mem := by
  induction ls generalizing s with
  | nil => simp [State.storeLines]
  | cons l ls ih =>
    have hl := s.keeps_storeLine (((cs.filter (fun c => c.addr / 128 == l)).head?.map (fun c => c.va)).getD 0) l
      ((cs.filter (fun c => c.addr / 128 == l)).map (fun c => (c.addr, c.b)))
    unfold State.storeLines; dsimp only
    split
    · next t ht => rw [ht] at hl; exact Memory.kept_trans hl (ih t)
    · next t r ht => rw [ht] at hl; exact hl
@[simp] theorem State.kept_storeLanes {m : Tab Byte} (s : State) (ls : List Lane) (rel : Bool) (data : Nat → List (Nat × Byte))
    (hk : Memory.Kept m s.mem) : Memory.Kept m (s.storeLanes ls rel data).1.mem := by
  unfold State.storeLanes; dsimp only
  rw [State.upd_mem]
  refine Memory.kept_trans ?_ (State.kept_storeLines _ _ _)
  simp [hk]
@[simp] theorem State.kept_store {m : Tab Byte} (s : State) (h : Hdr) (rel : Bool) (n : Nat) (ea : Nat → DWord)
    (data : Nat → List (Nat × Byte)) (hk : Memory.Kept m s.mem) : Memory.Kept m (s.store h rel n ea data).mem := by
  unfold State.store; dsimp only
  repeat' split
  all_goals simp [hk]
theorem Atoms.kept_lane (x : Atoms) (i : AtomIn) (l : Lane) : Memory.Kept x.s.mem (x.lane i l).s.mem := by
  unfold Atoms.lane; dsimp only
  repeat' split
  all_goals simp
@[simp] theorem Atoms.kept_lanes {m : Tab Byte} (i : AtomIn) (ls : List Lane) (x : Atoms) (hk : Memory.Kept m x.s.mem) :
    Memory.Kept m (ls.foldl (fun y l => y.lane i l) x).s.mem := by
  induction ls generalizing x with
  | nil => exact hk
  | cons l ls ih => exact ih _ (Memory.kept_trans hk (x.kept_lane i l))
@[simp] theorem State.kept_atomic {m₀ : Tab Byte} (s : State) (i : AtomIn) (hk : Memory.Kept m₀ s.mem) :
    Memory.Kept m₀ (s.atomic i).mem := by
  unfold State.atomic; dsimp only
  repeat' split
  all_goals simp [hk]
theorem SpAcc.mem_lanes (f : SpAcc → Nat → SpAcc) (ls : List Nat) (x : SpAcc) (h : ∀ y i, (f y i).s.mem = y.s.mem) :
    (ls.foldl f x).s.mem = x.s.mem := by
  induction ls generalizing x with
  | nil => rfl
  | cons l ls ih => rw [List.foldl_cons, ih, h]
@[simp] theorem State.kept_scratch {m₀ : Tab Byte} (s : State) (h : Hdr) (m : MemOp) (aligned : Bool) (n : Nat)
    (f : Nat → SpAcc → Nat → SpAcc) (reach : Nat) (hf : ∀ k y i, (f k y i).s.mem == y.s.mem) (hk : Memory.Kept m₀ s.mem) :
    Memory.Kept m₀ (s.scratch h m aligned n f reach).mem := by
  unfold State.scratch; dsimp only
  split
  · simp [hk]
  split
  · simp [hk]
  · simp [hk, SpAcc.mem_lanes _ _ _ fun y i => beq_iff_eq.1 (hf _ y i)]
@[simp] theorem SpAcc.mem_fe (x : SpAcc) (k off : Nat) (d : RegNo) (i : Nat) (f : FeStep) :
    (x.fe k off d i f).s.mem = x.s.mem := by
  unfold SpAcc.fe; dsimp only
  split <;> simp
@[simp] theorem State.goes_fullEmpty (s : State) (h : Hdr) (m : MemOp) (ord : MOrd) (scope : Scope) (d : RegNo)
    (f : Nat → FeStep) :
    Goes s.mem (s.fullEmpty h m ord scope d f) :=
  s.goes_memory _ _ fun t => by simp
@[simp] theorem State.kept_spAtomic {m₀ : Tab Byte} (s : State) (i : AtomIn) (hk : Memory.Kept m₀ s.mem) :
    Memory.Kept m₀ (s.spAtomic i).mem := by
  simp [State.spAtomic, hk]
theorem goes_execPfch (i : Line) (s : State) : Goes s.mem (execPfch i s) := by
  simp only [execPfch, goes_next, State.retire, State.upd_mem]
  rw [State.mem_foldl]
  · simp
  · intro t n
    split
    · rfl
    · split <;> simp
theorem goes_execCflush (i : Line) (s : State) : Goes s.mem (execCflush i s) := by
  unfold execCflush; dsimp only
  repeat' split
  all_goals simp
@[simp] theorem State.mem_fenced (s : State) (o : MOrd) : (s.fenced o).mem = s.mem := rfl
@[simp] theorem State.kept_promoteGlobal {m₀ : Tab Byte} (s : State) (i : Promote) (hk : Memory.Kept m₀ s.mem) :
    Memory.Kept m₀ (s.promoteGlobal i).mem := by
  unfold State.promoteGlobal; dsimp only
  generalize (if i.wide = true then 8 else 4) = n
  split
  · simp [hk]
  split
  · simp [hk]
  split
  · simp [hk]
  refine Pass.kept_finish _ _ _ _ _ _ ?_
  dsimp only
  rw [State.mem_acquire, State.mem_noteHits, State.mem_foldl]
  · simp [hk]
  · intro t l
    refine State.mem_foldl _ _ _ fun u p => ?_
    split <;> rfl
@[simp] theorem State.mem_slotHit (s : State) (rd : Bool) (e : DWord) (data fmt : Nat) :
    (s.slotHit rd e data fmt).mem = s.mem := by
  simp [State.slotHit]
@[simp] theorem State.kept_spill {m : Tab Byte} (s : State) (i : Spill) (hk : Memory.Kept m s.mem) :
    Memory.Kept m (s.spill i).mem := by
  unfold State.spill; dsimp only
  repeat' split
  all_goals simp [hk]
@[simp] theorem State.kept_fillBytes {m : Tab Byte} (s : State) (i : Fill) (e : DWord) (b : List Byte)
    (hk : Memory.Kept m s.mem) : Memory.Kept m (s.fillBytes i e b).mem := by
  unfold State.fillBytes
  split <;> simp [hk]
@[simp] theorem State.kept_fill {m : Tab Byte} (s : State) (i : Fill) (hk : Memory.Kept m s.mem) :
    Memory.Kept m (s.fill i).mem := by
  unfold State.fill; dsimp only
  repeat' split
  all_goals simp [hk]
end Sys2Proof.Machine
end

section
/-! ### Barriers (R201 to R211) -/
namespace Sys2Proof.Machine

@[simp] theorem State.mem_setBar (s : State) (team b : Nat) (o : Barrier) : (s.setBar team b o).mem = s.mem :=
  s.setBar_mem team b o
@[simp] theorem State.goes_barrier (s : State) (h : Hdr) (a : RegNo) (imm : Word) (f : Nat → State)
    (hf : ∀ b, Memory.Kept s.mem (f b).mem) : Goes s.mem (s.barrier h a imm f) := by
  simp [State.barrier, hf]
@[simp] theorem State.kept_barDone {m : Tab Byte} (s : State) (h : Hdr) (b : Nat) (r : BarOp) (hk : Memory.Kept m s.mem) :
    Memory.Kept m (s.barDone h b r).mem := by
  simp [State.barDone, hk]
@[simp] theorem State.kept_binit {m : Tab Byte} (s : State) (h : Hdr) (count : DWord) (b : Nat) (hk : Memory.Kept m s.mem) :
    Memory.Kept m (s.binit h count b).mem := by
  simp [State.binit, hk]
@[simp] theorem State.kept_arrive {m : Tab Byte} (s : State) (h : Hdr) (bytes : DWord) (b : Nat) (hk : Memory.Kept m s.mem) :
    Memory.Kept m (s.arrive h bytes b).mem := by
  simp [State.arrive, hk]
@[simp] theorem State.kept_bdrop {m : Tab Byte} (s : State) (h : Hdr) (b : Nat) (hk : Memory.Kept m s.mem) :
    Memory.Kept m (s.bdrop h b).mem := by
  simp [State.bdrop, hk]
@[simp] theorem State.kept_bwait {m : Tab Byte} (s : State) (h : Hdr) (b : Nat) (hk : Memory.Kept m s.mem) :
    Memory.Kept m (s.bwait h b).mem := by
  unfold State.bwait
  split <;> simp [hk]
@[simp] theorem State.kept_btest {m : Tab Byte} (s : State) (h : Hdr) (d : RegNo) (b : Nat) (hk : Memory.Kept m s.mem) :
    Memory.Kept m (s.btest h d b).mem := by
  unfold State.btest
  split <;> simp [hk]
@[simp] theorem State.mem_copyHit (s : State) (c : CtxId) (core slot : Nat) : (s.copyHit c core slot).mem = s.mem := by
  simp [State.copyHit]
@[simp] theorem State.mem_txSub (s : State) (k slot b n : Nat) : (s.txSub k slot b n).1.mem = s.mem := by
  unfold State.txSub; dsimp only
  split
  · rfl
  · dsimp only; split <;> simp
end Sys2Proof.Machine
end

section
/-! ### Flags of floating-point instructions (R101, R102) -/
namespace Sys2Proof.Machine

@[simp] theorem State.kept_flagged {m : Tab Byte} (s : State) (h : Hdr) (len : Nat) (fl : Nat → BitVec 5) (f : Warp → Warp)
    (hk : Memory.Kept m s.mem) : Memory.Kept m (s.flagged h len fl f).mem := by
  simp [State.flagged, hk]
@[simp] theorem State.kept_fpV {m : Tab Byte} (s : State) (h : Hdr) (d : RegNo) (len : Nat) (rs : Bool) (draws : Nat)
    (f : Nat → FRes) (hk : Memory.Kept m s.mem) : Memory.Kept m (s.fpV h d len rs draws f).mem := by
  simp [State.fpV, hk]
@[simp] theorem State.kept_fpV64 {m : Tab Byte} (s : State) (h : Hdr) (d : RegNo) (len : Nat) (rs : Bool) (draws : Nat)
    (f : Nat → FRes) (hk : Memory.Kept m s.mem) : Memory.Kept m (s.fpV64 h d len rs draws f).mem := by
  simp [State.fpV64, hk]
end Sys2Proof.Machine
end

section
/-! ### Engine ports and pushes (R238 to R245) -/
namespace Sys2Proof.Machine

@[simp] theorem State.mem_push (s : State) (p : Nat) (c : Cmd) : (s.push p c).mem = s.mem := rfl
@[simp] theorem State.mem_pushed (s : State) (p : Nat) (sw : Bool) : (s.pushed p sw).mem = s.mem := by simp [State.pushed]
@[simp] theorem State.mem_issue (s : State) (h : Hdr) (len p : Nat) (c : Nat → Cmd) (f : Nat → Warp → Warp) :
    (s.issue h len p c f).mem = s.mem := by
  simp [State.issue]
@[simp] theorem State.kept_pushWord {m : Tab Byte} (s : State) (h : Hdr) (len : Nat) (q : Nat) (x : BitVec 128)
    (hk : Memory.Kept m s.mem) : Memory.Kept m (s.pushWord h len q x).mem := by
  unfold State.pushWord
  split <;> simp [hk]
end Sys2Proof.Machine
end

section
/-! ### The matrix engine (R213 to R237) -/
namespace Sys2Proof.Machine

theorem goes_execObres (i : ObRes) (s : State) : Goes s.mem (execObres i s) := by
  unfold execObres; dsimp only
  repeat' split
  all_goals simp
theorem goes_execMma (i : Mma) (s : State) : Goes s.mem (execMma i s) := by
  unfold execMma; dsimp only
  repeat' split
  all_goals simp
theorem goes_execAccrd (i : AccMove) (s : State) : Goes s.mem (execAccrd i s) := by
  unfold execAccrd
  split <;> simp
theorem goes_execAccwr (i : AccMove) (s : State) : Goes s.mem (execAccwr i s) := by
  unfold execAccwr
  split <;> simp
@[simp] theorem State.mem_mmaRun (s : State) (core b : Nat) (c : Cmd) (half z n64 : Bool) (kc : Nat) (oa ob : DWord)
    (sa sb : MatSpec) : (s.mmaRun core b c half z n64 kc oa ob sa sb).mem = s.mem := by
  simp [State.mmaRun]
@[simp] theorem State.mem_accReturn (s : State) (core b : Nat) (c : Cmd) (d col n : Nat) :
    (s.accReturn core b c d col n).mem = s.mem := by
  unfold State.accReturn; dsimp only
  repeat' split
  all_goals simp
theorem State.goes_bandAct (s : State) (r : PortRef) (f : Cmd → State → Option State)
    (hf : ∀ c t, f c s = some t → t.mem = s.mem) : Goes s.mem (s.bandAct r f) := by
  unfold State.bandAct; dsimp only
  split
  · simp
  split
  · simp
  split
  · simp
  · next t ht => simp [hf _ t ht]
theorem goes_execBandCmdMma (i : PortRef) (s : State) : Goes s.mem (execBandCmdMma i s) :=
  s.goes_bandAct i _ fun c t h => by
    split at h
    · cases h; simp
    · cases h
theorem goes_execBandCmdAccz (i : PortRef) (s : State) : Goes s.mem (execBandCmdAccz i s) :=
  s.goes_bandAct i _ fun c t h => by
    split at h <;> cases h; rfl
theorem goes_execBandCmdAccrd (i : PortRef) (s : State) : Goes s.mem (execBandCmdAccrd i s) :=
  s.goes_bandAct i _ fun c t h => by
    split at h <;> cases h; simp
theorem goes_execBandCmdAccwr (i : PortRef) (s : State) : Goes s.mem (execBandCmdAccwr i s) :=
  s.goes_bandAct i _ fun c t h => by
    split at h <;> cases h; rfl
theorem goes_execBandCmdColrd (i : PortRef) (s : State) : Goes s.mem (execBandCmdColrd i s) :=
  s.goes_bandAct i _ fun c t h => by
    split at h
    · dsimp only at h
      split at h <;> cases h; rfl
    · cases h
end Sys2Proof.Machine
end

section
/-! ### The copy engine (R257 to R273) -/
namespace Sys2Proof.Machine

@[simp] theorem State.mem_hrecDone (s : State) (h : Hdr) (d : RegNo) (b : List Byte) : (s.hrecDone h d b).mem = s.mem := rfl
@[simp] theorem State.kept_hrecGlobal {m₀ : Tab Byte} (s : State) (i : HRec) (m : Mask) (a : DWord) (hk : Memory.Kept m₀ s.mem) :
    Memory.Kept m₀ (s.hrecGlobal i m a).mem := by
  unfold State.hrecGlobal; dsimp only
  repeat' split
  all_goals simp [hk]
theorem goes_execCopy (i : CopyOp) (s : State) : Goes s.mem (execCopy i s) := by
  unfold execCopy; dsimp only
  repeat' split
  all_goals simp
@[simp] theorem State.mem_release (s : State) (core : Nat) (succ : Option Nat) : (s.release core succ).mem = s.mem := by
  unfold State.release
  split <;> simp
@[simp] theorem State.mem_schedOut (s : State) (sched : Option (Nat × Nat)) (code : Cause) :
    (s.schedOut sched code).mem = s.mem := by
  unfold State.schedOut
  split <;> simp
@[simp] theorem State.mem_copyOut (s : State) (core : Nat) (c : Cmd) (q : CopyReq) (canc ovf : Bool) (code : Cause)
    (bytes total : Nat) :
    (s.copyOut core c q canc ovf code bytes total).mem = s.mem := by
  unfold State.copyOut; dsimp only
  rw [State.mem_release]
  repeat' split
  all_goals simp
@[simp] theorem State.mem_discard (s : State) (core : Nat) (c : Cmd) : (s.discard core c).mem = s.mem := by
  unfold State.discard
  split <;> simp
@[simp] theorem State.mem_takeBytes (s : State) (core : Nat) (c : Cmd) : (s.takeBytes core c).1.mem = s.mem := by
  unfold State.takeBytes
  repeat' split
  all_goals simp
@[simp] theorem State.mem_discardQueued (s : State) (core port : Nat) (f : Cmd → Bool) :
    (s.discardQueued core port f).mem = s.mem := by
  unfold State.discardQueued; dsimp only
  rw [State.setCore_mem, State.mem_foldl]
  intro t c
  split
  · split <;> simp
  · rfl
@[simp] theorem State.mem_setProg (s : State) (core port : Nat) (f : CopyProg → CopyProg) : (s.setProg core port f).mem = s.mem :=
  rfl
@[simp] theorem State.mem_copyRest (s : State) (core port : Nat) (c : Cmd) (q : CopyReq) :
    (s.copyRest core port c q).mem = s.mem := by
  unfold State.copyRest; dsimp only
  split
  · rfl
  · rw [State.mem_setProg]
    repeat' split
    all_goals simp
@[simp] theorem State.mem_partDone (s : State) (core port : Nat) (c : Cmd) (q : CopyReq) (n : Nat) :
    (s.partDone core port c q n).mem = s.mem := by
  simp only [State.partDone, State.mem_copyRest, State.mem_count, State.mem_setProg]
  split <;> simp
@[simp] theorem State.mem_countPart (s : State) (core port : Nat) (c : CtxId) (ps : List (DWord × Trans)) :
    (s.countPart core port c ps).mem = s.mem := by
  simp [State.countPart]
@[simp] theorem State.mem_sendAs (s : State) (src : Nat × Nat) (c : CtxId) (dst : Peer) (tag : Nat) (body : PacketBody) :
    (s.sendAs src c dst tag body).mem = s.mem := rfl
@[simp] theorem State.mem_sendCopyStore (s : State) (c : CtxId) (k part : Nat) (cmd : Cmd) (ordered : Bool) (dst : Peer)
    (line : Nat) (body : PacketBody) : (s.sendCopyStore c k part cmd ordered dst line body).mem = s.mem := rfl
@[simp] theorem State.kept_copyMove {m : Tab Byte} (s : State) (core port : Nat) (c : Cmd) (q : CopyReq) (ts : List (Nat × Trans))
    (va : Nat → DWord) (hk : Memory.Kept m s.mem) : Memory.Kept m (s.copyMove core port c q ts va).mem := by
  unfold State.copyMove; dsimp only
  repeat' split
  all_goals simp [hk]
@[simp] theorem State.kept_copyStep {m : Tab Byte} (s : State) (core port : Nat) (c : Cmd) (q : CopyReq)
    (hk : Memory.Kept m s.mem) : Memory.Kept m (s.copyStep core port c q).mem := by
  unfold State.copyStep; dsimp only
  repeat' split
  all_goals simp [hk]
@[simp] theorem State.mem_copyEnd (s : State) (core port : Nat) (c : Cmd) (q : CopyReq) :
    (s.copyEnd core port c q).mem = s.mem := by
  simp [State.copyEnd]
theorem goes_execCopyComplete (i : PortRef) (s : State) : Goes s.mem (execCopyComplete i s) := by
  unfold execCopyComplete
  split <;> simp
@[simp] theorem State.mem_cancel (s : State) (ids : List Nat) : (s.cancel ids).mem = s.mem := by
  unfold State.cancel; dsimp only
  refine State.mem_foldl _ _ _ fun t p => ?_
  rw [State.mem_discardQueued]
  repeat' split
  all_goals simp
end Sys2Proof.Machine
end

section
/-! ### Queues, guards, tasks, MOV of special registers (R110, R238 to R256) -/
namespace Sys2Proof.Machine

@[simp] theorem State.mem_popped (s : State) (i : HDA) (ws : List Word) : (s.popped i ws).mem = s.mem := by simp [State.popped]
@[simp] theorem State.kept_pop {m : Tab Byte} (s : State) (i : HDA) (n : Nat) (hk : Memory.Kept m s.mem) :
    Memory.Kept m (s.pop i n).mem := by
  unfold State.pop; dsimp only
  repeat' split
  all_goals simp [hk]
theorem goes_execMovSpecialDestination (i : HDA) (s : State) : Goes s.mem (execMovSpecialDestination i s) := by
  unfold execMovSpecialDestination; dsimp only
  repeat' split
  all_goals simp
@[simp] theorem State.mem_setTaskq (s : State) (die q : Nat) (x : TaskQueue) : (s.setTaskq die q x).mem = s.mem := rfl
@[simp] theorem State.mem_dispatch (s : State) (core port : Nat) : (s.dispatch core port).mem = s.mem := by
  unfold State.dispatch; dsimp only
  repeat' split
  all_goals simp
@[simp] theorem State.mem_bandEnd (s : State) (core port : Nat) (c : Cmd) : (s.bandEnd core port c).mem = s.mem := by
  simp [State.bandEnd]
theorem goes_execEngineCommandComplete (i : PortRef) (s : State) : Goes s.mem (execEngineCommandComplete i s) := by
  unfold execEngineCommandComplete
  repeat' split
  all_goals simp
@[simp] theorem State.mem_drain (s : State) (b : Word) : (s.drain b).mem = s.mem := by
  unfold State.drain
  split <;> simp
theorem goes_execTkget (i : HD) (s : State) : Goes s.mem (execTkget i s) := by
  unfold execTkget; dsimp only
  repeat' split
  all_goals simp
theorem goes_execUsherPass (i : Nat) (s : State) : Goes s.mem (execUsherPass i s) := by
  unfold execUsherPass; dsimp only
  split
  · simp
  · rw [goes_next, State.mem_setDie, State.mem_foldl_fst]
    · simp
    · intro a n
      split
      · simp
      · rfl
end Sys2Proof.Machine
end

section
/-! ### Staged loops (R275 to R290) -/
namespace Sys2Proof.Machine

@[simp] theorem State.mem_hardIssue (s : State) (k : Nat) (r : Region) (c : Nat × Nat × Nat) :
    (s.hardIssue k r c).mem = s.mem := by
  unfold State.hardIssue; dsimp only
  repeat' split
  all_goals simp
@[simp] theorem State.mem_endRegion (s : State) (k : Nat) : (s.endRegion k).mem = s.mem := by simp [State.endRegion]
theorem State.mem_of_enterOne {s t : State} {k : Nat} (h : s.enterOne k = some t) : t.mem = s.mem := by
  unfold State.enterOne at h; dsimp only at h
  split at h
  · cases h
  · split at h <;> cases h
    simp
@[simp] theorem State.mem_enterAll (s : State) (k n : Nat) : (s.enterAll k n).mem = s.mem := by
  induction n generalizing s with
  | zero => rfl
  | succ n ih =>
    unfold State.enterAll
    split
    · rfl
    · next t ht => rw [ih, State.mem_of_enterOne ht]
theorem goes_execHeldCopyEnterPort (i : Nat) (s : State) : Goes s.mem (execHeldCopyEnterPort i s) := by
  unfold execHeldCopyEnterPort
  cases h : s.enterOne i with
  | none => simp
  | some t => simp [State.mem_of_enterOne h]
@[simp] theorem State.mem_placePrologue (s : State) (k n : Nat) : (s.placePrologue k n).mem = s.mem := by
  induction n generalizing s with
  | zero => rfl
  | succ n ih =>
    unfold State.placePrologue; dsimp only
    split
    · simp
    · split
      · simp
      · simp [ih]
@[simp] theorem State.mem_releaseCopies (s : State) (k : Nat) (cs : List (Nat × Nat × Nat)) :
    (s.releaseCopies k cs).mem = s.mem := by
  simp [State.releaseCopies]
theorem State.mem_of_buildRec {s : State} {m : Mask} {n : Nat} {a : DWord} {t : State} {r : BitVec 256}
    (h : s.buildRec m n a = .ok (t, r)) : t.mem = s.mem := by
  have good {b : List Byte} {u : State} (h : (goodRec b).map (fun r => (u, r)) = .ok (t, r)) : t = u := by
    cases hb : goodRec b <;> simp [hb, Except.map] at h
    exact h.1.symm
  unfold State.buildRec at h; dsimp only at h
  split at h
  · rw [good h]
  split at h
  · cases h
  split at h
  · cases h
  split at h
  · cases h
  split at h
  · rw [good h]; simp
  · cases h
  · cases h
  · split at h <;> cases h
theorem State.mem_of_buildRecs {s : State} {m : Mask} {es : List SchedEntry} {n : Nat} {t : State} {r : Tab (BitVec 256)}
    (h : s.buildRecs m es n = .ok (t, r)) : t.mem = s.mem := by
  induction es generalizing s n t r with
  | nil => cases h; rfl
  | cons e es ih =>
    unfold State.buildRecs at h
    split at h
    · cases h
    · next u q hq =>
      split at h <;> cases h
      next v rs hv => exact (ih hv).trans (State.mem_of_buildRec hq)
@[simp] theorem State.kept_recErr {m₀ : Tab Byte} (s : State) (m : Mask) (e : RecErr) (hk : Memory.Kept m₀ s.mem) :
    Memory.Kept m₀ (s.recErr m e).mem := by
  unfold State.recErr
  split <;> simp [hk]
@[simp] theorem State.kept_sloopEnd {m : Tab Byte} (s : State) (h : Hdr) (k : Nat) (hk : Memory.Kept m s.mem) :
    Memory.Kept m (s.sloopEnd h k).mem := by
  simp [State.sloopEnd, hk]
@[simp] theorem State.kept_sloopOpen {m₀ : Tab Byte} (s : State) (i : SLoop) (m : Mask) (anchor : Nat)
    (hk : Memory.Kept m₀ s.mem) : Memory.Kept m₀ (s.sloopOpen i m anchor).mem := by
  unfold State.sloopOpen; dsimp only
  split
  · simp [hk]
  split
  · simp [hk]
  · next t recs ht => simp [State.mem_of_buildRecs ht, hk]
@[simp] theorem State.kept_sloop {m₀ : Tab Byte} (s : State) (i : SLoop) (m : Mask) (hk : Memory.Kept m₀ s.mem) :
    Memory.Kept m₀ (s.sloop i m).mem := by
  unfold State.sloop; dsimp only
  repeat' split
  all_goals simp [hk]
@[simp] theorem State.kept_snext {m₀ : Tab Byte} (s : State) (i : HDB) (m : Mask) (k : Nat) (hk : Memory.Kept m₀ s.mem) :
    Memory.Kept m₀ (s.snext i m k).mem := by
  simp [State.snext, hk]
theorem goes_execSnext (i : HDB) (s : State) : Goes s.mem (execSnext i s) := by
  unfold execSnext
  split <;> simp
@[simp] theorem State.goes_claimed (s : State) (h : Hdr) (len : Nat) (f : Nat → Nat → State)
    (hf : ∀ k j, Memory.Kept s.mem (f k j).mem) : Goes s.mem (s.claimed h len f) := by
  unfold State.claimed; dsimp only
  split
  · simp
  split
  · simp
  · split <;> simp [hf]
@[simp] theorem State.kept_advance {m : Tab Byte} (s : State) (h : Hdr) (k j : Nat) (new : Int) (hk : Memory.Kept m s.mem) :
    Memory.Kept m (s.advance h k j new).mem := by
  simp [State.advance, hk]
@[simp] theorem State.mem_waitl (s : State) (h : Hdr) (len k j st : Nat) : (s.waitl h len k j st).mem = s.mem := by
  simp [State.waitl]
@[simp] theorem State.mem_retireIter (s : State) (k j : Nat) : (s.retireIter k j).mem = s.mem := by simp [State.retireIter]
@[simp] theorem State.mem_leaveRegion (s : State) (k x : Nat) : (s.leaveRegion k x).mem = s.mem := by simp [State.leaveRegion]
theorem goes_execSclose (i : Hdr) (s : State) : Goes s.mem (execSclose i s) := by
  unfold execSclose
  split <;> simp
@[simp] theorem State.mem_retireMember (s : State) : s.retireMember.mem = s.mem := by
  unfold State.retireMember; dsimp only
  repeat' split
  all_goals simp
end Sys2Proof.Machine
end

section
/-! ### Words of the save area (R333 to R335) -/
namespace Sys2Proof.Machine

theorem Memory.kept_drop {m n : Tab Byte} (p : Nat → Bool) (hk : Memory.Kept m n) : Memory.Kept m (Tab.drop p n) :=
  Memory.kept_of_wf hk (Tab.wf_drop 0 p n)
@[simp] theorem State.kept_wipe {m : Tab Byte} (s : State) (a n : Nat) (hk : Memory.Kept m s.mem) :
    Memory.Kept m (s.wipe a n).mem := by
  simp only [State.wipe]
  exact Memory.kept_drop _ hk
@[simp] theorem State.kept_putCells {m : Tab Byte} (s : State) (a : Nat) (t : Tab Byte) (hk : Memory.Kept m s.mem) :
    Memory.Kept m (s.putCells a t).mem := Memory.kept_of_wf hk (s.wf_putCells a t)
@[simp] theorem State.kept_countImage {m : Tab Byte} (s : State) (c : CtxId) (core e : Nat) (hk : Memory.Kept m s.mem) :
    Memory.Kept m (s.countImage c core e).mem := by
  unfold State.countImage; dsimp only
  rw [State.mem_sample]
  refine State.kept_foldl _ _ _ (fun t k => ?_) hk
  split <;> simp
@[simp] theorem State.kept_putBlock {m : Tab Byte} (s : State) (a : Nat) (fs : List (Nat × Nat × Nat))
    (hk : Memory.Kept m s.mem) :
    Memory.Kept m (s.putBlock a fs).mem := Memory.kept_of_wf hk (s.wf_putBlock a fs)
end Sys2Proof.Machine
end

section
/-! ### Paths of a warp (R141 to R145, R381) -/
namespace Sys2Proof.Machine

@[simp] theorem State.mem_askEntry (s : State) (d : Nat) : (s.askEntry d).mem = s.mem := by
  unfold State.askEntry
  split <;> simp
@[simp] theorem State.kept_pathErr {m : Tab Byte} (s : State) (e : PathErr) (hk : Memory.Kept m s.mem) :
    Memory.Kept m (s.pathErr e).mem := by
  unfold State.pathErr
  split <;> simp [hk]
@[simp] theorem State.kept_nextErr {m : Tab Byte} (s : State) (e : PathErr) (hk : Memory.Kept m s.mem) :
    Memory.Kept m (s.nextErr e).mem := by
  unfold State.nextErr
  split <;> simp [hk]
theorem State.kept_of_spillEntry {s t : State} {d : Nat} {e : StackEntry} (h : s.spillEntry d e = .ok t) :
    Memory.Kept s.mem t.mem := by
  unfold State.spillEntry at h; dsimp only at h
  split at h
  · cases h
  split at h
  · cases h
  · split at h <;> cases h
    simp
theorem State.eq_of_entryOf {s : State} {b : List Byte} {t : State} {r : StackEntry} (h : s.entryOf b = .ok (t, r)) : t = s := by
  unfold State.entryOf at h
  split at h <;> cases h
  rfl
theorem State.mem_of_fillEntry {s : State} {d : Nat} {t : State} {r : StackEntry} (h : s.fillEntry d = .ok (t, r)) :
    t.mem = s.mem := by
  unfold State.fillEntry at h; dsimp only at h
  split at h
  · rw [State.eq_of_entryOf h]
  split at h
  · cases h
  split at h
  · cases h
  split at h
  · rw [State.eq_of_entryOf h]; simp
  all_goals cases h
theorem State.mem_of_fillAll {s : State} {lo n : Nat} {t : State} {r : List StackEntry} (h : s.fillAll lo n = .ok (t, r)) :
    t.mem = s.mem := by
  induction n generalizing s t r with
  | zero => cases h; rfl
  | succ n ih =>
    unfold State.fillAll at h
    split at h
    · cases h
    · next u e hu =>
      split at h <;> cases h
      next v es hv => exact (ih hv).trans (State.mem_of_fillEntry hu)
theorem State.kept_of_spillList {s t : State} {lo : Nat} {old es : List StackEntry} (h : s.spillList lo old es = .ok t) :
    Memory.Kept s.mem t.mem := by
  induction es generalizing s with
  | nil => cases h; simp
  | cons e es ih =>
    unfold State.spillList at h
    split at h
    · exact ih h
    · split at h
      · cases h
      · next u hu => exact Memory.kept_trans (State.kept_of_spillEntry hu) (ih h)
theorem State.kept_of_push1 {s t : State} {e : StackEntry} (h : s.push1 e = .ok t) : Memory.Kept s.mem t.mem := by
  unfold State.push1 at h; dsimp only at h
  split at h
  · cases h
  split at h <;> cases h
  next u hu =>
    split at hu
    · cases hu; simp
    · simpa using State.kept_of_spillEntry hu
theorem State.kept_of_pushes {s t : State} {es : List StackEntry} (h : s.pushes es = .ok t) : Memory.Kept s.mem t.mem := by
  induction es generalizing s with
  | nil => cases h; simp
  | cons e es ih =>
    unfold State.pushes at h
    split at h
    · cases h
    · next u hu => exact Memory.kept_trans (State.kept_of_push1 hu) (ih h)
theorem State.kept_of_transfer {s t : State} {dest : Nat → DWord} {join fall : DWord} {pushJoin : Bool}
    (h : s.transfer dest join pushJoin fall = .ok t) : Memory.Kept s.mem t.mem := by
  unfold State.transfer at h; dsimp only at h
  split at h
  · cases h; simp
  · cases h; simp
  · split at h <;> cases h
    next u hu => simpa using State.kept_of_pushes hu
@[simp] theorem State.mem_refetch (s : State) (back : Nat) : (s.refetch back).mem = s.mem := by
  unfold State.refetch
  split
  · rfl
  · split <;> rfl
theorem State.mem_of_loadPath {s : State} {l : Loaded} (h : s.loadPath = .ok l) : l.s.mem = s.mem := by
  unfold State.loadPath at h; dsimp only at h
  split at h <;> cases h
  next t es ht => exact State.mem_of_fillAll ht
theorem Loaded.kept_of_store {l : Loaded} {p : Path} {t : State} (h : l.store p = .ok t) : Memory.Kept l.s.mem t.mem := by
  unfold Loaded.store at h; dsimp only at h
  split at h
  · cases h
  · next u hu =>
    split at h <;> cases h
    next v es hv => simpa [State.mem_of_fillAll hv] using State.kept_of_spillList hu
@[simp] theorem State.kept_pathStop {m₀ : Tab Byte} (s : State) (m : TrapMap) (hk : Memory.Kept m₀ s.mem) :
    Memory.Kept m₀ (s.pathStop m).mem := by
  unfold State.pathStop
  split <;> simp [hk]
/-- The state that R143 comes to before a fetch. -/
def Settled.state : Settled → State
  | .path s => s
  | .stopped s => s
@[simp] theorem State.kept_settle (s : State) : Memory.Kept s.mem s.settle.state.mem := by
  unfold State.settle; dsimp only
  generalize hu : (if s.pastPads s.w.pc = s.w.pc then s else s.upd fun w => { w with pc := s.pastPads s.w.pc }) = u
  have hum : u.mem = s.mem := by rw [← hu]; split <;> rfl
  split
  · simp [Settled.state, hum]
  split
  · simp [Settled.state, hum]
  · next l hl =>
    have hls := State.mem_of_loadPath hl
    rw [State.upd_mem, hum] at hls
    split
    · split
      · simp [Settled.state, hum]
      · next t ht =>
        have hst := Loaded.kept_of_store ht
        rw [hls] at hst
        simp [Settled.state, hst]
    · split
      · simp [Settled.state, hum]
      · next t ht =>
        have hst := Loaded.kept_of_store ht
        rw [hls] at hst
        split <;> simp [Settled.state, hst]
theorem State.kept_of_countSpin {s t : State} (h : s.countSpin = .ok t) : Memory.Kept s.mem t.mem := by
  unfold State.countSpin at h; dsimp only at h
  split at h
  · cases h; simp
  split at h
  · cases h; simp
  split at h
  · cases h
  · next l hl => simpa [State.mem_of_loadPath hl] using Loaded.kept_of_store h
end Sys2Proof.Machine
end

section
/-! ### Responses and packets of other packages (R138, R166, R355 to R376) -/
namespace Sys2Proof.Machine

@[simp] theorem State.kept_fencepWait {m : Tab Byte} (s : State) (i : FenceP) (hk : Memory.Kept m s.mem) :
    Memory.Kept m (s.fencepWait i).mem := by
  simp [State.fencepWait, hk]
theorem goes_execFaultRecordEnqueue (s : State) : Goes s.mem (execFaultRecordEnqueue s) := by
  unfold execFaultRecordEnqueue
  split <;> simp
@[simp] theorem State.kept_copyAnswer {m : Tab Byte} (s : State) (r : FaultRec) (code : Cause) (hk : Memory.Kept m s.mem) :
    Memory.Kept m (s.copyAnswer r code).mem := by
  unfold State.copyAnswer; dsimp only
  split
  · exact State.kept_foldl _ _ _ (fun t k => by simp) hk
  · rw [State.mem_foldl]
    · exact hk
    · intro t p
      split <;> simp
@[simp] theorem State.mem_reissueWarp (s : State) (k : Nat) : (s.reissueWarp k).mem = s.mem := by simp [State.reissueWarp]
@[simp] theorem State.kept_warpResolved {m : Tab Byte} (s : State) (r : FaultRec) (hk : Memory.Kept m s.mem) :
    Memory.Kept m (s.warpResolved r).mem := by
  simp [State.warpResolved, hk]
@[simp] theorem State.kept_imageTrap {m : Tab Byte} (s : State) (r : FaultRec) (k : Nat) (hk : Memory.Kept m s.mem) :
    Memory.Kept m (s.imageTrap r k).mem := by
  simp [State.imageTrap, hk]
@[simp] theorem State.kept_liveTrap {m : Tab Byte} (s : State) (r : FaultRec) (k : Nat) (hk : Memory.Kept m s.mem) :
    Memory.Kept m (s.liveTrap r k).mem := by
  simp [State.liveTrap, hk]
@[simp] theorem State.kept_warpFailed {m : Tab Byte} (s : State) (r : FaultRec) (hk : Memory.Kept m s.mem) :
    Memory.Kept m (s.warpFailed r).mem := by
  simp [State.warpFailed, hk]
@[simp] theorem State.kept_answer {m : Tab Byte} (s : State) (id : Nat) (code : FaultRec → Cause) (f : State → FaultRec → State)
    (hf : ∀ t r, Memory.Kept t.mem (f t r).mem) (hk : Memory.Kept m s.mem) : Memory.Kept m (s.answer id code f).mem := by
  unfold State.answer; dsimp only
  split
  · exact hk
  · next r hr =>
    have hfr := hf { s with faultOpen := s.faultOpen.filter (fun r => r.id != id) } r
    split
    · simp [hk]
    · exact Memory.kept_trans hk hfr
@[simp] theorem State.kept_atHeld {m : Tab Byte} (s : State) (k : Nat) (f : State → State)
    (hf : ∀ t, Memory.Kept t.mem (f t).mem) (hk : Memory.Kept m s.mem) : Memory.Kept m (s.atHeld k f).mem := by
  have hfk := hf { s with cur := k }
  unfold State.atHeld; dsimp only
  split <;> exact Memory.kept_trans hk hfk
@[simp] theorem State.mem_fillFrom (s : State) (k : Nat) (asks : List Ask) (epoch : Nat) (got : List (Nat × Byte)) :
    (s.fillFrom k asks epoch got).mem = s.mem := by
  simp [State.fillFrom]
@[simp] theorem State.kept_giveBack {m : Tab Byte} (s : State) (k : Nat) (p : Pending) (ls : Mask) (bytes : List (Nat × Byte))
    (hk : Memory.Kept m s.mem) : Memory.Kept m (s.giveBack k p ls bytes).mem := by
  unfold State.giveBack; dsimp only
  repeat' split
  all_goals simp [hk]
theorem goes_execLoadResponse (i : LoadResponse) (s : State) : Goes s.mem (execLoadResponse i s) := by
  unfold execLoadResponse
  split <;> simp
@[simp] theorem State.mem_setLink (s : State) (p : Nat) (l : Link) : (s.setLink p l).mem = s.mem := rfl
@[simp] theorem State.mem_genDrop (s : State) (p : Nat) : (s.genDrop p).mem = s.mem := rfl
@[simp] theorem State.mem_reply (s : State) (dst : Peer) (c : CtxId) (g : BitVec 16) (tag : Nat) (body : PacketBody) :
    (s.reply dst c g tag body).mem = s.mem := rfl
@[simp] theorem State.mem_setStream (s : State) (k : Nat) (x : Stream) : (s.setStream k x).mem = s.mem := rfl
@[simp] theorem State.kept_applyAccess {m : Tab Byte} (s : State) (r : RemoteAccess) (hk : Memory.Kept m s.mem) :
    Memory.Kept m (s.applyAccess r).mem := by
  simp [State.applyAccess, hk]
@[simp] theorem State.kept_applyAtomic {m : Tab Byte} (s : State) (r : RemoteAtomic) (hk : Memory.Kept m s.mem) :
    Memory.Kept m (s.applyAtomic r).mem := by
  simp [State.applyAtomic, hk]
@[simp] theorem State.mem_refuseMcast (s : State) (d : StMcDelivery) (code : Cause) (lanes : Mask) :
    (s.refuseMcast d code lanes).mem = s.mem := by
  simp [State.refuseMcast]
@[simp] theorem State.kept_applyMcast {m : Tab Byte} (s : State) (d : StMcDelivery) (hk : Memory.Kept m s.mem) :
    Memory.Kept m (s.applyMcast d).mem := by
  unfold State.applyMcast; dsimp only
  generalize hu : (if (d.gen != s.genNow d.ctx) = true then s.genDrop d.port else s) = u
  have hum : u.mem = s.mem := by rw [← hu]; split <;> simp
  split
  · simp [hum, hk]
  · rw [State.mem_ite, State.mem_reply, State.mem_reply, State.mem_refuseMcast, ite_self]
    refine State.kept_foldl_fst _ _ _ (fun a l => ?_) (by simpa [hum] using hk)
    split <;> simp
@[simp] theorem State.kept_applyStore {m : Tab Byte} (s : State) (x : Arrived) (hk : Memory.Kept m s.mem) :
    Memory.Kept m (s.applyStore x).mem := by
  unfold State.applyStore
  split <;> simp [hk]
@[simp] theorem State.kept_drainStream {m : Tab Byte} (s : State) (k n : Nat) (hk : Memory.Kept m s.mem) :
    Memory.Kept m (s.drainStream k n).mem := by
  induction n generalizing s with
  | zero => exact hk
  | succ n ih =>
    unfold State.drainStream; dsimp only
    split
    · exact hk
    · exact ih _ (by simp [hk])
@[simp] theorem State.kept_ingress {m : Tab Byte} (s : State) (k n : Nat) (ordered : Bool) (what : Arrived)
    (hk : Memory.Kept m s.mem) : Memory.Kept m (s.ingress k n ordered what).mem := by
  simp [State.ingress, hk]
@[simp] theorem State.kept_ingressDrop {m : Tab Byte} (s : State) (port k n : Nat) (hk : Memory.Kept m s.mem) :
    Memory.Kept m (s.ingressDrop port k n).mem := by
  simp [State.ingressDrop, hk]
theorem goes_execRemoteAccessIngress (i : RemoteAccess) (s : State) : Goes s.mem (execRemoteAccessIngress i s) := by
  unfold execRemoteAccessIngress
  repeat' split
  all_goals simp
@[simp] theorem State.kept_imageSub {m : Tab Byte} (s : State) (c : CtxId) (team slot b n : Nat) (hk : Memory.Kept m s.mem) :
    Memory.Kept m (s.imageSub c team slot b n).1.mem := by
  unfold State.imageSub; dsimp only
  split
  · split <;> exact hk
  · exact hk
  · dsimp only; split <;> simp [hk]
@[simp] theorem State.mem_partOverflow (s : State) (l : LateCopy) : (s.partOverflow l).mem = s.mem := rfl
@[simp] theorem State.kept_partArrives {m : Tab Byte} (s : State) (l : LateCopy) (bytes : List Byte) (hk : Memory.Kept m s.mem) :
    Memory.Kept m (s.partArrives l bytes).mem := by
  unfold State.partArrives; dsimp only
  split
  · split
    · split <;> simp [hk]
    · exact hk
  split
  · refine State.kept_countLate _ _ ?_
    split
    · rw [State.mem_ite, State.mem_partOverflow, ite_self]
      simp [hk]
    · simp [hk]
  · exact hk
@[simp] theorem State.kept_copyData {m : Tab Byte} (s : State) (port tag : Nat) (bytes : List Byte) (hk : Memory.Kept m s.mem) :
    Memory.Kept m (s.copyData port tag bytes).mem := by
  unfold State.copyData
  split <;> simp [hk]
theorem goes_execCopyReadResponse (i : CopyData) (s : State) : Goes s.mem (execCopyReadResponse i s) := by
  unfold execCopyReadResponse
  repeat' split
  all_goals simp
@[simp] theorem State.mem_delivered (s : State) (tag : Nat) : (s.delivered tag).mem = s.mem := rfl
@[simp] theorem State.mem_performed (s : State) (r : RemoteOp) : (s.performed r).mem = s.mem := by simp [State.performed]
@[simp] theorem State.mem_orphan (s : State) (port tag : Nat) : (s.orphan port tag).mem = s.mem := by
  unfold State.orphan
  split <;> simp
@[simp] theorem State.kept_acked {m : Tab Byte} (s : State) (port tag : Nat) (hk : Memory.Kept m s.mem) :
    Memory.Kept m (s.acked port tag).mem := by
  unfold State.acked; dsimp only
  repeat' split
  all_goals simp [hk]
end Sys2Proof.Machine
end

section
/-! ### Groups, LDRED and STMC (R357 to R366) -/
namespace Sys2Proof.Machine

@[simp] theorem State.mem_countChanges (s old : State) : (s.countChanges old).mem = s.mem := rfl
@[simp] theorem State.mem_ldredSend (s : State) (i : LdRed) (m : Mask) :
    (s.ldredSend i m).mem = s.mem := by simp [State.ldredSend]
@[simp] theorem State.mem_ldredHits (s : State) (i : LdRed) (m : Mask) (word : DWord) (ea : Nat → DWord) :
    (s.ldredHits i m word ea).mem = s.mem := rfl
@[simp] theorem State.kept_ldredIssue {m : Tab Byte} (s : State) (i : LdRed) (hk : Memory.Kept m s.mem) :
    Memory.Kept m (s.ldredIssue i).mem := by
  unfold State.ldredIssue; dsimp only
  repeat' split
  all_goals simp [hk]
theorem State.mem_of_memberRead {s t : State} {c : CtxId} {i n : Nat} {ea : DWord} {b : List Byte}
    (h : s.memberRead c i ea n = some (t, b)) : t.mem = s.mem := by
  unfold State.memberRead at h
  split at h
  · obtain ⟨x, -, hx⟩ := Option.map_eq_some_iff.1 h
    cases hx; simp
  · cases h
@[simp] theorem State.mem_memberReads (s : State) (c : CtxId) (r : List (Nat × DWord × Nat)) :
    (s.memberReads c r).1.mem = s.mem := by
  induction r generalizing s with
  | nil => rfl
  | cons x r ih =>
    obtain ⟨i, a, n⟩ := x
    unfold State.memberReads
    split
    · rfl
    · next u b hu => exact (ih u).trans (State.mem_of_memberRead hu)
@[simp] theorem State.mem_contribute (s : State) (c : CtxId) (word : DWord) (gid : BitVec 16) (sz : Size) (m : Mask)
    (ea : Nat → DWord)
    (stale : Bool) : (s.contribute c word gid sz m ea stale).1.mem = s.mem := by
  unfold State.contribute; dsimp only
  split
  · rfl
  · split <;> simp
@[simp] theorem State.mem_ldredBack (s : State) (k : Nat) (p : Pending) (cs : List Contribution) :
    (s.ldredBack k p cs).mem = s.mem := by
  unfold State.ldredBack; dsimp only
  split <;> simp
theorem goes_execLdredResult (r : LdRedReply) (s : State) : Goes s.mem (execLdredResult r s) := by
  unfold execLdredResult
  split <;> simp
@[simp] theorem State.mem_stmcSend (s : State) (i : StMc) (m : Mask) : (s.stmcSend i m).mem = s.mem := by simp [State.stmcSend]
@[simp] theorem State.kept_stmcIssue {m : Tab Byte} (s : State) (i : StMc) (hk : Memory.Kept m s.mem) :
    Memory.Kept m (s.stmcIssue i).mem := by
  unfold State.stmcIssue; dsimp only
  repeat' split
  all_goals simp [hk]
end Sys2Proof.Machine
end

section
/-! ### Snapshots and transactions (R296 to R309) -/
namespace Sys2Proof.Machine

@[simp] theorem State.mem_takeSnap (s : State) (t : DWord) (f : Warp → Warp) : (s.takeSnap t f).mem = s.mem := by
  unfold State.takeSnap; dsimp only
  split <;> simp
theorem goes_execSnap (i : HA) (s : State) : Goes s.mem (execSnap i s) := by
  unfold execSnap; dsimp only
  repeat' split
  all_goals simp
theorem goes_execTxb (i : HA) (s : State) : Goes s.mem (execTxb i s) := by
  unfold execTxb; dsimp only
  repeat' split
  all_goals simp
@[simp] theorem State.mem_endTx (s : State) (st : TxState) (code : BitVec 6) : (s.endTx st code).mem = s.mem := by
  simp [State.endTx]
@[simp] theorem State.mem_commitEnd (s : State) (t : DWord) (d : RegNo) (sw : Bool) : (s.commitEnd t d sw).mem = s.mem := by
  simp [State.commitEnd]
@[simp] theorem State.mem_startInstall (s : State) (o : Nat) : (s.startInstall o).mem = s.mem := rfl
@[simp] theorem State.mem_commit (s : State) (i : HD) : (s.commit i).mem = s.mem := by
  unfold State.commit
  repeat' split
  all_goals simp
theorem goes_execTxc (i : HD) (s : State) : Goes s.mem (execTxc i s) := by
  unfold execTxc
  split <;> simp
theorem goes_execTxcCommitWaitEnd (i : Nat) (s : State) : Goes s.mem (execTxcCommitWaitEnd i s) := by
  unfold execTxcCommitWaitEnd; dsimp only
  repeat' split
  all_goals simp
theorem goes_execVersionInstallDone (i : Nat) (s : State) : Goes s.mem (execVersionInstallDone i s) := by
  unfold execVersionInstallDone; dsimp only
  repeat' split
  all_goals simp
@[simp] theorem State.kept_expireSnaps {m : Tab Byte} (s : State) (hk : Memory.Kept m s.mem) :
    Memory.Kept m s.expireSnaps.mem := by
  unfold State.expireSnaps; dsimp only
  split
  · exact hk
  · exact State.kept_foldl _ _ _ (fun t o => by simp) hk
@[simp] theorem State.kept_poolFail {m : Tab Byte} (s : State) (hk : Memory.Kept m s.mem) : Memory.Kept m s.poolFail.mem := by
  simp [State.poolFail, hk]
@[simp] theorem State.kept_poolStep {m : Tab Byte} (s : State) (die : Nat) (hk : Memory.Kept m s.mem) :
    Memory.Kept m (s.poolStep die).mem := by
  unfold State.poolStep
  repeat' split
  all_goals simp [hk]
theorem goes_execPoolStallExpiry (i : Nat) (s : State) : Goes s.mem (execPoolStallExpiry i s) := by
  unfold execPoolStallExpiry; dsimp only
  repeat' split
  all_goals simp
end Sys2Proof.Machine
end

section
/-! ### Integer instructions (R104 to R110) -/
namespace Sys2Proof.Machine

@[simp] theorem State.goes_warpNext (s : State) (f : Warp → Warp) : Goes s.mem (s.warpNext f) := by
  simp [State.warpNext]
end Sys2Proof.Machine
end

section
/-! ### Traps, FTIME, SYSC, HALT (R341 to R344, R384 to R388) -/
namespace Sys2Proof.Machine

@[simp] theorem State.kept_tool {m : Tab Byte} (s : State) (index : BitVec 4) (hk : Memory.Kept m s.mem) :
    Memory.Kept m (s.tool index).mem := by
  simp [State.tool, hk]
theorem State.kept_of_dropAbove {s t : State} {tb : Nat} (h : s.dropAbove tb = .ok t) : Memory.Kept s.mem t.mem := by
  unfold State.dropAbove at h; dsimp only at h
  split at h
  · cases h; simp
  · exact Loaded.kept_of_store h
theorem goes_execRett (i : RetT) (s : State) : Goes s.mem (execRett i s) := by
  unfold execRett
  split
  · simp
  split
  · simp
  · next t ht => simp [State.kept_of_dropAbove ht]
@[simp] theorem State.mem_syscWait (s : State) : s.syscWait.mem = s.mem := by simp [State.syscWait]
end Sys2Proof.Machine
end

section
/-! ### Launches and groups (R131 to R135, R311 to R319) -/
namespace Sys2Proof.Machine

@[simp] theorem State.mem_seqTouch (s : State) (c : CtxId) (va : DWord) (n : Nat) : (s.seqTouch c va n).mem = s.mem := by
  refine State.mem_foldl _ _ _ fun t p => ?_
  split
  · rfl
  · split <;> simp
@[simp] theorem State.mem_askLaunch (s : State) (l : Launch) (ks : List Nat) : (s.askLaunch l ks).mem = s.mem := by
  simp [State.askLaunch]
@[simp] theorem State.mem_seqStore (s : State) (c : CtxId) (dst : Peer) (ws : List (Nat × Byte)) :
    (s.seqStore c dst ws).mem = s.mem := rfl
@[simp] theorem State.kept_seqWrite {m : Tab Byte} (s v : State) (c : CtxId) (va : DWord) (bs : List Byte)
    (hk : Memory.Kept m s.mem) : Memory.Kept m (s.seqWrite v c va bs).mem := by
  refine State.kept_foldl _ _ _ (fun t p => ?_) hk
  split
  · simp
  · split <;> simp
@[simp] theorem State.mem_submit (s : State) (c : CtxId) (recva : DWord) (prank pcnt : Nat) (ft0 ft1 : DWord) :
    (s.submit c recva prank pcnt ft0 ft1).mem = s.mem := by
  simp [State.submit]
@[simp] theorem State.kept_refuseLaunch {m : Tab Byte} (s : State) (l : Launch) (code : Nat) (hk : Memory.Kept m s.mem) :
    Memory.Kept m (s.refuseLaunch l code).mem := by
  simp [State.refuseLaunch, hk]
@[simp] theorem State.kept_accept {m : Tab Byte} (s : State) (l : Launch) (hk : Memory.Kept m s.mem) :
    Memory.Kept m (s.accept l).mem := by
  unfold State.accept
  split <;> simp [hk]
theorem goes_execLaunchAccept (s : State) : Goes s.mem (execLaunchAccept s) := by
  unfold execLaunchAccept
  split <;> simp
@[simp] theorem State.mem_placeTeam (s : State) (l : Launch) (coh j core : Nat) : (s.placeTeam l coh j core).1.mem = s.mem := by
  unfold State.placeTeam
  split
  · rfl
  · dsimp only
    rw [State.mem_foldl]
    · simp
    · intro t e
      rw [State.setWarp_mem]
      split
      · simp
      · rfl
@[simp] theorem State.mem_placeCohort (s : State) (l : Launch) (grove : Nat) (cores : List Nat) (objects : Nat) :
    (s.placeCohort l grove cores objects).mem = s.mem := by
  simp [State.placeCohort]
theorem goes_execCohortPlacement (i : Nat) (s : State) : Goes s.mem (execCohortPlacement i s) := by
  unfold execCohortPlacement
  repeat' split
  all_goals simp
@[simp] theorem State.mem_retireWarp (s : State) (k : Nat) : (s.retireWarp k).mem = s.mem := by simp [State.retireWarp]
@[simp] theorem State.mem_freeRegions (s : State) (f : Region → Bool) : (s.freeRegions f).mem = s.mem := rfl
@[simp] theorem State.mem_retireTeam (s : State) (k : Nat) (t : Team) : (s.retireTeam k t).mem = s.mem := by
  simp [State.retireTeam]
@[simp] theorem State.mem_retireCohort (s : State) (id : Nat) (c : Cohort) : (s.retireCohort id c).mem = s.mem := rfl
@[simp] theorem State.mem_settleGroups (s : State) : s.settleGroups.mem = s.mem := by simp [State.settleGroups]
@[simp] theorem State.mem_advanceTime (s : State) (n : Nat) : (s.advanceTime n).mem = s.mem := rfl
@[simp] theorem State.kept_finishLaunch {m : Tab Byte} (s : State) (l : Launch) (r : DWord) (hk : Memory.Kept m s.mem) :
    Memory.Kept m (s.finishLaunch l r).mem := by
  unfold State.finishLaunch; dsimp only
  repeat' split
  all_goals simp [hk]
@[simp] theorem State.mem_sendResult (s : State) (l : Launch) : (s.sendResult l).mem = s.mem := rfl
theorem goes_execLaunchComplete (i : Nat) (s : State) : Goes s.mem (execLaunchComplete i s) := by
  unfold execLaunchComplete
  split <;> simp
end Sys2Proof.Machine
end

section
/-! ### Saving a context (R328 to R336) -/
namespace Sys2Proof.Machine

theorem State.kept_of_spillUp {s t : State} {d : Nat} {es : List StackEntry} (h : s.spillUp d es = .ok t) :
    Memory.Kept s.mem t.mem := by
  induction es generalizing s d with
  | nil => cases h; simp
  | cons e es ih =>
    unfold State.spillUp at h
    split at h
    · cases h
    · next u hu => exact Memory.kept_trans (State.kept_of_spillEntry hu) (ih h)
@[simp] theorem State.kept_spillStack {m : Tab Byte} (s : State) (k : Nat) (hk : Memory.Kept m s.mem) :
    Memory.Kept m (s.spillStack k).1.mem := by
  unfold State.spillStack; dsimp only
  split
  · split
    · next t ht =>
      have hu := State.kept_of_spillUp ht
      exact Memory.kept_trans hk hu
    · exact hk
  · exact hk
@[simp] theorem State.kept_saveWarp {m : Tab Byte} (s : State) (c : CtxId) (k : Nat) (hk : Memory.Kept m s.mem) :
    Memory.Kept m (s.saveWarp c k).mem := by
  unfold State.saveWarp; dsimp only
  rw [State.setWarp_mem, State.mem_leavePool]
  exact State.kept_putCells _ _ _ (State.kept_putBlock _ _ _ (State.kept_spillStack s k hk))
@[simp] theorem State.mem_partsOut (s : State) (c : CtxId) (k : Nat) (h : Half) : (s.partsOut c k h).mem = s.mem := by
  refine State.mem_foldl _ _ _ fun t p => ?_
  split <;> simp
@[simp] theorem State.mem_dropGroups (s : State) (c : CtxId) (k : Nat) : (s.dropGroups c k).mem = s.mem := rfl
@[simp] theorem State.kept_groveImages {m : Tab Byte} (s : State) (c : CtxId) (k : Nat) (hk : Memory.Kept m s.mem) :
    Memory.Kept m (s.groveImages c k).mem := by
  refine State.kept_foldl _ _ _ (fun t e => ?_) hk
  dsimp only
  split
  · simp
  · refine State.kept_foldl _ _ _ (fun u b => ?_) (by simp)
    split <;> simp
@[simp] theorem State.kept_saveCore {m : Tab Byte} (s : State) (c : CtxId) (k : Nat) (h : Half) (hk : Memory.Kept m s.mem) :
    Memory.Kept m (s.saveCore c k h).mem := by
  unfold State.saveCore; dsimp only
  rw [State.mem_dropGroups, State.setCore_mem]
  refine State.kept_groveImages _ _ _ (State.kept_foldl _ _ _ (fun t n => ?_) (State.kept_foldl _ _ _ (fun t e => by simp)
    (State.kept_putBlock _ _ _ ?_)))
  · split <;> simp
  · dsimp only
    refine Memory.kept_drop _ ?_
    simpa using hk
@[simp] theorem State.kept_saveHeader {m : Tab Byte} (s : State) (c : CtxId) (w : Switch) (sums : List (Nat × Nat))
    (hk : Memory.Kept m s.mem) : Memory.Kept m (s.saveHeader c w sums).mem := by
  refine State.kept_foldl _ _ _ (fun t e => by simp) (State.kept_wipe _ _ _
    (State.kept_putBlock _ _ _ (State.kept_wipe _ _ _ ?_)))
  split <;> simp [hk]
@[simp] theorem State.kept_saveAll {m : Tab Byte} (s : State) (c : CtxId) (w : Switch) (cores : List (Nat × Half))
    (hk : Memory.Kept m s.mem) : Memory.Kept m (s.saveAll c w cores).mem :=
  State.kept_saveHeader _ _ _ _ (State.kept_foldl _ _ _ (fun t e => by simp) hk)
end Sys2Proof.Machine
end

section
/-! ### Restoring a context (R322, R328 to R338, R394) -/
namespace Sys2Proof.Machine

@[simp] theorem State.kept_restoreWarp {m : Tab Byte} (s : State) (c : CtxId) (k : Nat) (hk : Memory.Kept m s.mem) :
    Memory.Kept m (s.restoreWarp c k).mem := by
  unfold State.restoreWarp; dsimp only
  repeat' split
  all_goals simp [hk]
@[simp] theorem State.mem_joinCohort (s : State) (k : Nat) (t : Team) : (s.joinCohort k t).mem = s.mem := by
  unfold State.joinCohort; dsimp only
  repeat' split
  all_goals simp
@[simp] theorem State.mem_barsBack (s old : State) (c : CtxId) (k place : Nat) : (s.barsBack old c k place).mem = s.mem := by
  simp [State.barsBack]
@[simp] theorem State.kept_restoreCore {m : Tab Byte} (s : State) (c : CtxId) (k : Nat) (h : Half) (hk : Memory.Kept m s.mem) :
    Memory.Kept m (s.restoreCore c k h).mem := by
  unfold State.restoreCore; dsimp only
  split
  · exact hk
  · refine State.kept_foldl _ _ _ (fun t n => ?_) (State.kept_foldl _ _ _ (fun t p => ?_)
      (State.kept_foldl _ _ _ (fun t n => ?_) hk))
    · split <;> simp
    · split <;> simp
    · split <;> simp
@[simp] theorem State.mem_readDesc (s : State) (c : CtxId) : (s.readDesc c).mem = s.mem := rfl
@[simp] theorem State.mem_reportHits (s : State) (c : CtxId) : (s.reportHits c).mem = s.mem := by simp [State.reportHits]
@[simp] theorem State.mem_deliverHeld (s : State) (c : CtxId) : (s.deliverHeld c).mem = s.mem := by
  refine State.mem_foldl _ _ _ fun t p => ?_
  repeat' split
  all_goals simp
@[simp] theorem State.mem_touchRecord (s : State) (c : CtxId) (k : Nat) (h : Half) : (s.touchRecord c k h).mem = s.mem := by
  simp [State.touchRecord]
@[simp] theorem State.kept_stampRestore {m : Tab Byte} (s : State) (c : CtxId) (hk : Memory.Kept m s.mem) :
    Memory.Kept m (s.stampRestore c).mem := by
  simp [State.stampRestore, hk]
@[simp] theorem State.mem_dropAll (s : State) (c : CtxId) : (s.dropAll c).mem = s.mem := by simp [State.dropAll]
@[simp] theorem State.kept_restoreCores {m : Tab Byte} (s : State) (c : CtxId) (cores : List (Nat × Half)) (stopped : Bool)
    (hk : Memory.Kept m s.mem) : Memory.Kept m (s.restoreCores c cores stopped).mem := by
  unfold State.restoreCores; dsimp only
  split
  · rw [State.mem_foldl (fun (t : State) (e : Nat × Half) => t.forgetKept c e.1) _ _ fun _ _ => rfl]
    refine State.kept_foldl _ _ _ (fun t e => ?_) (State.kept_foldl _ _ _ (fun t e => by simp) (by simp [hk]))
    simp
  · simp [hk]
@[simp] theorem State.kept_startCtx {m : Tab Byte} (s : State) (c : CtxId) (fresh : Bool) (cores : State → List (Nat × Half))
    (hk : Memory.Kept m s.mem) : Memory.Kept m (s.startCtx c fresh cores).mem := by
  unfold State.startCtx; dsimp only
  rw [State.mem_reportHits, State.mem_deliverHeld]
  refine State.kept_stampRestore _ _ ?_
  refine State.kept_of_ite (State.kept_setCState _ _ _ (State.kept_of_ite (State.kept_restoreCores _ _ _ _ ?_) ?_))
    (State.kept_setCState _ _ _ (State.kept_of_ite (State.kept_restoreCores _ _ _ _ ?_) ?_))
  all_goals simp [hk]
end Sys2Proof.Machine
end

section
/-! ### Switches, the bill, shootdowns (R167, R320 to R345, R398) -/
namespace Sys2Proof.Machine

@[simp] theorem State.mem_beginSwitch (s : State) (tenant : Nat) (src dst : Option CtxId) (reason : Option Cause) :
    (s.beginSwitch tenant src dst reason).mem = s.mem := rfl
@[simp] theorem State.kept_toRestore {m : Tab Byte} (s : State) (w : Switch) (hk : Memory.Kept m s.mem) :
    Memory.Kept m (s.toRestore w).mem := by
  unfold State.toRestore
  split <;> simp [hk]
@[simp] theorem State.kept_haltCtx {m : Tab Byte} (s : State) (c : CtxId) (hk : Memory.Kept m s.mem) :
    Memory.Kept m (s.haltCtx c).mem := by
  simp [State.haltCtx, hk]
theorem goes_execContextSwitch (s : State) : Goes s.mem (execContextSwitch s) := by
  unfold execContextSwitch
  repeat' split
  all_goals simp
theorem goes_execSaveComplete (s : State) : Goes s.mem (execSaveComplete s) := by
  unfold execSaveComplete
  split
  · simp
  split
  · dsimp only
    split
    · refine State.kept_toRestore _ _ ?_
      dsimp only
      refine State.kept_setCState _ _ _ ?_
      simp
    · simp
  · simp
theorem goes_execCopyPart (i : PortRef) (s : State) : Goes s.mem (execCopyPart i s) := by
  unfold execCopyPart
  split <;> simp
@[simp] theorem State.kept_saveT1 {m : Tab Byte} (s : State) (since : DWord) (k : Nat) (hk : Memory.Kept m s.mem) :
    Memory.Kept m (s.saveT1 since k).mem := by
  simp [State.saveT1, hk]
@[simp] theorem State.kept_restoreT1 {m : Tab Byte} (s : State) (k : Nat) (hk : Memory.Kept m s.mem) :
    Memory.Kept m (s.restoreT1 k).mem := by
  unfold State.restoreT1; dsimp only
  split
  · rw [State.mem_reportHits, State.mem_deliverHeld]
    simp [hk]
  · simp [hk]
@[simp] theorem State.mem_setActive (s : State) (k : Nat) (b : Bool) : (s.setActive k b).mem = s.mem := rfl
@[simp] theorem State.kept_splitOff {m : Tab Byte} (s : State) (w : Switch) (k : Nat) (hk : Memory.Kept m s.mem) :
    Memory.Kept m (s.splitOff w k).mem := by
  simp [State.splitOff, hk]
@[simp] theorem State.mem_repairDone (s : State) : s.repairDone.mem = s.mem := by simp [State.repairDone]
@[simp] theorem State.mem_preemptNow (s : State) (c : CtxId) : (s.preemptNow c).mem = s.mem := by simp [State.preemptNow]
@[simp] theorem State.mem_endPreemptNow (s : State) : s.endPreemptNow.mem = s.mem := by
  unfold State.endPreemptNow
  split <;> simp
@[simp] theorem State.mem_dbgSaveNow (s : State) (c : CtxId) : (s.dbgSaveNow c).mem = s.mem := by simp [State.dbgSaveNow]
@[simp] theorem State.mem_dbgRestoreNow (s : State) (c : CtxId) : (s.dbgRestoreNow c).mem = s.mem := by simp [State.dbgRestoreNow]
@[simp] theorem State.mem_command (s : State) (d : HeldCmd) : (s.command d).mem = s.mem := by
  unfold State.command
  split
  · rfl
  · split <;> simp
@[simp] theorem State.mem_heldNow (s : State) : s.heldNow.mem = s.mem := by simp [State.heldNow]
@[simp] theorem State.kept_resumeCtx {m : Tab Byte} (s : State) (c : CtxId) (hk : Memory.Kept m s.mem) :
    Memory.Kept m (s.resumeCtx c).mem := by
  simp [State.resumeCtx, hk]
@[simp] theorem State.kept_clearImages {m : Tab Byte} (s : State) (c : CtxId) (hk : Memory.Kept m s.mem) :
    Memory.Kept m (s.clearImages c).mem :=
  Memory.kept_of_wf hk fun h => by
    have hz : (fun e : Nat × Byte => e.2 != 0) = fun e => decide (e.2 ≠ 0) := by funext e; simp [bne, beq_eq_decide]
    unfold State.clearImages; dsimp only
    rw [hz]
    exact Tab.wf_map_filter 0 _ _ (Tab.wf_filter 0 _ _ h)
@[simp] theorem State.kept_unstop {m : Tab Byte} (s : State) (c : CtxId) (hk : Memory.Kept m s.mem) :
    Memory.Kept m (s.unstop c).mem := by
  simp [State.unstop, hk]
@[simp] theorem State.kept_revoke {m : Tab Byte} (s : State) (c : CtxId) (hk : Memory.Kept m s.mem) :
    Memory.Kept m (s.revoke c).mem := by
  simp [State.revoke, hk]
@[simp] theorem State.kept_revokeHeld {m : Tab Byte} (s : State) (hk : Memory.Kept m s.mem) : Memory.Kept m s.revokeHeld.mem := by
  simp [State.revokeHeld, hk]
@[simp] theorem State.kept_askRevoke {m : Tab Byte} (s : State) (c : CtxId) (hk : Memory.Kept m s.mem) :
    Memory.Kept m (s.askRevoke c).mem := by
  simp [State.askRevoke, hk]
@[simp] theorem State.kept_endSwitch {m : Tab Byte} (s : State) (w : Switch) (hk : Memory.Kept m s.mem) :
    Memory.Kept m (s.endSwitch w).mem := by
  have hcores (ks ls : List Nat) :
      Memory.Kept m (ls.foldl (fun t k => (t.setActive k true).restoreT1 k) (ks.foldl (fun t k => t.splitOff w k) s)).mem :=
    State.kept_foldl _ _ _ (fun t k => by simp) (State.kept_foldl _ _ _ (fun t k => by simp) hk)
  simp only [State.endSwitch, State.mem_heldNow, State.mem_ite, ite_self]
  split
  · simp [hcores]
  · refine State.kept_startCtx _ _ _ _ ?_
    simp [hcores]
theorem goes_execRestoreComplete (s : State) : Goes s.mem (execRestoreComplete s) := by
  unfold execRestoreComplete
  split <;> simp
@[simp] theorem State.mem_ctxWrite (s : State) (c : CtxId) : (s.ctxWrite c).mem = s.mem := State.setReg_mem _ _ _
@[simp] theorem State.mem_dropVersions (s : State) (c : CtxId) : (s.dropVersions c).mem = s.mem := rfl
@[simp] theorem State.mem_dropCores (s : State) (c : CtxId) (live : Bool) : (s.dropCores c live).mem = s.mem := by
  simp [State.dropCores]
@[simp] theorem State.mem_dropFlights (s : State) (c : CtxId) : (s.dropFlights c).mem = s.mem := rfl
@[simp] theorem State.kept_dropLaunches {m : Tab Byte} (s : State) (c : CtxId) (hk : Memory.Kept m s.mem) :
    Memory.Kept m (s.dropLaunches c).mem := by
  simp [State.dropLaunches, hk]
@[simp] theorem State.kept_abandon {m : Tab Byte} (s : State) (c : CtxId) (hk : Memory.Kept m s.mem) :
    Memory.Kept m (s.abandon c).mem := by
  unfold State.abandon; dsimp only
  repeat' split
  all_goals simp [hk]
@[simp] theorem State.kept_discardCtx {m : Tab Byte} (s : State) (c : CtxId) (cause : Cause) (die : Nat)
    (hk : Memory.Kept m s.mem) :
    Memory.Kept m (s.discardCtx c cause die).mem := by
  unfold State.discardCtx; dsimp only
  split
  · refine State.kept_abandon _ _ (State.kept_setCState _ _ _ ?_)
    rw [State.mem_trace, State.mem_fault]
    refine State.kept_setByte _ _ _ ?_
    rw [State.mem_dropCores, State.mem_dropFlights, State.mem_dropVersions]
    simp [hk]
  · exact hk
@[simp] theorem State.mem_renewEpoch (s : State) : s.renewEpoch.mem = s.mem := rfl
@[simp] theorem State.mem_perform (s : State) (e : Entry) : (s.perform e).mem = s.mem := by simp [State.perform]
theorem goes_execBillEntryPerform (s : State) : Goes s.mem (execBillEntryPerform s) := by
  unfold execBillEntryPerform
  split <;> simp
theorem goes_execSlotEnd (s : State) : Goes s.mem (execSlotEnd s) := by
  unfold execSlotEnd
  split <;> simp
@[simp] theorem State.kept_imageOld {m : Tab Byte} (s : State) (c : CtxId) (k : Nat) (p : Pending) (lane : Nat)
    (bytes : List Byte)
    (hk : Memory.Kept m s.mem) : Memory.Kept m (s.imageOld c k p lane bytes).mem := by
  unfold State.imageOld
  split
  · split
    · refine State.kept_countLate _ _ ?_
      split <;> simp [hk]
    · exact hk
  · exact hk
theorem goes_execLatePacketApply (i : LatePacket) (s : State) : Goes s.mem (execLatePacketApply i s) := by
  unfold execLatePacketApply
  repeat' split
  all_goals simp
theorem goes_execSyscReply (i : SyscReply) (s : State) : Goes s.mem (execSyscReply i s) := by
  unfold execSyscReply; dsimp only
  split
  · simp
  split
  · split
    · exact State.kept_putNum _ _ _ _ (by simp)
    · simp
  · split <;> simp
@[simp] theorem State.mem_unmapped (s : State) : s.unmapped.mem = s.mem := rfl
end Sys2Proof.Machine
end

section
/-! ### Control flow (R147 to R152) -/
namespace Sys2Proof.Machine

theorem State.goes_orPathErr (s : State) (r : Except PathErr State) (hr : ∀ t, r = .ok t → Memory.Kept s.mem t.mem) :
    Goes s.mem (s.orPathErr r) := by
  cases r with
  | ok t => simp [State.orPathErr, hr t rfl]
  | error e => simp [State.orPathErr]
theorem State.goes_branch (s : State) (h : Hdr) (next : DWord) (dest : Nat → DWord) (join : DWord) (pushJoin : Bool)
    (after : State → Except PathErr State) (write : Warp → Warp) (ha : ∀ t u, after t = .ok u → Memory.Kept t.mem u.mem) :
    Goes s.mem (s.branch h next dest join pushJoin after write) := by
  unfold State.branch; dsimp only
  split
  · simp
  · refine s.goes_orPathErr _ fun t ht => ?_
    split at ht
    · cases ht
    · next u hu =>
      split at ht <;> cases ht
      next v hv => exact Memory.kept_trans (State.kept_of_transfer hu) (ha u v hv)
/-- A branch that does nothing more than go there. -/
theorem State.goes_branchOk (s : State) (h : Hdr) (next : DWord) (dest : Nat → DWord) (join : DWord) (pushJoin : Bool)
    (write : Warp → Warp) : Goes s.mem (s.branch h next dest join pushJoin .ok write) :=
  s.goes_branch _ _ _ _ _ _ _ fun t u h => by cases h; exact Memory.kept_refl _
theorem goes_execBra (i : Bra) (s : State) : Goes s.mem (execBra i s) := by
  refine s.goes_branch _ _ _ _ _ _ _ fun t u h => ?_
  split at h
  · exact State.kept_of_countSpin h
  · cases h; exact Memory.kept_refl _
theorem goes_execTramp (i : Tramp) (s : State) : Goes s.mem (execTramp i s) := by
  unfold execTramp
  repeat' split
  all_goals simp
theorem goes_execTret (i : Bool) (s : State) : Goes s.mem (execTret i s) := by
  unfold execTret
  repeat' split
  all_goals simp
theorem Loaded.kept_of_sync {l : Loaded} {len : Nat} {parts m : Mask} {t : State} (h : l.sync len parts m = .ok t) :
    Memory.Kept l.s.mem t.mem := by
  unfold Loaded.sync at h; dsimp only at h
  split at h
  · cases h
  split at h
  · exact Loaded.kept_of_store h
  split at h
  · cases h
  split at h
  · cases h
  · next u hu =>
    split at h
    · cases h
    · next q hq =>
      split at h
      · cases h
      · refine Memory.kept_trans (State.kept_of_push1 hu) ?_
        rw [← State.mem_of_loadPath hq]
        exact Loaded.kept_of_store h
theorem State.goes_syncw (s : State) (h : Hdr) (len : Nat) (mask : Nat → Mask) : Goes s.mem (s.syncw h len mask) := by
  unfold State.syncw; dsimp only
  split
  · simp
  split
  · simp
  split
  · simp
  split
  · simp
  · refine s.goes_orPathErr _ fun t ht => ?_
    split at ht
    · cases ht
    · next l hl =>
      split at ht <;> cases ht
      next u hu =>
        have hv := Loaded.kept_of_sync hu
        rw [State.mem_of_loadPath hl] at hv
        exact hv
theorem goes_execSyncw (i : HA) (s : State) : Goes s.mem (execSyncw i s) := s.goes_syncw _ _ _
theorem goes_execSyncwImm (i : HI) (s : State) : Goes s.mem (execSyncwImm i s) := s.goes_syncw _ _ _
end Sys2Proof.Machine
end

section
/-! ### Floating point and narrow formats (R111 to R125) -/
namespace Sys2Proof.Machine

@[simp] theorem State.kept_qfmt {m : Tab Byte} (s : State) (h : Hdr) (d : RegNo) (len : Nat) (x : Word)
    (hk : Memory.Kept m s.mem) :
    Memory.Kept m (s.qfmt h d len x).mem := by
  unfold State.qfmt
  split
  · simp [hk]
  · split <;> simp [hk]
@[simp] theorem State.kept_withFmt {m : Tab Byte} (s : State) (c : RegNo) (j : Nat) (f : Fmt → State) (hk : Memory.Kept m s.mem)
    (hf : ∀ x, Memory.Kept m (f x).mem) : Memory.Kept m (s.withFmt c j f).mem := by
  unfold State.withFmt
  split
  · simp [hk]
  · split <;> simp [hk, hf]
end Sys2Proof.Machine
end

section
/-! ### Cross-lane instructions (R126 to R130) -/
namespace Sys2Proof.Machine

theorem goes_execMovx (i : MovX) (s : State) : Goes s.mem (execMovx i s) := by
  unfold execMovx
  split
  · simp
  · exact s.goes_warpNext _
theorem goes_execMovxw (i : MovX) (s : State) : Goes s.mem (execMovxw i s) := by
  unfold execMovxw
  split
  · simp
  · exact s.goes_warpNext _
end Sys2Proof.Machine
end

section
/-! ### Control and status registers, the debugger (R69 to R71, R387 to R395) -/
namespace Sys2Proof.Machine

@[simp] theorem State.mem_setPerf (s : State) (core tenant k : Nat) (v : DWord) : (s.setPerf core tenant k v).mem = s.mem := by
  simp [State.setPerf]
@[simp] theorem State.kept_setRight {m : Tab Byte} (s : State) (c : CtxId) (v : DWord) (hk : Memory.Kept m s.mem) :
    Memory.Kept m (s.setRight c v).mem := by
  simp [State.setRight, hk]
@[simp] theorem State.kept_setCtxCsr {m : Tab Byte} (s : State) (c : CtxId) (n : Nat) (v : DWord) (hk : Memory.Kept m s.mem) :
    Memory.Kept m (s.setCtxCsr c n v).mem := by
  unfold State.setCtxCsr
  split <;> simp [hk]
@[simp] theorem State.mem_setSplit (s : State) (core : Nat) (v : DWord) : (s.setSplit core v).mem = s.mem := rfl
@[simp] theorem State.kept_setCsr {m : Tab Byte} (s : State) (n : Nat) (v : DWord) (hk : Memory.Kept m s.mem) :
    Memory.Kept m (s.setCsr n v).mem := by
  unfold State.setCsr
  split <;> simp [hk]
theorem goes_execCsrr (i : CsrR) (s : State) : Goes s.mem (execCsrr i s) := by
  unfold execCsrr
  split <;> simp
theorem goes_execCsrw (i : CsrW) (s : State) : Goes s.mem (execCsrw i s) := by
  unfold execCsrw
  split <;> simp
@[simp] theorem State.mem_requestMap (s : State) (cause : Cause) : (s.requestMap cause).mem = s.mem := by simp [State.requestMap]
@[simp] theorem State.kept_stopAll {m : Tab Byte} (s : State) (c : CtxId) (hk : Memory.Kept m s.mem) :
    Memory.Kept m (s.stopAll c).mem := by
  unfold State.stopAll; dsimp only
  repeat' split
  all_goals simp [hk]
@[simp] theorem State.mem_dbgWrite (s : State) (mask val : DWord) : (s.dbgWrite mask val).mem = s.mem := rfl
@[simp] theorem State.mem_dbgCtx (s : State) (c : CtxId) : (s.dbgCtx c).mem = s.mem := rfl
theorem goes_execDbgSetWmode (i : DbgWmode) (s : State) : Goes s.mem (execDbgSetWmode i s) := by
  unfold execDbgSetWmode; dsimp only
  repeat' split
  all_goals simp
end Sys2Proof.Machine
end

section
/-! ### Optical ports (R346 to R354) -/
namespace Sys2Proof.Machine

theorem State.goes_onPort (s : State) (p : Nat) (f : Link → State) (hf : ∀ l, Memory.Kept s.mem (f l).mem) :
    Goes s.mem (s.onPort p f) := by
  simp [State.onPort, hf]
@[simp] theorem State.mem_sendPacket (s : State) (n : Nat) : (s.sendPacket n).mem = s.mem := by
  unfold State.sendPacket; dsimp only
  repeat' split
  all_goals simp
@[simp] theorem State.mem_transmit (s : State) : s.transmit.mem = s.mem := by simp [State.transmit]
@[simp] theorem State.kept_linkDown {m : Tab Byte} (s : State) (p : Nat) (hk : Memory.Kept m s.mem) :
    Memory.Kept m (s.linkDown p).mem := by
  simp [State.linkDown, hk]
@[simp] theorem State.mem_loseAbsent (s : State) : s.loseAbsent.mem = s.mem := by simp [State.loseAbsent]
theorem goes_execLinkEnable (i : LinkEnable) (s : State) : Goes s.mem (execLinkEnable i s) := by
  refine s.goes_onPort _ _ fun l => ?_
  dsimp only
  repeat' split
  all_goals simp
theorem goes_execLinkRetrain (i : Nat) (s : State) : Goes s.mem (execLinkRetrain i s) :=
  s.goes_onPort _ _ fun l => by simp
@[simp] theorem State.kept_calibrationFails {m : Tab Byte} (s : State) (p : Nat) (hk : Memory.Kept m s.mem) :
    Memory.Kept m (s.calibrationFails p).mem := by
  simp [State.calibrationFails, hk]
theorem goes_execRingCalibrationDone (i : PortFlag) (s : State) : Goes s.mem (execRingCalibrationDone i s) :=
  s.goes_onPort _ _ fun l => by simp
theorem goes_execCalibrationTimeout (i : Nat) (s : State) : Goes s.mem (execCalibrationTimeout i s) :=
  s.goes_onPort _ _ fun l => by simp
theorem goes_execLinkTrainingDone (i : PortPeer) (s : State) : Goes s.mem (execLinkTrainingDone i s) :=
  s.goes_onPort _ _ fun l => by simp
theorem goes_execHeaterSaturation (i : PortFlag) (s : State) : Goes s.mem (execHeaterSaturation i s) :=
  s.goes_onPort _ _ fun l => by simp
theorem goes_execLossOfLight (i : Nat) (s : State) : Goes s.mem (execLossOfLight i s) :=
  s.goes_onPort _ _ fun l => by simp
@[simp] theorem State.kept_startReplay {m : Tab Byte} (s : State) (p : Nat) (seq : BitVec 24) (hk : Memory.Kept m s.mem) :
    Memory.Kept m (s.startReplay p seq).mem := by
  simp [State.startReplay, hk]
theorem goes_execNakReceive (i : PortSeq) (s : State) : Goes s.mem (execNakReceive i s) :=
  s.goes_onPort _ _ fun l => by simp
theorem goes_execAckTimeout (i : Nat) (s : State) : Goes s.mem (execAckTimeout i s) :=
  s.goes_onPort _ _ fun l => by split <;> simp
theorem goes_execAckReceive (i : PortSeq) (s : State) : Goes s.mem (execAckReceive i s) :=
  s.goes_onPort _ _ fun l => by simp
theorem goes_execFlitReceive (i : FlitIn) (s : State) : Goes s.mem (execFlitReceive i s) :=
  s.goes_onPort _ _ fun l => by simp
theorem State.goes_rotateKey (s : State) (p : Nat) : Goes s.mem (s.rotateKey p) := s.goes_onPort _ _ fun l => by simp
theorem goes_execKeyAutoRotate (i : Nat) (s : State) : Goes s.mem (execKeyAutoRotate i s) := by
  simp [execKeyAutoRotate, State.goes_rotateKey]
theorem goes_execKeyAnnounce (i : PortSeq) (s : State) : Goes s.mem (execKeyAnnounce i s) :=
  s.goes_onPort _ _ fun l => by simp
end Sys2Proof.Machine
end

section
/-! ### Bring-up, soft errors, host writes (R3, R69, R326, R399 to R404) -/
namespace Sys2Proof.Machine

/-- Power clears memory (log entry 13). -/
@[simp] theorem State.mem_bringUp (s : State) (i : PowerOn) : (s.bringUp i).mem = [] := by
  simp [State.bringUp, State.reset]
theorem goes_execPowerOn (i : PowerOn) (s : State) : Goes s.mem (execPowerOn i s) := by
  simp [execPowerOn, Memory.kept_iff, Memory.wf, Tab.wf, Tab.rising]
@[simp] theorem State.mem_softRec (s : State) (c : CtxId) (cause : Cause) (addr : DWord) (die : Nat) :
    (s.softRec c cause addr die).mem = s.mem := by
  simp [State.softRec]
@[simp] theorem State.mem_spoil (s : State) (p : SoftPlace) : (s.spoil p).mem = s.mem := by
  cases p with
  | memory a => simp [State.spoil]
  | _ => rfl
theorem goes_execSoftError (i : SoftError) (s : State) : Goes s.mem (execSoftError i s) := by
  unfold execSoftError
  split
  · simp
  · split <;> simp
@[simp] theorem State.kept_reportPoison {m : Tab Byte} (s : State) (hk : Memory.Kept m s.mem) :
    Memory.Kept m s.reportPoison.mem := by
  simp [State.reportPoison, hk]
@[simp] theorem State.mem_retireCore (s : State) (core : BitVec 8) : (s.retireCore core).mem = s.mem := by
  unfold State.retireCore; dsimp only
  repeat' split
  all_goals simp
@[simp] theorem State.kept_validWritten {m : Tab Byte} (s : State) (c : CtxId) (hk : Memory.Kept m s.mem) :
    Memory.Kept m (s.validWritten c).mem := by
  simp [State.validWritten, hk]
theorem goes_execHostMemoryWrite (i : HostWrite) (s : State) (h : i.addr + i.bytes.length ≤ 0xC000000000) :
    Goes s.mem (execHostMemoryWrite i s) := by
  rw [← exec_hostMemoryWrite, hostMemoryWrite_within s i h]
  refine State.kept_foldl _ _ _ (fun t a => by simp) (State.kept_setBytes _ _ _ ?_)
  simp
@[simp] theorem State.kept_writeCsr {m : Tab Byte} (s : State) (unit n : Nat) (v : DWord) (hk : Memory.Kept m s.mem) :
    Memory.Kept m (s.writeCsr unit n v).mem := by
  unfold State.writeCsr
  repeat' split
  all_goals simp [hk]
@[simp] theorem State.mem_writeQueue (s : State) (off : Nat) (v : DWord) : (s.writeQueue off v).mem = s.mem := rfl
@[simp] theorem State.kept_writeReg {m : Tab Byte} (s : State) (off : Nat) (v : DWord) (hk : Memory.Kept m s.mem) :
    Memory.Kept m (s.writeReg off v).mem := by
  simp [State.writeReg, hk]
@[simp] theorem State.mem_traceIn (s : State) : s.traceIn.mem = s.mem := rfl
theorem goes_execResidentDriverRingRead (i : RingRead) (s : State) : Goes s.mem (execResidentDriverRingRead i s) := by
  unfold execResidentDriverRingRead
  split <;> simp
end Sys2Proof.Machine
end

section
/-! ### Fetch, reissue and what follows a step (R47, R136, R329, R418) -/
namespace Sys2Proof.Machine

@[simp] theorem State.mem_offer (s : State) (q : Nat) (pick : Option Nat) : (s.offer q pick).mem = s.mem := by
  unfold State.offer
  repeat' split
  all_goals simp
@[simp] theorem State.mem_fetchFault (s : State) (c : Cause) : (s.fetchFault c).mem = s.mem := by simp [State.fetchFault]
@[simp] theorem State.mem_useCode (s : State) (pc : DWord) (n : Nat) (t : Trans) : (s.useCode pc n t).mem = s.mem := by
  simp [State.useCode]
/-- Fetching, once the warp's path is settled. -/
@[simp] theorem State.kept_fetch {m : Tab Byte} (s : State) (hk : Memory.Kept m s.mem) : Memory.Kept m s.fetch.mem := by
  have hs := Memory.kept_trans hk s.kept_settle
  unfold State.fetch
  split
  · exact hk
  split
  · next t ht => rwa [ht] at hs
  · next t ht =>
    rw [ht] at hs
    change Memory.Kept m t.mem at hs
    dsimp only
    split
    · simp [hs]
    · simp [hs]
    · split
      · simp [hs]
      · split <;> simp [hs]
@[simp] theorem State.mem_reacquire (s : State) : s.reacquire.mem = s.mem := by simp [State.reacquire]
@[simp] theorem State.kept_reissueLanes {m : Tab Byte} (s : State) (w0 : DWord) (lanes : Mask) (eas : Tab DWord) (d : RegNo)
    (sz : Size) (sx : Bool) (v : View) (hk : Memory.Kept m s.mem) :
    Memory.Kept m (s.reissueLanes w0 lanes eas d sz sx v).mem := by
  simp [State.reissueLanes, hk]
@[simp] theorem State.kept_reissueFill {m : Tab Byte} (s : State) (w0 : DWord) (e : DWord) (hk : Memory.Kept m s.mem) :
    Memory.Kept m (s.reissueFill w0 e).mem := by
  unfold State.reissueFill; dsimp only
  repeat' split
  all_goals simp [hk]
@[simp] theorem State.kept_reissue {m : Tab Byte} (s : State) (hk : Memory.Kept m s.mem) : Memory.Kept m s.reissue.mem := by
  unfold State.reissue
  repeat' split
  all_goals simp [hk]
@[simp] theorem State.kept_reissueNow {m : Tab Byte} (s : State) (hk : Memory.Kept m s.mem) : Memory.Kept m s.reissueNow.mem := by
  simp [State.reissueNow, hk]
theorem State.kept_of_waitOver {s t : State} (h : s.waitOver = some t) : Memory.Kept s.mem t.mem := by
  unfold State.waitOver at h; dsimp only at h
  repeat' split at h
  all_goals cases h
  all_goals simp
@[simp] theorem State.kept_endStep {m : Tab Byte} (s f old : State) (k : Nat) (hk : Memory.Kept m s.mem) :
    Memory.Kept m (s.endStep f old k).mem := by
  unfold State.endStep; dsimp only
  repeat' split
  all_goals simp [hk]
@[simp] theorem State.mem_endBreak (s f : State) (k : Nat) : (s.endBreak f k).mem = s.mem := by simp [State.endBreak]
@[simp] theorem State.kept_settleAll {m : Tab Byte} (s old : State) (hk : Memory.Kept m s.mem) :
    Memory.Kept m (s.settleAll old).mem := by
  simp [State.settleAll, hk]
@[simp] theorem State.mem_refill (s : State) : s.refill.mem = s.mem := rfl
end Sys2Proof.Machine
end

section
/-! ### Every instruction and event -/
namespace Sys2Proof.Machine

/-- Every instruction and event but a host write beyond memory. -/
theorem goes_exec (i : Instr) (s : State) (h : ∀ w, i = .hostMemoryWrite w → w.addr + w.bytes.length ≤ 0xC000000000) :
    Goes s.mem (exec i s) := by
  cases i with
  | hostMemoryWrite w => exact goes_execHostMemoryWrite w s (h w rfl)
  -- instructions that change the executing warp alone
  | iadd _ | iaddImm _ | isub _ | isubImm _ | imul _ | imulImm _ | imulhi _ | imulhiImm _ | imad _ | imadImm _ | imin _
    | iminImm _ | imax _ | imaxImm _ | iabs _ | ineg _ | and _ | andImm _ | or _ | orImm _ | xor _ | xorImm _ | not _ | andn _
    | andnImm _ | shl _ | shlImm _ | shr _ | shrImm _ | sar _ | sarImm _ | rot _ | rotImm _ | popc _ | clz _ | brev _ | bfe _
    | bfeImm _ | bfi _ | bfiImm _ | icmp _ | icmpImm _ | sel _ | selImm _ | movReg _ | movi _ | lea _ | leaImm _ | iadd64 _
    | iadd64Imm _ | imad64 _ | imad64Imm _ | icvt _ | fmin _ | fminImm _ | fmax _ | fmaxImm _ | fcmp _ | fcmpImm _ | fclass _
    | fdivs _ | frnd _ | dcmp _ | hmin2 _ | hmin2Imm _ | hmax2 _ | hmax2Imm _ | srseed _ | perm _ | vote _ | wred _ | wscan _
    | matchLanes _ | yield _ | nop _ | qstat _ | gset _ | gclr _ | txq _ | agq _ | ftime _ => exact s.goes_warpNext _
  | brx _ | call _ | callx _ | ret _ => exact s.goes_branchOk _ _ _ _ _ _
  -- floating-point results with their flags
  | fadd _ | faddImm _ | fsub _ | fsubImm _ | fmul _ | fmulImm _ | ffma _ | ffmaImm _ | frcp _ | frsq _ | fsqrt _ | fexp2 _
    | flog2 _ | fsin _ | fcos _ | ftanh _ | ftoi _ | hadd2 _ | hadd2Imm _ | hmul2 _ | hmul2Imm _ | hfma2 _ | hfma2Imm _
    | bscale _ => exact State.kept_fpV _ _ _ _ _ _ _ (Memory.kept_refl _)
  | dadd _ | dmul _ | dfma _ => exact State.kept_fpV64 _ _ _ _ _ _ _ (Memory.kept_refl _)
  | linkRotate p => exact s.goes_rotateKey p
  -- instructions and events put together from operations that have their rules
  | movSpecialSource _ | fcvt _ | itof _ | qfmt _ | qfmtImm _ | qpack _ | qunpack _ | spill _ | fill _ | exit _ | yieldExpiry _
    | bkpt _ | ld _ | st _ | lds _ | sts _ | ldfe _ | ldff _ | stef _ | stf _ | fest _ | feq _ | feTimeoutExpiry _ | atom _
    | atomr _ | fence _ | fencep _ | promote _ | faultResolved _ | faultUnresolvable _ | remoteAck _ | remoteAtomicIngress _
    | leaseExpiry _ | instructionFetch _ | illegalEncoding _ | tool64 _ | tool96 _ | tool128 _ | binit _ | barv _ | barx _
    | bwait _ | btest _ | bdrop _ | bandacq _ | bandrel _ | obrel _ | obld _ | accz _ | qbind _ | qcmd _ | qdrain _
    | queueHeadDispatch _ | tkput _ | tkdone _ | hrec _ | cbatch _ | cwait _ | ccancel _ | sloop _ | sadv _ | sjmp _ | waitl _
    | waitlReg _ | sret _ | snapx _ | txa _ | vat _ | foragerPass _ | watermarkFrameSend | watermarkFrameReceive _
    | vpoolCfgWrite _ | postw _ | launchSubmit _ | warpRetire _ | resultExchangeFrame _ | ldred _ | ldredContribution _ | stmc _
    | stmcDelivery _ | sysc _ | halt _ | trap _ | debugRevoke _ | watchWrite _ | dbgStop _ | dbgSave _ | dbgRestore _ | dbgStep _
    | billEntryReceive _ | ctxCmdPreempt _ | ctxCmdEndPreempt | ctxCmdResume _ | ctxCmdDiscard _ | ptpFrame _
    | ringmasterElection _ | shootdownStart _ | shootdownDone | coreRetireRequest _ | scrubPass _ | coolantOvertemp
    | registerWrite _ | internalError _ | commitStampNextNanosecond _ | coolantBelowRatedInlet =>
    simp [exec, execMovSpecialSource, execFcvt, execItof, execQfmt, execQfmtImm, execQpack, execQunpack, execSpill, execFill,
      execExit, execYieldExpiry, execBkpt, execLd, execSt, execLds, execSts, execLdfe, execLdff, execStef, execStf, execFest,
      execFeq, execFeTimeoutExpiry, execAtom, execAtomr, execFence, execFencep, execPromote, execFaultResolved,
      execFaultUnresolvable, execRemoteAck, execRemoteAtomicIngress, execLeaseExpiry, execInstructionFetch, execIllegalEncoding,
      execTool64, execTool96, execTool128, execBinit, execBarv, execBarx, execBwait, execBtest, execBdrop, execBandacq,
      execBandrel, execObrel, execObld, execAccz, execQbind, execQcmd, execQdrain, execQueueHeadDispatch, execTkput, execTkdone,
      execHrec, execCbatch, execCwait, execCcancel, execSloop, execSadv, execSjmp, execWaitl, execWaitlReg, execSret, execSnapx,
      execTxa, execVat, execForagerPass, execWatermarkFrameSend, execWatermarkFrameReceive, execVpoolCfgWrite, execPostw,
      execLaunchSubmit, execWarpRetire, execResultExchangeFrame, execLdred, execLdredContribution, execStmc, execStmcDelivery,
      execSysc, execHalt, execTrap, execDebugRevoke, execWatchWrite, execDbgStop, execDbgSave, execDbgRestore, execDbgStep,
      execBillEntryReceive, execCtxCmdPreempt, execCtxCmdEndPreempt, execCtxCmdResume, execCtxCmdDiscard, execPtpFrame,
      execRingmasterElection, execShootdownStart, execShootdownDone, execCoreRetireRequest, execScrubPass, execCoolantOvertemp,
      execRegisterWrite, execInternalError, execCommitStampNextNanosecond, execCoolantBelowRatedInlet]
  | movSpecialDestination x => exact goes_execMovSpecialDestination x s
  | movx x => exact goes_execMovx x s
  | movxw x => exact goes_execMovxw x s
  | bra x => exact goes_execBra x s
  | tramp x => exact goes_execTramp x s
  | tret x => exact goes_execTret x s
  | syncw x => exact goes_execSyncw x s
  | syncwImm x => exact goes_execSyncwImm x s
  | pfch x => exact goes_execPfch x s
  | cflush x => exact goes_execCflush x s
  | faultRecordEnqueue => exact goes_execFaultRecordEnqueue s
  | loadResponse x => exact goes_execLoadResponse x s
  | remoteAccessIngress x => exact goes_execRemoteAccessIngress x s
  | obres x => exact goes_execObres x s
  | mma x => exact goes_execMma x s
  | accrd x => exact goes_execAccrd x s
  | accwr x => exact goes_execAccwr x s
  | bandCmdMma x => exact goes_execBandCmdMma x s
  | bandCmdAccz x => exact goes_execBandCmdAccz x s
  | bandCmdAccrd x => exact goes_execBandCmdAccrd x s
  | bandCmdAccwr x => exact goes_execBandCmdAccwr x s
  | bandCmdColrd x => exact goes_execBandCmdColrd x s
  | engineCommandComplete x => exact goes_execEngineCommandComplete x s
  | tkget x => exact goes_execTkget x s
  | usherPass x => exact goes_execUsherPass x s
  | copy x => exact goes_execCopy x s
  | copyPart x => exact goes_execCopyPart x s
  | copyReadResponse x => exact goes_execCopyReadResponse x s
  | copyComplete x => exact goes_execCopyComplete x s
  | snext x => exact goes_execSnext x s
  | sclose x => exact goes_execSclose x s
  | heldCopyEnterPort x => exact goes_execHeldCopyEnterPort x s
  | snap x => exact goes_execSnap x s
  | txb x => exact goes_execTxb x s
  | txc x => exact goes_execTxc x s
  | txcCommitWaitEnd x => exact goes_execTxcCommitWaitEnd x s
  | versionInstallDone x => exact goes_execVersionInstallDone x s
  | poolStallExpiry x => exact goes_execPoolStallExpiry x s
  | launchAccept => exact goes_execLaunchAccept s
  | cohortPlacement x => exact goes_execCohortPlacement x s
  | launchComplete x => exact goes_execLaunchComplete x s
  | ldredResult x => exact goes_execLdredResult x s
  | syscReply x => exact goes_execSyscReply x s
  | rett x => exact goes_execRett x s
  | csrr x => exact goes_execCsrr x s
  | csrw x => exact goes_execCsrw x s
  | dbgSetWmode x => exact goes_execDbgSetWmode x s
  | billEntryPerform => exact goes_execBillEntryPerform s
  | slotEnd => exact goes_execSlotEnd s
  | contextSwitch => exact goes_execContextSwitch s
  | saveComplete => exact goes_execSaveComplete s
  | restoreComplete => exact goes_execRestoreComplete s
  | latePacketApply x => exact goes_execLatePacketApply x s
  | linkEnable x => exact goes_execLinkEnable x s
  | linkRetrain x => exact goes_execLinkRetrain x s
  | keyAutoRotate x => exact goes_execKeyAutoRotate x s
  | ringCalibrationDone x => exact goes_execRingCalibrationDone x s
  | calibrationTimeout x => exact goes_execCalibrationTimeout x s
  | linkTrainingDone x => exact goes_execLinkTrainingDone x s
  | heaterSaturation x => exact goes_execHeaterSaturation x s
  | lossOfLight x => exact goes_execLossOfLight x s
  | flitReceive x => exact goes_execFlitReceive x s
  | ackReceive x => exact goes_execAckReceive x s
  | nakReceive x => exact goes_execNakReceive x s
  | ackTimeout x => exact goes_execAckTimeout x s
  | keyAnnounce x => exact goes_execKeyAnnounce x s
  | powerOn x => exact goes_execPowerOn x s
  | softError x => exact goes_execSoftError x s
  | residentDriverRingRead x => exact goes_execResidentDriverRingRead x s
end Sys2Proof.Machine
end

section
/-! ### What a warp fetches is no host write (R59) -/
namespace Sys2Proof.Machine

/-- What a builder answers is no host write. -/
def NoHostWrite (x : Except Cause Instr) : Prop := ∀ w, x ≠ .ok (.hostMemoryWrite w)

@[simp] theorem noHostWrite_error (c : Cause) : NoHostWrite (.error c) := nofun
@[simp] theorem noHostWrite_ok (i : Instr) : NoHostWrite (.ok i) ↔ ∀ w, i ≠ .hostMemoryWrite w := by simp [NoHostWrite]
@[simp] theorem noHostWrite_pure (i : Instr) : NoHostWrite (pure i) ↔ ∀ w, i ≠ .hostMemoryWrite w := noHostWrite_ok i
@[simp] theorem noHostWrite_bind {α : Type} (x : Except Cause α) (f : α → Except Cause Instr) :
    NoHostWrite (x >>= f) ↔ ∀ a, x = .ok a → NoHostWrite (f a) := by
  cases x with
  | ok a => exact ⟨fun h b e => Except.ok.inj e ▸ h, fun h => h a rfl⟩
  | error c => exact ⟨fun _ => nofun, fun _ => nofun⟩
@[simp] theorem noHostWrite_map {α : Type} (f : α → Instr) (x : Except Cause α) :
    NoHostWrite (f <$> x) ↔ ∀ a, x = .ok a → ∀ w, f a ≠ .hostMemoryWrite w := by
  rw [map_eq_pure_bind, noHostWrite_bind]
  simp only [noHostWrite_pure]

@[simp] theorem noHostWrite_bInt2 (k : Int2 → Instr) (l : IntLegal) (r : Raw) (hk : ∀ i w, k i ≠ .hostMemoryWrite w) :
    NoHostWrite (bInt2 k l r) := by
  simp [bInt2, hk]
@[simp] theorem noHostWrite_bInt3 (k : Int3 → Instr) (l : IntLegal) (r : Raw) (hk : ∀ i w, k i ≠ .hostMemoryWrite w) :
    NoHostWrite (bInt3 k l r) := by
  simp [bInt3, hk]
@[simp] theorem noHostWrite_bInt3I (k : Int3I → Instr) (l : IntLegal) (r : Raw) (hk : ∀ i w, k i ≠ .hostMemoryWrite w) :
    NoHostWrite (bInt3I k l r) := by
  simp [bInt3I, hk]
@[simp] theorem noHostWrite_bInt4 (k : Int4 → Instr) (l : IntLegal) (r : Raw) (hk : ∀ i w, k i ≠ .hostMemoryWrite w) :
    NoHostWrite (bInt4 k l r) := by
  simp [bInt4, hk]
@[simp] theorem noHostWrite_bInt4I (k : Int4I → Instr) (l : IntLegal) (r : Raw) (hk : ∀ i w, k i ≠ .hostMemoryWrite w) :
    NoHostWrite (bInt4I k l r) := by
  simp [bInt4I, hk]
theorem noHostWrite_rowsInt (op : Nat) (r : Raw) : ∀ row ∈ rowsInt op, NoHostWrite (row.build r) := by
  unfold rowsInt
  split <;> simp [bIcmp, bSel, bMov, bMovSrc, bLea, bIadd64, bImad64, bIcvt, bMovDst, bIcmpI, bSelI, bMovi, bLeaI, bIadd64I,
      bImad64I]
theorem noHostWrite_rowsFp (op : Nat) (r : Raw) : ∀ row ∈ rowsFp op, NoHostWrite (row.build r) := by
  unfold rowsFp
  split <;> simp [bFp3, bFp4, bFcmp, bFp2, bConv, bFp3I, bFp4I, bFcmpI]
theorem noHostWrite_rowsLane (op : Nat) (r : Raw) : ∀ row ∈ rowsLane op, NoHostWrite (row.build r) := by
  unfold rowsLane
  split <;> simp [bQfmt, bQpack, bQunpack, bBscale, bSrseed, bQfmtI, bPerm, bVote, bWred, bWscan, bMatch, bMovx, bMovxw, bSpill,
      bFill]
theorem noHostWrite_rowsFlow (op : Nat) (r : Raw) : ∀ row ∈ rowsFlow op, NoHostWrite (row.build r) := by
  unfold rowsFlow
  split <;> simp [bBra, bHAI, bHDI, bHDAI, bHA, bNone, bHB, bTramp, bTret, bHI]
theorem noHostWrite_rowsMem (op : Nat) (r : Raw) : ∀ row ∈ rowsMem op, NoHostWrite (row.build r) := by
  unfold rowsMem
  split <;> simp [bLoad, bStore, bFest, bLine, bAtom, bAtomr, bFence, bFencep, bPromote]
theorem noHostWrite_rowsEngine (op : Nat) (r : Raw) : ∀ row ∈ rowsEngine op, NoHostWrite (row.build r) := by
  unfold rowsEngine
  split <;> simp [bHABI, bHAI, bHDAI, bBandacq, bHA, bObres, bMma, bAccz, bAccrd, bAccwr, bHDI, bQcmd, bHDA, bHD, bGclr, bHrec,
      bCopy, bHI]
theorem noHostWrite_rowsObject (op : Nat) (r : Raw) : ∀ row ∈ rowsObject op, NoHostWrite (row.build r) := by
  unfold rowsObject
  split <;> simp [bHD, bTkput, bHA, bSloop, bHDB, bWaitl, bNone, bVat, bLdred, bStmc, bAgq, bFtime]
theorem noHostWrite_rowsSys (op : Nat) (r : Raw) : ∀ row ∈ rowsSys op, NoHostWrite (row.build r) := by
  unfold rowsSys
  split <;> simp [bTrap, bRett, bSysc, bCsrr, bCsrw, bNone]
theorem noHostWrite_opRow (op : Nat) (r : Raw) : ∀ row ∈ opRow op, NoHostWrite (row.build r) := by
  unfold opRow
  repeat' split
  · exact noHostWrite_rowsInt op r
  · exact noHostWrite_rowsFp op r
  · exact noHostWrite_rowsLane op r
  · exact noHostWrite_rowsFlow op r
  · exact noHostWrite_rowsMem op r
  · exact noHostWrite_rowsEngine op r
  · exact noHostWrite_rowsObject op r
  · exact noHostWrite_rowsSys op r
  · nofun

theorem noHostWrite_decodeRaw (w : DWord) (r : Raw) : NoHostWrite (decodeRaw w r) := by
  unfold decodeRaw; dsimp only
  split
  · split
    · simp only [noHostWrite_ok, buildTool]
      repeat' split
      all_goals nofun
    · simp
  split
  · simp
  split
  · simp
  · next row hrow =>
    repeat' split
    · simp
    · simp
    · simp
    · exact noHostWrite_opRow _ r row hrow

/-- No word that a warp fetches is a host write. -/
theorem decodeFetched_ne_hostMemoryWrite (pc : DWord) (f : Fetched) (w : HostWrite) :
    decodeFetched pc f ≠ .hostMemoryWrite w := by
  unfold decodeFetched decode
  split
  · nofun
  · split
    · next i hi => exact fun h => noHostWrite_decodeRaw _ _ w (h ▸ hi)
    · nofun
end Sys2Proof.Machine
end

section
/-! ### A step -/
namespace Sys2Proof.Machine

theorem goes_of_kept {m n : Tab Byte} {o : Host.Outcome State Fault Refusal} (h : Memory.Kept m n) (ho : Goes n o) :
    Goes m o := by
  cases o with
  | next t => exact Memory.kept_trans h ho
  | fault r => exact ho
  | refused r => exact ho
theorem goes_onNext {m : Tab Byte} {o : Host.Outcome State Fault Refusal} {f : State → State} (ho : Goes m o)
    (hf : ∀ t, Memory.Kept m t.mem → Memory.Kept m (f t).mem) : Goes m (onNext o f) := by
  cases o with
  | next t => exact hf t ho
  | fault r => exact ho
  | refused r => exact ho
/-- An instruction that a warp fetches. -/
theorem goes_fetched (pc : DWord) (f : Fetched) (s : State) : Goes s.mem (exec (decodeFetched pc f) s) :=
  goes_exec _ s fun w h => absurd h (decodeFetched_ne_hostMemoryWrite pc f w)

@[simp] theorem State.kept_tryHeld {m : Tab Byte} (s : State) (k : Nat) (hk : Memory.Kept m s.mem) :
    Memory.Kept m (s.tryHeld k).mem := by
  unfold State.tryHeld; dsimp only
  split
  · exact hk
  · next d ds _ =>
    have hx := goes_fetched d.pc d.ir ({ s with cur := k }.setWarp k ((s.warp k).before d))
    split
    · next t ht =>
      rw [ht] at hx
      exact Memory.kept_trans hk hx
    · exact hk
    · exact hk
theorem State.goes_runFetched (s : State) (st : WStat) : Goes s.mem (s.runFetched st) := by
  unfold State.runFetched
  split
  · split
    · exact Memory.kept_refl _
    split
    · simp
    · exact goes_onNext (goes_fetched _ _ s) fun t ht => by rwa [State.mem_letPast]
  · exact Memory.kept_refl _
@[simp] theorem State.kept_done {m : Tab Byte} (s f old : State) (k : Nat) (hk : Memory.Kept m s.mem) :
    Memory.Kept m (s.done f old k).mem :=
  State.kept_settleAll _ _ (by simp [hk])
@[simp] theorem State.mem_begin (s : State) : s.begin.mem = s.mem := by simp [State.begin]
@[simp] theorem State.agenda_begin (s : State) : s.begin.agenda = s.agenda := by
  simp [State.begin, State.advanceTime]

/-- An event of the agenda. -/
theorem State.goes_stepEvent (s : State) (i : Instr)
    (h : ∀ w, i = .hostMemoryWrite w → w.addr + w.bytes.length ≤ 0xC000000000) : Goes s.mem (s.stepEvent i) := by
  unfold State.stepEvent
  split
  · exact goes_onNext (goes_exec i s h) fun t ht => by simp [ht]
  · exact Memory.kept_refl _
/-- Another look at a parked warp. -/
theorem State.goes_stepParked (s : State) (k : Nat) : Goes s.mem (s.stepParked k) := by
  unfold State.stepParked
  extract_lets v w _ u x after f
  have hv : Memory.Kept s.mem v.mem := State.kept_tryHeld s k (Memory.kept_refl _)
  have hu : Memory.Kept s.mem u.mem := hv
  have hafter {m : Tab Byte} (f t : State) (ht : Memory.Kept m t.mem) : Memory.Kept m (after f t).mem := by
    dsimp only [after]
    split <;> simp [ht]
  split
  · change Memory.Kept _ _
    split <;> simp [hv]
  split
  · exact hafter _ _ (State.kept_reissueNow u hu)
  split
  · next t ht =>
    split at ht
    · cases ht
    · exact hafter _ _ (Memory.kept_trans hu (State.kept_of_waitOver ht))
  · refine goes_of_kept (State.kept_fetch u hu) (goes_onNext ?_ fun t ht => ?_)
    · split
      · exact Memory.kept_refl _
      · exact State.goes_runFetched _ _
    · exact hafter _ _ ht
/-- An issue opportunity. -/
theorem State.goes_stepIssue (s : State) : Goes s.mem s.stepIssue := by
  unfold State.stepIssue
  extract_lets pick o t
  have ht : t.mem = s.mem := State.mem_offer s _ _
  clear_value t o pick
  split
  · simp [ht]
  · next k =>
    extract_lets u f
    have hu : u.mem = s.mem := ht
    split
    · simp [hu]
    · refine goes_of_kept (State.kept_fetch u ?_) (goes_onNext (State.goes_runFetched _ _) fun v hv => ?_)
      · simp [hu]
      · simp [hv]
/-- A host write beyond memory stops a package that answers it. -/
theorem State.stepEvent_beyond (s : State) (w : HostWrite) (h : 0xC000000000 < w.addr + w.bytes.length) :
    s.stepEvent (.hostMemoryWrite w) = .fault (.noSuchAddress (max w.addr 0xC000000000)) ∨
      s.stepEvent (.hostMemoryWrite w) = .next s := by
  unfold State.stepEvent
  split
  · exact .inl (by rw [hostMemoryWrite_beyond s w h]; rfl)
  · exact .inr rfl
/-- Unless it begins with a host write beyond memory, a step answers a next state and keeps memory's form. -/
theorem goes_step (s : State) (h : ∀ w is, s.agenda = .hostMemoryWrite w :: is → w.addr + w.bytes.length ≤ 0xC000000000) :
    Goes s.mem (step s) := by
  unfold step; dsimp only
  rw [← State.mem_begin]
  split
  · next i is hi =>
    exact State.goes_stepEvent _ _ fun w hw => h w is (by rw [← State.agenda_begin, hi, hw])
  · split
    · exact State.goes_stepParked _ _
    · exact State.goes_stepIssue _
/-- A step answers a next state, or stops at a host write beyond memory. -/
theorem step_cases (s : State) : Goes s.mem (step s) ∨ ∃ a, step s = .fault (.noSuchAddress a) ∧ 0xC000000000 ≤ a := by
  by_cases h : ∀ w is, s.agenda = .hostMemoryWrite w :: is → w.addr + w.bytes.length ≤ 0xC000000000
  · exact .inl (goes_step s h)
  · push Not at h
    obtain ⟨w, is, hw, hlt⟩ := h
    have hstep : step s = State.stepEvent { s.begin with agenda := is } (.hostMemoryWrite w) := by
      simp only [step, State.agenda_begin, hw]
    obtain he | he := State.stepEvent_beyond { s.begin with agenda := is } w hlt
    · exact .inr ⟨_, hstep.trans he, Nat.le_max_right _ _⟩
    · refine .inl ?_
      rw [hstep, he, goes_next]
      exact s.mem_begin ▸ Memory.kept_refl _
end Sys2Proof.Machine
end

section
open Sys2Proof Sys2Proof.Machine

/-- Settles O58: `goes_step` carries memory's canonical form, the model's own (log entry 13), through every step, and by `step_cases` a
step stops at nothing but a host write beyond the 768 GiB of R9, which is a fault by log entry 63. -/
theorem memoryKeepsItsCanonicalForm : Obligations.MemoryKeepsItsCanonicalForm := by
  unfold Obligations.MemoryKeepsItsCanonicalForm
  refine ⟨fun s t hwf hs => ?_, fun s h => ?_, fun s r hs => ?_, fun s e hs => ?_⟩
  · obtain hg | ⟨a, ha, -⟩ := step_cases s
    · exact (Memory.kept_iff _ _).1 (by rwa [hs] at hg) hwf
    · cases hs.symm.trans ha
  · have hg := goes_step s h
    unfold GoesOn
    cases hs : step s with
    | next t => exact ⟨t, rfl⟩
    | fault e => rw [hs] at hg; exact hg.elim
    | refused r => rw [hs] at hg; exact hg.elim
  · obtain hg | ⟨a, ha, -⟩ := step_cases s
    · rw [hs] at hg; exact hg
    · cases hs.symm.trans ha
  · obtain hg | ⟨a, ha, hle⟩ := step_cases s
    · rw [hs] at hg; exact hg.elim
    · exact ⟨a, Host.Outcome.fault.inj (hs.symm.trans ha), hle⟩
end

section
/-! ### Results of lanes, and the cross-lane source modifier (04_registers.md R66, R67) -/
namespace Sys2Proof.Machine

/-- Per lane, a result may be described less closely. -/
theorem LaneResult.mono {o : Out} {s : State} {h : Hdr} {d : RegNo} {len : Nat} {R S : Nat → Word → Prop}
    (hr : LaneResult o s h d len R) (hRS : ∀ i x, i < 32 → R i x → S i x) : LaneResult o s h d len S := by
  obtain ⟨t, ho, hret, hs, hp, hf, hv, hR⟩ := hr
  exact ⟨t, ho, hret, hs, hp, hf, hv, fun i hi hm => hRS i _ hi (hR i hi hm)⟩

/-- The number j of R66 that a mode computes for lane `i`, in range or not. -/
def Warp.laneNum (w : Warp) (x : XL) (i : Nat) : Int :=
  match x.mode with
  | .none => (i : Int)
  | .bc => (x.par.toNat : Int)
  | .xor => ((i ^^^ x.par.toNat : Nat) : Int)
  | .up => (i : Int) - x.par.toNat
  | .dn => (i : Int) + x.par.toNat
  | .idx => (w.v x.par.toNat i).toInt
  | .rot => ((i : Int) + x.par.toNat) % 32

/-- The value that lane number `j` gives lane `i`: the lane's own, or 0, where there is no such lane (R66, R67). -/
def Warp.fromLane (w : Warp) (r i : Nat) (j : Int) : Word :=
  if 0 ≤ j ∧ j ≤ 31 then w.v r j.toNat else if w.keep = true then w.v r i else 0

/-- A word is a lane number, read as a signed one, exactly if it is one read as unsigned. -/
theorem toInt_lane (x : Word) : (0 ≤ x.toInt ∧ x.toInt ≤ 31 ↔ x.toNat ≤ 31) ∧ (x.toNat ≤ 31 → x.toInt = x.toNat) := by
  rw [BitVec.toInt_eq_toNat_cond]
  have := x.isLt
  split <;> omega

/-- A number as a lane, if it is one. -/
def laneOf (j : Int) : Option Nat := if 0 ≤ j ∧ j ≤ 31 then some j.toNat else none
theorem laneOf_eq_some {j : Int} {k : Nat} (h : j = k) (hk : k ≤ 31) : laneOf j = some k := by
  rw [laneOf, if_pos (by omega), h, Int.toNat_natCast]
theorem laneOf_eq_none {j : Int} (h : ¬(0 ≤ j ∧ j ≤ 31)) : laneOf j = none := if_neg h

/-- The source lane is the number that the mode computes, if that is a lane. -/
theorem Warp.srcLane_eq (w : Warp) (x : XL) (i : Nat) (hi : i < 32) : w.srcLane x i = laneOf (w.laneNum x i) := by
  obtain ⟨m, n⟩ := x
  have hn : n.toNat < 32 := n.isLt
  cases m <;> simp only [Warp.srcLane, Warp.laneNum]
  case none => exact (laneOf_eq_some rfl (by omega)).symm
  case bc => exact (laneOf_eq_some rfl (by omega)).symm
  case xor =>
    have : i ^^^ n.toNat < 2 ^ 5 := Nat.xor_lt_two_pow hi hn
    exact (laneOf_eq_some rfl (by omega)).symm
  case up =>
    split
    · exact (laneOf_eq_some (by omega) (by omega)).symm
    · exact (laneOf_eq_none (by omega)).symm
  case dn =>
    split
    · exact (laneOf_eq_some (by omega) (by omega)).symm
    · exact (laneOf_eq_none (by omega)).symm
  case idx =>
    obtain ⟨hiff, heq⟩ := toInt_lane (w.v n.toNat i)
    split
    · next h => exact (laneOf_eq_some (heq h) h).symm
    · next h => exact (laneOf_eq_none (fun c => h (hiff.1 c))).symm
  case rot => exact (laneOf_eq_some (by omega) (by omega)).symm

/-- R66 and R67: what lane `i` takes as A. -/
theorem Warp.aLane_eq (w : Warp) (x : XL) (r i : Nat) (hi : i < 32) : w.aLane x r i = w.fromLane r i (w.laneNum x i) := by
  rw [Warp.aLane, w.srcLane_eq x i hi, Warp.fromLane, laneOf]
  by_cases h : 0 ≤ w.laneNum x i ∧ w.laneNum x i ≤ 31
  · simp [h]
  · rw [if_neg h, if_neg h]

/-- A sum of two words of 32 bits, as IADD delivers it, is their sum. -/
theorem ofNat_fnIadd_b32 (a b : Word) : BitVec.ofNat 32 (fnIadd .b32 false a.toNat b.toNat) = a + b := by
  apply BitVec.eq_of_toNat_eq
  simp only [fnIadd, ITy.wr, ITy.rd, ITy.width, ITy.sgn, BitVec.toNat_ofNat, BitVec.toNat_add]
  simp
  omega

theorem exec_iadd (o : Int3) (s : State) : exec (.iadd o) s = s.warpNext (int3 fnIadd o) := rfl

/-- IADD of vector registers. -/
theorem laneResult_iadd (s : State) (o : Int3) (hs : o.s = false) (hty : o.ty = .b32) (hsat : o.sat = false) :
    LaneResult (exec (.iadd o) s) s o.h o.d 8 (fun i y => y = s.w.aLane o.xl o.a.toNat i + s.w.v o.b.toNat i) := by
  rw [exec_iadd]
  have hr := intResult_putInt s o.h o.s o.ty o.d 8
    (fun w n => fnIadd o.ty o.sat (w.intA o.s o.ty o.xl o.a n) (w.intB o.s o.ty o.b n)) _ (fun i => rfl)
  refine (hr.2 hs).mono ?_
  rintro i x - ⟨r, rfl, rfl⟩
  rw [hs, hty, hsat]
  exact ofNat_fnIadd_b32 _ _

end Sys2Proof.Machine
end

section
open Sys2Proof Sys2Proof.Machine

/-- Settles O4: `Warp.aLane_eq` says which lane's value the modifier delivers, and IADD adds that value. -/
theorem crossLaneModifierPicksTheSourceLane : Obligations.CrossLaneModifierPicksTheSourceLane := by
  unfold Obligations.CrossLaneModifierPicksTheSourceLane
  intro lane pick
  have hpick : ∀ (w : Warp) (x : XL) (r i : Nat), i < 32 → w.aLane x r i = pick w x r i := fun w x r i hi => w.aLane_eq x r i hi
  refine ⟨fun w x r i hi => ⟨hpick w x r i hi, ?_, ?_⟩, fun s o hs hty hsat => ?_⟩
  · rw [Warp.aLane64, loWord_pairOf, hpick w x r i hi]
  · rw [Warp.aLane64, hiWord_pairOf, hpick w x (r + 1) i hi]
  · exact (laneResult_iadd s o hs hty hsat).mono fun i y hi hy => hy.trans (by rw [hpick s.w o.xl o.a.toNat i hi])
end

section
/-! ### Indirect register numbers (04_registers.md R64, R65; 06_vector.md R130) -/
namespace Sys2Proof.Machine

/-! #### Masks made from functions -/

theorem maskOf_congr {f g : Nat → Bool} (h : ∀ i, i < 32 → f i = g i) : maskOf f = maskOf g := by
  apply BitVec.eq_of_getLsbD_eq
  intro i hi
  rw [getLsbD_maskOf f i hi, getLsbD_maskOf g i hi, h i hi]
theorem maskOf_or (f g : Nat → Bool) : maskOf f ||| maskOf g = maskOf (fun i => f i || g i) := by
  apply BitVec.eq_of_getLsbD_eq
  intro i hi
  rw [BitVec.getLsbD_or, getLsbD_maskOf f i hi, getLsbD_maskOf g i hi, getLsbD_maskOf _ i hi]
theorem maskOf_eq_zero {f : Nat → Bool} (h : ∀ i, i < 32 → f i = false) : maskOf f = 0 := by
  apply BitVec.eq_of_getLsbD_eq
  intro i hi
  simp [getLsbD_maskOf f i hi, h i hi]
theorem maskOf_ne_zero {f : Nat → Bool} {i : Nat} (hi : i < 32) (h : f i = true) : maskOf f ≠ 0 := by
  intro h0
  have := getLsbD_maskOf f i hi
  simp [h0, h] at this

/-! #### The checks of R65 -/

section
variable (w : Warp) (h : Hdr) (scalar b64 : Bool) (reg k e : RegNo)

/-- The lanes that fail the check of the second stage: the number above 255, or odd where a pair is named. -/
def Warp.indexFails : Mask :=
  maskOf (fun i => (w.parts h).getLsbD i &&
    (decide (255 < w.indexOf scalar k e i) || (b64 && w.indexOf scalar k e i % 2 == 1)))

/-- First stage: the field that is not indexed names an odd register where a pair is moved. -/
theorem Warp.indexCause_field (hb : b64 = true) (hr : reg.toNat % 2 = 1) :
    w.indexCause h scalar b64 reg k e = some (0x082, w.em) := by
  simp [Warp.indexCause, hb, hr]

/-- The second stage stands by itself once the first is passed. -/
theorem Warp.indexCause_lanes (hr : ¬(b64 = true ∧ reg.toNat % 2 = 1)) :
    w.indexCause h scalar b64 reg k e =
      if maskOf (fun n => (w.parts h).getLsbD n && decide (255 < w.indexOf scalar k e n)) ≠ 0 then
        some (0x081, w.indexFails h scalar b64 k e)
      else if maskOf (fun n => (w.parts h).getLsbD n && b64 && w.indexOf scalar k e n % 2 == 1) ≠ 0 then
        some (0x082, maskOf (fun n => (w.parts h).getLsbD n && b64 && w.indexOf scalar k e n % 2 == 1))
      else none := by
  have hc : (b64 && reg.toNat % 2 == 1) = false := by simpa using hr
  simp only [Warp.indexCause, hc, Bool.false_eq_true, if_false, maskOf_or, Warp.indexFails, Bool.and_or_distrib_left,
    Bool.and_assoc]

/-- A participating lane's number above 255 is reported before an odd one. -/
theorem Warp.indexCause_above (hr : ¬(b64 = true ∧ reg.toNat % 2 = 1)) {i : Nat} (hi : i < 32)
    (hp : (w.parts h).getLsbD i = true) (hn : 255 < w.indexOf scalar k e i) :
    w.indexCause h scalar b64 reg k e = some (0x081, w.indexFails h scalar b64 k e) := by
  rw [Warp.indexCause_lanes w h scalar b64 reg k e hr, if_pos (maskOf_ne_zero hi (by simp [hp, hn]))]

/-- With no number above 255, an odd one of a participating lane is reported. -/
theorem Warp.indexCause_odd (hr : ¬(b64 = true ∧ reg.toNat % 2 = 1))
    (hle : ∀ i, i < 32 → (w.parts h).getLsbD i = true → w.indexOf scalar k e i ≤ 255) {i : Nat} (hi : i < 32)
    (hp : (w.parts h).getLsbD i = true) (hb : b64 = true) (hn : w.indexOf scalar k e i % 2 = 1) :
    w.indexCause h scalar b64 reg k e = some (0x082, w.indexFails h scalar b64 k e) := by
  have hbig : maskOf (fun n => (w.parts h).getLsbD n && decide (255 < w.indexOf scalar k e n)) = 0 :=
    maskOf_eq_zero fun j hj => by simpa using hle j hj
  have hodd : maskOf (fun n => (w.parts h).getLsbD n && b64 && w.indexOf scalar k e n % 2 == 1) = w.indexFails h scalar b64 k e := by
    refine maskOf_congr fun j hj => ?_
    by_cases hm : (w.parts h).getLsbD j = true
    · simp [hm, hle j hj hm]
    · simp [hm]
  rw [Warp.indexCause_lanes w h scalar b64 reg k e hr, if_neg (not_not.2 hbig), if_pos (maskOf_ne_zero hi (by simp [hp, hb, hn])), hodd]

/-- Numbers that name registers, and pairs where pairs are moved, pass. -/
theorem Warp.indexCause_clean (hr : ¬(b64 = true ∧ reg.toNat % 2 = 1))
    (hc : ∀ i, i < 32 → (w.parts h).getLsbD i = true →
      w.indexOf scalar k e i ≤ 255 ∧ (b64 = true → w.indexOf scalar k e i % 2 = 0)) :
    w.indexCause h scalar b64 reg k e = none := by
  have hbig : maskOf (fun n => (w.parts h).getLsbD n && decide (255 < w.indexOf scalar k e n)) = 0 :=
    maskOf_eq_zero fun j hj => by simpa using fun hm => (hc j hj hm).1
  have hodd : maskOf (fun n => (w.parts h).getLsbD n && b64 && w.indexOf scalar k e n % 2 == 1) = 0 :=
    maskOf_eq_zero fun j hj => by simpa using fun hm hb => (hc j hj hm).2 hb
  rw [Warp.indexCause_lanes w h scalar b64 reg k e hr, if_neg (not_not.2 hbig), if_neg (not_not.2 hodd)]

end

/-! #### The moves -/

theorem exec_movx (o : MovX) (s : State) : exec (.movx o) s = execMovx o s := rfl
theorem exec_movxw (o : MovX) (s : State) : exec (.movxw o) s = execMovxw o s := rfl

theorem execMovx_traps {s : State} {o : MovX} {c : Cause} {m : Mask}
    (h : s.w.indexCause o.h o.scalar o.b64 o.d o.a o.e = some (c, m)) : TrapsWith (execMovx o s) s c m :=
  ⟨s.noAddr, by rw [execMovx, h]; rfl⟩
theorem execMovxw_traps {s : State} {o : MovX} {c : Cause} {m : Mask}
    (h : s.w.indexCause o.h o.scalar o.b64 o.a o.d o.e = some (c, m)) : TrapsWith (execMovxw o s) s c m :=
  ⟨s.noAddr, by rw [execMovxw, h]; rfl⟩

theorem execMovx_word {s : State} {o : MovX} (h : s.w.indexCause o.h o.scalar o.b64 o.d o.a o.e = none) (hb : o.b64 = false) :
    execMovx o s = s.warpNext (fun w => w.putV o.h o.d 8 (fun n => w.v (w.indexOf o.scalar o.a o.e n) n)) := by
  rw [execMovx, h, hb]; rfl
theorem execMovx_pair {s : State} {o : MovX} (h : s.w.indexCause o.h o.scalar o.b64 o.d o.a o.e = none) (hb : o.b64 = true) :
    execMovx o s = s.warpNext (fun w => w.putV64 o.h o.d 8 (fun n => w.v64 (w.indexOf o.scalar o.a o.e n) n)) := by
  rw [execMovx, h, hb]; rfl

/-- A register after each lane of a mask has written a register of its own. -/
theorem get_putIndexed (m : Mask) (r : Nat → Nat) (f : Nat → Word) (t : Tab Word) (q n c : Nat) (hn : n < 32) (hc : c ≤ 32) :
    Tab.get 0 (putIndexed m r f c t) (q * 32 + n) =
      if n < c ∧ m.getLsbD n = true ∧ q = r n then f n else Tab.get 0 t (q * 32 + n) := by
  induction c with
  | zero => simp [putIndexed]
  | succ c ih =>
    have ih := ih (by omega)
    have hlt : n < c + 1 ↔ n < c ∨ n = c := by omega
    simp only [putIndexed]
    by_cases hm : m.getLsbD c = true
    · rw [if_pos hm, Tab.get_set, ih]
      by_cases he : n = c
      · subst he
        simp [hm]
      · rw [if_neg (by omega)]
        simp [hlt, he]
    · rw [if_neg hm, ih]
      by_cases he : n = c
      · subst he; simp [hm]
      · simp [hlt, he]

/-- The vector registers as MOVXW leaves them (R130). -/
def Warp.movxwRegs (w : Warp) (o : MovX) : Tab Word :=
  let m := w.parts o.h
  let r := w.indexOf o.scalar o.d o.e
  let t := putIndexed m r (fun n => w.v o.a.toNat n) 32 w.vregs
  if o.b64 then putIndexed m (fun n => r n + 1) (fun n => w.v (o.a.toNat + 1) n) 32 t else t

theorem Warp.get_movxwRegs (w : Warp) (o : MovX) (q n : Nat) (hn : n < 32) :
    Tab.get 0 (w.movxwRegs o) (q * 32 + n) =
      if (w.parts o.h).getLsbD n = true ∧ q = w.indexOf o.scalar o.d o.e n then w.v o.a.toNat n
      else if (w.parts o.h).getLsbD n = true ∧ o.b64 = true ∧ q = w.indexOf o.scalar o.d o.e n + 1 then w.v (o.a.toNat + 1) n
      else w.v q n := by
  have hv : Tab.get 0 w.vregs (q * 32 + n) = w.v q n := rfl
  unfold Warp.movxwRegs
  cases hb : o.b64
  · simp only [Bool.false_eq_true, if_false, get_putIndexed _ _ _ _ _ _ _ hn (Nat.le_refl 32), hn, true_and, hv, false_and, and_false]
  · simp only [if_true, get_putIndexed _ _ _ _ _ _ _ hn (Nat.le_refl 32), hn, true_and, hv]
    by_cases hq : q = w.indexOf o.scalar o.d o.e n
    · simp [hq]
    · simp [hq]

theorem execMovxw_moves {s : State} {o : MovX} (h : s.w.indexCause o.h o.scalar o.b64 o.a o.d o.e = none) :
    execMovxw o s = .next (s.upd (fun w => Warp.retire { w with vregs := w.movxwRegs o } 8 o.h.sw)) := by
  rw [execMovxw, h]; rfl

/-- MOVXW of numbers that pass the checks writes the registers of `Warp.movxwRegs` and nothing else. -/
theorem execMovxw_spec {s : State} {o : MovX} (h : s.w.indexCause o.h o.scalar o.b64 o.a o.d o.e = none) :
    ∃ t, execMovxw o s = .next t ∧ Retired s t 8 o.h.sw ∧ KeepsS s t ∧ KeepsP s t ∧ KeepsF s t ∧
      ∀ r i, t.w.v r i = Tab.get 0 (s.w.movxwRegs o) (r * 32 + i) := by
  refine ⟨_, execMovxw_moves h, Retired.of s (fun w => { w with vregs := w.movxwRegs o }) 8 o.h.sw rfl rfl, ?_, ?_, ?_, ?_⟩
  · intro r; rw [State.w_upd, Warp.s_retire]; rfl
  · intro r; rw [State.w_upd, Warp.p_retire]; rfl
  · simp [KeepsF, Warp.srState]
  · intro r i; rw [State.w_upd, Warp.v_retire]; rfl

end Sys2Proof.Machine
end

section
open Sys2Proof Sys2Proof.Machine

/-- Settles O11: `Warp.indexCause` answers by the stages of R65, and what passes them moves as R130 says. -/
theorem indexedMovesCheckThenMove : Obligations.IndexedMovesCheckThenMove := by
  unfold Obligations.IndexedMovesCheckThenMove
  intro s o num part fails above clean traps
  have second : ∀ (out : Out) (reg k : RegNo),
      (∀ c m, s.w.indexCause o.h o.scalar o.b64 reg k o.e = some (c, m) → TrapsWith out s c m) → traps out reg k := by
    intro out reg k ht
    refine ⟨fun hb hr => ht _ _ (s.w.indexCause_field _ _ _ _ _ _ hb hr), fun hr hc => ⟨?_, fun ha => ?_⟩⟩
    · rintro ⟨i, hi, hp, hn⟩
      exact ht _ _ (s.w.indexCause_above _ _ _ _ _ _ hr hi hp hn)
    · have hle : ∀ i, i < 32 → part i = true → num k i ≤ 255 := fun i hi hp => not_lt.1 fun hn => ha ⟨i, hi, hp, hn⟩
      obtain ⟨i, hi, hp, hb, hn⟩ : ∃ i, i < 32 ∧ part i = true ∧ o.b64 = true ∧ num k i % 2 = 1 := by
        by_contra hno
        refine hc fun i hi hp => ⟨hle i hi hp, fun hb => ?_⟩
        by_contra hn
        exact hno ⟨i, hi, hp, hb, by omega⟩
      exact ht _ _ (s.w.indexCause_odd _ _ _ _ _ _ hr hle hi hp hb hn)
  refine ⟨⟨second _ _ _ fun c m h => execMovx_traps h, second _ _ _ fun c m h => execMovxw_traps h⟩,
    fun hb hc => ?_, fun hb hd hc => ?_, fun hr hc => ?_⟩
  · have hok := s.w.indexCause_clean o.h o.scalar o.b64 o.d o.a o.e (by simp [hb]) hc
    rw [exec_movx, execMovx_word hok hb]
    exact laneResult_putV s o.h o.d 8 (fun w n => w.v (w.indexOf o.scalar o.a o.e n) n) _ fun _ _ _ => rfl
  · have hok := s.w.indexCause_clean o.h o.scalar o.b64 o.d o.a o.e (by omega) hc
    rw [exec_movx, execMovx_pair hok hb]
    exact pairResult_putV64 s o.h o.d 8 (fun w n => w.v64 (w.indexOf o.scalar o.a o.e n) n) _ fun _ _ _ => rfl
  · have hok := s.w.indexCause_clean o.h o.scalar o.b64 o.a o.d o.e hr hc
    obtain ⟨t, ht, hret, hs, hp, hf, hv⟩ := execMovxw_spec hok
    exact ⟨t, ht, hret, hs, hp, hf, fun r i hi => (hv r i).trans (s.w.get_movxwRegs o r i hi)⟩
end

section
/-! ### The bytes of a slot and the values they spell (04_registers.md R75, R76) -/
namespace Sys2Proof.Machine

/-! #### Little-endian bytes -/

@[simp] theorem length_bytesLE (n v : Nat) : (bytesLE n v).length = n := by
  induction n generalizing v with
  | zero => rfl
  | succ n ih => rw [bytesLE, List.length_cons, ih]
theorem getElem?_bytesLE (n v k : Nat) (hk : k < n) : (bytesLE n v)[k]? = some (BitVec.ofNat 8 (v / 256 ^ k)) := by
  induction n generalizing v k with
  | zero => omega
  | succ n ih =>
    cases k with
    | zero => simp [bytesLE]
    | succ k =>
      rw [bytesLE, List.getElem?_cons_succ, ih _ _ (by omega), Nat.div_div_eq_div_mul, pow_succ']
/-- The bytes of a word are those of its number. -/
theorem getElem?_bytesLE_word (n : Nat) (x : Word) (k : Nat) (hk : k < n) : (bytesLE n x.toNat)[k]? = some (byteOf x k) := by
  rw [getElem?_bytesLE n _ k hk]
  congr 1
  apply BitVec.eq_of_toNat_eq
  have : 2 ^ (8 * k) = 256 ^ k := pow_mul 2 8 k
  simp [byteOf, Nat.shiftRight_eq_div_pow, this]

theorem toNat_append_byte {n : Nat} (x : BitVec n) (b : Byte) : (x ++ b).toNat = b.toNat + 256 * x.toNat := by
  rw [BitVec.toNat_append, ← Nat.shiftLeft_add_eq_or_of_lt b.isLt, Nat.shiftLeft_eq]
  omega
/-- A number of one byte, of two, of four. -/
theorem ofNat_natLE_one (a : Byte) : BitVec.ofNat 8 (natLE [a]) = a := by simp [natLE]
theorem ofNat_natLE_two (a b : Byte) : BitVec.ofNat 16 (natLE [a, b]) = b ++ a := by
  apply BitVec.eq_of_toNat_eq
  have := (b ++ a).isLt
  simp only [toNat_append_byte] at this
  simp only [natLE, BitVec.toNat_ofNat, toNat_append_byte]
  omega
theorem ofNat_natLE_four (a b c d : Byte) : BitVec.ofNat 32 (natLE [a, b, c, d]) = d ++ c ++ b ++ a := by
  apply BitVec.eq_of_toNat_eq
  have := (d ++ c ++ b ++ a).isLt
  simp only [toNat_append_byte] at this
  simp only [natLE, BitVec.toNat_ofNat, toNat_append_byte]
  omega

/-- Pieces of one length, one after the other: place `k` of piece `i`. -/
theorem getElem?_flatMap_range {α : Type} (g : Nat → List α) (c m i k : Nat) (hg : ∀ i, (g i).length = c) (hi : i < m) (hk : k < c) :
    ((List.range m).flatMap g)[c * i + k]? = (g i)[k]? := by
  induction m with
  | zero => omega
  | succ m ih =>
    have hlen : ((List.range m).flatMap g).length = c * m := by
      simp [List.length_flatMap, hg, Nat.mul_comm]
    rw [List.range_succ, List.flatMap_append]
    by_cases h : i < m
    · rw [List.getElem?_append_left, ih h]
      rw [hlen]; nlinarith
    · obtain rfl : i = m := by omega
      rw [List.getElem?_append_right (by omega), hlen]
      simp
/-- A piece of a run of bytes. -/
theorem take_drop_range {α : Type} (x : Nat → α) (m k n : Nat) (h : k + n ≤ m) :
    (((List.range m).map x).drop k).take n = (List.range n).map (fun j => x (k + j)) := by
  apply List.ext_getElem
  · simp; omega
  · intro i h1 h2
    simp

/-! #### The forms of R75 -/

/-- The format byte of R75 for a register `v`: the first form that represents all lanes, raw with RAW. -/
def slotFormat (raw : Bool) (v : Nat → Word) : Nat :=
  let fits := fun (lo hi : Int) => allLanes.all (fun i => decide (lo ≤ spillDiff v i) && decide (spillDiff v i ≤ hi))
  if raw = true then 0 else if fits 0 0 = true then 1 else if fits (-128) 127 = true then 2
    else if fits (-32768) 32767 = true then 3 else 0

/-- The data bytes of a form. -/
def slotData (v : Nat → Word) (f : Nat) : List Byte :=
  match f with
  | 1 => bytesLE 4 (v 0).toNat
  | 2 => bytesLE 4 (v 0).toNat ++ allLanes.flatMap (fun i => bytesLE 1 (v i - v 0).toNat)
  | 3 => bytesLE 4 (v 0).toNat ++ allLanes.flatMap (fun i => bytesLE 2 (v i - v 0).toNat)
  | _ => allLanes.flatMap (fun i => bytesLE 4 (v i).toNat)

theorem spillForm_eq (raw : Bool) (v : Nat → Word) : spillForm raw v = (slotFormat raw v, slotData v (slotFormat raw v)) := by
  unfold spillForm slotFormat
  dsimp only
  split_ifs <;> rfl
theorem slotFormat_lt (raw : Bool) (v : Nat → Word) : slotFormat raw v < 4 := by
  unfold slotFormat
  dsimp only
  split_ifs <;> omega
theorem length_slotData (v : Nat → Word) (f : Nat) (hf : f < 4) : (slotData v f).length = [128, 4, 36, 68].getD f 0 := by
  interval_cases f <;> simp [slotData, List.length_flatMap, allLanes]

/-- What a slot that read as `x` reads as once `v` is spilled to it (R75). -/
def SlotForm (raw : Bool) (v : Nat → Word) (x y : Nat → Byte) : Prop :=
  let f := slotFormat raw v
  y 128 = BitVec.ofNat 8 f ∧ (∀ k, 129 ≤ k → k < 132 → y k = 0) ∧
  (f = 0 → ∀ i k, i < 32 → k < 4 → y (4 * i + k) = byteOf (v i) k) ∧
  (f ≠ 0 → ∀ k, k < 4 → y k = byteOf (v 0) k) ∧
  (f = 2 → ∀ i, i < 32 → y (4 + i) = byteOf (v i - v 0) 0) ∧
  (f = 3 → ∀ i k, i < 32 → k < 2 → y (4 + 2 * i + k) = byteOf (v i - v 0) k) ∧
  ∀ k, [128, 4, 36, 68].getD f 0 ≤ k → k < 128 → y k = x k

section
variable {raw : Bool} {v : Nat → Word} {x y : Nat → Byte}

/-- The first four bytes of a form that is not raw are those of lane 0. -/
theorem slotData_base (v : Nat → Word) (f k : Nat) (hf : f < 4) (h0 : f ≠ 0) (hk : k < 4) : (slotData v f)[k]? = some (byteOf (v 0) k) := by
  have h := getElem?_bytesLE_word 4 (v 0) k hk
  interval_cases f
  · exact absurd rfl h0
  · exact h
  · exact (List.getElem?_append_left (by simpa using hk)).trans h
  · exact (List.getElem?_append_left (by simpa using hk)).trans h
theorem slotData_raw (v : Nat → Word) (i k : Nat) (hi : i < 32) (hk : k < 4) : (slotData v 0)[4 * i + k]? = some (byteOf (v i) k) := by
  rw [← getElem?_bytesLE_word 4 (v i) k hk]
  exact getElem?_flatMap_range (fun i => bytesLE 4 (v i).toNat) 4 32 i k (fun _ => length_bytesLE _ _) hi hk
/-- The `c` bytes of a difference from lane 0 in the forms 2 and 3. -/
theorem getElem?_diffs (v : Nat → Word) (c i k : Nat) (hi : i < 32) (hk : k < c) :
    (bytesLE 4 (v 0).toNat ++ allLanes.flatMap (fun i => bytesLE c (v i - v 0).toNat))[4 + c * i + k]? = some (byteOf (v i - v 0) k) := by
  rw [List.getElem?_append_right (by simp; omega), length_bytesLE, show 4 + c * i + k - 4 = c * i + k by omega,
    ← getElem?_bytesLE_word c (v i - v 0) k hk]
  exact getElem?_flatMap_range (fun i => bytesLE c (v i - v 0).toNat) c 32 i k (fun _ => length_bytesLE _ _) hi hk

/-- A slot whose bytes are those of `spillForm` where it names them, and else as before, holds the form of R75. -/
theorem slotForm_of_bytes (hdata : ∀ k b, (spillForm raw v).2[k]? = some b → y k = b)
    (hfmt : ∀ k b, (bytesLE 4 (spillForm raw v).1)[k]? = some b → y (128 + k) = b)
    (hrest : ∀ k, (spillForm raw v).2.length ≤ k → k < 128 → y k = x k) : SlotForm raw v x y := by
  have hlt := slotFormat_lt raw v
  rw [spillForm_eq] at hdata hfmt hrest
  dsimp only at hdata hfmt hrest
  refine ⟨?_, fun k h1 h2 => ?_, fun h i k hi hk => ?_, fun h k hk => ?_, fun h i hi => ?_, fun h i k hi hk => ?_, fun k h1 h2 => ?_⟩
  · simpa using hfmt 0 _ (getElem?_bytesLE 4 _ 0 (by omega))
  · have := hfmt (k - 128) _ (getElem?_bytesLE 4 _ (k - 128) (by omega))
    have hk : slotFormat raw v / 256 ^ (k - 128) = 0 := by
      refine Nat.div_eq_of_lt (lt_of_lt_of_le (b := 256 ^ 1) (by omega) ?_)
      exact Nat.pow_le_pow_right (by omega) (by omega)
    rw [show 128 + (k - 128) = k by omega, hk] at this
    exact this
  · exact hdata _ _ (h ▸ slotData_raw v i k hi hk)
  · exact hdata _ _ (slotData_base v _ k hlt h hk)
  · have hd := getElem?_diffs v 1 i 0 hi (by omega)
    rw [Nat.one_mul, Nat.add_zero] at hd
    exact hdata (4 + i) _ (h ▸ hd)
  · exact hdata _ _ (h ▸ getElem?_diffs v 2 i k hi hk)
  · exact hrest k (by rw [length_slotData v _ hlt]; exact h1) h2
end

/-! #### What the forms spell (R76) -/

/-- The value of lane `i` by the format byte of a slot that reads as `x` (R76). -/
def SlotValue (x : Nat → Byte) (i : Nat) (v : Word) : Prop :=
  let base := x 3 ++ x 2 ++ x 1 ++ x 0
  (x 128 = 0 → v = x (4 * i + 3) ++ x (4 * i + 2) ++ x (4 * i + 1) ++ x (4 * i)) ∧ (x 128 = 1 → v = base) ∧
  (x 128 = 2 → v = base + (x (4 + i)).signExtend 32) ∧
  (x 128 = 3 → v = base + (x (4 + 2 * i + 1) ++ x (4 + 2 * i)).signExtend 32)

section
variable (x : Nat → Byte)

theorem slot_format : natLE ((((List.range 132).map x).drop 128).take 1) = (x 128).toNat := by
  rw [take_drop_range x 132 128 1 (by omega)]
  simp [natLE, List.range_succ]
theorem slot_word (k : Nat) (h : k + 4 ≤ 132) :
    BitVec.ofNat 32 (natLE ((((List.range 132).map x).drop k).take 4)) = x (k + 3) ++ x (k + 2) ++ x (k + 1) ++ x k := by
  rw [take_drop_range x 132 k 4 h, ← ofNat_natLE_four]; rfl
theorem slot_half (k : Nat) (h : k + 2 ≤ 132) :
    BitVec.ofNat 16 (natLE ((((List.range 132).map x).drop k).take 2)) = x (k + 1) ++ x k := by
  rw [take_drop_range x 132 k 2 h, ← ofNat_natLE_two]; rfl
theorem slot_byte (k : Nat) (h : k + 1 ≤ 132) : BitVec.ofNat 8 (natLE ((((List.range 132).map x).drop k).take 1)) = x k := by
  rw [take_drop_range x 132 k 1 h, ← ofNat_natLE_one (x k)]; rfl

/-- A format byte above 3 is invalid. -/
theorem fillValues_none (h : 3 < (x 128).toNat) : fillValues ((List.range 132).map x) = none := by
  unfold fillValues
  rw [slot_format]
  obtain ⟨n, hn⟩ : ∃ n, (x 128).toNat = n + 4 := ⟨_, (Nat.sub_add_cancel h).symm⟩
  rw [hn]; rfl
/-- Any other names a form, and every lane's value is what the form spells. -/
theorem fillValues_some (h : (x 128).toNat ≤ 3) :
    ∃ v, fillValues ((List.range 132).map x) = some v ∧ ∀ i, i < 32 → SlotValue x i (v i) := by
  unfold fillValues SlotValue
  rw [slot_format]
  have hx : ∀ n : Nat, n < 256 → (x 128).toNat = n → x 128 = BitVec.ofNat 8 n := fun n hn h =>
    BitVec.eq_of_toNat_eq (by rw [h, BitVec.toNat_ofNat, Nat.mod_eq_of_lt hn])
  generalize hf : (x 128).toNat = f at h hx ⊢
  rw [hx f (by omega) rfl]
  interval_cases f <;> refine ⟨_, rfl, fun i hi => ?_⟩
  · exact ⟨fun _ => slot_word x (4 * i) (by omega), fun h => absurd h (by decide), fun h => absurd h (by decide),
      fun h => absurd h (by decide)⟩
  · exact ⟨fun h => absurd h (by decide), fun _ => slot_word x 0 (by omega), fun h => absurd h (by decide),
      fun h => absurd h (by decide)⟩
  · exact ⟨fun h => absurd h (by decide), fun h => absurd h (by decide), fun _ =>
      congrArg₂ (· + BitVec.signExtend 32 ·) (slot_word x 0 (by omega)) (slot_byte x (4 + i) (by omega)), fun h => absurd h (by decide)⟩
  · exact ⟨fun h => absurd h (by decide), fun h => absurd h (by decide), fun h => absurd h (by decide), fun _ =>
      congrArg₂ (· + BitVec.signExtend 32 ·) (slot_word x 0 (by omega)) (slot_half x (4 + 2 * i) (by omega))⟩
end

end Sys2Proof.Machine
end

section
/-! ### What an access leaves as it was beside memory, copies and records (09_access.md, 20_order_far.md R370) -/
namespace Sys2Proof.Machine

/-- From `s` to `t` an access of the executing warp has gone on: other warps, the cores and what the access is checked against are as they
were, and of its own warp only the pages that R168 has counted differ. -/
structure Beside (s t : State) : Prop where
  cur : t.cur = s.cur
  peer : t.peer = s.peer
  cores : t.cores = s.cores
  watches : t.watches = s.watches
  others : ∀ k, k ≠ s.cur → t.warp k = s.warp k
  warp : t.w = { s.w with counted := t.w.counted }

theorem Beside.of_warps {s t : State} (hcur : t.cur = s.cur) (hpeer : t.peer = s.peer) (hcores : t.cores = s.cores)
    (hwatches : t.watches = s.watches) (hwarps : t.warps = s.warps) : Beside s t := by
  have hw : ∀ k, t.warp k = s.warp k := fun k => by rw [State.warp, State.warp, hwarps]
  have hown : t.w = s.w := by rw [State.w, State.w, hcur]; exact hw _
  exact ⟨hcur, hpeer, hcores, hwatches, fun k _ => hw k, by rw [hown]⟩
theorem Beside.refl (s : State) : Beside s s := Beside.of_warps rfl rfl rfl rfl rfl
theorem Beside.trans {s t u : State} (h : Beside s t) (h' : Beside t u) : Beside s u where
  cur := h'.cur.trans h.cur
  peer := h'.peer.trans h.peer
  cores := h'.cores.trans h.cores
  watches := h'.watches.trans h.watches
  others k hk := (h'.others k (h.cur ▸ hk)).trans (h.others k hk)
  warp := by rw [h'.warp, h.warp]
theorem Beside.ite {s t u : State} {c : Prop} [Decidable c] (ht : Beside s t) (hu : Beside s u) : Beside s (if c then t else u) := by
  split
  · exact ht
  · exact hu
theorem Beside.foldl {α : Type} (f : State → α → State) (hf : ∀ s x, Beside s (f s x)) (l : List α) (s : State) : Beside s (l.foldl f s) := by
  induction l generalizing s with
  | nil => exact Beside.refl s
  | cons x l ih => exact (hf s x).trans (ih _)
/-- The warp's list of counted pages may grow. -/
theorem Beside.upd_counted (s : State) (f : Warp → List Nat) : Beside s (s.upd (fun w => { w with counted := f w })) where
  cur := rfl
  peer := rfl
  cores := rfl
  watches := rfl
  others k hk := State.warp_upd_ne _ _ _ hk
  warp := by rw [State.w_upd]
theorem Beside.setDie (s : State) (k : Nat) (d : Die) : Beside s (s.setDie k d) := Beside.of_warps rfl rfl rfl rfl rfl

section
variable {s t : State} (h : Beside s t)
include h
theorem Beside.myDie : t.myDie = s.myDie := by rw [State.myDie, State.myDie, h.cur]
theorem Beside.ctx : t.w.ctx = s.w.ctx := by rw [h.warp]
theorem Beside.watch : t.w.watch = s.w.watch := by rw [h.warp]
theorem Beside.pending : t.w.pending = s.w.pending := by rw [h.warp]
theorem Beside.loadAway : t.w.loadAway = s.w.loadAway := by rw [h.warp]; rfl
theorem Beside.stored : t.w.stored = s.w.stored := by rw [h.warp]
end

/-! #### Noting the pages of an access: translations, poisoned words, counters (R165, R168, R400) -/

/-- Beside that, memory and the canopies' copies are as they were. -/
structure Noted (s t : State) : Prop extends Beside s t where
  mem : t.mem = s.mem
  copies : ∀ k, (t.die k).copies = (s.die k).copies

theorem Noted.refl (s : State) : Noted s s := ⟨Beside.refl s, rfl, fun _ => rfl⟩
theorem Noted.trans {s t u : State} (h : Noted s t) (h' : Noted t u) : Noted s u :=
  ⟨h.toBeside.trans h'.toBeside, h'.mem.trans h.mem, fun k => (h'.copies k).trans (h.copies k)⟩
theorem Noted.foldl {α : Type} (f : State → α → State) (hf : ∀ s x, Noted s (f s x)) (l : List α) (s : State) : Noted s (l.foldl f s) := by
  induction l generalizing s with
  | nil => exact Noted.refl s
  | cons x l ih => exact (hf s x).trans (ih _)
theorem Noted.of_fields {s t : State} (hcur : t.cur = s.cur) (hpeer : t.peer = s.peer) (hcores : t.cores = s.cores)
    (hwatches : t.watches = s.watches) (hwarps : t.warps = s.warps) (hmem : t.mem = s.mem) (hdies : t.dies = s.dies) : Noted s t :=
  ⟨Beside.of_warps hcur hpeer hcores hwatches hwarps, hmem, fun k => by rw [State.die, State.die, hdies]⟩

theorem Noted.touch (s : State) (c : CtxId) (a n : Nat) : Noted s (s.touch c a n) := by
  unfold State.touch
  split
  · exact Noted.refl s
  · exact Noted.of_fields rfl rfl rfl rfl rfl rfl rfl
theorem Noted.touchWalk (s : State) (c : CtxId) (die : Nat) (va : DWord) : Noted s (s.touchWalk c die va) := by
  unfold State.touchWalk
  split
  · exact Noted.refl s
  · exact Noted.foldl _ (fun s (r : Nat × Nat) => Noted.touch s c r.1 r.2) _ s
theorem Noted.cache (s : State) (c : CtxId) (die : Nat) (va : DWord) (t : Trans) : Noted s (s.cache c die va t) := by
  unfold State.cache
  dsimp only
  split <;> split <;> exact Noted.of_fields rfl rfl rfl rfl rfl rfl rfl
theorem Noted.use (s : State) (c : CtxId) (die : Nat) (va : DWord) (n : Nat) (t : Trans) : Noted s (s.use c die va n t) := by
  have h := (Noted.touchWalk s c die va).trans (Noted.cache _ c die va t)
  unfold State.use
  dsimp only
  split
  · exact h.trans (Noted.touch _ _ _ _)
  · exact h
theorem Noted.fault (s : State) (r : FaultRec) : Noted s (s.fault r) := by
  rw [State.fault_eq]
  exact Noted.of_fields rfl rfl rfl rfl rfl rfl rfl
/-- A die's counters of remote pages are none of its copies. -/
theorem Noted.setMigr (s : State) (k : Nat) (t : List (Option (CtxId × Nat × Nat))) :
    Noted s (s.setDie k { s.die k with migr := t }) := by
  refine ⟨Beside.setDie _ _ _, rfl, fun j => ?_⟩
  rw [State.die_setDie]
  split
  · next h => rw [h]
  · rfl
theorem Noted.countRemote (s : State) (c : CtxId) (die : Nat) (va : DWord) : Noted s (s.countRemote c die va) := by
  unfold State.countRemote
  extract_lets d page same i n t
  split
  · exact Noted.refl s
  split
  · exact (Noted.setMigr s die _).trans (Noted.fault _ _)
  · exact Noted.setMigr s die _
theorem Noted.countPages (s : State) (c : CtxId) (die : Nat) (ps : List (DWord × Trans)) : Noted s (s.countPages c die ps) :=
  Noted.foldl _ (fun s _ => Noted.countRemote s c die _) _ s
theorem Noted.countFor (s : State) (ps : List (DWord × Trans)) : Noted s (s.countFor ps) := by
  unfold State.countFor
  extract_lets fresh
  exact (Noted.countPages s _ _ _).trans
    ⟨Beside.upd_counted _ (fun w => ascending (w.counted ++ fresh.map (fun e => e.1.toNat / 4096))), rfl, fun _ => rfl⟩
/-- Noting the parts of an access is no access: memory and copies stay. -/
theorem Noted.noteParts (s : State) (count : Bool) (ps : List (Part × Trans)) : Noted s (s.noteParts count ps) := by
  have h := Noted.foldl (fun s (p : Part × Trans) => s.use s.w.ctx s.myDie p.1.va p.1.n p.2)
    (fun s p => Noted.use s _ _ _ _ _) ps s
  unfold State.noteParts
  dsimp only
  split
  · exact h.trans (Noted.countFor _ _)
  · exact h

/-! #### Copies, leases, acquires -/

theorem Beside.endLeases (s : State) (a n : Nat) : Beside s (s.endLeases a n) := Beside.of_warps rfl rfl rfl rfl rfl
theorem Beside.acquire (s : State) (reach : Nat) : Beside s (s.acquire reach) := by
  unfold State.acquire State.acquireOf
  split
  · exact Beside.refl s
  · exact Beside.setDie _ _ _
/-- An acquire on path V with no load outstanding leaves nothing to take place later. -/
theorem Beside.acquireOn (s : State) (reach : Nat) (h : s.w.loadAway = false) : Beside s (s.acquireOn 0 reach) := by
  have ha : s.acqOpen s.cur 0 = false := h
  unfold State.acquireOn
  refine (Beside.acquire s reach).trans ?_
  simp only [ha, Bool.not_false, if_true]
  exact Beside.upd_counted _ (fun w => w.counted)

/-! #### Outstanding accesses that hold an access back (R192 to R199, R233, R368, R369) -/

/-- No access of the executing warp to another package is outstanding, and no band command of it is unfinished. -/
structure Quiet (s : State) : Prop where
  loads : s.w.loadAway = false
  fabric : s.w.fabricAway = false
  ops : s.openOps s.cur = []
  bands : s.myBandIds = []

theorem State.Unheld.quiet {s : State} (h : s.Unheld) : Quiet s := by
  obtain ⟨-, -, h⟩ := h
  simp only [State.releaseHolds, State.remoteHolds, State.bandBusy, Bool.or_eq_false_iff, Bool.not_eq_false', List.isEmpty_iff] at h
  obtain ⟨⟨⟨hl, hf⟩, ho⟩, hb⟩ := h
  refine ⟨hl, hf, ?_, hb⟩
  rw [List.any_eq_false] at ho
  exact List.eq_nil_iff_forall_not_mem.2 fun r hr => ho r hr (by simp)

theorem Quiet.upd_fence {s : State} (h : Quiet s) (f : Warp → FenceHold) : Quiet (s.upd (fun w => { w with fence := f w })) := by
  have hw := State.w_upd s (fun w => { w with fence := f w })
  have hwarp : (s.upd (fun w => { w with fence := f w })).warp s.cur = { s.w with fence := f s.w } := hw
  refine ⟨by rw [hw]; exact h.loads, by rw [hw]; exact h.fabric, ?_, ?_⟩
  · rw [← h.ops, State.openOps, State.openOps]
    rw [show (s.upd (fun w => { w with fence := f w })).cur = s.cur from rfl, hwarp]
    rfl
  · rw [← h.bands, State.myBandIds, State.myBandIds, hw]; rfl

theorem Quiet.passFence {s : State} (h : Quiet s) (p : Nat) : Quiet (s.passFence p) := h.upd_fence (fun w => w.fence.pass p)

section
variable {s : State} (h : Quiet s)
include h
theorem Quiet.ldred : s.w.ldredAway = false := by
  have := h.fabric
  unfold Warp.fabricAway at this
  unfold Warp.ldredAway
  rw [List.any_eq_false] at this ⊢
  intro p hp hk
  refine this p hp ?_
  cases hkind : p.kind <;> simp [hkind] at hk ⊢
theorem Quiet.strongHolds (dst : Option Peer) : s.strongHolds dst = false := by
  rw [State.strongHolds, h.loads, h.ldred, h.ops]; rfl
theorem Quiet.releaseV (dst : Option Peer) : s.releaseV dst = false := by
  rw [State.releaseV, State.openOn, State.bandBusy, h.loads, h.ops, h.bands]; rfl
theorem Quiet.storeHeld (rel : Bool) (ps : List (Part × Trans)) : s.storeHeld rel ps = false := by
  rw [State.storeHeld, State.fenceBand, State.bandsOpen, h.bands, h.releaseV, h.strongHolds]; simp
/-- With no load outstanding there is none that has read a line in part. -/
theorem Quiet.lineOwn (line : Nat) : s.w.lineOwn line = false := by
  have := h.loads
  unfold Warp.loadAway at this
  unfold Warp.lineOwn
  rw [List.any_eq_false] at this ⊢
  intro p hp hk
  refine this p hp ?_
  cases hkind : p.kind <;> simp [hkind] at hk ⊢
end

/-- Parts on this package are none of another one. -/
theorem State.anyAway_own (s : State) (f : Peer → Nat → Bool) (ps : List (Part × Trans)) (h : ∀ p ∈ ps, p.2.peer = s.peer) :
    s.anyAway f ps = false := by
  rw [State.anyAway, List.any_eq_false]
  intro p hp
  simp [State.away, h p hp]
theorem Quiet.storeBehind {s : State} (h : Quiet s) (rel : Bool) (ps : List (Part × Trans)) (hown : ∀ p ∈ ps, p.2.peer = s.peer) :
    s.storeBehind rel ps = false := by
  have hfil : ∀ p ∈ ps.filter (fun p => !isOrdered (s.relNow rel) p.2), p.2.peer = s.peer := fun p hp => hown p (List.mem_filter.1 hp).1
  rw [State.storeBehind, State.ownBehind, State.anyAway_own s _ ps hown, State.anyAway_own s _ _ hfil]
  simp [h.lineOwn]

end Sys2Proof.Machine
end

section
/-! ### Where the bytes of an access stand (08_page.md R157 to R165, 09_access.md R174) -/
namespace Sys2Proof.Machine

/-! #### A FENCE that lets an access pass changes no translation -/

theorem State.ranges_passFence (s : State) (p table die va n i : Nat) :
    (s.passFence p).ranges table die va n i = s.ranges table die va n i := by
  induction n generalizing i with
  | zero => rfl
  | succ n ih => rw [State.ranges, State.ranges, ih]; rfl
theorem State.walk_passFence (s : State) (p die va n table : Nat) : (s.passFence p).walk die va n table = s.walk die va n table := by
  induction n generalizing table with
  | zero => rfl
  | succ n ih => rw [State.walk, State.walk]; simp only [ih]; rfl
theorem State.fresh_passFence (s : State) (p : Nat) (c : CtxId) (die : Nat) (va : DWord) :
    (s.passFence p).fresh c die va = s.fresh c die va := by
  simp only [State.fresh, State.freshBy, State.ranges_passFence, State.walk_passFence]; rfl
theorem State.translate_passFence (s : State) (p : Nat) (c : CtxId) (die : Nat) (want : Want) (i : Nat) (va : DWord) :
    (s.passFence p).translate c die want i va = s.translate c die want i va := by
  unfold State.translate State.lookup
  simp only [State.fresh_passFence, State.w_passFence]; rfl
theorem State.transParts_passFence (s : State) (p : Nat) (c : CtxId) (die : Nat) (want : Want) (lane : Nat) (ea : DWord) (ps : List Part) :
    (s.passFence p).transParts c die want lane ea ps = s.transParts c die want lane ea ps := by
  induction ps with
  | nil => rfl
  | cons q ps ih => simp only [State.transParts, State.translate_passFence, ih]

/-! #### The parts of an access, one after the other -/

/-- From byte `o` to byte `n` of an access, the translated parts hold the bytes that stand at `A`. -/
def Tiles (A : Nat → Nat) (n : Nat) : Nat → List (Part × Trans) → Prop
  | o, [] => o = n
  | o, p :: ps => p.1.off = o ∧ (∀ k, k < p.1.n → A (o + k) = p.2.addr p.1.va + k) ∧ Tiles A n (o + p.1.n) ps

theorem Tiles.le {A : Nat → Nat} {n o : Nat} {ps : List (Part × Trans)} (h : Tiles A n o ps) : o ≤ n := by
  induction ps generalizing o with
  | nil => exact le_of_eq h
  | cons p ps ih => obtain ⟨-, -, h⟩ := h; have := ih h; omega

/-- The bytes of an access lie in one part, or in two of which the second begins a page. -/
theorem partsOf_cases (ea : DWord) (n : Nat) :
    (n ≤ 4096 - ea.toNat % 4096 ∧ partsOf ea n = [⟨ea, 0, n⟩]) ∨
    ∃ r, r = 4096 - ea.toNat % 4096 ∧ r < n ∧ partsOf ea n = [⟨ea, 0, r⟩, ⟨ea + BitVec.ofNat 64 r, r, n - r⟩] := by
  unfold partsOf
  dsimp only
  split
  · next h => exact .inl ⟨h, rfl⟩
  · next h => exact .inr ⟨_, rfl, by omega, rfl⟩

theorem toNat_pageEnd (ea : DWord) (n r : Nat) (hr : r = 4096 - ea.toNat % 4096) (hn : r < n) (h : ea.toNat + n ≤ 2 ^ 48) :
    (ea + BitVec.ofNat 64 r).toNat = ea.toNat + r := by
  rw [BitVec.toNat_add, BitVec.toNat_ofNat]
  omega

section
variable {s : State} {want : Want} {i : Nat} {ea : DWord} {n : Nat}

theorem State.byteOfAccess_eq {k : Nat} {p : Part} {t : Trans} {a : Nat}
    (hp : (partsOf ea n).find? (fun p => decide (p.off ≤ k) && decide (k < p.off + p.n)) = some p)
    (h : s.byteOfAccess want i ea n k = some (t, a)) :
    s.translate s.w.ctx s.myDie want (i * 2 + if p.off = 0 then 0 else 1) p.va = .ok t ∧ a = t.addr p.va + (k - p.off) := by
  unfold State.byteOfAccess at h
  rw [hp] at h
  dsimp only at h
  split at h
  · next t' ht => cases h; exact ⟨ht, rfl⟩
  · cases h

/-- Part `p` of an access translates by `t`, to an unversioned page of this package, and its bytes stand at `A`. -/
structure PartAt (s : State) (want : Want) (i : Nat) (A : Nat → Nat) (p : Part) (t : Trans) : Prop where
  ok : s.translate s.w.ctx s.myDie want (i * 2 + if p.off = 0 then 0 else 1) p.va = .ok t
  addr : ∀ k, k < p.n → A (p.off + k) = t.addr p.va + k
  peer : t.peer = s.peer
  vers : t.vers = false
  page : t.page % 4096 = 0

/-- A part in which the bytes from its place on are looked up translates as its first byte does. -/
theorem State.Here.part (h : s.Here want i ea n) {A : Nat → Nat} (hA : ∀ k, k < n → s.Stands want i ea n k (A k)) (p : Part)
    (h0 : 0 < p.n) (hle : p.off + p.n ≤ n)
    (hp : ∀ k, k < p.n → (partsOf ea n).find? (fun q => decide (q.off ≤ p.off + k) && decide (p.off + k < q.off + q.n)) = some p) :
    ∃ t, PartAt s want i A p t := by
  obtain ⟨-, hb⟩ := h
  obtain ⟨t, a, hba, hpeer, hvers, hpage⟩ := hb p.off (by omega)
  obtain ⟨ht, -⟩ := State.byteOfAccess_eq (hp 0 h0) hba
  refine ⟨t, ht, fun k hk => ?_, hpeer, hvers, hpage⟩
  obtain ⟨t', hb'⟩ := hA (p.off + k) (by omega)
  obtain ⟨ht', ha⟩ := State.byteOfAccess_eq (hp k hk) hb'
  obtain rfl : t = t' := Except.ok.inj (ht.symm.trans ht')
  omega

/-- An access whose every byte stands on unversioned pages of this package has one such part, or two. -/
theorem State.Here.parts (hn : 0 < n) (h : s.Here want i ea n) {A : Nat → Nat} (hA : ∀ k, k < n → s.Stands want i ea n k (A k)) :
    (partsOf ea n = [⟨ea, 0, n⟩] ∧ ∃ t, PartAt s want i A ⟨ea, 0, n⟩ t) ∨
    ∃ r, r = 4096 - ea.toNat % 4096 ∧ r < n ∧ partsOf ea n = [⟨ea, 0, r⟩, ⟨ea + BitVec.ofNat 64 r, r, n - r⟩] ∧
      (∃ t, PartAt s want i A ⟨ea, 0, r⟩ t) ∧ ∃ t, PartAt s want i A ⟨ea + BitVec.ofNat 64 r, r, n - r⟩ t := by
  obtain ⟨-, hp⟩ | ⟨r, hr, hrn, hp⟩ := partsOf_cases ea n
  · exact .inl ⟨hp, h.part hA _ hn (by simp) fun k hk => by rw [hp]; simpa using hk⟩
  · have hr0 : 0 < r := by omega
    refine .inr ⟨r, hr, hrn, hp, h.part hA _ hr0 (by simp; omega) fun k hk => ?_, h.part hA _ (by simp; omega) (by simp; omega) fun k hk => ?_⟩
    · rw [hp]; simp [show k < r from hk]
    · rw [hp]; simp; simp at hk; omega

theorem State.transParts_cons {c : CtxId} {die : Nat} {p : Part} {ps : List Part} {t : Trans} {r : List (Part × Trans)}
    (ht : s.translate c die want (i * 2 + if p.off = 0 then 0 else 1) p.va = .ok t) (hr : s.transParts c die want i ea ps = .ok r) :
    s.transParts c die want i ea (p :: ps) = .ok ((p, t) :: r) := by
  rw [State.transParts, ht, hr]

/-- Such an access translates, and its parts tile it. -/
theorem State.Here.transParts (hn : 0 < n) (h : s.Here want i ea n) {A : Nat → Nat} (hA : ∀ k, k < n → s.Stands want i ea n k (A k)) :
    ∃ ps, s.transParts s.w.ctx s.myDie want i ea (partsOf ea n) = .ok ps ∧ Tiles A n 0 ps ∧
      ∀ p ∈ ps, p.2.peer = s.peer ∧ p.2.vers = false := by
  obtain ⟨hp, t, ht⟩ | ⟨r, -, hrn, hp, ⟨t, ht⟩, u, hu⟩ := h.parts hn hA
  · refine ⟨[(_, t)], by rw [hp, State.transParts_cons ht.ok rfl], ⟨rfl, ht.addr, by simp [Tiles]⟩, ?_⟩
    simp [ht.peer, ht.vers]
  · refine ⟨[(_, t), (_, u)], by rw [hp, State.transParts_cons ht.ok (State.transParts_cons hu.ok rfl)],
      ⟨rfl, ht.addr, by simp, fun k hk => by simpa using hu.addr k hk, by simp [Tiles]; omega⟩, ?_⟩
    simp [ht.peer, ht.vers, hu.peer, hu.vers]

/-- No two bytes of an access stand at one address: a page part lies within its page, and the second begins one. -/
theorem State.Here.injective (hn : n ≤ 4096) (h : s.Here want i ea n) {A : Nat → Nat} (hA : ∀ k, k < n → s.Stands want i ea n k (A k))
    {j k : Nat} (hj : j < n) (hk : k < n) (he : A j = A k) : j = k := by
  have hva : ea.toNat + n ≤ 2 ^ 48 := h.1
  obtain ⟨-, t, ht⟩ | ⟨r, hr, hrn, -, ⟨t, ht⟩, u, hu⟩ := h.parts (by omega) hA
  · have h1 := ht.addr j hj
    have h2 := ht.addr k hk
    simp only [Nat.zero_add] at h1 h2
    omega
  · have hfirst : ∀ k, k < r → A k = t.page + ea.toNat % 4096 + k := fun k hk => by simpa [Trans.addr] using ht.addr k hk
    have hsecond : ∀ k, r ≤ k → k < n → A k = u.page + (k - r) := fun k h1 h2 => by
      have ha := hu.addr (k - r) (by simp; omega)
      simp only [Trans.addr, toNat_pageEnd ea n r hr hrn hva] at ha
      rw [show r + (k - r) = k by omega] at ha
      omega
    have hpt := ht.page
    have hpu := hu.page
    obtain h1 | h1 := Nat.lt_or_ge j r <;> obtain h2 | h2 := Nat.lt_or_ge k r
    · have := hfirst j h1; have := hfirst k h2; omega
    · have := hfirst j h1; have := hsecond k h2 hk; omega
    · have := hsecond j h1 hj; have := hfirst k h2; omega
    · have := hsecond j h1 hj; have := hsecond k h2 hk; omega
end

end Sys2Proof.Machine
end

section
/-! ### What a load reads of this package's memory (09_access.md R172 to R175, 20_order_far.md R370) -/
namespace Sys2Proof.Machine

/-! #### Copies that agree with memory -/

/-- The canopy copies that the executing warp's die and context have of this package's bytes hold what memory holds. -/
def CopiesAgree (s : State) : Prop := ∀ a x, s.copyByte s.peer a = some x → x.1 = s.byte a

theorem copyKey_inj {p : Peer} {a b : Nat} (h : copyKey p a = copyKey p b) : a = b := Nat.add_left_cancel h
theorem State.copyByte_eq_some (s : State) (p : Peer) (a : Nat) (x : Byte × Nat) :
    s.copyByte p a = some x ↔ Tab.get none (s.die s.myDie).copies (copyKey p a) = some (s.w.ctx, x) := by
  unfold State.copyByte
  split
  · next c y h =>
    rw [h, Option.some.injEq, Prod.mk.injEq]
    by_cases hc : c = s.w.ctx
    · rw [if_pos hc]; simp [hc]
    · rw [if_neg hc]; simp [hc]
  · next h => simp [h]

/-- Copies of one die that hold what memory holds, whatever the context. -/
theorem CopiesAgree.of_die {s t : State} (h : CopiesAgree s) (hb : Beside s t) (hmem : t.mem = s.mem)
    (hc : ∀ a c x, Tab.get none (t.die s.myDie).copies (copyKey s.peer a) = some (c, x) →
      x.1 = s.byte a ∨ Tab.get none (s.die s.myDie).copies (copyKey s.peer a) = some (c, x)) : CopiesAgree t := by
  intro a x hx
  rw [State.copyByte_eq_some, hb.myDie, hb.ctx, hb.peer] at hx
  rw [State.byte, hmem]
  obtain h' | h' := hc a _ x hx
  · exact h'
  · exact h a x ((s.copyByte_eq_some _ _ _).2 h')
theorem CopiesAgree.noted {s t : State} (h : CopiesAgree s) (hn : Noted s t) : CopiesAgree t :=
  h.of_die hn.toBeside hn.mem fun a c x hx => .inr (by rwa [hn.copies] at hx)
theorem CopiesAgree.of_none {s : State} (h : ∀ a, s.copyByte s.peer a = none) : CopiesAgree s := fun a x hx => by
  rw [h a] at hx; cases hx

section
variable (d : Die) (c : CtxId) (p : Peer)

/-- A copy after bytes became copies is one of them, or as before. -/
theorem Die.get_fillCopy (ws : List (Nat × Byte)) (a : Nat) (y : CtxId × Byte × Nat)
    (h : Tab.get none (d.fillCopy c p ws).copies (copyKey p a) = some y) :
    (a, y.2.1) ∈ ws ∨ Tab.get none d.copies (copyKey p a) = some y := by
  unfold Die.fillCopy at h
  dsimp only at h
  generalize d.copies = t at h ⊢
  induction ws generalizing t with
  | nil => exact .inr h
  | cons w ws ih =>
    obtain h' | h' := ih _ h
    · exact .inl (List.mem_cons_of_mem _ h')
    · rw [Tab.get_set] at h'
      split at h'
      · next he =>
        cases h'
        exact .inl (by rw [copyKey_inj he]; exact List.mem_cons_self)
      · exact .inr h'
/-- A copy after bytes entered the copies that there are is one of them, or as before. -/
theorem Die.get_patchCopy (ws : List (Nat × Byte)) (a : Nat) (y : CtxId × Byte × Nat)
    (h : Tab.get none (d.patchCopy p ws).copies (copyKey p a) = some y) :
    (a, y.2.1) ∈ ws ∨ Tab.get none d.copies (copyKey p a) = some y := by
  unfold Die.patchCopy at h
  dsimp only at h
  generalize d.copies = t at h ⊢
  induction ws generalizing t with
  | nil => exact .inr h
  | cons w ws ih =>
    rw [List.foldl_cons] at h
    obtain h' | h' := ih _ h
    · exact .inl (List.mem_cons_of_mem _ h')
    · split at h'
      · rw [Tab.get_set] at h'
        split at h'
        · next he =>
          cases h'
          exact .inl (by rw [copyKey_inj he]; exact List.mem_cons_self)
        · exact .inr h'
      · exact .inr h'
end

theorem State.bytes_eq (s : State) (a n : Nat) : s.bytes a n = (List.range n).map (fun k => s.byte (a + k)) := rfl
/-- Memory's bytes by address. -/
theorem State.mem_cellsFrom {s : State} {a n b : Nat} {x : Byte} (h : (b, x) ∈ cellsFrom a (s.bytes a n)) : x = s.byte b := by
  unfold cellsFrom at h
  obtain ⟨⟨y, k⟩, hy, he⟩ := List.mem_map.1 h
  cases he
  have hk := (List.mk_mem_zipIdx_iff_getElem?.1 hy)
  rw [State.bytes_eq, List.getElem?_map, Option.map_eq_some_iff] at hk
  obtain ⟨j, hj, rfl⟩ := hk
  obtain ⟨_, hj⟩ := List.getElem?_eq_some_iff.1 hj
  rw [List.getElem_range] at hj
  rw [hj]

/-- A read that makes or renews copies of a line of this package by what memory holds. -/
theorem CopiesAgree.setDie {s : State} (h : CopiesAgree s) (d : Die) {a n : Nat}
    (hd : ∀ b y, Tab.get none d.copies (copyKey s.peer b) = some y →
      (b, y.2.1) ∈ cellsFrom a (s.bytes a n) ∨ Tab.get none (s.die s.myDie).copies (copyKey s.peer b) = some y) :
    CopiesAgree (s.setDie s.myDie d) := by
  refine h.of_die (Beside.setDie _ _ _) rfl fun b c x hx => ?_
  rw [State.die_setDie, if_pos rfl] at hx
  exact (hd b _ hx).imp_left State.mem_cellsFrom

/-- A run of copies that agree with memory is what memory holds. -/
theorem CopiesAgree.copyRun {s : State} (h : CopiesAgree s) {a n : Nat} {b : List Byte} (hb : s.copyRun s.peer a n = some b) :
    b = s.bytes a n := by
  unfold State.copyRun at hb
  extract_lets xs torn at hb
  split at hb
  · cases hb
  next hok =>
  obtain rfl := Option.some.inj hb
  have hlen : xs.length = (List.range n).length := by
    rw [List.length_range]; by_contra hne; exact hok (.inl hne)
  have hall : ∀ k ∈ List.range n, (s.copyByte s.peer (a + k)).isSome := List.filterMap_length_eq_length.1 hlen
  rw [State.bytes_eq]
  dsimp only [xs]
  generalize List.range n = l at hall
  induction l with
  | nil => rfl
  | cons k l ih =>
    obtain ⟨x, hx⟩ := Option.isSome_iff_exists.1 (hall k List.mem_cons_self)
    rw [List.filterMap_cons, hx]
    dsimp only
    rw [List.map_cons, List.map_cons, h _ x hx, ih fun j hj => hall j (List.mem_cons_of_mem _ hj)]

/-! #### Reading lines and parts -/

/-- Reading has gone on from `s` to `t`: memory is as it was, and copies agree with it as before. -/
structure ReadOn (s t : State) : Prop extends Beside s t where
  mem : t.mem = s.mem
  agree : CopiesAgree t

theorem ReadOn.refl {s : State} (h : CopiesAgree s) : ReadOn s s := ⟨Beside.refl s, rfl, h⟩
theorem ReadOn.trans {s t u : State} (h : ReadOn s t) (h' : ReadOn t u) : ReadOn s u :=
  ⟨h.toBeside.trans h'.toBeside, h'.mem.trans h.mem, h'.agree⟩
theorem ReadOn.bytes {s t : State} (h : ReadOn s t) (a n : Nat) : t.bytes a n = s.bytes a n := by rw [State.bytes, State.bytes, h.mem]

theorem State.bytes_append (s : State) (a m n : Nat) : s.bytes a m ++ s.bytes (a + m) n = s.bytes a (m + n) := by
  rw [State.bytes_eq, State.bytes_eq, State.bytes_eq, List.range_add, List.map_append, List.map_map]
  simp [Function.comp_def, Nat.add_assoc]
theorem State.take_drop_bytes (s : State) (a m k n : Nat) (h : k + n ≤ m) : ((s.bytes a m).drop k).take n = s.bytes (a + k) n := by
  apply List.ext_getElem
  · simp [State.bytes_eq]; omega
  · intro i h1 h2
    simp [State.bytes_eq, Nat.add_assoc]

/-- A line of this package reads as memory, through its copies or not. -/
theorem State.plainLine_own {s : State} (h : CopiesAgree s) (t : Trans) (ht : t.peer = s.peer) (seed line : Nat) :
    ReadOn s (s.plainLine t seed line).1 ∧ (s.plainLine t seed line).2 = s.bytes (line * 128) 128 := by
  have hfill := h.setDie ((s.die s.myDie).fillCopy s.w.ctx s.peer (cellsFrom (line * 128) (s.bytes (line * 128) 128)))
    fun b y hy => Die.get_fillCopy _ _ _ _ b y hy
  have hpatch := h.setDie ((s.die s.myDie).patchCopy s.peer (cellsFrom (line * 128) (s.bytes (line * 128) 128)))
    fun b y hy => Die.get_patchCopy _ _ _ b y hy
  unfold State.plainLine
  extract_lets mem cells
  rw [ht]
  split
  · split
    · next b hb =>
      split
      · exact ⟨ReadOn.refl h, h.copyRun hb⟩
      · exact ⟨⟨Beside.setDie _ _ _, rfl, hfill⟩, rfl⟩
    · exact ⟨⟨Beside.setDie _ _ _, rfl, hfill⟩, rfl⟩
  · exact ⟨⟨Beside.setDie _ _ _, rfl, hpatch⟩, rfl⟩

theorem State.readLines_own {s : State} (h : CopiesAgree s) (t : Trans) (ht : t.peer = s.peer) (seed n l : Nat) :
    ReadOn s (s.readLines false t seed n l).1 ∧ (s.readLines false t seed n l).2 = s.bytes (l * 128) (128 * n) := by
  induction n generalizing s seed l with
  | zero => exact ⟨ReadOn.refl h, rfl⟩
  | succ n ih =>
    obtain ⟨h1, hb1⟩ := State.plainLine_own h t ht seed l
    obtain ⟨h2, hb2⟩ := ih h1.agree (ht.trans h1.peer.symm) (seed + 2) (l + 1)
    rw [State.readLines]
    refine ⟨h1.trans h2, ?_⟩
    dsimp only [Bool.false_eq_true, if_false]
    rw [if_neg (by decide), hb1, hb2, h1.bytes, Nat.add_mul, s.bytes_append, Nat.mul_add, Nat.add_comm (128 * n)]

/-- The bytes of an unversioned part on this package are memory's. -/
theorem State.readPart_own {s : State} (h : CopiesAgree s) (v : View) (seed : Nat) (p : Part × Trans) (hp : p.2.peer = s.peer)
    (hv : p.2.vers = false) : ReadOn s (s.readPart v false seed p).1 ∧
      (s.readPart v false seed p).2 = .bytes (s.bytes (p.2.addr p.1.va) p.1.n) := by
  have haway : s.away p.2 = false := by simp [State.away, hp]
  have hend : ReadOn s (s.endLeases (p.2.addr p.1.va) p.1.n) := ⟨Beside.endLeases _ _ _, rfl, h⟩
  unfold State.readPart
  extract_lets a s' r
  rw [if_neg (by simp [haway]), if_neg (by simp [hv])]
  obtain ⟨hr, hb⟩ := State.readLines_own hend.agree p.2 hp seed ((a + p.1.n + 127) / 128 - a / 128) (a / 128)
  have hlines : r = s'.readLines false p.2 seed ((a + p.1.n + 127) / 128 - a / 128) (a / 128) := rfl
  rw [hlines]
  refine ⟨hend.trans hr, ?_⟩
  rw [hb, hend.bytes, s.take_drop_bytes _ _ _ _ (by omega), Nat.div_add_mod']

/-- What the parts of a lane come to when all their bytes are here. -/
theorem gotAll_bytes (ps : List (Part × Trans × Got)) (f : Part × Trans × Got → List Byte) (h : ∀ p ∈ ps, p.2.2 = .bytes (f p)) :
    gotAll ps = .bytes (ps.flatMap f) := by
  induction ps using List.reverseRecOn with
  | nil => rfl
  | append_singleton ps p ih =>
    have ih := ih fun q hq => h q (List.mem_append_left _ hq)
    unfold gotAll at ih ⊢
    rw [List.foldl_append, ih, List.foldl_cons, h p (by simp), List.foldl_nil, List.flatMap_append, List.flatMap_singleton]

/-- Every part of an access to unversioned pages of this package reads as memory. -/
theorem State.readParts_own {s : State} (h : CopiesAgree s) (v : View) (seed : Nat) (ps : List (Part × Trans))
    (hp : ∀ p ∈ ps, p.2.peer = s.peer ∧ p.2.vers = false) :
    ReadOn s (s.readParts v false seed ps).1 ∧
      (s.readParts v false seed ps).2 = ps.map (fun p => (p.1, p.2, Got.bytes (s.bytes (p.2.addr p.1.va) p.1.n))) := by
  induction ps generalizing s seed with
  | nil => exact ⟨ReadOn.refl h, rfl⟩
  | cons p ps ih =>
    obtain ⟨hpeer, hvers⟩ := hp p List.mem_cons_self
    obtain ⟨h1, hb1⟩ := State.readPart_own h v seed p hpeer hvers
    obtain ⟨h2, hb2⟩ := ih h1.agree (seed + 256) fun q hq => h1.peer ▸ hp q (List.mem_cons_of_mem _ hq)
    rw [State.readParts]
    refine ⟨h1.trans h2, ?_⟩
    simp only [hb1, hb2, h1.bytes, List.map_cons]

/-- Read one after the other, the parts of an access give its bytes in order. -/
theorem Tiles.flatMap_bytes (s : State) {A : Nat → Nat} {n o : Nat} {ps : List (Part × Trans)} (ht : Tiles A n o ps) :
    ps.flatMap (fun p => s.bytes (p.2.addr p.1.va) p.1.n) = (List.range (n - o)).map (fun k => s.byte (A (o + k))) := by
  induction ps generalizing o with
  | nil => obtain rfl : o = n := ht; simp
  | cons p ps ih =>
    obtain ⟨-, hA, ht⟩ := ht
    have hlen : n - o = p.1.n + (n - (o + p.1.n)) := by have := ht.le; omega
    rw [List.flatMap_cons, ih ht, hlen, List.range_add, List.map_append, List.map_map, State.bytes_eq]
    congr 1
    · exact List.map_congr_left fun k hk => by rw [hA k (List.mem_range.1 hk)]
    · exact List.map_congr_left fun k _ => by simp [Nat.add_assoc]

/-- The bytes of an access to unversioned pages of this package are those that stand at its addresses. -/
theorem State.readParts_tiles {s : State} (h : CopiesAgree s) (v : View) (seed : Nat) {A : Nat → Nat} {n : Nat}
    {ps : List (Part × Trans)} (ht : Tiles A n 0 ps) (hp : ∀ p ∈ ps, p.2.peer = s.peer ∧ p.2.vers = false) :
    ReadOn s (s.readParts v false seed ps).1 ∧
      gotAll (s.readParts v false seed ps).2 = .bytes ((List.range n).map (fun k => s.byte (A k))) := by
  obtain ⟨hr, hb⟩ := State.readParts_own h v seed ps hp
  have hall : ∀ q ∈ ps.map (fun p => (p.1, p.2, Got.bytes (s.bytes (p.2.addr p.1.va) p.1.n))),
      q.2.2 = .bytes (s.bytes (q.2.1.addr q.1.va) q.1.n) := fun q hq => by
    obtain ⟨p, -, rfl⟩ := List.mem_map.1 hq; rfl
  refine ⟨hr, ?_⟩
  rw [hb, gotAll_bytes _ (fun q => s.bytes (q.2.1.addr q.1.va) q.1.n) hall, List.flatMap_map]
  simpa using congrArg Got.bytes (ht.flatMap_bytes s)

end Sys2Proof.Machine
end

section
/-! ### What a store writes of this package's memory (09_access.md R175, 20_order_far.md R370) -/
namespace Sys2Proof.Machine

/-! #### Bytes by address -/

/-- Bytes by address written over a memory. -/
def writeMem (m : Tab Byte) (ws : List (Nat × Byte)) : Tab Byte := ws.foldl (fun m w => Tab.set 0 m w.1 w.2) m

theorem State.mem_writeCells (s : State) (ws : List (Nat × Byte)) : (s.writeCells ws).mem = writeMem s.mem ws := by
  unfold State.writeCells writeMem
  induction ws generalizing s with
  | nil => rfl
  | cons w ws ih => exact ih (s.setByte w.1 w.2)
theorem writeMem_append (m : Tab Byte) (ws xs : List (Nat × Byte)) : writeMem m (ws ++ xs) = writeMem (writeMem m ws) xs :=
  List.foldl_append
/-- An address that no byte is written at reads as before. -/
theorem get_writeMem_out (m : Tab Byte) (ws : List (Nat × Byte)) (a : Nat) (h : ∀ w ∈ ws, w.1 ≠ a) :
    Tab.get 0 (writeMem m ws) a = Tab.get 0 m a := by
  induction ws generalizing m with
  | nil => rfl
  | cons w ws ih =>
    refine (ih _ fun x hx => h x (List.mem_cons_of_mem _ hx)).trans (Tab.get_set_ne _ _ _ _ _ ?_)
    exact fun he => h w List.mem_cons_self he.symm
/-- An address at which one byte is written, and no other, reads as that byte. -/
theorem get_writeMem_in (m : Tab Byte) (ws : List (Nat × Byte)) (a : Nat) (b : Byte) (h : (a, b) ∈ ws)
    (hu : ∀ c, (a, c) ∈ ws → c = b) : Tab.get 0 (writeMem m ws) a = b := by
  induction ws generalizing m with
  | nil => cases h
  | cons w ws ih =>
    by_cases ht : (a, b) ∈ ws
    · exact ih _ ht fun c hc => hu c (List.mem_cons_of_mem _ hc)
    · obtain rfl : (a, b) = w := (List.mem_cons.1 h).resolve_right ht
      refine (get_writeMem_out _ ws a fun x hx he => ht ?_).trans (Tab.get_set_same _ _ _ _)
      obtain ⟨k, c⟩ := x
      obtain rfl : k = a := he
      rwa [← hu c (List.mem_cons_of_mem _ hx)]

/-! #### A store line by line -/

theorem linesOf_append_singleton (ws : List (Nat × Byte)) (w : Nat × Byte) : linesOf (ws ++ [w]) =
    if (linesOf ws).contains (w.1 / 128) then linesOf ws else linesOf ws ++ [w.1 / 128] := by
  rw [linesOf, List.foldl_append]; rfl
theorem mem_linesOf (ws : List (Nat × Byte)) (w : Nat × Byte) (h : w ∈ ws) : w.1 / 128 ∈ linesOf ws := by
  induction ws using List.reverseRecOn with
  | nil => cases h
  | append_singleton ws x ih =>
    rw [linesOf_append_singleton]
    obtain h | h := List.mem_append.1 h
    · split
      · exact ih h
      · exact List.mem_append_left _ (ih h)
    · obtain rfl := List.mem_singleton.1 h
      split
      · next hc => simpa using hc
      · simp

/-- The bytes of a store in the order in which `State.storeHere` writes them. -/
def byLine (ws : List (Nat × Byte)) : List (Nat × Byte) := (linesOf ws).flatMap (fun l => onLine l ws)
theorem mem_byLine (ws : List (Nat × Byte)) (w : Nat × Byte) : w ∈ byLine ws ↔ w ∈ ws := by
  simp only [byLine, List.mem_flatMap, onLine, List.mem_filter, beq_iff_eq]
  exact ⟨fun ⟨_, _, h, _⟩ => h, fun h => ⟨_, mem_linesOf ws w h, h, rfl⟩⟩

theorem State.mem_storeHere (s : State) (t : Trans) (ws : List (Nat × Byte)) : (s.storeHere t ws).mem = writeMem s.mem (byLine ws) := by
  unfold State.storeHere byLine
  generalize linesOf ws = ls
  induction ls generalizing s with
  | nil => rfl
  | cons l ls ih =>
    rw [List.foldl_cons, ih, List.flatMap_cons, writeMem_append, State.mem_storeCopy, State.mem_endLeases, State.mem_writeCells]
theorem Beside.writeCells (s : State) (ws : List (Nat × Byte)) : Beside s (s.writeCells ws) :=
  Beside.foldl (fun s (w : Nat × Byte) => s.setByte w.1 w.2) (fun _ _ => Beside.of_warps rfl rfl rfl rfl rfl) ws s
theorem Beside.storeHere (s : State) (t : Trans) (ws : List (Nat × Byte)) : Beside s (s.storeHere t ws) :=
  Beside.foldl (fun s l => ((s.writeCells (onLine l ws)).endLeases (l * 128) 128).storeCopy s.myDie t.peer l (onLine l ws))
    (fun s _ => (Beside.writeCells s _).trans (Beside.of_warps rfl rfl rfl rfl rfl)) _ s

/-- Stores to several parts of this package. -/
theorem State.storeHere_foldl (s : State) (cs : List (Trans × List (Nat × Byte))) :
    Beside s (cs.foldl (fun s c => s.storeHere c.1 c.2) s) ∧
      (cs.foldl (fun s c => s.storeHere c.1 c.2) s).mem = writeMem s.mem (cs.flatMap (fun c => byLine c.2)) := by
  refine ⟨Beside.foldl _ (fun s c => Beside.storeHere s c.1 c.2) cs s, ?_⟩
  induction cs generalizing s with
  | nil => rfl
  | cons c cs ih => rw [List.foldl_cons, ih, List.flatMap_cons, writeMem_append, State.mem_storeHere]

/-! #### The cells of an access -/

/-- The bytes by address that a tiled access stores: each byte of data at the address of its place. -/
theorem Tiles.mem_cells {A : Nat → Nat} {n o : Nat} {ps : List (Part × Trans)} (h : Tiles A n o ps) (data : List (Nat × Byte)) (a : Nat) (b : Byte) :
    (a, b) ∈ ps.flatMap (fun p => cellsOf p data) ↔ ∃ k, o ≤ k ∧ k < n ∧ (k, b) ∈ data ∧ a = A k := by
  induction ps generalizing o with
  | nil => obtain rfl : o = n := h; simp; omega
  | cons p ps ih =>
    have hle := h.le
    obtain ⟨hoff, hA, ht⟩ := h
    have hle' := ht.le
    rw [List.flatMap_cons, List.mem_append, ih ht]
    have hcell : (a, b) ∈ cellsOf p data ↔ ∃ k, o ≤ k ∧ k < o + p.1.n ∧ (k, b) ∈ data ∧ a = A k := by
      unfold cellsOf
      rw [hoff]
      simp only [List.mem_map, List.mem_filter, Bool.and_eq_true, decide_eq_true_eq, Prod.mk.injEq, Prod.exists]
      constructor
      · rintro ⟨k, c, ⟨hd, h1, h2⟩, he, rfl⟩
        refine ⟨k, h1, h2, hd, ?_⟩
        have := hA (k - o) (by omega)
        rw [show o + (k - o) = k by omega] at this
        omega
      · rintro ⟨k, h1, h2, hd, rfl⟩
        refine ⟨k, b, ⟨hd, h1, h2⟩, ?_, rfl⟩
        have := hA (k - o) (by omega)
        rw [show o + (k - o) = k by omega] at this
        omega
    rw [hcell]
    constructor
    · rintro (⟨k, h1, h2, h3⟩ | ⟨k, h1, h2, h3⟩)
      · exact ⟨k, h1, by omega, h3⟩
      · exact ⟨k, by omega, h2, h3⟩
    · rintro ⟨k, h1, h2, h3⟩
      obtain hk | hk := Nat.lt_or_ge k (o + p.1.n)
      · exact .inl ⟨k, h1, hk, h3⟩
      · exact .inr ⟨k, hk, h2, h3⟩

/-- A store of one lane to unversioned pages of this package, none of it performed before, is a store to each of its parts, and leaves
no lane waiting. -/
theorem State.storeLanes_own (s : State) (lane : Nat) (e : DWord) (ps : List (Part × Trans)) (rel : Bool) (data : List (Nat × Byte))
    (hst : s.w.stored = []) (hp : ∀ p ∈ ps, p.2.peer = s.peer ∧ p.2.vers = false) :
    s.storeLanes [⟨lane, e, ps⟩] rel (fun _ => data) =
      (((ps.map (fun p => (p.2, cellsOf p data))).foldl (fun s c => s.storeHere c.1 c.2) s).upd (fun w => { w with stored := [] }), 0, 0) := by
  have hvers : ps.filter (fun p => p.2.vers) = [] := List.filter_eq_nil_iff.2 fun p h => by simp [(hp p h).2]
  have hall : ps.filter (fun p => !p.2.vers) = ps := List.filter_eq_self.2 fun p h => by simp [(hp p h).2]
  unfold State.storeLanes
  extract_lets old data' plain u v cs t r waits done
  have hdata : data' ⟨lane, e, ps⟩ = data := by simp [data', old, hst]
  have hplain : plain = ps.map (fun p => (p.2, cellsOf p data)) := by simp [plain, hdata, hall]
  have hown : ∀ x : State, x.peer = s.peer →
      plain.filter (fun c => !x.away c.1) = plain ∧ plain.filter (fun c => x.away c.1) = [] := fun x hx => by
    have haway : ∀ c ∈ plain, x.away c.1 = false := fun c hc => by
      rw [hplain] at hc
      obtain ⟨p, h, rfl⟩ := List.mem_map.1 hc
      simp [State.away, hx, (hp p h).1]
    exact ⟨List.filter_eq_self.2 fun c hc => by rw [haway c hc]; rfl,
      List.filter_eq_nil_iff.2 fun c hc => by rw [haway c hc]; exact Bool.false_ne_true⟩
  have hu : u = plain.foldl (fun s c => s.storeHere c.1 c.2) s :=
    congrArg (List.foldl (fun s c => State.storeHere s c.1 c.2) s) (hown s rfl).1
  have hv : v = u :=
    congrArg (u.storeAway rel) (hown u (hu ▸ (State.storeHere_foldl s plain).1.peer)).2
  have hcs : cs = [] := by simp [cs, Lane.vcells, hvers]
  have hr : r = (u, [], 0) := by
    rw [show r = State.storeLines t cs _ from rfl, show t = List.foldl _ v cs from rfl, hcs, hv]
    rfl
  have hwaits : waits = 0 := by rw [show waits = List.foldl _ 0 r.2.1 from rfl, hr]; rfl
  have hdone : done = [] := by simp [done, hwaits]
  rw [hdone, hwaits, hr, hu, hplain, show old = [] from hst]
  rfl

/-- What such a store leaves: the executing warp, memory. -/
theorem State.storeLanes_own_spec (s : State) (lane : Nat) (e : DWord) (ps : List (Part × Trans)) (rel : Bool) (data : List (Nat × Byte))
    (hst : s.w.stored = []) (hp : ∀ p ∈ ps, p.2.peer = s.peer ∧ p.2.vers = false) :
    Beside s (s.storeLanes [⟨lane, e, ps⟩] rel (fun _ => data)).1 ∧
      (s.storeLanes [⟨lane, e, ps⟩] rel (fun _ => data)).1.mem = writeMem s.mem (ps.flatMap (fun p => byLine (cellsOf p data))) ∧
      (s.storeLanes [⟨lane, e, ps⟩] rel (fun _ => data)).2.1 = 0 := by
  rw [s.storeLanes_own lane e ps rel data hst hp]
  obtain ⟨hb, hm⟩ := State.storeHere_foldl s (ps.map (fun p => (p.2, cellsOf p data)))
  refine ⟨hb.trans ?_, ?_, rfl⟩
  · refine ⟨rfl, rfl, rfl, rfl, fun k hk => State.warp_upd_ne _ _ _ hk, ?_⟩
    rw [State.w_upd, hb.warp, ← hst]
  · rw [State.upd_mem, hm, List.flatMap_map]

/-- A store of one lane by parts that tile it: each byte of data is written where its place stands, and no other byte. -/
theorem State.storeLanes_tiles (s : State) (lane : Nat) (e : DWord) {ps : List (Part × Trans)} (rel : Bool) {data : List (Nat × Byte)}
    (hst : s.w.stored = []) (hp : ∀ p ∈ ps, p.2.peer = s.peer ∧ p.2.vers = false) {A : Nat → Nat} {n : Nat} (ht : Tiles A n 0 ps) :
    let t := (s.storeLanes [⟨lane, e, ps⟩] rel (fun _ => data)).1
    (∀ a, (∀ k b, k < n → (k, b) ∈ data → A k ≠ a) → t.byte a = s.byte a) ∧
    ∀ k b, k < n → (k, b) ∈ data → (∀ j c, j < n → (j, c) ∈ data → A j = A k → c = b) → t.byte (A k) = b := by
  obtain ⟨-, hm, -⟩ := s.storeLanes_own_spec lane e ps rel data hst hp
  have hcells : ∀ a b, (a, b) ∈ ps.flatMap (fun p => byLine (cellsOf p data)) ↔ ∃ k, k < n ∧ (k, b) ∈ data ∧ a = A k := fun a b => by
    have := ht.mem_cells data a b
    simp only [List.mem_flatMap, mem_byLine, Nat.zero_le, true_and] at this ⊢
    exact this
  intro t
  refine ⟨fun a ha => ?_, fun k b hk hd hu => ?_⟩
  · rw [State.byte, hm]
    refine get_writeMem_out _ _ a fun ⟨c, b⟩ hw he => ?_
    obtain ⟨k, hk, hd, hc⟩ := (hcells c b).1 hw
    exact ha k b hk hd (hc ▸ he)
  · rw [State.byte, hm]
    refine get_writeMem_in _ _ _ _ ((hcells _ _).2 ⟨k, hk, hd, rfl⟩) fun c hc => ?_
    obtain ⟨j, hj, hd', he⟩ := (hcells _ _).1 hc
    exact hu j c hj hd' he.symm

end Sys2Proof.Machine
end

section
/-! ### SPILL and FILL (04_registers.md R74 to R77) -/
namespace Sys2Proof.Machine

theorem exec_spill (i : Spill) (s : State) (h : s.fenceHolds 0 = false) : exec (.spill i) s = .next ((s.passFence 0).spill i) :=
  s.memory_free 0 (fun s => s.spill i) h
theorem exec_fill (i : Fill) (s : State) (h : s.fenceHolds 0 = false) : exec (.fill i) s = .next ((s.passFence 0).fill i) :=
  s.memory_free 0 (fun s => s.fill i) h

/-! #### Watches, and the end of an instruction -/

theorem State.watched_unwatched {s : State} (h : s.Unwatched) (rd wr : Bool) (va : DWord) (n : Nat) :
    s.watched s.w.ctx rd wr va n = false := by
  obtain ⟨-, hw⟩ := h
  rw [State.watched, Bool.and_eq_false_iff, List.any_eq_false]
  exact .inr fun e he hf => hw e he (by simp [watchFires] at hf; exact hf.1.1.2)
theorem State.slotHit_unwatched {s : State} (h : s.Unwatched) (rd : Bool) (e : DWord) (data fmt : Nat) : s.slotHit rd e data fmt = s := by
  unfold State.slotHit
  rw [State.watched_unwatched h, State.watched_unwatched h]; rfl
theorem State.complete_unwatched {s : State} (h : s.Unwatched) (all : Mask) (len : Nat) (sw : Bool) :
    s.complete all len sw = s.retire len sw := by
  unfold State.complete
  rw [h.1, ite_self]

theorem State.Unwatched.passFence {s : State} (h : s.Unwatched) (p : Nat) : (s.passFence p).Unwatched := by
  unfold State.Unwatched
  rw [State.w_passFence]; exact h
theorem Beside.unwatched {s t : State} (h : Beside s t) (hs : s.Unwatched) : t.Unwatched :=
  ⟨h.watch.trans hs.1, by rw [h.watches, h.ctx]; exact hs.2⟩

/-- Let past its FENCE, an access has gone on to `u` and ends there. -/
theorem AccessStep.retire {s u : State} {len : Nat} {sw : Bool} (hcur : u.cur = s.cur) (hothers : ∀ k, k ≠ s.cur → u.warp k = s.warp k)
    {c : List Nat} {q : List Pending} {f : FenceHold} (hw : u.w = { s.w with counted := c, pending := q, fence := f }) :
    AccessStep (.next (u.retire len sw)) s (u.retire len sw) len sw ∧ (u.retire len sw).w.pending = q := by
  have hret : (u.retire len sw).w = u.w.retire len sw := State.w_upd _ _
  have hpend : (u.retire len sw).w.pending = q := by rw [hret, Warp.retire_pending, hw]
  refine ⟨⟨rfl, fun k hk => ?_, ?_, ?_⟩, hpend⟩
  · rw [← hothers k hk]
    exact State.warp_upd_ne _ _ _ (hcur ▸ hk)
  · have hbody := Warp.body_retire u.w len sw
    rw [← hret, hw] at hbody
    exact congrArg (fun w : Warp => { w with pending := s.w.pending, fence := s.w.fence, acqV := s.w.acqV, acqX := s.w.acqX }) hbody
  · rw [hret, show s.w.pc = u.w.pc by rw [hw]]
    exact Warp.at_retire _ _ _

/-- The executing warp, let past its FENCE, with pages counted. -/
theorem Beside.passed {s u : State} (h : Beside (s.passFence 0) u) :
    u.w = { s.w with counted := u.w.counted, pending := s.w.pending, fence := s.w.fence.pass 0 } := by
  rw [h.warp, State.w_passFence]
theorem Beside.passed_others {s u : State} (h : Beside (s.passFence 0) u) (k : Nat) (hk : k ≠ s.cur) : u.warp k = s.warp k :=
  (h.others k hk).trans (State.warp_upd_ne _ _ _ hk)

/-! #### The checks of R75 -/

theorem State.slotCause_passFence (s : State) (sp : Bool) (e : DWord) : (s.passFence 0).slotCause sp e = s.slotCause sp e := by
  unfold State.slotCause State.myTeam
  rw [State.w_passFence]; rfl

section
variable {s : State} {sp : Bool} {e : DWord}
theorem State.slotCause_unaligned (h : e.toNat % 4 ≠ 0) : s.slotCause sp e = some 0x085 := if_pos h
theorem State.slotCause_beyondTeam (hsp : sp = true) (h : e.toNat % 4 = 0) (hb : s.myTeam.size < e.toNat + 132) :
    s.slotCause sp e = some 0x114 := by simp [State.slotCause, hsp, h, hb]
theorem State.slotCause_beyondSpace (hsp : sp = false) (h : e.toNat % 4 = 0) (hb : 2 ^ 48 < e.toNat + 132) :
    s.slotCause sp e = some 0x0C2 := by simp [State.slotCause, hsp, h]; omega
theorem State.slotCause_sp (hsp : sp = true) (h : e.toNat % 4 = 0) (hb : e.toNat + 132 ≤ s.myTeam.size) :
    s.slotCause sp e = none := by simp [State.slotCause, hsp, h]; omega
theorem State.slotCause_global (hsp : sp = false) (h : e.toNat % 4 = 0) (hb : e.toNat + 132 ≤ 2 ^ 48) :
    s.slotCause sp e = none := by simp [State.slotCause, hsp, h]; omega
end

/-! #### Scratchpad bytes -/

@[simp] theorem State.core_retire (s : State) (len : Nat) (sw : Bool) (k : Nat) : (s.retire len sw).core k = s.core k := rfl
@[simp] theorem State.spByte_retire (s : State) (len : Nat) (sw : Bool) (c a : Nat) : (s.retire len sw).spByte c a = s.spByte c a := rfl
@[simp] theorem State.spFull_retire (s : State) (len : Nat) (sw : Bool) (c n : Nat) : (s.retire len sw).spFull c n = s.spFull c n := rfl
@[simp] theorem State.core_passFence (s : State) (p k : Nat) : (s.passFence p).core k = s.core k := rfl
@[simp] theorem State.spByte_passFence (s : State) (p c a : Nat) : (s.passFence p).spByte c a = s.spByte c a := rfl
@[simp] theorem State.spFull_passFence (s : State) (p c n : Nat) : (s.passFence p).spFull c n = s.spFull c n := rfl
@[simp] theorem State.team_passFence (s : State) (p k : Nat) : (s.passFence p).team k = s.team k := rfl

section
variable (s : State) (k off : Nat) (bs : List Byte)
theorem State.spByte_setSpBytes_in {j : Nat} {b : Byte} (h : bs[j]? = some b) :
    (s.setSpBytes k off bs).spByte (coreOf k) ((s.team k).base + off + j) = b := by
  obtain ⟨hj, rfl⟩ := List.getElem?_eq_some_iff.1 h
  rw [State.spByte, State.setSpBytes, State.core_setCore, if_pos rfl, Tab.get_setRun, dif_pos (by omega)]
  simp
theorem State.spByte_setSpBytes_out {a : Nat} (h : a < (s.team k).base + off ∨ (s.team k).base + off + bs.length ≤ a) :
    (s.setSpBytes k off bs).spByte (coreOf k) a = s.spByte (coreOf k) a := by
  rw [State.spByte, State.setSpBytes, State.core_setCore, if_pos rfl]
  exact Tab.get_setRun_out _ _ _ _ _ h
theorem State.core_setSpBytes_ne {c : Nat} (h : c ≠ coreOf k) : (s.setSpBytes k off bs).core c = s.core c := by
  rw [State.setSpBytes, State.core_setCore, if_neg h]
theorem State.spFull_setSpBytes (c n : Nat) : (s.setSpBytes k off bs).spFull c n = s.spFull c n := by
  rw [State.spFull, State.spFull, State.setSpBytes, State.core_setCore]
  split
  · next h => rw [h]
  · rfl
end

/-- A slot of the scratchpad written: the data bytes, and the format byte with the three after it (R75). -/
def State.putSlot (s : State) (k off : Nat) (f : Nat × List Byte) : State :=
  (s.setSpBytes k off f.2).setSpBytes k (off + 128) (bytesLE 4 f.1)

theorem length_spillForm_le (raw : Bool) (v : Nat → Word) : (spillForm raw v).2.length ≤ 128 := by
  have hlt := slotFormat_lt raw v
  rw [spillForm_eq, length_slotData v _ hlt]
  interval_cases slotFormat raw v <;> decide

section
variable (s : State) (k off : Nat)
@[simp] theorem State.warp_putSlot (f : Nat × List Byte) (j : Nat) : (s.putSlot k off f).warp j = s.warp j := rfl
@[simp] theorem State.cur_putSlot (f : Nat × List Byte) : (s.putSlot k off f).cur = s.cur := rfl
@[simp] theorem State.mem_putSlot (f : Nat × List Byte) : (s.putSlot k off f).mem = s.mem := rfl
@[simp] theorem State.w_putSlot (f : Nat × List Byte) : (s.putSlot k off f).w = s.w := rfl
theorem State.Unwatched.putSlot {s : State} (h : s.Unwatched) (k off : Nat) (f : Nat × List Byte) : (s.putSlot k off f).Unwatched := h
theorem State.core_putSlot_ne (f : Nat × List Byte) {c : Nat} (h : c ≠ coreOf k) : (s.putSlot k off f).core c = s.core c := by
  rw [State.putSlot, State.core_setSpBytes_ne _ _ _ _ h, State.core_setSpBytes_ne _ _ _ _ h]
theorem State.spFull_putSlot (f : Nat × List Byte) (c n : Nat) : (s.putSlot k off f).spFull c n = s.spFull c n := by
  rw [State.putSlot, State.spFull_setSpBytes, State.spFull_setSpBytes]
theorem State.spByte_putSlot_out (raw : Bool) (v : Nat → Word) {a : Nat}
    (h : a < (s.team k).base + off ∨ (s.team k).base + off + 132 ≤ a) :
    (s.putSlot k off (spillForm raw v)).spByte (coreOf k) a = s.spByte (coreOf k) a := by
  have hlen := length_spillForm_le raw v
  rw [State.putSlot, State.spByte_setSpBytes_out, State.spByte_setSpBytes_out]
  · omega
  · change a < (s.team k).base + (off + 128) ∨ (s.team k).base + (off + 128) + (bytesLE 4 _).length ≤ a
    rw [length_bytesLE]; omega
/-- It then holds the form that SPILL chooses. -/
theorem State.slotForm_putSlot (raw : Bool) (v : Nat → Word) :
    SlotForm raw v (fun n => s.spByte (coreOf k) ((s.team k).base + off + n))
      (fun n => (s.putSlot k off (spillForm raw v)).spByte (coreOf k) ((s.team k).base + off + n)) := by
  have hlen := length_spillForm_le raw v
  -- The bytes from place 128 on are written last.
  have hlow : ∀ n, n < 128 → (s.putSlot k off (spillForm raw v)).spByte (coreOf k) ((s.team k).base + off + n) =
      (s.setSpBytes k off (spillForm raw v).2).spByte (coreOf k) ((s.team k).base + off + n) := fun n hn => by
    refine State.spByte_setSpBytes_out _ _ _ _ (.inl ?_)
    change _ < (s.team k).base + (off + 128)
    omega
  refine slotForm_of_bytes (fun n b h => ?_) (fun n b h => ?_) fun n h1 h2 => ?_
  · obtain ⟨hn, -⟩ := List.getElem?_eq_some_iff.1 h
    exact (hlow n (by omega)).trans (s.spByte_setSpBytes_in k off _ h)
  · have hin := (s.setSpBytes k off (spillForm raw v).2).spByte_setSpBytes_in k (off + 128) _ h
    change State.spByte _ _ ((s.team k).base + (off + 128) + n) = b at hin
    rwa [show (s.team k).base + (off + 128) + n = (s.team k).base + off + (128 + n) by omega] at hin
  · exact (hlow n h2).trans (s.spByte_setSpBytes_out k off _ (.inr (by omega)))
end

/-! #### SPILL -/

/-- The bytes by place that SPILL writes. -/
def spillCells (f : Nat × List Byte) : List (Nat × Byte) :=
  f.2.zipIdx.map (fun x => (x.2, x.1)) ++ (bytesLE 4 f.1).zipIdx.map (fun x => (128 + x.2, x.1))
theorem mem_spillCells (f : Nat × List Byte) (k : Nat) (b : Byte) :
    (k, b) ∈ spillCells f ↔ f.2[k]? = some b ∨ ∃ j, k = 128 + j ∧ (bytesLE 4 f.1)[j]? = some b := by
  rw [spillCells, List.mem_append, List.mem_map, List.mem_map]
  refine or_congr ⟨?_, fun h => ⟨(b, k), List.mk_mem_zipIdx_iff_getElem?.2 h, rfl⟩⟩
    ⟨?_, fun ⟨j, hj, h⟩ => ⟨(b, j), List.mk_mem_zipIdx_iff_getElem?.2 h, by rw [hj]⟩⟩
  · rintro ⟨⟨c, j⟩, hx, he⟩
    cases he
    exact List.mk_mem_zipIdx_iff_getElem?.1 hx
  · rintro ⟨⟨c, j⟩, hx, he⟩
    cases he
    exact ⟨j, rfl, List.mk_mem_zipIdx_iff_getElem?.1 hx⟩

/-- Where SPILL and FILL act (R74). -/
def Warp.slotAt (w : Warp) (b : RegNo) (off : Word) : DWord := w.s b.toNat + sx64 off

section
variable {s : State} {i : Spill} (hd : s.w.done ≠ fullMask)
include hd

theorem State.spill_traps {c : Cause} (hc : s.slotCause i.sp (s.w.slotAt i.b i.off) = some c) :
    s.spill i = s.precise c fullMask (s.w.slotAt i.b i.off) := by
  unfold State.spill
  extract_lets e f data
  rw [if_neg hd, show s.slotCause i.sp e = some c from hc]
  rfl
theorem State.spill_sp (hsp : i.sp = true) (hc : s.slotCause i.sp (s.w.slotAt i.b i.off) = none) : s.spill i =
    (s.putSlot s.w.team (s.w.slotAt i.b i.off).toNat (spillForm i.raw (fun l => s.w.v i.a.toNat l))).complete fullMask 12 i.sw := by
  unfold State.spill
  extract_lets e f data
  rw [if_neg hd, show s.slotCause i.sp e = none from hc]
  dsimp only
  rw [if_pos hsp]
  rfl
/-- With nothing to hold it back, and no lane of the store waiting. -/
theorem State.spill_global (hsp : i.sp = false) (hc : s.slotCause i.sp (s.w.slotAt i.b i.off) = none) {ps : List (Part × Trans)}
    (hps : s.transParts s.w.ctx s.myDie wantW 0 (s.w.slotAt i.b i.off) (partsOf (s.w.slotAt i.b i.off) 132) = .ok ps)
    (hheld : s.storeHeld false ps = false) (hbehind : s.storeBehind false ps = false) {a : State × Mask × Nat}
    (ha : (s.noteParts true ps).storeLanes [⟨0, s.w.slotAt i.b i.off, ps⟩] s.w.relFence
      (fun _ => spillCells (spillForm i.raw (fun l => s.w.v i.a.toNat l))) = a) (hw : a.2.1 = 0) :
    s.spill i = (a.1.slotHit false (s.w.slotAt i.b i.off) (spillForm i.raw (fun l => s.w.v i.a.toNat l)).2.length 4).complete
      fullMask 12 i.sw := by
  unfold State.spill
  extract_lets e f data
  rw [if_neg hd, show s.slotCause i.sp e = none from hc]
  dsimp only
  rw [if_neg (by simp [hsp]), show s.transParts s.w.ctx s.myDie wantW 0 e (partsOf e 132) = .ok ps from hps]
  dsimp only
  rw [if_neg (by simp [hheld, hbehind]), show (s.noteParts true ps).storeLanes [⟨0, e, ps⟩] s.w.relFence (fun _ => data) = a from ha, if_pos hw]
  rfl
end

/-- Let past its FENCE, an access whose slot fails a check of R75 traps with all lanes. -/
theorem exec_spill_traps {s : State} {i : Spill} {c : Cause} (hf : s.fenceHolds 0 = false) (hd : s.w.done ≠ fullMask)
    (hc : s.slotCause i.sp (s.w.slotAt i.b i.off) = some c) :
    exec (.spill i) s = .next ((s.passFence 0).precise c fullMask (s.w.slotAt i.b i.off)) := by
  have hw := s.w_passFence 0
  have h := State.spill_traps (s := s.passFence 0) (i := i) (by rw [hw]; exact hd) (by rw [s.slotCause_passFence, hw]; exact hc)
  rw [hw] at h
  rw [exec_spill i s hf]
  exact congrArg Host.Outcome.next h

/-! #### SPILL to the scratchpad -/

/-- SPILL to a slot within the allocation: the slot holds its form, and every other byte is as it was. -/
theorem exec_spill_sp {s : State} {i : Spill} (hf : s.fenceHolds 0 = false) (hun : s.Unwatched) (hd : s.w.done ≠ fullMask) (hsp : i.sp = true)
    (hal : (s.w.slotAt i.b i.off).toNat % 4 = 0) (hle : (s.w.slotAt i.b i.off).toNat + 132 ≤ s.myTeam.size) :
    let o := (s.team s.w.team).base + (s.w.slotAt i.b i.off).toNat
    let core := coreOf s.w.team
    ∃ t, AccessStep (exec (.spill i) s) s t 12 i.sw ∧ t.w.pending = s.w.pending ∧ t.mem = s.mem ∧
      (∀ c, c ≠ core → t.core c = s.core c) ∧ (∀ n, t.spFull core n = s.spFull core n) ∧
      (∀ a, (a < o ∨ o + 132 ≤ a) → t.spByte core a = s.spByte core a) ∧
      SlotForm i.raw (fun l => s.w.v i.a.toNat l) (fun k => s.spByte core (o + k)) (fun k => t.spByte core (o + k)) := by
  have hw := s.w_passFence 0
  have hd' : (s.passFence 0).w.done ≠ fullMask := by rw [hw]; exact hd
  have hc : (s.passFence 0).slotCause i.sp ((s.passFence 0).w.slotAt i.b i.off) = none := by
    rw [s.slotCause_passFence, hw]; exact State.slotCause_sp hsp hal hle
  intro o core
  obtain ⟨u, hu⟩ : ∃ u, u = (s.passFence 0).putSlot s.w.team (s.w.slotAt i.b i.off).toNat (spillForm i.raw (fun l => s.w.v i.a.toNat l)) :=
    ⟨_, rfl⟩
  have hspill : (s.passFence 0).spill i = u.complete fullMask 12 i.sw := by
    have h := State.spill_sp hd' hsp hc
    rw [hw] at h
    rw [hu]; exact h
  have hunwatched : u.Unwatched := hu ▸ (hun.passFence 0).putSlot _ _ _
  rw [exec_spill i s hf, hspill, State.complete_unwatched hunwatched]
  have huw : u.w = { s.w with counted := s.w.counted, pending := s.w.pending, fence := s.w.fence.pass 0 } := by
    rw [hu, State.w_putSlot, hw]
  obtain ⟨hstep, hpend⟩ := AccessStep.retire (s := s) (u := u) (len := 12) (sw := i.sw) (by rw [hu, State.cur_putSlot, State.cur_passFence])
    (fun k hk => by rw [hu, State.warp_putSlot]; exact State.warp_upd_ne _ _ _ hk) huw
  refine ⟨u.retire 12 i.sw, hstep, hpend, ?_, fun c hc => ?_, fun n => ?_, fun a ha => ?_, ?_⟩
  · rw [State.mem_retire, hu, State.mem_putSlot, State.mem_passFence]
  · rw [State.core_retire, hu, State.core_putSlot_ne _ _ _ _ hc, State.core_passFence]
  · rw [State.spFull_retire, hu, State.spFull_putSlot, State.spFull_passFence]
  · rw [State.spByte_retire, hu, ← State.spByte_passFence s 0]
    exact (s.passFence 0).spByte_putSlot_out _ _ _ _ ha
  · have hform := (s.passFence 0).slotForm_putSlot s.w.team (s.w.slotAt i.b i.off).toNat i.raw (fun l => s.w.v i.a.toNat l)
    simp only [State.spByte_passFence, State.team_passFence] at hform
    simp only [State.spByte_retire, hu]
    exact hform

/-! #### SPILL to global memory -/

/-- No place of a slot is written twice. -/
theorem spillCells_unique (raw : Bool) (v : Nat → Word) {k : Nat} {b c : Byte} (hb : (k, b) ∈ spillCells (spillForm raw v))
    (hc : (k, c) ∈ spillCells (spillForm raw v)) : c = b := by
  have hlen := length_spillForm_le raw v
  have hlow : ∀ {d : Byte}, (spillForm raw v).2[k]? = some d → k < 128 := fun h => by
    obtain ⟨hk, -⟩ := List.getElem?_eq_some_iff.1 h; omega
  obtain hb' | ⟨j, hj, hb'⟩ := (mem_spillCells _ _ _).1 hb <;> obtain hc' | ⟨i, hi, hc'⟩ := (mem_spillCells _ _ _).1 hc
  · exact Option.some.inj (hc'.symm.trans hb')
  · have := hlow hb'; omega
  · have := hlow hc'; omega
  · obtain rfl : j = i := by omega
    exact Option.some.inj (hc'.symm.trans hb')

/-- Memory with each byte of a slot written where its place stands holds the form that SPILL chooses. -/
theorem slotForm_of_cells {raw : Bool} {v : Nat → Word} {A : Nat → Nat} {x y : Nat → Byte}
    (hinj : ∀ j k, j < 132 → k < 132 → A j = A k → j = k)
    (hin : ∀ k b, k < 132 → (k, b) ∈ spillCells (spillForm raw v) →
      (∀ j c, j < 132 → (j, c) ∈ spillCells (spillForm raw v) → A j = A k → c = b) → y (A k) = b)
    (hout : ∀ a, (∀ k b, k < 132 → (k, b) ∈ spillCells (spillForm raw v) → A k ≠ a) → y a = x a) :
    SlotForm raw v (fun k => x (A k)) (fun k => y (A k)) := by
  have hlen := length_spillForm_le raw v
  have hcell : ∀ k b, k < 132 → (k, b) ∈ spillCells (spillForm raw v) → y (A k) = b := fun k b hk hb =>
    hin k b hk hb fun j c hj hc he => by
      obtain rfl := hinj j k hj hk he
      exact spillCells_unique raw v hb hc
  refine slotForm_of_bytes (fun k b h => ?_) (fun k b h => ?_) fun k h1 h2 => hout _ fun j b hj hb he => ?_
  · obtain ⟨hk, -⟩ := List.getElem?_eq_some_iff.1 h
    exact hcell k b (by omega) ((mem_spillCells _ _ _).2 (.inl h))
  · obtain ⟨hk, -⟩ := List.getElem?_eq_some_iff.1 h
    rw [length_bytesLE] at hk
    exact hcell (128 + k) b (by omega) ((mem_spillCells _ _ _).2 (.inr ⟨k, rfl, h⟩))
  · obtain rfl := hinj j k hj (by omega) he
    obtain h | ⟨i, rfl, -⟩ := (mem_spillCells _ _ _).1 hb
    · obtain ⟨hj, -⟩ := List.getElem?_eq_some_iff.1 h; omega
    · omega

/-- SPILL to a slot on unversioned pages of this package: the slot holds its form, and every other byte is as it was. -/
theorem exec_spill_global {s : State} {i : Spill} (hf : s.fenceHolds 0 = false) (hq : Quiet s) (hun : s.Unwatched) (hd : s.w.done ≠ fullMask)
    (hst : s.w.stored = []) (hsp : i.sp = false) (hal : (s.w.slotAt i.b i.off).toNat % 4 = 0)
    (hh : s.Here wantW 0 (s.w.slotAt i.b i.off) 132) {A : Nat → Nat} (hA : ∀ k, k < 132 → s.Stands wantW 0 (s.w.slotAt i.b i.off) 132 k (A k)) :
    ∃ t, AccessStep (exec (.spill i) s) s t 12 i.sw ∧ t.w.pending = s.w.pending ∧ t.cores = s.cores ∧
      (∀ a, (∀ k, k < 132 → A k ≠ a) → t.byte a = s.byte a) ∧
      SlotForm i.raw (fun l => s.w.v i.a.toNat l) (fun k => s.byte (A k)) (fun k => t.byte (A k)) := by
  have hw := s.w_passFence 0
  have hd' : (s.passFence 0).w.done ≠ fullMask := by rw [hw]; exact hd
  have hslot : (s.passFence 0).w.slotAt i.b i.off = s.w.slotAt i.b i.off := by rw [hw]; rfl
  have hc : (s.passFence 0).slotCause i.sp ((s.passFence 0).w.slotAt i.b i.off) = none := by
    rw [s.slotCause_passFence, hslot]; exact State.slotCause_global hsp hal hh.1
  obtain ⟨ps, hps, htile, hown⟩ := hh.transParts (by omega) hA
  have hpeer : ∀ p ∈ ps, p.2.peer = s.peer := fun p hp => (hown p hp).1
  have hnoted := Noted.noteParts (s.passFence 0) true ps
  generalize hn : (s.passFence 0).noteParts true ps = n at hnoted
  have hown' : ∀ p ∈ ps, p.2.peer = n.peer ∧ p.2.vers = false := by rw [hnoted.peer]; exact hown
  have hst' : n.w.stored = [] := by rw [hnoted.stored, hw]; exact hst
  obtain ⟨hbeside, -, hwaits⟩ := n.storeLanes_own_spec 0 (s.w.slotAt i.b i.off) ps (s.passFence 0).w.relFence
    (spillCells (spillForm i.raw (fun l => s.w.v i.a.toNat l))) hst' hown'
  obtain ⟨hout, hin⟩ := n.storeLanes_tiles 0 (s.w.slotAt i.b i.off) (s.passFence 0).w.relFence
    (data := spillCells (spillForm i.raw (fun l => s.w.v i.a.toNat l))) hst' hown' htile
  generalize ha : n.storeLanes [⟨0, s.w.slotAt i.b i.off, ps⟩] (s.passFence 0).w.relFence
    (fun _ => spillCells (spillForm i.raw (fun l => s.w.v i.a.toNat l))) = a at hbeside hwaits hout hin
  have hB : Beside (s.passFence 0) a.1 := hnoted.toBeside.trans hbeside
  have hbyte : ∀ x, n.byte x = s.byte x := fun x => by rw [State.byte, hnoted.mem, State.mem_passFence]; rfl
  have hspill : (s.passFence 0).spill i = a.1.retire 12 i.sw := by
    have h := State.spill_global hd' hsp hc (ps := ps) (a := a) (by rw [s.transParts_passFence, hslot, hw]; exact hps)
      ((hq.passFence 0).storeHeld _ _) ((hq.passFence 0).storeBehind _ _ hpeer) (by rw [hn, hslot, hw, ← ha, hw]; rfl) hwaits
    have hunw := hB.unwatched (hun.passFence 0)
    rwa [State.slotHit_unwatched hunw, State.complete_unwatched hunw] at h
  rw [exec_spill i s hf, hspill]
  obtain ⟨hstep, hpend⟩ := AccessStep.retire (s := s) (len := 12) (sw := i.sw) hB.cur hB.passed_others hB.passed
  refine ⟨a.1.retire 12 i.sw, hstep, hpend, hB.cores, fun x hx => ?_, ?_⟩
  · exact (hout x fun k b hk _ => hx k hk).trans (hbyte x)
  · refine slotForm_of_cells (x := s.byte) (y := a.1.byte) (fun j k hj hk => hh.injective (by omega) hA hj hk) hin fun x hx => ?_
    exact (hout x hx).trans (hbyte x)

/-! #### FILL -/

/-- A next state in which the executing warp stands behind a FILL of a slot that reads as `x`, with one long result outstanding that brings
every lane its value. -/
def Filled (o : Out) (s : State) (i : Fill) (x : Nat → Byte) : Prop :=
  ∃ t, AccessStep o s t 12 i.sw ∧ t.mem = s.mem ∧ t.cores = s.cores ∧
    LongResult s t fullMask (fun ws => ws.length = 32 ∧ ∀ n, n < 32 → ∃ v, (i.d.toNat * 32 + n, v) ∈ ws ∧ SlotValue x n v)

theorem length_fillWrites (d : Nat) (v : Nat → Word) : (fillWrites d v).length = 32 := by simp [fillWrites, allLanes]
theorem mem_fillWrites (d : Nat) (v : Nat → Word) {n : Nat} (h : n < 32) : (d * 32 + n, v n) ∈ fillWrites d v :=
  List.mem_map.2 ⟨n, List.mem_range.2 h, rfl⟩

/-- A long result more of the executing warp. -/
theorem State.addPending_eq {s : State} {lanes : Mask} (h : lanes ≠ 0) (kind : PendKind) : s.addPending lanes kind =
    s.fresh1.upd (fun w => { w with pending := w.pending ++ [⟨s.nextId, lanes, kind⟩] }) := if_neg h
theorem State.w_addPending {s : State} {lanes : Mask} (h : lanes ≠ 0) (kind : PendKind) :
    (s.addPending lanes kind).w = { s.w with pending := s.w.pending ++ [⟨s.nextId, lanes, kind⟩] } := by
  rw [State.addPending_eq h]; exact State.w_upd _ _

theorem State.warp_addPending_ne (s : State) {lanes : Mask} (h : lanes ≠ 0) (kind : PendKind) (k : Nat) (hk : k ≠ s.cur) :
    (s.addPending lanes kind).warp k = s.warp k := by
  rw [State.addPending_eq h]; exact State.warp_upd_ne s.fresh1 _ k hk

/-- A format byte above 3 traps with the registers as they were. -/
theorem State.fillBytes_traps (s : State) (i : Fill) (e : DWord) {x : Nat → Byte} (h : 3 < (x 128).toNat) :
    s.fillBytes i e ((List.range 132).map x) = s.precise 0x084 fullMask e := by
  unfold State.fillBytes
  rw [fillValues_none x h]
theorem State.fillBytes_value {s : State} (hun : s.Unwatched) (i : Fill) (e : DWord) {b : List Byte} {v : Nat → Word}
    (hv : fillValues b = some v) : s.fillBytes i e b =
      (s.addPending fullMask (.value (fillWrites i.d.toNat v) [])).retire 12 i.sw := by
  have hw := State.w_addPending (s := s) (lanes := fullMask) (by decide) (.value (fillWrites i.d.toNat v) [])
  have hadd : (s.addPending fullMask (.value (fillWrites i.d.toNat v) [])).Unwatched := by
    unfold State.Unwatched
    rw [hw]; exact hun
  unfold State.fillBytes
  rw [hv]
  dsimp only
  rw [State.slotHit_unwatched hadd, ite_self, State.complete_unwatched hadd]

/-- Any other format byte delivers what its form spells. -/
theorem State.fillBytes_filled {s u : State} (hB : Beside (s.passFence 0) u) (hmem : u.mem = s.mem) (hun : s.Unwatched) (i : Fill) (e : DWord)
    {x : Nat → Byte} (h : (x 128).toNat ≤ 3) : Filled (.next (u.fillBytes i e ((List.range 132).map x))) s i x := by
  obtain ⟨v, hv, hval⟩ := fillValues_some x h
  rw [State.fillBytes_value (hB.unwatched (hun.passFence 0)) i e hv]
  have hw := State.w_addPending (s := u) (lanes := fullMask) (by decide) (.value (fillWrites i.d.toNat v) [])
  have heq := State.addPending_eq (s := u) (lanes := fullMask) (by decide) (.value (fillWrites i.d.toNat v) [])
  have hne := u.warp_addPending_ne (lanes := fullMask) (by decide) (.value (fillWrites i.d.toNat v) [])
  generalize u.addPending fullMask (.value (fillWrites i.d.toNat v) []) = a at hw heq hne
  have hothers : ∀ k, k ≠ s.cur → a.warp k = s.warp k := fun k hk => (hne k (hB.cur ▸ hk)).trans (hB.passed_others k hk)
  have haw : a.w = { s.w with
      counted := u.w.counted
      pending := s.w.pending ++ [⟨u.nextId, fullMask, .value (fillWrites i.d.toNat v) []⟩]
      fence := s.w.fence.pass 0 } := by rw [hw, hB.passed]
  obtain ⟨hstep, hpend⟩ := AccessStep.retire (s := s) (len := 12) (sw := i.sw) (show a.cur = s.cur by rw [heq]; exact hB.cur) hothers haw
  refine ⟨_, hstep, ?_, ?_, u.nextId, fillWrites i.d.toNat v, hpend, length_fillWrites _ _, fun n hn => ⟨v n, mem_fillWrites _ _ hn, hval n hn⟩⟩
  · rw [State.mem_retire, heq]; exact hmem
  · rw [show (a.retire 12 i.sw).cores = a.cores from rfl, heq]; exact hB.cores

section
variable {s : State} {i : Fill} (hd : s.w.done ≠ fullMask)
include hd

theorem State.fill_traps {c : Cause} (hc : s.slotCause i.sp (s.w.slotAt i.b i.off) = some c) :
    s.fill i = s.precise c fullMask (s.w.slotAt i.b i.off) := by
  unfold State.fill
  extract_lets e
  rw [if_neg hd, show s.slotCause i.sp e = some c from hc]
  rfl
theorem State.fill_sp (hsp : i.sp = true) (hc : s.slotCause i.sp (s.w.slotAt i.b i.off) = none) : s.fill i =
    s.fillBytes i (s.w.slotAt i.b i.off) (s.spBytes s.w.team (s.w.slotAt i.b i.off).toNat 132) := by
  unfold State.fill
  extract_lets e
  rw [if_neg hd, show s.slotCause i.sp e = none from hc]
  dsimp only
  rw [if_pos hsp]
  rfl
/-- With nothing to hold it back, and every byte here: what is read passes on to `State.fillBytes`, after the acquire of a strongly ordered page. -/
theorem State.fill_global (hsp : i.sp = false) (hc : s.slotCause i.sp (s.w.slotAt i.b i.off) = none) (hq : Quiet s) {ps : List (Part × Trans)}
    (hps : s.transParts s.w.ctx s.myDie wantR 0 (s.w.slotAt i.b i.off) (partsOf (s.w.slotAt i.b i.off) 132) = .ok ps)
    (hown : ∀ p ∈ ps, p.2.peer = s.peer) {r : State × List (Part × Trans × Got)} {b : List Byte}
    (hr : (s.noteParts true ps).readParts s.view false (s.ticks * 65536) ps = r) (hb : gotAll r.2 = .bytes b) :
    ∃ u, (u = r.1 ∨ u = r.1.acquireOn 0 3) ∧ s.fill i = u.fillBytes i (s.w.slotAt i.b i.off) b := by
  have haway : ps.any (fun p => s.away p.2) = false := List.any_eq_false.2 fun p hp => by simp [State.away, hown p hp]
  have hheld : s.lanesHeld [⟨0, s.w.slotAt i.b i.off, ps⟩] = false :=
    s.anyAway_own _ _ fun p hp => hown p (by simpa [partsAll] using hp)
  unfold State.fill
  extract_lets e
  rw [if_neg hd, show s.slotCause i.sp e = none from hc]
  dsimp only
  rw [if_neg (by simp [hsp]), show s.transParts s.w.ctx s.myDie wantR 0 e (partsOf e 132) = .ok ps from hps]
  dsimp only
  rw [if_neg (by simp [haway]), if_neg (by rw [show s.lanesHeld [⟨0, e, ps⟩] = false from hheld, hq.strongHolds]; simp), hr, hb]
  dsimp only
  split
  · exact ⟨_, .inr rfl, rfl⟩
  · exact ⟨_, .inl rfl, rfl⟩
end

/-! #### FILL from the scratchpad and from global memory -/

theorem State.copyByte_passFence (s : State) (p : Nat) (q : Peer) (a : Nat) : (s.passFence p).copyByte q a = s.copyByte q a := by
  unfold State.copyByte
  rw [State.w_passFence]; rfl

/-- Let past its FENCE, an access whose slot fails a check of R75 traps with all lanes. -/
theorem exec_fill_traps {s : State} {i : Fill} {c : Cause} (hf : s.fenceHolds 0 = false) (hd : s.w.done ≠ fullMask)
    (hc : s.slotCause i.sp (s.w.slotAt i.b i.off) = some c) :
    exec (.fill i) s = .next ((s.passFence 0).precise c fullMask (s.w.slotAt i.b i.off)) := by
  have hw := s.w_passFence 0
  have h := State.fill_traps (s := s.passFence 0) (i := i) (by rw [hw]; exact hd) (by rw [s.slotCause_passFence, hw]; exact hc)
  rw [hw] at h
  rw [exec_fill i s hf]
  exact congrArg Host.Outcome.next h

section
variable {s : State} {i : Fill} (hf : s.fenceHolds 0 = false) (hun : s.Unwatched) (hd : s.w.done ≠ fullMask)
include hf hun hd

/-- FILL of a slot within the allocation. -/
theorem exec_fill_sp (hsp : i.sp = true) (hal : (s.w.slotAt i.b i.off).toNat % 4 = 0)
    (hle : (s.w.slotAt i.b i.off).toNat + 132 ≤ s.myTeam.size) :
    let x := fun k => s.spByte (coreOf s.w.team) ((s.team s.w.team).base + (s.w.slotAt i.b i.off).toNat + k)
    ((x 128).toNat ≤ 3 → Filled (exec (.fill i) s) s i x) ∧
    (3 < (x 128).toNat → exec (.fill i) s = .next ((s.passFence 0).precise 0x084 fullMask (s.w.slotAt i.b i.off))) := by
  have hw := s.w_passFence 0
  have hd' : (s.passFence 0).w.done ≠ fullMask := by rw [hw]; exact hd
  have hc : (s.passFence 0).slotCause i.sp ((s.passFence 0).w.slotAt i.b i.off) = none := by
    rw [s.slotCause_passFence, hw]; exact State.slotCause_sp hsp hal hle
  intro x
  have hfill : (s.passFence 0).fill i = (s.passFence 0).fillBytes i (s.w.slotAt i.b i.off) ((List.range 132).map x) := by
    have h := State.fill_sp hd' hsp hc
    rw [hw] at h
    exact h
  rw [exec_fill i s hf, hfill]
  exact ⟨fun h => State.fillBytes_filled (Beside.refl _) (s.mem_passFence 0) hun i _ h,
    fun h => congrArg Host.Outcome.next (State.fillBytes_traps _ i _ h)⟩

/-- FILL of a slot on unversioned pages of this package of which the die has no copies. -/
theorem exec_fill_global (hq : Quiet s) (hsp : i.sp = false) (hal : (s.w.slotAt i.b i.off).toNat % 4 = 0)
    (hh : s.Here wantR 0 (s.w.slotAt i.b i.off) 132) (hcopy : ∀ a, s.copyByte s.peer a = none) {A : Nat → Nat}
    (hA : ∀ k, k < 132 → s.Stands wantR 0 (s.w.slotAt i.b i.off) 132 k (A k)) :
    ((s.byte (A 128)).toNat ≤ 3 → Filled (exec (.fill i) s) s i (fun k => s.byte (A k))) ∧
    (3 < (s.byte (A 128)).toNat → ∃ u : State, exec (.fill i) s = .next (u.precise 0x084 fullMask (s.w.slotAt i.b i.off)) ∧
      u.mem = s.mem ∧ u.cur = s.cur ∧ { u.w with counted := s.w.counted } = (s.passFence 0).w) := by
  have hw := s.w_passFence 0
  have hd' : (s.passFence 0).w.done ≠ fullMask := by rw [hw]; exact hd
  have hslot : (s.passFence 0).w.slotAt i.b i.off = s.w.slotAt i.b i.off := by rw [hw]; rfl
  have hc : (s.passFence 0).slotCause i.sp ((s.passFence 0).w.slotAt i.b i.off) = none := by
    rw [s.slotCause_passFence, hslot]; exact State.slotCause_global hsp hal hh.1
  obtain ⟨ps, hps, htile, hown⟩ := hh.transParts (by omega) hA
  have hnoted := Noted.noteParts (s.passFence 0) true ps
  have hagree : CopiesAgree (s.passFence 0) := CopiesAgree.of_none fun a => (s.copyByte_passFence 0 _ a).trans (hcopy a)
  obtain ⟨hread, hgot⟩ := State.readParts_tiles (hagree.noted hnoted) (s.passFence 0).view ((s.passFence 0).ticks * 65536) htile
    (by rw [hnoted.peer]; exact hown)
  obtain ⟨u, hu, hfill⟩ := State.fill_global hd' hsp hc (hq.passFence 0) (by rw [s.transParts_passFence, hslot, hw]; exact hps)
    (fun p hp => (hown p hp).1) rfl hgot
  have hr := hnoted.toBeside.trans hread.toBeside
  have hrm : _ = s.mem := hread.mem.trans (hnoted.mem.trans (s.mem_passFence 0))
  obtain ⟨hB, hmem⟩ : Beside (s.passFence 0) u ∧ u.mem = s.mem := by
    obtain rfl | rfl := hu
    · exact ⟨hr, hrm⟩
    · exact ⟨hr.trans (Beside.acquireOn _ 3 (hr.loadAway.trans (hq.passFence 0).loads)), (State.mem_acquireOn _ _ _).trans hrm⟩
  have hbytes : ((s.passFence 0).noteParts true ps).byte = s.byte := by
    funext a; rw [State.byte, hnoted.mem, State.mem_passFence]; rfl
  rw [exec_fill i s hf, hfill, hslot, hbytes]
  refine ⟨fun h => State.fillBytes_filled hB hmem hun i _ h, fun h => ⟨u, ?_, hmem, hB.cur, ?_⟩⟩
  · exact congrArg Host.Outcome.next (u.fillBytes_traps i _ h)
  · rw [hB.warp, hw]
end

end Sys2Proof.Machine
end

section
open Sys2Proof Sys2Proof.Machine

/-- Settles O31: the bytes of a slot are where its 132 places stand (`State.Here.injective`); SPILL writes there what `slotForm_of_bytes`
takes for the form of R75, and FILL reads there what `fillValues_some` spells. -/
theorem spillWritesTheSmallestFormAndFillReadsItBack : Obligations.SpillWritesTheSmallestFormAndFillReadsItBack := by
  unfold Obligations.SpillWritesTheSmallestFormAndFillReadsItBack
  intro s hheld hun hd e form value filled own core
  have hf := hheld.1
  have hq := hheld.quiet
  refine ⟨fun i => ⟨fun h => ?_, fun hsp hal h => ?_, fun hsp hal h => ?_, fun hsp hal h => ?_, fun hsp hst hal hh A hA => ?_⟩,
    fun i => ⟨fun h => ?_, fun hsp hal h => ?_, fun hsp hal h => ?_, fun hsp hal h => ?_, fun hsp hal hh hcopy A hA => ?_⟩⟩
  · exact exec_spill_traps hf hd (State.slotCause_unaligned h)
  · exact exec_spill_traps hf hd (State.slotCause_beyondTeam hsp hal h)
  · exact exec_spill_traps hf hd (State.slotCause_beyondSpace hsp hal h)
  · exact exec_spill_sp hf hun hd hsp hal h
  · exact exec_spill_global hf hq hun hd hst hsp hal hh hA
  · exact exec_fill_traps hf hd (State.slotCause_unaligned h)
  · exact exec_fill_traps hf hd (State.slotCause_beyondTeam hsp hal h)
  · exact exec_fill_traps hf hd (State.slotCause_beyondSpace hsp hal h)
  · exact exec_fill_sp hf hun hd hsp hal h
  · exact exec_fill_global hf hun hd hq hsp hal hh hcopy hA
end

section
/-! ### Flag-raising instructions (06_vector.md R101 to R103) -/
namespace Sys2Proof.Machine

/-! #### The form of an instruction and its meaning -/

/-- A format register that describes an element gives QPACK and QUNPACK its format. -/
theorem State.withFmt_valid {s : State} {c : RegNo} {j : Nat} {f : Fmt} (hf : narrowFmt (Tab.get 0 s.w.fmt c.toNat) = some f)
    (hj : j < 32 / f.container) (g : Fmt → State) : s.withFmt c j g = g f := by
  simp only [State.withFmt, hf]
  exact if_neg (not_le.2 hj)

/-- A flag-raising instruction writes what its form says, one register or a pair in each lane, as `State.fpV` or `State.fpV64` does. -/
theorem exec_of_floatForm {s : State} {i : Instr} {p : FloatForm} (h : floatForm i s = some p) :
    p.regs = 1 ∧ exec i s = .next (s.fpV p.h p.d p.len p.rs p.draws p.res) ∨
    p.regs = 2 ∧ exec i s = .next (s.fpV64 p.h p.d p.len p.rs p.draws p.res) := by
  cases i
  case fadd | fsub | fmul | faddImm | fsubImm | fmulImm | ffma | ffmaImm | hadd2 | hmul2 | hadd2Imm | hmul2Imm | hfma2 | hfma2Imm |
      frcp | frsq | fexp2 | flog2 | fsin | fcos | ftanh | fsqrt | bscale =>
    obtain rfl := Option.some.inj h
    exact .inl ⟨rfl, rfl⟩
  case dadd | dmul | dfma =>
    obtain rfl := Option.some.inj h
    exact .inr ⟨rfl, rfl⟩
  case fcvt o =>
    obtain ⟨hd, sat, bit, ty, rnd, xl, d, a⟩ := o
    obtain rfl := Option.some.inj h
    cases bit
    · cases ty
      case f64 => exact .inr ⟨rfl, rfl⟩
      all_goals exact .inl ⟨rfl, rfl⟩
    · cases ty <;> exact .inl ⟨rfl, rfl⟩
  case ftoi o =>
    obtain ⟨hd, sat, bit, ty, rnd, xl, d, a⟩ := o
    obtain rfl := Option.some.inj h
    cases ty <;> exact .inl ⟨rfl, rfl⟩
  case itof o =>
    obtain ⟨hd, sat, bit, ty, rnd, xl, d, a⟩ := o
    obtain rfl := Option.some.inj h
    cases ty
    case f64 => exact .inr ⟨rfl, rfl⟩
    all_goals exact .inl ⟨rfl, rfl⟩
  case qpack o =>
    obtain ⟨f, hf, h⟩ := Option.bind_eq_some_iff.1 h
    obtain ⟨hj, h⟩ := Option.ite_none_right_eq_some.1 h
    obtain rfl := Option.some.inj h
    exact .inl ⟨rfl, congrArg Host.Outcome.next (State.withFmt_valid hf hj _)⟩
  case qunpack o =>
    obtain ⟨f, hf, h⟩ := Option.bind_eq_some_iff.1 h
    obtain ⟨hj, h⟩ := Option.ite_none_right_eq_some.1 h
    obtain rfl := Option.some.inj h
    exact .inl ⟨rfl, congrArg Host.Outcome.next (State.withFmt_valid hf hj _)⟩
  all_goals cases h

/-! #### The flags and the trap of R102 -/

/-- The union of a form's flags, over the lanes that participate. -/
def FloatForm.union (p : FloatForm) (s : State) : BitVec 5 := flagUnion (s.w.parts p.h) (fun i => (p.res i).fl)

theorem FloatForm.union_iff (p : FloatForm) (s : State) (k : Nat) : (p.union s).getLsbD k = true ↔ p.Raises s k := flagUnion_bit _ _ _

/-- Of a set that is not empty, the highest bit alone, and the cause of that flag: NX has bit 0 and NV bit 4. -/
theorem flagCause_highest : ∀ x : BitVec 5, x ≠ 0 → ∃ b, b < 5 ∧ x.getLsbD b = true ∧ (∀ c, c < 5 → b < c → x.getLsbD c = false) ∧
    flagCause x = ((1 : BitVec 5) <<< b, 0x145 - BitVec.ofNat 10 b) := by decide

/-- A single bit of a set of flags. -/
theorem flag_and_shift : ∀ b, b < 5 → ∀ x : BitVec 5, (x &&& (1 : BitVec 5) <<< b != 0) = x.getLsbD b := by decide

/-- With no raised flag enabled the warp has the registers that `f` gives it, and the raised flags in FP_FLAGS. -/
theorem State.flagged_free {s : State} {h : Hdr} {fl : Nat → BitVec 5} (hf : flagUnion (s.w.parts h) fl &&& s.w.fpTrapen = 0)
    (len : Nat) (f : Warp → Warp) :
    (∀ r n, (s.flagged h len fl f).w.v r n = (f s.w).v r n) ∧
    (s.flagged h len fl f).w.fpFlags = (f s.w).fpFlags ||| flagUnion (s.w.parts h) fl := by
  have hrun : s.flagged h len fl f = _ := if_neg (not_not.2 hf)
  rw [hrun, State.w_upd]
  exact ⟨fun _ _ => Warp.v_retire _ _ _ _ _, Warp.retire_fpFlags _ _ _⟩

/-- With a raised flag enabled the instruction is the trap of the highest such flag, with nothing of `f` done. -/
theorem State.flagged_traps {s : State} {h : Hdr} {fl : Nat → BitVec 5} (hf : flagUnion (s.w.parts h) fl &&& s.w.fpTrapen ≠ 0) :
    ∃ b : Nat, b < 5 ∧ (flagUnion (s.w.parts h) fl &&& s.w.fpTrapen).getLsbD b = true ∧
      (∀ c, b < c → (flagUnion (s.w.parts h) fl &&& s.w.fpTrapen).getLsbD c = false) ∧
      ∀ len f, s.flagged h len fl f = s.enter (0x145 - BitVec.ofNat 10 b)
        (maskOf (fun n => (s.w.parts h).getLsbD n && (fl n).getLsbD b)) 0 ((flagUnion (s.w.parts h) fl).setWidth 64) := by
  obtain ⟨b, hb, hbit, hhigh, hcause⟩ := flagCause_highest _ hf
  refine ⟨b, hb, hbit, fun c hc => ?_, fun len f => ?_⟩
  · by_cases h5 : c < 5
    · exact hhigh c h5 hc
    · exact BitVec.getLsbD_of_ge _ _ (not_lt.1 h5)
  · have hop : ∀ u : BitVec 5, u.setWidth 64 &&& (0x1F : DWord) = u.setWidth 64 := by decide
    have hrun : s.flagged h len fl f = _ := if_pos hf
    rw [hrun, hcause, hop]
    simp only [flag_and_shift b hb]
    rfl

/-! #### What is written where no flag traps -/

@[simp] theorem Warp.fpFlags_drawn (w : Warp) (m : Mask) (rs : Bool) (n : Nat) : (w.drawn m rs n).fpFlags = w.fpFlags := by
  unfold Warp.drawn; split <;> rfl
@[simp] theorem Warp.v_drawn (w : Warp) (m : Mask) (rs : Bool) (n r i : Nat) : (w.drawn m rs n).v r i = w.v r i := by
  unfold Warp.drawn; split <;> rfl

/-- A form's flags with its results in the registers that it names, in every lane of a mask. -/
def FloatForm.Written (p : FloatForm) (s t : State) (F : BitVec 5) : Prop :=
  t.w.fpFlags = s.w.fpFlags ||| F ∧ ∀ n, n < 32 → (s.w.parts p.h).getLsbD n = true → ∀ k, k < p.regs →
    t.w.v (p.d.toNat + k) n = BitVec.ofNat 32 ((p.res n).val / 2 ^ (32 * k))

theorem FloatForm.written_fpV {p : FloatForm} {s : State} (hr : p.regs = 1) (hf : p.union s &&& s.w.fpTrapen = 0) :
    p.Written s (s.fpV p.h p.d p.len p.rs p.draws p.res) (p.union s) := by
  obtain ⟨hv, hflags⟩ := State.flagged_free hf p.len (fun w =>
    (w.setLanes (s.w.parts p.h) p.d.toNat (fun i => BitVec.ofNat 32 (p.res i).val)).drawn (s.w.parts p.h) p.rs p.draws)
  refine ⟨hflags.trans (by rw [Warp.fpFlags_drawn]; rfl), fun n hn hm k hk => ?_⟩
  obtain rfl : k = 0 := by omega
  refine (hv _ _).trans ?_
  rw [Warp.v_drawn, Warp.v_setLanes _ _ _ _ _ _ hn, if_pos ⟨rfl, hm⟩]
  simp

theorem loWord_ofNat (x : Nat) : loWord (BitVec.ofNat 64 x) = BitVec.ofNat 32 x := by
  apply BitVec.eq_of_toNat_eq
  simp only [loWord, BitVec.toNat_setWidth, BitVec.toNat_ofNat]
  omega
theorem hiWord_ofNat (x : Nat) : hiWord (BitVec.ofNat 64 x) = BitVec.ofNat 32 (x / 2 ^ 32) := by
  apply BitVec.eq_of_toNat_eq
  simp only [hiWord, BitVec.extractLsb'_toNat, BitVec.toNat_ofNat, Nat.shiftRight_eq_div_pow]
  omega

theorem FloatForm.written_fpV64 {p : FloatForm} {s : State} (hr : p.regs = 2) (hf : p.union s &&& s.w.fpTrapen = 0) :
    p.Written s (s.fpV64 p.h p.d p.len p.rs p.draws p.res) (p.union s) := by
  obtain ⟨hv, hflags⟩ := State.flagged_free hf p.len (fun w =>
    (w.setLanes64 (s.w.parts p.h) p.d.toNat (fun i => BitVec.ofNat 64 (p.res i).val)).drawn (s.w.parts p.h) p.rs p.draws)
  refine ⟨hflags.trans (by rw [Warp.fpFlags_drawn]; rfl), fun n hn hm k hk => (hv _ _).trans ?_⟩
  have hpair := s.w.v64_setLanes64 (s.w.parts p.h) p.d.toNat n (fun i => BitVec.ofNat 64 (p.res i).val) hn hm
  rw [Warp.v_drawn]
  obtain rfl | rfl : k = 0 ∨ k = 1 := by omega
  · have hlo := congrArg loWord hpair
    rw [Warp.v64, loWord_pairOf, loWord_ofNat] at hlo
    simpa using hlo
  · have hhi := congrArg hiWord hpair
    rw [Warp.v64, hiWord_pairOf, hiWord_ofNat] at hhi
    simpa using hhi

/-- An instruction of which no raised flag is enabled writes its results and its flags. -/
theorem exec_floatForm_writes {s : State} {i : Instr} {p : FloatForm} (h : floatForm i s = some p)
    (hf : p.union s &&& s.w.fpTrapen = 0) : ∃ t, exec i s = .next t ∧ p.Written s t (p.union s) := by
  obtain ⟨hr, he⟩ | ⟨hr, he⟩ := exec_of_floatForm h
  · exact ⟨_, he, FloatForm.written_fpV hr hf⟩
  · exact ⟨_, he, FloatForm.written_fpV64 hr hf⟩

/-- An instruction with a raised flag enabled traps with the highest such flag, from the state before it. -/
theorem exec_floatForm_traps {s : State} {i : Instr} {p : FloatForm} (h : floatForm i s = some p)
    (hf : p.union s &&& s.w.fpTrapen ≠ 0) :
    ∃ b : Nat, b < 5 ∧ (p.union s &&& s.w.fpTrapen).getLsbD b = true ∧
      (∀ c, b < c → (p.union s &&& s.w.fpTrapen).getLsbD c = false) ∧
      exec i s = .next (s.enter (0x145 - BitVec.ofNat 10 b)
        (maskOf (fun n => (s.w.parts p.h).getLsbD n && (p.res n).fl.getLsbD b)) 0 ((p.union s).setWidth 64)) := by
  obtain ⟨b, hb, hbit, hhigh, henter⟩ := State.flagged_traps hf
  refine ⟨b, hb, hbit, hhigh, ?_⟩
  obtain ⟨-, he⟩ | ⟨-, he⟩ := exec_of_floatForm h
  · exact he.trans (congrArg Host.Outcome.next (henter _ _))
  · exact he.trans (congrArg Host.Outcome.next (henter _ _))

end Sys2Proof.Machine
end

section
open Sys2Proof Sys2Proof.Machine

/-- Settles O6: F is the union of the form's flags; where it meets FP_TRAPEN the instruction is the trap that `exec_floatForm_traps`
names, and elsewhere it writes as `exec_floatForm_writes` says. -/
theorem enabledFlagTrapsBeforeAnyLaneWrites : Obligations.EnabledFlagTrapsBeforeAnyLaneWrites := by
  unfold Obligations.EnabledFlagTrapsBeforeAnyLaneWrites
  intro s i p h
  refine ⟨p.union s, p.union_iff s, ?_⟩
  by_cases hf : p.union s &&& s.w.fpTrapen = 0
  · obtain ⟨t, he, hflags, hregs⟩ := exec_floatForm_writes h hf
    exact .inl ⟨hf, t, he, hflags, hregs⟩
  · exact .inr (exec_floatForm_traps h hf)
end

section
/-! ### Ports and command words (12_matrix.md R229, 13_queue.md R238 to R245) -/
namespace Sys2Proof.Machine

/-! #### The lowest lane and the lowest number -/

@[simp] theorem lowLane_zero : lowLane 0 = none := by decide
theorem lowLane_eq_some {m : Mask} {l : Nat} (hl : l < 32) (hm : m.getLsbD l = true) (hlow : ∀ k, k < l → m.getLsbD k = false) :
    lowLane m = some l :=
  List.find?_range_eq_some.2 ⟨hm, List.mem_range.2 hl, fun k hk => by simp [hlow k hk]⟩

theorem head?_insertAsc (x : Nat) (l : List Nat) : (insertAsc x l).head? = some ((l.head?.map (min x)).getD x) := by
  cases l with
  | nil => rfl
  | cons y ys =>
    unfold insertAsc
    split
    · simp; omega
    · split
      · simp; omega
      · simp; omega

/-- Numbers put in order start with the lowest of them. -/
theorem head?_foldl_insertAsc (xs : List Nat) {l : List Nat} {m : Nat} (hl : l.head? = some m) :
    ∃ n, (xs.foldl (fun a x => insertAsc x a) l).head? = some n ∧ (n = m ∨ n ∈ xs) ∧ n ≤ m ∧ ∀ x ∈ xs, n ≤ x := by
  induction xs generalizing l m with
  | nil => exact ⟨m, hl, .inl rfl, Nat.le_refl m, by simp⟩
  | cons x xs ih =>
    have hx : (insertAsc x l).head? = some (min x m) := by rw [head?_insertAsc, hl]; rfl
    obtain ⟨n, hn, hmem, hle, hall⟩ := ih hx
    refine ⟨n, hn, ?_, by omega, ?_⟩
    · obtain rfl | h := hmem
      · rcases Nat.le_total x m with h | h
        · exact .inr (by simp [Nat.min_eq_left h])
        · exact .inl (Nat.min_eq_right h)
      · exact .inr (List.mem_cons_of_mem _ h)
    · intro y hy
      obtain rfl | h := List.mem_cons.1 hy
      · omega
      · exact hall y h
theorem head?_ascending {xs : List Nat} (h : xs ≠ []) : ∃ n, (ascending xs).head? = some n ∧ n ∈ xs ∧ ∀ x ∈ xs, n ≤ x := by
  cases xs with
  | nil => exact absurd rfl h
  | cons x xs =>
    obtain ⟨n, hn, hmem, hle, hall⟩ := head?_foldl_insertAsc xs (l := insertAsc x []) (m := x) rfl
    refine ⟨n, hn, List.mem_cons.2 hmem, fun y hy => ?_⟩
    obtain rfl | h := List.mem_cons.1 hy
    · exact hle
    · exact hall y h

/-! #### A push (R242, R244) -/

/-- Unfinished commands of warp slot `slot` on the band ports of a core (R229). -/
def Core.bandCmds (c : Core) (slot : Nat) : List Cmd :=
  (List.range 4).flatMap (fun q => (c.port q).all.filter (fun e => e.slot == slot && !e.gone))
theorem Core.bandIds_eq (c : Core) (slot : Nat) : c.bandIds slot = (c.bandCmds slot).map (·.id) := List.map_flatMap.symm
theorem Core.bandWork_eq (c : Core) (slot : Nat) : c.bandWork slot = (c.bandCmds slot).length := by
  rw [Core.bandWork, Core.bandIds_eq, List.length_map]

/-- The command that a warp waits for by R229 is the oldest of its band commands. -/
theorem Core.oldest_bandCmd {c : Core} {slot : Nat} (h : 5 ≤ c.bandWork slot) :
    ∃ e ∈ c.bandCmds slot, (ascending (c.bandIds slot)).head? = some e.id ∧ ∀ f ∈ c.bandCmds slot, e.id ≤ f.id := by
  have hne : c.bandIds slot ≠ [] := by
    intro h0
    rw [Core.bandWork, h0] at h
    simp at h
  obtain ⟨n, hn, hmem, hall⟩ := head?_ascending hne
  rw [Core.bandIds_eq] at hmem
  obtain ⟨e, he, rfl⟩ := List.mem_map.1 hmem
  refine ⟨e, he, hn, fun f hf => hall _ ?_⟩
  rw [Core.bandIds_eq]
  exact List.mem_map_of_mem hf

/-- What a warp notes of the port that it has filled. -/
def State.notePort (s : State) (p : Nat) (w : Warp) : Warp :=
  if s.portFull p then { w with waitPort := some p, waitIds := (s.port (coreOf s.cur) p).all.map (·.id) }
  else { w with waitPort := none, waitIds := [] }

/-- A warp that has gone on from its push without parking waits anew, from now. -/
def Warp.waitNew (w : Warp) (r : Nat) (ft : DWord) (limit : BitVec 16) : Warp :=
  { w with stat := .parked, reason := r, since := ft, waited := 0, limit := limit, stalls := 0 }
theorem Warp.wait_new {w : Warp} {r : Nat} (h : w.reason ≠ r) (ft : DWord) (limit : BitVec 16) :
    w.wait r ft limit = w.waitNew r ft limit := if_neg h

/-- A push changes the executing warp alone once its command is queued. -/
theorem State.pushed_frame (s : State) (p : Nat) (sw : Bool) :
    (s.pushed p sw).mem = s.mem ∧ (s.pushed p sw).cores = s.cores ∧ ∀ n, n ≠ s.cur → (s.pushed p sw).warp n = s.warp n := by
  unfold State.pushed
  split
  · exact ⟨rfl, rfl, fun n h => (State.warp_upd_ne (s.park 2) _ n h).trans (State.warp_upd_ne s _ n h)⟩
  · dsimp only
    split
    · exact ⟨rfl, rfl, fun n h => (State.warp_upd_ne (s.park 3) _ n h).trans (State.warp_upd_ne s _ n h)⟩
    · exact ⟨rfl, rfl, fun n h => State.warp_upd_ne s _ n h⟩

/-- Where the warp stands after a push that it could make: parked by R229, parked by R244, or as its marker says. -/
theorem State.w_pushed {s : State} (hr : s.w.reason = 0) (p : Nat) (sw : Bool) :
    (s.pushed p sw).w =
      let limit := (s.team s.w.team).feTimeout
      if p < 4 ∧ 5 ≤ s.myCore.bandWork (slotOf s.cur) then
        { s.notePort p (s.w.waitNew 2 s.ft limit) with
          marked := sw, waitBand := (ascending (s.myCore.bandIds (slotOf s.cur))).head? }
      else if s.portFull p = true then
        { s.notePort p (s.w.waitNew 3 s.ft limit) with marked := sw, waitBand := none }
      else s.w.mark sw := by
  have hpark : ∀ r, r ≠ 0 → (s.park r).w = s.w.waitNew r s.ft (s.team s.w.team).feTimeout := fun r h => by
    rw [State.park, State.w_upd]
    exact Warp.wait_new (by omega) _ _
  unfold State.pushed
  dsimp only
  split
  · rw [State.w_upd, hpark 2 (by omega)]; rfl
  · split
    · next hfull => rw [State.w_upd, hpark 3 (by omega), State.notePort, if_pos hfull]
    · rw [State.w_upd]

end Sys2Proof.Machine
end

section
/-! ### A push that has passed its checks (13_queue.md R242, R244) -/
namespace Sys2Proof.Machine

/-- The warp `g` with its instruction performed, `len` bytes further, but for what it notes of a wait. -/
def Warp.WentOn (g w : Warp) (len : Nat) : Prop :=
  w.body = { g with
    marked := w.marked, waitBand := w.waitBand, waitPort := w.waitPort, waitIds := w.waitIds,
    since := w.since, waited := w.waited, limit := w.limit, stalls := w.stalls }.body ∧
  w.pc = g.pc + BitVec.ofNat 64 len ∧ w.done = 0 ∧ w.ir = none

theorem Warp.wentOn_retire (g : Warp) (len : Nat) (sw : Bool) : g.WentOn (g.retire len sw) len := by
  refine ⟨?_, Warp.retire_pc _ _ _, Warp.retire_done _ _ _, Warp.retire_ir _ _ _⟩
  unfold Warp.retire Warp.finish Warp.mark
  split <;> rfl

/-- The marker decides anew where a retired warp stands. -/
theorem Warp.mark_retire (g : Warp) (len : Nat) (sw : Bool) : (g.retire len false).mark sw = g.retire len sw := by
  cases sw <;> rfl

/-- Parked behind its push, a warp has gone on. -/
theorem State.wentOn_parked (u : State) (g : Warp) (len p r : Nat) (sw : Bool) (b : Option Nat) (ft : DWord) (limit : BitVec 16) :
    g.WentOn { u.notePort p ((g.retire len false).waitNew r ft limit) with marked := sw, waitBand := b } len := by
  unfold State.notePort
  split <;> exact ⟨rfl, rfl, rfl, rfl⟩
theorem State.stat_notePort (u : State) (p r : Nat) (g : Warp) (ft : DWord) (limit : BitVec 16) :
    ((u.notePort p (g.waitNew r ft limit)).stat, (u.notePort p (g.waitNew r ft limit)).reason) = (.parked, r) := by
  unfold State.notePort
  split <;> rfl
theorem State.notePort_full {u : State} {p : Nat} (h : u.portFull p = true) (g : Warp) :
    (u.notePort p g).waitPort = some p ∧ (u.notePort p g).waitIds = (u.port (coreOf u.cur) p).all.map (·.id) := by
  rw [State.notePort, if_pos h]
  exact ⟨rfl, rfl⟩

theorem State.portFull_iff (s : State) (p : Nat) : s.portFull p = true ↔
    (if p < 4 then 16 else 32) ≤ (s.port (coreOf s.cur) p).exec.toList.length + (s.port (coreOf s.cur) p).queue.length := by
  simp [State.portFull, portCap, Port.all]

theorem State.issue_full {s : State} {p : Nat} (h : s.portFull p = true) (hd : Hdr) (len : Nat) (c : Nat → Cmd) (f : Nat → Warp → Warp) :
    s.issue hd len p c f = s.park 3 := if_pos h

/-- The state after a push that has room, before the warp looks whether it parks. -/
def State.queue (s : State) (len p : Nat) (c : Nat → Cmd) (f : Nat → Warp → Warp) : State :=
  ((s.fresh1.push p (s.pushAfter p (c s.nextId))).upd (f s.nextId)).upd (fun w => w.retire len false)
theorem State.issue_free {s : State} {p : Nat} (h : ¬s.portFull p = true) (hd : Hdr) (len : Nat) (c : Nat → Cmd) (f : Nat → Warp → Warp) :
    s.issue hd len p c f = (s.queue len p c f).pushed p hd.sw := if_neg h

section
variable (s : State) (len p : Nat) (c : Nat → Cmd) (f : Nat → Warp → Warp)

theorem State.w_queue : (s.queue len p c f).w = (f s.nextId s.w).retire len false := by
  rw [State.queue, State.w_upd, State.w_upd]
  rfl
theorem State.warp_queue_ne {n : Nat} (h : n ≠ s.cur) : (s.queue len p c f).warp n = s.warp n :=
  (State.warp_upd_ne ((s.fresh1.push p (s.pushAfter p (c s.nextId))).upd (f s.nextId)) _ n h).trans
    (State.warp_upd_ne (s.fresh1.push p (s.pushAfter p (c s.nextId))) _ n h)
theorem State.core_queue (n : Nat) : (s.queue len p c f).core n =
    if n = coreOf s.cur then (s.core n).setPort p { s.port n p with
      queue := (s.port n p).queue ++ [s.pushAfter p (c s.nextId)] } else s.core n := by
  refine (State.core_setCore s.fresh1 (coreOf s.cur) n _).trans ?_
  split
  · next h => subst h; rfl
  · rfl

end

/-- How a warp stands after its push, by R229, R244 and its marker, and what it then notes of its wait. -/
theorem State.pushed_stands {s : State} {g : Warp} {len : Nat} (hw : s.w = g.retire len false) (p : Nat) (sw : Bool) :
    g.WentOn (s.pushed p sw).w len ∧
    ((s.pushed p sw).w.stat, (s.pushed p sw).w.reason) =
      (if p < 4 ∧ 5 ≤ (s.myCore.bandCmds (slotOf s.cur)).length then (WStat.parked, 2)
      else if s.portFull p = true then (WStat.parked, 3)
      else if sw = true ∧ g.pending ≠ [] then (WStat.parked, 1) else (WStat.ready, 0)) ∧
    ((s.pushed p sw).w.reason = 2 → ∃ e ∈ s.myCore.bandCmds (slotOf s.cur), (s.pushed p sw).w.waitBand = some e.id ∧
      ∀ f ∈ s.myCore.bandCmds (slotOf s.cur), e.id ≤ f.id) ∧
    ((s.pushed p sw).w.reason = 2 ∨ (s.pushed p sw).w.reason = 3 → s.portFull p = true →
      (s.pushed p sw).w.waitPort = some p ∧ (s.pushed p sw).w.waitIds = (s.port (coreOf s.cur) p).all.map (·.id)) := by
  have hwp := State.w_pushed (s := s) (by rw [hw]; rfl) p sw
  rw [hw, Core.bandWork_eq] at hwp
  dsimp only at hwp
  generalize (s.pushed p sw).w = v at hwp
  generalize (s.team (g.retire len false).team).feTimeout = limit at hwp
  by_cases hband : p < 4 ∧ 5 ≤ (s.myCore.bandCmds (slotOf s.cur)).length
  · rw [if_pos hband] at hwp
    rw [if_pos hband]
    obtain ⟨e, he, hhead, hmin⟩ := Core.oldest_bandCmd (c := s.myCore) (slot := slotOf s.cur) (by rw [Core.bandWork_eq]; exact hband.2)
    subst hwp
    exact ⟨s.wentOn_parked _ _ _ _ _ _ _ _, s.stat_notePort _ _ _ _ _, fun _ => ⟨e, he, hhead, hmin⟩, fun _ hf => s.notePort_full hf _⟩
  · rw [if_neg hband] at hwp
    rw [if_neg hband]
    by_cases hf : s.portFull p = true
    · rw [if_pos hf] at hwp
      rw [if_pos hf]
      have hstat := s.stat_notePort p 3 (g.retire len false) s.ft limit
      subst hwp
      exact ⟨s.wentOn_parked _ _ _ _ _ _ _ _, hstat, fun h2 => absurd ((congrArg Prod.snd hstat).symm.trans h2) (by decide),
        fun _ hf => s.notePort_full hf _⟩
    · rw [if_neg hf, Warp.mark_retire] at hwp
      rw [if_neg hf]
      obtain ⟨-, -, -, -, -, -, hstat⟩ := g.at_retire len sw
      rw [Warp.retire_pending] at hstat
      have hreason : (g.retire len sw).reason ≠ 2 := by
        rw [(Warp.retire_stat g len sw).2]
        split <;> decide
      subst hwp
      exact ⟨g.wentOn_retire len sw, hstat, fun h2 => absurd h2 hreason, fun _ hfull => absurd hfull hf⟩

/-- Of the instructions that the core holds, the acquires alone make a band command wait for one. -/
theorem any_acquires_filter (ds : List Deferred) :
    (ds.filter (fun d => d.isObld || d.acquires)).any (·.acquires) = ds.any (fun d => d.acquires) := by
  rw [List.any_filter]
  congr 1
  funext d
  cases d.acquires <;> simp
/-- What a command waits for at its head (R193, R199, R232, R233). -/
theorem State.pushAfter_eq (s : State) (p : Nat) (c : Cmd) : s.pushAfter p c =
    if p < 4 then
      { c with
        after := s.myBandIds.filter (fun i => s.w.fence.bands.contains i) ++
          (s.w.deferred.filter (fun d => d.isObld || d.acquires)).map (·.id)
        afterAcq := s.w.acqAway || s.w.deferred.any (fun d => d.acquires) }
    else { c with after := s.copiesNow.filter (fun i => s.w.fence.copies.contains i) } := by
  rw [← any_acquires_filter, State.pushAfter]

/-- A warp that finds the port full waits at its instruction (R244). -/
theorem State.park_stands (s : State) (r : Nat) : (s.park r).w.body = { s.w with
      since := (s.park r).w.since, waited := (s.park r).w.waited, limit := (s.park r).w.limit, stalls := (s.park r).w.stalls }.body ∧
    (s.park r).w.stat = .parked ∧ (s.park r).w.reason = r ∧ (s.park r).w.pc = s.w.pc := by
  rw [State.park, State.w_upd]
  unfold Warp.wait
  split
  · next h => exact ⟨rfl, rfl, h, rfl⟩
  · exact ⟨rfl, rfl, rfl, rfl⟩

/-- What a push answers whose checks have passed (R229, R242, R244). -/
theorem queued_issue (s : State) (h : Hdr) (len p : Nat) (c : Nat → Cmd) (f : Nat → Warp → Warp)
    (hpc : ∀ id, (f id s.w).pc = s.w.pc) : Queued (.next (s.issue h len p c f)) s len p h.sw (fun id => f id s.w) c := by
  unfold Queued
  intro k full x behind y mine
  have hfull : s.portFull p = true ↔ full x := s.portFull_iff p
  refine ⟨fun hx => ?_, fun hx => ?_⟩
  · rw [State.issue_full (hfull.2 hx)]
    exact ⟨_, rfl, OnlyWarp.upd _ _, s.park_stands 3⟩
  · rw [State.issue_free (fun hf => hx (hfull.1 hf))]
    have hw := s.w_queue len p c f
    have hothers := fun n (hn : n ≠ s.cur) => s.warp_queue_ne len p c f hn
    have hcore := s.core_queue len p c f
    have hcur : (s.queue len p c f).cur = s.cur := rfl
    have hmem : (s.queue len p c f).mem = s.mem := rfl
    generalize s.queue len p c f = u at hw hothers hcore hcur hmem
    have hk : u.core k = (s.core k).setPort p y := by rw [hcore k, if_pos rfl, State.pushAfter_eq]
    have hport : u.port k p = y := by
      rw [State.port, hk]
      exact Tab.get_set_same _ _ _ _
    have hfully : u.portFull p = true ↔ full y := by rw [State.portFull_iff, hcur, hport]
    obtain ⟨⟨hbody, hpc', hdone, hir⟩, hstat, holdest, hnoted⟩ := State.pushed_stands hw p h.sw
    obtain ⟨hmem', hcores, hwarps⟩ := u.pushed_frame p h.sw
    have hcore' : ∀ n, (u.pushed p h.sw).core n = u.core n := fun n => by rw [State.core, hcores]; rfl
    have hmine : mine (u.pushed p h.sw) = u.myCore.bandCmds (slotOf u.cur) := by
      show (List.range 4).flatMap _ = _
      simp only [State.port, hcore']
      rw [State.myCore, hcur]
      rfl
    have hport' : (u.pushed p h.sw).port k p = u.port (coreOf u.cur) p := by rw [State.port, hcore', State.port, hcur]
    rw [← hmine] at hstat holdest
    rw [← hport'] at hnoted
    exact ⟨_, rfl, fun n hn => (hwarps n (hcur ▸ hn)).trans (hothers n hn), hmem'.trans hmem,
      fun n hn => (hcore' n).trans ((hcore n).trans (if_neg hn)), (hcore' k).trans hk, hbody, hpc'.trans (by rw [hpc]), hdone, hir,
      hstat.trans (if_congr Iff.rfl rfl (if_congr hfully rfl rfl)), holdest, fun hr hf => hnoted hr (hfully.2 hf)⟩

end Sys2Proof.Machine
end

section
/-! ### Command words and their pushes (13_queue.md R240 to R243) -/
namespace Sys2Proof.Machine

/-! #### The checks of a word -/

/-- D[1:0] of a word. -/
theorem toNat_band (x : BitVec 128) : ((x.extractLsb' 72 8).extractLsb' 0 2).toNat = cw x 72 2 := by
  simp only [cw, BitVec.extractLsb'_toNat, Nat.shiftRight_eq_div_pow]
  omega
/-- With D[7:2] zero D is D[1:0]. -/
theorem toNat_band_alone {x : BitVec 128} (h : (x.extractLsb' 72 8).extractLsb' 2 6 = 0) : (x.extractLsb' 72 8).toNat = cw x 72 2 := by
  have h0 : ((x.extractLsb' 72 8).extractLsb' 2 6).toNat = 0 := by rw [h]; rfl
  simp only [BitVec.extractLsb'_toNat, Nat.shiftRight_eq_div_pow] at h0
  simp only [cw, BitVec.extractLsb'_toNat, Nat.shiftRight_eq_div_pow]
  omega

/-- A valid band body has an opcode of 1 to 3, no reserved bits, and its band in D[1:0] (R243). -/
theorem bandBody_some {x : BitVec 128} {b : Nat} {body : CmdBody} (h : bandBody x = some (b, body)) :
    1 ≤ cw x 64 8 ∧ cw x 64 8 ≤ 3 ∧ cw x 88 8 = 0 ∧ cw x 72 2 = b := by
  unfold bandBody at h
  dsimp only at h
  split at h
  · cases h
  · next hres =>
    rw [not_not] at hres
    split at h
    · next hop =>
      split at h
      · split at h
        · cases h
        · cases h
          exact ⟨by omega, by omega, hres, (toNat_band x).symm⟩
      · cases h
    · next hop =>
      split at h
      · cases h
      · obtain ⟨part, -, h⟩ := Option.map_eq_some_iff.1 h
        cases h
        exact ⟨by omega, by omega, hres, (toNat_band x).symm⟩
    · next hop =>
      split at h
      · cases h
      · next hd =>
        cases h
        exact ⟨by omega, by omega, hres, (toNat_band_alone (not_not.1 fun c => hd (.inl c))).symm⟩
    · cases h

/-- The reserved bits and the unused fields of a word (R242). -/
def State.wordBad (s : State) (x : BitVec 128) : Prop :=
  cw x 123 5 ≠ 0 ∨ (x.getLsbD 118 = false ∧ cw x 119 4 ≠ 0) ∨ (x.getLsbD 116 = false ∧ cw x 112 4 ≠ 0) ∨
    (x.getLsbD 116 = true ∧ s.portOf (s.w.q (cw x 112 4)) = none)

/-- The command that a word with a body makes, under a number. -/
def State.cmdOf (s : State) (h : Hdr) (p : Nat) (x : BitVec 128) (body : CmdBody) (id : Nat) : Cmd :=
  { id := id, slot := slotOf s.cur, team := s.w.team, lanes := s.w.parts h,
    guard := if x.getLsbD 118 = true then some (x.extractLsb' 119 4) else none,
    hold := x.getLsbD 117, succ := if x.getLsbD 116 = true then s.portOf (s.w.q (cw x 112 4)) else none,
    sq := x.extractLsb' 112 4, tag := x.extractLsb' 96 16, dest := if p < 4 then .none else .port, body := body }

section
variable {s : State} {h : Hdr} {b : Word} {x : BitVec 128} {p : Nat}

theorem State.wordCmd_unbound (hp : s.portOf b = none) : s.wordCmd h b x = .error 0x1D0 := by
  rw [State.wordCmd, hp]
theorem State.wordCmd_bad (hp : s.portOf b = some p) (hbad : s.wordBad x) : s.wordCmd h b x = .error 0x1D1 := by
  rw [State.wordCmd, hp]
  exact if_pos (by simpa [State.wordBad] using hbad)
theorem State.wordCmd_error (hp : s.portOf b = some p) (hbad : ¬s.wordBad x) {e : Cause} (he : s.wordBody p x = .error e) :
    s.wordCmd h b x = .error e := by
  rw [State.wordCmd, hp]
  refine (if_neg (by simpa [State.wordBad] using hbad)).trans ?_
  rw [he]
theorem State.wordCmd_ok (hp : s.portOf b = some p) (hbad : ¬s.wordBad x) {body : CmdBody} (he : s.wordBody p x = .ok body) :
    s.wordCmd h b x = .ok (p, s.cmdOf h p x body) := by
  rw [State.wordCmd, hp]
  refine (if_neg (by simpa [State.wordBad] using hbad)).trans ?_
  rw [he]
  rfl

/-- A word for a band port whose body is none of that band has an invalid body. -/
theorem State.wordBody_invalid (hp : p < 4) (hx : ¬(1 ≤ cw x 64 8 ∧ cw x 64 8 ≤ 3 ∧ cw x 88 8 = 0 ∧ cw x 72 2 = p)) :
    s.wordBody p x = .error 0x1D1 := by
  rw [State.wordBody, if_pos hp]
  cases hb : bandBody x with
  | none => rfl
  | some e =>
    obtain ⟨hlo, hhi, hres, hband⟩ := bandBody_some (b := e.1) (body := e.2) hb
    exact if_pos fun he => hx ⟨hlo, hhi, hres, hband.trans he⟩

end

/-! #### The word of a QCMD -/

/-- The fields of a QCMD's word side by side; an absent guard or successor leaves its fields 0 (R241). -/
def qcmdDigits (i : QCmd) (x : DWord) : Nat :=
  x.toNat + i.body.toNat * 2 ^ 64 + i.tag.toNat * 2 ^ 96 + (i.succ.getD 0).toNat * 2 ^ 112 + i.succ.isSome.toNat * 2 ^ 116 +
    i.hold.toNat * 2 ^ 117 + i.guard.isSome.toNat * 2 ^ 118 + (i.guard.getD 0).toNat * 2 ^ 119
theorem qcmdWord_eq (i : QCmd) (x : DWord) : qcmdWord i x = BitVec.ofNat 128 (qcmdDigits i x) := by
  obtain ⟨_, _, guard, succ, hold, _, _, _⟩ := i
  refine congrArg (BitVec.ofNat 128) ?_
  cases guard <;> cases succ <;> cases hold <;> simp [qcmdDigits] <;> omega

/-- A bit of a word is a digit of its number. -/
theorem getLsbD_eq_of_digit {n : Nat} {x : BitVec n} {k : Nat} {b : Bool} (h : x.toNat / 2 ^ k % 2 = b.toNat) : x.getLsbD k = b := by
  rw [BitVec.getLsbD, Nat.testBit_eq_decide_div_mod_eq, h]
  cases b <;> rfl

/-- A field of a word is a run of digits of its number. -/
theorem extractLsb'_eq_of_digits {n m : Nat} {x : BitVec n} {k : Nat} {y : BitVec m} (h : x.toNat / 2 ^ k % 2 ^ m = y.toNat) :
    x.extractLsb' k m = y := by
  apply BitVec.eq_of_toNat_eq
  rw [BitVec.extractLsb'_toNat, Nat.shiftRight_eq_div_pow, h]

/-- The fields of the word that QCMD assembles (R241). -/
theorem qcmdWord_fields (i : QCmd) (x : DWord) : (qcmdWord i x).extractLsb' 0 64 = x ∧ (qcmdWord i x).extractLsb' 64 32 = i.body ∧
    (qcmdWord i x).extractLsb' 96 16 = i.tag ∧ (qcmdWord i x).extractLsb' 112 4 = i.succ.getD 0 ∧
    (qcmdWord i x).getLsbD 116 = i.succ.isSome ∧ (qcmdWord i x).getLsbD 117 = i.hold ∧
    (qcmdWord i x).getLsbD 118 = i.guard.isSome ∧ (qcmdWord i x).extractLsb' 119 4 = i.guard.getD 0 ∧
    (qcmdWord i x).extractLsb' 123 5 = 0 := by
  have hx := x.isLt
  have hbody := i.body.isLt
  have htag := i.tag.isLt
  have hsq := (i.succ.getD 0).isLt
  have hg := (i.guard.getD 0).isLt
  have hsv := i.succ.isSome.toNat_lt
  have hh := i.hold.toNat_lt
  have hgv := i.guard.isSome.toNat_lt
  have hn : (qcmdWord i x).toNat = qcmdDigits i x := by
    rw [qcmdWord_eq, BitVec.toNat_ofNat, qcmdDigits]
    omega
  rw [qcmdDigits] at hn
  refine ⟨extractLsb'_eq_of_digits ?_, extractLsb'_eq_of_digits ?_, extractLsb'_eq_of_digits ?_, extractLsb'_eq_of_digits ?_,
    getLsbD_eq_of_digit ?_, getLsbD_eq_of_digit ?_, getLsbD_eq_of_digit ?_, extractLsb'_eq_of_digits ?_, extractLsb'_eq_of_digits ?_⟩
  all_goals rw [hn]
  case refine_9 => show _ = 0; omega
  all_goals omega

end Sys2Proof.Machine
end

section
/-! ### MOV of special registers and queues, QCMD (06_vector.md R110, 13_queue.md R241, R242, R245) -/
namespace Sys2Proof.Machine

theorem exec_movSpecialSource (i : HDA) (s : State) : exec (.movSpecialSource i) s = execMovSpecialSource i s := rfl
theorem exec_movSpecialDestination (i : HDA) (s : State) : exec (.movSpecialDestination i) s = execMovSpecialDestination i s := rfl
theorem exec_qcmd (i : QCmd) (s : State) : exec (.qcmd i) s = execQcmd i s := rfl

/-- Retiring alone changes nothing that the warp keeps. -/
theorem warpStep_retire (s : State) (len : Nat) (sw : Bool) :
    WarpStep (.next (s.retire len sw)) s s.w (s.w.pc + BitVec.ofNat 64 len) sw := WarpStep.retire s id len sw

/-! #### Pops (R245) -/

theorem mem_lanesOf (m : Mask) (n : Nat) : n ∈ lanesOf m ↔ n < 32 ∧ m.getLsbD n = true := by simp [lanesOf, allLanes]

/-- The register writes of a popped entry: word `n` to lane `n`. -/
def popWrites (m : Mask) (d : Nat) (e : List Word) : List (Nat × Word) := (lanesOf m).map (fun n => (d * 32 + n, e.getD n 0))
theorem mem_popWrites (m : Mask) (d : Nat) (e : List Word) (n : Nat) (v : Word) :
    (n < 32 ∧ (d * 32 + n, v) ∈ popWrites m d e) ↔ (n < 32 ∧ m.getLsbD n = true ∧ v = e.getD n 0) := by
  simp only [popWrites, List.mem_map, mem_lanesOf, Prod.mk.injEq]
  constructor
  · rintro ⟨hn, k, ⟨-, hk⟩, hkn, rfl⟩
    obtain rfl : k = n := by omega
    exact ⟨hn, hk, rfl⟩
  · rintro ⟨hn, hm, rfl⟩
    exact ⟨hn, n, ⟨hn, hm⟩, rfl, rfl⟩

/-- The executing warp has `e` as a long result of MOV; of what the warp keeps only its status port may differ besides. -/
def Popped (s t : State) (i : HDA) (e : List Word) : Prop :=
  ∃ ws : List (Nat × Word), t.w.At (s.w.pc + 8) i.h.sw ∧ t.mem = s.mem ∧ (∀ k, k ≠ s.cur → t.warp k = s.warp k) ∧
    { t.w with pending := s.w.pending, statusPort := s.w.statusPort }.body = s.w.body ∧
    t.w.pending = s.w.pending ++ [⟨s.nextId, s.w.parts i.h, .value ws []⟩] ∧
    ∀ n v, (n < 32 ∧ (i.d.toNat * 32 + n, v) ∈ ws) ↔ (n < 32 ∧ (s.w.parts i.h).getLsbD n = true ∧ v = e.getD n 0)

/-- A pop from a state `u` that has lost the entry, and is otherwise `s` to the warps. -/
theorem State.popped_spec {s u : State} {i : HDA} (hm : s.w.parts i.h ≠ 0) (hcur : u.cur = s.cur) (hmem : u.mem = s.mem)
    (hid : u.nextId = s.nextId) (hothers : ∀ k, k ≠ s.cur → u.warp k = s.warp k) {es : List (DWord × BitVec 16)}
    (hw : u.w = { s.w with statusPort := es }) (e : List Word) :
    Popped s (u.popped i e) i e ∧ (u.popped i e).cores = u.cores ∧ (u.popped i e).cur = s.cur ∧ (u.popped i e).w.statusPort = es := by
  have hparts : u.w.parts i.h = s.w.parts i.h := by rw [hw]; rfl
  have hadd : u.popped i e = (u.fresh1.upd (fun w => { w with
      pending := w.pending ++ [⟨s.nextId, s.w.parts i.h, .value (popWrites (s.w.parts i.h) i.d.toNat e) []⟩] })).retire 8 i.h.sw := by
    rw [State.popped, hparts, State.addPending_eq hm, hid]
    rfl
  have hwt : (u.popped i e).w = Warp.retire { s.w with
      statusPort := es
      pending := s.w.pending ++ [⟨s.nextId, s.w.parts i.h, .value (popWrites (s.w.parts i.h) i.d.toNat e) []⟩] } 8 i.h.sw := by
    rw [hadd, State.retire, State.w_upd, State.w_upd, show u.fresh1.w = u.w from rfl, hw]
  refine ⟨⟨popWrites (s.w.parts i.h) i.d.toNat e, ?_, ?_, fun k hk => ?_, ?_, ?_, mem_popWrites _ _ _⟩, ?_, ?_, ?_⟩
  · rw [hwt]
    exact Warp.at_retire _ _ _
  · rw [hadd]; exact hmem
  · rw [hadd]
    have hk' : k ≠ u.cur := hcur ▸ hk
    exact (State.warp_upd_ne (State.upd u.fresh1 _) _ k hk').trans ((State.warp_upd_ne u.fresh1 _ k hk').trans (hothers k hk))
  · rw [hwt]
    unfold Warp.retire Warp.finish Warp.mark
    split <;> rfl
  · rw [hwt, Warp.retire_pending]
  · rw [hadd]; rfl
  · rw [hadd]; exact hcur
  · rw [hwt, Warp.retire_statusPort]

/-- The warp waits at its MOV for an entry. -/
def PopWaits (s : State) (o : Out) : Prop :=
  ∃ t, o = .next t ∧ OnlyWarp s t ∧ t.w.stat = .parked ∧ t.w.reason = 4 ∧ t.w.pc = s.w.pc ∧ t.w.pending = s.w.pending
theorem popWaits_park (s : State) : PopWaits s (.next (s.park 4)) := by
  obtain ⟨hbody, hstat, hreason, hpc⟩ := s.park_stands 4
  have hpending := congrArg (fun w : Warp => w.pending) hbody
  exact ⟨_, rfl, OnlyWarp.upd _ _, hstat, hreason, hpc, hpending⟩

section
variable {s : State} {i : HDA} {n : Nat}

theorem warpStep_pop_idle (h : s.w.parts i.h = 0) : WarpStep (.next (s.pop i n)) s s.w (s.w.pc + 8) i.h.sw := by
  rw [State.pop, if_pos h]
  exact warpStep_retire s 8 i.h.sw
theorem trapsWith_pop_unbound (h : s.w.parts i.h ≠ 0) (h2 : qKind (s.w.q n) ≠ 2) (h4 : qKind (s.w.q n) ≠ 4) :
    TrapsWith (.next (s.pop i n)) s 0x1D0 (s.w.parts i.h) := by
  rw [State.pop, if_neg h, if_neg h2, if_neg h4]
  exact ⟨s.noAddr, rfl⟩

/-- From an empty port there is nothing to pop. -/
theorem popWaits_results (h : s.w.parts i.h ≠ 0) (h2 : qKind (s.w.q n) = 2)
    (he : Tab.get [] s.myCore.results (qIndex (s.w.q n)) = []) : PopWaits s (.next (s.pop i n)) := by
  rw [State.pop, if_neg h, if_pos h2, he]
  exact popWaits_park s
theorem popWaits_status (h : s.w.parts i.h ≠ 0) (h4 : qKind (s.w.q n) = 4) (he : s.w.statusPort = []) :
    PopWaits s (.next (s.pop i n)) := by
  rw [State.pop, if_neg h, if_neg (by omega), if_pos h4, he]
  exact popWaits_park s

/-- The oldest entry of a result port. -/
theorem popped_results (h : s.w.parts i.h ≠ 0) (h2 : qKind (s.w.q n) = 2) {e : List Word} {es : List (List Word)}
    (he : Tab.get [] s.myCore.results (qIndex (s.w.q n)) = e :: es) :
    Popped s (s.pop i n) i e ∧ Tab.get [] (s.pop i n).myCore.results (qIndex (s.w.q n)) = es ∧
      (s.pop i n).w.statusPort = s.w.statusPort := by
  have hpop : s.pop i n = (s.updCore (fun c =>
      { c with results := Tab.set [] c.results (qIndex (s.w.q n)) es })).popped i e := by
    rw [State.pop, if_neg h, if_pos h2, he]
  obtain ⟨hgot, hcores, hcur, hst⟩ := State.popped_spec (u := s.updCore (fun c =>
      { c with results := Tab.set [] c.results (qIndex (s.w.q n)) es })) h rfl rfl rfl (fun _ _ => rfl) (es := s.w.statusPort) rfl e
  rw [hpop]
  refine ⟨hgot, ?_, hst⟩
  rw [State.myCore, State.core, hcores, hcur, ← State.core, State.updCore, State.core_setCore, if_pos rfl]
  exact Tab.get_set_same _ _ _ _

/-- The oldest entry of the status port. -/
theorem popped_status (h : s.w.parts i.h ≠ 0) (h4 : qKind (s.w.q n) = 4) {st : DWord} {tag : BitVec 16}
    {es : List (DWord × BitVec 16)} (he : s.w.statusPort = (st, tag) :: es) :
    Popped s (s.pop i n) i (statusWords st tag) ∧ (s.pop i n).w.statusPort = es ∧ (s.pop i n).cores = s.cores := by
  have hpop : s.pop i n = (s.upd (fun w => { w with statusPort := es })).popped i (statusWords st tag) := by
    rw [State.pop, if_neg h, if_neg (by omega), if_pos h4, he]
  obtain ⟨hgot, hcores, -, hst⟩ := State.popped_spec (u := s.upd (fun w => { w with statusPort := es })) h rfl rfl rfl
    (State.warp_upd_ne s _) (State.w_upd s _) (statusWords st tag)
  rw [hpop]
  exact ⟨hgot, hst, hcores⟩

end

/-! #### Pushes (R242) -/

/-- What a push of a word through q register `q` does: it traps by the stages of R242, or queues the command of the word. -/
def State.Pushes (s : State) (out : Out) (h : Hdr) (len q : Nat) (x : BitVec 128) : Prop :=
  (s.portOf (s.w.q q) = none → TrapsWith out s 0x1D0 (s.w.parts h)) ∧
  ∀ p, s.portOf (s.w.q q) = some p →
    (s.wordBad x → TrapsWith out s 0x1D1 (s.w.parts h)) ∧
    (p < 4 → ¬(1 ≤ cw x 64 8 ∧ cw x 64 8 ≤ 3 ∧ cw x 88 8 = 0 ∧ cw x 72 2 = p) → TrapsWith out s 0x1D1 (s.w.parts h)) ∧
    (¬s.wordBad x → ∀ e, s.wordBody p x = .error e → TrapsWith out s e (s.w.parts h)) ∧
    (¬s.wordBad x → ∀ body, s.wordBody p x = .ok body → Queued out s len p h.sw
      (fun id => if p < 4 then s.w else s.w.openCopy id) (s.cmdOf h p x body))

theorem State.pushWord_traps {s : State} {h : Hdr} {q : Nat} {x : BitVec 128} {c : Cause} (hc : s.wordCmd h (s.w.q q) x = .error c)
    (len : Nat) : TrapsWith (.next (s.pushWord h len q x)) s c (s.w.parts h) :=
  ⟨s.pushOperand c (cw x 72 4), by rw [State.pushWord, hc]; rfl⟩

theorem State.pushWord_pushes (s : State) (h : Hdr) (len q : Nat) (x : BitVec 128) :
    s.Pushes (.next (s.pushWord h len q x)) h len q x := by
  refine ⟨fun hp => State.pushWord_traps (State.wordCmd_unbound hp) len, fun p hp =>
    ⟨fun hbad => State.pushWord_traps (State.wordCmd_bad hp hbad) len, fun hlt hx => ?_,
      fun hok e he => State.pushWord_traps (State.wordCmd_error hp hok he) len, fun hok body he => ?_⟩⟩
  · by_cases hbad : s.wordBad x
    · exact State.pushWord_traps (State.wordCmd_bad hp hbad) len
    · exact State.pushWord_traps (State.wordCmd_error hp hbad (State.wordBody_invalid hlt hx)) len
  · rw [State.pushWord, State.wordCmd_ok hp hok he]
    refine queued_issue s h len p (s.cmdOf h p x body) (fun id w => if p < 4 then w else w.openCopy id) (fun id => ?_)
    split <;> rfl

/-! #### MOV and QCMD -/

section
variable {s : State} {i : HDA}

theorem laneResult_movSpecialSource (h : i.a.toNat < 16) :
    LaneResult (exec (.movSpecialSource i) s) s i.h i.d 8 (fun n x => x = s.w.special i.a.toNat n) := by
  rw [exec_movSpecialSource, show execMovSpecialSource i s = s.warpNext (fun w => w.putV i.h i.d 8 (fun n => w.special i.a.toNat n))
    from if_neg (by omega)]
  exact laneResult_putV s i.h i.d 8 (fun w n => w.special i.a.toNat n) _ (fun _ _ _ => rfl)
theorem exec_movSpecialSource_queue (h : 16 ≤ i.a.toNat) : exec (.movSpecialSource i) s = .next (s.pop i (i.a.toNat - 16)) := if_pos h

theorem warpStep_movSpecialDestination_idle (h : s.w.parts i.h = 0) :
    WarpStep (exec (.movSpecialDestination i) s) s s.w (s.w.pc + 8) i.h.sw := by
  simp only [exec_movSpecialDestination, execMovSpecialDestination, h, lowLane_zero]
  exact warpStep_retire s 8 i.h.sw

variable {l : Nat} (hl : lowLane (s.w.parts i.h) = some l)
include hl

/-- em takes the lowest participating lane's value, without the lanes that have exited. -/
theorem warpStep_movSpecialDestination_em (hd : i.d.toNat = 0) : WarpStep (exec (.movSpecialDestination i) s) s
    { s.w with em := s.w.v i.a.toNat l &&& ~~~s.w.exited } (s.w.pc + 8) i.h.sw := by
  simp only [exec_movSpecialDestination, execMovSpecialDestination, hl]
  rw [if_pos hd]
  exact WarpStep.retire s (fun w => { w with em := s.w.v i.a.toNat l &&& ~~~w.exited }) 8 i.h.sw

/-- A transaction keeps its snapshot (R298). -/
theorem trapsWith_movSpecialDestination_snap (hd : i.d.toNat = 1 ∨ i.d.toNat = 2) (htx : s.w.inTx = true) :
    TrapsWith (exec (.movSpecialDestination i) s) s 0x208 (s.w.parts i.h) := by
  simp only [exec_movSpecialDestination, execMovSpecialDestination, hl]
  rw [if_neg (by omega), if_pos (by omega), if_pos htx]
  exact ⟨s.noAddr, rfl⟩
theorem warpStep_movSpecialDestination_snap (hd : i.d.toNat = 1 ∨ i.d.toNat = 2) (htx : ¬s.w.inTx = true) :
    WarpStep (exec (.movSpecialDestination i) s) s { s.w with
      snap := if i.d.toNat = 1 then pairOf (s.w.v i.a.toNat l) (hiWord s.w.snap) else pairOf (loWord s.w.snap) (s.w.v i.a.toNat l) }
      (s.w.pc + 8) i.h.sw := by
  simp only [exec_movSpecialDestination, execMovSpecialDestination, hl]
  rw [if_neg (by omega), if_pos (by omega), if_neg htx]
  obtain hd | hd := hd
  · rw [if_pos hd, if_pos hd]
    exact WarpStep.retire s (fun w => { w with snap := pairOf (s.w.v i.a.toNat l) (hiWord w.snap) }) 8 i.h.sw
  · rw [if_neg (by omega), if_neg (by omega)]
    exact WarpStep.retire s (fun w => { w with snap := pairOf (loWord w.snap) (s.w.v i.a.toNat l) }) 8 i.h.sw

/-- A queue register takes words 0 to 3 of the source as a command word, word 0 lowest (R241). -/
theorem pushes_movSpecialDestination (hd : 16 ≤ i.d.toNat) : s.Pushes (exec (.movSpecialDestination i) s) i.h 8 (i.d.toNat - 16)
    (s.w.v i.a.toNat 3 ++ s.w.v i.a.toNat 2 ++ s.w.v i.a.toNat 1 ++ s.w.v i.a.toNat 0) := by
  simp only [exec_movSpecialDestination, execMovSpecialDestination, hl]
  rw [if_neg (by omega), if_neg (by omega)]
  exact s.pushWord_pushes _ _ _ _

end

theorem warpStep_qcmd_idle {i : QCmd} {s : State} (h : s.w.parts i.h = 0) :
    WarpStep (exec (.qcmd i) s) s s.w (s.w.pc + 16) i.h.sw := by
  rw [exec_qcmd, show execQcmd i s = .next (s.retire 16 i.h.sw) from if_neg (by simp [Warp.any, h])]
  exact warpStep_retire s 16 i.h.sw
theorem pushes_qcmd {i : QCmd} {s : State} (h : s.w.parts i.h ≠ 0) :
    s.Pushes (exec (.qcmd i) s) i.h 16 i.q.toNat (qcmdWord i (s.w.s i.sreg.toNat)) := by
  rw [exec_qcmd, show execQcmd i s = .next (s.pushWord i.h 16 i.q.toNat (qcmdWord i (s.w.s i.sreg.toNat))) from if_pos (bne_iff_ne.2 h)]
  exact s.pushWord_pushes _ _ _ _

end Sys2Proof.Machine
end

section
open Sys2Proof Sys2Proof.Machine

/-- Settles O39: MOV from a queue register is one of the pops above, and MOV to one pushes a word as `State.pushWord_pushes` says, as QCMD
pushes the one that `qcmdWord_fields` describes. -/
theorem specialRegistersAndQueuesMove : Obligations.SpecialRegistersAndQueuesMove := by
  unfold Obligations.SpecialRegistersAndQueuesMove
  intro s
  refine ⟨fun i hi => ?_, fun i hlo _ => ?_, fun i => ⟨warpStep_movSpecialDestination_idle, fun l hl hm hlow => ?_⟩,
    fun i => ⟨warpStep_qcmd_idle, fun h => ?_⟩⟩
  · refine (laneResult_movSpecialSource (by omega)).mono ?_
    rintro n x - rfl
    generalize i.a.toNat = a at hi
    interval_cases a <;> rfl
  · rw [exec_movSpecialSource_queue hlo]
    exact ⟨warpStep_pop_idle, fun h => ⟨trapsWith_pop_unbound h,
      fun h2 => ⟨popWaits_results h h2, fun e es he => ⟨_, rfl, popped_results h h2 he⟩⟩,
      fun h4 => ⟨popWaits_status h h4, fun st tag es he => ⟨_, rfl, popped_status h h4 he⟩⟩⟩⟩
  · have hlane := lowLane_eq_some hl hm hlow
    have htx : s.w.inTx = true ↔ s.w.txState = .active ∨ s.w.txState = .doomed := by simp [Warp.inTx]
    exact ⟨warpStep_movSpecialDestination_em hlane,
      fun hd => ⟨fun h => trapsWith_movSpecialDestination_snap hlane hd (htx.2 h),
        fun ha hdo => warpStep_movSpecialDestination_snap hlane hd fun h => (htx.1 h).elim ha hdo⟩,
      fun hd _ => pushes_movSpecialDestination hlane hd⟩
  · obtain ⟨hx, hbody, htag, hsq, hsv, hhold, hgv, hg, hz⟩ := qcmdWord_fields i (s.w.s i.sreg.toNat)
    exact ⟨_, hx, hbody, htag, hsq, hsv, hhold, hgv, hg, hz, pushes_qcmd h⟩
end

section
/-! ### Counters of events (R396, R397) -/
namespace Sys2Proof.Machine

@[simp] theorem State.trace_cur (s : State) (r : TraceRec) : (s.trace r).cur = s.cur := by rw [State.trace_eq]
@[simp] theorem State.trace_faultOpen (s : State) (r : TraceRec) : (s.trace r).faultOpen = s.faultOpen := by rw [State.trace_eq]
/-- A sample is a trace record, and no warp, context or open fault record. -/
theorem State.sample_keeps (s : State) (core n : Nat) : (s.sample core n).warps = s.warps ∧ (s.sample core n).ctxs = s.ctxs ∧
    (s.sample core n).faultOpen = s.faultOpen ∧ (s.sample core n).cur = s.cur := by
  induction n generalizing s with
  | zero => exact ⟨rfl, rfl, rfl, rfl⟩
  | succ n ih => simpa [State.sample] using ih (s.trace (s.traceOf (core * 16 + (s.core core).lastSlot) 1 0 0))
@[simp] theorem State.warps_count (s : State) (core tenant e n : Nat) : (s.count core tenant e n).warps = s.warps :=
  (State.sample_keeps _ _ _).1
@[simp] theorem State.warp_count (s : State) (core tenant e n k : Nat) : (s.count core tenant e n).warp k = s.warp k :=
  congrArg (fun ws => Tab.get ({} : Warp) ws k) (s.warps_count core tenant e n)
@[simp] theorem State.ctx_count (s : State) (core tenant e n : Nat) (c : CtxId) : (s.count core tenant e n).ctx c = s.ctx c :=
  congrArg (fun cs => Tab.get ({} : Ctx) cs c.toNat) (State.sample_keeps _ _ _).2.1
@[simp] theorem State.faultOpen_count (s : State) (core tenant e n : Nat) : (s.count core tenant e n).faultOpen = s.faultOpen :=
  (State.sample_keeps _ _ _).2.2.1
@[simp] theorem State.cur_count (s : State) (core tenant e n : Nat) : (s.count core tenant e n).cur = s.cur :=
  (State.sample_keeps _ _ _).2.2.2

end Sys2Proof.Machine
end

section
/-! ### Answers to fault records (08_page.md R166, 21_trap.md R380) -/
namespace Sys2Proof.Machine

theorem exec_faultResolved (i : FaultRef) (s : State) : exec (.faultResolved i) s = execFaultResolved i s := rfl
theorem exec_faultUnresolvable (i : FaultRef) (s : State) : exec (.faultUnresolvable i) s = execFaultUnresolvable i s := rfl

theorem execFaultRecordEnqueue_waits {s : State} (h : s.faultHeld = [] ∨ 4096 ≤ s.faultQ.length) :
    execFaultRecordEnqueue s = .next s := by
  unfold execFaultRecordEnqueue
  split
  · rfl
  · next r rs hr => exact if_neg (by rw [hr] at h; simp at h; omega)
theorem execFaultRecordEnqueue_moves {s : State} {r : FaultRec} {rs : List FaultRec} (h : s.faultHeld = r :: rs)
    (hq : s.faultQ.length < 4096) :
    execFaultRecordEnqueue s = .next { s with faultQ := s.faultQ ++ [r], faultHeld := rs } := by
  unfold execFaultRecordEnqueue
  rw [h]
  exact if_pos hq

/-- The state in which record `id` awaits no answer any more. -/
def State.answered (s : State) (id : Nat) : State := { s with faultOpen := s.faultOpen.filter (fun r => r.id != id) }

section
variable {s : State} {id : Nat} (code : FaultRec → Cause) (f : State → FaultRec → State)
theorem State.answer_unknown (h : ∀ r ∈ s.faultOpen, r.id ≠ id) : s.answer id code f = s := by
  have : s.faultOpen.find? (fun r => r.id == id) = none := by simpa using h
  rw [State.answer, this]
/-- An answer to the record of a warp. -/
theorem State.answer_warp {r : FaultRec} (h : s.faultOpen.find? (fun x => x.id == id) = some r) (hacc : r.acc ≠ 4) :
    s.answer id code f = f (s.answered id) r := by
  rw [State.answer, h]
  exact if_neg hacc
end

/-- A record of warp `k`, which is Replayable on the package and counts it among its outstanding ones; its context runs. -/
structure Awaits (s : State) (r : FaultRec) (k : Nat) : Prop where
  key : r.core * 16 + r.slot = k
  live : s.savedOn r.ctx r.core = false
  ctx : (s.warp k).ctx = r.ctx
  stat : (s.warp k).stat = .replayable
  running : (s.ctx (s.warp k).ctx).state = .running
  mem : r.id ∈ (s.warp k).records

/-- The warp at the handler that enter of R380 gives it. -/
def Warp.atHandler (w : Warp) (base : DWord) (flm : Mask) : Warp :=
  { w.clear with
    trapMode := true, pc := base &&& ~~~(0x1F : DWord), em := handlerMask flm w.exited, cj := 0xFFFFFFFFFFFFFFFF, spin := 0
    stat := .ready, reason := 0, records := [], watch := none, trapWatch := w.watch }
/-- Enter of R380 with the map made, for a warp that is not in trap mode and whose context has a handler. -/
theorem State.enterMap_handler {s : State} {cause : Cause} {m : TrapMap} (hmode : s.w.trapMode = false)
    (hbase : (s.handlerBase cause).getLsbD 0 = true) :
    (s.enterMap cause m).w = { s.w.atHandler (s.handlerBase cause) m.flm with trap := m } ∧
    (∀ k, k ≠ s.cur → (s.enterMap cause m).warp k = s.warp k) ∧ (s.enterMap cause m).cur = s.cur ∧
    (s.enterMap cause m).mem = s.mem ∧ (s.enterMap cause m).faultOpen = s.faultOpen := by
  have he : s.enterMap cause m =
      State.count ((s.upd (fun w => { w with trap := m })).upd (fun w => w.atHandler (s.handlerBase cause) m.flm))
        (coreOf s.cur) ((s.upd (fun w => { w with trap := m })).upd (fun w => w.atHandler (s.handlerBase cause) m.flm)).tenant 8 1 := by
    unfold State.enterMap State.writeMap
    simp only [hmode, hbase, Bool.false_eq_true, if_false, Bool.not_true]
    rfl
  rw [he]
  refine ⟨?_, fun k hk => ?_, State.cur_count _ _ _ _ _, by simp, by simp⟩
  · rw [State.w, State.warp_count, State.cur_count]
    exact (State.w_upd _ _).trans (by rw [State.w_upd]; rfl)
  · rw [State.warp_count]
    exact (State.warp_upd_ne (s.upd _) _ _ hk).trans (State.warp_upd_ne _ _ _ hk)

section
variable {s : State} {r : FaultRec} {k : Nat} (h : Awaits s r k)
include h

theorem Awaits.answered (id : Nat) : Awaits (s.answered id) r k := ⟨h.key, h.live, h.ctx, h.stat, h.running, h.mem⟩

/-- The last outstanding record resolved: the warp is Ready at the instruction at which it stood. -/
theorem Awaits.resolved_last (hlast : (s.warp k).records.erase r.id = []) : ∃ core tenant, s.warpResolved r =
    (s.count core tenant 7 1).setWarp k { s.warp k with records := [], stat := .ready, reason := 0 } := by
  obtain ⟨rfl, hlive, hctx, hstat, hrun, hmem⟩ := h
  refine ⟨coreOf (r.core * 16 + r.slot), (s.team (s.warp (r.core * 16 + r.slot)).team).tenant, ?_⟩
  unfold State.warpResolved State.reissueWarp
  dsimp only
  rw [if_neg (by simp [hlive]), if_neg (by simp [hctx, hmem]), if_pos hlast, if_neg (by simp [hstat]),
    if_neg (by rw [State.ctx_count, hrun]; decide)]
/-- One of several records resolved: the warp waits for the others. -/
theorem Awaits.resolved_others (hmore : (s.warp k).records.erase r.id ≠ []) : s.warpResolved r = s.setWarp k
    { s.warp k with records := (s.warp k).records.erase r.id } := by
  obtain ⟨rfl, hlive, hctx, -, -, hmem⟩ := h
  unfold State.warpResolved
  dsimp only
  rw [if_neg (by simp [hlive]), if_neg (by simp [hctx, hmem]), if_neg hmore]

/-- The base of the handler for the record's cause (R380). -/
def FaultRec.baseIn (r : FaultRec) (s : State) : DWord :=
  if 0x2E0 ≤ r.cause.toNat ∧ r.cause.toNat ≤ 0x2EF then (s.ctx r.ctx).toolBase else (s.ctx r.ctx).trapBase

/-- The warp in trap mode at its handler, and no other warp. -/
theorem Awaits.liveTrap (hmode : (s.warp k).trapMode = false) (hbase : (r.baseIn s).getLsbD 0 = true) :
    (s.liveTrap r k).warp k =
      { (s.warp k).atHandler (r.baseIn s) (r.mapOf (s.warp k) s.now).flm with trap := r.mapOf (s.warp k) s.now } ∧
    (∀ n, n ≠ k → (s.liveTrap r k).warp n = s.warp n) ∧ (s.liveTrap r k).mem = s.mem ∧
    (s.liveTrap r k).faultOpen = s.faultOpen := by
  obtain ⟨-, -, hctx, -, hrun, -⟩ := h
  have hb : ({ s with cur := k } : State).handlerBase r.cause = r.baseIn s := by
    rw [FaultRec.baseIn, ← hctx]; rfl
  have hlive : s.liveTrap r k = s.at k (fun s' => s'.enterMap r.cause (r.mapOf (s.warp k) s'.now)) :=
    if_neg (by rw [hrun]; decide)
  obtain ⟨hown, hothers, hcur, hmem, hopen⟩ := State.enterMap_handler (s := { s with cur := k }) (cause := r.cause)
    (m := r.mapOf (s.warp k) s.now) hmode (by rw [hb]; exact hbase)
  rw [hb, State.w, hcur] at hown
  rw [hlive]
  exact ⟨hown, hothers, hmem, hopen⟩

/-- The record unresolvable: the same, and no other record of the warp awaits an answer any more. -/
theorem Awaits.failed (hmode : (s.warp k).trapMode = false) (hbase : (r.baseIn s).getLsbD 0 = true) :
    (s.warpFailed r).warp k =
      { (s.warp k).atHandler (r.baseIn s) (r.mapOf (s.warp k) s.now).flm with trap := r.mapOf (s.warp k) s.now } ∧
    (∀ n, n ≠ k → (s.warpFailed r).warp n = s.warp n) ∧ (s.warpFailed r).mem = s.mem ∧
    (s.warpFailed r).faultOpen = s.faultOpen.filter (fun x => !x.sameWarp r) := by
  obtain ⟨hown, hothers, hmem, hopen⟩ := h.liveTrap hmode hbase
  have hfailed : s.warpFailed r =
      { s.liveTrap r k with faultOpen := (s.liveTrap r k).faultOpen.filter (fun x => !x.sameWarp r) } := by
    obtain ⟨rfl, hlive, hctx, hstat, -, hrec⟩ := h
    unfold State.warpFailed
    dsimp only
    rw [if_neg (by simp [hlive]), if_neg (by simp [hctx, hrec, hstat])]
  rw [hopen] at hfailed
  rw [hfailed]
  exact ⟨hown, hothers, hmem, rfl⟩

end
end Sys2Proof.Machine
end

section
open Sys2Proof Sys2Proof.Machine

/-- Settles O34: an answer reaches the warp of its record by `State.answer_warp`, and what it does there is `Awaits.resolved_last`,
`Awaits.resolved_others` or `Awaits.failed`. -/
theorem faultRecordsAreAnsweredByTheHost : Obligations.FaultRecordsAreAnsweredByTheHost := by
  unfold Obligations.FaultRecordsAreAnsweredByTheHost
  intro s
  refine ⟨fun i h => ⟨?_, ?_⟩, execFaultRecordEnqueue_waits, fun r rs => execFaultRecordEnqueue_moves, ?_⟩
  · rw [exec_faultResolved, execFaultResolved, State.answer_unknown _ _ h]
  · rw [exec_faultUnresolvable, execFaultUnresolvable, State.answer_unknown _ _ h]
  intro i r hfind hacc k w _ hlive hctx hstat hrun hmem
  have ha : Awaits (s.answered i.id) r k := Awaits.answered ⟨rfl, hlive, hctx, hstat, hrun, hmem⟩ i.id
  rw [exec_faultResolved, execFaultResolved, State.answer_warp _ _ hfind hacc]
  rw [exec_faultUnresolvable, execFaultUnresolvable, State.answer_warp _ _ hfind hacc]
  refine ⟨fun hlast => ?_, fun hmore => ?_, fun hmode base hbase hvalid => ?_⟩
  · obtain ⟨core, tenant, he⟩ := ha.resolved_last (by show w.records.erase r.id = []; simp [hlast])
    rw [he]
    refine ⟨_, rfl, by rw [State.setWarp_mem, State.mem_count]; rfl, fun n hn => ?_, State.warp_setWarp_same _ _ _, fun x => ?_⟩
    · rw [State.warp_setWarp, if_neg hn, State.warp_count]; rfl
    · simp [State.answered]
  · rw [ha.resolved_others hmore]
    refine ⟨_, rfl, rfl, fun n hn => ?_, State.warp_setWarp_same _ _ _⟩
    rw [State.warp_setWarp, if_neg hn]; rfl
  · obtain rfl : base = r.baseIn (s.answered i.id) := hbase
    obtain ⟨hown, hothers, hm, hopen⟩ := ha.failed hmode hvalid
    refine ⟨_, rfl, hm, hothers, ?_⟩
    rw [hown, hopen]
    have hmap : r.mapOf w s.now = { w.trap with cause := r.cause, ft := s.ft &&& ~~~(0x3F : DWord) } := by
      simp only [FaultRec.mapOf, hmode, Bool.false_eq_true, if_false]; rfl
    refine ⟨rfl, rfl, rfl, hmap, fun hflm => ?_, rfl, rfl, rfl, fun x hx hsame => ?_⟩
    · show handlerMask (r.mapOf w s.now).flm w.exited = _
      rw [hmap]
      exact if_pos hflm
    · obtain ⟨hxc, hxk, hxs, hxa⟩ := hsame
      simp [FaultRec.sameWarp, hxc, hxk, hxs, hxa, hacc] at hx
end

section
/-! ### Steps of one warp that leave every other warp as it was -/
namespace Sys2Proof.Machine

/-- From `s` to `t` the executing warp is the same one, and no other warp has changed. -/
structure OthersKept (s t : State) : Prop where
  cur : t.cur = s.cur
  others : ∀ n, n ≠ s.cur → t.warp n = s.warp n

theorem OthersKept.refl (s : State) : OthersKept s s := ⟨rfl, fun _ _ => rfl⟩
theorem OthersKept.trans {s t u : State} (h : OthersKept s t) (h' : OthersKept t u) : OthersKept s u :=
  ⟨h'.cur.trans h.cur, fun n hn => (h'.others n (h.cur ▸ hn)).trans (h.others n hn)⟩
theorem OthersKept.of_warps {s t : State} (hcur : t.cur = s.cur) (hwarps : t.warps = s.warps) : OthersKept s t :=
  ⟨hcur, fun n _ => by rw [State.warp, State.warp, hwarps]⟩
theorem OthersKept.upd (s : State) (f : Warp → Warp) : OthersKept s (s.upd f) := ⟨rfl, fun _ hn => State.warp_upd_ne _ _ _ hn⟩
theorem OthersKept.setRegion (s : State) (k : Nat) (r : Region) : OthersKept s (s.setRegion k r) := OthersKept.of_warps rfl rfl
theorem OthersKept.setPort (s : State) (k p : Nat) (x : Port) : OthersKept s (s.setPort k p x) := OthersKept.of_warps rfl rfl
theorem OthersKept.foldl {α : Type} (f : State → α → State) (hf : ∀ s x, OthersKept s (f s x)) (l : List α) (s : State) :
    OthersKept s (l.foldl f s) := by
  induction l generalizing s with
  | nil => exact OthersKept.refl s
  | cons x l ih => exact (hf s x).trans (ih _)
/-- What warp `k` does as if it were the executing one. -/
theorem OthersKept.at {s : State} {k : Nat} {f : State → State} (h : OthersKept { s with cur := k } (f { s with cur := k })) (n : Nat)
    (hn : n ≠ k) : (s.at k f).warp n = s.warp n := h.others n hn

/-! #### Staged loops (R284 to R288) -/

theorem OthersKept.schedOut (s : State) (sched : Option (Nat × Nat)) (code : Cause) : OthersKept s (s.schedOut sched code) := by
  unfold State.schedOut
  split
  · exact OthersKept.refl s
  · dsimp only
    split
    · exact OthersKept.refl s
    · exact OthersKept.of_warps rfl rfl
theorem OthersKept.hardIssue (s : State) (k : Nat) (r : Region) (c : Nat × Nat × Nat) : OthersKept s (s.hardIssue k r c) := by
  unfold State.hardIssue
  split
  · exact OthersKept.schedOut _ _ _
  · dsimp only
    split
    · exact OthersKept.schedOut _ _ _
    · exact OthersKept.of_warps rfl rfl
theorem OthersKept.endRegion (s : State) (k : Nat) : OthersKept s (s.endRegion k) := by
  unfold State.endRegion
  dsimp only
  split
  · exact (OthersKept.setRegion s k {}).trans (OthersKept.foldl _ (fun s _ => OthersKept.setPort s _ _ _) _ _)
  · exact OthersKept.refl s
theorem OthersKept.enterOne {s t : State} {k : Nat} (h : s.enterOne k = some t) : OthersKept s t := by
  unfold State.enterOne at h
  dsimp only at h
  split at h
  · cases h
  · split at h <;> cases h
    exact ((OthersKept.setRegion _ _ _).trans (OthersKept.hardIssue _ _ _ _)).trans (OthersKept.endRegion _ _)
theorem OthersKept.enterAll (s : State) (k n : Nat) : OthersKept s (s.enterAll k n) := by
  induction n generalizing s with
  | zero => exact OthersKept.refl s
  | succ n ih =>
    unfold State.enterAll
    split
    · exact OthersKept.refl s
    · next t ht => exact (OthersKept.enterOne ht).trans (ih t)
theorem OthersKept.retireIter (s : State) (k j : Nat) : OthersKept s (s.retireIter k j) :=
  ((OthersKept.setRegion s _ _).trans (OthersKept.setRegion _ _ _)).trans (OthersKept.enterAll _ _ _)
theorem OthersKept.leaveRegion (s : State) (k x : Nat) : OthersKept s (s.leaveRegion k x) := by
  unfold State.leaveRegion
  dsimp only
  split
  · exact OthersKept.refl s
  · exact (OthersKept.setRegion _ _ _).trans (OthersKept.endRegion _ _)
/-- What a Retiring warp owes its region it does itself. -/
theorem OthersKept.retireMember (s : State) : OthersKept s s.retireMember := by
  have leave : ∀ (u : State) (l : List (Nat × Region)),
      OthersKept u ((l.foldl (fun s e => s.leaveRegion e.1 s.cur) u).upd (fun w => { w with member := none, reason := 0 })) :=
    fun u l => (OthersKept.foldl _ (fun s e => OthersKept.leaveRegion s e.1 s.cur) l u).trans (OthersKept.upd _ _)
  unfold State.retireMember
  dsimp only
  split
  · exact OthersKept.upd _ _
  split
  · exact leave s _
  split
  · exact leave s _
  split
  · exact OthersKept.upd _ _
  split
  · exact OthersKept.upd _ _
  · exact ((OthersKept.retireIter s _ _).trans (OthersKept.upd _ _)).trans (leave _ _)

/-! #### The end of a transaction and of a snapshot (R296, R304) -/

theorem OthersKept.releaseSnap (s : State) : OthersKept s s.releaseSnap := by
  unfold State.releaseSnap
  split
  · exact OthersKept.refl s
  · exact OthersKept.trans (t := s.dropShare _ _) (OthersKept.of_warps rfl rfl) (OthersKept.upd _ _)
theorem OthersKept.endTx (s : State) (st : TxState) (code : BitVec 6) : OthersKept s (s.endTx st code) :=
  (OthersKept.releaseSnap s).trans (OthersKept.upd _ _)
@[simp] theorem State.chains_releaseSnap (s : State) : s.releaseSnap.chains = s.chains := by
  unfold State.releaseSnap
  split <;> rfl
@[simp] theorem State.chains_endTx (s : State) (st : TxState) (code : BitVec 6) : (s.endTx st code).chains = s.chains :=
  s.chains_releaseSnap
/-- No line keeps a tentative version of an owner whose versions were dropped. -/
theorem State.dropTentative_none (s : State) (o : Nat) (b : List Byte) : ∀ e ∈ (s.dropTentative o).chains, e.2.tentative ≠ some (o, b) := by
  intro e he
  obtain ⟨⟨n, c⟩, -, rfl⟩ := List.mem_map.1 (List.mem_filter.1 he).1
  dsimp only
  split
  · split
    · simp
    · next hc hne => rw [hc]; simp [hne]
  · next hc => simp [hc]

end Sys2Proof.Machine
end

section
/-! ### Retirement of a warp (R134, R284) -/
namespace Sys2Proof.Machine

/-- The transaction of warp `k`, if it is in one, is aborted. -/
def State.abortFor (s : State) (k : Nat) : State :=
  if (s.warp k).inTx = true then (s.dropTentative (ownerOf (s.warp k).ctx k)).at k (fun t =>
    t.endTx .aborted (if (s.warp k).txState = .active then 7 else (s.warp k).txCode)) else s
theorem State.warp_abortFor (s : State) (k n : Nat) (hn : n ≠ k) : (s.abortFor k).warp n = s.warp n := by
  unfold State.abortFor
  split
  · exact OthersKept.at (s := s.dropTentative _) (OthersKept.endTx _ _ _) n hn
  · rfl
theorem State.chains_at (s : State) (k : Nat) (f : State → State) : (s.at k f).chains = (f { s with cur := k }).chains := rfl
theorem State.chains_abortFor (s : State) (k : Nat) (b : List Byte) (h : (s.warp k).txState = .active) :
    ∀ e ∈ (s.abortFor k).chains, e.2.tentative ≠ some (ownerOf (s.warp k).ctx k, b) := by
  have hin : (s.warp k).inTx = true := by simp [Warp.inTx, h]
  intro e he
  rw [State.abortFor, if_pos hin, State.chains_at, State.chains_endTx] at he
  exact s.dropTentative_none _ b e he
theorem State.cur_abortFor (s : State) (k : Nat) : (s.abortFor k).cur = s.cur := by
  unfold State.abortFor
  split <;> rfl
/-- Warp `k` without a transaction, a snapshot entry and a place before a pool. -/
def State.bared (s : State) (k : Nat) : State :=
  ((s.abortFor k).at k (fun t => t.releaseSnap)).leavePool (ownerOf (s.warp k).ctx k)
theorem State.retireWarp_eq (s : State) (k : Nat) : ∃ c, s.retireWarp k = ((s.bared k).setCore (coreOf k) c).setWarp k {} := ⟨_, rfl⟩
theorem State.warp_bared (s : State) (k n : Nat) (hn : n ≠ k) : (s.bared k).warp n = s.warp n :=
  (OthersKept.at (s := s.abortFor k) (OthersKept.releaseSnap _) n hn).trans (s.warp_abortFor k n hn)
theorem State.chains_bared (s : State) (k : Nat) : (s.bared k).chains = (s.abortFor k).chains :=
  State.chains_releaseSnap { s.abortFor k with cur := k }
theorem State.cur_bared (s : State) (k : Nat) : (s.bared k).cur = s.cur := s.cur_abortFor k
theorem State.warp_setCore (s : State) (k n : Nat) (c : Core) : (s.setCore k c).warp n = s.warp n := rfl

/-- A Retired warp's slot is empty; other warps, and what else it has not left, are as they were. -/
theorem State.retireWarp_keeps (s : State) (k : Nat) : (s.retireWarp k).warp k = {} ∧
    (∀ n, n ≠ k → (s.retireWarp k).warp n = s.warp n) ∧ (s.retireWarp k).cur = s.cur ∧ (s.retireWarp k).chains = (s.abortFor k).chains := by
  obtain ⟨c, hc⟩ := s.retireWarp_eq k
  rw [hc]
  refine ⟨State.warp_setWarp_same _ _ _, fun n hn => ?_, s.cur_bared k, s.chains_bared k⟩
  rw [State.warp_setWarp, if_neg hn, State.warp_setCore, s.warp_bared k n hn]

/-- Nothing that warp `k` has asked for is left to come, and no copy of it is queued. -/
def State.retires (s : State) (k : Nat) : Prop :=
  (s.warp k).pending = [] ∧ s.openOps k = [] ∧ s.copiesQueued k = false
theorem State.openOps_eq_nil (s : State) (k : Nat) :
    s.openOps k = [] ↔ ∀ r ∈ s.remotes, r.warp = k → r.ctx = (s.warp k).ctx → r.copy ≠ none := by
  simp [State.openOps, List.filter_eq_nil_iff]

section
variable {s : State} {k : Nat}
/-- A warp that does not wait for room in a held list retires once nothing of it is left to come. -/
theorem execWarpRetire_eq (h : ¬((s.warp k).stat = .retiring ∧ (s.warp k).reason = 12)) : execWarpRetire k s =
    if (s.warp k).stat = .retiring ∧ (s.warp k).reason = 0 ∧ (s.warp k).pending = [] ∧ s.openOps k = [] ∧ s.copiesQueued k = false then
      .next (s.retireWarp k) else .next s := by
  simp only [execWarpRetire, if_neg h]
theorem execWarpRetire_live (h : (s.warp k).stat ≠ .retiring) : execWarpRetire k s = .next s := by
  rw [execWarpRetire_eq fun hc => h hc.1, if_neg fun hc => h hc.1]
theorem execWarpRetire_waits (hr : (s.warp k).reason = 0) (h : ¬s.retires k) : execWarpRetire k s = .next s := by
  rw [execWarpRetire_eq (by simp [hr]), if_neg fun hc => h hc.2.2]
theorem execWarpRetire_retires (hs : (s.warp k).stat = .retiring) (hr : (s.warp k).reason = 0) (h : s.retires k) :
    execWarpRetire k s = .next (s.retireWarp k) := by
  rw [execWarpRetire_eq (by simp [hr]), if_pos ⟨hs, hr, h⟩]
theorem execWarpRetire_member (hs : (s.warp k).stat = .retiring) (hr : (s.warp k).reason = 12) :
    ∃ u, execWarpRetire k s = .next u ∧ ∀ n, n ≠ k → u.warp n = s.warp n := by
  have hm : ∀ n, n ≠ k → (s.at k State.retireMember).warp n = s.warp n := OthersKept.at (OthersKept.retireMember _)
  simp only [execWarpRetire, if_pos (show _ ∧ _ from ⟨hs, hr⟩)]
  split
  · exact ⟨_, rfl, fun n hn => ((State.retireWarp_keeps _ _).2.1 n hn).trans (hm n hn)⟩
  · exact ⟨_, rfl, hm⟩
end

end Sys2Proof.Machine
end

section
/-! ### POSTW (R316) -/
namespace Sys2Proof.Machine

theorem combine_or (a b : DWord) : combine 0 a b = a ||| b := rfl
theorem combine_max (a b : DWord) : combine 1 a b = BitVec.ofNat 64 (max a.toNat b.toNat) := by
  show (if a.toNat < b.toNat then b else a) = _
  split
  · rw [max_eq_right (by omega), BitVec.ofNat_toNat, BitVec.setWidth_eq]
  · rw [max_eq_left (by omega), BitVec.ofNat_toNat, BitVec.setWidth_eq]
theorem combine_add (n : Nat) (a b : DWord) : combine (n + 2) a b = a + b := rfl

theorem execPostw_idle {i : HA} {s : State} (h : s.w.parts i.h = 0) :
    WarpStep (execPostw i s) s s.w (s.w.pc + 8) i.h.sw := by
  have hp : execPostw i s = .next (s.retire 8 i.h.sw) := if_pos (by simp [Warp.any, h])
  rw [hp]
  exact warpStep_retire s 8 i.h.sw
/-- The state with the scalar of a POSTW in RESULT of its launch. -/
def State.posted (s : State) (i : HA) : State :=
  { s with launches := s.launches.map (fun (l : Launch) =>
    if l.id = s.myTeam.launch then { l with result := combine l.comb l.result (s.w.s i.a.toNat) } else l) }
theorem execPostw_posts {i : HA} {s : State} (h : s.w.parts i.h ≠ 0) : execPostw i s = .next ((s.posted i).retire 8 i.h.sw) :=
  if_neg (by simpa [Warp.any] using h)

end Sys2Proof.Machine
end

section
/-! ### The words of a run of memory -/
namespace Sys2Proof.Machine

theorem Tab.setRun_append {α : Type} [DecidableEq α] (d : α) (xs ys : List α) (t : Tab α) (n : Nat) :
    Tab.setRun d t n (xs ++ ys) = Tab.setRun d (Tab.setRun d t n xs) (n + xs.length) ys := by
  induction xs generalizing t n with
  | nil => rfl
  | cons x xs ih => rw [List.cons_append, Tab.setRun, ih, Tab.setRun, List.length_cons, Nat.add_right_comm n 1, Nat.add_assoc]
theorem natLE_bytesLE (n v : Nat) : natLE (bytesLE n v) = v % 256 ^ n := by
  induction n generalizing v with
  | zero => rw [Nat.pow_zero, Nat.mod_one]; rfl
  | succ n ih =>
    refine (congrArg₂ (· + 256 * ·) (BitVec.toNat_ofNat _ 8) (ih _)).trans ?_
    rw [show 256 ^ (n + 1) = 256 * 256 ^ n from Nat.pow_succ', Nat.mod_mul]
/-- The `n`-th word of a run of words. -/
theorem take_drop_words (ws : List Nat) (n : Nat) (h : n < ws.length) :
    ((ws.flatMap (bytesLE 8)).drop (8 * n)).take 8 = bytesLE 8 ws[n] := by
  induction ws generalizing n with
  | nil => cases h
  | cons w ws ih =>
    rw [List.flatMap_cons]
    cases n with
    | zero => exact List.take_left' (length_bytesLE 8 w)
    | succ n =>
      rw [Nat.mul_succ, Nat.add_comm (8 * n) 8, ← List.drop_drop, List.drop_left' (length_bytesLE 8 w)]
      exact ih n (Nat.lt_of_succ_lt_succ h)
theorem length_words (ws : List Nat) : (ws.flatMap (bytesLE 8)).length = 8 * ws.length := by
  induction ws with
  | nil => rfl
  | cons w ws ih => rw [List.flatMap_cons, List.length_append, ih, length_bytesLE, List.length_cons, Nat.mul_succ, Nat.add_comm]
theorem State.dword_setBytes (s : State) (a : Nat) (ws : List Nat) (n : Nat) (h : n < ws.length) :
    (s.setBytes a (ws.flatMap (bytesLE 8))).dword (a + 8 * n) = BitVec.ofNat 64 ws[n] := by
  have hrun := s.bytes_setBytes a (ws.flatMap (bytesLE 8))
  rw [length_words] at hrun
  rw [State.dword, State.num, ← State.take_drop_bytes _ a (8 * ws.length) (8 * n) 8 (by omega), hrun, take_drop_words ws n h, natLE_bytesLE]
  exact BitVec.eq_of_toNat_eq (by simp [BitVec.toNat_ofNat])

end Sys2Proof.Machine
end

section
/-! ### Writes of the sequencer (R317, R356) -/
namespace Sys2Proof.Machine

/-- From `s` to `t` no warp, core or launch and not the package's number changes, and the packets that were leaving still leave. -/
structure SeqKept (s t : State) : Prop where
  warps : t.warps = s.warps
  cores : t.cores = s.cores
  launches : t.launches = s.launches
  peer : t.peer = s.peer
  out : s.out <+: t.out

theorem SeqKept.refl (s : State) : SeqKept s s := ⟨rfl, rfl, rfl, rfl, List.prefix_rfl⟩
theorem SeqKept.trans {s t u : State} (h : SeqKept s t) (h' : SeqKept t u) : SeqKept s u :=
  ⟨h'.warps.trans h.warps, h'.cores.trans h.cores, h'.launches.trans h.launches, h'.peer.trans h.peer, h.out.trans h'.out⟩
theorem SeqKept.foldl {α : Type} (f : State → α → State) (hf : ∀ s x, SeqKept s (f s x)) (l : List α) (s : State) :
    SeqKept s (l.foldl f s) := by
  induction l generalizing s with
  | nil => exact SeqKept.refl s
  | cons x l ih => exact (hf s x).trans (ih _)
theorem SeqKept.touch (s : State) (c : CtxId) (a n : Nat) : SeqKept s (s.touch c a n) := by
  unfold State.touch
  split
  · exact SeqKept.refl s
  · exact ⟨rfl, rfl, rfl, rfl, List.prefix_rfl⟩
theorem SeqKept.cache (s : State) (c : CtxId) (die : Nat) (va : DWord) (t : Trans) : SeqKept s (s.cache c die va t) := by
  unfold State.cache
  dsimp only
  split <;> split <;> exact ⟨rfl, rfl, rfl, rfl, List.prefix_rfl⟩
theorem SeqKept.seqStore (s : State) (c : CtxId) (dst : Peer) (ws : List (Nat × Byte)) : SeqKept s (s.seqStore c dst ws) :=
  ⟨rfl, rfl, rfl, rfl, List.prefix_append _ _⟩
theorem SeqKept.store (s : State) (c : CtxId) (a n : Nat) (bs : List Byte) :
    SeqKept s (((s.touch c a n).setBytes a bs).endLeases a n) :=
  (SeqKept.touch s c a n).trans ⟨rfl, rfl, rfl, rfl, List.prefix_rfl⟩
theorem SeqKept.seqWrite (s v : State) (c : CtxId) (va : DWord) (bs : List Byte) : SeqKept s (s.seqWrite v c va bs) := by
  refine SeqKept.foldl _ (fun u p => ?_) _ s
  dsimp only
  split
  · exact SeqKept.refl u
  · split
    · exact (SeqKept.cache _ _ _ _ _).trans (SeqKept.seqStore _ _ _ _)
    · exact SeqKept.store _ _ _ _ _

/-- A write within a page. -/
theorem partsOf_within {va : DWord} {n : Nat} (h : va.toNat % 4096 + n ≤ 4096) : partsOf va n = [⟨va, 0, n⟩] :=
  if_pos (by omega)
/-- A write within a page of this package writes its bytes there. -/
theorem State.mem_seqWrite_own (s v : State) {c : CtxId} {va : DWord} {bs : List Byte} {t : Trans}
    (hroom : va.toNat % 4096 + bs.length ≤ 4096) (ht : v.seqTrans c wantW va = some t) (hown : t.peer = s.peer) :
    (s.seqWrite v c va bs).mem = Tab.setRun 0 s.mem (t.addr va) bs := by
  have haway : s.away t = false := by simp [State.away, hown]
  rw [State.seqWrite, partsOf_within hroom, List.foldl_cons, List.foldl_nil, ht]
  simp only [haway, Bool.false_eq_true, if_false, List.drop_zero, List.take_length]
  rw [State.mem_endLeases, State.setBytes, State.mem_touch]

end Sys2Proof.Machine
end

section
/-! ### The end of a launch (R317, R318) -/
namespace Sys2Proof.Machine

/-! #### Lists with one launch of a number -/

theorem map_at {α : Type} (p : α → Prop) [DecidablePred p] (f : α → α) (xs ys : List α) (x : α) (hx : p x)
    (h : ∀ y ∈ xs ++ ys, ¬p y) : (xs ++ x :: ys).map (fun y => if p y then f y else y) = xs ++ f x :: ys := by
  have hsame : ∀ zs : List α, (∀ z ∈ zs, ¬p z) → zs.map (fun y => if p y then f y else y) = zs := fun zs hz =>
    (List.map_congr_left fun z hm => if_neg (hz z hm)).trans (List.map_id' zs)
  rw [List.map_append, List.map_cons, hsame xs fun z hz => h z (List.mem_append_left _ hz), if_pos hx,
    hsame ys fun z hz => h z (List.mem_append_right _ hz)]
theorem filter_at {α : Type} (p : α → Bool) (xs ys : List α) (x : α) (hx : p x = false) (h : ∀ y ∈ xs ++ ys, p y = true) :
    (xs ++ x :: ys).filter p = xs ++ ys := by
  rw [List.filter_append, List.filter_cons_of_neg (by simp [hx]), ← List.filter_append, List.filter_eq_self.2 h]
theorem find?_at {α : Type} (p : α → Bool) (xs ys : List α) (x : α) (hx : p x = true) (h : ∀ y ∈ xs, p y = false) :
    (xs ++ x :: ys).find? p = some x :=
  List.find?_eq_some_iff_append.2 ⟨hx, xs, ys, rfl, fun y hy => by simp [h y hy]⟩

/-! #### The successor (R318) -/

/-- Successor `j` of a launch is there, and its range holds `r`. -/
def Launch.holds (l : Launch) (r : DWord) (j : Nat) : Prop :=
  j < min l.nsucc 4 ∧ l.num (0xA0 + 24 * j) 8 ≤ r.toNat ∧ r.toNat ≤ l.num (0xA8 + 24 * j) 8
theorem Launch.successor_eq_some (l : Launch) (r : DWord) (j : Nat) :
    l.successor r = some j ↔ l.holds r j ∧ ∀ i, i < j → ¬l.holds r i := by
  rw [Launch.successor, List.find?_range_eq_some]
  simp only [Launch.holds, List.mem_range, Bool.and_eq_true, decide_eq_true_eq, Bool.not_eq_true', ← Bool.not_eq_true]
  constructor
  · rintro ⟨hp, hj, hall⟩
    exact ⟨⟨hj, hp⟩, fun i hi hold => hall i hi hold.2⟩
  · rintro ⟨⟨hj, hp⟩, hall⟩
    exact ⟨hp, hj, fun i hi hold => hall i hi ⟨hi.trans hj, hold⟩⟩
theorem Launch.successor_eq_none (l : Launch) (r : DWord) : l.successor r = none ↔ ∀ j, ¬l.holds r j := by
  simp only [Launch.successor, List.find?_eq_none, Launch.holds, List.mem_range, Bool.and_eq_true, decide_eq_true_eq, not_and]

/-! #### The completion block (R317) -/

/-- The eight words of a completion block; STATUS is the last. -/
def State.blockWords (s : State) (l : Launch) (r : DWord) : List Nat :=
  [r.toNat, nsOf l.ft0 l.ft1, nsOf l.ft1 l.ft2 + l.part2, l.part3, l.part4, l.part5, s.now.toNat,
    1 + ((l.successor r).map (fun j => 4 + 8 * j)).getD 0]
/-- The state with the completion block written where all of it can be. -/
def State.withBlock (s : State) (l : Launch) (r : DWord) : State :=
  if s.seqWritable l.ctx (l.recva + 0x100) 64 then
    (s.seqWrite s l.ctx (l.recva + 0x100) (((s.blockWords l r).take 7).flatMap (bytesLE 8))).seqWrite s l.ctx (l.recva + 0x138)
      (((s.blockWords l r).drop 7).flatMap (bytesLE 8))
  else s
/-- The state without a launch, its cached lines and its frames. -/
def State.without (t : State) (l : Launch) : State :=
  { t with
    cores := Tab.map (fun _ (x : Core) => { x with icache := x.icache.filter (fun e => e.2.1 != l.id) }) t.cores
    launches := t.launches.filter (fun x => x.id != l.id)
    frames := l.otherRanks.foldl (fun fs k => match fs.findIdx? (t.isResult l k) with
      | some i => fs.eraseIdx i
      | none => fs) t.frames }
theorem State.finishLaunch_none {s : State} {l : Launch} {r : DWord} (h : l.successor r = none) :
    s.finishLaunch l r = (s.withBlock l r).without l := by
  unfold State.finishLaunch State.withBlock State.blockWords
  simp only [h, List.take, List.drop, List.flatMap_cons, List.flatMap_nil, List.append_nil, List.append_assoc]
  rfl
theorem State.finishLaunch_some {s : State} {l : Launch} {r : DWord} {j : Nat} (h : l.successor r = some j) :
    s.finishLaunch l r = ((s.withBlock l r).without l).submit l.ctx (BitVec.ofNat 64 (l.num (0xB0 + 24 * j) 8)) l.prank l.pcnt s.now s.now := by
  unfold State.finishLaunch State.withBlock State.blockWords
  simp only [h, List.take, List.drop, List.flatMap_cons, List.flatMap_nil, List.append_nil, List.append_assoc]
  rfl

theorem SeqKept.withBlock (s : State) (l : Launch) (r : DWord) : SeqKept s (s.withBlock l r) := by
  unfold State.withBlock
  split
  · exact (SeqKept.seqWrite _ _ _ _ _).trans (SeqKept.seqWrite _ _ _ _ _)
  · exact SeqKept.refl s
theorem State.core_without (t : State) (l : Launch) (k : Nat) :
    { (t.without l).core k with icache := [] } = { t.core k with icache := [] } := by
  rw [State.core, State.without, Tab.get_map _ _ fun _ => rfl]
  rfl
theorem State.launches_submit {s : State} (c : CtxId) (recva : DWord) (prank pcnt : Nat) (ft0 ft1 : DWord)
    (h : s.queuedLaunches.length < 64) : ∃ x, (s.submit c recva prank pcnt ft0 ft1).launches = s.launches ++ [x] ∧ x.state = .queued ∧
      x.ctx = c ∧ x.recva = recva ∧ x.prank = prank ∧ x.pcnt = pcnt ∧ x.ft0 = ft0 ∧ x.ft1 = ft1 := by
  rw [State.submit, if_neg (by omega)]
  exact ⟨_, rfl, rfl, rfl, rfl, rfl, rfl, rfl, rfl⟩

/-- A completion block within one page of this package is written there, word by word. -/
theorem State.mem_withBlock {s : State} {l : Launch} {t : Trans} (r : DWord) (hal : l.recva.toNat % 64 = 0)
    (ht : s.seqTrans l.ctx wantW (l.recva + 0x100) = some t) (hv : t.vers = false) (hp : t.peer = s.peer)
    (ht' : s.seqTrans l.ctx wantW (l.recva + 0x138) = some t) :
    (s.withBlock l r).mem = (s.setBytes (t.addr (l.recva + 0x100)) ((s.blockWords l r).flatMap (bytesLE 8))).mem := by
  have h1 : (l.recva + 0x100).toNat % 64 = 0 := by rw [BitVec.toNat_add]; simp; omega
  have h2 : (l.recva + 0x138).toNat % 4096 = (l.recva + 0x100).toNat % 4096 + 56 := by
    rw [BitVec.toNat_add, BitVec.toNat_add]; simp; omega
  have hwr : s.seqWritable l.ctx (l.recva + 0x100) 64 = true := by
    rw [State.seqWritable, partsOf_within (by omega)]
    simp only [List.all_cons, List.all_nil, ht, Option.any_some, hv]
    rfl
  have hlen : (((s.blockWords l r).take 7).flatMap (bytesLE 8)).length = 56 := by rw [length_words]; rfl
  have hlen' : (((s.blockWords l r).drop 7).flatMap (bytesLE 8)).length = 8 := by rw [length_words]; rfl
  have hroom : (l.recva + 0x100).toNat % 4096 + (((s.blockWords l r).take 7).flatMap (bytesLE 8)).length ≤ 4096 := by omega
  have hat : t.addr (l.recva + 0x138) = t.addr (l.recva + 0x100) + (((s.blockWords l r).take 7).flatMap (bytesLE 8)).length := by
    rw [Trans.addr, Trans.addr, hlen]
    omega
  rw [State.withBlock, if_pos hwr, State.mem_seqWrite_own _ s (by omega) ht' (hp.trans (SeqKept.seqWrite s s _ _ _).peer.symm),
    State.mem_seqWrite_own s s hroom ht hp, hat, ← Tab.setRun_append, ← List.flatMap_append, List.take_append_drop]
  rfl

end Sys2Proof.Machine
end

section
/-! ### What translations depend on (R157 to R165) -/
namespace Sys2Proof.Machine

/-- The two states agree in what a translation reads. -/
structure SameMaps (s t : State) : Prop where
  mem : t.mem = s.mem
  peer : t.peer = s.peer
  clearing : t.clearing = s.clearing
  ctxs : t.ctxs = s.ctxs
  tlb : t.tlb = s.tlb
  ticks : t.ticks = s.ticks
  pins : t.w.pins = s.w.pins
  win : t.win = s.win

theorem SameMaps.refl (s : State) : SameMaps s s := ⟨rfl, rfl, rfl, rfl, rfl, rfl, rfl, rfl⟩
section
variable {s t : State} (h : SameMaps s t)
include h
theorem SameMaps.num (a n : Nat) : t.num a n = s.num a n := by rw [State.num, State.num, State.bytes, State.bytes, h.mem]
theorem SameMaps.dword (a : Nat) : t.dword a = s.dword a := by rw [State.dword, State.dword, h.num]
theorem SameMaps.ctx (c : CtxId) : t.ctx c = s.ctx c := by rw [State.ctx, State.ctx, h.ctxs]
theorem SameMaps.attrCheck (die : Nat) (e : DWord) (target : Nat) : t.attrCheck die e target = s.attrCheck die e target := by
  rw [State.attrCheck, State.attrCheck, h.peer, h.clearing]
theorem SameMaps.ranges (table die va n i : Nat) : t.ranges table die va n i = s.ranges table die va n i := by
  induction n generalizing i with
  | zero => rfl
  | succ n ih => simp only [State.ranges, State.rangeCheck, h.dword, h.attrCheck, ih]
theorem SameMaps.walk (die va n table : Nat) : t.walk die va n table = s.walk die va n table := by
  induction n generalizing table with
  | zero => rfl
  | succ n ih => simp only [State.walk, State.leaf, h.dword, h.attrCheck, ih]
theorem SameMaps.lookup (c : CtxId) (die i : Nat) (va : DWord) : t.lookup c die i va = s.lookup c die i va := by
  simp only [State.lookup, State.fresh, State.freshBy, State.cached, h.pins, h.tlb, h.ticks, h.peer, h.clearing, h.ctx, h.ranges, h.walk]
theorem SameMaps.translate (c : CtxId) (die : Nat) (want : Want) (i : Nat) (va : DWord) :
    t.translate c die want i va = s.translate c die want i va := by rw [State.translate, State.translate, h.lookup]
theorem SameMaps.descAddr (c : CtxId) : t.descAddr c = s.descAddr c := by
  rw [State.descAddr, State.descAddr, State.reg, State.reg, h.win]
theorem SameMaps.setCtx (c : CtxId) (x : Ctx) : SameMaps (s.setCtx c x) (t.setCtx c x) :=
  ⟨h.mem, h.peer, h.clearing, by rw [State.setCtx, State.setCtx, h.ctxs], h.tlb, h.ticks, h.pins, h.win⟩
theorem SameMaps.withDesc (c : CtxId) : SameMaps (s.withDesc c) (t.withDesc c) := by
  unfold State.withDesc
  simp only [h.ctx, h.descAddr, h.dword, h.num]
  split
  · exact h
  · exact h
  · exact h
  all_goals exact h.setCtx _ _
end

end Sys2Proof.Machine
end

section
/-! ### LAUNCH_COMPLETE (R317) -/
namespace Sys2Proof.Machine

/-- The frames by which a launch that has ended here tells the other packages its RESULT. -/
def State.resultFrames (s : State) (l : Launch) : List Packet :=
  if l.pcnt ≤ 1 ∨ l.state ≠ .running then [] else (s.clearing.filter (fun p => p != s.peer)).map (fun p =>
    ⟨p, l.ctx, s.genNow l.ctx, none, false, 0, .result l.recva l.prank l.result, none⟩)
/-- A launch that has told its RESULT. -/
def Launch.told (l : Launch) : Launch := { l with state := if l.state = .running then .ended else l.state }
/-- The state in which a launch has told its RESULT. -/
def State.told (s : State) (l : Launch) : State := if l.state = .running then s.sendResult l else s
/-- Whether launch `l` has ended on this package. -/
def State.endedHere (s : State) (l : Launch) : Prop :=
  l.num 8 8 ≤ l.nextCohort ∧ s.imageBusy l = false ∧ (∀ r ∈ s.remotes, r.warp = seqWarp ∨ r.launch ≠ l.id) ∧
    ∀ c ∈ s.cohorts, c.2.used = true → c.2.launch ≠ l.id
/-- Whether a frame holds RESULT of rank `r` of launch `l`. -/
def State.isHere (s : State) (l : Launch) (r : Nat) (f : ResultFrame) : Prop :=
  f.ctx = l.ctx ∧ f.gen = s.genNow l.ctx ∧ f.recva = l.recva ∧ f.rank = r

theorem State.launchOver_iff (s : State) (l : Launch) : s.launchOver l = true ↔ s.endedHere l := by
  have hcohorts : (s.cohorts.all (fun e => !(e.2.used && e.2.launch == l.id))) = true ↔
      ∀ c ∈ s.cohorts, c.2.used = true → c.2.launch ≠ l.id := by
    rw [List.all_eq_true]
    exact forall₂_congr fun c _ => by cases c.2.used <;> simp
  have hremotes : (s.remotes.all (fun r => r.warp == seqWarp || r.launch != l.id)) = true ↔
      ∀ r ∈ s.remotes, r.warp = seqWarp ∨ r.launch ≠ l.id := by
    rw [List.all_eq_true]
    exact forall₂_congr fun r _ => by rw [Bool.or_eq_true, beq_iff_eq, bne_iff_ne]
  rw [State.launchOver, Bool.and_eq_true, Bool.and_eq_true, Bool.and_eq_true, hcohorts, hremotes, decide_eq_true_eq, Bool.not_eq_true',
    and_assoc, and_assoc, and_comm (a := ∀ c ∈ s.cohorts, _)]
  rfl
theorem State.isResult_iff (s : State) (l : Launch) (r : Nat) (f : ResultFrame) : s.isResult l r f = true ↔ s.isHere l r f := by
  simp only [State.isResult, State.isHere, Bool.and_eq_true, beq_iff_eq, and_assoc]
theorem State.rankResult_missing {s : State} {l : Launch} {r : Nat} (h : ∀ f ∈ s.frames, ¬s.isHere l r f) : s.rankResult l r = none := by
  rw [State.rankResult, Option.map_eq_none_iff, List.find?_eq_none]
  exact fun f hf hr => h f hf ((s.isResult_iff l r f).1 hr)
theorem State.rankResult_here {s : State} {l : Launch} {r : Nat} {v : DWord} (h : ∃ f ∈ s.frames, s.isHere l r f)
    (hv : ∀ f ∈ s.frames, s.isHere l r f → f.result = v) : s.rankResult l r = some v := by
  obtain ⟨f, hf, hr⟩ := h
  obtain ⟨g, hg⟩ := Option.isSome_iff_exists.1 (List.find?_isSome.2 ⟨f, hf, (s.isResult_iff l r f).2 hr⟩)
  rw [State.rankResult, hg, Option.map_some, hv g (List.mem_of_find?_eq_some hg) ((s.isResult_iff l r g).1 (List.find?_some hg))]

section
variable {s : State} {l : Launch} {xs ys : List Launch}
theorem State.told_eq (hl : s.launches = xs ++ l :: ys) (hids : ∀ x ∈ xs ++ ys, x.id ≠ l.id) :
    s.told l = { s with launches := xs ++ l.told :: ys, out := s.out ++ s.resultFrames l } := by
  unfold State.told
  split
  · next hr =>
    rw [State.sendResult, hl, map_at (fun x : Launch => x.id = l.id) _ xs ys l rfl hids]
    have hframes : s.resultFrames l = (if l.pcnt ≤ 1 then [] else s.clearing.filter (fun p => p != s.peer)).map (fun p =>
        ⟨p, l.ctx, s.genNow l.ctx, none, false, 0, .result l.recva l.prank l.result, none⟩) := by
      by_cases hp : l.pcnt ≤ 1 <;> simp [State.resultFrames, hr, hp]
    rw [hframes, Launch.told, if_pos hr]
  · next hr =>
    have hkeep : l.told = l := by simp [Launch.told, hr]
    rw [hkeep, ← hl, State.resultFrames, if_pos (Or.inr hr), List.append_nil]
theorem State.told_launches (hl : s.launches = xs ++ l :: ys) (hids : ∀ x ∈ xs ++ ys, x.id ≠ l.id) :
    (s.told l).launches.filter (fun x => x.id != l.id) = xs ++ ys := by
  rw [State.told_eq hl hids]
  exact filter_at _ xs ys l.told (by simp [Launch.told]) fun y hy => by simp [hids y hy]
theorem State.told_out (hl : s.launches = xs ++ l :: ys) (hids : ∀ x ∈ xs ++ ys, x.id ≠ l.id) :
    (s.told l).out = s.out ++ s.resultFrames l := by rw [State.told_eq hl hids]

/-! #### What does not depend on what a launch has told -/

theorem State.warps_told (s : State) (l : Launch) : (s.told l).warps = s.warps := by unfold State.told; split <;> rfl
theorem State.cores_told (s : State) (l : Launch) : (s.told l).cores = s.cores := by unfold State.told; split <;> rfl
theorem State.peer_told (s : State) (l : Launch) : (s.told l).peer = s.peer := by unfold State.told; split <;> rfl
theorem State.mem_told (s : State) (l : Launch) : (s.told l).mem = s.mem := by unfold State.told; split <;> rfl
theorem State.now_told (s : State) (l : Launch) : (s.told l).now = s.now := by unfold State.told; split <;> rfl
theorem SameMaps.told (s : State) (l : Launch) : SameMaps s (s.told l) := by
  unfold State.told
  split
  · exact ⟨rfl, rfl, rfl, rfl, rfl, rfl, rfl, rfl⟩
  · exact SameMaps.refl s
theorem State.seqTrans_told (s : State) (l : Launch) (c : CtxId) (w : Want) (va : DWord) :
    (s.told l).seqTrans c w va = s.seqTrans c w va :=
  congrArg Except.toOption (((SameMaps.told s l).withDesc c).translate ..)
theorem State.rankResult_told (s : State) (l m : Launch) (r : Nat) : (s.told l).rankResult m r = s.rankResult m r := by
  unfold State.told; split <;> rfl

/-! #### The cases -/

theorem execLaunchComplete_unknown {id : Nat} (h : ∀ l ∈ s.launches, l.id ≠ id) : execLaunchComplete id s = .next s := by
  rw [execLaunchComplete, List.find?_eq_none.2 fun l hl => by simp [h l hl]]

variable (hl : s.launches = xs ++ l :: ys) (hids : ∀ x ∈ xs ++ ys, x.id ≠ l.id)
include hl hids
theorem launches_find? : s.launches.find? (fun x => x.id == l.id) = some l := by
  rw [hl]
  exact find?_at _ xs ys l (beq_self_eq_true _) fun y hy => beq_eq_false_iff_ne.2 (hids y (List.mem_append_left _ hy))
theorem execLaunchComplete_waits (h : l.state = .queued ∨ ¬s.endedHere l) : execLaunchComplete l.id s = .next s := by
  rw [← s.launchOver_iff, Bool.not_eq_true] at h
  rw [execLaunchComplete, launches_find? hl hids]
  exact if_pos h
theorem execLaunchComplete_ended (hq : l.state ≠ .queued) (h : s.endedHere l) : execLaunchComplete l.id s =
    if l.otherRanks.all (fun r => (s.rankResult l r).isSome) then
      .next ((s.told l).finishLaunch l (l.otherRanks.foldl (fun v k => combine l.comb v ((s.rankResult l k).getD 0)) l.result))
    else .next (s.told l) := by
  rw [← s.launchOver_iff] at h
  have hcond : ¬(l.state = .queued ∨ s.launchOver l = false) := by simp [hq, h]
  unfold execLaunchComplete
  rw [launches_find? hl hids]
  dsimp only
  rw [if_neg hcond, show (if l.state = .running then s.sendResult l else s) = s.told l from rfl]
  simp only [s.rankResult_told l]
end

end Sys2Proof.Machine
end

section
/-! ### What a completion leaves (R317, R318) -/
namespace Sys2Proof.Machine

theorem State.dword_of_mem {s t : State} (h : t.mem = s.mem) (a : Nat) : t.dword a = s.dword a := by
  rw [State.dword, State.dword, State.num, State.num, State.bytes, State.bytes, h]
theorem State.byte_of_mem {s t : State} (h : t.mem = s.mem) (a : Nat) : t.byte a = s.byte a := by rw [State.byte, State.byte, h]

/-- A submission changes the launches, the next number and the mark of a dropped one alone. -/
theorem State.submit_keeps (s : State) (c : CtxId) (recva : DWord) (prank pcnt : Nat) (ft0 ft1 : DWord) :
    (s.submit c recva prank pcnt ft0 ft1).warps = s.warps ∧ (s.submit c recva prank pcnt ft0 ft1).cores = s.cores ∧
    (s.submit c recva prank pcnt ft0 ft1).out = s.out ∧ (s.submit c recva prank pcnt ft0 ft1).mem = s.mem := by
  unfold State.submit
  split
  · exact ⟨rfl, rfl, rfl, rfl⟩
  · exact ⟨rfl, rfl, rfl, rfl⟩
theorem State.warps_without (s : State) (l : Launch) : (s.without l).warps = s.warps := rfl
theorem State.out_without (s : State) (l : Launch) : (s.without l).out = s.out := rfl
theorem State.mem_without (s : State) (l : Launch) : (s.without l).mem = s.mem := rfl
theorem State.finishLaunch_keeps (s : State) (l : Launch) (r : DWord) :
    (s.finishLaunch l r).warps = s.warps ∧ (s.finishLaunch l r).cores = ((s.withBlock l r).without l).cores ∧
    s.out <+: (s.finishLaunch l r).out ∧ (s.finishLaunch l r).mem = (s.withBlock l r).mem := by
  have hkept := SeqKept.withBlock s l r
  have hout : s.out <+: ((s.withBlock l r).without l).out := by
    rw [State.out_without]
    exact hkept.out
  have hwarps := (State.warps_without (s.withBlock l r) l).trans hkept.warps
  have hmem := State.mem_without (s.withBlock l r) l
  cases hs : l.successor r with
  | none =>
    rw [State.finishLaunch_none hs]
    exact ⟨hwarps, rfl, hout, hmem⟩
  | some j =>
    rw [State.finishLaunch_some hs]
    obtain ⟨hw, hc, ho, hm⟩ := ((s.withBlock l r).without l).submit_keeps l.ctx (BitVec.ofNat 64 (l.num (0xB0 + 24 * j) 8)) l.prank l.pcnt
      s.now s.now
    rw [hw, ho, hm]
    exact ⟨hwarps, hc, hout, hmem⟩
theorem State.core_finishLaunch (s : State) (l : Launch) (r : DWord) (k : Nat) :
    { (s.finishLaunch l r).core k with icache := [] } = { s.core k with icache := [] } := by
  obtain ⟨-, hc, -, -⟩ := s.finishLaunch_keeps l r
  rw [State.core, hc]
  refine (State.core_without (s.withBlock l r) l k).trans ?_
  rw [State.core, (SeqKept.withBlock s l r).cores]
  rfl
theorem State.launches_without (s : State) (l : Launch) (r : DWord) :
    ((s.withBlock l r).without l).launches = s.launches.filter (fun x => x.id != l.id) :=
  congrArg (List.filter fun x : Launch => x.id != l.id) (SeqKept.withBlock s l r).launches

section
variable {s : State} {l : Launch} {xs ys : List Launch} (hl : s.launches = xs ++ l :: ys) (hids : ∀ x ∈ xs ++ ys, x.id ≠ l.id)
include hl hids
theorem launches_closed (r : DWord) : (((s.told l).withBlock l r).without l).launches = xs ++ ys :=
  ((s.told l).launches_without l r).trans (State.told_launches hl hids)
theorem launches_finish_none {r : DWord} (h : ∀ j, ¬l.holds r j) : ((s.told l).finishLaunch l r).launches = xs ++ ys := by
  rw [State.finishLaunch_none ((l.successor_eq_none r).2 h), launches_closed hl hids]
theorem launches_finish_some {r : DWord} {j : Nat} (h : l.holds r j ∧ ∀ i, i < j → ¬l.holds r i)
    (hroom : (State.queuedLaunches { s with launches := xs ++ ys }).length < 64) :
    ∃ x, ((s.told l).finishLaunch l r).launches = xs ++ ys ++ [x] ∧ x.state = .queued ∧ x.ctx = l.ctx ∧
      x.recva = BitVec.ofNat 64 (l.num (0xB0 + 24 * j) 8) ∧ x.prank = l.prank ∧ x.pcnt = l.pcnt ∧ x.ft0 = s.now ∧ x.ft1 = s.now := by
  have hq : (((s.told l).withBlock l r).without l).queuedLaunches.length < 64 := by
    rw [State.queuedLaunches, launches_closed hl hids]
    exact hroom
  rw [State.finishLaunch_some ((l.successor_eq_some r j).2 h), s.now_told l, ← launches_closed hl hids r]
  exact State.launches_submit _ _ _ _ _ _ hq
end

section
variable {s : State} {l : Launch} {t : Trans} (hal : l.recva.toNat % 64 = 0) (ht : s.seqTrans l.ctx wantW (l.recva + 0x100) = some t)
  (hv : t.vers = false) (hp : t.peer = s.peer) (ht' : s.seqTrans l.ctx wantW (l.recva + 0x138) = some t)
include hal ht hv hp ht'
theorem mem_finish (r : DWord) : ((s.told l).finishLaunch l r).mem =
    (s.setBytes (t.addr (l.recva + 0x100)) ((s.blockWords l r).flatMap (bytesLE 8))).mem := by
  obtain ⟨-, -, -, hm⟩ := (s.told l).finishLaunch_keeps l r
  rw [hm, State.mem_withBlock r hal ((s.seqTrans_told l _ _ _).trans ht) hv (hp.trans (s.peer_told l).symm)
    ((s.seqTrans_told l _ _ _).trans ht'), State.setBytes, State.setBytes, s.mem_told l, State.blockWords, State.blockWords, s.now_told l]
theorem dword_finish {r : DWord} {n w : Nat} (hw : (s.blockWords l r)[n]? = some w) :
    ((s.told l).finishLaunch l r).dword (t.addr (l.recva + 0x100) + 8 * n) = BitVec.ofNat 64 w := by
  obtain ⟨hn, rfl⟩ := List.getElem?_eq_some_iff.1 hw
  rw [State.dword_of_mem (mem_finish hal ht hv hp ht' r), State.dword_setBytes _ _ _ n hn]
theorem byte_finish (r : DWord) (a : Nat) (h : a < t.addr (l.recva + 0x100) ∨ t.addr (l.recva + 0x100) + 64 ≤ a) :
    ((s.told l).finishLaunch l r).byte a = s.byte a := by
  rw [State.byte_of_mem (mem_finish hal ht hv hp ht' r), State.byte_setBytes_out]
  rw [length_words]
  exact h
end

/-- STATUS of a launch with successor `j`, and of one without. -/
theorem State.status_some {s : State} {l : Launch} {r : DWord} {j : Nat} (h : l.holds r j ∧ ∀ i, i < j → ¬l.holds r i) :
    (s.blockWords l r)[7]? = some (5 + 8 * j) := by
  show some (1 + ((l.successor r).map (fun j => 4 + 8 * j)).getD 0) = _
  rw [(l.successor_eq_some r j).2 h, Option.map_some, Option.getD_some, ← Nat.add_assoc]
theorem State.status_none {s : State} {l : Launch} {r : DWord} (h : ∀ j, ¬l.holds r j) : (s.blockWords l r)[7]? = some 1 := by
  show some (1 + ((l.successor r).map (fun j => 4 + 8 * j)).getD 0) = _
  rw [(l.successor_eq_none r).2 h]
  rfl

/-! #### RESULT over the ranks -/

/-- RESULT of a launch combined with those of the other ranks. -/
def Launch.combined (l : Launch) (v : Nat → DWord) : DWord := l.otherRanks.foldl (fun x r => combine l.comb x (v r)) l.result

section
variable {s : State} {l : Launch} {xs ys : List Launch} (hl : s.launches = xs ++ l :: ys) (hids : ∀ x ∈ xs ++ ys, x.id ≠ l.id)
include hl hids
theorem execLaunchComplete_tells (hq : l.state ≠ .queued) (h : s.endedHere l)
    (hr : ∃ r ∈ l.otherRanks, ∀ f ∈ s.frames, ¬s.isHere l r f) : execLaunchComplete l.id s = .next (s.told l) := by
  obtain ⟨r, hr, hno⟩ := hr
  rw [execLaunchComplete_ended hl hids hq h]
  refine if_neg fun hall => ?_
  have hsome := List.all_eq_true.1 hall r hr
  rw [State.rankResult_missing hno] at hsome
  cases hsome
theorem execLaunchComplete_finishes (hq : l.state ≠ .queued) (h : s.endedHere l) (v : Nat → DWord)
    (hv : ∀ r ∈ l.otherRanks, (∃ f ∈ s.frames, s.isHere l r f) ∧ ∀ f ∈ s.frames, s.isHere l r f → f.result = v r) :
    execLaunchComplete l.id s = .next ((s.told l).finishLaunch l (l.combined v)) := by
  have hres : ∀ r ∈ l.otherRanks, s.rankResult l r = some (v r) := fun r hr => State.rankResult_here (hv r hr).1 (hv r hr).2
  have hfold : l.otherRanks.foldl (fun x k => combine l.comb x ((s.rankResult l k).getD 0)) l.result = l.combined v :=
    List.foldl_ext _ _ _ fun x r hr => by rw [hres r hr, Option.getD_some]
  rw [execLaunchComplete_ended hl hids hq h, if_pos (List.all_eq_true.2 fun r hr => by rw [hres r hr]; rfl), hfold]
end

end Sys2Proof.Machine
end

section
/-! ### POSTW, retirement and completion -/
namespace Sys2Proof.Machine

/-- COMB of a launch as R316 gives it. -/
def Launch.combs (l : Launch) (a b : DWord) : DWord :=
  match l.num 0x1F 1 / 2 % 4 with
  | 0 => a ||| b
  | 1 => BitVec.ofNat 64 (max a.toNat b.toNat)
  | _ => a + b
theorem Launch.combs_eq (l : Launch) : l.combs = combine l.comb := by
  funext a b
  have hcomb : l.comb = l.num 0x1F 1 / 2 % 4 := rfl
  rw [Launch.combs, hcomb]
  match l.num 0x1F 1 / 2 % 4 with
  | 0 => exact (combine_or a b).symm
  | 1 => exact (combine_max a b).symm
  | n + 2 => exact (combine_add n a b).symm

theorem State.retires_iff (s : State) (k : Nat) : s.retires k ↔ (s.warp k).pending = [] ∧
    (∀ r ∈ s.remotes, r.warp = k → r.ctx = (s.warp k).ctx → r.copy ≠ none) ∧ s.copiesQueued k = false := by
  rw [State.retires, s.openOps_eq_nil]

/-- A launch that has told its RESULT is not queued, and has ended. -/
theorem Launch.told_state {l : Launch} (hq : l.state ≠ .queued) : l.told.state ≠ .queued ∧ (l.state = .running → l.told.state = .ended) := by
  refine ⟨?_, fun hr => if_pos hr⟩
  show (if l.state = .running then LState.ended else l.state) ≠ .queued
  split
  · nofun
  · exact hq

/-- POSTW with a participant completes with its scalar in RESULT. -/
theorem State.posted_retire (s : State) (i : HA) : { (s.posted i).retire 8 i.h.sw with warps := s.warps, launches := s.launches } = s ∧
    (∀ k, k ≠ s.cur → ((s.posted i).retire 8 i.h.sw).warp k = s.warp k) ∧ ((s.posted i).retire 8 i.h.sw).w.body = s.w.body ∧
    ((s.posted i).retire 8 i.h.sw).w.At (s.w.pc + 8) i.h.sw ∧ ((s.posted i).retire 8 i.h.sw).launches = (s.posted i).launches := by
  have hw : ((s.posted i).retire 8 i.h.sw).w = s.w.retire 8 i.h.sw := State.w_upd _ _
  rw [hw]
  exact ⟨rfl, fun k hk => State.warp_upd_ne (s.posted i) _ k hk, Warp.body_retire _ _ _, Warp.at_retire _ _ _, rfl⟩

end Sys2Proof.Machine
end

section
open Sys2Proof Sys2Proof.Machine
/-- Settles O50: what a Retiring warp owes touches that warp alone, a launch that has told its RESULT differs from the one before in its state
and in the frames that leave, and a completion block within one page of this package is one run of eight words. -/
theorem launchesPostRetireAndComplete : Obligations.LaunchesPostRetireAndComplete := by
  unfold Obligations.LaunchesPostRetireAndComplete
  intro s comb
  have hcomb : comb = fun l => combine l.comb := funext Launch.combs_eq
  clear_value comb
  subst hcomb
  refine ⟨fun i => ⟨execPostw_idle, fun hi => ?_⟩, fun k => ?_, fun i => rfl, fun id => ⟨execLaunchComplete_unknown, ?_⟩⟩
  · obtain ⟨hrest, hothers, hbody, hat, hposted⟩ := s.posted_retire i
    exact ⟨_, execPostw_posts hi, hrest, hothers, hbody, hat, hposted⟩
  · refine ⟨execWarpRetire_live, fun _ hr hc => execWarpRetire_waits hr ((s.retires_iff k).not.2 hc), fun hs hr hc => ?_,
      execWarpRetire_member⟩
    obtain ⟨hfree, hothers, hcur, hchains⟩ := s.retireWarp_keeps k
    refine ⟨_, execWarpRetire_retires hs hr ((s.retires_iff k).2 hc), hfree, hothers, s.mem_retireWarp k, hcur, fun e he b ht => ?_⟩
    rw [hchains] at he
    exact s.chains_abortFor k b ht e he
  · rintro l xs ys hl rfl hids
    refine ⟨execLaunchComplete_waits hl hids, fun hq hended => ⟨fun hmissing => ?_, fun v hv => ?_⟩⟩
    · exact ⟨_, l.told, execLaunchComplete_tells hl hids hq hended hmissing, State.told_eq hl hids, rfl, Launch.told_state hq⟩
    · obtain ⟨hwarps, -, hout, -⟩ := (s.told l).finishLaunch_keeps l (l.combined v)
      rw [State.told_out hl hids] at hout
      refine ⟨_, execLaunchComplete_finishes hl hids hq hended v hv, hout, hwarps.trans (s.warps_told l), fun k => ?_,
        fun j hj hroom => launches_finish_some hl hids hj hroom, launches_finish_none hl hids, fun hal t ht hv hp ht' => ?_⟩
      · rw [State.core_finishLaunch, State.core, s.cores_told l]
        rfl
      · have word : ∀ {n w : Nat}, (s.blockWords l (l.combined v))[n]? = some w →
            ((s.told l).finishLaunch l (l.combined v)).dword (t.addr (l.recva + 0x100) + 8 * n) = BitVec.ofNat 64 w :=
          dword_finish hal ht hv hp ht'
        have self : ∀ x : DWord, BitVec.ofNat 64 x.toNat = x := fun x => (BitVec.ofNat_toNat 64 x).trans x.setWidth_eq
        exact ⟨(word rfl).trans (self _), word rfl, word rfl, word rfl, word rfl, word rfl, (word rfl).trans (self _),
          fun j hj => word (State.status_some hj), fun hno => word (State.status_none hno), byte_finish hal ht hv hp ht' _⟩
end

section
/-! ### What an access changes of its warp before it ends (09_access.md R155, R166) -/
namespace Sys2Proof.Machine

/-- The warp `w` with what an access changes of it before it ends taken from `v`. -/
def Warp.taking (w v : Warp) : Warp :=
  { w with counted := v.counted, pending := v.pending, fence := v.fence, stored := v.stored, watch := v.watch, acqV := v.acqV, acqX := v.acqX }

/-- From `s` to `t` an access of the executing warp has gone on, and nothing that the map of a fault records has changed. -/
structure Underway (s t : State) : Prop where
  cur : t.cur = s.cur
  peer : t.peer = s.peer
  ft : t.ft = s.ft
  warp : t.w = s.w.taking t.w

theorem Underway.of_w {s t : State} (hcur : t.cur = s.cur) (hpeer : t.peer = s.peer) (hft : t.ft = s.ft) (hw : t.w = s.w) : Underway s t :=
  ⟨hcur, hpeer, hft, by rw [hw]; rfl⟩
theorem Underway.of_warps {s t : State} (hcur : t.cur = s.cur) (hpeer : t.peer = s.peer) (hft : t.ft = s.ft) (hwarps : t.warps = s.warps) :
    Underway s t := Underway.of_w hcur hpeer hft (by rw [State.w, State.w, State.warp, State.warp, hwarps, hcur])
theorem Underway.refl (s : State) : Underway s s := Underway.of_w rfl rfl rfl rfl
theorem Underway.trans {s t u : State} (h : Underway s t) (h' : Underway t u) : Underway s u :=
  ⟨h'.cur.trans h.cur, h'.peer.trans h.peer, h'.ft.trans h.ft, by rw [h'.warp, h.warp]; rfl⟩
theorem Underway.foldl {α : Type} (f : State → α → State) (hf : ∀ s x, Underway s (f s x)) (l : List α) (s : State) :
    Underway s (l.foldl f s) := by
  induction l generalizing s with
  | nil => exact Underway.refl s
  | cons x l ih => exact (hf s x).trans (ih _)
theorem Underway.upd (s : State) (f : Warp → Warp) (hf : f s.w = s.w.taking (f s.w)) : Underway s (s.upd f) :=
  ⟨rfl, rfl, rfl, by rw [State.w_upd]; exact hf⟩
theorem Underway.ite {s t u : State} {c : Prop} [Decidable c] (ht : Underway s t) (hu : Underway s u) : Underway s (if c then t else u) := by
  split
  · exact ht
  · exact hu
theorem Underway.setDie (s : State) (k : Nat) (d : Die) : Underway s (s.setDie k d) := Underway.of_warps rfl rfl rfl rfl
theorem Underway.passFence (s : State) (p : Nat) : Underway s (s.passFence p) := Underway.upd s _ rfl
section
variable {s t : State} (h : Underway s t)
include h
theorem Underway.done : t.w.done = s.w.done := (congrArg Warp.done h.warp).trans rfl
theorem Underway.pc : t.w.pc = s.w.pc := (congrArg Warp.pc h.warp).trans rfl
theorem Underway.trap : t.w.trap = s.w.trap := (congrArg Warp.trap h.warp).trans rfl
theorem Underway.trapMode : t.w.trapMode = s.w.trapMode := (congrArg Warp.trapMode h.warp).trans rfl
end

/-! #### Noting the pages of an access (R165, R168, R400) -/

theorem Underway.touch (s : State) (c : CtxId) (a n : Nat) : Underway s (s.touch c a n) := by
  unfold State.touch
  split
  · exact Underway.refl s
  · exact Underway.of_warps rfl rfl rfl rfl
theorem Underway.touchWalk (s : State) (c : CtxId) (die : Nat) (va : DWord) : Underway s (s.touchWalk c die va) := by
  unfold State.touchWalk
  split
  · exact Underway.refl s
  · exact Underway.foldl _ (fun s (r : Nat × Nat) => Underway.touch s c r.1 r.2) _ s
theorem Underway.cache (s : State) (c : CtxId) (die : Nat) (va : DWord) (t : Trans) : Underway s (s.cache c die va t) := by
  unfold State.cache
  dsimp only
  split <;> split <;> exact Underway.of_warps rfl rfl rfl rfl
theorem Underway.use (s : State) (c : CtxId) (die : Nat) (va : DWord) (n : Nat) (t : Trans) : Underway s (s.use c die va n t) :=
  Underway.ite (((Underway.touchWalk s c die va).trans (Underway.cache _ c die va t)).trans (Underway.touch _ _ _ _))
    ((Underway.touchWalk s c die va).trans (Underway.cache _ c die va t))
theorem Underway.fault (s : State) (r : FaultRec) : Underway s (s.fault r) := by
  rw [State.fault_eq]
  exact Underway.of_warps rfl rfl rfl rfl
theorem Underway.countRemote (s : State) (c : CtxId) (die : Nat) (va : DWord) : Underway s (s.countRemote c die va) := by
  unfold State.countRemote
  extract_lets d page same i n t
  split
  · exact Underway.refl s
  split
  · exact (Underway.setDie s die _).trans (Underway.fault _ _)
  · exact Underway.setDie s die _
theorem Underway.countFor (s : State) (ps : List (DWord × Trans)) : Underway s (s.countFor ps) := by
  have h : ∀ fresh, Underway s (s.countPages s.w.ctx s.myDie fresh) := fun fresh =>
    Underway.foldl _ (fun u p => Underway.countRemote u _ _ _) _ s
  unfold State.countFor
  exact (h _).trans (Underway.upd _ _ rfl)
theorem Underway.noteParts (s : State) (count : Bool) (ps : List (Part × Trans)) : Underway s (s.noteParts count ps) := by
  have h := Underway.foldl (fun s (p : Part × Trans) => s.use s.w.ctx s.myDie p.1.va p.1.n p.2)
    (fun s p => Underway.use s _ _ _ _ _) ps s
  exact Underway.ite (h.trans (Underway.countFor _ _)) h

/-! #### Reading, storing, and what becomes outstanding -/

theorem Underway.endLeases (s : State) (a n : Nat) : Underway s (s.endLeases a n) := Underway.of_warps rfl rfl rfl rfl
theorem Underway.setBytes (s : State) (a : Nat) (bs : List Byte) : Underway s (s.setBytes a bs) := Underway.of_warps rfl rfl rfl rfl
theorem Underway.plainLine (s : State) (t : Trans) (seed line : Nat) : Underway s (s.plainLine t seed line).1 := by
  unfold State.plainLine
  dsimp only
  split
  · split
    · split
      · exact Underway.refl s
      · exact Underway.setDie _ _ _
    · exact Underway.setDie _ _ _
  · exact Underway.setDie _ _ _
theorem Underway.rocLine (s : State) (t : Trans) (seed line : Nat) : Underway s (s.rocLine t seed line).1 := by
  have h : Underway s ((s.plainLine t seed line).1.updTeam
      (fun m => { m with rocLines := Tab.set [] m.rocLines line (s.plainLine t seed line).2 })) :=
    (Underway.plainLine s t seed line).trans (Underway.of_warps rfl rfl rfl rfl)
  unfold State.rocLine
  dsimp only
  split
  · exact h
  · split
    · exact Underway.refl s
    · exact h
theorem Underway.readLines (s : State) (gc : Bool) (t : Trans) (seed n l : Nat) : Underway s (s.readLines gc t seed n l).1 := by
  induction n generalizing s seed l with
  | zero => exact Underway.refl s
  | succ n ih =>
    refine Underway.trans ?_ (ih _ _ _)
    cases gc
    · exact Underway.plainLine s t seed l
    · exact Underway.rocLine s t seed l
theorem Underway.storeHere (s : State) (t : Trans) (ws : List (Nat × Byte)) : Underway s (s.storeHere t ws) := by
  refine Underway.foldl _ (fun u l => ?_) _ s
  have hcells : Underway u (u.writeCells (onLine l ws)) :=
    Underway.foldl (fun s (w : Nat × Byte) => s.setByte w.1 w.2) (fun _ _ => Underway.of_warps rfl rfl rfl rfl) _ u
  exact (hcells.trans (Underway.endLeases _ _ _)).trans (Underway.setDie _ _ _)
theorem Underway.addPending (s : State) (lanes : Mask) (kind : PendKind) : Underway s (s.addPending lanes kind) := by
  unfold State.addPending
  split
  · exact Underway.refl s
  · exact (Underway.of_warps rfl rfl rfl rfl : Underway s s.fresh1).trans (Underway.upd _ _ rfl)
theorem Underway.noteHits (s : State) (m : Mask) (rd wr : Bool) (n : Nat) (ea : Nat → DWord) : Underway s (s.noteHits m rd wr n ea) := by
  unfold State.noteHits
  exact Underway.upd _ _ rfl
theorem Underway.acquire (s : State) (reach : Nat) : Underway s (s.acquire reach) :=
  Underway.ite (Underway.refl s) (Underway.setDie _ _ _)
theorem Underway.acquireOn (s : State) (p reach : Nat) : Underway s (s.acquireOn p reach) := by
  refine (Underway.acquire s reach).trans (Underway.upd _ _ ?_)
  split
  · rfl
  · split <;> rfl

end Sys2Proof.Machine
end

section
/-! ### A warp that becomes Replayable (R155, R166) -/
namespace Sys2Proof.Machine

/-- The executing warp of `s` has become Replayable in `t` at its pc, by cause `cause` of the lanes `flm`, with the done mask `dm`. -/
structure Replays (s t : State) (cause : Cause) (flm dm : Mask) (addr : DWord) : Prop where
  stat : t.w.stat = .replayable
  pc : t.w.pc = s.w.pc
  waiting : t.w.waiting = 0
  records : t.w.records ≠ []
  done : t.w.done = dm
  map : s.w.trapMode = false → MapOf t.w.trap s cause flm dm addr

theorem faultPages_ne_nil (fs : List LaneFault) (acc : List (LaneFault × Mask)) (h : fs ≠ [] ∨ acc ≠ []) : faultPages fs acc ≠ [] := by
  induction fs generalizing acc with
  | nil => exact h.resolve_left fun h => h rfl
  | cons f fs ih =>
    unfold faultPages
    dsimp only
    split
    · next hany =>
      refine ih _ (.inr fun hnil => ?_)
      rw [List.map_eq_nil_iff] at hnil
      rw [hnil] at hany
      cases hany
    · exact ih _ (.inr (by simp))
theorem Underway.faultRecs (s : State) (acc : Nat) (ps : List (LaneFault × Mask)) : Underway s (s.faultRecs acc ps).1 := by
  induction ps generalizing s with
  | nil => exact Underway.refl s
  | cons p ps ih => exact (Underway.fault _ _).trans (ih _)
theorem State.faultRecs_ids (s : State) (acc : Nat) (ps : List (LaneFault × Mask)) (h : ps ≠ []) : (s.faultRecs acc ps).2 ≠ [] := by
  cases ps with
  | nil => exact absurd rfl h
  | cons p ps => exact List.cons_ne_nil _ _

theorem Underway.mapOf {s u : State} (h : Underway s u) (cause : Cause) (flm done : Mask) (addr : DWord) :
    MapOf (u.trapMap cause flm done addr) s cause flm done addr := by
  have hnow : u.now = s.now := by rw [State.now, State.now, h.ft]
  rw [State.trapMap, h.warp, hnow]
  refine ⟨rfl, rfl, rfl, rfl, rfl, rfl, rfl, rfl, rfl, rfl, rfl, rfl, fun f hf => ?_, fun hn => ?_⟩
  · have hir : (s.w.taking u.w).ir = some f := hf
    rw [hir]
    exact ⟨BitVec.toNat_ofNat _ _, rfl, rfl⟩
  · have hir : (s.w.taking u.w).ir = none := hn
    rw [hir]
    exact ⟨rfl, rfl, rfl⟩

/-- A list of faults, the first one `f`, makes the warp Replayable. -/
theorem State.replayable_replays {s u : State} (h : Underway s u) (f : LaneFault) (fs : List LaneFault) (done : Mask) (acc : Nat) :
    Replays s (u.replayable (f :: fs) done acc) f.cause (faultMask (f :: fs)) done f.ea := by
  have hwalk : Underway u ((f :: fs).foldl (fun s f => s.touchWalk s.w.ctx s.myDie f.va) u) :=
    Underway.foldl _ (fun s _ => Underway.touchWalk s _ _ _) _ u
  unfold State.replayable
  dsimp only
  generalize (f :: fs).foldl (fun s f => s.touchWalk s.w.ctx s.myDie f.va) u = v at hwalk ⊢
  have hv := h.trans hwalk
  have hpc : (v.writeMap (v.trapMap f.cause (faultMask (f :: fs)) done f.ea)).w.pc = s.w.pc := by
    rw [State.writeMap]
    split
    · exact hv.pc
    · rw [State.w_upd]
      exact hv.pc
  have htrap : s.w.trapMode = false →
      (v.writeMap (v.trapMap f.cause (faultMask (f :: fs)) done f.ea)).w.trap = v.trapMap f.cause (faultMask (f :: fs)) done f.ea := by
    intro hmode
    rw [State.writeMap, hv.trapMode, hmode, if_neg Bool.false_ne_true, State.w_upd]
  generalize v.writeMap (v.trapMap f.cause (faultMask (f :: fs)) done f.ea) = x at hpc htrap ⊢
  have hrecs := Underway.faultRecs x acc (faultPages (f :: fs) [])
  have hids := x.faultRecs_ids acc _ (faultPages_ne_nil (f :: fs) [] (.inl (List.cons_ne_nil _ _)))
  generalize x.faultRecs acc (faultPages (f :: fs) []) = r at hrecs hids ⊢
  have hw : (r.1.upd (fun w => { w with stat := .replayable, reason := 0, done := done, waiting := 0, records := r.2 })).w =
      { r.1.w with stat := .replayable, reason := 0, done := done, waiting := 0, records := r.2 } := State.w_upd _ _
  refine ⟨by rw [hw], by rw [hw]; exact hrecs.pc.trans hpc, by rw [hw], by rw [hw]; exact hids, by rw [hw], fun hmode => ?_⟩
  rw [hw, hrecs.trap, htrap hmode]
  exact hv.mapOf _ _ _ _

end Sys2Proof.Machine
end

section
/-! ### The lanes that fault (R166, R174, R176) -/
namespace Sys2Proof.Machine

/-! #### Masks of lanes -/

theorem getLsbD_laneBit (j i : Nat) (hi : i < 32) : (laneBit j).getLsbD i = decide (j = i) := by
  rw [laneBit, BitVec.getLsbD_shiftLeft]
  simp only [decide_eq_true hi, Bool.true_and]
  by_cases h : j = i
  · simp [h]
  · by_cases hlt : i < j
    · simp [h, hlt]
    · have : i - j ≠ 0 := by omega
      simp [h, this]
/-- The lanes of a list, each of its elements with one, gathered in a mask. -/
theorem getLsbD_foldl_laneBit {α : Type} (f : α → Nat) (l : List α) (m : Mask) (i : Nat) (hi : i < 32) :
    (l.foldl (fun m x => m ||| laneBit (f x)) m).getLsbD i = (m.getLsbD i || l.any (fun x => f x == i)) := by
  induction l generalizing m with
  | nil => simp
  | cons x l ih =>
    rw [List.foldl_cons, ih, BitVec.getLsbD_or, getLsbD_laneBit _ _ hi, List.any_cons, Bool.or_assoc]
    rfl
theorem getLsbD_faultMask (fs : List LaneFault) (i : Nat) (hi : i < 32) : (faultMask fs).getLsbD i = true ↔ ∃ f ∈ fs, f.lane = i := by
  rw [faultMask, getLsbD_foldl_laneBit _ _ _ _ hi]
  simp
theorem lanesOf_sorted (m : Mask) : (lanesOf m).Pairwise (· < ·) := List.pairwise_lt_range.filter _

/-! #### The faults of one lane -/

section
variable {s : State} {c : CtxId} {die : Nat} {want : Want} {i : Nat} {ea : DWord} {ps : List Part}
theorem State.transParts_fault {fs : List LaneFault} (h : s.transParts c die want i ea ps = .error fs) :
    fs ≠ [] ∧ ∀ f ∈ fs, f.lane = i ∧ f.ea = ea := by
  induction ps generalizing fs with
  | nil => cases h
  | cons p ps ih =>
    rw [State.transParts] at h
    split at h <;> cases h
    · next e gs he hgs => simpa using (ih hgs).2
    · simp
    · next hgs => exact ih hgs
theorem State.transParts_ok_ne_nil {r : List (Part × Trans)} (h : s.transParts c die want i ea ps = .ok r) (hps : ps ≠ []) : r ≠ [] := by
  cases ps with
  | nil => exact absurd rfl hps
  | cons p ps =>
    rw [State.transParts] at h
    split at h <;> cases h
    exact List.cons_ne_nil _ _
end
theorem partsOf_ne_nil (ea : DWord) (n : Nat) : partsOf ea n ≠ [] := by
  unfold partsOf
  dsimp only
  split <;> exact List.cons_ne_nil _ _

/-! #### The lanes of an access -/

/-- Lane `i`'s access does not translate. -/
def State.Bad (s : State) (want : Want) (n : Nat) (ea : Nat → DWord) (i : Nat) : Prop :=
  ∃ f, s.transParts s.w.ctx s.myDie want i (ea i) (partsOf (ea i) n) = .error f

section
variable {s : State} {want : Want} {n : Nat} {ea : Nat → DWord}
theorem State.transLanes_ok {is : List Nat} {l : Lane} : l ∈ (s.transLanes want n ea is).1 ↔
    l.lane ∈ is ∧ l.ea = ea l.lane ∧ s.transParts s.w.ctx s.myDie want l.lane (ea l.lane) (partsOf (ea l.lane) n) = .ok l.parts := by
  induction is with
  | nil => simp [State.transLanes]
  | cons i is ih =>
    rw [State.transLanes]
    split
    · next ps hps =>
      rw [List.mem_cons, ih, List.mem_cons]
      constructor
      · rintro (rfl | ⟨h1, h2, h3⟩)
        · exact ⟨.inl rfl, rfl, hps⟩
        · exact ⟨.inr h1, h2, h3⟩
      · rintro ⟨rfl | h1, h2, h3⟩
        · have hparts : ps = l.parts := Except.ok.inj (hps.symm.trans h3)
          exact .inl (by rw [hparts, ← h2])
        · exact .inr ⟨h1, h2, h3⟩
    · next fs hfs =>
      rw [ih, List.mem_cons]
      constructor
      · rintro ⟨h1, h2⟩
        exact ⟨.inr h1, h2⟩
      · rintro ⟨rfl | h1, h2, h3⟩
        · rw [hfs] at h3
          cases h3
        · exact ⟨h1, h2, h3⟩
/-- The lanes with a fault are those whose access does not translate. -/
theorem State.transLanes_fault (is : List Nat) (i : Nat) :
    (∃ f ∈ (s.transLanes want n ea is).2, f.lane = i) ↔ i ∈ is ∧ s.Bad want n ea i := by
  induction is with
  | nil => simp [State.transLanes]
  | cons j is ih =>
    rw [State.transLanes]
    split
    · next ps hps =>
      rw [ih, List.mem_cons]
      refine and_congr_left fun ⟨f, hf⟩ => ⟨.inr, fun h => h.resolve_left ?_⟩
      rintro rfl
      rw [hps] at hf
      cases hf
    · next fs hfs =>
      obtain ⟨hne, hfields⟩ := State.transParts_fault hfs
      obtain ⟨g, hg⟩ := List.exists_mem_of_ne_nil fs hne
      simp only [List.mem_append, or_and_right, exists_or, ih, List.mem_cons]
      constructor
      · rintro (⟨f, hf, rfl⟩ | ⟨hi, hb⟩)
        · have hl := (hfields f hf).1
          exact .inl ⟨hl, fs, hl ▸ hfs⟩
        · exact .inr ⟨hi, hb⟩
      · rintro (⟨rfl, -⟩ | ⟨hi, hb⟩)
        · exact .inl ⟨g, hg, (hfields g hg).1⟩
        · exact .inr ⟨hi, hb⟩
/-- The first fault is the first one of the lowest lane whose access does not translate. -/
theorem State.transLanes_head {is : List Nat} (hs : is.Pairwise (· < ·)) {f : LaneFault} {fs : List LaneFault}
    (h : (s.transLanes want n ea is).2 = f :: fs) : ∃ k gs, k ∈ is ∧ f.ea = ea k ∧
      s.transParts s.w.ctx s.myDie want k (ea k) (partsOf (ea k) n) = .error (f :: gs) ∧ ∀ i ∈ is, i < k → ¬s.Bad want n ea i := by
  induction is with
  | nil => cases h
  | cons j is ih =>
    obtain ⟨hlt, hs⟩ := List.pairwise_cons.1 hs
    rw [State.transLanes] at h
    split at h
    · next ps hps =>
      obtain ⟨k, gs, hk, hea, hf, hlow⟩ := ih hs h
      refine ⟨k, gs, List.mem_cons_of_mem _ hk, hea, hf, fun i hi hik => ?_⟩
      obtain rfl | hi := List.mem_cons.1 hi
      · rintro ⟨g, hg⟩
        rw [hps] at hg
        cases hg
      · exact hlow i hi hik
    · next gs hgs =>
      obtain ⟨hne, hfields⟩ := State.transParts_fault hgs
      cases gs with
      | nil => exact absurd rfl hne
      | cons g gs =>
        obtain ⟨rfl, -⟩ := List.cons.inj h
        refine ⟨j, gs, List.mem_cons_self, (hfields g List.mem_cons_self).2, hgs, fun i hi hij => ?_⟩
        obtain rfl | hi := List.mem_cons.1 hi
        · exact absurd hij (lt_irrefl _)
        · exact absurd (hlt i hi) (by omega)
/-- The lanes that translate. -/
theorem State.laneMask_transLanes (m : Mask) {i : Nat} (hi : i < 32) :
    (laneMask (s.transLanes want n ea (lanesOf m)).1).getLsbD i = true ↔ m.getLsbD i = true ∧ ¬s.Bad want n ea i := by
  rw [laneMask, getLsbD_maskOf _ _ hi, List.any_eq_true]
  simp only [State.transLanes_ok, beq_iff_eq, mem_lanesOf]
  constructor
  · rintro ⟨l, ⟨⟨-, hm⟩, -, hok⟩, rfl⟩
    exact ⟨hm, fun ⟨f, hf⟩ => by rw [hok] at hf; cases hf⟩
  · rintro ⟨hm, hbad⟩
    cases h : s.transParts s.w.ctx s.myDie want i (ea i) (partsOf (ea i) n) with
    | error f => exact absurd ⟨f, h⟩ hbad
    | ok ps => exact ⟨⟨i, ea i, ps⟩, ⟨⟨hi, hm⟩, rfl, h⟩, rfl⟩
end

/-! #### What the accesses of an instruction come to when some lanes fault -/

/-- The outcome of an instruction of which the lanes of `m` access `n` bytes at `ea`, some of them faulting (R155, R166). -/
def Faulted (s t : State) (m : Mask) (want : Want) (n : Nat) (ea : Nat → DWord) : Prop :=
  t.w.stat = .replayable ∧ t.w.pc = s.w.pc ∧ t.w.waiting = 0 ∧ t.w.records ≠ [] ∧
    (∀ i, i < 32 → (t.w.done.getLsbD i = true ↔ s.w.done.getLsbD i = true ∨ (m.getLsbD i = true ∧ ¬s.Bad want n ea i))) ∧
    (s.w.trapMode = false → ∃ k f fs, s.transParts s.w.ctx s.myDie want k (ea k) (partsOf (ea k) n) = .error (f :: fs) ∧
      k < 32 ∧ m.getLsbD k = true ∧ (∀ i, i < k → m.getLsbD i = true → ¬s.Bad want n ea i) ∧
      t.w.trap.done = t.w.done ∧ MapOf { t.w.trap with done := 0 } s f.cause t.w.trap.flm 0 (ea k) ∧
      ∀ i, i < 32 → (t.w.trap.flm.getLsbD i = true ↔ m.getLsbD i = true ∧ s.Bad want n ea i))

/-- A map, its done mask and fault lanes aside. -/
theorem MapOf.forget {m : TrapMap} {s : State} {cause : Cause} {flm done : Mask} {addr : DWord} (h : MapOf m s cause flm done addr) :
    m.done = done ∧ m.flm = flm ∧ MapOf { m with done := 0 } s cause m.flm 0 addr := by
  obtain ⟨hvalid, hcause, hpc, hem, hflm, hdone, hex, hrest⟩ := h
  exact ⟨hdone, hflm, hvalid, hcause, hpc, hem, rfl, rfl, hex, hrest⟩

/-- A pass whose good lanes have performed and that ends in the faults of the others. -/
theorem State.faulted {s u : State} (hu : Underway s u) {m : Mask} {want : Want} {n : Nat} {ea : Nat → DWord} (acc : Nat)
    (hbad : ∃ i, i < 32 ∧ m.getLsbD i = true ∧ s.Bad want n ea i) :
    Faulted s (u.replayable (s.transLanes want n ea (lanesOf m)).2
      (u.w.done ||| laneMask (s.transLanes want n ea (lanesOf m)).1) acc) m want n ea := by
  have hmem : ∀ i, i < 32 → ((∃ f ∈ (s.transLanes want n ea (lanesOf m)).2, f.lane = i) ↔ m.getLsbD i = true ∧ s.Bad want n ea i) :=
    fun i hi => by rw [State.transLanes_fault, mem_lanesOf, and_iff_right hi]
  have hdone : ∀ i, i < 32 → ((u.w.done ||| laneMask (s.transLanes want n ea (lanesOf m)).1).getLsbD i = true ↔
      s.w.done.getLsbD i = true ∨ (m.getLsbD i = true ∧ ¬s.Bad want n ea i)) := fun i hi => by
    rw [BitVec.getLsbD_or, Bool.or_eq_true, hu.done, State.laneMask_transLanes m hi]
  generalize u.w.done ||| laneMask (s.transLanes want n ea (lanesOf m)).1 = dm at hdone ⊢
  cases hfs : (s.transLanes want n ea (lanesOf m)).2 with
  | nil =>
    obtain ⟨i, hi, hm⟩ := hbad
    obtain ⟨f, hf, -⟩ := (hmem i hi).2 hm
    rw [hfs] at hf
    cases hf
  | cons f fs =>
    obtain ⟨k, gs, hk, hea, hf, hlow⟩ := State.transLanes_head (lanesOf_sorted m) hfs
    obtain ⟨hk, hkm⟩ := (mem_lanesOf m k).1 hk
    have hr := State.replayable_replays hu f fs dm acc
    rw [hfs] at hmem
    refine ⟨hr.stat, hr.pc, hr.waiting, hr.records, fun i hi => by rw [hr.done, hdone i hi], fun hmode => ?_⟩
    obtain ⟨hmdone, hflm, hmap⟩ := (hr.map hmode).forget
    refine ⟨k, f, gs, hf, hk, hkm, fun i hi him => hlow i ((mem_lanesOf m i).2 ⟨by omega, him⟩) hi, hmdone.trans hr.done.symm, hea ▸ hmap,
      fun i hi => ?_⟩
    rw [hflm, getLsbD_faultMask _ _ hi, hmem i hi]

end Sys2Proof.Machine
end

section
/-! ### Accesses beyond the virtual address space (R157, R166; log entry 17) -/
namespace Sys2Proof.Machine

/-! #### The checks of R176 -/

theorem lowestCause_none {m : Mask} {f : Nat → List Cause} (h : ∀ i, i < 32 → m.getLsbD i = true → f i = []) : lowestCause m f = none := by
  have hnil : (lanesOf m).flatMap f = [] := List.flatMap_eq_nil_iff.2 fun i hi => by
    obtain ⟨h32, hm⟩ := (mem_lanesOf m i).1 hi
    exact h i h32 hm
  rw [lowestCause, hnil]
theorem lowest_same {l : List Cause} {c : Cause} (h : ∀ x ∈ l, x = c) :
    l.foldl (fun (a b : Cause) => if b.toNat < a.toNat then b else a) c = c := by
  induction l with
  | nil => rfl
  | cons x l ih =>
    obtain rfl := h x List.mem_cons_self
    rw [List.foldl_cons, ite_self]
    exact ih fun y hy => h y (List.mem_cons_of_mem _ hy)
/-- A cause that is the only one any lane has. -/
theorem lowestCause_only {m : Mask} {f : Nat → List Cause} {c : Cause} (h : ∀ i, i < 32 → m.getLsbD i = true → f i = [] ∨ f i = [c])
    (hsome : ∃ i, i < 32 ∧ m.getLsbD i = true ∧ f i = [c]) :
    ∃ flm, lowestCause m f = some (c, flm) ∧ ∀ i, i < 32 → (flm.getLsbD i = true ↔ m.getLsbD i = true ∧ f i = [c]) := by
  have hall : ∀ x ∈ (lanesOf m).flatMap f, x = c := fun x hx => by
    obtain ⟨i, hi, hx⟩ := List.mem_flatMap.1 hx
    obtain ⟨h32, hm⟩ := (mem_lanesOf m i).1 hi
    obtain h | h := h i h32 hm
    · rw [h] at hx; cases hx
    · rw [h] at hx; exact List.mem_singleton.1 hx
  obtain ⟨j, hj, hjm, hjc⟩ := hsome
  have hmem : c ∈ (lanesOf m).flatMap f := List.mem_flatMap.2 ⟨j, (mem_lanesOf m j).2 ⟨hj, hjm⟩, hjc ▸ List.mem_cons_self⟩
  unfold lowestCause
  generalize (lanesOf m).flatMap f = l at hall hmem
  cases l with
  | nil => cases hmem
  | cons x l =>
    obtain rfl := hall x List.mem_cons_self
    dsimp only
    rw [lowest_same fun y hy => hall y (List.mem_cons_of_mem _ hy)]
    refine ⟨_, rfl, fun i hi => ?_⟩
    rw [getLsbD_maskOf _ _ hi, Bool.and_eq_true]
    refine and_congr_right fun hm => ?_
    obtain h | h := h i hi hm <;> simp [h]

section
variable {ea : DWord} {n : Nat}
theorem vaCause_inside (h : ea.toNat + n ≤ 2 ^ 48) : vaCause ea n = [] := if_pos h
theorem vaCause_beyond (h : 2 ^ 48 < ea.toNat + n) : vaCause ea n = [0x0C2] := if_neg (by omega)
theorem alignCause_aligned (h : ea.toNat % n = 0) : alignCause ea n = [] := if_pos h
theorem vaCause_cases (ea : DWord) (n : Nat) : vaCause ea n = [] ∨ vaCause ea n = [0x0C2] := by
  unfold vaCause
  split
  · exact .inl rfl
  · exact .inr rfl
theorem vaCause_eq_iff (ea : DWord) (n : Nat) : vaCause ea n = [0x0C2] ↔ 2 ^ 48 < ea.toNat + n := by
  unfold vaCause
  split
  · simp; omega
  · simp; omega

/-- An access that ends beyond the virtual address space has a part there. -/
theorem exists_part_beyond (hn : n ≤ 4096) (h : 2 ^ 48 < ea.toNat + n) : ∃ p ∈ partsOf ea n, 2 ^ 48 ≤ p.va.toNat := by
  obtain ⟨hroom, hp⟩ | ⟨r, hr, hrn, hp⟩ := partsOf_cases ea n
  · exact ⟨_, hp ▸ List.mem_cons_self, by show 2 ^ 48 ≤ ea.toNat; omega⟩
  · obtain hlt | hge := Nat.lt_or_ge ea.toNat (2 ^ 48)
    · refine ⟨⟨ea + BitVec.ofNat 64 r, r, n - r⟩, hp ▸ List.mem_cons_of_mem _ List.mem_cons_self, ?_⟩
      show 2 ^ 48 ≤ (ea + BitVec.ofNat 64 r).toNat
      rw [BitVec.toNat_add, BitVec.toNat_ofNat]
      omega
    · exact ⟨_, hp ▸ List.mem_cons_self, hge⟩
end

/-! #### Lanes with a list of faults each -/

/-- Faults, of each lane of `flm` some, in ascending lane order: the first one is of the lowest lane. -/
theorem flatMap_lanes_head {flm : Mask} {g : Nat → List LaneFault} (hg : ∀ i, flm.getLsbD i = true → i < 32 → g i ≠ [])
    (hsome : ∃ i, i < 32 ∧ flm.getLsbD i = true) :
    ∃ k f fs, (lanesOf flm).flatMap g = f :: fs ∧ f ∈ g k ∧ k < 32 ∧ flm.getLsbD k = true ∧ ∀ i, i < k → flm.getLsbD i = false := by
  obtain ⟨i, hi, him⟩ := hsome
  have hsorted := lanesOf_sorted flm
  have hmem := mem_lanesOf flm
  cases hl : lanesOf flm with
  | nil => exact absurd ((hmem i).2 ⟨hi, him⟩) (by rw [hl]; exact List.not_mem_nil)
  | cons k ks =>
    rw [hl] at hsorted hmem
    obtain ⟨hk, hkm⟩ := (hmem k).1 List.mem_cons_self
    obtain ⟨f, fs, hf⟩ := List.exists_cons_of_ne_nil (hg k hkm hk)
    refine ⟨k, f, fs ++ ks.flatMap g, by rw [List.flatMap_cons, hf, List.cons_append], hf ▸ List.mem_cons_self, hk, hkm, fun j hj => ?_⟩
    rw [← Bool.not_eq_true]
    intro hjm
    obtain rfl | hmem := List.mem_cons.1 ((hmem j).2 ⟨by omega, hjm⟩)
    · exact lt_irrefl _ hj
    · exact absurd ((List.pairwise_cons.1 hsorted).1 j hmem) (by omega)

/-! #### What such an access comes to -/

/-- The outcome of an instruction of which lanes of `m` access `n` bytes at `ea` beyond the virtual address space. -/
def Beyond (s t : State) (m : Mask) (n : Nat) (ea : Nat → DWord) : Prop :=
  let bad := fun i => m.getLsbD i = true ∧ 2 ^ 48 < (ea i).toNat + n
  t.w.stat = .replayable ∧ t.w.pc = s.w.pc ∧ t.w.waiting = 0 ∧ t.w.done = s.w.done ∧ t.w.records ≠ [] ∧
    (s.w.trapMode = false → ∃ k, k < 32 ∧ bad k ∧ (∀ i, i < k → ¬bad i) ∧ t.w.trap.done = s.w.done ∧
      MapOf { t.w.trap with done := 0 } s 0x0C2 t.w.trap.flm 0 (ea k) ∧ ∀ i, i < 32 → (t.w.trap.flm.getLsbD i = true ↔ bad i))

/-- The faults of a lane: one for each part of its access that lies beyond the space. -/
def beyondFaults (n : Nat) (ea : Nat → DWord) (i : Nat) : List LaneFault :=
  ((partsOf (ea i) n).filter (fun p => decide (2 ^ 48 ≤ p.va.toNat))).map (fun p => ⟨i, 0x0C2, ea i, p.va⟩)
theorem beyondFaults_ne_nil {n : Nat} {ea : Nat → DWord} {i : Nat} (hn : n ≤ 4096) (h : 2 ^ 48 < (ea i).toNat + n) : beyondFaults n ea i ≠ [] := by
  obtain ⟨p, hp, hva⟩ := exists_part_beyond hn h
  exact List.ne_nil_of_mem (List.mem_map_of_mem (List.mem_filter.2 ⟨hp, decide_eq_true hva⟩))
theorem beyondFaults_fields {n : Nat} {ea : Nat → DWord} {i : Nat} {f : LaneFault} (h : f ∈ beyondFaults n ea i) :
    f.lane = i ∧ f.cause = 0x0C2 ∧ f.ea = ea i := by
  obtain ⟨p, -, rfl⟩ := List.mem_map.1 h
  exact ⟨rfl, rfl, rfl⟩
theorem State.checkFails_eq (u : State) (flm : Mask) (n : Nat) (ea : Nat → DWord) (acc : Nat) : u.checkFails 0x0C2 flm n ea acc =
    u.replayable ((lanesOf flm).flatMap (beyondFaults n ea)) u.w.done acc := if_pos rfl

theorem State.checkFails_beyond {s u : State} (hu : Underway s u) {m flm : Mask} {n : Nat} {ea : Nat → DWord} (acc : Nat) (hn : n ≤ 4096)
    (hflm : ∀ i, i < 32 → (flm.getLsbD i = true ↔ m.getLsbD i = true ∧ 2 ^ 48 < (ea i).toNat + n))
    (hbad : ∃ i, i < 32 ∧ m.getLsbD i = true ∧ 2 ^ 48 < (ea i).toNat + n) : Beyond s (u.checkFails 0x0C2 flm n ea acc) m n ea := by
  have hg : ∀ i, flm.getLsbD i = true → i < 32 → beyondFaults n ea i ≠ [] := fun i him hi => beyondFaults_ne_nil hn ((hflm i hi).1 him).2
  obtain ⟨i, hi, him⟩ := hbad
  obtain ⟨k, f, fs, hfs, hfk, hk, hkm, hlow⟩ := flatMap_lanes_head hg ⟨i, hi, (hflm i hi).2 him⟩
  obtain ⟨-, hcause, hfea⟩ := beyondFaults_fields hfk
  have hmask : ∀ i, i < 32 → ((faultMask (f :: fs)).getLsbD i = true ↔ flm.getLsbD i = true) := fun i hi => by
    rw [getLsbD_faultMask _ _ hi, ← hfs]
    constructor
    · rintro ⟨x, hx, rfl⟩
      obtain ⟨j, hj, hx⟩ := List.mem_flatMap.1 hx
      rw [(beyondFaults_fields hx).1]
      exact ((mem_lanesOf flm j).1 hj).2
    · intro him
      obtain ⟨x, hx⟩ := List.exists_mem_of_ne_nil _ (hg i him hi)
      exact ⟨x, List.mem_flatMap.2 ⟨i, (mem_lanesOf flm i).2 ⟨hi, him⟩, hx⟩, (beyondFaults_fields hx).1⟩
  have hr := State.replayable_replays hu f fs u.w.done acc
  rw [State.checkFails_eq, hfs]
  refine ⟨hr.stat, hr.pc, hr.waiting, hr.done.trans hu.done, hr.records, fun hmode => ?_⟩
  obtain ⟨hmdone, hmflm, hmap⟩ := (hr.map hmode).forget
  rw [hcause, hfea] at hmap
  refine ⟨k, hk, (hflm k hk).1 hkm, fun i hi hb => ?_, hmdone.trans hu.done, hmap, fun i hi => ?_⟩
  · have := hlow i hi
    rw [(hflm i (by omega)).2 hb] at this
    cases this
  · rw [hmflm, hmask i hi, hflm i hi]

end Sys2Proof.Machine
end

section
/-! ### Lanes on this package's unversioned pages (R172 to R175, R181, R200) -/
namespace Sys2Proof.Machine

/-- Every part of some lanes' accesses lies on an unversioned page of this package. -/
def Owned (s : State) (ls : List Lane) : Prop := ∀ l ∈ ls, ∀ p ∈ l.parts, p.2.peer = s.peer ∧ p.2.vers = false

theorem State.Here.own {s : State} {want : Want} {i n : Nat} {ea : DWord} (hn : 0 < n) (h : s.Here want i ea n) {ps : List (Part × Trans)}
    (hps : s.transParts s.w.ctx s.myDie want i ea (partsOf ea n) = .ok ps) : ∀ p ∈ ps, p.2.peer = s.peer ∧ p.2.vers = false := by
  have hstand : ∀ k, ∃ a, k < n → s.Stands want i ea n k a := fun k => by
    by_cases hk : k < n
    · obtain ⟨t, a, hb, -⟩ := h.2 k hk
      exact ⟨a, fun _ => ⟨t, hb⟩⟩
    · exact ⟨0, fun h => absurd h hk⟩
  choose A hA using hstand
  obtain ⟨qs, hqs, -, hown⟩ := h.transParts hn hA
  obtain rfl : ps = qs := Except.ok.inj (hps.symm.trans hqs)
  exact hown
theorem State.owned_transLanes {s : State} {m : Mask} {want : Want} {n : Nat} {ea : Nat → DWord} (hn : 0 < n)
    (h : ∀ i, i < 32 → m.getLsbD i = true → s.Bad want n ea i ∨ s.Here want i (ea i) n) :
    Owned s (s.transLanes want n ea (lanesOf m)).1 := by
  intro l hl
  obtain ⟨hlane, -, hok⟩ := State.transLanes_ok.1 hl
  obtain ⟨hi, hm⟩ := (mem_lanesOf m l.lane).1 hlane
  obtain ⟨f, hf⟩ | hh := h l.lane hi hm
  · rw [hok] at hf
    cases hf
  · exact hh.own hn hok

section
variable {s : State} {ls : List Lane} (h : Owned s ls)
include h
theorem Owned.parts : ∀ p ∈ partsAll ls, p.2.peer = s.peer := fun p hp => by
  obtain ⟨l, hl, hp⟩ := List.mem_flatMap.1 hp
  exact (h l hl p hp).1
theorem Owned.here : ∀ p ∈ partsAll ls, s.away p.2 = false := fun p hp => by simp [State.away, h.parts p hp]
theorem Owned.not_away : (partsAll ls).any (fun p => s.away p.2) = false := List.any_eq_false.2 fun p hp => by simp [h.here p hp]
theorem Owned.lanesHeld : s.lanesHeld ls = false := s.anyAway_own _ _ h.parts
theorem Owned.of_peer {t : State} (hp : t.peer = s.peer) : Owned t ls := fun l hl p hpl => by rw [hp]; exact h l hl p hpl
theorem Owned.tail {l : Lane} {ks : List Lane} (he : ls = l :: ks) : Owned s ks := fun k hk => h k (he ▸ List.mem_cons_of_mem _ hk)
theorem Owned.all_here {l : Lane} (hl : l ∈ ls) : l.parts.all (fun p => !s.away p.2) = true :=
  List.all_eq_true.2 fun p hp => by simp [State.away, (h l hl p hp).1]
end
theorem Owned.firstRun {s : State} {ls : List Lane} (h : Owned s ls) : s.firstRun none ls = ls := by
  induction ls with
  | nil => rfl
  | cons l ls ih =>
    rw [State.firstRun, if_pos (h.all_here List.mem_cons_self), ih (h.tail rfl)]
/-- Lanes on this package all go at once. -/
theorem Owned.runOf {s : State} {ls : List Lane} (h : Owned s ls) (ordered : Bool) : s.runOf ordered ls = ls := by
  unfold State.runOf
  split
  · exact h.firstRun
  · rfl

/-! #### Loads -/

theorem State.readPart_bytes (s : State) (v : View) (gc : Bool) (seed : Nat) {p : Part × Trans} (hp : p.2.peer = s.peer) (hv : p.2.vers = false) :
    Underway s (s.readPart v gc seed p).1 ∧ ∃ b, (s.readPart v gc seed p).2 = .bytes b := by
  have haway : s.away p.2 = false := by simp [State.away, hp]
  unfold State.readPart
  dsimp only
  rw [if_neg (by simp [haway]), if_neg (by simp [hv])]
  exact ⟨(Underway.endLeases s _ _).trans (Underway.readLines _ _ _ _ _ _), _, rfl⟩
theorem State.readParts_bytes (s : State) (v : View) (gc : Bool) (seed : Nat) {ps : List (Part × Trans)}
    (h : ∀ p ∈ ps, p.2.peer = s.peer ∧ p.2.vers = false) :
    Underway s (s.readParts v gc seed ps).1 ∧ ∀ q ∈ (s.readParts v gc seed ps).2, ∃ b, q.2.2 = .bytes b := by
  induction ps generalizing s seed with
  | nil => exact ⟨Underway.refl s, fun q hq => by cases hq⟩
  | cons p ps ih =>
    obtain ⟨hpeer, hvers⟩ := h p List.mem_cons_self
    obtain ⟨hu, b, hb⟩ := s.readPart_bytes v gc seed hpeer hvers
    obtain ⟨hu', hbs⟩ := ih (s.readPart v gc seed p).1 (seed + 256) fun q hq => by
      rw [hu.peer]
      exact h q (List.mem_cons_of_mem _ hq)
    refine ⟨hu.trans hu', fun q hq => ?_⟩
    obtain rfl | hq := List.mem_cons.1 hq
    · exact ⟨b, hb⟩
    · exact hbs q hq
theorem gotAll_eq_bytes {ps : List (Part × Trans × Got)} (h : ∀ q ∈ ps, ∃ b, q.2.2 = .bytes b) : ∃ b, gotAll ps = .bytes b := by
  choose! f hf using h
  exact ⟨_, gotAll_bytes ps f hf⟩

/-- A load of lanes on this package has gone on from `a` to `b`: each of `ls` has performed. -/
structure LoadsOn (a b : Loads) (ls : List Lane) : Prop where
  s : Underway a.s b.s
  away : b.away = a.away
  perf : ∀ i, i < 32 → b.perf.getLsbD i = (a.perf.getLsbD i || ls.any (fun l => l.lane == i))

theorem LoadsOn.lane (a : Loads) (v : View) (gc : Bool) (put : Nat → List Byte → List (Nat × Word)) {l : Lane}
    (h : ∀ p ∈ l.parts, p.2.peer = a.s.peer ∧ p.2.vers = false) : LoadsOn a (a.lane v gc put l) [l] := by
  obtain ⟨hu, hbs⟩ := a.s.readParts_bytes v gc (a.s.ticks * 65536 + l.lane * 1024) h
  obtain ⟨b, hb⟩ := gotAll_eq_bytes hbs
  unfold Loads.lane
  dsimp only
  rw [hb]
  refine ⟨hu, rfl, fun i hi => ?_⟩
  show (a.perf ||| laneBit l.lane).getLsbD i = _
  rw [BitVec.getLsbD_or, getLsbD_laneBit _ _ hi, List.any_cons, List.any_nil, Bool.or_false]
  rfl
theorem LoadsOn.lanes (a : Loads) (v : View) (gc : Bool) (put : Nat → List Byte → List (Nat × Word)) {ls : List Lane} (h : Owned a.s ls) :
    LoadsOn a (ls.foldl (fun a l => a.lane v gc put l) a) ls := by
  induction ls generalizing a with
  | nil => exact ⟨Underway.refl _, rfl, fun i _ => by simp⟩
  | cons l ls ih =>
    have h1 := LoadsOn.lane a v gc put (h l List.mem_cons_self)
    have h2 := ih (a.lane v gc put l) ((h.tail rfl).of_peer h1.s.peer)
    exact ⟨h1.s.trans h2.s, h2.away.trans h1.away, fun i hi => by
      rw [List.foldl_cons, h2.perf i hi, h1.perf i hi, List.any_cons, Bool.or_assoc, List.any_cons, List.any_nil, Bool.or_false]⟩
theorem laneMask_bits (ls : List Lane) (i : Nat) (hi : i < 32) : (laneMask ls).getLsbD i = ls.any (fun l => l.lane == i) :=
  getLsbD_maskOf _ i hi
theorem mask_ext {a b : Mask} (h : ∀ i, i < 32 → a.getLsbD i = b.getLsbD i) : a = b := BitVec.eq_of_getLsbD_eq h
theorem Underway.issue {a : Loads} (h : a.away = 0) (d : RegNo) (sz : Size) (sx : Bool) : Underway a.s (a.issue d sz sx) := by
  rw [Loads.issue, if_pos h]
  exact Underway.addPending _ _ _

/-! #### Stores -/

/-- Stores of lanes on this package leave no lane waiting. -/
theorem State.storeLanes_owned (s : State) {ls : List Lane} (rel : Bool) (data : Nat → List (Nat × Byte)) (h : Owned s ls) :
    Underway s (s.storeLanes ls rel data).1 ∧ (s.storeLanes ls rel data).2.1 = 0 := by
  unfold State.storeLanes
  extract_lets old data' plain u v cs t r waits done
  have hhere : ∀ x : State, x.peer = s.peer → ∀ c ∈ plain, x.away c.1 = false := fun x hx c hc => by
    obtain ⟨l, hl, hc⟩ := List.mem_flatMap.1 hc
    obtain ⟨p, hp, rfl⟩ := List.mem_map.1 hc
    have hpeer := (h l hl p (List.mem_filter.1 hp).1).1
    simp [State.away, hx, hpeer]
  have hu : Underway s u := Underway.foldl _ (fun s (c : Trans × List (Nat × Byte)) => Underway.storeHere s c.1 c.2) _ s
  have hv : v = u := congrArg (u.storeAway rel) (List.filter_eq_nil_iff.2 fun c hc => by rw [hhere u hu.peer c hc]; exact Bool.false_ne_true)
  have hcs : cs = [] := List.flatMap_eq_nil_iff.2 fun l hl => by
    have hvers : l.parts.filter (fun p => p.2.vers) = [] := List.filter_eq_nil_iff.2 fun p hp => by simp [(h l hl p hp).2]
    rw [Lane.vcells, hvers, List.flatMap_nil]
  have hr : r = (u, [], 0) := by
    rw [show r = State.storeLines t cs _ from rfl, show t = List.foldl _ v cs from rfl, hcs, hv]
    rfl
  have hwaits : waits = 0 := by rw [show waits = List.foldl _ 0 r.2.1 from rfl, hr]; rfl
  rw [hr]
  exact ⟨hu.trans (Underway.upd u (fun w => { w with stored := old ++ done }) rfl), hwaits⟩

/-! #### Atomics -/

/-- An atomic of lanes on this package has gone on from `x` to `y`: each of `ls` has performed. -/
structure AtomsOn (x y : Atoms) (ls : List Lane) : Prop where
  s : Underway x.s y.s
  away : y.away = x.away
  here : ∀ i, i < 32 → y.here.getLsbD i = (x.here.getLsbD i || ls.any (fun l => l.lane == i))

theorem AtomsOn.lane (x : Atoms) (i : AtomIn) {l : Lane} (hne : l.parts ≠ []) (h : ∀ p ∈ l.parts, p.2.peer = x.s.peer ∧ p.2.vers = false) :
    AtomsOn x (x.lane i l) [l] := by
  obtain ⟨p, ps, hps⟩ := List.exists_cons_of_ne_nil hne
  have hdrop : Underway x.s (x.s.dropCopy x.s.myDie p.2.peer (p.2.addr p.1.va / 128)) := Underway.setDie _ _ _
  have haway : (x.s.dropCopy x.s.myDie p.2.peer (p.2.addr p.1.va / 128)).away p.2 = false := by
    rw [State.away, hdrop.peer, (h p (hps ▸ List.mem_cons_self)).1, bne_self_eq_false]
  unfold Atoms.lane
  rw [hps]
  dsimp only
  rw [haway, if_neg Bool.false_ne_true]
  refine ⟨hdrop.trans ((Underway.setBytes _ _ _).trans (Underway.endLeases _ _ _)), rfl, fun j hj => ?_⟩
  show (x.here ||| laneBit l.lane).getLsbD j = _
  rw [BitVec.getLsbD_or, getLsbD_laneBit _ _ hj, List.any_cons, List.any_nil, Bool.or_false]
  rfl
theorem AtomsOn.lanes (x : Atoms) (i : AtomIn) {ls : List Lane} (hne : ∀ l ∈ ls, l.parts ≠ []) (h : Owned x.s ls) :
    AtomsOn x (ls.foldl (fun x l => x.lane i l) x) ls := by
  induction ls generalizing x with
  | nil => exact ⟨Underway.refl _, rfl, fun i _ => by simp⟩
  | cons l ls ih =>
    have h1 := AtomsOn.lane x i (hne l List.mem_cons_self) (h l List.mem_cons_self)
    have h2 := ih (x.lane i l) (fun l hl => hne l (List.mem_cons_of_mem _ hl)) ((h.tail rfl).of_peer h1.s.peer)
    exact ⟨h1.s.trans h2.s, h2.away.trans h1.away, fun i hi => by
      rw [List.foldl_cons, h2.here i hi, h1.here i hi, List.any_cons, Bool.or_assoc, List.any_cons, List.any_nil, Bool.or_false]⟩
theorem Owned.apart {s : State} {ls : List Lane} (one rel : Bool) (seen : List (Peer × Nat)) (hne : ∀ l ∈ ls, l.parts ≠ []) (h : Owned s ls) :
    s.apart one rel seen ls = ls := by
  induction ls with
  | nil => rfl
  | cons l ls ih =>
    obtain ⟨p, ps, hps⟩ := List.exists_cons_of_ne_nil (hne l List.mem_cons_self)
    have haway : s.away p.2 = false := by simp [State.away, (h l List.mem_cons_self p (hps ▸ List.mem_cons_self)).1]
    unfold State.apart
    rw [hps]
    dsimp only
    rw [haway, if_pos (by rfl), ih (fun l hl => hne l (List.mem_cons_of_mem _ hl)) (h.tail rfl)]
theorem Owned.atomRun {s : State} {ls : List Lane} (acq rel : Bool) (hne : ∀ l ∈ ls, l.parts ≠ []) (h : Owned s ls) :
    s.atomRun acq rel ls = ls := by
  have hfree : ls.filter (fun l => !s.lanesHeld [l]) = ls := List.filter_eq_self.2 fun l hl => by
    have hone : Owned s [l] := fun k hk => by
      obtain rfl := List.mem_singleton.1 hk
      exact h k hl
    rw [hone.lanesHeld]
    rfl
  unfold State.atomRun
  dsimp only
  rw [h.runOf, hfree, ite_self]
  exact h.apart _ _ _ hne
/-- Nothing holds back an atomic on this package. -/
theorem Owned.atomHeld {s : State} {ls : List Lane} (rel ordered : Bool) (hq : Quiet s) (hv : s.fenceHolds 0 = false) (hx : s.fenceHolds 3 = false)
    (h : Owned s ls) : s.atomHeld rel ordered ls = false := by
  have hband : ∀ p, s.fenceBand p = false := fun p => by rw [State.fenceBand, State.bandsOpen, hq.bands, List.any_nil, Bool.and_false]
  have hbehind : s.ownBehind (partsAll ls) = false := List.any_eq_false.2 fun p _ => by simp [hq.lineOwn]
  have hrel : ∀ dst, s.releaseX dst = false := fun dst => by
    rw [State.releaseX, State.openOn, State.bandBusy, hq.ldred, hq.ops, hq.bands]
    rfl
  unfold State.atomHeld
  dsimp only
  rw [hv, hx, hband, hband, hbehind, hq.ldred, h.lanesHeld, hq.releaseV, hrel, hq.strongHolds]
  simp

end Sys2Proof.Machine
end

section
/-! ### Instructions of which lanes fault (R155, R166, R176) -/
namespace Sys2Proof.Machine

theorem bytes_pos (sz : Size) : 0 < sz.bytes := by cases sz <;> decide
theorem bytes_le (sz : Size) : sz.bytes ≤ 4096 := by cases sz <;> decide

section
variable {m : Mask} {f : Nat → List Cause} {n : Nat} {ea : Nat → DWord} (hf : ∀ i, i < 32 → m.getLsbD i = true → f i = vaCause (ea i) n)
include hf
theorem lowestCause_inside (h : ∀ i, i < 32 → m.getLsbD i = true → (ea i).toNat + n ≤ 2 ^ 48) : lowestCause m f = none :=
  lowestCause_none fun i hi hm => (hf i hi hm).trans (vaCause_inside (h i hi hm))
theorem lowestCause_beyond (h : ∃ i, i < 32 ∧ m.getLsbD i = true ∧ 2 ^ 48 < (ea i).toNat + n) :
    ∃ flm, lowestCause m f = some (0x0C2, flm) ∧ ∀ i, i < 32 → (flm.getLsbD i = true ↔ m.getLsbD i = true ∧ 2 ^ 48 < (ea i).toNat + n) := by
  obtain ⟨j, hj, hm, hb⟩ := h
  obtain ⟨flm, hlow, hflm⟩ := lowestCause_only (m := m) (f := f) (c := 0x0C2) (fun i hi hm => by rw [hf i hi hm]; exact vaCause_cases _ _)
    ⟨j, hj, hm, by rw [hf j hj hm, vaCause_beyond hb]⟩
  refine ⟨flm, hlow, fun i hi => (hflm i hi).trans (and_congr_right fun hm => ?_)⟩
  rw [hf i hi hm, vaCause_eq_iff]
end
theorem parts_ne_zero {m : Mask} {i : Nat} (h : m.getLsbD i = true) : m ≠ 0 := by
  rintro rfl
  simp at h
theorem mask_sub_zero (m : Mask) : m &&& ~~~0 = m := BitVec.and_allOnes
theorem Pass.finish_faults {p : Pass} (all : Mask) (acc len : Nat) (sw : Bool) (ea : Nat → DWord) (h : p.faults ≠ []) :
    p.finish all acc len sw ea = p.s.replayable p.faults (p.s.w.done ||| p.perf) acc := if_pos h

section
variable {s : State} {m : Mask} {want : Want} {n : Nat} {ea : Nat → DWord}
theorem State.faults_ne_nil (h : ∃ i, i < 32 ∧ m.getLsbD i = true ∧ s.Bad want n ea i) : (s.transLanes want n ea (lanesOf m)).2 ≠ [] := by
  obtain ⟨i, hi, hm, hb⟩ := h
  obtain ⟨f, hf, -⟩ := (State.transLanes_fault (lanesOf m) i).2 ⟨(mem_lanesOf m i).2 ⟨hi, hm⟩, hb⟩
  exact List.ne_nil_of_mem hf
theorem State.lane_parts_ne_nil : ∀ l ∈ (s.transLanes want n ea (lanesOf m)).1, l.parts ≠ [] := fun _ hl =>
  State.transParts_ok_ne_nil (State.transLanes_ok.1 hl).2.2 (partsOf_ne_nil _ _)
end

/-- Some lane of `m` faults, and every lane of it faults or accesses unversioned pages of this package. -/
structure SomeFault (s : State) (m : Mask) (want : Want) (n : Nat) (ea : Nat → DWord) : Prop where
  bad : ∃ i, i < 32 ∧ m.getLsbD i = true ∧ s.Bad want n ea i
  inside : ∀ i, i < 32 → m.getLsbD i = true → (ea i).toNat + n ≤ 2 ^ 48
  rest : ∀ i, i < 32 → m.getLsbD i = true → s.Bad want n ea i ∨ s.Here want i (ea i) n

theorem SomeFault.ne_zero {s : State} {m : Mask} {want : Want} {n : Nat} {ea : Nat → DWord} (h : SomeFault s m want n ea) : m ≠ 0 := by
  obtain ⟨i, -, hm, -⟩ := h.bad
  exact parts_ne_zero hm

/-! #### Loads -/

theorem LoadsOn.performed {u : State} {a : Loads} {ls : List Lane} (h : LoadsOn { s := u } a ls) : a.perf ||| a.away = laneMask ls := by
  rw [h.away]
  refine mask_ext fun i hi => ?_
  rw [BitVec.getLsbD_or, h.perf i hi, laneMask_bits _ _ hi]
  simp

section
variable {s : State} (hdr : Hdr) (v : View) (gc sx acq : Bool) (reach : Nat) (sz : Size) (d : RegNo) {ea : Nat → DWord}
theorem State.load_faulted (hq : Quiet s) (h : SomeFault s (s.w.parts hdr) wantR sz.bytes ea) :
    Faulted s (s.load hdr v gc sx acq reach sz d ea []) (s.w.parts hdr) wantR sz.bytes ea := by
  have hown := State.owned_transLanes (bytes_pos sz) h.rest
  have hlow : lowestCause (s.w.parts hdr) (fun i => vaCause (ea i) sz.bytes ++ []) = none :=
    lowestCause_inside (fun i _ _ => List.append_nil _) h.inside
  unfold State.load
  dsimp only
  rw [if_neg h.ne_zero, hlow]
  dsimp only
  rw [hown.runOf, hown.not_away, hown.lanesHeld, hq.strongHolds, Bool.and_false, Bool.or_false, if_neg Bool.false_ne_true, Bool.false_and,
    if_neg Bool.false_ne_true, Pass.finish_faults _ _ _ _ _ (State.faults_ne_nil h.bad)]
  have hnote := Underway.noteParts s true (partsAll (s.transLanes wantR sz.bytes ea (lanesOf (s.w.parts hdr))).1)
  have hon := LoadsOn.lanes { s := s.noteParts true (partsAll (s.transLanes wantR sz.bytes ea (lanesOf (s.w.parts hdr))).1) } v gc
    (fun i b => loadWrites d sz sx i b) (hown.of_peer hnote.peer)
  generalize List.foldl (fun a l => Loads.lane a v gc (fun i b => loadWrites d sz sx i b) l) _ _ = a at hon ⊢
  rw [hon.performed]
  have hits := ((hnote.trans hon.s).trans (Underway.issue hon.away d sz sx)).trans
    (Underway.noteHits _ (laneMask (s.transLanes wantR sz.bytes ea (lanesOf (s.w.parts hdr))).1) true false sz.bytes ea)
  exact State.faulted (Underway.ite ((hits.trans (Underway.acquireOn _ _ _)).trans (Underway.upd _ _ rfl)) hits) 0 h.bad
theorem State.load_beyond {n : Nat} (hn : n = sz.bytes) (h : ∃ i, i < 32 ∧ (s.w.parts hdr).getLsbD i = true ∧ 2 ^ 48 < (ea i).toNat + n) :
    Beyond s (s.load hdr v gc sx acq reach sz d ea []) (s.w.parts hdr) n ea := by
  subst hn
  obtain ⟨flm, hlow, hflm⟩ := lowestCause_beyond (f := fun i => vaCause (ea i) sz.bytes ++ []) (fun i _ _ => List.append_nil _) h
  obtain ⟨i, hi, hm, hb⟩ := h
  unfold State.load
  dsimp only
  rw [if_neg (parts_ne_zero hm), hlow]
  exact State.checkFails_beyond (Underway.refl s) 0 (bytes_le sz) hflm ⟨i, hi, hm, hb⟩
end

/-! #### Stores -/

section
variable {s : State} (hdr : Hdr) (rel : Bool) {n : Nat} {ea : Nat → DWord} (data : Nat → List (Nat × Byte))
theorem State.store_faulted (hq : Quiet s) (hn : 0 < n) (h : SomeFault s (s.w.parts hdr) wantW n ea) :
    Faulted s (s.store hdr rel n ea data) (s.w.parts hdr) wantW n ea := by
  have hown := State.owned_transLanes hn h.rest
  unfold State.store
  dsimp only
  rw [if_neg h.ne_zero, lowestCause_inside (fun _ _ _ => rfl) h.inside]
  dsimp only
  rw [hown.runOf, hq.storeHeld, hq.storeBehind _ _ hown.parts, Bool.or_false, if_neg Bool.false_ne_true,
    Pass.finish_faults _ _ _ _ _ (State.faults_ne_nil h.bad)]
  have hnote := Underway.noteParts s true (partsAll (s.transLanes wantW n ea (lanesOf (s.w.parts hdr))).1)
  obtain ⟨hst, hwaits⟩ := (s.noteParts true (partsAll (s.transLanes wantW n ea (lanesOf (s.w.parts hdr))).1)).storeLanes_owned (s.relNow rel) data
    (hown.of_peer hnote.peer)
  rw [hwaits, mask_sub_zero]
  exact State.faulted ((hnote.trans hst).trans (Underway.noteHits _ _ _ _ _ _)) 1 h.bad
theorem State.store_beyond (hn : n ≤ 4096) (h : ∃ i, i < 32 ∧ (s.w.parts hdr).getLsbD i = true ∧ 2 ^ 48 < (ea i).toNat + n) :
    Beyond s (s.store hdr rel n ea data) (s.w.parts hdr) n ea := by
  obtain ⟨flm, hlow, hflm⟩ := lowestCause_beyond (f := fun i => vaCause (ea i) n) (fun _ _ _ => rfl) h
  obtain ⟨i, hi, hm, hb⟩ := h
  unfold State.store
  dsimp only
  rw [if_neg (parts_ne_zero hm), hlow]
  exact State.checkFails_beyond (Underway.refl s) 1 hn hflm ⟨i, hi, hm, hb⟩
end

/-! #### Atomics -/

theorem AtomsOn.performed {u : State} {x : Atoms} {ls : List Lane} (h : AtomsOn { s := u } x ls) : x.here ||| x.away = laneMask ls := by
  rw [h.away]
  refine mask_ext fun i hi => ?_
  rw [BitVec.getLsbD_or, h.here i hi, laneMask_bits _ _ hi]
  simp

/-- The lanes of `m` access naturally aligned `n` bytes on pages that are not versioned (R176, R187). -/
def Plain (s : State) (m : Mask) (n : Nat) (ea : Nat → DWord) : Prop :=
  ∀ i, i < 32 → m.getLsbD i = true → (ea i).toNat % n = 0 ∧ s.versionedAt i (ea i) = false
/-- Of the checks of an atomic, plain lanes can fail that of the address space alone. -/
theorem Plain.causes {s : State} {m : Mask} {n : Nat} {ea : Nat → DWord} (h : Plain s m n ea) (i : Nat) (hi : i < 32) (hm : m.getLsbD i = true) :
    alignCause (ea i) n ++ vaCause (ea i) n ++ (if s.versionedAt i (ea i) then [0x08A] else []) = vaCause (ea i) n := by
  obtain ⟨hal, hv⟩ := h i hi hm
  rw [alignCause_aligned hal, hv, if_neg Bool.false_ne_true, List.append_nil, List.nil_append]

/-- The bytes of an atomic. -/
def atomBytes (wide : Bool) : Nat := if wide then 8 else 4
theorem atomBytes_pos (wide : Bool) : 0 < atomBytes wide := by cases wide <;> decide
theorem atomBytes_le (wide : Bool) : atomBytes wide ≤ 4096 := by cases wide <;> decide

section
variable {s : State} (i : AtomIn) (hp : Plain s (s.w.parts i.h) (atomBytes i.wide) (s.w.ea i.m))
include hp
theorem State.atomic_faulted (hu : s.Unheld) (h : SomeFault s (s.w.parts i.h) wantRW (atomBytes i.wide) (s.w.ea i.m)) :
    Faulted s (s.atomic i) (s.w.parts i.h) wantRW (atomBytes i.wide) (s.w.ea i.m) := by
  have hown := State.owned_transLanes (atomBytes_pos i.wide) h.rest
  have hne := State.lane_parts_ne_nil (s := s) (m := s.w.parts i.h) (want := wantRW) (n := atomBytes i.wide) (ea := s.w.ea i.m)
  obtain ⟨hv, hx, -⟩ := id hu
  unfold State.atomic
  rw [show (if i.wide = true then 8 else 4) = atomBytes i.wide from rfl]
  dsimp only
  rw [if_neg h.ne_zero, lowestCause_inside hp.causes h.inside]
  dsimp only
  rw [hown.atomRun _ _ hne, hown.atomHeld _ _ hu.quiet hv hx, if_neg Bool.false_ne_true, Pass.finish_faults _ _ _ _ _ (State.faults_ne_nil h.bad)]
  have hnote := Underway.noteParts s true (partsAll (s.transLanes wantRW (atomBytes i.wide) (s.w.ea i.m) (lanesOf (s.w.parts i.h))).1)
  have hon := AtomsOn.lanes { s := s.noteParts true (partsAll (s.transLanes wantRW (atomBytes i.wide) (s.w.ea i.m) (lanesOf (s.w.parts i.h))).1) } i
    hne (hown.of_peer hnote.peer)
  generalize List.foldl (fun x l => Atoms.lane x i l) _ _ = x at hon ⊢
  rw [hon.performed]
  refine State.faulted ?_ 2 h.bad
  refine Underway.trans ?_ (Underway.ite ((Underway.acquireOn _ _ _).trans (Underway.upd _ _ rfl)) (Underway.refl _))
  refine Underway.trans ?_ (Underway.ite (Underway.passFence _ _) (Underway.refl _))
  refine Underway.trans ?_ (Underway.ite (Underway.passFence _ _) (Underway.refl _))
  refine Underway.trans ((hnote.trans hon.s).trans ?_) (Underway.noteHits _ _ _ _ _ _)
  split
  · exact Underway.refl _
  · exact (Underway.addPending _ _ _).trans (Underway.addPending _ _ _)
theorem State.atomic_beyond (h : ∃ k, k < 32 ∧ (s.w.parts i.h).getLsbD k = true ∧ 2 ^ 48 < (s.w.ea i.m k).toNat + atomBytes i.wide) :
    Beyond s (s.atomic i) (s.w.parts i.h) (atomBytes i.wide) (s.w.ea i.m) := by
  obtain ⟨flm, hlow, hflm⟩ := lowestCause_beyond hp.causes h
  obtain ⟨k, hk, hm, hb⟩ := h
  unfold State.atomic
  rw [show (if i.wide = true then 8 else 4) = atomBytes i.wide from rfl]
  dsimp only
  rw [if_neg (parts_ne_zero hm), hlow]
  exact State.checkFails_beyond (Underway.refl s) 2 (atomBytes_le i.wide) hflm ⟨k, hk, hm, hb⟩
end

/-! #### PROMOTE -/

theorem lanes_not_sent (m : Mask) : m &&& ~~~maskOf (fun k => ([] : List (Nat × Nat)).any (fun e => e.2 == k)) = m := by
  have hnone : maskOf (fun k => ([] : List (Nat × Nat)).any (fun e => e.2 == k)) = 0 := maskOf_eq_zero fun _ _ => rfl
  rw [hnone, mask_sub_zero]
/-- Lanes on this package that PROMOTE reads. -/
theorem Underway.promoteLanes {s : State} {ls : List Lane} (h : Owned s ls) (away : State → Lane → Part × Trans → State) (n : Nat) :
    Underway s (ls.foldl (fun s l => l.parts.foldl (fun s p =>
      if s.away p.2 then away s l p else s.endLeases (p.2.addr p.1.va) n) s) s) := by
  induction ls generalizing s with
  | nil => exact Underway.refl s
  | cons l ls ih =>
    have hl : ∀ ps : List (Part × Trans), ∀ u : State, (∀ p ∈ ps, p.2.peer = u.peer) → Underway u (ps.foldl (fun s p =>
        if s.away p.2 then away s l p else s.endLeases (p.2.addr p.1.va) n) u) := fun ps => by
      induction ps with
      | nil => exact fun u _ => Underway.refl u
      | cons p ps ihp =>
        intro u hu
        have haway : u.away p.2 = false := by rw [State.away, hu p List.mem_cons_self, bne_self_eq_false]
        rw [List.foldl_cons, haway, if_neg Bool.false_ne_true]
        exact (Underway.endLeases _ _ _).trans (ihp _ fun q hq => hu q (List.mem_cons_of_mem _ hq))
    have h1 := hl l.parts s fun p hp => (h l List.mem_cons_self p hp).1
    exact h1.trans (ih ((h.tail rfl).of_peer h1.peer))
theorem Owned.filter_here {s : State} {ls : List Lane} (h : Owned s ls) : ls.filter (fun l => l.parts.all (fun p => !s.away p.2)) = ls :=
  List.filter_eq_self.2 fun _ hl => h.all_here hl

section
variable {s : State} (i : Promote) (hp : Plain s (s.w.parts i.h) (atomBytes i.wide) (s.w.ea i.m))
include hp
theorem State.promote_faulted (hq : Quiet s) (hfree : s.w.promotes = []) (h : SomeFault s (s.w.parts i.h) wantR (atomBytes i.wide) (s.w.ea i.m)) :
    Faulted s (s.promoteGlobal i) (s.w.parts i.h) wantR (atomBytes i.wide) (s.w.ea i.m) := by
  have hown := State.owned_transLanes (atomBytes_pos i.wide) h.rest
  unfold State.promoteGlobal
  rw [show (if i.wide = true then 8 else 4) = atomBytes i.wide from rfl]
  dsimp only
  rw [if_neg h.ne_zero, lowestCause_inside hp.causes h.inside]
  dsimp only
  rw [hfree, lanes_not_sent, hq.releaseV, hown.lanesHeld, Bool.and_false, Bool.or_false, if_neg Bool.false_ne_true, hown.filter_here,
    Pass.finish_faults _ _ _ _ _ (State.faults_ne_nil h.bad)]
  have hnote := Underway.noteParts s true (partsAll (s.transLanes wantR (atomBytes i.wide) (s.w.ea i.m) (lanesOf (s.w.parts i.h))).1)
  refine State.faulted ?_ 0 h.bad
  refine Underway.trans ?_ ((Underway.noteHits _ _ _ _ _ _).trans (Underway.acquire _ _))
  exact hnote.trans (Underway.promoteLanes (hown.of_peer hnote.peer) _ _)
theorem State.promote_beyond (h : ∃ k, k < 32 ∧ (s.w.parts i.h).getLsbD k = true ∧ 2 ^ 48 < (s.w.ea i.m k).toNat + atomBytes i.wide) :
    Beyond s (s.promoteGlobal i) (s.w.parts i.h) (atomBytes i.wide) (s.w.ea i.m) := by
  obtain ⟨flm, hlow, hflm⟩ := lowestCause_beyond hp.causes h
  obtain ⟨k, hk, hm, hb⟩ := h
  unfold State.promoteGlobal
  rw [show (if i.wide = true then 8 else 4) = atomBytes i.wide from rfl]
  dsimp only
  rw [if_neg (parts_ne_zero hm), hlow]
  exact State.checkFails_beyond (Underway.refl s) 0 (atomBytes_le i.wide) hflm ⟨k, hk, hm, hb⟩
end

end Sys2Proof.Machine
end

section
/-! ### Accesses let past their FENCE, of which lanes fault (R155, R166, R193) -/
namespace Sys2Proof.Machine

theorem exec_ld (i : Load) (s : State) (h : s.fenceHolds 0 = false) : exec (.ld i) s = .next ((s.passFence 0).load i.h (s.passFence 0).view
    (i.space == .gc) i.sx (isAcq i.ord) i.scope.reach i.size i.d ((s.passFence 0).w.ea i.m) []) :=
  s.memory_free 0 (fun s => s.load i.h s.view (i.space == .gc) i.sx (isAcq i.ord) i.scope.reach i.size i.d (fun n => s.w.ea i.m n) []) h
theorem exec_st (i : Store) (s : State) (h : s.fenceHolds 0 = false) : exec (.st i) s = .next ((s.passFence 0).store i.h (isRel i.ord)
    i.size.bytes ((s.passFence 0).w.ea i.m) (fun n => ((s.passFence 0).w.storeData i.size i.a n).zipIdx.map (fun e => (e.2, e.1)))) := by
  have he : exec (.st i) s = execSt i s := rfl
  rw [he, execSt, s.memory_free 0 _ h]
theorem exec_promote_global (i : Promote) (s : State) (h : s.fenceHolds 0 = false) (hsp : i.sp = false) :
    exec (.promote i) s = .next ((s.passFence 0).promoteGlobal i) := by
  have he : exec (.promote i) s = execPromote i s := rfl
  rw [he, execPromote, s.memory_free 0 _ h, hsp, if_neg Bool.false_ne_true]
theorem exec_atom_global (i : Atom) (s : State) (hsp : i.sp = false) :
    exec (.atom i) s = .next (s.atomic ⟨i.h, i.aop, i.scope.reach, i.ord, i.wide, none, i.a, i.b, i.m⟩) := if_neg (by simp [hsp])
theorem exec_atomr_global (i : AtomR) (s : State) (hsp : i.sp = false) :
    exec (.atomr i) s = .next (s.atomic ⟨i.h, i.aop, i.scope.reach, i.ord, i.wide, some i.d, i.a, i.b, i.m⟩) := if_neg (by simp [hsp])

/-! #### A FENCE that is passed changes nothing that faults depend on -/

section
variable (s : State) (p : Nat)
theorem State.parts_passFence (h : Hdr) : (s.passFence p).w.parts h = s.w.parts h := by rw [State.w_passFence]; rfl
theorem State.ea_passFence (m : MemOp) : (s.passFence p).w.ea m = s.w.ea m := by rw [State.w_passFence]; rfl
theorem State.promotes_passFence : (s.passFence p).w.promotes = s.w.promotes := by rw [State.w_passFence]
theorem State.lookup_passFence (die i : Nat) (va : DWord) : (s.passFence p).lookup (s.passFence p).w.ctx die i va = s.lookup s.w.ctx die i va := by
  unfold State.lookup
  simp only [State.fresh_passFence, State.w_passFence]
  rfl
theorem State.versionedAt_passFence (k : Nat) (ea : DWord) : (s.passFence p).versionedAt k ea = s.versionedAt k ea := by
  unfold State.versionedAt
  rw [State.lookup_passFence]
  rfl
theorem State.bad_passFence (want : Want) (n : Nat) (ea : Nat → DWord) (i : Nat) : (s.passFence p).Bad want n ea i ↔ s.Bad want n ea i := by
  unfold State.Bad
  simp only [State.transParts_passFence, State.w_passFence]
  rfl
theorem State.here_passFence (want : Want) (i : Nat) (ea : DWord) (n : Nat) : (s.passFence p).Here want i ea n ↔ s.Here want i ea n := by
  unfold State.Here State.byteOfAccess
  simp only [State.translate_passFence, State.w_passFence]
  rfl
theorem mapOf_passFence (m : TrapMap) (cause : Cause) (flm done : Mask) (addr : DWord) :
    MapOf m (s.passFence p) cause flm done addr ↔ MapOf m s cause flm done addr := by
  unfold MapOf
  rw [State.w_passFence]
  rfl
end

section
variable {s t : State} {p : Nat} {m : Mask} {want : Want} {n : Nat} {ea : Nat → DWord}
theorem SomeFault.passFence (h : SomeFault s m want n ea) : SomeFault (s.passFence p) m want n ea := by
  refine ⟨?_, h.inside, fun i hi hm => ?_⟩
  · simp only [State.bad_passFence]
    exact h.bad
  · rw [State.bad_passFence, State.here_passFence]
    exact h.rest i hi hm
theorem Plain.passFence (h : Plain s m n ea) : Plain (s.passFence p) m n ea := fun i hi hm => by
  rw [State.versionedAt_passFence]
  exact h i hi hm
theorem Faulted.of_passFence (h : Faulted (s.passFence p) t m want n ea) : Faulted s t m want n ea := by
  unfold Faulted at h ⊢
  simp only [State.bad_passFence, mapOf_passFence, State.transParts_passFence, State.w_passFence] at h
  exact h
theorem Beyond.of_passFence (h : Beyond (s.passFence p) t m n ea) : Beyond s t m n ea := by
  unfold Beyond at h ⊢
  simp only [mapOf_passFence, State.w_passFence] at h
  exact h
theorem Replays.of_passFence {cause : Cause} {flm dm : Mask} {addr : DWord} (h : Replays (s.passFence p) t cause flm dm addr) :
    Replays s t cause flm dm addr := by
  obtain ⟨hstat, hpc, hwait, hrec, hdone, hmap⟩ := h
  rw [State.w_passFence] at hpc hmap
  exact ⟨hstat, hpc, hwait, hrec, hdone, fun hmode => (mapOf_passFence s p _ _ _ _ _).1 (hmap hmode)⟩
end

/-! #### SPILL and FILL: every lane faults (R77) -/

theorem faultMask_everyLane (f : LaneFault) (fs : List LaneFault) : faultMask (everyLane (f :: fs)) = fullMask := by
  refine mask_ext fun i hi => ?_
  have hfull : fullMask.getLsbD i = true := by
    rw [show fullMask = BitVec.allOnes 32 from rfl, BitVec.getLsbD_allOnes, decide_eq_true hi]
  rw [hfull, getLsbD_faultMask _ _ hi]
  exact ⟨{ f with lane := i }, List.mem_flatMap.2 ⟨i, List.mem_range.2 hi, List.mem_cons_self⟩, rfl⟩
theorem State.everyLane_replays (s : State) (f : LaneFault) (fs : List LaneFault) (acc : Nat) :
    Replays s (s.replayable (everyLane (f :: fs)) 0 acc) f.cause fullMask 0 f.ea := by
  have h := State.replayable_replays (Underway.refl s) { f with lane := 0 } (everyLane (f :: fs)).tail 0 acc
  have hall : { f with lane := 0 } :: (everyLane (f :: fs)).tail = everyLane (f :: fs) := rfl
  rwa [hall, faultMask_everyLane] at h

section
variable {s : State} {f : LaneFault} {fs : List LaneFault} (hd : s.w.done ≠ fullMask)
include hd
theorem State.spill_faults {i : Spill} (hsp : i.sp = false) (hc : s.slotCause i.sp (s.w.slotAt i.b i.off) = none)
    (hf : s.transParts s.w.ctx s.myDie wantW 0 (s.w.slotAt i.b i.off) (partsOf (s.w.slotAt i.b i.off) 132) = .error (f :: fs)) :
    s.spill i = s.replayable (everyLane (f :: fs)) 0 1 := by
  unfold State.spill
  extract_lets e x data
  rw [if_neg hd, show s.slotCause i.sp e = none from hc]
  dsimp only
  rw [if_neg (by simp [hsp]), show s.transParts s.w.ctx s.myDie wantW 0 e (partsOf e 132) = .error (f :: fs) from hf]
theorem State.fill_faults {i : Fill} (hsp : i.sp = false) (hc : s.slotCause i.sp (s.w.slotAt i.b i.off) = none)
    (hf : s.transParts s.w.ctx s.myDie wantR 0 (s.w.slotAt i.b i.off) (partsOf (s.w.slotAt i.b i.off) 132) = .error (f :: fs)) :
    s.fill i = s.replayable (everyLane (f :: fs)) 0 0 := by
  unfold State.fill
  extract_lets e
  rw [if_neg hd, show s.slotCause i.sp e = none from hc]
  dsimp only
  rw [if_neg (by simp [hsp]), show s.transParts s.w.ctx s.myDie wantR 0 e (partsOf e 132) = .error (f :: fs) from hf]
end

/-- The one route of SPILL and FILL whose slot does not translate. -/
theorem exec_slot_faults {s : State} {out : Host.Outcome State Fault Refusal} {want : Want} {e : DWord} {f : LaneFault} {fs : List LaneFault}
    {acc : Nat} (hf : s.transParts s.w.ctx s.myDie want 0 e (partsOf e 132) = .error (f :: fs))
    (hout : out = .next ((s.passFence 0).replayable (everyLane (f :: fs)) 0 acc)) :
    ∃ t, out = .next t ∧ Replays s t f.cause fullMask 0 e := by
  obtain ⟨-, hfields⟩ := State.transParts_fault hf
  obtain ⟨-, hea⟩ := hfields f List.mem_cons_self
  exact ⟨_, hout, hea ▸ ((s.passFence 0).everyLane_replays f fs acc).of_passFence⟩

section
variable {s : State} {f : LaneFault} {fs : List LaneFault} (hq : s.fenceHolds 0 = false) (hd : s.w.done ≠ fullMask)
include hq hd
theorem exec_spill_faults {i : Spill} (hsp : i.sp = false) (hal : (s.w.slotAt i.b i.off).toNat % 4 = 0)
    (hle : (s.w.slotAt i.b i.off).toNat + 132 ≤ 2 ^ 48) (hf : s.transParts s.w.ctx s.myDie wantW 0 (s.w.slotAt i.b i.off)
      (partsOf (s.w.slotAt i.b i.off) 132) = .error (f :: fs)) :
    ∃ t, exec (.spill i) s = .next t ∧ Replays s t f.cause fullMask 0 (s.w.slotAt i.b i.off) := by
  refine exec_slot_faults hf ((exec_spill i s hq).trans (congrArg _ (State.spill_faults ?_ hsp ?_ ?_)))
  · rwa [State.w_passFence]
  · rw [s.slotCause_passFence, State.w_passFence]
    exact State.slotCause_global hsp hal hle
  · rw [State.transParts_passFence, State.w_passFence]
    exact hf
theorem exec_fill_faults {i : Fill} (hsp : i.sp = false) (hal : (s.w.slotAt i.b i.off).toNat % 4 = 0)
    (hle : (s.w.slotAt i.b i.off).toNat + 132 ≤ 2 ^ 48) (hf : s.transParts s.w.ctx s.myDie wantR 0 (s.w.slotAt i.b i.off)
      (partsOf (s.w.slotAt i.b i.off) 132) = .error (f :: fs)) :
    ∃ t, exec (.fill i) s = .next t ∧ Replays s t f.cause fullMask 0 (s.w.slotAt i.b i.off) := by
  refine exec_slot_faults hf ((exec_fill i s hq).trans (congrArg _ (State.fill_faults ?_ hsp ?_ ?_)))
  · rwa [State.w_passFence]
  · rw [s.slotCause_passFence, State.w_passFence]
    exact State.slotCause_global hsp hal hle
  · rw [State.transParts_passFence, State.w_passFence]
    exact hf
end

/-! #### The four instructions on lanes -/

/-- What O27 states of an instruction that, with `n` bytes for each lane of `m` at `ea`, has the outcome `out`. -/
def FaultsOrBeyond (s : State) (out : Host.Outcome State Fault Refusal) (m : Mask) (want : Want) (n : Nat) (ea : Nat → DWord) : Prop :=
  (SomeFault s m want n ea → ∃ t, out = .next t ∧ Faulted s t m want n ea) ∧
  ((∃ i, i < 32 ∧ m.getLsbD i = true ∧ 2 ^ 48 < (ea i).toNat + n) → ∃ t, out = .next t ∧ Beyond s t m n ea)

section
variable {s : State} (hu : s.Unheld)
include hu
theorem exec_ld_faults (i : Load) : FaultsOrBeyond s (exec (.ld i) s) (s.w.parts i.h) wantR i.size.bytes (s.w.ea i.m) := by
  have he := exec_ld i s hu.1
  rw [State.ea_passFence] at he
  refine ⟨fun h => ⟨_, he, ?_⟩, fun h => ⟨_, he, ?_⟩⟩
  · have hf := h.passFence (p := 0)
    rw [← s.parts_passFence 0] at hf ⊢
    exact (State.load_faulted i.h _ _ _ _ _ _ _ (hu.quiet.passFence 0) hf).of_passFence
  · rw [← s.parts_passFence 0] at h ⊢
    exact (State.load_beyond i.h _ _ _ _ _ _ _ rfl h).of_passFence
theorem exec_st_faults (i : Store) : FaultsOrBeyond s (exec (.st i) s) (s.w.parts i.h) wantW i.size.bytes (s.w.ea i.m) := by
  have he := exec_st i s hu.1
  rw [State.ea_passFence] at he
  refine ⟨fun h => ⟨_, he, ?_⟩, fun h => ⟨_, he, ?_⟩⟩
  · have hf := h.passFence (p := 0)
    rw [← s.parts_passFence 0] at hf ⊢
    exact (State.store_faulted i.h _ _ (hu.quiet.passFence 0) (bytes_pos i.size) hf).of_passFence
  · rw [← s.parts_passFence 0] at h ⊢
    exact (State.store_beyond i.h _ _ (bytes_le i.size) h).of_passFence
theorem exec_promote_faults (i : Promote) (hsp : i.sp = false) (hfree : s.w.promotes = [])
    (hp : Plain s (s.w.parts i.h) (atomBytes i.wide) (s.w.ea i.m)) :
    FaultsOrBeyond s (exec (.promote i) s) (s.w.parts i.h) wantR (atomBytes i.wide) (s.w.ea i.m) := by
  have he := exec_promote_global i s hu.1 hsp
  have hp' := hp.passFence (p := 0)
  rw [← s.parts_passFence 0, ← s.ea_passFence 0] at hp'
  refine ⟨fun h => ⟨_, he, ?_⟩, fun h => ⟨_, he, ?_⟩⟩
  · have hf := h.passFence (p := 0)
    rw [← s.parts_passFence 0, ← s.ea_passFence 0] at hf ⊢
    exact (State.promote_faulted i hp' (hu.quiet.passFence 0) ((s.promotes_passFence 0).trans hfree) hf).of_passFence
  · rw [← s.parts_passFence 0, ← s.ea_passFence 0] at h ⊢
    exact (State.promote_beyond i hp' h).of_passFence
theorem State.atomic_faults (i : AtomIn) (hp : Plain s (s.w.parts i.h) (atomBytes i.wide) (s.w.ea i.m)) :
    FaultsOrBeyond s (.next (s.atomic i)) (s.w.parts i.h) wantRW (atomBytes i.wide) (s.w.ea i.m) :=
  ⟨fun h => ⟨_, rfl, s.atomic_faulted i hp hu h⟩, fun h => ⟨_, rfl, s.atomic_beyond i hp h⟩⟩
end

/-- A participating lane is none of those that have performed (R155). -/
theorem Warp.parts_not_done (w : Warp) (h : Hdr) (i : Nat) (hi : (w.parts h).getLsbD i = true) : w.done.getLsbD i = false := by
  rw [Warp.parts, BitVec.getLsbD_and, Bool.and_eq_true, BitVec.getLsbD_not] at hi
  simpa using (Bool.and_eq_true _ _).mp hi.2 |>.2

end Sys2Proof.Machine
end

section
open Sys2Proof Sys2Proof.Machine
/-- Settles O27: until it ends, an access changes nothing that the map records, so that a pass with faults ends in the map of the first fault
of the lowest lane that has one, with the lanes that translate performed. -/
theorem faultingLanesMakeTheWarpReplayable : Obligations.FaultingLanesMakeTheWarpReplayable := by
  unfold Obligations.FaultingLanesMakeTheWarpReplayable
  intro s hu _
  refine ⟨fun h i => s.w.parts_not_done h i, ?_⟩
  intro faults beyond slot plain both
  have both_of : ∀ {out : Host.Outcome State Fault Refusal} {h : Hdr} {m : MemOp} {want : Want} {n : Nat},
      FaultsOrBeyond s out (s.w.parts h) want n (s.w.ea m) → both out h m want n := fun {out h m want n} hf =>
    ⟨fun hbad hrest => hf.1 ⟨hbad, fun i hi hm => (hrest i hi hm).1, fun i hi hm => (hrest i hi hm).2⟩, hf.2⟩
  have slot_of : ∀ {out : Host.Outcome State Fault Refusal} {want : Want} {e : DWord},
      (e.toNat % 4 = 0 → e.toNat + 132 ≤ 2 ^ 48 → s.w.done ≠ fullMask →
        ∀ f fs, s.transParts s.w.ctx s.myDie want 0 e (partsOf e 132) = .error (f :: fs) →
          ∃ t, out = .next t ∧ Replays s t f.cause fullMask 0 e) → slot out want e := fun hs hal hle hd f fs hf => by
    obtain ⟨t, hout, hr⟩ := hs hal hle hd f fs hf
    exact ⟨t, hout, hr.stat, hr.pc, hr.waiting, hr.done, hr.records, hr.map⟩
  refine ⟨fun i => both_of (exec_ld_faults hu i), fun i => both_of (exec_st_faults hu i), fun i hsp hp => both_of ?_, fun i hsp hp => both_of ?_,
    fun i hsp hfree hp => both_of (exec_promote_faults hu i hsp hfree hp),
    fun i hsp => slot_of fun hal hle hd f fs hf => exec_spill_faults hu.1 hd hsp hal hle hf,
    fun i hsp => slot_of fun hal hle hd f fs hf => exec_fill_faults hu.1 hd hsp hal hle hf⟩
  · rw [exec_atom_global i s hsp]
    exact State.atomic_faults hu _ hp
  · rw [exec_atomr_global i s hsp]
    exact State.atomic_faults hu _ hp
end

/-! ### Translation by the range entries and the tables (R157 to R163) -/

section
namespace Sys2Proof.Machine

/-! #### Protection (R163) -/

/-- A read without RD. -/
abbrev NoRead (e : DWord) (want : Want) : Prop := want.rd = true ∧ e.getLsbD 3 = false
/-- A write without W. -/
abbrev NoWrite (e : DWord) (want : Want) : Prop := want.wr = true ∧ e.getLsbD 4 = false
/-- A fetch without X, or through an AMODE other than 00. -/
abbrev NoFetch (e : DWord) (want : Want) : Prop := want.fx = true ∧ (e.getLsbD 5 = false ∨ e.extractLsb' 50 2 ≠ 0)
/-- A privileged page in a context other than 0. -/
abbrev Privileged (e : DWord) (c : CtxId) : Prop := e.getLsbD 6 = true ∧ c ≠ 0

theorem protCause_transOf (e : DWord) (page : Nat) (want : Want) (c : CtxId) : protCause (transOf e page) want c =
    if NoRead e want then some 0x110 else if NoWrite e want then some 0x111 else if NoFetch e want then some 0x112
    else if Privileged e c then some 0x113 else none :=
  if_congr (by simp only [transOf, Bool.not_eq_true']) rfl <| if_congr (by simp only [transOf, Bool.not_eq_true']) rfl <|
    if_congr (by simp only [transOf, Bool.not_eq_true']) rfl rfl

/-! #### The checks of the entry that ends a translation (R162) -/

/-- What R162 forbids of a leaf and of a range entry alike. -/
abbrev State.BadAttr (s : State) (die : Nat) (e : DWord) (target : Nat) : Prop :=
  e.extractLsb' 40 7 ≠ 0 ∨ e.extractLsb' 8 4 ≠ 0 ∨ e.getLsbD 2 = true ∨ e.extractLsb' 48 2 = 3 ∨
    (e.extractLsb' 50 2 = 0 ∧ ¬e.extractLsb' 52 12 = s.peer) ∨
    (e.extractLsb' 50 2 ≠ 0 ∧ e.extractLsb' 52 12 = s.peer ∧ target / 0x3000000000 = die) ∨
    (e.getLsbD 47 = true ∧ e.extractLsb' 50 2 ≠ 0)

theorem State.attrCheck_eq (s : State) (die : Nat) (e : DWord) (target : Nat) : s.attrCheck die e target =
    if s.BadAttr die e target then .error 0x0C3
    else if ¬e.extractLsb' 52 12 = s.peer ∧ e.extractLsb' 52 12 ∉ s.clearing then .error 0x0C4
    else .ok (transOf e (target / 4096 * 4096)) := by
  simp only [State.attrCheck, transOf, ite_or, beq_iff_eq, Bool.and_eq_true, Bool.not_eq_true', beq_eq_false_iff_ne, ne_eq,
    List.contains_eq_mem, decide_eq_false_iff_not]

/-! #### The range entry that covers an address (R157, R158) -/

/-- The 8 bytes at offset `b` of entry `k` of a range table. -/
def State.rangeWord (s : State) (table k b : Nat) : DWord := s.dword (table + 32 * k + b)
/-- Entry `k` is valid and covers `va`. -/
abbrev State.Covers (s : State) (table va k : Nat) : Prop :=
  (s.rangeWord table k 24).getLsbD 0 = true ∧ (s.rangeWord table k 0).toNat ≤ va ∧ va ≤ (s.rangeWord table k 8).toNat
/-- What R158 forbids of a range entry with target `target` beside `State.BadAttr`. -/
abbrev State.BadRange (s : State) (table k target : Nat) : Prop :=
  (s.rangeWord table k 0).extractLsb' 0 12 ≠ 0 ∨ (s.rangeWord table k 8).extractLsb' 0 12 ≠ 0xFFF ∨
    (s.rangeWord table k 16).extractLsb' 0 12 ≠ 0 ∨ (s.rangeWord table k 16).extractLsb' 40 24 ≠ 0 ∨
    (s.rangeWord table k 24).extractLsb' 12 28 ≠ 0 ∨ (s.rangeWord table k 24).getLsbD 1 = true ∨
    (s.rangeWord table k 24).getLsbD 7 = true ∨ 0xBFFFFFFFFF < target

section
variable {s : State} {table die va : Nat}

theorem State.ranges_succ (n i : Nat) : s.ranges table die va (n + 1) i =
    if s.Covers table va i then
      some (s.rangeCheck die (s.rangeWord table i 0) (s.rangeWord table i 8) (s.rangeWord table i 16) (s.rangeWord table i 24) va)
    else s.ranges table die va n (i + 1) :=
  if_congr (by simp only [State.Covers, State.rangeWord, Bool.and_eq_true, decide_eq_true_eq, and_assoc, Nat.add_zero]) rfl rfl
theorem State.ranges_none {n i : Nat} (h : ∀ k, i ≤ k → k < i + n → ¬s.Covers table va k) : s.ranges table die va n i = none := by
  induction n generalizing i with
  | zero => rfl
  | succ n ih =>
    rw [State.ranges_succ, if_neg (h i le_rfl (by omega))]
    exact ih fun k hik hkn => h k (by omega) (by omega)
theorem State.ranges_first {n i k : Nat} (hik : i ≤ k) (hkn : k < i + n) (hc : s.Covers table va k)
    (h : ∀ j, i ≤ j → j < k → ¬s.Covers table va j) : s.ranges table die va n i =
      some (s.rangeCheck die (s.rangeWord table k 0) (s.rangeWord table k 8) (s.rangeWord table k 16) (s.rangeWord table k 24) va) := by
  induction n generalizing i with
  | zero => omega
  | succ n ih =>
    rw [State.ranges_succ]
    by_cases he : i = k
    · subst he
      exact if_pos hc
    · rw [if_neg (h i le_rfl (by omega))]
      exact ih (by omega) (by omega) fun j hij hjk => h j (by omega) hjk
/-- A covering entry has LIMIT ≥ BASE. -/
theorem State.rangeCheck_covers {k target : Nat} (hc : s.Covers table va k)
    (ht : target = va - (s.rangeWord table k 0).toNat + (s.rangeWord table k 16).toNat) :
    s.rangeCheck die (s.rangeWord table k 0) (s.rangeWord table k 8) (s.rangeWord table k 16) (s.rangeWord table k 24) va =
      if s.BadRange table k target then .error 0x0C3 else s.attrCheck die (s.rangeWord table k 24) target := by
  obtain ⟨-, hbase, hlimit⟩ := hc
  have hle : ¬(s.rangeWord table k 8).toNat < (s.rangeWord table k 0).toNat := by omega
  have htop : memTop ≤ target ↔ 0xBFFFFFFFFF < target := Nat.lt_iff_add_one_le.symm
  simp only [State.rangeCheck, State.BadRange, ← ht, hle, htop, false_or]
end

theorem toNat_mod_page_eq_zero {x : DWord} (h : x.extractLsb' 0 12 = 0) : x.toNat % 4096 = 0 := by
  simpa using congrArg BitVec.toNat h

/-- BASE and OFFSET are multiples of a page, so the target has the place of the address within its page. -/
theorem State.rangeTarget_mod {s : State} {table va k target : Nat} (hc : s.Covers table va k)
    (ht : target = va - (s.rangeWord table k 0).toNat + (s.rangeWord table k 16).toNat) (hg : ¬s.BadRange table k target) :
    target % 4096 = va % 4096 := by
  simp only [State.BadRange, not_or, not_not] at hg
  obtain ⟨hbase, -, hoff, -⟩ := hg
  have hb := toNat_mod_page_eq_zero hbase
  have ho := toNat_mod_page_eq_zero hoff
  have := hc.2.1
  omega

/-! #### The chain of tables to a leaf (R159, R160) -/

/-- An entry that points to the next table, with no other bit set. -/
abbrev Pointer (e : DWord) : Prop :=
  e.getLsbD 0 = true ∧ e.getLsbD 1 = true ∧ e.extractLsb' 40 24 = 0 ∧ e.extractLsb' 2 10 = 0
/-- The bytes from PFN on. -/
abbrev frameOf (e : DWord) : Nat := (e.extractLsb' 12 28).toNat * 4096
/-- The entry of a level's table that the address indexes. -/
def State.tableEntry (s : State) (va table j : Nat) : DWord := s.dword (table + 8 * (va / 2 ^ (12 + 9 * j) % 512))
/-- What R159 and R162 forbid of a leaf at level `l` beside `State.BadAttr`. -/
abbrev BadLeaf (e : DWord) (l : Nat) : Prop :=
  l = 3 ∨ (e.getLsbD 7 = true ∧ l ≠ 0) ∨ frameOf e % pageSize l (e.getLsbD 7) ≠ 0 ∨
    0xC000000000 < frameOf e + pageSize l (e.getLsbD 7)

theorem field_frame (e : DWord) : field e 12 28 = (e.extractLsb' 12 28).toNat := (BitVec.extractLsb'_toNat ..).symm

theorem pageSize_eq {l : Nat} (sz : Bool) :
    pageSize l sz = if l = 0 then (if sz = true then 65536 else 4096) else if l = 1 then 2 ^ 21 else 2 ^ 30 := by
  match l with
  | 0 => rfl
  | 1 => rfl
  | _ + 2 => simp [pageSize]
theorem page_dvd_pageSize (l : Nat) (sz : Bool) : 4096 ∣ pageSize l sz := by
  match l, sz with
  | 0, true => decide
  | 0, false => decide
  | 1, _ => exact (by decide : 4096 ∣ 0x200000)
  | _ + 2, _ => exact (by decide : 4096 ∣ 0x40000000)

section
variable {s : State} {die va table l : Nat}

theorem State.walk_pointer (h : Pointer (s.tableEntry va table (l + 1))) :
    s.walk die va (l + 2) table = s.walk die va (l + 1) (frameOf (s.tableEntry va table (l + 1))) := by
  obtain ⟨hv, ht, hhigh, hlow⟩ := h
  unfold State.tableEntry at *
  rw [State.walk]
  simp [hv, ht, hhigh, hlow, field_frame, frameOf]
theorem State.walk_invalid (h : (s.tableEntry va table l).getLsbD 0 = false) : s.walk die va (l + 1) table = .error 0x0C1 := by
  unfold State.tableEntry at h
  simp only [State.walk, h, Bool.not_false, if_true]
theorem State.walk_badPointer (hv : (s.tableEntry va table l).getLsbD 0 = true) (ht : (s.tableEntry va table l).getLsbD 1 = true)
    (hbad : l = 0 ∨ (s.tableEntry va table l).extractLsb' 40 24 ≠ 0 ∨ (s.tableEntry va table l).extractLsb' 2 10 ≠ 0) :
    s.walk die va (l + 1) table = .error 0x0C3 := by
  unfold State.tableEntry at *
  simp only [State.walk, hv, ht, Bool.not_true, Bool.false_eq_true, if_false, if_true]
  exact if_pos hbad
theorem State.walk_leaf (hv : (s.tableEntry va table l).getLsbD 0 = true) (ht : (s.tableEntry va table l).getLsbD 1 = false) :
    s.walk die va (l + 1) table = s.leaf die l va (s.tableEntry va table l) := by
  unfold State.tableEntry at *
  simp only [State.walk, hv, ht, Bool.not_true, Bool.false_eq_true, if_false]
theorem State.leaf_eq (hl : l ≤ 3) (e : DWord) : s.leaf die l va e =
    if BadLeaf e l then .error 0x0C3 else s.attrCheck die e (frameOf e + va % pageSize l (e.getLsbD 7)) := by
  have hl3 : 3 ≤ l ↔ l = 3 := by omega
  simp only [State.leaf, BadLeaf, field_frame, memTop, hl3]
theorem leafTarget_mod (e : DWord) : (frameOf e + va % pageSize l (e.getLsbD 7)) % 4096 = va % 4096 := by
  have hd := page_dvd_pageSize l (e.getLsbD 7)
  rw [Nat.add_mod, Nat.mod_mod_of_dvd _ hd, frameOf, Nat.mul_mod_left, Nat.zero_add, Nat.mod_mod]

/-- A chain of pointers from the table at level 3 to the one at level `l`. -/
theorem State.walk_chain (tables : Nat → Nat) (hl : l ≤ 3)
    (h : ∀ j, l < j → j ≤ 3 → Pointer (s.tableEntry va (tables j) j) ∧ tables (j - 1) = frameOf (s.tableEntry va (tables j) j)) :
    s.walk die va 4 (tables 3) = s.walk die va (l + 1) (tables l) := by
  induction hl using Nat.decreasingInduction with
  | self => rfl
  | of_succ l hlt ih =>
    obtain ⟨hp, hnext⟩ := h (l + 1) (by omega) (by omega)
    rw [ih fun j hj => h j (by omega), State.walk_pointer hp, ← hnext, Nat.add_sub_cancel]
end

/-! #### The translation of an access without a cached one -/

section
variable {s : State} {c : CtxId} {die n : Nat} {want : Want} {va : DWord}

theorem State.fresh_noncanonical (h : va.extractLsb' 48 16 ≠ 0) : s.fresh c die va = .error 0x0C2 := by
  rw [State.fresh, State.freshBy, if_pos h]
theorem State.fresh_range {r : Except Cause Trans} (h : va.extractLsb' 48 16 = 0)
    (hr : s.ranges (s.ctx c).range.toNat die va.toNat 64 0 = some r) : s.fresh c die va = r := by
  rw [State.fresh, State.freshBy, if_neg (not_not.mpr h), hr]
theorem State.fresh_walk (h : va.extractLsb' 48 16 = 0) (hr : s.ranges (s.ctx c).range.toNat die va.toNat 64 0 = none) :
    s.fresh c die va = s.walk die va.toNat 4 (s.ctx c).troot.toNat := by
  rw [State.fresh, State.freshBy, if_neg (not_not.mpr h), hr]

section
variable (hpins : ∀ e ∈ s.w.pins, e.1 ≠ va.toNat / 4096)
include hpins
theorem State.pins_find_none : s.w.pins.find? (fun e => e.1 == va.toNat / 4096) = none := by
  rw [List.find?_eq_none]
  exact fun e he => by simpa using hpins e he
theorem State.lookup_noncanonical (h : va.extractLsb' 48 16 ≠ 0) : s.lookup c die n va = .error 0x0C2 := by
  rw [State.lookup, State.pins_find_none hpins]
  cases pickCached (s.ticks * 65536 + n * 256) (s.cached c die va) with
  | none => exact State.fresh_noncanonical h
  | some t => exact if_pos h
theorem State.lookup_uncached (hc : s.cached c die va = []) : s.lookup c die n va = s.fresh c die va := by
  rw [State.lookup, State.pins_find_none hpins, hc]
  rfl
end

theorem State.translate_error {x : Cause} (h : s.lookup c die n va = .error x) : s.translate c die want n va = .error x := by
  rw [State.translate, h]
theorem State.translate_denied {t : Trans} {x : Cause} (h : s.lookup c die n va = .ok t) (hp : protCause t want c = some x) :
    s.translate c die want n va = .error x := by
  rw [State.translate, h]
  simp only [hp]
theorem State.translate_ok {t : Trans} (h : s.lookup c die n va = .ok t) (hp : protCause t want c = none) :
    s.translate c die want n va = .ok t := by
  rw [State.translate, h]
  simp only [hp]
end

/-- What entry `e`, with target `target`, makes of an access where it ends the translation; `ill` is what it breaks beside
`State.BadAttr` (R162, R163). -/
def State.Ends (s : State) (c : CtxId) (die : Nat) (want : Want) (va : DWord) (out : Except Cause Trans) (e : DWord) (target : Nat)
    (ill : Prop) : Prop :=
  let own := e.extractLsb' 52 12 = s.peer
  let bad := ill ∨ s.BadAttr die e target
  (bad → out = .error 0x0C3) ∧
  (¬bad → ¬own → e.extractLsb' 52 12 ∉ s.clearing → out = .error 0x0C4) ∧
  (¬bad → own ∨ e.extractLsb' 52 12 ∈ s.clearing →
    (NoRead e want → out = .error 0x110) ∧ (¬NoRead e want → NoWrite e want → out = .error 0x111) ∧
    (¬NoRead e want → ¬NoWrite e want → NoFetch e want → out = .error 0x112) ∧
    (¬NoRead e want → ¬NoWrite e want → ¬NoFetch e want → Privileged e c → out = .error 0x113) ∧
    (¬NoRead e want → ¬NoWrite e want → ¬NoFetch e want → ¬Privileged e c → ∃ t, out = .ok t ∧ t.addr va = target ∧
      t.peer = e.extractLsb' 52 12 ∧ t.amode = e.extractLsb' 50 2 ∧ t.okind = e.extractLsb' 48 2 ∧ t.vers = e.getLsbD 47))

theorem transOf_addr {e va : DWord} {target : Nat} (h : target % 4096 = va.toNat % 4096) :
    (transOf e (target / 4096 * 4096)).addr va = target := by
  simp only [Trans.addr, transOf]
  omega

/-- An entry that is checked for `ill` and then as a leaf and a range entry alike ends the translation. -/
theorem State.ends_of_lookup {s : State} {c : CtxId} {die n : Nat} {want : Want} {va : DWord} {e : DWord} {target : Nat} {ill : Prop}
    [Decidable ill] (h : s.lookup c die n va = if ill then .error 0x0C3 else s.attrCheck die e target)
    (hplace : ¬ill → target % 4096 = va.toNat % 4096) : s.Ends c die want va (s.translate c die want n va) e target ill := by
  rw [State.attrCheck_eq, ← ite_or] at h
  refine ⟨fun hbad => State.translate_error (by rw [h, if_pos hbad]),
    fun hgood hown hout => State.translate_error (by rw [h, if_neg hgood, if_pos ⟨hown, hout⟩]), fun hgood hin => ?_⟩
  have hok : s.lookup c die n va = .ok (transOf e (target / 4096 * 4096)) := by
    rw [h, if_neg hgood, if_neg fun hout => hin.elim hout.1 hout.2]
  exact ⟨fun hr => State.translate_denied hok (by rw [protCause_transOf, if_pos hr]),
    fun hr hw => State.translate_denied hok (by rw [protCause_transOf, if_neg hr, if_pos hw]),
    fun hr hw hx => State.translate_denied hok (by rw [protCause_transOf, if_neg hr, if_neg hw, if_pos hx]),
    fun hr hw hx hp => State.translate_denied hok (by rw [protCause_transOf, if_neg hr, if_neg hw, if_neg hx, if_pos hp]),
    fun hr hw hx hp => ⟨_, State.translate_ok hok (by rw [protCause_transOf, if_neg hr, if_neg hw, if_neg hx, if_neg hp]),
      transOf_addr (hplace fun hill => hgood (.inl hill)), rfl, rfl, rfl, rfl⟩⟩

end Sys2Proof.Machine
end

section
open Sys2Proof Sys2Proof.Machine
/-- Settles O32: a fresh translation is the check of the first covering range entry or of the entry at which the chain of tables ends, and
both checks are the entry's own conditions followed by those that the two kinds of entry share. -/
theorem addressesTranslateByRangesThenTables : Obligations.AddressesTranslateByRangesThenTables := by
  unfold Obligations.AddressesTranslateByRangesThenTables
  intro s c die n want va out hpins
  refine ⟨fun h => State.translate_error (State.lookup_noncanonical hpins h), fun hcanon hcached => ?_⟩
  have hlookup : s.lookup c die n va = s.fresh c die va := State.lookup_uncached hpins hcached
  intro ends range covers
  refine ⟨fun k hk hc hfirst => ?_, fun hnone table l hl hroot => ?_⟩
  · have hranges : s.ranges (s.ctx c).range.toNat die va.toNat 64 0 = _ :=
      State.ranges_first (Nat.zero_le k) (by omega) hc fun j _ hj => hfirst j hj
    have hcheck := hlookup.trans (State.fresh_range hcanon hranges)
    rw [State.rangeCheck_covers hc rfl] at hcheck
    exact State.ends_of_lookup hcheck (State.rangeTarget_mod hc rfl)
  · intro entry hchain
    have hranges : s.ranges (s.ctx c).range.toNat die va.toNat 64 0 = none := State.ranges_none fun k _ hk => hnone k (by omega)
    have hwalk : s.lookup c die n va = s.walk die va.toNat (l + 1) (table l) := by
      rw [hlookup, State.fresh_walk hcanon hranges, ← hroot]
      exact State.walk_chain table hl fun j hlj hj =>
        have ⟨hv, ht, hhigh, hlow, hnext⟩ := hchain j hlj hj
        ⟨⟨hv, ht, hhigh, hlow⟩, hnext⟩
    refine ⟨fun hv => ?_, fun hv ht hbad => ?_, fun hv ht => ?_⟩
    · exact State.translate_error (hwalk.trans (State.walk_invalid hv))
    · exact State.translate_error (hwalk.trans (State.walk_badPointer hv ht hbad))
    · have hleaf := (hwalk.trans (State.walk_leaf hv ht)).trans (State.leaf_eq hl _)
      have hends := State.ends_of_lookup (want := want) hleaf fun _ => leafTarget_mod _
      simp only [BadLeaf, pageSize_eq] at hends
      exact hends
end

section
/-! ### A debug stop of the executing warp (18_context.md R344, 21_trap.md R389) -/
namespace Sys2Proof.Machine

/-! #### How a warp stops -/

theorem Warp.stop_ready {w : Warp} (ft : DWord) (h : w.stat = .ready) : (w.stop ft).stat = .halted := Warp.stop_stat w ft (.inl h)
theorem Warp.stop_parked {w : Warp} (ft : DWord) (h : w.stat = .parked) :
    (w.stop ft).stat = .halted ∧ (w.stop ft).reason = w.reason := by
  simp [Warp.stop, h]
/-- A warp that neither is Ready nor waits stays as it is. -/
theorem Warp.stop_other {w : Warp} (ft : DWord) (hr : w.stat ≠ .ready) (hp : w.stat ≠ .parked) : w.stop ft = w := by
  cases h : w.stat with
  | ready => exact absurd h hr
  | parked => exact absurd h hp
  | free | replayable | retiring | halted => simp [Warp.stop, h]

/-! #### What fault and trace records leave -/

@[simp] theorem State.fault_cur (s : State) (r : FaultRec) : (s.fault r).cur = s.cur := by rw [State.fault_eq]
@[simp] theorem State.bar_fault (s : State) (r : FaultRec) (n b : Nat) : (s.fault r).bar n b = s.bar n b := by
  rw [State.fault_eq]; rfl
@[simp] theorem State.bar_trace (s : State) (r : TraceRec) (n b : Nat) : (s.trace r).bar n b = s.bar n b := by
  rw [State.trace_eq]; rfl
@[simp] theorem State.w_fault (s : State) (r : FaultRec) : (s.fault r).w = s.w := by simp [State.w, State.warp]
@[simp] theorem State.w_trace (s : State) (r : TraceRec) : (s.trace r).w = s.w := by simp [State.w, State.warp]

/-! #### The context stops -/

/-- Between `s` and `u` only warps, teams and cohorts may differ. -/
def SamePackage (s u : State) : Prop := { u with warps := s.warps, teams := s.teams, cohorts := s.cohorts } = s

theorem SamePackage.cur {s u : State} (h : SamePackage s u) : u.cur = s.cur := (congrArg State.cur h :)
theorem SamePackage.ft {s u : State} (h : SamePackage s u) : u.ft = s.ft := (congrArg State.ft h :)
theorem SamePackage.mem {s u : State} (h : SamePackage s u) : u.mem = s.mem := (congrArg State.mem h :)
theorem SamePackage.ctx {s u : State} (h : SamePackage s u) (c : CtxId) : u.ctx c = s.ctx c :=
  (congrArg (fun x : State => x.ctx c) h :)
theorem SamePackage.byte {s u : State} (h : SamePackage s u) (a : Nat) : u.byte a = s.byte a :=
  (congrArg (fun x : State => x.byte a) h :)
theorem SamePackage.descAddr {s u : State} (h : SamePackage s u) (c : CtxId) : u.descAddr c = s.descAddr c :=
  (congrArg (fun x : State => x.descAddr c) h :)
theorem SamePackage.trans {s u v : State} (h : SamePackage s u) (h' : SamePackage u v) : SamePackage s v :=
  (congrArg (fun x : State => { x with warps := s.warps, teams := s.teams, cohorts := s.cohorts }) h' :).trans h
theorem OnlyWarp.samePackage {s u : State} (h : OnlyWarp s u) : SamePackage s u :=
  (congrArg (fun x : State => { x with teams := s.teams, cohorts := s.cohorts }) h.1 :)

/-- The context of the executing warp becomes Stopped after that warp alone, and teams and cohorts, have changed. -/
theorem StopsContext.stopCtx {s u : State} (hsame : SamePackage s u) (hothers : ∀ k, k ≠ s.cur → u.warp k = s.warp k) :
    StopsContext s (u.stopCtx s.w.ctx) := by
  refine ⟨State.ctx_stopCtx _ _, fun c hc => ?_, fun k hk => ⟨fun hctx => ?_, fun hctx => ?_⟩,
    fun k => ⟨Warp.stop_ready _, Warp.stop_parked _, Warp.stop_other _⟩, fun a ha => ?_⟩
  · rw [State.stopCtx, State.ctx_setCState, if_neg hc]
    exact hsame.ctx c
  · rw [State.warp_stopCtx, hothers k hk, if_neg hctx]
  · rw [State.warp_stopCtx, hothers k hk, if_pos hctx, hsame.ft]
  · have hdesc := hsame.descAddr s.w.ctx
    rw [← hdesc] at ha
    exact (State.byte_setByte _ _ a _).trans ((if_neg ha).trans (hsame.byte a))

/-- A stopped context is told by the contexts, the memory and the other warps. -/
theorem StopsContext.congr {s t t' : State} (h : StopsContext s t) (hctxs : t'.ctxs = t.ctxs) (hmem : t'.mem = t.mem)
    (hothers : ∀ k, k ≠ s.cur → t'.warp k = t.warp k) : StopsContext s t' := by
  obtain ⟨hstate, hctx, hwarps, hstop, hbytes⟩ := h
  have hc : ∀ c, t'.ctx c = t.ctx c := fun c => by rw [State.ctx, State.ctx, hctxs]
  have hb : ∀ a, t'.byte a = t.byte a := fun a => by rw [State.byte, State.byte, hmem]
  refine ⟨by rw [hc]; exact hstate, fun c hne => (hc c).trans (hctx c hne), fun k hk => ?_, hstop,
    fun a ha => (hb a).trans (hbytes a ha)⟩
  rw [hothers k hk]
  exact hwarps k hk

/-! #### The debug stop -/

theorem OnlyWarp.trans {s t u : State} (h : OnlyWarp s t) (h' : OnlyWarp t u) : OnlyWarp s u := by
  obtain ⟨hrest, hothers⟩ := h
  obtain ⟨hrest', hothers'⟩ := h'
  have hcur : t.cur = s.cur := (congrArg State.cur hrest :)
  exact ⟨(congrArg (fun x : State => { x with warps := s.warps }) hrest' :).trans hrest,
    fun k hk => (hothers' k (by rwa [hcur])).trans (hothers k hk)⟩
theorem State.writeMap_onlyTrap (s : State) (m : TrapMap) :
    OnlyWarp s (s.writeMap m) ∧ ∃ m', (s.writeMap m).w = { s.w with trap := m' } := by
  unfold State.writeMap
  split
  · exact ⟨OnlyWarp.refl s, s.w.trap, rfl⟩
  · exact ⟨OnlyWarp.upd s _, m, State.w_upd _ _⟩

/-- A debug stop halts the executing warp, which keeps all but its map, stops the context and writes two records (R389). -/
theorem State.debugStop_eq (s : State) (cause : Cause) (flm done : Mask) (addr : DWord) :
    ∃ (u : State) (m : TrapMap) (r : FaultRec) (x : TraceRec),
      s.debugStop cause flm done addr = ((u.stopCtx s.w.ctx).fault r).trace x ∧ OnlyWarp s u ∧
      u.w = { s.w with trap := m, stat := .halted, stepping := false } := by
  unfold State.debugStop State.stopMap
  dsimp only
  obtain ⟨honly, m, hw⟩ := s.writeMap_onlyTrap (s.trapMap cause flm done addr)
  generalize s.writeMap (s.trapMap cause flm done addr) = v at honly hw ⊢
  have hu : (v.upd fun w => { w with stat := .halted, stepping := false }).w =
      { s.w with trap := m, stat := .halted, stepping := false } := by rw [State.w_upd, hw]
  have honly' := honly.trans (OnlyWarp.upd v fun w => { w with stat := .halted, stepping := false })
  generalize (v.upd fun w => { w with stat := .halted, stepping := false }) = u at hu honly' ⊢
  have hctx : u.w.ctx = s.w.ctx := by rw [hu]
  rw [hctx]
  exact ⟨u, m, _, _, rfl, honly', hu⟩

theorem State.w_debugStop (s : State) (cause : Cause) (flm done : Mask) (addr : DWord) :
    ∃ m, (s.debugStop cause flm done addr).w = { s.w with trap := m, stat := .halted, stepping := false } := by
  obtain ⟨u, m, r, x, heq, -, hw⟩ := s.debugStop_eq cause flm done addr
  have hstopped : (u.stopCtx s.w.ctx).w = if u.w.ctx = s.w.ctx then u.w.stop u.ft else u.w := State.warp_stopCtx _ _ _
  refine ⟨m, ?_⟩
  rw [heq, State.w_trace, State.w_fault, hstopped, hw, if_pos rfl]
  exact Warp.stop_other _ (by simp) (by simp)
theorem State.cur_debugStop (s : State) (cause : Cause) (flm done : Mask) (addr : DWord) :
    (s.debugStop cause flm done addr).cur = s.cur := by
  obtain ⟨u, m, r, x, heq, ⟨hrest, -⟩, -⟩ := s.debugStop_eq cause flm done addr
  rw [heq, State.trace_cur, State.fault_cur]
  exact (congrArg State.cur hrest :)
theorem State.bar_debugStop (s : State) (cause : Cause) (flm done : Mask) (addr : DWord) (n b : Nat) :
    (s.debugStop cause flm done addr).bar n b = s.bar n b := by
  obtain ⟨u, m, r, x, heq, ⟨hrest, -⟩, -⟩ := s.debugStop_eq cause flm done addr
  rw [heq, State.bar_trace, State.bar_fault]
  exact (congrArg (fun x : State => x.bar n b) hrest :)

/-- The debug stop of a warp whose slot alone has changed since `s`, beside teams and cohorts, stops its context. -/
theorem StopsContext.debugStop {s v : State} (hsame : SamePackage s v) (hothers : ∀ k, k ≠ s.cur → v.warp k = s.warp k)
    (hctx : v.w.ctx = s.w.ctx) (cause : Cause) (flm done : Mask) (addr : DWord) :
    StopsContext s (v.debugStop cause flm done addr) := by
  obtain ⟨u, m, r, x, heq, hu, -⟩ := v.debugStop_eq cause flm done addr
  have hstops : StopsContext s (u.stopCtx s.w.ctx) := StopsContext.stopCtx (hsame.trans hu.samePackage)
    fun k hk => (hu.2 k (by rwa [hsame.cur])).trans (hothers k hk)
  rw [heq, hctx]
  exact hstops.congr (by simp) (by simp) fun k _ => by simp [State.warp]

end Sys2Proof.Machine
end

section
/-! ### Barrier instructions (11_barrier.md R202 to R207, R210) -/
namespace Sys2Proof.Machine

/-! #### The state machine of an object -/

/-- An arrival announces too many bytes, by themselves or with those still due (R207, 0x18E). -/
abbrev Barrier.Overflows (o : Barrier) (bytes : Nat) : Prop := 2 ^ 35 - 1 < bytes ∨ (2 : Int) ^ 35 - 1 < o.txb.toInt + bytes
/-- An arrival counted, with the bytes that it announces (R207). -/
def Barrier.counted (o : Barrier) (bytes : Nat) (drop : Bool) : Barrier :=
  { o with pend := o.pend - 1, txb := o.txb + BitVec.ofNat 36 bytes, drop := if drop = true then o.drop + 1 else o.drop }
/-- No arrival and no byte is due any more (R204). -/
abbrev Barrier.Flips (o : Barrier) : Prop := o.pend = 0 ∧ o.txb = 0
/-- The next phase: the arrivals that drops have left are due, and with none left the object is no longer valid (R204). -/
def Barrier.flipped (o : Barrier) : Barrier :=
  { o with phase := o.phase + 1, expect := o.expect - o.drop, drop := 0, valid := decide (o.expect - o.drop ≠ 0)
           pend := o.expect - o.drop }
/-- The object after an arrival and the flip that it may bring. -/
def Barrier.after (o : Barrier) (bytes : Nat) (drop : Bool) : Barrier :=
  if (o.counted bytes drop).Flips then (o.counted bytes drop).flipped else o.counted bytes drop
/-- The watch of the object names a transition that the arrival makes (R210). -/
def Barrier.Watched (o : Barrier) (bytes : Nat) (drop : Bool) : Prop :=
  o.wmode = 1 ∨ (o.wmode = 2 ∧ (o.counted bytes drop).pend = 0) ∨ (o.wmode = 3 ∧ (o.counted bytes drop).Flips)

theorem Barrier.not_overflows_zero (o : Barrier) : ¬o.Overflows 0 := by
  have h : o.txb.toInt < 2 ^ 35 := BitVec.toInt_lt
  rintro (h0 | h0) <;> omega
theorem Barrier.flip_eq {o : Barrier} (hv : o.valid = true) (hp : o.pend = 0) : o.flip = o.flipped := by
  unfold Barrier.flip Barrier.flipped
  dsimp only
  by_cases he : o.expect - o.drop = 0
  · rw [if_pos he, he, hp]; rfl
  · rw [if_neg he, hv, decide_eq_true he]
theorem Barrier.settle_valid {o : Barrier} (hv : o.valid = true) :
    o.settle = (if o.Flips then o.flipped else o, decide o.Flips) := by
  unfold Barrier.settle
  by_cases hf : o.Flips
  · rw [if_pos (by simp [hv, hf.1, hf.2]), if_pos hf, decide_eq_true hf, Barrier.flip_eq hv hf.1]
  · rw [if_neg (by simpa [hv] using hf), if_neg hf, decide_eq_false hf]
theorem Barrier.arrive_valid {o : Barrier} (hv : o.valid = true) (bytes : Nat) (drop : Bool) : o.arrive bytes drop =
    ⟨o.after bytes drop, true, (o.counted bytes drop).pend == 0, decide (o.counted bytes drop).Flips⟩ := by
  have hsettle : (o.counted bytes drop).settle = _ := Barrier.settle_valid hv
  unfold Barrier.arrive
  dsimp only
  change BarOp.mk (o.counted bytes drop).settle.1 true _ (o.counted bytes drop).settle.2 = _
  rw [hsettle]
  rfl
theorem Barrier.wmode_after (o : Barrier) (bytes : Nat) (drop : Bool) : (o.after bytes drop).wmode = o.wmode := by
  unfold Barrier.after; split <;> rfl

theorem BarOp.fires_iff (r : BarOp) : r.fires = true ↔
    (r.o.wmode = 1 ∧ r.arrival = true) ∨ (r.o.wmode = 2 ∧ r.last = true) ∨ (r.o.wmode = 3 ∧ r.flip = true) := by
  have hmodes : ∀ x : BitVec 2, x = 0 ∨ x = 1 ∨ x = 2 ∨ x = 3 := by decide
  unfold BarOp.fires
  rcases hmodes r.o.wmode with h | h | h | h <;> simp [h]
theorem Barrier.fires_arrive {o : Barrier} (hv : o.valid = true) (bytes : Nat) (drop : Bool) :
    (o.arrive bytes drop).fires = true ↔ o.Watched bytes drop := by
  rw [BarOp.fires_iff, Barrier.arrive_valid hv]
  simp [Barrier.wmode_after, Barrier.Watched, Barrier.Flips]

/-! #### What an operation on an object leaves -/

theorem Warp.arrival_setArrival (w : Warp) (b c : Nat) (r : Option (BitVec 16)) :
    (w.setArrival b r).arrival c = if c = b then r else w.arrival c := Tab.get_set _ _ _ _ _
@[simp] theorem Warp.arrival_retire (w : Warp) (len : Nat) (sw : Bool) (b : Nat) : (w.retire len sw).arrival b = w.arrival b := by
  simp [Warp.arrival]
@[simp] theorem State.w_setBar (s : State) (n b : Nat) (o : Barrier) : (s.setBar n b o).w = s.w := by
  unfold State.setBar; dsimp only; split <;> rfl
theorem State.warp_setBar (s : State) (n b k : Nat) (o : Barrier) : (s.setBar n b o).warp k = s.warp k := by
  rw [State.warp, State.setBar_warps]; rfl
theorem SamePackage.setBar (s : State) (n b : Nat) (o : Barrier) : SamePackage s (s.setBar n b o) := by
  unfold State.setBar; dsimp only; split <;> rfl

/-- The registers of the executing warp and every object of its team but `b` are as before. -/
def KeepsBut (s t : State) (b : Nat) : Prop :=
  KeepsV s t ∧ KeepsS s t ∧ KeepsP s t ∧ ∀ c, c ≠ b → t.bar s.w.team c = s.bar s.w.team c

/-- In `v` an instruction has operated on object `b` of its warp's team, and has not retired: of that warp arrival records alone
have changed, and no other object of the team. -/
structure Operated (s v : State) (b : Nat) : Prop where
  same : SamePackage s v
  self : v.w = { s.w with arrivals := v.w.arrivals }
  objects : ∀ c, c ≠ b → v.bar s.w.team c = s.bar s.w.team c

section
variable {s v t : State} {b : Nat}

/-- A warp that differs from that of `v` outside its registers. -/
theorem Operated.keepsBut (h : Operated s v b) (hv : t.w.vregs = v.w.vregs) (hs : t.w.sregs = v.w.sregs)
    (hp : t.w.preds = v.w.preds) (hbar : ∀ c, t.bar s.w.team c = v.bar s.w.team c) : KeepsBut s t b := by
  rw [h.self] at hv hs hp
  refine ⟨fun r i => ?_, fun r => ?_, fun r => ?_, fun c hc => (hbar c).trans (h.objects c hc)⟩
  · rw [Warp.v, hv]; rfl
  · rw [Warp.s, hs]; rfl
  · rw [Warp.p, hp]; rfl

/-- The instruction retires. -/
theorem Operated.retired (h : Operated s v b) {sw : Bool} (hw : t.w = v.w.retire 12 sw) (hmem : t.mem = v.mem)
    (hbar : ∀ c, t.bar s.w.team c = v.bar s.w.team c) :
    t.w.At (s.w.pc + 12) sw ∧ t.mem = s.mem ∧ KeepsBut s t b := by
  have hpc : v.w.pc = s.w.pc := by rw [h.self]
  refine ⟨?_, hmem.trans h.same.mem, h.keepsBut ?_ ?_ ?_ hbar⟩
  · rw [hw, ← hpc]; exact Warp.at_retire _ _ _
  iterate 3 rw [hw]; simp

/-- The instruction stops its warp at a watched transition (R210, R389). -/
theorem Operated.stopped (h : Operated s v b) (hothers : ∀ k, k ≠ s.cur → v.warp k = s.warp k) (flm : Mask) (a : DWord)
    (ht : t = (v.debugStop 0x2C8 flm flm a).upd (fun w => { w with done := flm, reason := 0 })) :
    KeepsBut s t b ∧ t.bar s.w.team b = v.bar s.w.team b ∧ t.w.arrival b = v.w.arrival b ∧ t.w.stat = .halted ∧
    t.w.pc = s.w.pc ∧ t.w.done = flm ∧ StopsContext s t := by
  obtain ⟨m, hstop⟩ := v.w_debugStop 0x2C8 flm flm a
  have hw : t.w = { v.w with trap := m, stat := .halted, stepping := false, done := flm, reason := 0 } := by
    rw [ht, State.w_upd, hstop]
  have hbar : ∀ c, t.bar s.w.team c = v.bar s.w.team c := fun c => by
    rw [ht]; exact v.bar_debugStop 0x2C8 flm flm a s.w.team c
  have hpc : v.w.pc = s.w.pc := by rw [h.self]
  have hctx : v.w.ctx = s.w.ctx := by rw [h.self]
  refine ⟨h.keepsBut ?_ ?_ ?_ hbar, hbar b, ?_, ?_, ?_, ?_, ?_⟩
  iterate 3 rw [hw]
  · rw [hw]; rfl
  · rw [hw]
  · rw [hw]; exact hpc
  · rw [hw]
  · rw [ht]
    refine (StopsContext.debugStop h.same hothers hctx 0x2C8 flm flm a).congr rfl rfl fun k hk => State.warp_upd_ne _ _ k ?_
    rwa [State.cur_debugStop, h.same.cur]
end

/-- The object and the warp's arrival record of it written. -/
def State.operated (s : State) (b : Nat) (ar : Option (BitVec 16)) (o : Barrier) : State :=
  (s.upd (fun w => w.setArrival b ar)).setBar s.w.team b o

theorem Operated.operated (s : State) (b : Nat) (ar : Option (BitVec 16)) (o : Barrier) : Operated s (s.operated b ar o) b := by
  have hsame := (OnlyWarp.upd s fun w => w.setArrival b ar).samePackage.trans (SamePackage.setBar _ s.w.team b o)
  refine ⟨hsame, ?_, fun c hc => State.bar_setBar_other _ _ _ _ _ _ (.inl hc)⟩
  rw [State.operated, State.w_setBar, State.w_upd]
  rfl
theorem State.warp_operated_ne (s : State) (b k : Nat) (ar : Option (BitVec 16)) (o : Barrier) (hk : k ≠ s.cur) :
    (s.operated b ar o).warp k = s.warp k := (State.warp_setBar _ _ _ _ _).trans (State.warp_upd_ne _ _ _ hk)
theorem State.bar_operated (s : State) (b : Nat) (ar : Option (BitVec 16)) (o : Barrier) :
    (s.operated b ar o).bar s.w.team b = o := State.bar_setBar_same _ _ _ _
theorem State.arrival_operated (s : State) (b : Nat) (ar : Option (BitVec 16)) (o : Barrier) :
    (s.operated b ar o).w.arrival b = ar := by
  rw [State.operated, State.w_setBar, State.w_upd, Warp.arrival_setArrival, if_pos rfl]

/-- The warp passes an instruction that has left object `b` as `o` and its record of it as `ar`. -/
def PassesObject (s t : State) (b : Nat) (sw : Bool) (o : Barrier) (ar : Option (BitVec 16)) : Prop :=
  t.w.At (s.w.pc + 12) sw ∧ (t.mem = s.mem ∧ KeepsBut s t b) ∧ t.bar s.w.team b = o ∧ t.w.arrival b = ar ∧
  ∀ k, k ≠ s.cur → t.warp k = s.warp k

theorem State.operated_passes (s : State) (b : Nat) (ar : Option (BitVec 16)) (o : Barrier) (sw : Bool) :
    PassesObject s ((s.operated b ar o).retire 12 sw) b sw o ar := by
  have h := Operated.operated s b ar o
  obtain ⟨hat, hkeeps⟩ := h.retired (t := (s.operated b ar o).retire 12 sw) (State.w_upd _ _) rfl fun _ => rfl
  refine ⟨hat, hkeeps, s.bar_operated b ar o, ?_, fun k hk => ?_⟩
  · rw [State.retire, State.w_upd, Warp.arrival_retire, s.arrival_operated]
  · rw [State.retire, State.warp_upd_ne _ _ _ (by rwa [h.same.cur]), s.warp_operated_ne b k ar o hk]

/-! #### The number of the object -/

theorem State.barrier_none (s : State) {h : Hdr} (a : RegNo) (imm : Word) (f : Nat → State) (hm : s.w.parts h = 0) :
    WarpStep (s.barrier h a imm f) s s.w (s.w.pc + 12) h.sw := by
  rw [State.barrier, if_pos hm]
  exact WarpStep.retire s id 12 h.sw
section
variable {s : State} {h : Hdr} {a : RegNo} {imm : Word} (f : Nat → State) (hm : s.w.parts h ≠ 0)
include hm
theorem State.barrier_unnumbered (hb : 32 ≤ (s.w.s a.toNat + imm.signExtend 64).toNat) :
    TrapsWith (s.barrier h a imm f) s 0x189 (s.w.parts h) := by
  rw [State.barrier, if_neg hm]
  exact ⟨_, if_pos hb⟩
theorem State.barrier_numbered (hb : (s.w.s a.toNat + imm.signExtend 64).toNat < 32) :
    s.barrier h a imm f = .next (f (s.w.s a.toNat + imm.signExtend 64).toNat) := by
  rw [State.barrier, if_neg hm]
  exact if_neg (Nat.not_le.2 hb)
end

/-! #### BARV, BARX, BDROP -/

/-- An arrival with `bytes` announced, of which BDROP leaves no record (R207). -/
def State.arriveAs (s : State) (h : Hdr) (bytes : Nat) (drop : Bool) (b : Nat) : State :=
  let o := s.bar s.w.team b
  if !o.valid then s.precise 0x18A (s.w.parts h) s.noAddr
  else if o.Overflows bytes then s.precise 0x18E (s.w.parts h) s.noAddr
  else if o.pend = 0 then s.precise 0x18F (s.w.parts h) s.noAddr
  else if s.releaseHolds none then s.hold
  else (s.upd (fun w => w.setArrival b (if drop = true then none else some o.phase))).barDone h b (o.arrive bytes drop)

theorem State.arrive_eq (s : State) (h : Hdr) (bytes : DWord) (b : Nat) : s.arrive h bytes b = s.arriveAs h bytes.toNat false b := rfl
theorem State.bdrop_eq (s : State) (h : Hdr) (b : Nat) : s.bdrop h b = s.arriveAs h 0 true b := by
  unfold State.bdrop State.arriveAs
  dsimp only
  rw [if_neg (Barrier.not_overflows_zero _)]
  rfl

theorem exec_barv (i : HAI) (s : State) : exec (.barv i) s = s.barrier i.h i.a i.imm (s.arriveAs i.h 0 false) := rfl
theorem exec_barx (i : HABI) (s : State) :
    exec (.barx i) s = s.barrier i.h i.a i.imm (s.arriveAs i.h (s.w.s i.b.toNat).toNat false) := rfl
theorem exec_bdrop (i : HAI) (s : State) : exec (.bdrop i) s = s.barrier i.h i.a i.imm (s.arriveAs i.h 0 true) :=
  congrArg (s.barrier i.h i.a i.imm) (funext (s.bdrop_eq i.h))

/-- An operation that fires no watch passes the instruction, any other stops the warp (R210, R395). -/
theorem State.barDone_eq (s : State) (h : Hdr) (b : Nat) (ar : Option (BitVec 16)) (r : BarOp) :
    (s.upd (fun w => w.setArrival b ar)).barDone h b r =
      if r.fires && !s.revoking s.w.ctx then
        ((s.operated b ar r.o).debugStop 0x2C8 (s.w.parts h) (s.w.parts h) s.noAddr).upd
          (fun w => { w with done := s.w.parts h, reason := 0 })
      else (s.operated b ar r.o).retire 12 h.sw := by
  unfold State.barDone
  rw [State.w_upd]
  rfl

section
variable {s : State} (h : Hdr) {bytes : Nat} (drop : Bool) {b : Nat}

theorem State.arriveAs_invalid (hv : (s.bar s.w.team b).valid = false) :
    TrapsWith (.next (s.arriveAs h bytes drop b)) s 0x18A (s.w.parts h) := by
  rw [State.arriveAs, hv]
  exact ⟨_, rfl⟩
theorem State.arriveAs_overflow (hv : (s.bar s.w.team b).valid = true) (ho : (s.bar s.w.team b).Overflows bytes) :
    TrapsWith (.next (s.arriveAs h bytes drop b)) s 0x18E (s.w.parts h) := by
  rw [State.arriveAs, hv]
  exact ⟨_, congrArg _ (if_pos ho)⟩

variable (hv : (s.bar s.w.team b).valid = true) (ho : ¬(s.bar s.w.team b).Overflows bytes)
include hv ho

theorem State.arriveAs_checked : s.arriveAs h bytes drop b =
    if (s.bar s.w.team b).pend = 0 then s.precise 0x18F (s.w.parts h) s.noAddr
    else if s.releaseHolds none then s.hold
    else (s.upd (fun w => w.setArrival b (if drop = true then none else some (s.bar s.w.team b).phase))).barDone h b
      ((s.bar s.w.team b).arrive bytes drop) := by
  rw [State.arriveAs, hv]
  exact if_neg ho
theorem State.arriveAs_undue (hp : (s.bar s.w.team b).pend = 0) :
    TrapsWith (.next (s.arriveAs h bytes drop b)) s 0x18F (s.w.parts h) := by
  rw [State.arriveAs_checked h drop hv ho, if_pos hp]
  exact ⟨_, rfl⟩

variable (hp : (s.bar s.w.team b).pend ≠ 0)
include hp

theorem State.arriveAs_held (hr : s.releaseHolds none = true) : s.arriveAs h bytes drop b = s.hold := by
  rw [State.arriveAs_checked h drop hv ho, if_neg hp, if_pos hr]

variable (hr : s.releaseHolds none = false)
include hr

theorem State.arriveAs_performs : s.arriveAs h bytes drop b =
    (s.upd (fun w => w.setArrival b (if drop = true then none else some (s.bar s.w.team b).phase))).barDone h b
      ((s.bar s.w.team b).arrive bytes drop) := by
  rw [State.arriveAs_checked h drop hv ho, if_neg hp, hr, if_neg Bool.false_ne_true]
theorem State.arriveAs_passes (hf : ¬(s.w.ctx ∉ s.revokes ∧ (s.bar s.w.team b).Watched bytes drop)) :
    PassesObject s (s.arriveAs h bytes drop b) b h.sw ((s.bar s.w.team b).after bytes drop)
      (if drop = true then none else some (s.bar s.w.team b).phase) := by
  rw [State.arriveAs_performs h drop hv ho hp hr, State.barDone_eq, if_neg, Barrier.arrive_valid hv]
  · exact s.operated_passes b _ _ h.sw
  · simpa [State.revoking, Barrier.fires_arrive hv, and_comm] using hf
theorem State.arriveAs_stops (hf : s.w.ctx ∉ s.revokes ∧ (s.bar s.w.team b).Watched bytes drop) :
    ∃ t, Host.Outcome.next (s.arriveAs h bytes drop b) = (.next t : Out) ∧ KeepsBut s t b ∧
      t.bar s.w.team b = (s.bar s.w.team b).after bytes drop ∧
      t.w.arrival b = (if drop = true then none else some (s.bar s.w.team b).phase) ∧ t.w.stat = .halted ∧ t.w.pc = s.w.pc ∧
      t.w.done = s.w.parts h ∧ StopsContext s t := by
  have hfires : ((s.bar s.w.team b).arrive bytes drop).fires && !s.revoking s.w.ctx := by
    simpa [State.revoking, Barrier.fires_arrive hv, and_comm] using hf
  refine ⟨_, rfl, ?_⟩
  have hstop := State.arriveAs_performs h drop hv ho hp hr
  rw [State.barDone_eq, if_pos hfires, Barrier.arrive_valid hv] at hstop
  have hop := Operated.operated s b (if drop = true then none else some (s.bar s.w.team b).phase)
    ((s.bar s.w.team b).after bytes drop)
  have := hop.stopped (fun k hk => s.warp_operated_ne b k _ _ hk) _ _ hstop
  rwa [s.bar_operated, s.arrival_operated] at this
end

/-! #### BINIT -/

/-- The object is in use: something of its present phase has happened (R207, 0x18C). -/
abbrev Barrier.InUse (o : Barrier) : Prop := o.valid = true ∧ (o.pend ≠ o.expect ∨ o.txb ≠ 0 ∨ o.drop ≠ 0)
/-- Object `b` valid with `n` arrivals due, and its group's arrival records of it cleared (R207). -/
def State.inited (s : State) (b : Nat) (n : BitVec 16) : State :=
  let t := s.setBar s.w.team b { s.bar s.w.team b with valid := true, drop := 0, pend := n, expect := n, phase := 0, txb := 0 }
  { t with warps := Tab.map (fun k (w : Warp) =>
      if w.stat != WStat.free && s.barGroup b k then w.setArrival b none else w) t.warps }

theorem State.barGroup_iff (s : State) (b k : Nat) : s.barGroup b k = true ↔
    (b < 16 ∧ (s.warp k).team = s.w.team) ∨ (16 ≤ b ∧ (s.team (s.warp k).team).cohort = s.myTeam.cohort) := by
  unfold State.barGroup
  by_cases hb : b < 16
  · simp [hb, Nat.not_le.2 hb]
  · simp [hb, Nat.not_lt.1 hb]
theorem State.warp_inited (s : State) (b k : Nat) (n : BitVec 16) : (s.inited b n).warp k =
    if (s.warp k).stat != WStat.free && s.barGroup b k then (s.warp k).setArrival b none else s.warp k := by
  rw [State.warp, State.inited]
  dsimp only
  rw [State.setBar_warps]
  exact Tab.get_map ({} : Warp) (fun k w => if w.stat != WStat.free && s.barGroup b k then w.setArrival b none else w)
    (fun _ => rfl) s.warps k
theorem Operated.inited (s : State) (b : Nat) (n : BitVec 16) : Operated s (s.inited b n) b := by
  have hsame : SamePackage s (s.inited b n) := SamePackage.setBar s _ _ _
  refine ⟨hsame, ?_, fun c hc => State.bar_setBar_other s _ _ _ _ _ (.inl hc)⟩
  rw [State.w, hsame.cur, State.warp_inited]
  split <;> rfl

theorem exec_binit (i : HABI) (s : State) :
    exec (.binit i) s = s.barrier i.h i.a i.imm (s.binit i.h (s.w.s i.b.toNat)) := rfl

section
variable {s : State} (h : Hdr) {count : DWord} {b : Nat}

theorem State.binit_badCount (hn : count = 0 ∨ 65535 < count.toNat) :
    TrapsWith (.next (s.binit h count b)) s 0x18B (s.w.parts h) := by
  rw [State.binit, if_pos hn]
  exact ⟨_, rfl⟩

variable (hn : count ≠ 0) (hn' : count.toNat ≤ 65535)
include hn hn'

/-- With a count that an object can hold, an object in use is refused and a release waits. -/
theorem State.binit_counted : s.binit h count b =
    if (s.bar s.w.team b).InUse then s.precise 0x18C (s.w.parts h) s.noAddr
    else if s.releaseHolds none then s.hold else (s.inited b (count.setWidth 16)).retire 12 h.sw := by
  have hcount : ¬(count = 0 ∨ 65535 < count.toNat) := by rw [not_or, Nat.not_lt]; exact ⟨hn, hn'⟩
  rw [State.binit, if_neg hcount]
  exact if_congr (by simp [or_assoc]) rfl rfl
theorem State.binit_busy (hb : (s.bar s.w.team b).InUse) :
    TrapsWith (.next (s.binit h count b)) s 0x18C (s.w.parts h) := by
  rw [State.binit_counted h hn hn', if_pos hb]
  exact ⟨_, rfl⟩

variable (hb : ¬(s.bar s.w.team b).InUse)
include hb

theorem State.binit_held (hr : s.releaseHolds none = true) : s.binit h count b = s.hold := by
  rw [State.binit_counted h hn hn', if_neg hb, if_pos hr]
theorem State.binit_performs (hr : s.releaseHolds none = false) :
    s.binit h count b = (s.inited b (count.setWidth 16)).retire 12 h.sw := by
  rw [State.binit_counted h hn hn', if_neg hb, hr, if_neg Bool.false_ne_true]
end

theorem State.arrival_retire (s : State) (len : Nat) (sw : Bool) (k c : Nat) :
    ((s.retire len sw).warp k).arrival c = (s.warp k).arrival c := by
  by_cases hk : k = s.cur
  · subst hk
    exact (congrArg (fun w : Warp => w.arrival c) (State.w_upd s _)).trans (Warp.arrival_retire _ _ _ _)
  · rw [State.retire, State.warp_upd_ne _ _ _ hk]
/-- The group's records of the object are cleared, and no others. -/
theorem State.arrival_inited (s : State) (b : Nat) (n : BitVec 16) (sw : Bool) {k : Nat} (hk : (s.warp k).stat ≠ .free)
    (hg : (b < 16 ∧ (s.warp k).team = s.w.team) ∨ (16 ≤ b ∧ (s.team (s.warp k).team).cohort = s.myTeam.cohort)) (c : Nat) :
    (((s.inited b n).retire 12 sw).warp k).arrival c = if c = b then none else (s.warp k).arrival c := by
  rw [State.arrival_retire, State.warp_inited, if_pos (by simpa [hk] using (s.barGroup_iff b k).2 hg), Warp.arrival_setArrival]

/-! #### BWAIT and BTEST -/

theorem Barrier.passed_iff (o : Barrier) (r : BitVec 16) : o.passed r = true ↔ o.phase ≠ r ∨ o.valid = false := by
  simp [Barrier.passed]
theorem Barrier.passed_eq (o : Barrier) (r : BitVec 16) : o.passed r = decide (o.phase ≠ r ∨ o.valid = false) :=
  Bool.eq_iff_iff.2 ((o.passed_iff r).trans decide_eq_true_iff.symm)

theorem exec_bwait (i : HAI) (s : State) : exec (.bwait i) s = s.barrier i.h i.a i.imm (s.bwait i.h) := rfl
theorem exec_btest (i : HDAI) (s : State) : exec (.btest i) s = s.barrier i.h i.a i.imm (s.btest i.h i.d) := rfl

section
variable {s : State} (h : Hdr) {b : Nat}

theorem State.bwait_unrecorded (ha : s.w.arrival b = none) : TrapsWith (.next (s.bwait h b)) s 0x18D (s.w.parts h) := by
  rw [State.bwait, ha]
  exact ⟨_, rfl⟩
theorem State.btest_unrecorded (d : RegNo) (ha : s.w.arrival b = none) :
    TrapsWith (.next (s.btest h d b)) s 0x18D (s.w.parts h) := by
  rw [State.btest, ha]
  exact ⟨_, rfl⟩

variable {r : BitVec 16} (ha : s.w.arrival b = some r)
include ha

theorem State.bwait_passes (hp : (s.bar s.w.team b).phase ≠ r ∨ (s.bar s.w.team b).valid = false) :
    PassesObject s (s.bwait h b) b h.sw (s.bar s.w.team b) none := by
  have hop : Operated s (s.upd fun w => w.setArrival b none) b := ⟨rfl, by rw [State.w_upd]; rfl, fun _ _ => rfl⟩
  rw [State.bwait, ha]
  dsimp only
  rw [if_pos ((Barrier.passed_iff _ _).2 hp)]
  obtain ⟨hat, hkeeps⟩ := hop.retired (t := s.upd fun w => (w.setArrival b none).retire 12 h.sw)
    (by rw [State.w_upd, State.w_upd]) rfl fun _ => rfl
  refine ⟨hat, hkeeps, rfl, ?_, fun k hk => State.warp_upd_ne _ _ k hk⟩
  rw [State.w_upd, Warp.arrival_retire, Warp.arrival_setArrival, if_pos rfl]
/-- The phase is still the one recorded: the warp waits at its instruction. -/
theorem State.bwait_parks (hphase : (s.bar s.w.team b).phase = r) (hv : (s.bar s.w.team b).valid = true) :
    s.bwait h b = s.park 6 := by
  rw [State.bwait, ha]
  exact if_neg (by simp [Barrier.passed, hphase, hv])
end

theorem Warp.arrival_wait (w : Warp) (r : Nat) (ft : DWord) (limit : BitVec 16) (b : Nat) :
    (w.wait r ft limit).arrival b = w.arrival b := by
  unfold Warp.wait; split <;> rfl
theorem getLsbD_fullMask {k : Nat} (hk : k < 32) : fullMask.getLsbD k = true :=
  (BitVec.getLsbD_allOnes : (BitVec.allOnes 32).getLsbD k = _).trans (decide_eq_true hk)
theorem Warp.getLsbD_setPLanes (w : Warp) (m : Mask) (r : Nat) (x : Mask) {k : Nat} (hk : k < 32) :
    ((w.setPLanes m r x).p r).getLsbD k =
      if r = 7 then true else if m.getLsbD k = true then x.getLsbD k else (w.p r).getLsbD k := by
  rw [Warp.setPLanes, Warp.p_setP]
  by_cases h7 : r = 7
  · rw [if_pos h7, if_pos h7, getLsbD_fullMask hk]
  · rw [if_neg h7, if_pos rfl, if_neg h7, BitVec.getLsbD_or, BitVec.getLsbD_and, BitVec.getLsbD_and, BitVec.getLsbD_not]
    cases m.getLsbD k <;> simp [hk]

/-- The warp after a BTEST that answers `yes`, before it retires. -/
def Warp.tested (w : Warp) (h : Hdr) (d : RegNo) (b : Nat) (yes : Bool) : Warp :=
  (if yes then w.setArrival b none else w).setPLanes (w.parts h) d.toNat (if yes then fullMask else 0)

section
variable {s : State} (h : Hdr) (d : RegNo) {b : Nat} {r : BitVec 16}

theorem State.btest_eq (ha : s.w.arrival b = some r) :
    s.btest h d b = s.upd fun w => (w.tested h d b ((s.bar s.w.team b).passed r)).retire 12 h.sw := by
  rw [State.btest, ha]
  rfl
theorem Warp.tested_eq (w : Warp) (yes : Bool) : w.tested h d b yes =
    { w with arrivals := (w.tested h d b yes).arrivals, preds := (w.tested h d b yes).preds } := by
  cases yes <;> rfl
theorem Warp.arrival_tested {w : Warp} (ha : w.arrival b = some r) (yes : Bool) :
    (w.tested h d b yes).arrival b = if yes = true then none else some r := by
  cases yes
  · exact ha
  · exact (Warp.arrival_setArrival w b b none).trans (if_pos rfl)
theorem Warp.p_tested (w : Warp) (yes : Bool) {k : Nat} (hk : k < 32) : ((w.tested h d b yes).p d.toNat).getLsbD k =
    if d.toNat = 7 then true else if (w.parts h).getLsbD k = true then yes else (w.p d.toNat).getLsbD k := by
  rw [Warp.tested, Warp.getLsbD_setPLanes _ _ _ _ hk]
  cases yes
  · simp
  · rw [if_pos rfl, if_pos rfl, getLsbD_fullMask hk]; rfl
theorem State.btest_answers (ha : s.w.arrival b = some r) :
    (s.btest h d b).w.At (s.w.pc + 12) h.sw ∧ OnlyWarp s (s.btest h d b) ∧ KeepsV s (s.btest h d b) ∧ KeepsS s (s.btest h d b) ∧
    (s.btest h d b).w.arrival b = (if (s.bar s.w.team b).passed r = true then none else some r) ∧
    ∀ k, k < 32 → ((s.btest h d b).w.p d.toNat).getLsbD k = if d.toNat = 7 then true
      else if (s.w.parts h).getLsbD k = true then (s.bar s.w.team b).passed r else (s.w.p d.toNat).getLsbD k := by
  rw [State.btest_eq h d ha]
  generalize (s.bar s.w.team b).passed r = yes
  have hself := s.w.tested_eq h d (b := b) yes
  have hw : (s.upd fun w => (w.tested h d b yes).retire 12 h.sw).w = (s.w.tested h d b yes).retire 12 h.sw := State.w_upd _ _
  refine ⟨?_, OnlyWarp.upd _ _, fun n i => ?_, fun n => ?_, ?_, fun k hk => ?_⟩ <;> rw [hw]
  · have hpc : (s.w.tested h d b yes).pc = s.w.pc := by rw [hself]
    rw [← hpc]
    exact Warp.at_retire _ _ _
  · rw [Warp.v_retire, hself]; rfl
  · rw [Warp.s_retire, hself]; rfl
  · rw [Warp.arrival_retire, Warp.arrival_tested h d ha]
  · rw [Warp.p_retire, Warp.p_tested h d _ _ hk]
end

end Sys2Proof.Machine
end

section
open Sys2Proof Sys2Proof.Machine
/-- Settles O35: BARV, BARX and BDROP are one arrival, BINIT and BWAIT end in a retirement that changes the object and arrival records
alone, and a watched arrival is a debug stop made after both have been written. -/
theorem barrierInstructionsActOnTheirObject : Obligations.BarrierInstructionsActOnTheirObject := by
  unfold Obligations.BarrierInstructionsActOnTheirObject
  intro s num shared keeps same passes arrives
  have shared_of : ∀ {out : Out} {h : Hdr} {a : RegNo} {imm : Word} {f : Nat → State} {body : Prop},
      out = s.barrier h a imm f → (out = .next (f (num a imm)) → body) → shared out h (num a imm) body := by
    rintro _ h a imm f body rfl hbody
    exact ⟨s.barrier_none a imm f, State.barrier_unnumbered f, fun hm hb => hbody (State.barrier_numbered f hm hb)⟩
  have arrives_of : ∀ {out : Out} {h : Hdr} {bytes : Nat} {drop : Bool} {b : Nat},
      out = .next (s.arriveAs h bytes drop b) → arrives out h b bytes drop := by
    rintro _ h bytes drop b rfl
    refine ⟨State.arriveAs_invalid h drop, fun hv he => ?_, fun he hp => ?_, fun he hp hr => ?_, fun he hp hr => ?_⟩
    · exact State.arriveAs_overflow h drop hv (he.resolve_left (by simp [hv]))
    all_goals
      have hv : (s.bar s.w.team b).valid = true := Bool.of_not_eq_false fun hv => he (.inl hv)
      have ho : ¬(s.bar s.w.team b).Overflows bytes := fun ho => he (.inr ho)
    · exact State.arriveAs_undue h drop hv ho hp
    · exact congrArg _ (State.arriveAs_held h drop hv ho hp hr)
    · exact ⟨fun hf => ⟨_, rfl, State.arriveAs_passes h drop hv ho hp hr hf⟩, State.arriveAs_stops h drop hv ho hp hr⟩
  refine ⟨fun i => ?_, fun i => shared_of (exec_barv i s) arrives_of, fun i => shared_of (exec_barx i s) arrives_of,
    fun i => shared_of (exec_bdrop i s) arrives_of, fun i => ?_, fun i => ?_⟩
  · refine shared_of (exec_binit i s) fun hout => ?_
    rw [hout]
    refine ⟨State.binit_badCount i.h, State.binit_busy i.h, fun hn hn' hb hr => ?_, fun hn hn' hb hr => ?_⟩
    · rw [State.binit_held i.h hn hn' hb hr]
    · have hop := Operated.inited s (num i.a i.imm) ((s.w.s i.b.toNat).setWidth 16)
      obtain ⟨hat, hkeeps⟩ := hop.retired (t := (s.inited _ _).retire 12 i.h.sw) (State.w_upd _ _) rfl fun _ => rfl
      rw [State.binit_performs i.h hn hn' hb hr]
      refine ⟨_, rfl, hat, hkeeps, State.bar_setBar_same _ _ _ _, fun k hk hg => ⟨?_, fun c hc => ?_⟩⟩
      · exact (s.arrival_inited _ _ _ hk hg _).trans (if_pos rfl)
      · exact (s.arrival_inited _ _ _ hk hg c).trans (if_neg hc)
  · refine shared_of (exec_bwait i s) fun hout => ?_
    rw [hout]
    refine ⟨State.bwait_unrecorded i.h, fun r ha => ⟨fun hp => ⟨_, rfl, State.bwait_passes i.h ha hp⟩, fun hphase hv => ?_⟩⟩
    obtain ⟨-, hstat, hreason, hpc⟩ := s.park_stands 6
    rw [State.bwait_parks i.h ha hphase hv]
    refine ⟨_, rfl, OnlyWarp.upd _ _, hstat, hreason, hpc, ?_⟩
    rw [State.park, State.w_upd, Warp.arrival_wait, ha]
  · refine shared_of (exec_btest i s) fun hout => ?_
    rw [hout]
    refine ⟨State.btest_unrecorded i.h i.d, fun r ha => ?_⟩
    have hyes := Barrier.passed_iff (s.bar s.w.team (num i.a i.imm)) r
    obtain ⟨hat, honly, hkeepsV, hkeepsS, harrival, hlanes⟩ := State.btest_answers i.h i.d ha
    refine ⟨_, rfl, hat, honly, hkeepsV, hkeepsS, harrival.trans (if_congr hyes rfl rfl), fun k hk => (hlanes k hk).trans ?_⟩
    rw [Barrier.passed_eq]
end

section
/-! ### Runs of values written row by row -/
namespace Sys2Proof.Machine

/-- A run of `n` values `g 0`, `g 1`, ... reads back where it was written. -/
theorem Tab.get_setRun_range {α : Type} [DecidableEq α] (d : α) (t : Tab α) (a n : Nat) (g : Nat → α) (k : Nat) :
    Tab.get d (Tab.setRun d t a ((List.range n).map g)) k = if a ≤ k ∧ k < a + n then g (k - a) else Tab.get d t k := by
  rw [Tab.get_setRun]
  simp only [List.length_map, List.length_range, List.getElem_map, List.getElem_range, dite_eq_ite]
  exact if_congr (by omega) rfl rfl

/-- For each row of `rs` a run of `n` values, from `p` of the row on. -/
def Tab.setRuns {α : Type} [DecidableEq α] (d : α) (t : Tab α) (rs : List Nat) (p : Nat → Nat) (n : Nat) (g : Nat → Nat → α) : Tab α :=
  rs.foldl (fun t r => Tab.setRun d t (p r) ((List.range n).map (g r))) t

section
variable {α : Type} [DecidableEq α] (d : α) (t : Tab α) {rs : List Nat} {p : Nat → Nat} {n : Nat} (g : Nat → Nat → α)

theorem Tab.get_setRuns_out {k : Nat} (h : ∀ r ∈ rs, k < p r ∨ p r + n ≤ k) : Tab.get d (Tab.setRuns d t rs p n g) k = Tab.get d t k := by
  induction rs generalizing t with
  | nil => rfl
  | cons r rs ih =>
    have hr := h r List.mem_cons_self
    refine (ih _ fun r hr => h r (List.mem_cons_of_mem _ hr)).trans ?_
    rw [Tab.get_setRun_range, if_neg (by omega)]
/-- A value of a row, of which no other row's run writes. -/
theorem Tab.get_setRuns_in {r j : Nat} (hr : r ∈ rs) (hj : j < n) (h : ∀ q ∈ rs, q ≠ r → p r + j < p q ∨ p q + n ≤ p r + j) :
    Tab.get d (Tab.setRuns d t rs p n g) (p r + j) = g r j := by
  induction rs generalizing t with
  | nil => cases hr
  | cons q rs ih =>
    have htail : ∀ q ∈ rs, q ≠ r → p r + j < p q ∨ p q + n ≤ p r + j := fun q hq => h q (List.mem_cons_of_mem _ hq)
    by_cases hmem : r ∈ rs
    · exact ih _ hmem htail
    · obtain rfl : r = q := (List.mem_cons.1 hr).resolve_right hmem
      refine (Tab.get_setRuns_out d _ g fun q hq => htail q hq fun e => hmem (e ▸ hq)).trans ?_
      rw [Tab.get_setRun_range, if_pos (by omega), Nat.add_sub_cancel_left]

end

/-! ### Accumulators (12_matrix.md R213) -/

/-- Rows of a band set, each from column `first` on, are the same rows of the accumulator table. -/
theorem Core.foldl_setAcc (c : Core) (b first n : Nat) (rs : List Nat) (g : Nat → Nat → Word) :
    rs.foldl (fun y row => y.setAcc b row first ((List.range n).map (g row))) c =
      { c with acc := Tab.setRuns 0 c.acc rs (fun row => b * 2048 + row * 64 + first) n g } := by
  induction rs generalizing c with
  | nil => rfl
  | cons r rs ih => exact ih _

/-- Of the accumulators, the rows of `m` and the columns from `first` on that were set alone change. -/
theorem Core.accAt_setRuns (c : Core) (m : Mask) {b first n : Nat} (hfit : first + n ≤ 64) (g : Nat → Nat → Word) {a row col : Nat}
    (hrow : row < 32) (hcol : col < 64) :
    Core.accAt { c with acc := Tab.setRuns 0 c.acc (lanesOf m) (fun row => b * 2048 + row * 64 + first) n g } a row col =
      if a = b ∧ m.getLsbD row = true ∧ first ≤ col ∧ col < first + n then g row (col - first) else c.accAt a row col := by
  have hlane : ∀ r ∈ lanesOf m, r < 32 ∧ m.getLsbD r = true := fun r => (mem_lanesOf m r).1
  unfold Core.accAt
  split
  · next h =>
    obtain ⟨rfl, hm, hlo, hhi⟩ := h
    have := Tab.get_setRuns_in (p := fun row => a * 2048 + row * 64 + first) (n := n) 0 c.acc g ((mem_lanesOf m row).2 ⟨hrow, hm⟩)
      (show col - first < n by omega) fun q hq hne => by have := hlane q hq; omega
    rwa [show a * 2048 + row * 64 + first + (col - first) = a * 2048 + row * 64 + col by omega] at this
  · next h =>
    refine Tab.get_setRuns_out 0 c.acc g fun r hr => ?_
    obtain ⟨hr, hm⟩ := hlane r hr
    by_contra hin
    obtain rfl : a = b := by omega
    obtain rfl : row = r := by omega
    exact h ⟨rfl, hm, by omega, by omega⟩

end Sys2Proof.Machine
end

section
/-! ### What a band's executing command does (12_matrix.md R228, R231, 13_queue.md R243) -/
namespace Sys2Proof.Machine

theorem State.cores_sample (s : State) (core n : Nat) : (s.sample core n).cores = s.cores := by
  induction n generalizing s with
  | zero => rfl
  | succ n ih => exact (ih _).trans (by rw [State.trace_eq])
/-- Counting an event changes the counters of its core alone. -/
theorem State.core_count (s : State) (core tenant e n k : Nat) : ∃ perf, (s.count core tenant e n).core k =
    if k = core then { s.core core with perf := perf } else s.core k :=
  ⟨_, (congrArg (fun cs => Tab.get ({} : Core) cs k) (State.cores_sample _ _ _)).trans (State.core_setCore _ _ _ _)⟩

section
variable {s : State} {r : PortRef} {c : Cmd} (hc : (s.port r.core r.port).exec = some c) (f : Cmd → State → Option State)
include hc

theorem State.bandAct_done (h : (s.port r.core r.port).acted = true ∨ 4 ≤ r.port) : s.bandAct r f = .next s := by
  rw [State.bandAct, hc]
  exact if_pos h.symm
theorem State.bandAct_acts {t : State} (hacted : (s.port r.core r.port).acted = false) (hport : r.port < 4) (hf : f c s = some t) :
    s.bandAct r f = .next (t.setPort r.core r.port { t.port r.core r.port with acted := true }) := by
  rw [State.bandAct, hc]
  refine (if_neg (by simp [hacted, hport])).trans ?_
  rw [hf]

end

/-- The command that a band executes has its effect: of the package's memory, the ports and the other cores nothing changes but the mark
that it has had it, and the rest is as `P` says. -/
def State.BandActs (s : State) (r : PortRef) (out : Out) (P : State → Prop) : Prop :=
  (s.port r.core r.port).acted = false → r.port < 4 → ∃ t, out = .next t ∧
    t.mem = s.mem ∧ t.port r.core r.port = { s.port r.core r.port with acted := true } ∧
    (∀ p, p ≠ r.port → t.port r.core p = s.port r.core p) ∧ (∀ k, k ≠ r.core → t.core k = s.core k) ∧ P t

/-- An effect `t` that changes nothing of memory, ports and other cores, before it is marked. -/
theorem State.bandActs_of {s t : State} {r : PortRef} {c : Cmd} (hc : (s.port r.core r.port).exec = some c)
    {f : Cmd → State → Option State} (hf : f c s = some t) (hmem : t.mem = s.mem) (hports : ∀ p, t.port r.core p = s.port r.core p)
    (hother : ∀ k, k ≠ r.core → t.core k = s.core k) {P : State → Prop}
    (hP : ∀ u : State, u.warps = t.warps → (∀ b row col, (u.core r.core).accAt b row col = (t.core r.core).accAt b row col) →
      (u.core r.core).results = (t.core r.core).results → P u) : s.BandActs r (s.bandAct r f) P := by
  intro hacted hport
  have hcore : ∀ k, (t.setPort r.core r.port { t.port r.core r.port with acted := true }).core k =
      if k = r.core then (t.core r.core).setPort r.port { t.port r.core r.port with acted := true } else t.core k := fun k => State.core_setCore _ _ _ _
  have hp : ∀ p, (t.setPort r.core r.port { t.port r.core r.port with acted := true }).port r.core p =
      if p = r.port then { t.port r.core r.port with acted := true } else t.port r.core p := fun p => by
    rw [State.port, hcore, if_pos rfl]
    exact Tab.get_set _ _ _ _ _
  refine ⟨_, State.bandAct_acts hc f hacted hport hf, hmem, ?_, fun p hne => ?_, fun k hk => ?_, hP _ rfl (fun b row col => ?_) ?_⟩
  · rw [hp, if_pos rfl, hports]
  · rw [hp, if_neg hne, hports]
  · rw [hcore, if_neg hk, hother k hk]
  · rw [hcore, if_pos rfl]; rfl
  · rw [hcore, if_pos rfl]; rfl

/-- Nothing of the warps changes, and of the accumulators the columns `cols` of a command's rows, on its own band, alone. -/
def State.RowsSet (s : State) (r : PortRef) (m : Mask) (t : State) (cols : Nat → Bool) (f : Nat → Nat → Word) : Prop :=
  t.warps = s.warps ∧ ∀ b row col, row < 32 → col < 64 → (t.core r.core).accAt b row col =
    if b = r.port ∧ m.getLsbD row = true ∧ cols col = true then f row col else (s.core r.core).accAt b row col

/-- A command that sets its rows, from column `first` on, and may count its clocks. -/
theorem State.bandActs_rows {s t : State} {r : PortRef} {c : Cmd} (hc : (s.port r.core r.port).exec = some c)
    {f : Cmd → State → Option State} (hf : f c s = some t) (hmem : t.mem = s.mem) (hwarps : t.warps = s.warps) {first n : Nat}
    (hfit : first + n ≤ 64) {g : Nat → Nat → Word}
    (hcore : ∀ k, ∃ perf, t.core k = if k = r.core then { s.core r.core with
      acc := Tab.setRuns 0 (s.core r.core).acc (lanesOf c.lanes) (fun row => r.port * 2048 + row * 64 + first) n g, perf := perf }
      else s.core k)
    {cols : Nat → Bool} (hcols : ∀ col, col < 64 → (cols col = true ↔ first ≤ col ∧ col < first + n))
    {f' : Nat → Nat → Word} (hf' : ∀ row col, first ≤ col → f' row col = g row (col - first)) :
    s.BandActs r (s.bandAct r f) (fun u => s.RowsSet r c.lanes u cols f') := by
  obtain ⟨perf, hown⟩ := hcore r.core
  rw [if_pos rfl] at hown
  refine State.bandActs_of hc hf hmem (fun p => ?_) (fun k hk => ?_) fun u huw hacc _ => ⟨huw.trans hwarps, fun b row col hrow hcol => ?_⟩
  · rw [State.port, hown]; rfl
  · obtain ⟨_, hk'⟩ := hcore k
    rw [hk', if_neg hk]
  · rw [hacc, hown]
    refine (Core.accAt_setRuns (s.core r.core) c.lanes hfit g hrow hcol).trans ?_
    simp only [hcols col hcol]
    split
    · next h => exact (hf' row col h.2.2.1).symm
    · rfl

theorem exec_bandCmdMma (r : PortRef) (s : State) : exec (.bandCmdMma r) s = execBandCmdMma r s := rfl
theorem exec_bandCmdAccz (r : PortRef) (s : State) : exec (.bandCmdAccz r) s = execBandCmdAccz r s := rfl
theorem exec_bandCmdAccrd (r : PortRef) (s : State) : exec (.bandCmdAccrd r) s = execBandCmdAccrd r s := rfl
theorem exec_bandCmdAccwr (r : PortRef) (s : State) : exec (.bandCmdAccwr r) s = execBandCmdAccwr r s := rfl
theorem exec_bandCmdColrd (r : PortRef) (s : State) : exec (.bandCmdColrd r) s = execBandCmdColrd r s := rfl

/-- Element (row, `j`) of a product added to `old`, or to +0 with .z: the chunks of R93. -/
def State.mmaElem (s : State) (core : Nat) (c : Cmd) (z : Bool) (kc : BitVec 7) (oa ob : DWord) (sa sb : MatSpec) (row j : Nat)
    (old : Word) : Word :=
  let k := 2 * (kc.toNat + 1)
  let ra := (s.core core).resvAt sa.recNo.toNat
  let rb := (s.core core).resvAt sb.recNo.toNat
  accChunks ra rb (s.opPlace core c.team sa) (s.opPlace core c.team sb) oa.toNat ob.toNat k row j (depthOf ra rb)
    (k / depthOf ra rb) 0 (if z = true then 0 else old)

/-- The columns of an ACCZ (R230). -/
def accHas (part : AccPart) (col : Nat) : Bool :=
  match part with
  | .all => true
  | .lo => decide (col < 32)
  | .hi => decide (32 ≤ col)

/-- A column of a band as the newest entry of its result port (R243). -/
def Core.columnRead (c : Core) (b col : Nat) : Core :=
  { c with results := Tab.set [] c.results b (Tab.get [] c.results b ++ [allLanes.map (fun row => c.accAt b row col)]) }

/-- Values of registers `d` to `d + n - 1` from the accumulators of the rows of `m`, from column `col` on. -/
def Core.accReads (c : Core) (b : Nat) (m : Mask) (d col n : Nat) : List (Nat × Word) :=
  (lanesOf m).flatMap (fun i => (List.range n).map (fun j => ((d + j) * 32 + i, c.accAt b i (col + j))))
theorem Core.mem_accReads (c : Core) (b : Nat) (m : Mask) (d col n : Nat) (e : Nat × Word) : e ∈ c.accReads b m d col n ↔
    ∃ l j, l < 32 ∧ m.getLsbD l = true ∧ j < n ∧ e = ((d + j) * 32 + l, c.accAt b l (col + j)) := by
  simp only [Core.accReads, List.mem_flatMap, mem_lanesOf, List.mem_map, List.mem_range]
  constructor
  · rintro ⟨l, ⟨hl, hm⟩, j, hj, rfl⟩
    exact ⟨l, j, hl, hm, hj, rfl⟩
  · rintro ⟨l, j, hl, hm, hj, rfl⟩
    exact ⟨l, ⟨hl, hm⟩, j, hj, rfl⟩

/-- The results of a warp of which that of `p` has come back with the values `v`. -/
def Warp.answered (w : Warp) (p : Pending) (v : List (Nat × Word)) : Warp :=
  { w with pending := w.pending.map (fun (q : Pending) => if q.id = p.id then { q with kind := .value v [] } else q) }
theorem State.accReturn_eq {s : State} {core : Nat} {c : Cmd} {p : Pending} (b d col n : Nat)
    (hp : p ∈ (s.warp (core * 16 + c.slot)).pending) (hk : p.kind = .accrd c.id)
    (huniq : ∀ q ∈ (s.warp (core * 16 + c.slot)).pending, q.kind = .accrd c.id → q = p) :
    s.accReturn core b c d col n =
      s.setWarp (core * 16 + c.slot) ((s.warp (core * 16 + c.slot)).answered p ((s.core core).accReads b p.lanes d col n)) := by
  have hfind : (s.warp (core * 16 + c.slot)).pending.find? (fun q => q.kind == .accrd c.id) = some p := by
    cases hf : (s.warp (core * 16 + c.slot)).pending.find? (fun q => q.kind == .accrd c.id) with
    | none => exact absurd hk (by simpa using List.find?_eq_none.1 hf p hp)
    | some q => rw [huniq q (List.mem_of_find?_eq_some hf) (by simpa using List.find?_some hf)]
  rw [State.accReturn, hfind]
  rfl
/-- Of the results only `p` differs, where no other has its number. -/
theorem Warp.mem_answered {w : Warp} {p : Pending} (hp : p ∈ w.pending) (huniq : ∀ q ∈ w.pending, q.id = p.id → q = p)
    (v : List (Nat × Word)) (q : Pending) :
    q ∈ (w.answered p v).pending ↔ (q ∈ w.pending ∧ q.id ≠ p.id) ∨ q = { p with kind := .value v [] } := by
  rw [Warp.answered, List.mem_map]
  constructor
  · rintro ⟨x, hx, rfl⟩
    by_cases h : x.id = p.id
    · obtain rfl := huniq x hx h
      exact .inr (if_pos rfl)
    · rw [if_neg h]
      exact .inl ⟨hx, h⟩
  · rintro (⟨hq, h⟩ | rfl)
    · exact ⟨q, hq, if_neg h⟩
    · exact ⟨p, hp, if_pos rfl⟩

section
variable {s : State} {r : PortRef} {c : Cmd} (hc : (s.port r.core r.port).exec = some c)
include hc

theorem bandActs_mma {half z n64 : Bool} {kc : BitVec 7} {oa ob : DWord} {sa sb : MatSpec} (hb : c.body = .mma half z n64 kc oa ob sa sb)
    (hn : ¬(half = true ∧ n64 = true)) :
    let first := if half = true then 32 else 0
    s.BandActs r (exec (.bandCmdMma r) s) (fun t => s.RowsSet r c.lanes t
      (fun col => decide (first ≤ col) && decide (col < first + if n64 = true then 64 else 32))
      (fun row col => s.mmaElem r.core c z kc oa ob sa sb row (col - first) ((s.core r.core).accAt r.port row col))) := by
  intro first
  rw [exec_bandCmdMma, execBandCmdMma]
  refine State.bandActs_rows hc (t := s.mmaRun r.core r.port c half z n64 kc.toNat oa ob sa sb) ?_ (State.mem_mmaRun ..)
    (State.warps_count ..) (first := first) (n := if n64 = true then 64 else 32) ?_
    (g := fun row j => s.mmaElem r.core c z kc oa ob sa sb row j ((s.core r.core).accAt r.port row (first + j))) ?_ ?_ ?_
  · rw [hb]
  · cases half <;> cases n64 <;> simp_all [first]
  · intro k
    rw [State.mmaRun]
    obtain ⟨perf, h⟩ := State.core_count (s.setCore r.core _) r.core (s.team c.team).tenant 4 _ k
    refine ⟨perf, h.trans ?_⟩
    rw [State.core_setCore, if_pos rfl, Core.foldl_setAcc, State.core_setCore]
    split <;> rfl
  · simp
  · intro row col h
    rw [Nat.add_sub_cancel' h]

theorem bandActs_accz {part : AccPart} (hb : c.body = .accz part) :
    s.BandActs r (exec (.bandCmdAccz r) s) (fun t => s.RowsSet r c.lanes t (accHas part) (fun _ _ => 0)) := by
  rw [exec_bandCmdAccz, execBandCmdAccz]
  refine State.bandActs_rows hc (t := s.setCore r.core ((lanesOf c.lanes).foldl (fun y row =>
    y.setAcc r.port row (accSpan part).1 (List.replicate (accSpan part).2 0)) (s.core r.core))) ?_ rfl rfl
    (first := (accSpan part).1) (n := (accSpan part).2) (by cases part <;> decide) (g := fun _ _ => 0) ?_ ?_ fun _ _ _ => rfl
  · rw [hb]
  · intro k
    refine ⟨(s.core r.core).perf, ?_⟩
    have := Core.foldl_setAcc (s.core r.core) r.port (accSpan part).1 (accSpan part).2 (lanesOf c.lanes) (fun _ _ => 0)
    rw [List.map_const', List.length_range] at this
    rw [State.core_setCore, this]
  · intro col hcol
    cases part <;> simp [accHas, accSpan] <;> omega

theorem bandActs_accwr {col n : Nat} {vals : Tab Word} (hb : c.body = .accwr col n vals) (hfit : col + n ≤ 64) :
    s.BandActs r (exec (.bandCmdAccwr r) s) (fun t => s.RowsSet r c.lanes t (fun x => decide (col ≤ x) && decide (x < col + n))
      (fun row x => Tab.get 0 vals (row * 64 + (x - col)))) := by
  rw [exec_bandCmdAccwr, execBandCmdAccwr]
  refine State.bandActs_rows hc (t := s.setCore r.core ((lanesOf c.lanes).foldl (fun y row =>
    y.setAcc r.port row col (Tab.getRun 0 vals (row * 64) n)) (s.core r.core))) ?_ rfl rfl hfit
    (g := fun row j => Tab.get 0 vals (row * 64 + j)) ?_ (by simp) fun _ _ _ => rfl
  · rw [hb]
  · intro k
    refine ⟨(s.core r.core).perf, ?_⟩
    have := Core.foldl_setAcc (s.core r.core) r.port col n (lanesOf c.lanes) (fun row j => Tab.get 0 vals (row * 64 + j))
    rw [State.core_setCore, ← this]
    rfl

/-- A column of all 32 rows joins the tail of the band's result port. -/
theorem bandActs_colrd {col : Nat} (hb : c.body = .colrd col) (hroom : (Tab.get [] (s.core r.core).results r.port).length < 8) :
    s.BandActs r (exec (.bandCmdColrd r) s) (fun t => t.warps = s.warps ∧
      (∀ b row x, row < 32 → x < 64 → (t.core r.core).accAt b row x = (s.core r.core).accAt b row x) ∧
      Tab.get [] (t.core r.core).results r.port = Tab.get [] (s.core r.core).results r.port ++
        [(List.range 32).map (fun row => (s.core r.core).accAt r.port row col)]) := by
  rw [exec_bandCmdColrd, execBandCmdColrd]
  have hcore := fun k => State.core_setCore s r.core k ((s.core r.core).columnRead r.port col)
  refine State.bandActs_of hc (t := s.setCore r.core _) ?_ rfl (fun p => ?_) (fun k hk => (hcore k).trans (if_neg hk))
    fun u hw hacc hres => ⟨hw, fun b row x _ _ => ?_, ?_⟩
  · rw [hb]
    exact if_neg (by omega)
  · rw [State.port, hcore, if_pos rfl]; rfl
  · rw [hacc, hcore, if_pos rfl]; rfl
  · rw [hres, hcore, if_pos rfl]
    exact Tab.get_set_same _ _ _ _

/-- The accumulators that an ACCRD reads become the values of its result. -/
theorem bandActs_accrd {d col n : Nat} (hb : c.body = .accrd d col n) {p : Pending}
    (hp : p ∈ (s.warp (r.core * 16 + c.slot)).pending) (hk : p.kind = .accrd c.id)
    (huniq : ∀ q ∈ (s.warp (r.core * 16 + c.slot)).pending, (q.kind = .accrd c.id ∨ q.id = p.id) → q = p) :
    s.BandActs r (exec (.bandCmdAccrd r) s) (fun t =>
      t.warps = (s.setWarp (r.core * 16 + c.slot) ((s.warp (r.core * 16 + c.slot)).answered p
        ((s.core r.core).accReads r.port p.lanes d col n))).warps ∧
      ∀ b row y, (t.core r.core).accAt b row y = (s.core r.core).accAt b row y) := by
  rw [exec_bandCmdAccrd, execBandCmdAccrd]
  refine State.bandActs_of hc (t := s.setWarp (r.core * 16 + c.slot) ((s.warp (r.core * 16 + c.slot)).answered p
    ((s.core r.core).accReads r.port p.lanes d col n))) ?_ rfl (fun _ => rfl) (fun _ _ => rfl) fun u hw hacc _ => ⟨hw, hacc⟩
  rw [hb]
  exact congrArg some (State.accReturn_eq r.port d col n hp hk fun q hq hkq => huniq q hq (.inl hkq))

end

end Sys2Proof.Machine
end

section
open Sys2Proof Sys2Proof.Machine
/-- Settles O38: each kind of command has its effect by `State.bandActs_of`, MMA, ACCZ and ACCWR on rows of columns by `State.bandActs_rows`,
and `State.bandAct_done` leaves a port as it is whose command has had it. -/
theorem bandsExecuteTheirCommandOnce : Obligations.BandsExecuteTheirCommandOnce := by
  unfold Obligations.BandsExecuteTheirCommandOnce
  intro s r c hc
  refine ⟨fun h => (exec_bandCmdMma r s).trans (State.bandAct_done hc _ h), fun h => (exec_bandCmdAccz r s).trans (State.bandAct_done hc _ h),
    fun h => (exec_bandCmdAccrd r s).trans (State.bandAct_done hc _ h), fun h => (exec_bandCmdAccwr r s).trans (State.bandAct_done hc _ h),
    fun h => (exec_bandCmdColrd r s).trans (State.bandAct_done hc _ h),
    fun half z n64 kc oa ob sa sb hb hn => bandActs_mma hc hb hn, fun part hb => bandActs_accz hc hb,
    fun col n vals hb hfit => bandActs_accwr hc hb hfit, fun col hb hroom => bandActs_colrd hc hb hroom,
    fun d col n hb p hp hk huniq hacted hport => ?_⟩
  obtain ⟨t, ht, hmem, hown, hports, hcores, hwarps, hacc⟩ := bandActs_accrd hc hb hp hk huniq hacted hport
  have hwarp : ∀ k, t.warp k = _ := fun k => (congrArg (fun ws => Tab.get ({} : Warp) ws k) hwarps).trans (State.warp_setWarp _ _ _ _)
  refine ⟨t, ht, hmem, hown, hports, hcores, fun k hk => (hwarp k).trans (if_neg hk), ?_, ⟨_, fun q => ?_, Core.mem_accReads _ _ _ _ _ _⟩, hacc⟩
  · rw [hwarp, if_pos rfl]; rfl
  · rw [hwarp, if_pos rfl]
    exact Warp.mem_answered hp (fun q hq hid => huniq q hq (.inr hid)) _ _
end

section
/-! ### The checks of the matrix instructions (12_matrix.md R214, R218, R224, R228, R230) -/
namespace Sys2Proof.Machine

/-- A precise trap is the trap of its cause. -/
theorem trapsWith_precise (s : State) (cause : Cause) (flm : Mask) (addr : DWord) :
    TrapsWith (.next (s.precise cause flm addr)) s cause flm := ⟨addr, rfl⟩

theorem State.holdsBand_iff (s : State) (b : Nat) : s.holdsBand b = true ↔
    (s.myCore.band b).state = .held ∧ (s.myCore.band b).owner = slotOf s.w.team := by
  simp [State.holdsBand]
theorem State.holdsRec_iff (s : State) (n : Nat) : s.holdsRec n = true ↔
    n < 32 ∧ (s.myCore.resvAt n).state = .held ∧ (s.myCore.resvAt n).owner = slotOf s.w.team := by
  simp [State.holdsRec, and_assoc]

/-- Bytes from an operand's offset to the end of its data, and of its scales where its format has them (R224). -/
def Resv.span (r : Resv) (v k : Nat) : Nat :=
  max (v * k * r.bits / 8) (if r.kind = 0 then r.soff * 128 + 4 * (v * k / (8 * 2 ^ r.blk.toNat)) else 0)
theorem Resv.reach_eq (r : Resv) (v k : Nat) : r.reach v k = r.span v k := by
  unfold Resv.reach Resv.span
  by_cases h : r.kind = 0
  · simp only [h, ne_eq, not_true, if_false, if_true]; rfl
  · simp only [h, ne_eq, not_false_eq_true, if_true, if_false, Nat.max_zero]; rfl

/-- `c` is a cause of an operand of `v` vectors of `k` elements at an offset: unaligned or past its record, or past the scratchpad of its team,
or of no team (R228). -/
def State.OperandBad (s : State) (m : MatSpec) (off : DWord) (v k : Nat) (c : Cause) : Prop :=
  let r := s.myCore.resvAt m.recNo.toNat
  match m.src with
  | .ob => c = 0x1C3 ∧ (off.toNat % 8 ≠ 0 ∨ r.size * 128 < off.toNat + r.span v k)
  | .sp => (c = 0x1C3 ∧ off.toNat % 8 ≠ 0) ∨ (c = 0x114 ∧ s.myTeam.size < off.toNat + r.span v k)
  | .remote n _ => (c = 0x1C3 ∧ off.toNat % 8 ≠ 0) ∨ (s.spTeam (some n) = none ∧ c = 0x115) ∨
      ∃ t, s.spTeam (some n) = some t ∧ c = 0x114 ∧ (s.team t).size < off.toNat + r.span v k

theorem spCause_eq_some {t : Option Team} {ea : DWord} {n : Nat} {c : Cause} : spCause t ea n = some c ↔
    (t = none ∧ c = 0x115) ∨ ∃ u, t = some u ∧ c = 0x114 ∧ u.size < ea.toNat + n := by
  cases t with
  | none => simp [spCause, eq_comm]
  | some u =>
    by_cases h : ea.toNat + n ≤ u.size
    · simp [spCause, h]
    · simp [spCause, h, eq_comm, Nat.lt_of_not_le h]

theorem State.mem_opCause (s : State) (m : MatSpec) (off : DWord) (v k : Nat) (c : Cause) :
    c ∈ s.opCause m off v k ↔ s.OperandBad m off v k c := by
  have hlist : ∀ (p : Prop) [Decidable p] (x : Cause), c ∈ (if p then [x] else []) ↔ c = x ∧ p := fun p _ x => by
    split <;> simp_all
  unfold State.opCause State.OperandBad
  simp only [Resv.reach_eq]
  cases m.src with
  | ob => exact hlist _ _
  | sp => simp [spCause_eq_some, and_comm]
  | remote n g => simp [spCause_eq_some, and_comm]

theorem firstOf_nil (cs : List Cause) : firstOf [] cs = none := rfl
theorem firstOf_cons (x : Cause) (order cs : List Cause) : firstOf (x :: order) cs = if x ∈ cs then some x else firstOf order cs := by
  by_cases h : x ∈ cs
  · simp [firstOf, h]
  · simp [firstOf, h]

/-- The checks of R228 in their order. -/
theorem State.mmaCause_eq (s : State) (b : Nat) (half n64 : Bool) (kc : Nat) (x y : MatSpec) (oa ob : DWord) :
    s.mmaCause b half n64 kc x y oa ob =
      let k := 2 * (kc + 1)
      let ra := s.myCore.resvAt x.recNo.toNat
      let rb := s.myCore.resvAt y.recNo.toNat
      let cs := s.opCause x oa 32 k ++ s.opCause y ob (if n64 = true then 64 else 32) k
      if half = true ∧ n64 = true then some 0x1C8
      else if ¬s.holdsBand b = true then some 0x1C0
      else if ¬s.holdsRec x.recNo.toNat = true ∨ ¬s.holdsRec y.recNo.toNat = true then some 0x1C1
      else if k % depthOf ra rb ≠ 0 ∨ (ra.kind = 0 ∧ k % ra.block ≠ 0) ∨ (rb.kind = 0 ∧ k % rb.block ≠ 0) then some 0x1C4
      else if 0x1C3 ∈ cs then some 0x1C3 else if 0x114 ∈ cs then some 0x114 else if 0x115 ∈ cs then some 0x115 else none := by
  unfold State.mmaCause
  simp only [firstOf_cons, firstOf_nil]
  simp [or_assoc]

theorem State.accCause_eq (s : State) (i : AccMove) : s.accCause i =
    if 64 < i.col.toNat + (i.nm1.toNat + 1) ∨ 256 < i.reg.toNat + (i.nm1.toNat + 1) then some 0x1CA
    else if ¬s.holdsBand i.band.toNat = true then some 0x1C0 else none := by
  simp [State.accCause]

end Sys2Proof.Machine
end

section
/-! ### MMA, ACCZ, ACCRD and ACCWR (12_matrix.md R227 to R231) -/
namespace Sys2Proof.Machine

theorem exec_mma (i : Mma) (s : State) : exec (.mma i) s = execMma i s := rfl
theorem exec_accz (i : AccZ) (s : State) : exec (.accz i) s = execAccz i s := rfl
theorem exec_accrd (i : AccMove) (s : State) : exec (.accrd i) s = execAccrd i s := rfl
theorem exec_accwr (i : AccMove) (s : State) : exec (.accwr i) s = execAccwr i s := rfl

section
variable (s : State) (i : Mma)

/-- Byte offset of an operand: OFF in units of 8, and the scalar register if it is added (R227). -/
def State.mmaOff (o : MatSpec) (add : Bool) : DWord := o.off.setWidth 64 * 8 + (if add = true then s.w.s i.sreg.toNat else 0)
theorem State.mmaOff_eq (o : MatSpec) (add : Bool) :
    ((o.off.setWidth 64 : DWord) <<< 3) + (if add then s.w.s i.sreg.toNat else 0) = s.mmaOff i o add := by
  rw [State.mmaOff, BitVec.shiftLeft_eq_mul_twoPow]
  rfl
/-- The checks of an MMA at its offsets. -/
def State.mmaFails : Option Cause :=
  s.mmaCause i.band.toNat i.half i.n64 i.kc.toNat i.aop i.bop (s.mmaOff i i.aop i.sa) (s.mmaOff i i.bop i.sb)

theorem trapsWith_mma {c : Cause} (h : s.mmaFails i = some c) : TrapsWith (exec (.mma i) s) s c (s.w.parts i.h) := by
  simp only [exec_mma, execMma, State.mmaOff_eq]
  rw [State.mmaFails] at h
  rw [h]
  exact trapsWith_precise _ _ _ _
theorem warpStep_mma (h : s.mmaFails i = none) (hm : s.w.parts i.h = 0) :
    WarpStep (exec (.mma i) s) s s.w (s.w.pc + BitVec.ofNat 64 16) i.h.sw := by
  simp only [exec_mma, execMma, State.mmaOff_eq]
  rw [State.mmaFails] at h
  rw [h, if_pos hm]
  exact warpStep_retire s 16 i.h.sw
theorem queued_mma (h : s.mmaFails i = none) (hm : s.w.parts i.h ≠ 0) :
    Queued (exec (.mma i) s) s 16 i.band.toNat i.h.sw (fun _ => s.w) (s.plainCmd i.h .none
      (.mma i.half i.z i.n64 i.kc (s.mmaOff i i.aop i.sa) (s.mmaOff i i.bop i.sb) i.aop i.bop)) := by
  simp only [exec_mma, execMma, State.mmaOff_eq]
  rw [State.mmaFails] at h
  rw [h, if_neg hm]
  exact queued_issue s i.h 16 i.band.toNat _ _ fun _ => rfl

end

section
variable (s : State) (i : AccZ)

theorem trapsWith_accz (h : ¬s.holdsBand i.band.toNat = true) : TrapsWith (exec (.accz i) s) s 0x1C0 (s.w.parts i.h) := by
  rw [exec_accz, execAccz, if_pos (by simpa using h)]
  exact trapsWith_precise _ _ _ _
theorem warpStep_accz (h : s.holdsBand i.band.toNat = true) (hm : s.w.parts i.h = 0) :
    WarpStep (exec (.accz i) s) s s.w (s.w.pc + BitVec.ofNat 64 8) i.h.sw := by
  rw [exec_accz, execAccz, if_neg (by simpa using h), if_pos hm]
  exact warpStep_retire s 8 i.h.sw
theorem queued_accz (h : s.holdsBand i.band.toNat = true) (hm : s.w.parts i.h ≠ 0) :
    Queued (exec (.accz i) s) s 8 i.band.toNat i.h.sw (fun _ => s.w) (s.plainCmd i.h .none (.accz i.part)) := by
  rw [exec_accz, execAccz, if_neg (by simpa using h), if_neg hm]
  exact queued_issue s i.h 8 i.band.toNat _ _ fun _ => rfl

end

section
variable (s : State) (i : AccMove)

/-- ACCRD and ACCWR alike raise the cause of their checks, and advance where no lane participates. -/
theorem trapsWith_accMove {c : Cause} (h : s.accCause i = some c) :
    TrapsWith (exec (.accrd i) s) s c (s.w.parts i.h) ∧ TrapsWith (exec (.accwr i) s) s c (s.w.parts i.h) := by
  rw [exec_accrd, exec_accwr, execAccrd, execAccwr, h]
  exact ⟨trapsWith_precise _ _ _ _, trapsWith_precise _ _ _ _⟩
theorem warpStep_accMove (h : s.accCause i = none) (hm : s.w.parts i.h = 0) :
    WarpStep (exec (.accrd i) s) s s.w (s.w.pc + BitVec.ofNat 64 12) i.h.sw ∧
      WarpStep (exec (.accwr i) s) s s.w (s.w.pc + BitVec.ofNat 64 12) i.h.sw := by
  rw [exec_accrd, exec_accwr, execAccrd, execAccwr, h]
  dsimp only
  rw [if_pos hm, if_pos hm]
  exact ⟨warpStep_retire s 12 i.h.sw, warpStep_retire s 12 i.h.sw⟩

variable (h : s.accCause i = none) (hm : s.w.parts i.h ≠ 0)
include h hm

theorem queued_accrd : Queued (exec (.accrd i) s) s 12 i.band.toNat i.h.sw
    (fun id => { s.w with pending := s.w.pending ++ [⟨id, s.w.parts i.h, .accrd id⟩] })
    (s.plainCmd i.h .none (.accrd i.reg.toNat i.col.toNat (i.nm1.toNat + 1))) := by
  rw [exec_accrd, execAccrd, h]
  dsimp only
  rw [if_neg hm]
  exact queued_issue s i.h 12 i.band.toNat _ _ fun _ => rfl
theorem queued_accwr : Queued (exec (.accwr i) s) s 12 i.band.toNat i.h.sw (fun _ => s.w)
    (s.plainCmd i.h .none (.accwr i.col.toNat (i.nm1.toNat + 1) (s.w.accVals (s.w.parts i.h) i.reg.toNat (i.nm1.toNat + 1)))) := by
  rw [exec_accwr, execAccwr, h]
  dsimp only
  rw [if_neg hm]
  exact queued_issue s i.h 12 i.band.toNat _ _ fun _ => rfl

end

/-- What an ACCWR takes along: the registers of its lanes as they were at issue (R231). -/
theorem Warp.get_accVals (w : Warp) {m : Mask} (r : Nat) {n l j : Nat} (hn : n ≤ 64) (hl : l < 32) (hj : j < n)
    (hm : m.getLsbD l = true) : Tab.get 0 (w.accVals m r n) (l * 64 + j) = w.v (r + j) l :=
  Tab.get_setRuns_in (p := fun l => l * 64) 0 [] (fun l j => w.v (r + j) l) ((mem_lanesOf m l).2 ⟨hl, hm⟩) hj
    fun _ _ _ => by omega

end Sys2Proof.Machine
end

section
open Sys2Proof Sys2Proof.Machine
/-- Settles O37: each instruction raises the first cause of its checks, which `State.mmaCause_eq` and `State.accCause_eq` give in their order, or
is a push whose checks have passed (`queued_issue`). -/
theorem matrixCommandsQueueToTheirBand : Obligations.MatrixCommandsQueueToTheirBand := by
  unfold Obligations.MatrixCommandsQueueToTheirBand
  intro s core holds cmd idle
  have hband : ∀ b, s.holdsBand b = true ↔ holds b := s.holdsBand_iff
  refine ⟨fun i => ?_, fun i => ?_, fun i => ?_⟩
  · intro out off oa ob k ra rb mine depth uneven reach place bad traps e1 e2 e3
    have htraps : ∀ c, s.mmaFails i = some c → traps c := fun c => trapsWith_mma s i
    have hrec : ∀ n : BitVec 5, s.holdsRec n.toNat = true ↔ mine (core.resvAt n.toNat) := fun n =>
      (s.holdsRec_iff n.toNat).trans (and_iff_right n.isLt)
    have hbad : ∀ c, c ∈ s.opCause i.aop oa 32 k ++ s.opCause i.bop ob (if i.n64 = true then 64 else 32) k ↔ bad c := fun c =>
      List.mem_append.trans (or_congr (s.mem_opCause ..) (s.mem_opCause ..))
    have h2iff : ¬s.holdsBand i.band.toNat = true ↔ e2 := not_congr (hband _)
    have h3iff : (¬s.holdsRec i.aop.recNo.toNat = true ∨ ¬s.holdsRec i.bop.recNo.toNat = true) ↔ e3 :=
      or_congr (not_congr (hrec _)) (not_congr (hrec _))
    have hcause := s.mmaCause_eq i.band.toNat i.half i.n64 i.kc.toNat i.aop i.bop oa ob
    have after1 := fun h1 : ¬e1 => hcause.trans (if_neg h1)
    have after2 := fun h1 (h2 : ¬e2) => (after1 h1).trans (if_neg (mt h2iff.1 h2))
    have after3 := fun h1 h2 (h3 : ¬e3) => (after2 h1 h2).trans (if_neg (mt h3iff.1 h3))
    have after4 := fun h1 h2 h3 (h4 : ¬uneven) => (after3 h1 h2 h3).trans (if_neg h4)
    have after5 := fun h1 h2 h3 h4 (h5 : ¬bad 0x1C3) => (after4 h1 h2 h3 h4).trans (if_neg (mt (hbad _).1 h5))
    have after6 := fun h1 h2 h3 h4 h5 (h6 : ¬bad 0x114) => (after5 h1 h2 h3 h4 h5).trans (if_neg (mt (hbad _).1 h6))
    refine ⟨fun h1 => htraps _ (hcause.trans (if_pos h1)), fun h1 h2 => htraps _ ((after1 h1).trans (if_pos (h2iff.2 h2))),
      fun h1 h2 h3 => htraps _ ((after2 h1 h2).trans (if_pos (h3iff.2 h3))),
      fun h1 h2 h3 h4 => htraps _ ((after3 h1 h2 h3).trans (if_pos h4)), fun h1 h2 h3 h4 =>
      ⟨fun h5 => htraps _ ((after4 h1 h2 h3 h4).trans (if_pos ((hbad _).2 h5))),
        fun h5 h6 => htraps _ ((after5 h1 h2 h3 h4 h5).trans (if_pos ((hbad _).2 h6))),
        fun h5 h6 h7 => htraps _ ((after6 h1 h2 h3 h4 h5 h6).trans (if_pos ((hbad _).2 h7))), fun h5 h6 h7 => ?_⟩⟩
    have hnone : s.mmaFails i = none := (after6 h1 h2 h3 h4 h5 h6).trans (if_neg (mt (hbad _).1 h7))
    exact ⟨warpStep_mma s i hnone, queued_mma s i hnone⟩
  · exact ⟨fun h => trapsWith_accz s i (mt (hband _).1 h), fun h => ⟨warpStep_accz s i ((hband _).2 h), queued_accz s i ((hband _).2 h)⟩⟩
  · intro n wide checks
    have hcause := s.accCause_eq i
    have hpass := fun (hw : ¬wide) h => (hcause.trans (if_neg hw)).trans (if_neg (not_not.2 ((hband i.band.toNat).2 h)))
    have hwide := fun hw : wide => trapsWith_accMove s i (hcause.trans (if_pos hw))
    have hlost := fun (hw : ¬wide) h => trapsWith_accMove s i ((hcause.trans (if_neg hw)).trans (if_pos (mt (hband _).1 h)))
    refine ⟨⟨fun hw => (hwide hw).1, fun hw h => (hlost hw h).1, fun hw h hm => (warpStep_accMove s i (hpass hw h) hm).1⟩,
      ⟨fun hw => (hwide hw).2, fun hw h => (hlost hw h).2, fun hw h hm => (warpStep_accMove s i (hpass hw h) hm).2⟩,
      fun hw h hm => ⟨queued_accrd s i (hpass hw h) hm, _, fun l j hl hj hlane => ?_, queued_accwr s i (hpass hw h) hm⟩⟩
    exact s.w.get_accVals i.reg.toNat (by omega) hl hj hlane
end

section
/-! ### Bands and records of a core, and what a release frees (12_matrix.md R214, R219) -/
namespace Sys2Proof.Machine

/-- A read of a table without some keys. -/
theorem Tab.get_drop {α : Type} (d : α) (p : Nat → Bool) (t : Tab α) (n : Nat) :
    Tab.get d (Tab.drop p t) n = if p n = true then d else Tab.get d t n := by
  induction t with
  | nil => exact (ite_self d).symm
  | cons e t ih =>
    obtain ⟨k, v⟩ := e
    by_cases hk : p k = true
    · rw [Tab.drop, List.filter_cons_of_neg (by simpa using hk)]
      refine ih.trans ?_
      by_cases h : n = k
      · subst h; rw [if_pos hk, if_pos hk]
      · rw [Tab.get, if_neg h]
    · rw [Tab.drop, List.filter_cons_of_pos (by simpa using hk)]
      by_cases h : n = k
      · subst h; simp [Tab.get, hk]
      · rw [Tab.get, if_neg h, Tab.get, if_neg h]
        exact ih

theorem Core.band_setBand (c : Core) (b : Nat) (x : Band) (a : Nat) : (c.setBand b x).band a = if a = b then x else c.band a :=
  Tab.get_set _ _ _ _ _
theorem Core.resvAt_setResv (c : Core) (n : Nat) (x : Resv) (m : Nat) : (c.setResv n x).resvAt m = if m = n then x else c.resvAt m :=
  Tab.get_set _ _ _ _ _

/-- Some command stands on a port. -/
def Core.Busy (c : Core) (b : Nat) : Prop := ∃ x, x ∈ (c.port b).all
/-- Some command of the core names a record. -/
def Core.Named (c : Core) (n : Nat) : Prop := ∃ p x, p < 6 ∧ x ∈ (c.port p).all ∧ x.body.names n = true
theorem Core.not_busy_iff (c : Core) (b : Nat) : ¬c.Busy b ↔ (c.port b).all = [] := by
  rw [Core.Busy, not_exists, List.eq_nil_iff_forall_not_mem]
theorem Core.not_named_iff (c : Core) (n : Nat) :
    ¬c.Named n ↔ (List.range 6).all (fun p => (c.port p).all.all (fun x => !x.body.names n)) = true := by
  simp only [Core.Named, List.all_eq_true, List.mem_range, Bool.not_eq_true', not_exists, not_and, Bool.not_eq_true]
  exact ⟨fun h p hp x hx => h p x hp hx, fun h p x hp hx => h p hp x hx⟩

/-- Band `b` is Free once it is Releasing and its queue is empty. -/
def Core.BandEnds (c : Core) (b : Nat) : Prop := b < 4 ∧ (c.band b).state = .releasing ∧ ¬c.Busy b
/-- Record `n` is Free once it is Releasing and no command names it. -/
def Core.RecEnds (c : Core) (n : Nat) : Prop := n < 32 ∧ (c.resvAt n).state = .releasing ∧ ¬c.Named n

/-- Steps of which each changes the part of its own number alone, by an `f` that changes nothing twice. -/
theorem foldl_parts {σ β : Type} (g : σ → Nat → σ) (v : σ → Nat → β) (f : Nat → β → β) (hf : ∀ k x, f k (f k x) = f k x)
    (hg : ∀ s k n, v (g s k) n = if n = k then f k (v s k) else v s n) (l : List Nat) (s : σ) (n : Nat) :
    v (l.foldl g s) n = if n ∈ l then f n (v s n) else v s n := by
  induction l generalizing s with
  | nil => simp
  | cons k l ih =>
    rw [List.foldl_cons, ih, hg]
    by_cases hk : n = k
    · subst hk; simp [hf]
    · simp [hk]

theorem foldl_keeps {σ β : Type} (g : σ → Nat → σ) (v : σ → β) (hg : ∀ s k, v (g s k) = v s) (l : List Nat) (s : σ) :
    v (l.foldl g s) = v s := by
  induction l generalizing s with
  | nil => rfl
  | cons k l ih => exact (ih _).trans (hg s k)

section
variable (c : Core) (b n : Nat)

theorem Core.settleBand_frame : { c.settleBand b with bands := [], resv := [] } = { c with bands := [], resv := [] } := by
  unfold Core.settleBand
  split <;> rfl
theorem Core.settleRec_frame : { c.settleRec n with bands := [], resv := [] } = { c with bands := [], resv := [] } := by
  unfold Core.settleRec
  split <;> rfl
@[simp] theorem Core.port_settleBand (p : Nat) : (c.settleBand b).port p = c.port p := by
  unfold Core.settleBand
  split <;> rfl
@[simp] theorem Core.resvAt_settleBand : (c.settleBand b).resvAt n = c.resvAt n := by
  unfold Core.settleBand
  split <;> rfl
@[simp] theorem Core.port_settleRec (p : Nat) : (c.settleRec n).port p = c.port p := by
  unfold Core.settleRec
  split <;> rfl
@[simp] theorem Core.band_settleRec : (c.settleRec n).band b = c.band b := by
  unfold Core.settleRec
  split <;> rfl

end

theorem Core.band_settleBand (c : Core) (b a : Nat) : (c.settleBand b).band a =
    if a = b ∧ (c.band a).state = .releasing ∧ (c.port a).all = [] then {} else c.band a := by
  unfold Core.settleBand
  split
  · next h =>
    rw [Core.band_setBand]
    exact if_ctx_congr ⟨fun e => ⟨e, e ▸ h⟩, fun h => h.1⟩ (fun _ => rfl) (fun _ => rfl)
  · next h => rw [if_neg (by rintro ⟨rfl, hr⟩; exact h hr)]
theorem Core.resvAt_settleRec (c : Core) (n m : Nat) : (c.settleRec n).resvAt m =
    if m = n ∧ (c.resvAt m).state = .releasing ∧
      (List.range 6).all (fun p => (c.port p).all.all (fun x => !x.body.names m)) = true then {} else c.resvAt m := by
  unfold Core.settleRec
  split
  · next h =>
    rw [Core.resvAt_setResv]
    exact if_ctx_congr ⟨fun e => ⟨e, e ▸ h⟩, fun h => h.1⟩ (fun _ => rfl) (fun _ => rfl)
  · next h => rw [if_neg (by rintro ⟨rfl, hr⟩; exact h hr)]

/-- Of bands settled one after the other, those that have ended are Free. -/
theorem Core.band_foldl_settleBand (l : List Nat) (c : Core) (b : Nat) : (l.foldl Core.settleBand c).band b =
    if b ∈ l ∧ (c.band b).state = .releasing ∧ (c.port b).all = [] then {} else c.band b := by
  induction l generalizing c with
  | nil => simp
  | cons a l ih =>
    rw [List.foldl_cons, ih, Core.band_settleBand, Core.port_settleBand]
    by_cases hr : (c.band b).state = .releasing ∧ (c.port b).all = []
    · by_cases hb : b = a
      · subst hb; simp [hr]
      · simp [hr, hb]
    · simp [hr]
theorem Core.resvAt_foldl_settleRec (l : List Nat) (c : Core) (n : Nat) : (l.foldl Core.settleRec c).resvAt n =
    if n ∈ l ∧ (c.resvAt n).state = .releasing ∧
      (List.range 6).all (fun p => (c.port p).all.all (fun x => !x.body.names n)) = true then {} else c.resvAt n := by
  induction l generalizing c with
  | nil => simp
  | cons a l ih =>
    simp only [List.foldl_cons, ih, Core.resvAt_settleRec, Core.port_settleRec]
    by_cases hr : (c.resvAt n).state = .releasing ∧ (List.range 6).all (fun p => (c.port p).all.all (fun x => !x.body.names n)) = true
    · by_cases hn : n = a
      · subst hn
        simp only [hr, List.mem_cons, true_or, and_self, if_true, ite_self]
      · simp only [hr, hn, List.mem_cons, false_or, false_and, if_false]
    · simp only [hr, and_false, if_false]

theorem Core.foldl_settle_frame (bs ns : List Nat) (c : Core) :
    { ns.foldl Core.settleRec (bs.foldl Core.settleBand c) with bands := c.bands, resv := c.resv } = c := by
  have h := (foldl_keeps Core.settleRec (fun c => { c with bands := [], resv := [] }) Core.settleRec_frame ns _).trans
    (foldl_keeps Core.settleBand (fun c => { c with bands := [], resv := [] }) Core.settleBand_frame bs c)
  exact congrArg (fun x : Core => { x with bands := c.bands, resv := c.resv }) h
/-- What settling changes: of the bands those that have ended, of the records those that have ended, and nothing else. -/
theorem Core.settle_frame (c : Core) : { c.settle with bands := c.bands, resv := c.resv } = c := Core.foldl_settle_frame _ _ c
theorem Core.band_settle (c : Core) (b : Nat) : (c.BandEnds b → c.settle.band b = {}) ∧ (¬c.BandEnds b → c.settle.band b = c.band b) := by
  have h : c.settle.band b = _ := (foldl_keeps Core.settleRec (fun c => c.band b) (fun c n => c.band_settleRec b n) (List.range 32) _).trans
    (Core.band_foldl_settleBand (List.range 4) c b)
  rw [Core.BandEnds, Core.not_busy_iff, ← List.mem_range]
  exact ⟨fun he => h.trans (if_pos he), fun he => h.trans (if_neg he)⟩
theorem Core.resvAt_settle (c : Core) (n : Nat) :
    (c.RecEnds n → c.settle.resvAt n = {}) ∧ (¬c.RecEnds n → c.settle.resvAt n = c.resvAt n) := by
  have h : c.settle.resvAt n = _ := Core.resvAt_foldl_settleRec (List.range 32) _ n
  have hport : ∀ p, ((List.range 4).foldl Core.settleBand c).port p = c.port p := fun p =>
    foldl_keeps Core.settleBand (fun c => c.port p) (fun c b => c.port_settleBand b p) _ _
  have hrec : ((List.range 4).foldl Core.settleBand c).resvAt n = c.resvAt n :=
    foldl_keeps Core.settleBand (fun c => c.resvAt n) (fun c b => c.resvAt_settleBand b n) _ _
  simp only [hport, hrec] at h
  rw [Core.RecEnds, Core.not_named_iff, ← List.mem_range]
  exact ⟨fun he => h.trans (if_pos he), fun he => h.trans (if_neg he)⟩

/-- Of the bands of `c` only those that `but` names, and the Releasing ones whose queue is empty, may differ in `t`: these are Free. -/
def Core.BandsStay (c t : Core) (but : Nat → Prop) : Prop :=
  ∀ b, ¬but b → (c.BandEnds b → t.band b = {}) ∧ (¬c.BandEnds b → t.band b = c.band b)
/-- See `Core.BandsStay`: the Releasing records that no command names. -/
def Core.RecsStay (c t : Core) (but : Nat → Prop) : Prop :=
  ∀ n, ¬but n → (c.RecEnds n → t.resvAt n = {}) ∧ (¬c.RecEnds n → t.resvAt n = c.resvAt n)

section
variable {c u : Core} (hports : u.ports = c.ports) {but : Nat → Prop}
include hports

theorem Core.bandsStay_settle (h : ∀ b, ¬but b → u.band b = c.band b) : c.BandsStay u.settle but := by
  intro b hb
  have hends : u.BandEnds b ↔ c.BandEnds b := by
    rw [Core.BandEnds, Core.BandEnds, Core.Busy, Core.Busy, Core.port, Core.port, hports, h b hb]
  rw [← hends, ← h b hb]
  exact u.band_settle b
theorem Core.recsStay_settle (h : ∀ n, ¬but n → u.resvAt n = c.resvAt n) : c.RecsStay u.settle but := by
  intro n hn
  have hends : u.RecEnds n ↔ c.RecEnds n := by
    unfold Core.RecEnds Core.Named Core.port
    rw [hports, h n hn]
  rw [← hends, ← h n hn]
  exact u.resvAt_settle n
/-- A Releasing band whose queue is empty is Free. -/
theorem Core.band_settle_releasing {b : Nat} (hb : b < 4) {x : Band} (hx : u.band b = { x with state := .releasing }) :
    (c.Busy b → u.settle.band b = { x with state := .releasing }) ∧ (¬c.Busy b → u.settle.band b = {}) := by
  obtain ⟨hfree, hkept⟩ := u.band_settle b
  have hbusy : u.Busy b ↔ c.Busy b := by rw [Core.Busy, Core.Busy, Core.port, Core.port, hports]
  exact ⟨fun h => (hkept fun he => he.2.2 (hbusy.2 h)).trans hx, fun h => hfree ⟨hb, by rw [hx], mt hbusy.1 h⟩⟩
/-- A Releasing record that no command names is Free. -/
theorem Core.resvAt_settle_releasing {n : Nat} (hn : n < 32) {x : Resv} (hx : u.resvAt n = { x with state := .releasing }) :
    (c.Named n → u.settle.resvAt n = { x with state := .releasing }) ∧ (¬c.Named n → u.settle.resvAt n = {}) := by
  obtain ⟨hfree, hkept⟩ := u.resvAt_settle n
  have hnamed : u.Named n ↔ c.Named n := by unfold Core.Named Core.port; rw [hports]
  exact ⟨fun h => (hkept fun he => he.2.2 (hnamed.2 h)).trans hx, fun h => hfree ⟨hn, by rw [hx], mt hnamed.1 h⟩⟩

end

end Sys2Proof.Machine
end

section
/-! ### BANDACQ and BANDREL (12_matrix.md R214, R216, R217) -/
namespace Sys2Proof.Machine

theorem exec_bandacq (i : BandAcq) (s : State) : exec (.bandacq i) s = execBandacq i s := rfl
theorem exec_bandrel (i : HA) (s : State) : exec (.bandrel i) s = execBandrel i s := rfl

section
variable (s : State) (f : Core → Core) (len : Nat) {P : Core → Prop} (hP : P (f s.myCore))
include hP

/-- The core of the executing warp changes, and the warp retires as `v`. -/
theorem CoreStep.upd {g : Warp → Warp} {v : Warp} {sw : Bool} (hg : g s.w = v.retire len sw) (hpc : v.pc = s.w.pc) :
    CoreStep (.next ((s.updCore f).upd g)) s v len sw P := by
  have hcore := fun k => State.core_setCore s (coreOf s.cur) k (f s.myCore)
  have hw : ((s.updCore f).upd g).w = v.retire len sw := (State.w_upd _ _).trans hg
  refine ⟨_, rfl, fun k hk => State.warp_upd_ne (s.updCore f) _ k hk, ?_, ?_, rfl, fun k hk => (hcore k).trans (if_neg hk), ?_⟩
  · rw [hw, Warp.body_retire]
  · rw [hw, ← hpc]
    exact Warp.at_retire _ _ _
  · rwa [show ((s.updCore f).upd g).core (coreOf s.cur) = f s.myCore from (hcore _).trans (if_pos rfl)]
theorem CoreStep.retire (sw : Bool) : CoreStep (.next ((s.updCore f).retire len sw)) s s.w len sw P := CoreStep.upd s f len hP rfl rfl
/-- The warp retires with a scalar result. -/
theorem CoreStep.putS {h : Hdr} (hm : s.w.parts h ≠ 0) (d : RegNo) (x : DWord) :
    CoreStep (.next ((s.updCore f).upd (fun w => w.putS h d len x))) s (s.w.setS d.toNat x) len h.sw P :=
  CoreStep.upd s f len hP (by rw [Warp.putS, if_pos (by simpa [Warp.any] using hm)]) rfl

end

/-! #### BANDACQ -/

/-- A band that the team may hold is Free. -/
def State.FreeBand (s : State) (b : Nat) : Prop :=
  b < 4 ∧ (s.myCore.active = false ∨ (s.myTeam.tenant = 0 ∧ b < 2) ∨ (s.myTeam.tenant ≠ 0 ∧ 2 ≤ b)) ∧ (s.myCore.band b).state = .free
/-- The Free bands of the team's tenant, ascending. -/
def State.freeBands (s : State) : List Nat := s.myBands.filter (fun b => (s.myCore.band b).state == .free)

theorem State.mem_myBands (s : State) (b : Nat) : b ∈ s.myBands ↔
    b < 4 ∧ (s.myCore.active = false ∨ (s.myTeam.tenant = 0 ∧ b < 2) ∨ (s.myTeam.tenant ≠ 0 ∧ 2 ≤ b)) := by
  unfold State.myBands Core.splitMode State.tenant
  cases hsplit : s.myCore.active
  · simp; omega
  · by_cases ht : s.myTeam.tenant = 0 <;> simp [ht] <;> omega
theorem State.myBands_sorted (s : State) : s.myBands.Pairwise (· < ·) := by
  unfold State.myBands
  repeat' split
  all_goals decide
theorem State.mem_freeBands (s : State) (b : Nat) : b ∈ s.freeBands ↔ s.FreeBand b := by
  simp [State.freeBands, State.FreeBand, State.mem_myBands, and_assoc]
theorem State.freeBands_sorted (s : State) : s.freeBands.Pairwise (· < ·) := s.myBands_sorted.filter _

/-- A beginning of an ascending list holds every element of the list below one of its own. -/
theorem mem_take_of_lt {l : List Nat} (h : l.Pairwise (· < ·)) {n a b : Nat} (hb : b ∈ l.take n) (ha : a ∈ l) (hlt : a < b) :
    a ∈ l.take n := by
  rw [← List.take_append_drop n l] at h ha
  obtain ha | ha := List.mem_append.1 ha
  · exact ha
  · exact absurd ((List.pairwise_append.1 h).2.2 b hb a ha) (by omega)

/-- What BANDACQ of `n` bands takes: the lowest `n`, or none where there are fewer. -/
def State.takenBands (s : State) (n : Nat) : List Nat := if s.freeBands.length < n then [] else s.freeBands.take n

section
variable (s : State) (n : Nat)

theorem State.takenBands_lowest {b : Nat} (hb : b ∈ s.takenBands n) : s.FreeBand b ∧ ∀ a, a < b → s.FreeBand a → a ∈ s.takenBands n := by
  unfold State.takenBands at hb ⊢
  split at hb
  · cases hb
  · next hlen =>
    rw [if_neg hlen]
    exact ⟨(s.mem_freeBands b).1 (List.mem_of_mem_take hb), fun a hlt ha => mem_take_of_lt s.freeBands_sorted hb ((s.mem_freeBands a).2 ha) hlt⟩
theorem State.takenBands_nodup : (s.takenBands n).Nodup := by
  unfold State.takenBands
  split
  · exact List.nodup_nil
  · exact ((s.freeBands_sorted.imp Nat.ne_of_lt).sublist (List.take_sublist _ _))
theorem State.takenBands_length : (s.takenBands n).length = n ∨ s.takenBands n = [] := by
  unfold State.takenBands
  split
  · exact .inr rfl
  · exact .inl (by rw [List.length_take]; omega)
theorem State.length_freeBands_lt (hn : 0 < n) (h : s.takenBands n = []) : s.freeBands.length < n := by
  by_contra hlen
  rw [State.takenBands, if_neg hlen, List.take_eq_nil_iff] at h
  obtain h | h := h
  · omega
  · rw [h] at hlen
    exact hlen hn

/-- One band is not taken only where none is Free. -/
theorem State.not_freeBand (h : s.takenBands 1 = []) (b : Nat) : ¬s.FreeBand b := fun hb => by
  have hlen := s.length_freeBands_lt 1 Nat.one_pos h
  have hpos := List.length_pos_of_mem ((s.mem_freeBands b).2 hb)
  omega
/-- Where none is taken, at most one is Free. -/
theorem State.freeBand_unique {n : Nat} (hn : n = 1 ∨ n = 2) (h : s.takenBands n = []) {a b : Nat} (ha : s.FreeBand a) (hb : s.FreeBand b) :
    a = b := by
  have hlen := s.length_freeBands_lt n (by omega) h
  rw [← s.mem_freeBands] at ha hb
  cases hl : s.freeBands with
  | nil => rw [hl] at ha; cases ha
  | cons x l =>
    rw [hl, List.length_cons] at hlen
    rw [hl, List.length_eq_zero_iff.1 (show l.length = 0 by omega), List.mem_singleton] at ha hb
    rw [ha, hb]

end

theorem natCast_one_shiftLeft (b : Nat) : ((1 <<< b : Nat) : DWord) = (1 : DWord) <<< b := by
  apply BitVec.eq_of_toNat_eq
  simp [Nat.shiftLeft_eq]
/-- Distinct bits put into a mask one after the other are its sum. -/
theorem foldl_or_bits (l : List Nat) (hl : l.Nodup) (m : DWord) (hm : ∀ b ∈ l, m.getLsbD b = false) :
    l.foldl (fun (m : DWord) b => m ||| (1 <<< b : Nat)) m = m + (l.map (fun b => (1 : DWord) <<< b)).sum := by
  induction l generalizing m with
  | nil => simp
  | cons b l ih =>
    obtain ⟨hb, hl⟩ := List.nodup_cons.1 hl
    have hbit : ∀ a, ((1 : DWord) <<< b).getLsbD a = (decide (a < 64) && decide (a = b)) := fun a => by
      simp only [BitVec.getLsbD_shiftLeft]
      by_cases h : a = b
      · simp [h]
      · by_cases hlt : a < b
        · simp [h, hlt]
        · simp [h]; omega
    have hand : m &&& (1 : DWord) <<< b = 0 := by
      apply BitVec.eq_of_getLsbD_eq
      intro a _
      rw [BitVec.getLsbD_and, hbit]
      by_cases h : a = b
      · simp [h, hm b List.mem_cons_self]
      · simp [h]
    rw [List.foldl_cons, natCast_one_shiftLeft, ih hl, List.map_cons, List.sum_cons, ← BitVec.add_assoc,
      BitVec.add_eq_or_of_and_eq_zero _ _ hand]
    intro a ha
    rw [BitVec.getLsbD_or, hm a (List.mem_cons_of_mem _ ha), hbit]
    have : a ≠ b := fun e => hb (e ▸ ha)
    simp [this]

/-- Bands claimed one after the other are the team's, their accumulators +0, and nothing else of the core changes. -/
theorem Core.foldl_claim (l : List Nat) (c : Core) (owner : Nat) (x : CtxId) :
    { l.foldl (fun c b => c.claim owner x b) c with bands := c.bands, acc := c.acc } = c ∧
    (∀ b, (l.foldl (fun c b => c.claim owner x b) c).band b = if b ∈ l then ⟨.held, owner, x⟩ else c.band b) ∧
    ∀ b row col, row < 32 → col < 64 →
      (l.foldl (fun c b => c.claim owner x b) c).accAt b row col = if b ∈ l then 0 else c.accAt b row col := by
  refine ⟨?_, fun b => ?_, fun b row col hrow hcol => ?_⟩
  · have h := foldl_keeps (fun c b => c.claim owner x b) (fun c => { c with bands := [], acc := [] }) (fun _ _ => rfl) l c
    exact congrArg (fun y : Core => { y with bands := c.bands, acc := c.acc }) h
  · exact foldl_parts (fun c b => c.claim owner x b) Core.band (fun _ _ => ⟨.held, owner, x⟩) (fun _ _ => rfl)
      (fun c b => Core.band_setBand c b ⟨.held, owner, x⟩) l c b
  · refine foldl_parts (fun c b => c.claim owner x b) (fun c b => c.accAt b row col) (fun _ _ => 0) (fun _ _ => rfl)
      (fun c b a => ?_) l c b
    rw [Core.accAt, Core.claim, Tab.get_drop]
    exact if_congr (by rw [beq_iff_eq]; omega) rfl rfl

theorem warpStep_bandacq (s : State) (i : BandAcq) (hm : s.w.parts i.h = 0) :
    WarpStep (exec (.bandacq i) s) s s.w (s.w.pc + BitVec.ofNat 64 8) i.h.sw := by
  rw [exec_bandacq, execBandacq, if_pos (by simp [Warp.any, hm])]
  exact warpStep_retire s 8 i.h.sw
theorem coreStep_bandacq (s : State) (i : BandAcq) (hm : s.w.parts i.h ≠ 0) :
    let got := s.takenBands (if i.two = true then 2 else 1)
    CoreStep (exec (.bandacq i) s) s (s.w.setS i.d.toNat ((got.map (fun b => (1 : DWord) <<< b)).sum)) 8 i.h.sw (fun c =>
      { c with bands := s.myCore.bands, acc := s.myCore.acc } = s.myCore ∧
      (∀ b, c.band b = if b ∈ got then ⟨.held, slotOf s.w.team, s.w.ctx⟩ else s.myCore.band b) ∧
      ∀ b row col, row < 32 → col < 64 → c.accAt b row col = if b ∈ got then 0 else s.myCore.accAt b row col) := by
  intro got
  have hmask := foldl_or_bits got (s.takenBands_nodup _) 0 (by simp)
  rw [show (0 : DWord) + _ = _ from BitVec.zero_add _] at hmask
  rw [exec_bandacq, execBandacq, if_neg (by simpa [Warp.any] using hm), ← hmask]
  exact CoreStep.putS s _ 8 (Core.foldl_claim got s.myCore (slotOf s.w.team) s.w.ctx) hm i.d _

/-! #### BANDREL -/

/-- A band becomes Releasing. -/
def Core.releaseBand (c : Core) (b : Nat) : Core := c.setBand b { c.band b with state := .releasing }
/-- Two changes of bands and records alone are one. -/
theorem Core.frame_trans {c u v : Core} (h : { u with bands := c.bands, resv := c.resv } = c)
    (h' : { v with bands := u.bands, resv := u.resv } = u) : { v with bands := c.bands, resv := c.resv } = c :=
  Eq.trans (congrArg (fun y : Core => { y with bands := c.bands, resv := c.resv }) h') h
theorem Core.releaseBands_eq (c : Core) (bs : List Nat) :
    bs.foldl Core.releaseBand c = { c with bands := (bs.foldl Core.releaseBand c).bands } := by
  have h := foldl_keeps Core.releaseBand (fun c => { c with bands := [] }) (fun _ _ => rfl) bs c
  exact congrArg (fun y : Core => { y with bands := (bs.foldl Core.releaseBand c).bands }) h
theorem Core.band_releaseBands (c : Core) (bs : List Nat) (b : Nat) :
    (bs.foldl Core.releaseBand c).band b = if b ∈ bs then { c.band b with state := .releasing } else c.band b :=
  foldl_parts Core.releaseBand Core.band (fun _ x => { x with state := .releasing }) (fun _ _ => rfl)
    (fun c b => Core.band_setBand c b { c.band b with state := .releasing }) bs c b

section
variable (s : State) (i : HA)

/-- The bands that BANDREL names. -/
def State.namedBands : List Nat := [0, 1, 2, 3].filter (fun b => (s.w.s i.a.toNat).getLsbD b)
/-- The team holds every band that the source names, and it names no other (R217). -/
def State.MayRelease : Prop := (s.w.s i.a.toNat).extractLsb' 4 60 = 0 ∧ ∀ b, b < 4 → (s.w.s i.a.toNat).getLsbD b = true →
  (s.myCore.band b).state = .held ∧ (s.myCore.band b).owner = slotOf s.w.team

theorem State.mem_namedBands (b : Nat) : b ∈ s.namedBands i ↔ b < 4 ∧ (s.w.s i.a.toNat).getLsbD b = true := by
  rw [State.namedBands, List.mem_filter]
  refine and_congr_left fun _ => ?_
  simp; omega
theorem State.mayRelease_iff : s.MayRelease i ↔ ¬((s.w.s i.a.toNat).extractLsb' 4 60 ≠ 0 ∨
    (s.namedBands i).any (fun b => !s.holdsBand b) = true) := by
  rw [not_or, not_not, State.MayRelease]
  refine and_congr_right fun _ => ?_
  simp only [Bool.not_eq_true, List.any_eq_false, State.mem_namedBands, Bool.not_eq_eq_eq_not, Bool.not_true, Bool.not_eq_false,
    State.holdsBand_iff, and_imp]

theorem warpStep_bandrel (hm : s.w.parts i.h = 0) : WarpStep (exec (.bandrel i) s) s s.w (s.w.pc + BitVec.ofNat 64 8) i.h.sw := by
  rw [exec_bandrel, execBandrel]
  exact if_pos hm ▸ warpStep_retire s 8 i.h.sw

variable (hm : s.w.parts i.h ≠ 0)
include hm

theorem trapsWith_bandrel (h : ¬s.MayRelease i) : TrapsWith (exec (.bandrel i) s) s 0x1C0 (s.w.parts i.h) := by
  rw [exec_bandrel, execBandrel]
  refine ⟨s.noAddr, (if_neg hm).trans (if_pos ?_)⟩
  exact not_not.1 (mt (s.mayRelease_iff i).2 h)
theorem exec_bandrel_held (h : s.MayRelease i) (hr : s.remoteHolds none = true) : exec (.bandrel i) s = .next s.hold :=
  (if_neg hm).trans ((if_neg ((s.mayRelease_iff i).1 h)).trans (if_pos hr))

/-- Each band named becomes Releasing, and the core is settled. -/
theorem coreStep_bandrel (h : s.MayRelease i) (hr : s.remoteHolds none = false) :
    CoreStep (exec (.bandrel i) s) s s.w 8 i.h.sw (fun c =>
      { c with bands := s.myCore.bands, resv := s.myCore.resv } = s.myCore ∧
      (∀ b, b < 4 → (s.w.s i.a.toNat).getLsbD b = true →
        (s.myCore.Busy b → c.band b = { s.myCore.band b with state := .releasing }) ∧ (¬s.myCore.Busy b → c.band b = {})) ∧
      s.myCore.BandsStay c (fun b => b < 4 ∧ (s.w.s i.a.toNat).getLsbD b = true) ∧ s.myCore.RecsStay c (fun _ => False)) := by
  have hexec : exec (.bandrel i) s =
      .next ((s.updCore (fun c => ((s.namedBands i).foldl Core.releaseBand c).settle)).retire 8 i.h.sw) :=
    (if_neg hm).trans ((if_neg ((s.mayRelease_iff i).1 h)).trans (if_neg (by simp [hr])))
  have hband := s.myCore.band_releaseBands (s.namedBands i)
  have hu := s.myCore.releaseBands_eq (s.namedBands i)
  rw [hexec]
  refine CoreStep.retire s _ 8 ?_ i.h.sw
  generalize (s.namedBands i).foldl Core.releaseBand s.myCore = u at hu hband
  have hports : u.ports = s.myCore.ports := by rw [hu]
  refine ⟨Core.frame_trans (by rw [hu]) u.settle_frame, fun b hb hv => ?_, ?_, ?_⟩
  · exact Core.band_settle_releasing hports hb ((hband b).trans (if_pos ((s.mem_namedBands i b).2 ⟨hb, hv⟩)))
  · exact Core.bandsStay_settle hports fun b hb => (hband b).trans (if_neg (mt (s.mem_namedBands i b).1 hb))
  · exact Core.recsStay_settle hports fun n _ => by rw [hu]; rfl

end

end Sys2Proof.Machine
end

section
/-! ### OBRES and OBREL (12_matrix.md R218 to R222) -/
namespace Sys2Proof.Machine

theorem exec_obres (i : ObRes) (s : State) : exec (.obres i) s = execObres i s := rfl
theorem exec_obrel (i : HA) (s : State) : exec (.obrel i) s = execObrel i s := rfl

/-! #### The checks of a template (R221) -/

theorem field_eq (x : DWord) (lo n : Nat) : field x lo n = (x.extractLsb' lo n).toNat := (BitVec.extractLsb'_toNat ..).symm

section
variable {x : DWord} {fmt : Word} {size soff : Nat}

/-- Reserved bits, a kind, or a size that no template has. -/
def BadTemplate (x : DWord) (size : Nat) : Prop := x.extractLsb' 38 26 ≠ 0 ∨ 3 ≤ (x.extractLsb' 32 3).toNat ∨ ¬(1 ≤ size ∧ size ≤ 512)
/-- A block length or a place of the scales that the kind does not have. -/
def BadScales (x : DWord) (fmt : Word) (size soff : Nat) : Prop :=
  if (x.extractLsb' 32 3).toNat = 0 then 5 ≤ (x.extractLsb' 35 3).toNat ∨ soff = 0 ∨ size ≤ soff
  else fmt ≠ 0 ∨ (x.extractLsb' 35 3).toNat ≠ 0 ∨ soff ≠ 0

theorem badTemplate_iff : BadTemplate x size ↔ field x 38 26 ≠ 0 ∨ 3 ≤ field x 32 3 ∨ size = 0 ∨ 512 < size := by
  have h0 : x.extractLsb' 38 26 ≠ 0 ↔ (x.extractLsb' 38 26).toNat ≠ 0 := not_congr BitVec.toNat_inj.symm
  rw [BadTemplate, h0, field_eq, field_eq]
  omega
theorem obresCause_template (h : BadTemplate x size) : obresCause fmt x size soff = some 0x1C5 := if_pos (badTemplate_iff.1 h)
variable (h : ¬BadTemplate x size)
include h
theorem obresCause_format (hk : (x.extractLsb' 32 3).toNat = 0) (hf : narrowFmt fmt = none) : obresCause fmt x size soff = some 0x086 :=
  (if_neg (mt badTemplate_iff.2 h)).trans ((if_pos (by rw [field_eq]; exact hk)).trans (if_pos hf))
variable (hf : ¬((x.extractLsb' 32 3).toNat = 0 ∧ narrowFmt fmt = none))
include hf
theorem obresCause_scales (hs : BadScales x fmt size soff) : obresCause fmt x size soff = some 0x1C5 := by
  refine (if_neg (mt badTemplate_iff.2 h)).trans ?_
  simp only [field_eq]
  by_cases hk : (x.extractLsb' 32 3).toNat = 0
  · rw [BadScales, if_pos hk] at hs
    rw [if_pos hk, if_neg fun e => hf ⟨hk, e⟩, if_pos hs]
  · rw [BadScales, if_neg hk] at hs
    rw [if_neg hk, if_pos hs]
theorem obresCause_none (hs : ¬BadScales x fmt size soff) : obresCause fmt x size soff = none := by
  refine (if_neg (mt badTemplate_iff.2 h)).trans ?_
  simp only [field_eq]
  by_cases hk : (x.extractLsb' 32 3).toNat = 0
  · rw [BadScales, if_pos hk] at hs
    rw [if_pos hk, if_neg fun e => hf ⟨hk, e⟩, if_neg hs]
  · rw [BadScales, if_neg hk] at hs
    rw [if_neg hk, if_neg hs]

end

/-! #### Free records and units -/

/-- First and past last of `2 * half` numbers of which a tenant of a core in split mode has one half (R218). -/
def State.firstOwn (s : State) (half : Nat) : Nat := if s.myCore.active = true ∧ s.myTeam.tenant ≠ 0 then half else 0
/-- See `State.firstOwn`. -/
def State.pastOwn (s : State) (half : Nat) : Nat := if s.myCore.active = true ∧ s.myTeam.tenant = 0 then half else 2 * half
theorem State.recRange_eq (s : State) : s.recRange = ((s.firstOwn 16, s.pastOwn 16), (s.firstOwn 256, s.pastOwn 256)) := by
  unfold State.recRange State.firstOwn State.pastOwn Core.splitMode State.tenant
  cases s.myCore.active
  · rfl
  · by_cases h : s.myTeam.tenant = 0 <;> simp [h]

/-- Record `n` is one of the tenant's and Free. -/
def State.FreeRec (s : State) (n : Nat) : Prop := s.firstOwn 16 ≤ n ∧ n < s.pastOwn 16 ∧ (s.myCore.resvAt n).state = .free
/-- Units `u` to `u + size - 1` are the tenant's and belong to no record. -/
def State.FreeRun (s : State) (size u : Nat) : Prop := s.firstOwn 256 ≤ u ∧ u + size ≤ s.pastOwn 256 ∧
  ∀ n, n < 32 → (s.myCore.resvAt n).state = .free ∨
    (s.myCore.resvAt n).base + (s.myCore.resvAt n).size ≤ u ∨ u + size ≤ (s.myCore.resvAt n).base

theorem Core.unitsFree_iff (c : Core) (u n : Nat) : c.unitsFree u n = true ↔
    ∀ k, k < 32 → (c.resvAt k).state = .free ∨ (c.resvAt k).base + (c.resvAt k).size ≤ u ∨ u + n ≤ (c.resvAt k).base := by
  simp [Core.unitsFree, or_assoc]
theorem State.pastOwn_le (s : State) (half : Nat) : s.pastOwn half ≤ 2 * half := by
  unfold State.pastOwn
  split <;> omega

/-- The lowest Free record (R221). -/
def State.lowestRec (s : State) : Option Nat := (List.range 32).find? (fun k =>
  decide (s.recRange.1.1 ≤ k) && decide (k < s.recRange.1.2) && (s.myCore.resvAt k).state == .free)
/-- The lowest free run of units (R221). -/
def State.lowestRun (s : State) (size : Nat) : Option Nat := (List.range 512).find? (fun u =>
  decide (s.recRange.2.1 ≤ u) && decide (u + size ≤ s.recRange.2.2) && s.myCore.unitsFree u size)

theorem State.freeRec_iff (s : State) (n : Nat) : s.FreeRec n ↔
    (decide (s.recRange.1.1 ≤ n) && decide (n < s.recRange.1.2) && (s.myCore.resvAt n).state == .free) = true := by
  simp [s.recRange_eq, State.FreeRec, and_assoc]
theorem State.freeRun_iff (s : State) (size u : Nat) : s.FreeRun size u ↔
    (decide (s.recRange.2.1 ≤ u) && decide (u + size ≤ s.recRange.2.2) && s.myCore.unitsFree u size) = true := by
  simp [s.recRange_eq, State.FreeRun, Core.unitsFree_iff, and_assoc]

/-- A search for the lowest number below `m` with a property that numbers from `m` on do not have. -/
theorem find?_range_lowest {P : Nat → Prop} {p : Nat → Bool} (hp : ∀ n, P n ↔ p n = true) {m : Nat} (hm : ∀ n, P n → n < m) :
    (∀ n, P n → (∀ k, k < n → ¬P k) → (List.range m).find? p = some n) ∧ ((¬∃ n, P n) → (List.range m).find? p = none) := by
  refine ⟨fun n hn hlow => ?_, fun hnone => ?_⟩
  · rw [List.find?_range_eq_some]
    exact ⟨(hp n).1 hn, List.mem_range.2 (hm n hn), fun k hk => by simpa [hp] using hlow k hk⟩
  · rw [List.find?_eq_none]
    exact fun n _ hn => hnone ⟨n, (hp n).2 hn⟩
theorem State.lowestRec_eq (s : State) : (∀ n, s.FreeRec n → (∀ k, k < n → ¬s.FreeRec k) → s.lowestRec = some n) ∧
    ((¬∃ n, s.FreeRec n) → s.lowestRec = none) :=
  find?_range_lowest s.freeRec_iff fun n ⟨_, hn, _⟩ => by have := s.pastOwn_le 16; omega
theorem State.lowestRun_eq (s : State) {size : Nat} (hsize : 1 ≤ size) :
    (∀ u, s.FreeRun size u → (∀ k, k < u → ¬s.FreeRun size k) → s.lowestRun size = some u) ∧
    ((¬∃ u, s.FreeRun size u) → s.lowestRun size = none) :=
  find?_range_lowest (s.freeRun_iff size) fun n ⟨_, hn, _⟩ => by have := s.pastOwn_le 256; omega

/-! #### OBRES -/

section
variable (s : State) (i : ObRes)

theorem warpStep_obres (hm : s.w.parts i.h = 0) : WarpStep (exec (.obres i) s) s s.w (s.w.pc + BitVec.ofNat 64 12) i.h.sw := by
  rw [exec_obres, execObres]
  exact if_pos hm ▸ warpStep_retire s 12 i.h.sw

variable (hm : s.w.parts i.h ≠ 0)
include hm

theorem trapsWith_obres {c : Cause} (h : obresCause (loWord (s.w.s i.a.toNat)) (s.w.s i.a.toNat) i.size.toNat i.soff.toNat = some c) :
    TrapsWith (exec (.obres i) s) s c (s.w.parts i.h) := by
  simp only [exec_obres, execObres]
  rw [if_neg hm, h]
  exact trapsWith_precise _ _ _ _

variable (h : obresCause (loWord (s.w.s i.a.toNat)) (s.w.s i.a.toNat) i.size.toNat i.soff.toNat = none)
include h

theorem scalarResult_obres (hn : s.lowestRec = none ∨ s.lowestRun i.size.toNat = none) :
    ScalarResult (exec (.obres i) s) s i.h i.d 12 (fun r => r = 0xFFFFFFFFFFFFFFFF) := by
  have hexec : exec (.obres i) s = .next (s.upd (fun w => w.putS i.h i.d 12 0xFFFFFFFFFFFFFFFF)) := by
    simp only [exec_obres, execObres]
    rw [if_neg hm, h]
    dsimp only
    rw [← State.lowestRec, ← State.lowestRun]
    obtain hn | hn := hn
    · rw [hn]
    · rw [hn]
      cases s.lowestRec <;> rfl
  rw [hexec]
  exact scalarResult_putS s i.h i.d 12 (fun _ => 0xFFFFFFFFFFFFFFFF) _ fun _ => rfl

/-- The record that OBRES makes (R218, R221). -/
def State.newRec (s : State) (i : ObRes) (u : Nat) : Resv :=
  { state := .held, fmt := (s.w.s i.a.toNat).setWidth 32, kind := (s.w.s i.a.toNat).extractLsb' 32 3, blk := (s.w.s i.a.toNat).extractLsb' 35 3,
    soff := i.soff.toNat, size := i.size.toNat, base := u, owner := slotOf s.w.team, ctx := s.w.ctx }
theorem coreStep_obres {n u : Nat} (hn : s.lowestRec = some n) (hu : s.lowestRun i.size.toNat = some u) :
    CoreStep (exec (.obres i) s) s (s.w.setS i.d.toNat (BitVec.ofNat 64 n)) 12 i.h.sw (fun c =>
      { c with resv := s.myCore.resv, ob := s.myCore.ob } = s.myCore ∧
      (∀ m, c.resvAt m = if m = n then s.newRec i u else s.myCore.resvAt m) ∧
      ∀ a, Tab.get 0 c.ob a = if u * 128 ≤ a ∧ a < (u + i.size.toNat) * 128 then 0 else Tab.get 0 s.myCore.ob a) := by
  have hexec : exec (.obres i) s = .next ((s.updCore (fun c => { c.setResv n (s.newRec i u) with
      ob := Tab.drop (fun a => decide (u * 128 ≤ a) && decide (a < (u + i.size.toNat) * 128)) c.ob })).upd
        (fun w => w.putS i.h i.d 12 (BitVec.ofNat 64 n))) := by
    simp only [exec_obres, execObres]
    rw [if_neg hm, h]
    dsimp only
    rw [← State.lowestRec, ← State.lowestRun, hn, hu]
    rfl
  rw [hexec]
  refine CoreStep.putS s _ 12 ⟨rfl, Core.resvAt_setResv s.myCore n (s.newRec i u), fun a => ?_⟩ hm i.d _
  rw [Tab.get_drop]
  exact if_congr (by simp) rfl rfl

end

/-! #### OBREL -/

section
variable (s : State) (i : HA)

theorem Core.setResv_eq (c : Core) (n : Nat) (x : Resv) : c.setResv n x = { c with resv := (c.setResv n x).resv } := rfl
/-- The record is Reserved by the warp's team (R222). -/
def State.OwnRec (n : Nat) : Prop := n < 32 ∧ (s.myCore.resvAt n).state = .held ∧ (s.myCore.resvAt n).owner = slotOf s.w.team

theorem warpStep_obrel (hm : s.w.parts i.h = 0) : WarpStep (exec (.obrel i) s) s s.w (s.w.pc + BitVec.ofNat 64 8) i.h.sw := by
  rw [exec_obrel, execObrel]
  exact if_pos hm ▸ warpStep_retire s 8 i.h.sw

variable (hm : s.w.parts i.h ≠ 0)
include hm

theorem trapsWith_obrel (h : ¬s.OwnRec (s.w.s i.a.toNat).toNat) : TrapsWith (exec (.obrel i) s) s 0x1C1 (s.w.parts i.h) :=
  ⟨s.noAddr, (if_neg hm).trans (if_pos (by simpa using mt (s.holdsRec_iff _).1 h))⟩
theorem coreStep_obrel (h : s.OwnRec (s.w.s i.a.toNat).toNat) : CoreStep (exec (.obrel i) s) s s.w 8 i.h.sw (fun c =>
    { c with bands := s.myCore.bands, resv := s.myCore.resv } = s.myCore ∧
    (s.myCore.Named (s.w.s i.a.toNat).toNat →
      c.resvAt (s.w.s i.a.toNat).toNat = { s.myCore.resvAt (s.w.s i.a.toNat).toNat with state := .releasing }) ∧
    (¬s.myCore.Named (s.w.s i.a.toNat).toNat → c.resvAt (s.w.s i.a.toNat).toNat = {}) ∧
    s.myCore.RecsStay c (fun m => m = (s.w.s i.a.toNat).toNat) ∧ s.myCore.BandsStay c (fun _ => False)) := by
  generalize hk : (s.w.s i.a.toNat).toNat = n at h ⊢
  have hexec : exec (.obrel i) s =
      .next ((s.updCore (fun c => (c.setResv n { c.resvAt n with state := .releasing }).settle)).retire 8 i.h.sw) := by
    rw [← hk]
    exact (if_neg hm).trans (if_neg (by simpa using (s.holdsRec_iff _).2 (hk ▸ h)))
  have hrec := s.myCore.resvAt_setResv n { s.myCore.resvAt n with state := .releasing }
  have hu := s.myCore.setResv_eq n { s.myCore.resvAt n with state := .releasing }
  rw [hexec]
  refine CoreStep.retire s _ 8 ?_ i.h.sw
  generalize s.myCore.setResv n { s.myCore.resvAt n with state := .releasing } = u at hu hrec
  have hports : u.ports = s.myCore.ports := by rw [hu]
  obtain ⟨hnamed, hfree⟩ := Core.resvAt_settle_releasing hports h.1 ((hrec n).trans (if_pos rfl))
  exact ⟨Core.frame_trans (by rw [hu]) u.settle_frame, hnamed, hfree,
    Core.recsStay_settle hports fun m hne => (hrec m).trans (if_neg hne), Core.bandsStay_settle hports fun _ _ => by rw [hu]; rfl⟩

end

end Sys2Proof.Machine
end

section
/-! ### OBLD (12_matrix.md R223, R224) -/
namespace Sys2Proof.Machine

theorem exec_obld (i : HABI) (s : State) : exec (.obld i) s = execObld i s := rfl

/-- The bytes of a word, least significant first. -/
theorem bytesLE_word (x : Word) : bytesLE 4 x.toNat = (List.range 4).map (byteOf x) := by
  apply List.ext_getElem?
  intro k
  by_cases hk : k < 4
  · rw [getElem?_bytesLE_word 4 x k hk]
    simp [hk]
  · rw [List.getElem?_eq_none (by simpa using hk), List.getElem?_eq_none (by simpa using hk)]
/-- Words stored at `p` of each lane are runs of their bytes. -/
theorem Core.foldl_storeWords (c : Core) (ls : List Nat) (p : Nat → Nat) (v : Nat → Word) :
    ls.foldl (fun c n => { c with ob := Tab.setRun 0 c.ob (p n) (bytesLE 4 (v n).toNat) }) c =
      { c with ob := Tab.setRuns 0 c.ob ls p 4 (fun l k => byteOf (v l) k) } := by
  induction ls generalizing c with
  | nil => rfl
  | cons l ls ih =>
    rw [List.foldl_cons, ih, bytesLE_word]
    rfl

/-- An operand's ranges cover some byte of `lo` up to `hi` of record `n` (R224). -/
theorem Core.operandTouches_iff (c : Core) (m : MatSpec) (o : DWord) (v k n lo hi : Nat) : c.operandTouches m o v k n lo hi = true ↔
    m.src = .ob ∧ m.recNo.toNat = n ∧ o.toNat < hi ∧ lo < o.toNat + (c.resvAt n).reach v k := by
  unfold Core.operandTouches
  cases m.src <;> simp [and_assoc]

/-- An operand takes some byte of the word at `a` of record `n`. -/
def Core.Takes (c : Core) (n : Nat) (m : MatSpec) (o : DWord) (v k a : Nat) : Prop :=
  m.src = .ob ∧ m.recNo.toNat = n ∧ o.toNat < a + 4 ∧ a < o.toNat + (c.resvAt n).reach v k
/-- An unfinished MMA of the warp takes a byte of the words of the participating lanes at `off` of record `n`. -/
def State.MmaTakes (s : State) (m : Mask) (n off : Nat) : Prop := ∃ p y l half z n64 kc oa ob a b, p < 4 ∧
  y ∈ (s.myCore.port p).exec.toList ++ (s.myCore.port p).queue ∧ y.slot = slotOf s.cur ∧ y.gone = false ∧ y.id ∈ s.myBandIds ∧
  y.body = .mma half z n64 kc oa ob a b ∧ l < 32 ∧ m.getLsbD l = true ∧
  (s.myCore.Takes n a oa 32 (2 * (kc.toNat + 1)) (off + 4 * l) ∨
    s.myCore.Takes n b ob (if n64 = true then 64 else 32) (2 * (kc.toNat + 1)) (off + 4 * l))

theorem State.mmaReads_iff (s : State) (n lo hi : Nat) : s.mmaReads n lo hi = true ↔ ∃ p y half z n64 kc oa ob a b, p < 4 ∧
    y ∈ (s.myCore.port p).all ∧ y.slot = slotOf s.cur ∧ y.gone = false ∧ y.id ∈ s.myBandIds ∧ y.body = .mma half z n64 kc oa ob a b ∧
    (s.myCore.operandTouches a oa 32 (2 * (kc.toNat + 1)) n lo hi = true ∨
      s.myCore.operandTouches b ob (if n64 = true then 64 else 32) (2 * (kc.toNat + 1)) n lo hi = true) := by
  simp only [State.mmaReads, List.any_eq_true, List.mem_range, Bool.and_eq_true, beq_iff_eq, Bool.not_eq_true', List.contains_iff_mem]
  constructor
  · rintro ⟨p, hp, y, hy, ⟨⟨hslot, hgone⟩, hid⟩, hbody⟩
    cases hb : y.body with
    | mma half z n64 kc oa ob a b =>
      rw [hb] at hbody
      exact ⟨p, y, half, z, n64, kc, oa, ob, a, b, hp, hy, hslot, hgone, hid, hb, by simpa using hbody⟩
    | accz _ | accrd _ _ _ | accwr _ _ _ | colrd _ | copy _ =>
      rw [hb] at hbody
      cases hbody
  · rintro ⟨p, y, half, z, n64, kc, oa, ob, a, b, hp, hy, hslot, hgone, hid, hb, htouch⟩
    refine ⟨p, hp, y, hy, ⟨⟨hslot, hgone⟩, hid⟩, ?_⟩
    rw [hb]
    simpa using htouch
theorem State.any_mmaReads_iff (s : State) (m : Mask) (n off : Nat) :
    (lanesOf m).any (fun l => s.mmaReads n (off + 4 * l) (off + 4 * l + 4)) = true ↔ s.MmaTakes m n off := by
  simp only [List.any_eq_true, mem_lanesOf, State.mmaReads_iff, Core.operandTouches_iff]
  constructor
  · rintro ⟨l, ⟨hl, hm⟩, p, y, half, z, n64, kc, oa, ob, a, b, hp, hy, hslot, hgone, hid, hb, htakes⟩
    exact ⟨p, y, l, half, z, n64, kc, oa, ob, a, b, hp, hy, hslot, hgone, hid, hb, hl, hm, htakes⟩
  · rintro ⟨p, y, l, half, z, n64, kc, oa, ob, a, b, hp, hy, hslot, hgone, hid, hb, hl, hm, htakes⟩
    exact ⟨l, ⟨hl, hm⟩, p, y, half, z, n64, kc, oa, ob, a, b, hp, hy, hslot, hgone, hid, hb, htakes⟩

section
variable (s : State) (i : HABI)

/-- OBLD waits for the band commands that stand before a FENCE, and for the MMAs that take its bytes. -/
def State.ObldWaits (n : Nat) : Prop := s.bandsOpen s.w.fence.bands = true ∨ s.MmaTakes (s.w.parts i.h) n i.imm.toNat
theorem State.obldWaits_iff (n : Nat) : s.ObldWaits i n ↔ (s.bandsOpen s.w.fence.bands || (lanesOf (s.w.parts i.h)).any
    (fun l => s.mmaReads n (i.imm.toNat + 4 * l) (i.imm.toNat + 4 * l + 4))) = true := by
  rw [Bool.or_eq_true, State.any_mmaReads_iff, State.ObldWaits]

theorem warpStep_obld (hm : s.w.parts i.h = 0) : WarpStep (exec (.obld i) s) s s.w (s.w.pc + BitVec.ofNat 64 12) i.h.sw := by
  rw [exec_obld, execObld]
  exact if_pos hm ▸ warpStep_retire s 12 i.h.sw

variable (hm : s.w.parts i.h ≠ 0)
include hm

theorem trapsWith_obld_record (h : ¬s.OwnRec (s.w.s i.b.toNat).toNat) : TrapsWith (exec (.obld i) s) s 0x1C1 (s.w.parts i.h) :=
  ⟨s.noAddr, (if_neg hm).trans (if_pos (by simpa using mt (s.holdsRec_iff _).1 h))⟩

variable (h : s.OwnRec (s.w.s i.b.toNat).toNat)
include h

/-- What is left of OBLD for a record of the team. -/
theorem exec_obld_own : exec (.obld i) s =
    if i.imm.toNat % 4 ≠ 0 ∨ (s.myCore.resvAt (s.w.s i.b.toNat).toNat).size * 128 < i.imm.toNat + 128 then
      .next (s.precise 0x1C2 (s.w.parts i.h) s.noAddr)
    else if (s.bandsOpen s.w.fence.bands || (lanesOf (s.w.parts i.h)).any
      (fun l => s.mmaReads (s.w.s i.b.toNat).toNat (i.imm.toNat + 4 * l) (i.imm.toNat + 4 * l + 4))) = true then .next s.hold
    else .next ((s.updCore (fun c => (lanesOf (s.w.parts i.h)).foldl (fun c n => { c with
      ob := Tab.setRun 0 c.ob ((s.myCore.resvAt (s.w.s i.b.toNat).toNat).base * 128 + i.imm.toNat + 4 * n)
        (bytesLE 4 (s.w.v i.a.toNat n).toNat) }) c)).retire 12 i.h.sw) :=
  (if_neg hm).trans (if_neg (by simpa using (s.holdsRec_iff _).2 h))
theorem trapsWith_obld_offset
    (ho : ¬(i.imm.toNat % 4 = 0 ∧ i.imm.toNat + 128 ≤ (s.myCore.resvAt (s.w.s i.b.toNat).toNat).size * 128)) :
    TrapsWith (exec (.obld i) s) s 0x1C2 (s.w.parts i.h) :=
  ⟨s.noAddr, (exec_obld_own s i hm h).trans (if_pos (by omega))⟩

variable (ho : i.imm.toNat % 4 = 0 ∧ i.imm.toNat + 128 ≤ (s.myCore.resvAt (s.w.s i.b.toNat).toNat).size * 128)
include ho

theorem exec_obld_held (hw : s.ObldWaits i (s.w.s i.b.toNat).toNat) : exec (.obld i) s = .next s.hold :=
  (exec_obld_own s i hm h).trans ((if_neg (by omega)).trans (if_pos ((s.obldWaits_iff i _).1 hw)))
theorem coreStep_obld (hw : ¬s.ObldWaits i (s.w.s i.b.toNat).toNat) :
    let first := (s.myCore.resvAt (s.w.s i.b.toNat).toNat).base * 128 + i.imm.toNat
    CoreStep (exec (.obld i) s) s s.w 12 i.h.sw (fun c =>
      { c with ob := s.myCore.ob } = s.myCore ∧
      (∀ l k, l < 32 → k < 4 → Tab.get 0 c.ob (first + 4 * l + k) =
        if (s.w.parts i.h).getLsbD l = true then byteOf (s.w.v i.a.toNat l) k else Tab.get 0 s.myCore.ob (first + 4 * l + k)) ∧
      ∀ a, a < first ∨ first + 128 ≤ a → Tab.get 0 c.ob a = Tab.get 0 s.myCore.ob a) := by
  intro first
  rw [exec_obld_own s i hm h, if_neg (by omega), if_neg (mt (s.obldWaits_iff i _).2 hw)]
  refine CoreStep.retire s _ 12 ?_ i.h.sw
  rw [Core.foldl_storeWords s.myCore _ (fun n => first + 4 * n)]
  refine ⟨rfl, fun l k hl hk => ?_, fun a ha => ?_⟩
  · split
    · next hlane =>
      exact Tab.get_setRuns_in (p := fun n => first + 4 * n) 0 _ _ ((mem_lanesOf _ l).2 ⟨hl, hlane⟩) hk fun q _ hne => by omega
    · next hlane =>
      refine Tab.get_setRuns_out (p := fun n => first + 4 * n) 0 _ _ fun q hq => ?_
      have hne : q ≠ l := fun e => hlane (e ▸ ((mem_lanesOf _ q).1 hq).2)
      omega
  · refine Tab.get_setRuns_out (p := fun n => first + 4 * n) 0 _ _ fun q hq => ?_
    have := ((mem_lanesOf _ q).1 hq).1
    omega

end

end Sys2Proof.Machine
end

section
open Sys2Proof Sys2Proof.Machine
/-- Settles O36: each of the five traps, waits or changes the warp's core by its lemma above; a release settles the core (`Core.settle_frame`,
`Core.bandsStay_settle`, `Core.recsStay_settle`). -/
theorem bandsAndReservationsAreClaimedAndReleased : Obligations.BandsAndReservationsAreClaimedAndReleased := by
  unfold Obligations.BandsAndReservationsAreClaimedAndReleased
  intro s core me none_ busy named bandsStay recsStay
  refine ⟨fun i => ⟨warpStep_bandacq s i, fun hm => ?_⟩, fun i => ⟨warpStep_bandrel s i, fun hm =>
      ⟨trapsWith_bandrel s i hm, exec_bandrel_held s i hm, coreStep_bandrel s i hm⟩⟩,
    fun i => ⟨warpStep_obres s i, fun hm => ?_⟩, fun i => ⟨warpStep_obrel s i, fun hm =>
      ⟨trapsWith_obrel s i hm, coreStep_obrel s i hm⟩⟩,
    fun i => ⟨warpStep_obld s i, fun hm => ⟨trapsWith_obld_record s i hm, trapsWith_obld_offset s i hm, exec_obld_held s i hm,
      coreStep_obld s i hm⟩⟩⟩
  · intro may free n
    refine ⟨s.takenBands n, fun b hb => s.takenBands_lowest n hb, s.takenBands_nodup n, s.takenBands_length n, fun hnil => ?_,
      fun hnil a b ha hb => s.freeBand_unique (by simp only [n]; split <;> simp) hnil ha hb, coreStep_bandacq s i hm⟩
    by_cases htwo : i.two = true
    · exact .inl (if_pos htwo)
    · exact .inr (s.not_freeBand ((congrArg s.takenBands (if_neg htwo)).symm.trans hnil))
  · intro x fmt kind blk size soff bad bad2 lo hi freeRec freeRun fits
    have hsize : ¬bad → 1 ≤ size := fun hb => by
      by_contra hlt
      exact hb (.inr (.inr fun h => hlt h.1))
    exact ⟨fun hb => trapsWith_obres s i hm (obresCause_template hb), fun hb hk hf => trapsWith_obres s i hm (obresCause_format hb hk hf),
      fun hb hf hs => trapsWith_obres s i hm (obresCause_scales hb hf hs),
      fun ⟨hb, hf, hs⟩ hnone => scalarResult_obres s i hm (obresCause_none hb hf hs)
        (hnone.imp s.lowestRec_eq.2 (s.lowestRun_eq (hsize hb)).2),
      fun ⟨hb, hf, hs⟩ n u hn hnlow hu hulow => coreStep_obres s i hm (obresCause_none hb hf hs) (s.lowestRec_eq.1 n hn hnlow)
        ((s.lowestRun_eq (hsize hb)).1 u hu hulow)⟩
end

section
/-! ### How a command leaves its port (13_queue.md R246, R248, 11_barrier.md R205) -/
namespace Sys2Proof.Machine

theorem Core.port_setPort (c : Core) (p : Nat) (x : Port) (q : Nat) : (c.setPort p x).port q = if q = p then x else c.port q :=
  Tab.get_set _ _ _ _ _
theorem State.core_setPort (s : State) (k p : Nat) (x : Port) (j : Nat) :
    (s.setPort k p x).core j = if j = k then (s.core k).setPort p x else s.core j := State.core_setCore _ _ _ _
theorem State.port_setPort (s : State) (k p : Nat) (x : Port) (q : Nat) :
    (s.setPort k p x).port k q = if q = p then x else s.port k q := by
  rw [State.port, State.core_setPort, if_pos rfl, Core.port_setPort]; rfl
theorem Core.port_settle (c : Core) (p : Nat) : c.settle.port p = c.port p := by
  unfold Core.settle
  exact (foldl_keeps Core.settleRec (fun c => c.port p) (fun c n => c.port_settleRec n p) (List.range 32) _).trans
    (foldl_keeps Core.settleBand (fun c => c.port p) (fun c b => c.port_settleBand b p) (List.range 4) c)

/-- Nothing of the package differs but core `k`. -/
def OnlyCore (s t : State) (k : Nat) : Prop := { t with cores := s.cores } = s ∧ ∀ j, j ≠ k → t.core j = s.core j

theorem OnlyCore.setCore (s : State) (k : Nat) (c : Core) : OnlyCore s (s.setCore k c) k :=
  ⟨rfl, fun j hj => (State.core_setCore s k j c).trans (if_neg hj)⟩
theorem OnlyCore.trans {s t u : State} {k : Nat} (h : OnlyCore s t k) (h' : OnlyCore t u k) : OnlyCore s u k :=
  ⟨(congrArg (fun v : State => { v with cores := s.cores }) h'.1).trans h.1, fun j hj => (h'.2 j hj).trans (h.2 j hj)⟩
theorem OnlyCore.mem {s t : State} {k : Nat} (h : OnlyCore s t k) : t.mem = s.mem := (congrArg State.mem h.1 :)
theorem OnlyCore.warps {s t : State} {k : Nat} (h : OnlyCore s t k) : t.warps = s.warps := (congrArg State.warps h.1 :)
theorem OnlyCore.cur {s t : State} {k : Nat} (h : OnlyCore s t k) : t.cur = s.cur := (congrArg State.cur h.1 :)
theorem OnlyCore.teams {s t : State} {k : Nat} (h : OnlyCore s t k) : t.teams = s.teams := (congrArg State.teams h.1 :)
theorem OnlyCore.cohorts {s t : State} {k : Nat} (h : OnlyCore s t k) : t.cohorts = s.cohorts := (congrArg State.cohorts h.1 :)
theorem OnlyCore.warp {s t : State} {k : Nat} (h : OnlyCore s t k) (n : Nat) : t.warp n = s.warp n := by
  rw [State.warp, State.warp, h.warps]
theorem OnlyCore.bar {s t : State} {k : Nat} (h : OnlyCore s t k) (n b : Nat) : t.bar n b = s.bar n b := by
  simp only [State.bar, State.team, State.cohort, h.teams, h.cohorts]

/-! #### Releases (R248) -/

/-- A port at which a release has arrived. -/
def Port.released (x : Port) : Port := if x.rels = 255 then { x with relovf := true } else { x with rels := x.rels + 1 }
/-- A core of which a command with that successor has finished. -/
def Core.release (c : Core) (succ : Option Nat) : Core :=
  match succ with
  | none => c
  | some p => c.setPort p (c.port p).released

section
variable (x : Port)

@[simp] theorem Port.queue_released : x.released.queue = x.queue := by unfold Port.released; split <;> rfl
@[simp] theorem Port.exec_released : x.released.exec = x.exec := by unfold Port.released; split <;> rfl
theorem Port.rels_released : x.released.rels = x.rels + if x.rels ≠ 255 then 1 else 0 := by
  unfold Port.released
  split
  · next h => rw [if_neg (not_not.2 h)]; exact (BitVec.add_zero _).symm
  · rfl
theorem Port.relovf_released : x.released.relovf = (x.relovf || x.rels == 255) := by
  unfold Port.released
  split
  · next h => simp [h]
  · next h => rw [beq_eq_false_iff_ne.2 h, Bool.or_false]
/-- Counted as numbers, releases stop at 255. -/
theorem Port.toNat_released : x.released.rels.toNat = min 255 (x.rels.toNat + 1) := by
  unfold Port.released
  split
  · next h => simp [h]
  · next h =>
    have hne : x.rels.toNat ≠ 255 := fun e => h (BitVec.eq_of_toNat_eq e)
    have hlt := x.rels.isLt
    show (x.rels + 1).toNat = _
    rw [BitVec.toNat_add, Nat.mod_eq_of_lt (by simp; omega)]
    simp; omega
theorem Port.rels_eq_max : x.rels = 255 ↔ 255 < x.rels.toNat + 1 := by
  have hlt := x.rels.isLt
  rw [← BitVec.toNat_inj]
  simp; omega

end

theorem Core.port_release (c : Core) (succ : Option Nat) (p : Nat) :
    (c.release succ).port p = if succ = some p then (c.port p).released else c.port p := by
  cases succ with
  | none => rfl
  | some q =>
    rw [Core.release, Core.port_setPort]
    by_cases h : p = q
    · subst h; rw [if_pos rfl, if_pos rfl]
    · rw [if_neg h, if_neg fun e => h (Option.some.inj e).symm]
@[simp] theorem Core.queue_release (c : Core) (succ : Option Nat) (p : Nat) : ((c.release succ).port p).queue = (c.port p).queue := by
  rw [Core.port_release]; split <;> simp
@[simp] theorem Core.exec_release (c : Core) (succ : Option Nat) (p : Nat) : ((c.release succ).port p).exec = (c.port p).exec := by
  rw [Core.port_release]; split <;> simp
theorem Core.rels_release (c : Core) (succ : Option Nat) (p : Nat) : ((c.release succ).port p).rels =
    (c.port p).rels + if succ = some p ∧ (c.port p).rels ≠ 255 then 1 else 0 := by
  rw [Core.port_release]
  by_cases h : succ = some p
  · rw [if_pos h, Port.rels_released]; simp only [h, true_and]
  · rw [if_neg h, if_neg fun e => h e.1]; exact (BitVec.add_zero _).symm

theorem State.core_release (s : State) (core : Nat) (succ : Option Nat) (j : Nat) :
    (s.release core succ).core j = if j = core then (s.core core).release succ else s.core j := by
  cases succ with
  | none =>
    split
    · next h => rw [h]; rfl
    · rfl
  | some p => exact State.core_setPort _ _ _ _ _
theorem OnlyCore.release (s : State) (core : Nat) (succ : Option Nat) : OnlyCore s (s.release core succ) core := by
  refine ⟨?_, fun j hj => (s.core_release core succ j).trans (if_neg hj)⟩
  cases succ <;> rfl

/-! #### Discarded commands (R246) -/

/-- A command that a band executes. -/
def Cmd.ForBand (c : Cmd) : Prop := ¬∃ q, c.body = .copy q

/-- A result of the warp waits for no other command than `c`, or `c` is no ACCRD. -/
def Cmd.spares (c : Cmd) (p : Pending) : Bool :=
  match c.body with
  | .accrd .. => p.kind != .accrd c.id
  | _ => true
/-- The warp of a discarded band command, which delivers no result. -/
def Warp.without (w : Warp) (c : Cmd) : Warp := { w with pending := w.pending.filter c.spares }
theorem Warp.without_accrd (w : Warp) {c : Cmd} {d y n : Nat} (h : c.body = .accrd d y n) :
    w.without c = { w with pending := w.pending.filter (fun p => p.kind != .accrd c.id) } := by
  have hspares : c.spares = fun p => p.kind != .accrd c.id := by unfold Cmd.spares; simp only [h]
  rw [Warp.without, hspares]
theorem Warp.without_other (w : Warp) {c : Cmd} (h : ∀ d y n, c.body ≠ .accrd d y n) : w.without c = w := by
  have hall : w.pending.filter c.spares = w.pending := List.filter_eq_self.2 fun p _ => by
    unfold Cmd.spares
    split
    · next hb => exact absurd hb (h _ _ _)
    · rfl
  rw [Warp.without, hall]

/-- Bytes of a copy that has not started leave its barrier; the second answer reports an overflow (R205). -/
def State.bytesOut (s : State) (core : Nat) (c : Cmd) (q : CopyReq) : State × Bool :=
  match q.bar with
  | some b => s.txSub c.team c.slot b.toNat (layTotal (s.copyRec core c.slot q))
  | none => (s, false)

/-- From `s` to `t` command `c` of a core has left: its warp is `w` and its successor is released. -/
structure CmdLeft (s t : State) (core : Nat) (c : Cmd) (w : Warp) : Prop where
  cur : t.cur = s.cur
  mem : t.mem = s.mem
  cores : ∀ j, t.core j = if j = core then (s.core core).release c.succ else s.core j
  warp : t.warp (core * 16 + c.slot) = w
  others : ∀ k, k ≠ core * 16 + c.slot → t.warp k = s.warp k

/-- A change of the command's warp, and the release of its successor. -/
theorem CmdLeft.release {s u : State} {core : Nat} {c : Cmd} (hcur : u.cur = s.cur) (hmem : u.mem = s.mem) (hcores : u.cores = s.cores)
    (hothers : ∀ k, k ≠ core * 16 + c.slot → u.warp k = s.warp k) :
    CmdLeft s (u.release core c.succ) core c (u.warp (core * 16 + c.slot)) where
  cur := (OnlyCore.release u core c.succ).cur.trans hcur
  mem := (OnlyCore.release u core c.succ).mem.trans hmem
  cores j := by
    have hcore : ∀ k, u.core k = s.core k := fun k => by rw [State.core, State.core, hcores]
    rw [State.core_release, hcore, hcore]
  warp := (OnlyCore.release u core c.succ).warp _
  others k hk := ((OnlyCore.release u core c.succ).warp k).trans (hothers k hk)

theorem State.discard_band (s : State) (core : Nat) {c : Cmd} (h : c.ForBand) :
    CmdLeft s (s.discard core c) core c ((s.warp (core * 16 + c.slot)).without c) := by
  have hstay : ∀ {body}, c.body = body → (∀ d y n, body ≠ .accrd d y n) →
      CmdLeft s (s.release core c.succ) core c ((s.warp (core * 16 + c.slot)).without c) := fun hb hne => by
    rw [Warp.without_other _ (hb ▸ hne)]
    exact CmdLeft.release rfl rfl rfl fun _ _ => rfl
  unfold State.discard
  split
  · next q hb => exact absurd ⟨q, hb⟩ h
  · next hb =>
    rw [Warp.without_accrd _ hb]
    have hleft := CmdLeft.release (c := c) (s := s) (core := core) (u := s.setWarp (core * 16 + c.slot)
      { s.warp (core * 16 + c.slot) with pending := (s.warp (core * 16 + c.slot)).pending.filter (fun p => p.kind != .accrd c.id) })
      rfl rfl rfl fun k hk => (State.warp_setWarp _ _ _ _).trans (if_neg hk)
    rwa [State.warp_setWarp_same] at hleft
  · next hb => exact hstay hb nofun
  · next hb => exact hstay hb nofun
  · next hb => exact hstay hb nofun
  · next hb => exact hstay hb nofun

theorem layTotal_pos (r : BitVec 256) : 0 < layTotal r := by
  have hext : ∀ d, 0 < layExt r d := fun d => by unfold layExt; split <;> omega
  unfold layTotal layElem layCount
  have := hext 0; have := hext 1; have := hext 2; have := hext 3; have := hext 4
  positivity

/-- Taking the bytes of a copy from its barrier changes no warp and no core. -/
theorem State.txSub_keeps (s : State) (k slot b n : Nat) : (s.txSub k slot b n).1.cur = s.cur ∧ (s.txSub k slot b n).1.warps = s.warps ∧
    (s.txSub k slot b n).1.cores = s.cores := by
  unfold State.txSub
  split
  · exact ⟨rfl, rfl, rfl⟩
  · have hset := SamePackage.setBar s k b ((s.bar k b).subtract n).1.o
    have hcores : (s.setBar k b ((s.bar k b).subtract n).1.o).cores = s.cores := (congrArg State.cores hset :)
    dsimp only
    split
    · unfold State.copyHit
      refine ⟨by rw [State.trace_cur, State.fault_cur, hset.cur], by rw [State.trace_warps, State.fault_warps, State.setBar_warps], ?_⟩
      rw [State.trace_eq, State.fault_eq]
      exact hcores
    · exact ⟨hset.cur, State.setBar_warps _ _ _ _, hcores⟩
theorem State.bytesOut_keeps (s : State) (core : Nat) (c : Cmd) (q : CopyReq) : (s.bytesOut core c q).1.cur = s.cur ∧
    (s.bytesOut core c q).1.warps = s.warps ∧ (s.bytesOut core c q).1.cores = s.cores ∧ (s.bytesOut core c q).1.mem = s.mem := by
  unfold State.bytesOut
  split
  · obtain ⟨hcur, hwarps, hcores⟩ := s.txSub_keeps c.team c.slot _ (layTotal (s.copyRec core c.slot q))
    exact ⟨hcur, hwarps, hcores, State.mem_txSub _ _ _ _ _⟩
  · exact ⟨rfl, rfl, rfl, rfl⟩

section
variable (s : State) (core : Nat) {c : Cmd} {q : CopyReq} (hb : c.body = .copy q) (hs : q.sched = none) (hg : c.gone = false)
include hb hs hg

/-- A copy that is no scheduled one is cancelled before it starts: its bytes leave its barrier and its status is delivered. -/
theorem State.discard_copy_eq : s.discard core c =
    ((s.bytesOut core c q).1.setWarp (core * 16 + c.slot) ((s.warp (core * 16 + c.slot)).deliver c.id c.dest c.tag
      (copyStatus true (c.ovf || (s.bytesOut core c q).2) 0 0))).release core c.succ := by
  have hpos := layTotal_pos (s.copyRec core c.slot q)
  have hwarp : (s.bytesOut core c q).1.warp (core * 16 + c.slot) = s.warp (core * 16 + c.slot) := by
    rw [State.warp, State.warp, (s.bytesOut_keeps core c q).2.1]
  rw [← hwarp]
  simp only [State.discard, hb, State.copyOut, hs, hg, State.schedOut, State.bytesOut, hpos, Nat.sub_zero]
  rfl
theorem State.discard_copy : CmdLeft s (s.discard core c) core c ((s.warp (core * 16 + c.slot)).deliver c.id c.dest c.tag
    (copyStatus true (c.ovf || (s.bytesOut core c q).2) 0 0)) := by
  obtain ⟨hcur, hwarps, hcores, hmem⟩ := s.bytesOut_keeps core c q
  rw [s.discard_copy_eq core hb hs hg]
  have hleft := CmdLeft.release (s := s) (core := core) (c := c) (u := (s.bytesOut core c q).1.setWarp (core * 16 + c.slot)
    ((s.warp (core * 16 + c.slot)).deliver c.id c.dest c.tag (copyStatus true (c.ovf || (s.bytesOut core c q).2) 0 0)))
    hcur hmem hcores fun k hk => by rw [State.warp_setWarp, if_neg hk, State.warp, State.warp, hwarps]
  rwa [State.warp_setWarp_same] at hleft

end

/-- The status of a copy cancelled before it starts: CANC and nothing else. -/
theorem copyStatus_cancelled : copyStatus true false 0 0 = (3 : DWord) <<< 62 := by decide
/-- It joins the status port of a warp that is not ending. -/
theorem Warp.deliver_port (w : Warp) (id : Nat) (tag : BitVec 16) (st : DWord) (hr : w.stat ≠ .retiring) (hf : w.stat ≠ .free) :
    w.deliver id .port tag st = { w.forget id with statusPort := w.statusPort ++ [(st, tag)] } := if_neg (not_or.2 ⟨hf, hr⟩)

end Sys2Proof.Machine
end

section
/-! ### The head of a port is examined, and a band's command ends (13_queue.md R246 to R248) -/
namespace Sys2Proof.Machine

theorem exec_queueHeadDispatch (r : PortRef) (s : State) : exec (.queueHeadDispatch r) s = .next (s.dispatch r.core r.port) := rfl
theorem exec_engineCommandComplete (r : PortRef) (s : State) : exec (.engineCommandComplete r) s = execEngineCommandComplete r s := rfl

/-! #### Guards -/

/-- What stands in the guard slot that a command names. -/
def State.guardSlot (s : State) (core : Nat) (c : Cmd) : Option (BitVec 2) :=
  c.guard.map (fun g => Tab.get (0 : BitVec 2) (s.warp (core * 16 + c.slot)).guards g.toNat)

section
variable {s : State} {core : Nat} {c : Cmd}

theorem State.guardOf_dead (hd : c.dead = true) : s.guardOf core c = .no := if_pos hd
theorem State.guardOf_none (hd : c.dead = false) (hg : s.guardSlot core c = none) : s.guardOf core c = .yes := by
  rw [State.guardSlot, Option.map_eq_none_iff] at hg
  rw [State.guardOf, hg]
  exact if_neg (by simp [hd])
theorem State.guardOf_unresolved (hd : c.dead = false) (hg : s.guardSlot core c = some 0)
    (hw : (s.warp (core * 16 + c.slot)).stat ≠ .retiring) : s.guardOf core c = .unresolved := by
  obtain ⟨g, hg, hv⟩ := Option.map_eq_some_iff.1 hg
  simp only [State.guardOf, hd, hg, hv, Bool.false_eq_true, if_false]
  exact if_neg hw
theorem State.guardOf_yes (hd : c.dead = false) (hg : s.guardSlot core c = none ∨ s.guardSlot core c = some 1) :
    s.guardOf core c = .yes := by
  obtain hg | hg := hg
  · exact State.guardOf_none hd hg
  · obtain ⟨g, hg, hv⟩ := Option.map_eq_some_iff.1 hg
    simp only [State.guardOf, hd, hg, hv, Bool.false_eq_true, if_false]
    rfl
theorem State.guardOf_no (h : c.dead = true ∨ s.guardSlot core c = some 2 ∨
    (s.guardSlot core c = some 0 ∧ (s.warp (core * 16 + c.slot)).stat = .retiring)) : s.guardOf core c = .no := by
  by_cases hd : c.dead = true
  · exact State.guardOf_dead hd
  · rw [Bool.not_eq_true] at hd
    obtain h | hg | ⟨hg, hr⟩ := h
    · exact absurd (hd.symm.trans h) nofun
    · obtain ⟨g, hg, hv⟩ := Option.map_eq_some_iff.1 hg
      simp only [State.guardOf, hd, hg, hv, Bool.false_eq_true, if_false]
      rfl
    · obtain ⟨g, hg, hv⟩ := Option.map_eq_some_iff.1 hg
      simp only [State.guardOf, hd, hg, hv, Bool.false_eq_true, if_false]
      exact if_pos hr

end

/-! #### The head waits, starts or is discarded (R246) -/

theorem State.dispatch_none {s : State} {core port : Nat} (h : (s.port core port).exec ≠ none ∨ (s.port core port).queue = []) :
    s.dispatch core port = s := by
  unfold State.dispatch
  dsimp only
  split
  · next hx hq => exact absurd h (by simp [hx, hq])
  · rfl

/-- Whether the head of a port whose guard is true must wait all the same: for a release, for room in the result port, or for what stands
before it. -/
def State.Waits (s : State) (core port : Nat) (c : Cmd) : Prop :=
  (c.hold = true ∧ (s.port core port).rels = 0) ∨
  ((∃ col, c.body = .colrd col) ∧ 8 ≤ (Tab.get [] (s.core core).results port).length) ∨ s.afterOpen core c = true

section
variable {s : State} {core port : Nat} {c : Cmd} {cs : List Cmd}

theorem State.resultFull_iff (h : s.guardOf core c = .yes) : s.resultFull core port c = true ↔
    (∃ col, c.body = .colrd col) ∧ 8 ≤ (Tab.get [] (s.core core).results port).length := by
  unfold State.resultFull
  split
  · next hb => simp [hb, h]
  · next hb => exact iff_of_false Bool.false_ne_true fun ⟨⟨col, hc⟩, _⟩ => hb col hc
theorem State.waits_iff (h : s.guardOf core c = .yes) :
    (s.isHeld core (s.port core port) c || s.resultFull core port c || s.headWaits core c) = true ↔ s.Waits core port c := by
  have hheld : s.isHeld core (s.port core port) c = true ↔ c.hold = true ∧ (s.port core port).rels = 0 := by simp [State.isHeld, h]
  have hbehind : s.headWaits core c = true ↔ s.afterOpen core c = true := by simp [State.headWaits, h]
  rw [Bool.or_eq_true, Bool.or_eq_true, hheld, State.resultFull_iff h, hbehind, State.Waits, or_assoc]
theorem State.passes_no (h : s.guardOf core c = .no) :
    (s.isHeld core (s.port core port) c || s.resultFull core port c || s.headWaits core c) = false := by
  have hfull : s.resultFull core port c = false := by unfold State.resultFull; split <;> simp [h]
  simp [State.isHeld, State.headWaits, h, hfull]

variable (hx : (s.port core port).exec = none) (hq : (s.port core port).queue = c :: cs) (ho : c.out = false)
include hx hq ho

theorem State.dispatch_unresolved (h : s.guardOf core c = .unresolved) : s.dispatch core port = s := by
  simp [State.dispatch, hx, hq, ho, State.isHeld, h]
theorem State.dispatch_waits (h : s.guardOf core c = .yes) (hw : s.Waits core port c) : s.dispatch core port = s := by
  simp only [State.dispatch, hx, hq, ho, (State.waits_iff h).2 hw, if_true, Bool.false_eq_true, if_false]
theorem State.dispatch_starts (h : s.guardOf core c = .yes) (hw : ¬s.Waits core port c) : ∃ prog, s.dispatch core port =
    s.setPort core port { s.port core port with
      queue := cs, exec := some c, acted := false, prog := prog
      rels := if (c.hold && (s.port core port).rels != 0) = true then (s.port core port).rels - 1 else (s.port core port).rels } := by
  have hgo := mt (State.waits_iff h).1 hw
  simp only [State.dispatch, hx, hq, ho, hgo, h, Bool.false_eq_true, if_false]
  exact ⟨_, rfl⟩

/-- Its port without the head of which the guard is false. -/
def State.unqueued (s : State) (core port : Nat) (c : Cmd) (cs : List Cmd) : State :=
  s.setPort core port { s.port core port with
    queue := cs
    exec := none
    rels := if (c.hold && (s.port core port).rels != 0) = true then (s.port core port).rels - 1 else (s.port core port).rels }
theorem State.dispatch_discards (h : s.guardOf core c = .no) (hroom : s.statusRoom core c = true) : s.dispatch core port =
    ((s.unqueued core port c cs).discard core c).setCore core (((s.unqueued core port c cs).discard core c).core core).settle := by
  simp only [State.dispatch, hx, hq, ho, State.passes_no h, h, hroom, State.unqueued, Bool.false_eq_true, if_false, if_true]
theorem State.dispatch_stays (h : s.guardOf core c = .no) (hroom : s.statusRoom core c = false) : s.dispatch core port = s := by
  simp only [State.dispatch, hx, hq, ho, State.passes_no h, h, hroom, Bool.false_eq_true, if_false]

end

/-- From `s` to `t` the head of a port has left: its warp is `w`, and releases arrived elsewhere only at its successor. -/
structure HeadLeft (s t : State) (core port : Nat) (c : Cmd) (cs : List Cmd) (w : Warp) : Prop where
  mem : t.mem = s.mem
  others : ∀ k, k ≠ core * 16 + c.slot → t.warp k = s.warp k
  warp : t.warp (core * 16 + c.slot) = w
  exec : (t.port core port).exec = none
  queue : (t.port core port).queue = cs
  rels : ∀ p, p ≠ port → (t.port core p).rels = (s.port core p).rels + if c.succ = some p ∧ (s.port core p).rels ≠ 255 then 1 else 0

theorem CmdLeft.head {s t : State} {core port : Nat} {c : Cmd} {cs : List Cmd} {w : Warp}
    (h : CmdLeft (s.unqueued core port c cs) t core c w) : HeadLeft s (t.setCore core (t.core core).settle) core port c cs w := by
  have hcore : (t.setCore core (t.core core).settle).core core = (((s.unqueued core port c cs).core core).release c.succ).settle := by
    rw [State.core_setCore, if_pos rfl, h.cores, if_pos rfl]
  have hport : ∀ p, (t.setCore core (t.core core).settle).port core p =
      (((s.unqueued core port c cs).core core).release c.succ).port p := fun p => by rw [State.port, hcore, Core.port_settle]
  have hold : ∀ p, p ≠ port → ((s.unqueued core port c cs).core core).port p = s.port core p := fun p hp => by
    rw [State.unqueued, State.core_setPort, if_pos rfl, Core.port_setPort, if_neg hp]; rfl
  have hown : ((s.unqueued core port c cs).core core).port port = { s.port core port with
      queue := cs
      exec := none
      rels := if (c.hold && (s.port core port).rels != 0) = true then (s.port core port).rels - 1 else (s.port core port).rels } := by
    rw [State.unqueued, State.core_setPort, if_pos rfl, Core.port_setPort, if_pos rfl]
  have hset := OnlyCore.setCore t core (t.core core).settle
  have hun : OnlyCore s (s.unqueued core port c cs) core := OnlyCore.setCore s core _
  refine ⟨hset.mem.trans (h.mem.trans hun.mem), fun k hk => (hset.warp k).trans ((h.others k hk).trans (hun.warp k)),
    (hset.warp _).trans h.warp, ?_, ?_, fun p hp => ?_⟩
  · rw [hport, Core.exec_release, hown]
  · rw [hport, Core.queue_release, hown]
  · rw [hport, Core.rels_release, hold p hp]

section
variable {s : State} {core port : Nat} {c : Cmd} {cs : List Cmd} (hx : (s.port core port).exec = none)
  (hq : (s.port core port).queue = c :: cs) (ho : c.out = false) (hg : s.guardOf core c = .no)
include hx hq ho hg

/-- A band command whose guard is false. -/
theorem State.dispatch_band (hb : c.ForBand) (hd : c.dest = .none) : HeadLeft s (s.dispatch core port) core port c cs
    ((s.warp (core * 16 + c.slot)).without c) := by
  rw [State.dispatch_discards hx hq ho hg (by simp [State.statusRoom, hd])]
  exact CmdLeft.head (State.discard_band _ core hb)

variable {q : CopyReq} (hb : c.body = .copy q) (hs : q.sched = none) (hgone : c.gone = false) (hd : c.dest = .port)
  (hr : (s.warp (core * 16 + c.slot)).stat ≠ .retiring)
include hgone hd hr

theorem State.dispatch_copy_stays (hfull : 16 ≤ (s.warp (core * 16 + c.slot)).statusPort.length) : s.dispatch core port = s :=
  State.dispatch_stays hx hq ho hg (by simp [State.statusRoom, hd, hgone, hr, hfull])

variable (hf : (s.warp (core * 16 + c.slot)).stat ≠ .free) (hroom : (s.warp (core * 16 + c.slot)).statusPort.length < 16)
include hb hs hf hroom

/-- A copy whose guard is false, with room for its status; `v` is the state with its bytes taken from its barrier. -/
theorem State.dispatch_copy : ∃ v : State × Bool, v = (s.unqueued core port c cs).bytesOut core c q ∧
    HeadLeft s (s.dispatch core port) core port c cs { (s.warp (core * 16 + c.slot)).forget c.id with
      statusPort := (s.warp (core * 16 + c.slot)).statusPort ++ [(copyStatus true (c.ovf || v.2) 0 0, c.tag)] } ∧
    ∀ n b, (s.dispatch core port).bar n b = v.1.bar n b := by
  refine ⟨_, rfl, ?_, fun n b => ?_⟩
  · rw [State.dispatch_discards hx hq ho hg (by simp [State.statusRoom, hd, hroom]), ← Warp.deliver_port _ _ _ _ hr hf, ← hd]
    exact CmdLeft.head (State.discard_copy _ core hb hs hgone)
  · rw [State.dispatch_discards hx hq ho hg (by simp [State.statusRoom, hd, hroom]), (OnlyCore.setCore _ core _).bar,
      State.discard_copy_eq _ core hb hs hgone, (OnlyCore.release _ core _).bar]
    rfl

end

/-! #### The bytes of a discarded copy (R205) -/

/-- A subtraction that neither saturates nor ends the object's phase. -/
theorem Barrier.subtract_within (o : Barrier) (n : Nat) (hlo : 0 ≤ o.txb.toInt - n + 2 ^ 35)
    (hn : o.txb.toInt - n ≠ 0 ∨ o.pend ≠ 0 ∨ o.valid = false) :
    o.subtract n = (⟨{ o with txb := BitVec.ofInt 36 (o.txb.toInt - n) }, false, false, false⟩, false) := by
  have hlow : ¬o.txb.toInt - n < -(2 ^ 35) := by omega
  have htop : 2 * o.txb.toInt < 2 ^ 36 := BitVec.two_mul_toInt_lt
  have hzero : BitVec.ofInt 36 (o.txb.toInt - n) = 0 → o.txb.toInt - n = 0 := fun h => by
    rw [← BitVec.toInt_ofInt_eq_self (w := 36) (by omega) (n := o.txb.toInt - n) (by omega) (by omega), h]
    rfl
  have hstay : (o.valid && o.pend == 0 && BitVec.ofInt 36 (o.txb.toInt - n) == 0) = false := by
    rw [Bool.and_eq_false_iff, Bool.and_eq_false_iff, beq_eq_false_iff_ne, beq_eq_false_iff_ne]
    obtain h | h | h := hn
    · exact .inr (mt hzero h)
    · exact .inl (.inr h)
    · exact .inl (.inl h)
  simp only [Barrier.subtract, Barrier.settle, hstay, hlow, decide_false, Bool.false_eq_true, if_false]

theorem BarOp.fires_none (o : Barrier) : BarOp.fires ⟨o, false, false, false⟩ = false := by
  unfold BarOp.fires
  split <;> rfl

theorem State.bytesOut_within {s : State} {core : Nat} {c : Cmd} {q : CopyReq} {b : BitVec 5} (hbar : q.bar = some b)
    (hused : (s.team c.team).used = true) (hlo : 0 ≤ (s.bar c.team b.toNat).txb.toInt - layTotal (s.copyRec core c.slot q) + 2 ^ 35)
    (hn : (s.bar c.team b.toNat).txb.toInt - layTotal (s.copyRec core c.slot q) ≠ 0 ∨ (s.bar c.team b.toNat).pend ≠ 0 ∨
      (s.bar c.team b.toNat).valid = false) :
    (s.bytesOut core c q).2 = false ∧ (s.bytesOut core c q).1.bar c.team b.toNat = { s.bar c.team b.toNat with
      txb := BitVec.ofInt 36 ((s.bar c.team b.toNat).txb.toInt - layTotal (s.copyRec core c.slot q)) } := by
  have hsub := Barrier.subtract_within (s.bar c.team b.toNat) (layTotal (s.copyRec core c.slot q)) hlo hn
  simp only [State.bytesOut, hbar, State.txSub, hused, hsub, BarOp.fires_none, Bool.not_true, Bool.false_and, Bool.false_eq_true, if_false]
  exact ⟨trivial, State.bar_setBar_same _ _ _ _⟩

/-! #### The end of a band's command -/

section
variable {s : State} {r : PortRef} {c : Cmd}

theorem exec_engineCommandComplete_none (h : (s.port r.core r.port).exec = none) : exec (.engineCommandComplete r) s = .next s := by
  rw [exec_engineCommandComplete, execEngineCommandComplete, h]
theorem exec_engineCommandComplete_band (hx : (s.port r.core r.port).exec = some c) (hb : c.ForBand) :
    exec (.engineCommandComplete r) s = .next (s.bandEnd r.core r.port c) := by
  simp only [exec_engineCommandComplete, execEngineCommandComplete, hx]
  split
  · next q hq => exact absurd ⟨q, hq⟩ hb
  all_goals rfl
theorem State.bandEnd_waits {core port : Nat} (h : (s.port core port).acted = false) : s.bandEnd core port c = s := if_pos (by simp [h])

/-- A command that has had its effect leaves its port, and its successor is released. -/
theorem State.bandEnd_ends {core port : Nat} (h : (s.port core port).acted = true) : OnlyCore s (s.bandEnd core port c) core ∧
    ∀ p, (s.bandEnd core port c).port core p =
      (((s.core core).setPort port { s.port core port with exec := none, acted := false }).release c.succ).port p := by
  have hend : s.bandEnd core port c = ((s.setPort core port { s.port core port with exec := none, acted := false }).release core c.succ).setCore
      core (((s.setPort core port { s.port core port with exec := none, acted := false }).release core c.succ).core core).settle :=
    if_neg (by simp [h])
  rw [hend]
  refine ⟨((OnlyCore.setCore s core _).trans (OnlyCore.release _ core _)).trans (OnlyCore.setCore _ core _), fun p => ?_⟩
  rw [State.port, State.core_setCore, if_pos rfl, Core.port_settle, State.core_release, if_pos rfl, State.core_setPort, if_pos rfl]

end

end Sys2Proof.Machine
end

section
open Sys2Proof Sys2Proof.Machine
/-- Settles O41: a head waits, starts or is discarded by its guard (`State.guardOf_yes`, `State.guardOf_no`); a discarded one leaves as
`State.dispatch_band` and `State.dispatch_copy` say, a finished one as `State.bandEnd_ends` says. -/
theorem portsTakeCommandsInOrder : Obligations.PortsTakeCommandsInOrder := by
  unfold Obligations.PortsTakeCommandsInOrder
  intro s r x guard band released
  refine ⟨fun h => ?_, fun c cs hx hq ho => ?_, fun h => exec_engineCommandComplete_none h, fun c hx hb => ?_⟩
  · rw [exec_queueHeadDispatch, State.dispatch_none h]
  · intro key w full no
    have hno : no → s.guardOf r.core c = .no := State.guardOf_no
    rw [exec_queueHeadDispatch]
    refine ⟨fun hd hg hw => ?_, fun hd hg => ?_, fun hg hb hd => ?_, fun q hg hb hs hl hgone hd hr hf => ?_⟩
    · rw [State.dispatch_unresolved hx hq ho (State.guardOf_unresolved hd hg hw)]
    · have hyes : s.guardOf r.core c = .yes := State.guardOf_yes hd hg
      refine ⟨fun hw => by rw [State.dispatch_waits hx hq ho hyes hw], fun hrel hfull => ?_⟩
      have hgo : ¬s.Waits r.core r.port c := by
        rintro (⟨hh, hz⟩ | hw)
        · exact hrel.elim (fun h => absurd (h.symm.trans hh) nofun) fun h => h hz
        · exact hfull hw
      obtain ⟨prog, hstart⟩ := State.dispatch_starts hx hq ho hyes hgo
      rw [hstart]
      refine ⟨_, rfl, rfl, rfl, (OnlyCore.setCore s r.core _).2, fun p hp => (State.port_setPort _ _ _ _ p).trans (if_neg hp), ?_, ?_, ?_, ?_⟩
      · rw [State.port_setPort, if_pos rfl]
      · rw [State.port_setPort, if_pos rfl]
      · rw [State.port_setPort, if_pos rfl]
      · rw [State.port_setPort, if_pos rfl]
        refine if_ctx_congr ?_ (fun _ => rfl) fun _ => rfl
        rw [Bool.and_eq_true, bne_iff_ne]
        exact ⟨fun h => h.1, fun h => ⟨h, hrel.resolve_left (by simp [h])⟩⟩
    · have hleft := State.dispatch_band hx hq ho (hno hg) hb hd
      exact ⟨_, rfl, hleft.mem, hleft.others, hleft.exec, hleft.queue, fun hne => hleft.warp.trans (w.without_other hne),
        fun d y n hbody => hleft.warp.trans (w.without_accrd hbody), hleft.rels⟩
    · refine ⟨fun hroom => by rw [State.dispatch_copy_stays hx hq ho (hno hg) hgone hd hr hroom], fun hroom hovf => ?_⟩
      obtain ⟨v, hv, hleft, hbar⟩ := State.dispatch_copy hx hq ho (hno hg) hb hs hgone hd hr hf hroom
      have hstatus : v.2 = false → ((s.dispatch r.core r.port).warp key).statusPort = w.statusPort ++ [((3 : DWord) <<< 62, c.tag)] := fun h => by
        rw [hleft.warp, hovf, h, Bool.or_false, copyStatus_cancelled]
      refine ⟨_, rfl, hleft.exec, hleft.queue, hleft.rels, hleft.others, fun hnone => ⟨hleft.mem, hstatus ?_⟩, fun b hsome hused hlo hn => ?_⟩
      · rw [hv, State.bytesOut, hnone]
      · have hrec : (s.unqueued r.core r.port c cs).copyRec r.core c.slot q = w.h q.hreg := by rw [State.copyRec, hl]; rfl
        have hwithin := State.bytesOut_within (s := s.unqueued r.core r.port c cs) (core := r.core) (c := c) (q := q) hsome hused
        rw [hrec] at hwithin
        obtain ⟨hfit, hbytes⟩ := hwithin hlo hn
        exact ⟨(hbar _ _).trans (hv ▸ hbytes), hstatus (hv ▸ hfit)⟩
  · rw [exec_engineCommandComplete_band hx hb]
    refine ⟨fun h => by rw [State.bandEnd_waits h], fun h => ?_⟩
    obtain ⟨honly, hport⟩ := State.bandEnd_ends (s := s) (core := r.core) (port := r.port) (c := c) h
    have hrels : ∀ p, (((s.core r.core).setPort r.port { s.port r.core r.port with exec := none, acted := false }).port p).rels =
        (s.port r.core p).rels := fun p => by
      rw [Core.port_setPort]
      split
      · next h => rw [h]
      · rfl
    refine ⟨_, rfl, honly.mem, honly.warps, honly.2, ?_, ?_, fun p => ?_, fun p hp hmax => ?_⟩
    · rw [hport, Core.exec_release, Core.port_setPort, if_pos rfl]
    · rw [hport, Core.queue_release, Core.port_setPort, if_pos rfl]
    · rw [hport, Core.rels_release, hrels]
    · rw [hport, Core.port_release, if_pos hp, Port.relovf_released, hrels, hmax]
      simp
end

section
/-! ### Bindings and guards (13_queue.md R239, R247) -/
namespace Sys2Proof.Machine

theorem exec_qbind (i : HDI) (s : State) : exec (.qbind i) s = execQbind i s := rfl
theorem exec_qstat (i : HDA) (s : State) : exec (.qstat i) s = execQstat i s := rfl
theorem exec_qdrain (i : HA) (s : State) : exec (.qdrain i) s = execQdrain i s := rfl
theorem exec_gset (i : HD) (s : State) : exec (.gset i) s = s.guardSet i.h i.d 1 := rfl
theorem exec_gclr (i : GClr) (s : State) : exec (.gclr i) s = s.guardSet i.h i.d (if i.u then 0 else 2) := rfl

/-! #### QBIND -/

/-- A binding changes the q registers and the draw binding alone. -/
theorem Warp.bind_rest (w : Warp) (n : Nat) (b : Word) : { w.bind n b with qbind := w.qbind, draw := w.draw } = w := by
  unfold Warp.bind
  split <;> rfl
/-- A draw binding unbinds every other one (R239). -/
theorem Warp.q_bind (w : Warp) (n : Nat) (b : Word) (m : Nat) :
    (w.bind n b).q m = if m = n then b else if qKind b = 5 ∧ qKind (w.q m) = 5 then 0 else w.q m := by
  unfold Warp.bind
  split
  · next h =>
    refine (Tab.get_set _ _ _ _ _).trans ?_
    simp only [Tab.get_drop, h, true_and, beq_iff_eq]
    rfl
  · next h =>
    refine (Tab.get_set _ _ _ _ _).trans ?_
    simp only [h, false_and, if_false]
    rfl
theorem Warp.draw_bind (w : Warp) (n : Nat) (b : Word) :
    (w.bind n b).draw = if qKind b = 5 then b else if qKind (w.q n) = 5 then 0 else w.draw := by
  unfold Warp.bind
  split <;> rfl

theorem TaskQueue.openTo_iff (q : TaskQueue) (c : CtxId) : q.openTo c = true ↔ q.desc.getLsbD 0 = true ∧ q.desc.extractLsb' 32 12 = c := by
  simp [TaskQueue.openTo]

section
variable {s : State} {i : HDI}

theorem warpStep_qbind (h : s.w.parts i.h = 0) : WarpStep (exec (.qbind i) s) s s.w (s.w.pc + BitVec.ofNat 64 12) i.h.sw := by
  rw [exec_qbind, execQbind, if_pos h]
  exact warpStep_retire s 12 i.h.sw

variable (hm : s.w.parts i.h ≠ 0)
include hm

theorem trapsWith_qbind_band (hk : qKind i.imm = 1 ∨ qKind i.imm = 2) (hb : ¬s.holdsBand (qIndex i.imm) = true) :
    TrapsWith (exec (.qbind i) s) s 0x1C0 (s.w.parts i.h) := by
  rw [exec_qbind, execQbind, if_neg hm, if_pos ⟨hk, by simpa using hb⟩]
  exact trapsWith_precise _ _ _ _
theorem trapsWith_qbind_queue (hk : qKind i.imm = 5) (ho : ¬(s.taskq (qDie i.imm) (qQueue i.imm)).openTo s.w.ctx = true) :
    TrapsWith (exec (.qbind i) s) s 0x1D2 (s.w.parts i.h) := by
  rw [exec_qbind, execQbind, if_neg hm, if_neg (by omega), if_pos ⟨hk, by simpa using ho⟩]
  exact trapsWith_precise _ _ _ _
theorem exec_qbind_binds (hb : qKind i.imm = 1 ∨ qKind i.imm = 2 → s.holdsBand (qIndex i.imm) = true)
    (ho : qKind i.imm = 5 → (s.taskq (qDie i.imm) (qQueue i.imm)).openTo s.w.ctx = true) :
    exec (.qbind i) s = .next (s.upd (fun w => (w.bind i.d.toNat i.imm).retire 12 i.h.sw)) := by
  rw [exec_qbind, execQbind, if_neg hm, if_neg fun h => Bool.false_ne_true (h.2.symm.trans (hb h.1)),
    if_neg fun h => Bool.false_ne_true (h.2.symm.trans (ho h.1))]

end

/-! #### GSET and GCLR -/

/-- A resolved guard slot, if some lane takes part (R247). -/
def Warp.resolve (w : Warp) (h : Hdr) (n : Nat) (v : BitVec 2) : Warp := if w.any h then { w with guards := Tab.set 0 w.guards n v } else w
theorem Warp.resolve_rest (w : Warp) (h : Hdr) (n : Nat) (v : BitVec 2) : { w.resolve h n v with guards := w.guards } = w := by
  unfold Warp.resolve
  split <;> rfl
theorem Warp.guards_resolve (w : Warp) (h : Hdr) (n : Nat) (v : BitVec 2) (m : Nat) : Tab.get (0 : BitVec 2) (w.resolve h n v).guards m =
    if w.parts h ≠ 0 ∧ m = n then v else Tab.get 0 w.guards m := by
  have hany : w.any h = true ↔ w.parts h ≠ 0 := bne_iff_ne
  unfold Warp.resolve
  split
  · next ha =>
    simp only [hany.1 ha, ne_eq, not_false_eq_true, true_and]
    exact Tab.get_set _ _ _ _ _
  · next ha => exact (if_neg fun h => ha (hany.2 h.1)).symm
theorem State.guardSet_eq (s : State) (h : Hdr) (d : RegNo) (v : BitVec 2) :
    s.guardSet h d v = .next (s.upd (fun w => (w.resolve h d.toNat v).retire 8 h.sw)) := rfl

end Sys2Proof.Machine
end

section
/-! ### What QSTAT reads (13_queue.md R250) -/
namespace Sys2Proof.Machine

/-- The fields of a QSTAT result side by side. -/
def qstatWord (kind index rels : Nat) (relovf held : Bool) (mine occ : Nat) : DWord :=
  BitVec.ofNat 64 (kind * 2 ^ 60 + index * 2 ^ 56 + rels * 2 ^ 48 + relovf.toNat * 2 ^ 47 + held.toNat * 2 ^ 46 + mine * 2 ^ 32 + occ)

section
variable {kind index rels : Nat} {relovf held : Bool} {mine occ : Nat} (hk : kind < 16) (hi : index < 16) (hr : rels < 256)
  (hmine : mine < 2 ^ 9) (hocc : occ < 2 ^ 21)
include hk hi hr hmine hocc

theorem toNat_qstatWord : (qstatWord kind index rels relovf held mine occ).toNat =
    kind * 2 ^ 60 + index * 2 ^ 56 + rels * 2 ^ 48 + relovf.toNat * 2 ^ 47 + held.toNat * 2 ^ 46 + mine * 2 ^ 32 + occ := by
  have ho := relovf.toNat_lt
  have hh := held.toNat_lt
  rw [qstatWord, BitVec.toNat_ofNat]
  omega
theorem qstatWord_binding : ((qstatWord kind index rels relovf held mine occ).extractLsb' 60 4).toNat = kind ∧
    ((qstatWord kind index rels relovf held mine occ).extractLsb' 56 4).toNat = index ∧
    (qstatWord kind index rels relovf held mine occ).extractLsb' 21 11 = 0 ∧
    (qstatWord kind index rels relovf held mine occ).extractLsb' 41 5 = 0 := by
  have ho := relovf.toNat_lt
  have hh := held.toNat_lt
  have hn := toNat_qstatWord (relovf := relovf) (held := held) hk hi hr hmine hocc
  refine ⟨?_, ?_, extractLsb'_eq_of_digits (show _ = 0 from ?_), extractLsb'_eq_of_digits (show _ = 0 from ?_)⟩
  · rw [BitVec.extractLsb'_toNat, Nat.shiftRight_eq_div_pow, hn]; omega
  · rw [BitVec.extractLsb'_toNat, Nat.shiftRight_eq_div_pow, hn]; omega
  · rw [hn]; omega
  · rw [hn]; omega
theorem qstatWord_counts : ((qstatWord kind index rels relovf held mine occ).extractLsb' 0 21).toNat = occ ∧
    ((qstatWord kind index rels relovf held mine occ).extractLsb' 32 9).toNat = mine := by
  have ho := relovf.toNat_lt
  have hh := held.toNat_lt
  have hn := toNat_qstatWord (relovf := relovf) (held := held) hk hi hr hmine hocc
  constructor
  · rw [BitVec.extractLsb'_toNat, Nat.shiftRight_eq_div_pow, hn]; omega
  · rw [BitVec.extractLsb'_toNat, Nat.shiftRight_eq_div_pow, hn]; omega
theorem qstatWord_port : ((qstatWord kind index rels relovf held mine occ).extractLsb' 48 8).toNat = rels ∧
    (qstatWord kind index rels relovf held mine occ).getLsbD 47 = relovf ∧
    (qstatWord kind index rels relovf held mine occ).getLsbD 46 = held := by
  have ho := relovf.toNat_lt
  have hh := held.toNat_lt
  have hn := toNat_qstatWord (relovf := relovf) (held := held) hk hi hr hmine hocc
  refine ⟨?_, getLsbD_eq_of_digit ?_, getLsbD_eq_of_digit ?_⟩
  · rw [BitVec.extractLsb'_toNat, Nat.shiftRight_eq_div_pow, hn]; omega
  · rw [hn]; omega
  · rw [hn]; omega

omit hr in
/-- With no release and no held head the fields between the counts and the binding are 0. -/
theorem qstatWord_plain : (qstatWord kind index 0 false false mine occ).extractLsb' 46 10 = 0 ∧
    (mine = 0 → (qstatWord kind index 0 false false mine occ).extractLsb' 32 24 = 0) := by
  have hn := toNat_qstatWord (rels := 0) (relovf := false) (held := false) hk hi (by omega) hmine hocc
  simp only [Bool.toNat_false] at hn
  refine ⟨extractLsb'_eq_of_digits (show _ = 0 from ?_), fun h0 => extractLsb'_eq_of_digits (show _ = 0 from ?_)⟩
  · rw [hn]; omega
  · rw [hn]; omega

end

theorem qKind_lt (b : Word) : qKind b < 16 := (b.extractLsb' 0 4).isLt
theorem qIndex_lt (b : Word) : qIndex b < 16 := (b.extractLsb' 4 4).isLt

/-- Whether an idle port's head is held. -/
def State.headHeld (s : State) (core : Nat) (x : Port) : Bool := x.exec.isNone && (x.queue.head?.elim false (fun c => s.isHeld core x c))
theorem State.headHeld_none {s : State} {core : Nat} {x : Port} (h : x.exec ≠ none ∨ x.queue = []) : s.headHeld core x = false := by
  obtain h | h := h
  · simp [State.headHeld, h]
  · simp [State.headHeld, h]
theorem State.headHeld_head {s : State} {core : Nat} {x : Port} {c : Cmd} {cs : List Cmd} (hx : x.exec = none) (hq : x.queue = c :: cs)
    (hg : c.guard = none) (hd : c.dead = false) : s.headHeld core x = (c.hold && x.rels == 0) := by
  have hyes : s.guardOf core c = .yes := State.guardOf_none hd (by rw [State.guardSlot, hg]; rfl)
  simp [State.headHeld, hx, hq, State.isHeld, hyes]

section
variable (s : State) {b : Word}

theorem State.qstat_unbound (h : qKind b = 0) : s.qstat b = 0 := by rw [State.qstat]; simp only [h]
theorem State.qstat_results (h : qKind b = 2) :
    s.qstat b = qstatWord 2 (qIndex b) 0 false false 0 (Tab.get [] s.myCore.results (qIndex b)).length := by
  simp [State.qstat, qstatWord, h]
theorem State.qstat_statusPort (h : qKind b = 4) : s.qstat b = qstatWord 4 (qIndex b) 0 false false 0 s.w.statusPort.length := by
  simp [State.qstat, qstatWord, h]
theorem State.qstat_tasks (h : qKind b = 5) : s.qstat b =
    qstatWord 5 (qIndex b) 0 false false s.w.qids.length (s.taskq (qDie s.w.draw) (qQueue s.w.draw)).entries.length := by
  simp [State.qstat, qstatWord, h]
/-- Of another binding QSTAT reads a command port. -/
theorem State.qstat_port (h : qKind b ≠ 0 ∧ qKind b ≠ 2 ∧ qKind b ≠ 4 ∧ qKind b ≠ 5) {p : Nat} (hp : (s.portOf b).getD 0 = p) :
    s.qstat b = qstatWord (qKind b) (qIndex b) (s.myCore.port p).rels.toNat (s.myCore.port p).relovf
      (s.headHeld (coreOf s.cur) (s.myCore.port p)) ((s.myCore.port p).all.filter (fun c => c.mine (slotOf s.cur))).length
      (s.myCore.port p).all.length := by
  obtain ⟨h0, h2, h4, h5⟩ := h
  have hbit : ∀ (x : Bool) (n : Nat), (if x = true then n else 0) = x.toNat * n := fun x n => by cases x <;> simp
  rw [State.qstat, qstatWord, State.headHeld]
  split
  · next hk => exact absurd hk h0
  · next hk => exact absurd hk h2
  · next hk => exact absurd hk h4
  · next hk => exact absurd hk h5
  · dsimp only
    rw [hp, hbit, hbit]
    rfl

/-! #### The fields of R250, within the capacities of R238 -/

theorem State.qstat_results_fields (h : qKind b = 2) (hlen : (Tab.get [] s.myCore.results (qIndex b)).length ≤ 8) :
    ((s.qstat b).extractLsb' 0 21).toNat = (Tab.get [] s.myCore.results (qIndex b)).length ∧ (s.qstat b).extractLsb' 32 24 = 0 := by
  have hi := qIndex_lt b
  rw [s.qstat_results h]
  exact ⟨(qstatWord_counts (by omega) hi (by omega) (by omega) (by omega)).1, (qstatWord_plain (by omega) hi (by omega) (by omega)).2 rfl⟩
theorem State.qstat_statusPort_fields (h : qKind b = 4) (hlen : s.w.statusPort.length ≤ 16) :
    ((s.qstat b).extractLsb' 0 21).toNat = s.w.statusPort.length ∧ (s.qstat b).extractLsb' 32 24 = 0 := by
  have hi := qIndex_lt b
  rw [s.qstat_statusPort h]
  exact ⟨(qstatWord_counts (by omega) hi (by omega) (by omega) (by omega)).1, (qstatWord_plain (by omega) hi (by omega) (by omega)).2 rfl⟩
theorem State.qstat_tasks_fields (h : qKind b = 5) (hlen : (s.taskq (qDie s.w.draw) (qQueue s.w.draw)).entries.length ≤ 1048575)
    (hqids : s.w.qids.length ≤ 15) :
    ((s.qstat b).extractLsb' 0 21).toNat = (s.taskq (qDie s.w.draw) (qQueue s.w.draw)).entries.length ∧
      ((s.qstat b).extractLsb' 32 9).toNat = s.w.qids.length ∧ (s.qstat b).extractLsb' 46 10 = 0 := by
  have hi := qIndex_lt b
  rw [s.qstat_tasks h]
  obtain ⟨hocc, hmine⟩ := qstatWord_counts (relovf := false) (held := false) (kind := 5) (rels := 0) (by omega) hi (by omega)
    (show s.w.qids.length < 2 ^ 9 by omega) (show (s.taskq (qDie s.w.draw) (qQueue s.w.draw)).entries.length < 2 ^ 21 by omega)
  exact ⟨hocc, hmine, (qstatWord_plain (by omega) hi (by omega) (by omega)).1⟩

section
variable {p : Nat} (hp : (s.portOf b).getD 0 = p) (hlen : (s.myCore.port p).all.length ≤ 32)
include hp hlen

theorem State.qstat_port_fields (h : qKind b = 1 ∨ qKind b = 3) : (s.qstat b).extractLsb' 48 8 = (s.myCore.port p).rels ∧
    (s.qstat b).getLsbD 47 = (s.myCore.port p).relovf ∧ ((s.qstat b).extractLsb' 0 21).toNat = (s.myCore.port p).all.length ∧
    ((s.qstat b).extractLsb' 32 9).toNat = ((s.myCore.port p).all.filter (fun c => c.mine (slotOf s.cur))).length ∧
    (s.qstat b).getLsbD 46 = s.headHeld (coreOf s.cur) (s.myCore.port p) := by
  have hi := qIndex_lt b
  have hk := qKind_lt b
  have hle := (s.myCore.port p).all.length_filter_le (fun c => c.mine (slotOf s.cur))
  rw [s.qstat_port (by omega) hp]
  obtain ⟨hrels, hovf, hheld⟩ := qstatWord_port (relovf := (s.myCore.port p).relovf) (held := s.headHeld (coreOf s.cur) (s.myCore.port p))
    hk hi (s.myCore.port p).rels.isLt (lt_of_le_of_lt (hle.trans hlen) (by omega)) (lt_of_le_of_lt hlen (by omega))
  obtain ⟨hocc, hmine⟩ := qstatWord_counts (relovf := (s.myCore.port p).relovf) (held := s.headHeld (coreOf s.cur) (s.myCore.port p))
    hk hi (s.myCore.port p).rels.isLt (lt_of_le_of_lt (hle.trans hlen) (by omega)) (lt_of_le_of_lt hlen (by omega))
  exact ⟨BitVec.eq_of_toNat_eq hrels, hovf, hocc, hmine, hheld⟩
/-- The binding itself, and the fields that are always 0. -/
theorem State.qstat_binding (h0 : qKind b ≠ 0) (hres : (Tab.get [] s.myCore.results (qIndex b)).length ≤ 8)
    (hstat : s.w.statusPort.length ≤ 16) (htq : (s.taskq (qDie s.w.draw) (qQueue s.w.draw)).entries.length ≤ 1048575)
    (hqids : s.w.qids.length ≤ 15) : ((s.qstat b).extractLsb' 60 4).toNat = qKind b ∧ ((s.qstat b).extractLsb' 56 4).toNat = qIndex b ∧
      (s.qstat b).extractLsb' 21 11 = 0 ∧ (s.qstat b).extractLsb' 41 5 = 0 := by
  have hi := qIndex_lt b
  have hk := qKind_lt b
  by_cases h2 : qKind b = 2
  · rw [s.qstat_results h2, h2]
    exact qstatWord_binding (by omega) hi (by omega) (by omega) (by omega)
  by_cases h4 : qKind b = 4
  · rw [s.qstat_statusPort h4, h4]
    exact qstatWord_binding (by omega) hi (by omega) (by omega) (by omega)
  by_cases h5 : qKind b = 5
  · rw [s.qstat_tasks h5, h5]
    exact qstatWord_binding (by omega) hi (by omega) (by omega) (by omega)
  · have hle := (s.myCore.port p).all.length_filter_le (fun c => c.mine (slotOf s.cur))
    rw [s.qstat_port ⟨h0, h2, h4, h5⟩ hp]
    exact qstatWord_binding hk hi (s.myCore.port p).rels.isLt (by omega) (by omega)

end

end

end Sys2Proof.Machine
end

section
/-! ### Emptying a port (13_queue.md R246, R250) -/
namespace Sys2Proof.Machine

/-- From `s` to `t` only the ports of core `core`, which are `ports`, and warp `key`, which is `w`, differ, and what releases and barriers
leave in the package beside memory. -/
structure Drained (s t : State) (core key : Nat) (ports : Nat → Port) (w : Warp) : Prop where
  cur : t.cur = s.cur
  mem : t.mem = s.mem
  cores : ∀ j, j ≠ core → t.core j = s.core j
  ports : ∀ p, t.port core p = ports p
  warp : t.warp key = w
  warps : ∀ k, k ≠ key → t.warp k = s.warp k

/-- Commands that leave one after the other: what each does to a port and to the warp, where `Ok` allows the rest to follow. -/
theorem Drained.foldl {core key : Nat} {g : State → Cmd → State} {x : Nat → Port → Cmd → Port} {v : Warp → Cmd → Warp}
    {Ok : List Cmd → Warp → Prop}
    (hstep : ∀ s c cs, Ok (c :: cs) (s.warp key) → Drained s (g s c) core key (fun p => x p (s.port core p) c) (v (s.warp key) c))
    (hnext : ∀ c cs w, Ok (c :: cs) w → Ok cs (v w c)) (ds : List Cmd) (s : State) (h : Ok ds (s.warp key)) :
    Drained s (ds.foldl g s) core key (fun p => ds.foldl (x p) (s.port core p)) (ds.foldl v (s.warp key)) := by
  induction ds generalizing s with
  | nil => exact ⟨rfl, rfl, fun _ _ => rfl, fun _ => rfl, rfl, fun _ _ => rfl⟩
  | cons c cs ih =>
    have hone := hstep s c cs h
    have hrest := ih (g s c) (hone.warp ▸ hnext c cs _ h)
    refine ⟨hrest.cur.trans hone.cur, hrest.mem.trans hone.mem, fun j hj => (hrest.cores j hj).trans (hone.cores j hj), fun p => ?_, ?_,
      fun k hk => (hrest.warps k hk).trans (hone.warps k hk)⟩
    · exact (hrest.ports p).trans (by rw [hone.ports]; rfl)
    · exact hrest.warp.trans (by rw [hone.warp]; rfl)

/-! #### One command -/

/-- A queued command that a drain names leaves, or stays as discarded while there is no room for its status. -/
def State.drainOne (core port : Nat) (s : State) (c : Cmd) : State :=
  if s.statusRoom core c then
    (s.setPort core port { s.port core port with queue := (s.port core port).queue.filter (fun y => y.id != c.id) }).discard core c
  else
    (s.takeBytes core c).1.setPort core port { (s.takeBytes core c).1.port core port with
      queue := ((s.takeBytes core c).1.port core port).queue.map (fun y => if y.id = c.id then (s.takeBytes core c).2 else y) }
theorem State.discardQueued_eq (s : State) (core port : Nat) (f : Cmd → Bool) : s.discardQueued core port f =
    (((s.port core port).queue.filter (fun c => f c && !c.out)).foldl (State.drainOne core port) s).setCore core
      ((((s.port core port).queue.filter (fun c => f c && !c.out)).foldl (State.drainOne core port) s).core core).settle := by
  rw [List.foldl_filter]
  rfl

/-- Port `q` when a command of port `p` has left. -/
def Port.dropped (p q : Nat) (x : Port) (c : Cmd) : Port :=
  let y := if q = p then { x with queue := x.queue.filter (fun y => y.id != c.id) } else x
  if c.succ = some q then y.released else y
/-- A command that has been discarded and has not left. -/
def Cmd.marked (c : Cmd) : Cmd := { c with out := true }
/-- Port `q` when a command of port `p` has been discarded and stays. -/
def Port.marked (p q : Nat) (x : Port) (c : Cmd) : Port :=
  if q = p then { x with queue := x.queue.map (fun y => if y.id = c.id then c.marked else y) } else x

/-- The warp of a copy that leaves cancelled before it starts. -/
def Warp.cancelled (w : Warp) (c : Cmd) : Warp := { w.forget c.id with statusPort := w.statusPort ++ [((3 : DWord) <<< 62, c.tag)] }

theorem CmdLeft.drained {s t : State} {core port : Nat} {c : Cmd} {w : Warp} (h : CmdLeft (s.setPort core port { s.port core port with
    queue := (s.port core port).queue.filter (fun y => y.id != c.id) }) t core c w) :
    Drained s t core (core * 16 + c.slot) (fun q => (s.port core q).dropped port q c) w where
  cur := h.cur
  mem := h.mem
  cores j hj := by rw [h.cores, if_neg hj, State.core_setPort, if_neg hj]
  ports q := by
    rw [State.port, h.cores, if_pos rfl, Core.port_release]
    refine if_congr Iff.rfl (congrArg Port.released ?_) ?_
    all_goals
      refine (State.port_setPort _ _ _ _ _).trans ?_
      split
      · next hq => rw [hq]
      · rfl
  warp := h.warp
  warps := h.others

section
variable (s : State) (core port : Nat) {c : Cmd}

theorem State.drainOne_band (hd : c.dest = .none) (hb : c.ForBand) : Drained s (s.drainOne core port c) core (core * 16 + c.slot)
    (fun q => (s.port core q).dropped port q c) ((s.warp (core * 16 + c.slot)).without c) := by
  rw [State.drainOne, if_pos (by simp [State.statusRoom, hd])]
  exact CmdLeft.drained (State.discard_band _ core hb)

variable {q : CopyReq} (hd : c.dest = .port) (hg : c.gone = false) (hb : c.body = .copy q) (hbar : q.bar = none)
  (hr : (s.warp (core * 16 + c.slot)).stat = .ready)
include hd hg hb hbar hr

theorem State.drainOne_copy (hs : q.sched = none) (hovf : c.ovf = false)
    (hroom : (s.warp (core * 16 + c.slot)).statusPort.length < 16) : Drained s (s.drainOne core port c) core (core * 16 + c.slot)
    (fun q => (s.port core q).dropped port q c) ((s.warp (core * 16 + c.slot)).cancelled c) := by
  have hleft := CmdLeft.drained (State.discard_copy (s.setPort core port { s.port core port with
    queue := (s.port core port).queue.filter (fun y => y.id != c.id) }) core hb hs hg)
  have hnone : ∀ u : State, (u.bytesOut core c q).2 = false := fun u => by rw [State.bytesOut, hbar]
  have hport := Warp.deliver_port (s.warp (core * 16 + c.slot)) c.id c.tag ((3 : DWord) <<< 62) (by simp [hr]) (by simp [hr])
  rw [State.drainOne, if_pos (by simp [State.statusRoom, hd, hroom])]
  rw [hnone, hovf, Bool.or_false, copyStatus_cancelled, hd] at hleft
  rw [Warp.cancelled, ← hport]
  exact hleft
theorem State.drainOne_stays (hfull : 16 ≤ (s.warp (core * 16 + c.slot)).statusPort.length) : Drained s (s.drainOne core port c) core
    (core * 16 + c.slot) (fun q => (s.port core q).marked port q c) (s.warp (core * 16 + c.slot)) := by
  have htake : s.takeBytes core c = (s, c.marked) := by simp only [State.takeBytes, hb, hbar, Cmd.marked]
  rw [State.drainOne, if_neg (by simp [State.statusRoom, hd, hg, hr, hfull]), htake]
  have honly := OnlyCore.setCore s core ((s.core core).setPort port { s.port core port with
    queue := (s.port core port).queue.map (fun y => if y.id = c.id then c.marked else y) })
  refine ⟨rfl, rfl, honly.2, fun q => (State.port_setPort _ _ _ _ _).trans ?_, rfl, fun _ _ => rfl⟩
  rw [Port.marked]
  split
  · next hq => rw [hq]
  · rfl

end

/-! #### Several commands -/

section
variable (p q : Nat) (x : Port) (ds : List Cmd)

theorem Port.exec_dropped (c : Cmd) : (x.dropped p q c).exec = x.exec := by
  unfold Port.dropped
  dsimp only
  split <;> split <;> simp
theorem Port.queue_dropped (c : Cmd) : (x.dropped p q c).queue = if q = p then x.queue.filter (fun y => y.id != c.id) else x.queue := by
  unfold Port.dropped
  dsimp only
  split <;> split <;> simp
theorem Port.exec_foldl_dropped : (ds.foldl (Port.dropped p q) x).exec = x.exec := by
  induction ds generalizing x with
  | nil => rfl
  | cons c cs ih => rw [List.foldl_cons, ih, Port.exec_dropped]
theorem Port.queue_foldl_dropped : (ds.foldl (Port.dropped p q) x).queue =
    if q = p then x.queue.filter (fun y => ds.all (fun c => y.id != c.id)) else x.queue := by
  induction ds generalizing x with
  | nil => simp
  | cons c cs ih =>
    rw [List.foldl_cons, ih, Port.queue_dropped]
    split
    · rw [List.filter_filter]
      exact List.filter_congr fun y _ => by rw [List.all_cons, Bool.and_comm]
    · rfl

/-- Each successor that is this port is counted, up to 255 (R248). -/
theorem Port.toNat_rels_dropped (c : Cmd) : (x.dropped p q c).rels.toNat = min 255 (x.rels.toNat + (c.succ == some q).toNat) := by
  have hlt := x.rels.isLt
  have hq : ∀ y : Port, y = (if q = p then { x with queue := x.queue.filter (fun y => y.id != c.id) } else x) → y.rels = x.rels := by
    rintro y rfl
    split <;> rfl
  unfold Port.dropped
  dsimp only
  split
  · next h => rw [Port.toNat_released, hq _ rfl, h, beq_self_eq_true]; rfl
  · next h => rw [hq _ rfl, beq_eq_false_iff_ne.2 h, Bool.toNat_false]; omega
theorem Port.relovf_dropped (c : Cmd) : (x.dropped p q c).relovf = true ↔
    (x.relovf = true ∨ 255 < x.rels.toNat + (c.succ == some q).toNat) := by
  have hlt := x.rels.isLt
  have hq : ∀ y : Port, y = (if q = p then { x with queue := x.queue.filter (fun y => y.id != c.id) } else x) →
      y.rels = x.rels ∧ y.relovf = x.relovf := by
    rintro y rfl
    split <;> exact ⟨rfl, rfl⟩
  unfold Port.dropped
  dsimp only
  split
  · next h => rw [Port.relovf_released, (hq _ rfl).1, (hq _ rfl).2, h, beq_self_eq_true, Bool.or_eq_true, beq_iff_eq, Port.rels_eq_max]; rfl
  · next h =>
    rw [(hq _ rfl).2, beq_eq_false_iff_ne.2 h, Bool.toNat_false]
    exact ⟨.inl, fun h => h.resolve_right (by omega)⟩
theorem Port.rels_foldl_dropped : (ds.foldl (Port.dropped p q) x).rels.toNat =
      min 255 (x.rels.toNat + (ds.filter (fun c => c.succ == some q)).length) ∧
    ((ds.foldl (Port.dropped p q) x).relovf = true ↔
      x.relovf = true ∨ 255 < x.rels.toNat + (ds.filter (fun c => c.succ == some q)).length) := by
  have hlt := x.rels.isLt
  induction ds generalizing x with
  | nil => simp; omega
  | cons c cs ih =>
    have hcount : ((c :: cs).filter (fun c => c.succ == some q)).length =
        (c.succ == some q).toNat + (cs.filter (fun c => c.succ == some q)).length := by
      rw [List.filter_cons]
      cases c.succ == some q <;> simp [Nat.add_comm]
    obtain ⟨hrels, hovf⟩ := ih (x.dropped p q c) (x.dropped p q c).rels.isLt
    have hone := Bool.toNat_lt (c.succ == some q)
    rw [List.foldl_cons, hrels, hovf, Port.toNat_rels_dropped, Port.relovf_dropped, hcount]
    refine ⟨by omega, ?_⟩
    rw [or_assoc]
    exact or_congr Iff.rfl (by omega)

end

theorem Warp.foldl_without (w : Warp) (ds : List Cmd) :
    ds.foldl Warp.without w = { w with pending := w.pending.filter (fun r => ds.all (fun c => c.spares r)) } := by
  induction ds generalizing w with
  | nil => simp
  | cons c cs ih =>
    rw [List.foldl_cons, ih, Warp.without, List.filter_filter]
    simp only [List.all_cons, Bool.and_comm]
theorem Warp.foldl_cancelled (w : Warp) (ds : List Cmd) : ds.foldl Warp.cancelled w = { w with
    statusPort := w.statusPort ++ ds.map (fun c => ((3 : DWord) <<< 62, c.tag))
    openCopies := w.openCopies.filter (fun n => ds.all (fun c => n != c.id))
    batches := w.batches.map (fun e => (e.1, e.2.filter (fun n => ds.all (fun c => n != c.id)))) } := by
  induction ds generalizing w with
  | nil => simp
  | cons c cs ih =>
    rw [List.foldl_cons, ih, Warp.cancelled, Warp.forget]
    simp only [List.map_cons, List.append_assoc, List.singleton_append, List.filter_filter, List.map_map, Function.comp_def, List.all_cons,
      Bool.and_comm]

/-- Commands of the queue that a drain marks; commands of one number are one command. -/
theorem Port.foldl_marked (p : Nat) (ds : List Cmd) (x : Port)
    (h : ∀ y ∈ x.queue, ∀ c ∈ ds, y.id = c.id → y.marked = c.marked) : ds.foldl (Port.marked p p) x =
      { x with queue := x.queue.map (fun y => if ds.any (fun c => y.id == c.id) = true then y.marked else y) } := by
  induction ds generalizing x with
  | nil => simp
  | cons c cs ih =>
    rw [List.foldl_cons, ih]
    · rw [Port.marked, if_pos rfl]
      simp only [List.map_map, Port.mk.injEq, and_true]
      refine List.map_congr_left fun y hy => ?_
      by_cases hc : y.id = c.id
      · have hmarked : c.marked.marked = y.marked := (h y hy c List.mem_cons_self hc).symm
        simp [hc, hmarked, h y hy c List.mem_cons_self hc]
      · simp [hc]
    · intro z hz d hd hzd
      rw [Port.marked, if_pos rfl] at hz
      obtain ⟨y, hy, rfl⟩ := List.mem_map.1 hz
      by_cases hc : y.id = c.id
      · simp only [hc, if_true] at hzd ⊢
        exact (h y hy c List.mem_cons_self hc).symm.trans (h y hy d (List.mem_cons_of_mem _ hd) (hc.trans hzd))
      · rw [if_neg hc] at hzd ⊢
        exact h y hy d (List.mem_cons_of_mem _ hd) hzd
theorem Port.foldl_marked_ne {p q : Nat} (h : q ≠ p) (ds : List Cmd) (x : Port) : ds.foldl (Port.marked p q) x = x := by
  induction ds generalizing x with
  | nil => rfl
  | cons c cs ih => rw [List.foldl_cons, ih, Port.marked, if_neg h]

end Sys2Proof.Machine
end

section
/-! ### QDRAIN (13_queue.md R250) -/
namespace Sys2Proof.Machine

section
variable {s : State} {i : HA}

theorem warpStep_qdrain_idle (h : s.w.parts i.h = 0) : WarpStep (exec (.qdrain i) s) s s.w (s.w.pc + BitVec.ofNat 64 8) i.h.sw := by
  rw [exec_qdrain, execQdrain, if_pos h]
  exact warpStep_retire s 8 i.h.sw

variable (hm : s.w.parts i.h ≠ 0)
include hm

theorem trapsWith_qdrain (hk : qKind (s.w.q i.a.toNat) = 0 ∨ qKind (s.w.q i.a.toNat) = 5) :
    TrapsWith (exec (.qdrain i) s) s 0x1D0 (s.w.parts i.h) := by
  rw [exec_qdrain, execQdrain, if_neg hm, if_pos hk]
  exact trapsWith_precise _ _ _ _
theorem exec_qdrain_drains (hk : qKind (s.w.q i.a.toNat) ≠ 0 ∧ qKind (s.w.q i.a.toNat) ≠ 5) :
    exec (.qdrain i) s = .next ((s.drain (s.w.q i.a.toNat)).retire 8 i.h.sw) := by
  rw [exec_qdrain, execQdrain, if_neg hm, if_neg (by tauto)]
theorem coreStep_qdrain_results (hk : qKind (s.w.q i.a.toNat) = 2) : CoreStep (exec (.qdrain i) s) s s.w 8 i.h.sw (fun c =>
    { c with results := s.myCore.results } = s.myCore ∧ ∀ n, Tab.get [] c.results n =
      if n = qIndex (s.w.q i.a.toNat) then [] else Tab.get [] s.myCore.results n) := by
  have hport : s.portOf (s.w.q i.a.toNat) = none := by simp [State.portOf, hk]
  rw [exec_qdrain_drains hm (by omega), State.drain, hport]
  simp only [hk, if_true]
  exact CoreStep.retire s _ 8 ⟨rfl, fun n => Tab.get_set [] s.myCore.results _ n []⟩ i.h.sw
theorem warpStep_qdrain_statusPort (hk : qKind (s.w.q i.a.toNat) = 4) :
    WarpStep (exec (.qdrain i) s) s { s.w with statusPort := [] } (s.w.pc + BitVec.ofNat 64 8) i.h.sw := by
  have hport : s.portOf (s.w.q i.a.toNat) = none := by simp [State.portOf, hk]
  have hw : (s.upd (fun w => { w with statusPort := [] })).w = { s.w with statusPort := [] } := State.w_upd _ _
  rw [exec_qdrain_drains hm (by omega), State.drain, hport]
  simp only [hk, Nat.reduceEqDiff, if_false]
  refine ⟨_, rfl, (OnlyWarp.upd _ _).trans (OnlyWarp.upd _ _), ?_, ?_⟩
  · rw [State.retire, State.w_upd, Warp.body_retire, hw]
  · rw [State.retire, State.w_upd, hw]
    exact Warp.at_retire _ _ _

end

/-! #### A command port -/

/-- The queued commands of the executing warp that stand on one of its core's ports. -/
def State.ownQueued (s : State) (p : Nat) : List Cmd := (s.myCore.port p).queue.filter (fun c => c.mine (slotOf s.cur))

/-- A drained core settles, and RELOVF of port `p` is cleared. -/
theorem Drained.cleared {s t : State} {core key : Nat} {ports : Nat → Port} {w : Warp} (h : Drained s t core key ports w) (p : Nat) :
    Drained s ((t.setCore core (t.core core).settle).setPort core p
        { (t.setCore core (t.core core).settle).port core p with relovf := false }) core key
      (fun q => if q = p then { ports p with relovf := false } else ports q) w := by
  have hsettled : ∀ q, (t.setCore core (t.core core).settle).port core q = ports q := fun q => by
    rw [State.port, State.core_setCore, if_pos rfl, Core.port_settle]
    exact h.ports q
  have honly := (OnlyCore.setCore t core (t.core core).settle).trans (OnlyCore.setCore _ core
    (((t.setCore core (t.core core).settle).core core).setPort p
      { (t.setCore core (t.core core).settle).port core p with relovf := false }))
  exact ⟨honly.cur.trans h.cur, honly.mem.trans h.mem, fun j hj => (honly.2 j hj).trans (h.cores j hj), fun q => by
    rw [State.port_setPort, hsettled, hsettled], (honly.warp key).trans h.warp, fun k hk => (honly.warp k).trans (h.warps k hk)⟩
/-- The executing warp then retires as `w`. -/
theorem Drained.coreStep {s t : State} {ports : Nat → Port} {w : Warp} (h : Drained s t (coreOf s.cur) s.cur ports w) (hpc : w.pc = s.w.pc)
    (sw : Bool) {P : Core → Prop} (hP : ∀ c : Core, (∀ q, c.port q = ports q) → P c) : CoreStep (.next (t.retire 8 sw)) s w 8 sw P := by
  have hw : (t.retire 8 sw).w = w.retire 8 sw := by rw [State.retire, State.w_upd, State.w, h.cur, h.warp]
  refine ⟨_, rfl, fun k hk => (State.warp_upd_ne t _ k (h.cur ▸ hk)).trans (h.warps k hk), ?_, ?_, h.mem, h.cores, hP _ h.ports⟩
  · rw [hw, Warp.body_retire]
  · rw [hw, ← hpc]
    exact Warp.at_retire _ _ _

section
variable {s : State} {b : Word} {p : Nat} (hp : s.portOf b = some p)
include hp

/-- A command port is drained command by command, where none of the warp's commands has been discarded before. -/
theorem State.drain_port (ho : ∀ c ∈ s.ownQueued p, c.out = false) : s.drain b =
    ((((s.ownQueued p).foldl (State.drainOne (coreOf s.cur) p) s).setCore (coreOf s.cur)
      (((s.ownQueued p).foldl (State.drainOne (coreOf s.cur) p) s).core (coreOf s.cur)).settle).setPort (coreOf s.cur) p
      { (((s.ownQueued p).foldl (State.drainOne (coreOf s.cur) p) s).setCore (coreOf s.cur)
        (((s.ownQueued p).foldl (State.drainOne (coreOf s.cur) p) s).core (coreOf s.cur)).settle).port (coreOf s.cur) p with
        relovf := false }) := by
  have hall : (s.port (coreOf s.cur) p).queue.filter (fun c => c.mine (slotOf s.cur) && !c.out) = s.ownQueued p := by
    rw [← List.filter_filter, List.filter_comm]
    exact List.filter_eq_self.2 fun c hc => by simp [ho c hc]
  simp only [State.drain, hp]
  rw [State.discardQueued_eq, hall]
theorem CoreStep.drain {ports : Nat → Port} {w : Warp} {sw : Bool} {P : Core → Prop} (ho : ∀ c ∈ s.ownQueued p, c.out = false)
    (h : Drained s ((s.ownQueued p).foldl (State.drainOne (coreOf s.cur) p) s) (coreOf s.cur) s.cur ports w) (hpc : w.pc = s.w.pc)
    (hP : ∀ c : Core, (∀ q, c.port q = if q = p then { ports p with relovf := false } else ports q) → P c) :
    CoreStep (.next ((s.drain b).retire 8 sw)) s w 8 sw P := by
  rw [State.drain_port hp ho]
  exact (h.cleared p).coreStep hpc sw hP

end

/-! #### What a drain leaves in the port -/

/-- Releases of the commands `ds` that have left port `p` (R248); RELOVF of `p` itself is 0. -/
def Core.Released (core c : Core) (p : Nat) (ds : List Cmd) : Prop := ∀ x,
  (c.port x).rels.toNat = min 255 ((core.port x).rels.toNat + (ds.filter (fun y => y.succ == some x)).length) ∧
  ((c.port x).relovf = true ↔ x ≠ p ∧
    ((core.port x).relovf = true ∨ 255 < (core.port x).rels.toNat + (ds.filter (fun y => y.succ == some x)).length))

/-- Of commands with different numbers one has the number of a command that `f` picks if `f` picks it. -/
theorem any_id_filter {l : List Cmd} (h : (l.map (fun c => c.id)).Nodup) (f : Cmd → Bool) {y : Cmd} (hy : y ∈ l) :
    (l.filter f).any (fun c => y.id == c.id) = f y := by
  rw [Bool.eq_iff_iff, List.any_eq_true]
  constructor
  · rintro ⟨c, hc, hid⟩
    obtain ⟨hmem, hf⟩ := List.mem_filter.1 hc
    rwa [List.inj_on_of_nodup_map h hy hmem (beq_iff_eq.1 hid)]
  · exact fun hf => ⟨y, List.mem_filter.2 ⟨hy, hf⟩, beq_self_eq_true _⟩

section
variable {core c : Core} {p : Nat} {f : Cmd → Bool} (hid : ((core.port p).queue.map (fun c => c.id)).Nodup)
include hid

theorem Core.drained_dropped (h : ∀ q, c.port q = if q = p
    then { ((core.port p).queue.filter f).foldl (Port.dropped p p) (core.port p) with relovf := false }
    else ((core.port p).queue.filter f).foldl (Port.dropped p q) (core.port q)) :
    (c.port p).queue = (core.port p).queue.filter (fun c => !f c) ∧ (c.port p).exec = (core.port p).exec ∧
      core.Released c p ((core.port p).queue.filter f) := by
  refine ⟨?_, ?_, fun q => ?_⟩
  · rw [h, if_pos rfl]
    refine (Port.queue_foldl_dropped p p _ _).trans ((if_pos rfl).trans (List.filter_congr fun y hy => ?_))
    rw [← any_id_filter hid f hy, List.not_any_eq_all_not]
    rfl
  · rw [h, if_pos rfl]
    exact Port.exec_foldl_dropped p p _ _
  · obtain ⟨hrels, hovf⟩ := Port.rels_foldl_dropped p q (core.port q) ((core.port p).queue.filter f)
    rw [h]
    by_cases hq : q = p
    · subst hq
      rw [if_pos rfl]
      exact ⟨hrels, by simp⟩
    · rw [if_neg hq]
      exact ⟨hrels, hovf.trans (by simp [hq])⟩
theorem Core.drained_marked (h : ∀ q, c.port q = if q = p
    then { ((core.port p).queue.filter f).foldl (Port.marked p p) (core.port p) with relovf := false }
    else ((core.port p).queue.filter f).foldl (Port.marked p q) (core.port q)) :
    (c.port p).queue = (core.port p).queue.map (fun c => if f c = true then c.marked else c) ∧ (c.port p).exec = (core.port p).exec ∧
      core.Released c p [] := by
  have hmarked := Port.foldl_marked p ((core.port p).queue.filter f) (core.port p) fun y hy d hd hyd => by
    rw [List.inj_on_of_nodup_map hid hy (List.mem_filter.1 hd).1 hyd]
  have hrels : ∀ q, (core.port q).rels.toNat = min 255 ((core.port q).rels.toNat + 0) := fun q => by
    have := (core.port q).rels.isLt
    omega
  have hmax : ∀ q, ¬255 < (core.port q).rels.toNat + 0 := fun q => by
    have := (core.port q).rels.isLt
    omega
  refine ⟨?_, ?_, fun q => ?_⟩
  · rw [h, if_pos rfl, hmarked]
    exact List.map_congr_left fun y hy => by rw [any_id_filter hid f hy]
  · rw [h, if_pos rfl, hmarked]
  · rw [h]
    by_cases hq : q = p
    · subst hq
      rw [if_pos rfl, hmarked]
      exact ⟨hrels q, by simp⟩
    · rw [if_neg hq, Port.foldl_marked_ne hq]
      exact ⟨hrels q, ⟨fun h => ⟨hq, .inl h⟩, fun h => h.2.resolve_right (hmax q)⟩⟩

end

/-! #### Which commands leave -/

theorem Cmd.slot_of_mine {c : Cmd} {k : Nat} (h : c.mine k = true) : c.slot = k := by
  rw [Cmd.mine, Bool.and_eq_true, Bool.and_eq_true, beq_iff_eq] at h
  exact h.1.1
theorem Cmd.gone_of_mine {c : Cmd} {k : Nat} (h : c.mine k = true) : c.gone = false := by
  rw [Cmd.mine, Bool.and_eq_true, Bool.and_eq_true, Bool.not_eq_true'] at h
  exact h.1.2
theorem Cmd.sched_of_mine {c : Cmd} {k : Nat} (h : c.mine k = true) {q : CopyReq} (hb : c.body = .copy q) : q.sched = none := by
  rw [Cmd.mine, Bool.and_eq_true, hb] at h
  exact Option.isNone_iff_eq_none.1 h.2
/-- The warp of a command of the executing warp. -/
theorem State.key_of_ownQueued {s : State} {p : Nat} {c : Cmd} (h : c ∈ s.ownQueued p) : coreOf s.cur * 16 + c.slot = s.cur := by
  rw [Cmd.slot_of_mine (List.mem_filter.1 h).2, coreOf, slotOf]
  omega

/-- A pushed copy of a warp, attached to no barrier, that has not been discarded. -/
def Cmd.Pushed (c : Cmd) : Prop := c.dest = .port ∧ c.gone = false ∧ c.ovf = false ∧ ∃ q, c.body = .copy q ∧ q.bar = none ∧ q.sched = none

theorem State.pushed_ownQueued (s : State) {p : Nat}
    (h : ∀ c ∈ s.ownQueued p, c.dest = .port ∧ c.out = false ∧ c.ovf = false ∧ ∃ r, c.body = .copy r ∧ r.bar = none) {c : Cmd}
    (hc : c ∈ s.ownQueued p) : c.Pushed := by
  obtain ⟨hd, -, hovf, q, hb, hbar⟩ := h c hc
  have hmine := (List.mem_filter.1 hc).2
  exact ⟨hd, Cmd.gone_of_mine hmine, hovf, q, hb, hbar, Cmd.sched_of_mine hmine hb⟩

section
variable (s : State) (core port key : Nat) (ds : List Cmd) (hkey : ∀ c ∈ ds, core * 16 + c.slot = key)
include hkey

theorem State.drained_bands (h : ∀ c ∈ ds, c.dest = .none ∧ c.ForBand) : Drained s (ds.foldl (State.drainOne core port) s) core key
    (fun q => ds.foldl (Port.dropped port q) (s.port core q)) (ds.foldl Warp.without (s.warp key)) := by
  refine Drained.foldl (Ok := fun cs _ => ∀ c ∈ cs, core * 16 + c.slot = key ∧ c.dest = .none ∧ c.ForBand) (fun s c cs hok => ?_)
    (fun c cs w hok d hd => hok d (List.mem_cons_of_mem _ hd)) ds s fun c hc => ⟨hkey c hc, h c hc⟩
  obtain ⟨rfl, hd, hb⟩ := hok c List.mem_cons_self
  exact s.drainOne_band core port hd hb

variable (h : ∀ c ∈ ds, c.Pushed) (hr : (s.warp key).stat = .ready)
include h hr

theorem State.drained_copies (hroom : (s.warp key).statusPort.length + ds.length ≤ 16) :
    Drained s (ds.foldl (State.drainOne core port) s) core key (fun q => ds.foldl (Port.dropped port q) (s.port core q))
      (ds.foldl Warp.cancelled (s.warp key)) := by
  refine Drained.foldl (Ok := fun cs w => w.stat = .ready ∧ w.statusPort.length + cs.length ≤ 16 ∧
    ∀ c ∈ cs, core * 16 + c.slot = key ∧ c.Pushed) (fun s c cs hok => ?_) (fun c cs w hok => ?_) ds s
    ⟨hr, hroom, fun c hc => ⟨hkey c hc, h c hc⟩⟩
  · obtain ⟨hr, hroom, hall⟩ := hok
    obtain ⟨rfl, hd, hg, hovf, q, hb, hbar, hs⟩ := hall c List.mem_cons_self
    rw [List.length_cons] at hroom
    exact s.drainOne_copy core port hd hg hb hbar hr hs hovf (by omega)
  · obtain ⟨hr, hroom, hall⟩ := hok
    refine ⟨hr, ?_, fun d hd => hall d (List.mem_cons_of_mem _ hd)⟩
    simp only [Warp.cancelled, List.length_append, List.length_cons, List.length_nil] at hroom ⊢
    omega
theorem State.drained_stays (hfull : 16 ≤ (s.warp key).statusPort.length) :
    Drained s (ds.foldl (State.drainOne core port) s) core key (fun q => ds.foldl (Port.marked port q) (s.port core q)) (s.warp key) := by
  have hid : ∀ w : Warp, ds.foldl (fun w _ => w) w = w := fun _ => List.foldl_fixed ds
  have hall := Drained.foldl (v := fun w _ => w) (x := fun q => Port.marked port q) (g := State.drainOne core port) (core := core)
    (Ok := fun cs w => w.stat = .ready ∧ 16 ≤ w.statusPort.length ∧ ∀ c ∈ cs, core * 16 + c.slot = key ∧ c.Pushed)
    (fun s c cs hok => ?_) (fun c cs w hok => ⟨hok.1, hok.2.1, fun d hd => hok.2.2 d (List.mem_cons_of_mem _ hd)⟩) ds s
    ⟨hr, hfull, fun c hc => ⟨hkey c hc, h c hc⟩⟩
  · rwa [hid] at hall
  · obtain ⟨hr, hfull, hall⟩ := hok
    obtain ⟨rfl, hd, hg, hovf, q, hb, hbar, hs⟩ := hall c List.mem_cons_self
    exact s.drainOne_stays core port hd hg hb hbar hr hfull

end

section
variable {s : State} {i : HA} (hm : s.w.parts i.h ≠ 0) {p : Nat} (hid : ((s.myCore.port p).queue.map (fun c => c.id)).Nodup)
include hm hid

/-- QDRAIN of a band's command port. -/
theorem coreStep_qdrain_band (hk : qKind (s.w.q i.a.toNat) = 1) (hp : qIndex (s.w.q i.a.toNat) = p)
    (h : ∀ c ∈ s.ownQueued p, c.dest = .none ∧ c.out = false ∧ c.ForBand) :
    CoreStep (exec (.qdrain i) s) s ((s.ownQueued p).foldl Warp.without s.w) 8 i.h.sw (fun c =>
      (c.port p).queue = (s.myCore.port p).queue.filter (fun c => !c.mine (slotOf s.cur)) ∧ (c.port p).exec = (s.myCore.port p).exec ∧
      s.myCore.Released c p (s.ownQueued p)) := by
  have hport : s.portOf (s.w.q i.a.toNat) = some p := (if_pos hk).trans (congrArg some hp)
  have hd := s.drained_bands (coreOf s.cur) p s.cur (s.ownQueued p) (fun c => State.key_of_ownQueued) fun c hc => ⟨(h c hc).1, (h c hc).2.2⟩
  have hpc : ((s.ownQueued p).foldl Warp.without s.w).pc = s.w.pc := by rw [Warp.foldl_without]
  rw [exec_qdrain_drains hm (by omega)]
  exact CoreStep.drain hport (fun c hc => (h c hc).2.1) hd hpc fun c => Core.drained_dropped hid

variable (hk : qKind (s.w.q i.a.toNat) = 3) (hp : s.copyPort = p) (hr : s.w.stat = .ready)
  (h : ∀ c ∈ s.ownQueued p, c.dest = .port ∧ c.out = false ∧ c.ovf = false ∧ ∃ r, c.body = .copy r ∧ r.bar = none)
include hk hp hr h

/-- QDRAIN of the copy command port, with room for every status. -/
theorem coreStep_qdrain_copies (hroom : s.w.statusPort.length + (s.ownQueued p).length ≤ 16) :
    CoreStep (exec (.qdrain i) s) s ((s.ownQueued p).foldl Warp.cancelled s.w) 8 i.h.sw (fun c =>
      (c.port p).queue = (s.myCore.port p).queue.filter (fun c => !c.mine (slotOf s.cur)) ∧ (c.port p).exec = (s.myCore.port p).exec ∧
      s.myCore.Released c p (s.ownQueued p)) := by
  have hport : s.portOf (s.w.q i.a.toNat) = some p := (if_neg (by omega)).trans ((if_pos hk).trans (congrArg some hp))
  have hd := s.drained_copies (coreOf s.cur) p s.cur (s.ownQueued p) (fun c => State.key_of_ownQueued) (fun c => s.pushed_ownQueued h) hr hroom
  have hpc : ((s.ownQueued p).foldl Warp.cancelled s.w).pc = s.w.pc := by rw [Warp.foldl_cancelled]
  rw [exec_qdrain_drains hm (by omega)]
  exact CoreStep.drain hport (fun c hc => (h c hc).2.1) hd hpc fun c => Core.drained_dropped hid
/-- QDRAIN of the copy command port while the status port is full. -/
theorem coreStep_qdrain_full (hfull : 16 ≤ s.w.statusPort.length) : CoreStep (exec (.qdrain i) s) s s.w 8 i.h.sw (fun c =>
    (c.port p).queue = (s.myCore.port p).queue.map (fun c => if c.mine (slotOf s.cur) = true then c.marked else c) ∧
    (c.port p).exec = (s.myCore.port p).exec ∧ s.myCore.Released c p []) := by
  have hport : s.portOf (s.w.q i.a.toNat) = some p := (if_neg (by omega)).trans ((if_pos hk).trans (congrArg some hp))
  have hd := s.drained_stays (coreOf s.cur) p s.cur (s.ownQueued p) (fun c => State.key_of_ownQueued) (fun c => s.pushed_ownQueued h) hr hfull
  rw [exec_qdrain_drains hm (by omega)]
  exact CoreStep.drain hport (fun c hc => (h c hc).2.1) hd rfl fun c => Core.drained_marked hid

end

end Sys2Proof.Machine
end

section
open Sys2Proof Sys2Proof.Machine
/-- Settles O40: bindings and guards are read off `Warp.q_bind`, `Warp.draw_bind` and `Warp.guards_resolve`, the fields of QSTAT off
`qstatWord`; a drain takes the warp's commands out one after the other (`Drained.foldl`), each as O41 has one leave. -/
theorem queueControlInstructionsComplete : Obligations.QueueControlInstructionsComplete := by
  unfold Obligations.QueueControlInstructionsComplete
  intro s kind index q core copyPort holds slot
  refine ⟨fun i => ⟨warpStep_qbind, fun hm => ⟨fun hk hb => ?_, fun hk ho => ?_, fun hb ho => ?_⟩⟩, fun i => ?_,
    fun i => ⟨warpStep_qdrain_idle, fun hm => ⟨trapsWith_qdrain hm, coreStep_qdrain_results hm, warpStep_qdrain_statusPort hm, ?_⟩⟩, ?_⟩
  · exact trapsWith_qbind_band hm hk (mt (s.holdsBand_iff _).1 hb)
  · exact trapsWith_qbind_queue hm hk (mt (TaskQueue.openTo_iff _ _).1 ho)
  · rw [exec_qbind_binds hm (fun h => (s.holdsBand_iff _).2 (hb h)) fun h => (TaskQueue.openTo_iff _ _).2 (ho h)]
    have hw := State.w_upd s (fun w => (w.bind i.d.toNat i.imm).retire 12 i.h.sw)
    have hpc : (s.w.bind i.d.toNat i.imm).pc = s.w.pc := (congrArg Warp.pc (s.w.bind_rest _ _) :)
    refine ⟨_, rfl, OnlyWarp.upd _ _, ?_, ?_, fun n => ?_, ?_⟩
    · rw [hw]
      exact (congrArg (fun v : Warp => { v with qbind := s.w.qbind, draw := s.w.draw }) (Warp.body_retire _ 12 i.h.sw)).trans
        (congrArg Warp.body (s.w.bind_rest _ _))
    · rw [hw, ← hpc]
      exact Warp.at_retire _ 12 _
    · rw [hw]
      simp only [q, Warp.retire_qbind]
      exact s.w.q_bind _ _ n
    · rw [hw, Warp.retire_draw]
      exact s.w.draw_bind _ _
  · intro b k p tq work hwork hres hstat htq hqids
    rw [exec_qstat, execQstat]
    have hp : (s.portOf b).getD 0 = p := by
      rw [State.portOf, apply_ite (fun o : Option Nat => o.getD 0), apply_ite (fun o : Option Nat => o.getD 0)]
      rfl
    refine scalarResult_putS s i.h i.d 8 _ _ fun _ => ⟨s.qstat_unbound, fun hk => s.qstat_binding hp hwork hk hres hstat htq hqids,
      fun hk => s.qstat_results_fields hk hres, fun hk => s.qstat_statusPort_fields hk hstat,
      fun hk => s.qstat_tasks_fields hk htq hqids, fun hk => ?_⟩
    obtain ⟨hrels, hovf, hocc, hmine, hheld⟩ := s.qstat_port_fields hp hwork hk
    exact ⟨hrels, hovf, hocc, hmine, fun h => hheld.trans (State.headHeld_none h), fun c cs hx hq hg hd =>
      hheld.trans (State.headHeld_head hx hq hg hd)⟩
  · intro released
    refine ⟨fun hk hi hid hok => ?_, fun hk hr hid hok => ⟨fun hroom => ?_, fun hfull => ?_⟩⟩
    · have hstep := coreStep_qdrain_band hm hid hk rfl hok
      rw [Warp.foldl_without] at hstep
      exact hstep
    · have hstep := coreStep_qdrain_copies hm hid hk rfl hr hok hroom
      rw [Warp.foldl_cancelled] at hstep
      exact hstep
    · exact coreStep_qdrain_full hm hid hk rfl hr hok hfull
  · intro guard
    have hset : ∀ (h : Hdr) (d : RegNo) (v : BitVec 2), guard (s.guardSet h d v) h d v := fun h d v => by
      have hw := State.w_upd s (fun w => (w.resolve h d.toNat v).retire 8 h.sw)
      have hpc : (s.w.resolve h d.toNat v).pc = s.w.pc := (congrArg Warp.pc (s.w.resolve_rest _ _ _) :)
      rw [State.guardSet_eq]
      refine ⟨_, rfl, OnlyWarp.upd _ _, ?_, ?_, fun n => ?_⟩
      · rw [hw]
        exact (congrArg (fun v : Warp => { v with guards := s.w.guards }) (Warp.body_retire _ 8 h.sw)).trans
          (congrArg Warp.body (s.w.resolve_rest _ _ _))
      · rw [hw, ← hpc]
        exact Warp.at_retire _ 8 _
      · rw [hw, Warp.retire_guards]
        exact s.w.guards_resolve h d.toNat v n
    exact ⟨fun i => (exec_gset i s).symm ▸ hset i.h i.d 1, fun i => (exec_gclr i s).symm ▸ hset i.h i.d _⟩
end

section
/-! ### TKPUT, TKGET and TKDONE (13_queue.md R252, R253) -/
namespace Sys2Proof.Machine

theorem exec_tkput (i : TkPut) (s : State) : exec (.tkput i) s = execTkput i s := rfl
theorem exec_tkget (i : HD) (s : State) : exec (.tkget i) s = execTkget i s := rfl
theorem exec_tkdone (i : HA) (s : State) : exec (.tkdone i) s = execTkdone i s := rfl

/-- The low 16 bits of a header replaced. -/
theorem replace_low16 (x : DWord) (y : BitVec 16) : (x &&& ~~~(0xFFFF : DWord)) ||| y.setWidth 64 = x.extractLsb' 16 48 ++ y := by
  have hmask : ∀ k < 64, (~~~(0xFFFF : DWord)).getLsbD k = !decide (k < 16) := by decide
  refine BitVec.eq_of_getLsbD_eq fun k hk => ?_
  have happ : (x.extractLsb' 16 48 ++ y).getLsbD k = if k < 16 then y.getLsbD k else (x.extractLsb' 16 48).getLsbD (k - 16) :=
    BitVec.getLsbD_append
  refine Eq.trans ?_ happ.symm
  rw [BitVec.getLsbD_or, BitVec.getLsbD_and, hmask k hk, BitVec.getLsbD_setWidth]
  by_cases h : k < 16
  · simp [h, hk]
  · have hlow : k - 16 < 48 := by omega
    simp [h, hk, hlow, Nat.add_sub_cancel' (Nat.le_of_not_lt h), BitVec.getLsbD_of_ge y k (by omega)]
theorem clear_low16 (x : DWord) : x &&& ~~~(0xFFFF : DWord) = x.extractLsb' 16 48 ++ (0 : BitVec 16) := by
  rw [← replace_low16]
  exact (BitVec.or_zero).symm
/-- A queue's QID in the header of its entry (R252). -/
theorem setWidth_qidOf {d n : Nat} (hd : d < 4) (hn : n < 64) : (qidOf d n).setWidth 64 = (BitVec.ofNat 16 (d * 64 + n)).setWidth 64 := by
  refine BitVec.eq_of_toNat_eq ?_
  rw [qidOf, BitVec.toNat_setWidth, BitVec.toNat_setWidth, BitVec.toNat_ofNat, BitVec.toNat_ofNat]
  omega

/-- Memory, cores and the other warps as before; of the task queues only queue `n` of die `d`, which is `q`, differs. -/
def QueueMoves (s t : State) (d n : Nat) (q : TaskQueue) : Prop :=
  t.mem = s.mem ∧ t.cores = s.cores ∧ (∀ k, k ≠ s.cur → t.warp k = s.warp k) ∧ t.taskq d n = q ∧
    ∀ e m, ¬(e = d ∧ m = n) → t.taskq e m = s.taskq e m
theorem QueueMoves.setTaskq (s : State) (d n : Nat) (q : TaskQueue) : QueueMoves s (s.setTaskq d n q) d n q :=
  ⟨rfl, rfl, fun _ _ => rfl, (s.taskq_setTaskq d n d n q).trans (if_pos ⟨rfl, rfl⟩), fun e m h =>
    (s.taskq_setTaskq d n e m q).trans (if_neg h)⟩
/-- A change of the executing warp moves no queue further. -/
theorem QueueMoves.upd {s t : State} {d n : Nat} {q : TaskQueue} (h : QueueMoves s t d n q) (hcur : t.cur = s.cur) (f : Warp → Warp) :
    QueueMoves s (t.upd f) d n q := by
  obtain ⟨hmem, hcores, hwarps, hown, hothers⟩ := h
  exact ⟨hmem, hcores, fun k hk => (State.warp_upd_ne t f k (hcur ▸ hk)).trans (hwarps k hk), hown, hothers⟩

/-- A wait at the instruction. -/
theorem State.park_waits (s : State) (r : Nat) : ∃ t, Host.Outcome.next (s.park r) = (.next t : Out) ∧ OnlyWarp s t ∧ t.w.stat = .parked ∧
    t.w.reason = r ∧ t.w.pc = s.w.pc ∧ t.w.sregs = s.w.sregs ∧ t.w.pending = s.w.pending := by
  obtain ⟨hbody, hstat, hreason, hpc⟩ := s.park_stands r
  exact ⟨_, rfl, OnlyWarp.upd _ _, hstat, hreason, hpc, (congrArg Warp.sregs hbody :), (congrArg Warp.pending hbody :)⟩

/-! #### TKPUT -/

/-- A dimension or a register count beyond its bound (R253). -/
def TaskBig (x : DWord) : Prop := 256 < (x.extractLsb' 16 9).toNat ∨ 256 < (x.extractLsb' 32 16).toNat ∨ 32 < (x.extractLsb' 48 8).toNat

section
variable {x : DWord}

theorem reserved_iff : field x 25 7 ≠ 0 ↔ x.extractLsb' 25 7 ≠ 0 := by
  rw [field_eq, Ne, Ne, ← BitVec.toNat_inj]
  rfl
theorem taskStatus_reserved (h : x.extractLsb' 25 7 ≠ 0) : taskStatus x = 2 := if_pos (reserved_iff.2 h)
theorem taskStatus_big (h : x.extractLsb' 25 7 = 0) (hb : TaskBig x) : taskStatus x = 1 := by
  rw [taskStatus, if_neg (mt reserved_iff.1 (not_not.2 h)), field_eq, field_eq, field_eq]
  exact if_pos hb
theorem taskStatus_good (h : x.extractLsb' 25 7 = 0) (hb : ¬TaskBig x) : taskStatus x = 0 := by
  rw [taskStatus, if_neg (mt reserved_iff.1 (not_not.2 h)), field_eq, field_eq, field_eq]
  exact if_neg hb

end

section
variable {s : State} {i : TkPut}

theorem warpStep_tkput (h : s.w.parts i.h = 0) : WarpStep (exec (.tkput i) s) s s.w (s.w.pc + BitVec.ofNat 64 12) i.h.sw := by
  rw [exec_tkput, execTkput, if_pos h]
  exact warpStep_retire s 12 i.h.sw

/-- The queue that a TKPUT names. -/
def State.putQueue (s : State) (i : TkPut) : TaskQueue := s.taskq (i.queue.extractLsb' 6 2).toNat (i.queue.extractLsb' 0 6).toNat
/-- The warp with the status of its entry in the header register, its TKPUT performed. -/
def State.taskMark (s : State) (i : TkPut) (st : Nat) (w : Warp) : Warp :=
  (w.setS i.a.toNat ((s.w.s i.a.toNat &&& ~~~(0xFFFF : DWord)) ||| BitVec.ofNat 64 st)).retire 12 i.h.sw
theorem State.taskMark_done {t : State} {st : Nat} (ht : t.w = s.taskMark i st s.w) {y : BitVec 16}
    (hst : BitVec.ofNat 64 st = y.setWidth 64) : t.w.At (s.w.pc + BitVec.ofNat 64 12) i.h.sw ∧
      { t.w with sregs := s.w.sregs }.body = s.w.body ∧
      ∀ r, t.w.s r = if r = i.a.toNat then (s.w.s i.a.toNat).extractLsb' 16 48 ++ y else s.w.s r := by
  rw [ht, State.taskMark, hst, replace_low16]
  exact ⟨Warp.at_retire _ 12 _, (congrArg (fun v : Warp => { v with sregs := s.w.sregs }) (Warp.body_retire _ 12 i.h.sw)).trans rfl,
    fun r => (Warp.s_retire _ _ _ _).trans (Warp.s_setS _ _ _ _)⟩

variable (hm : s.w.parts i.h ≠ 0)
include hm

theorem trapsWith_tkput (hr : s.w.reason ≠ 15) (ho : ¬(s.putQueue i).openTo s.w.ctx = true) :
    TrapsWith (exec (.tkput i) s) s 0x1D2 (s.w.parts i.h) := by
  rw [exec_tkput, execTkput, if_neg hm, if_pos]
  · exact trapsWith_precise _ _ _ _
  · rw [Bool.and_eq_true, Bool.not_eq_true', bne_iff_ne]
    exact ⟨Bool.eq_false_iff.2 ho, hr⟩

variable (ho : (s.putQueue i).openTo s.w.ctx = true)
include ho

theorem exec_tkput_open : exec (.tkput i) s =
    if taskStatus (s.w.s i.a.toNat) ≠ 0 then .next (s.upd (s.taskMark i (taskStatus (s.w.s i.a.toNat))))
    else if s.releaseHolds none then .next s.hold
    else if taskCap ≤ (s.putQueue i).entries.length then .next (s.park 15)
    else .next ((s.setTaskq (i.queue.extractLsb' 6 2).toNat (i.queue.extractLsb' 0 6).toNat { s.putQueue i with
      entries := (s.putQueue i).entries ++ [⟨s.w.s i.a.toNat &&& ~~~(0xFFFF : DWord), s.w.s (i.a.toNat + 1), s.w.s (i.a.toNat + 2),
        s.w.s (i.a.toNat + 3)⟩] }).upd (s.taskMark i (taskStatus (s.w.s i.a.toNat)))) := by
  have hopen : ¬(!(s.putQueue i).openTo s.w.ctx && s.w.reason != 15) = true := by simp [ho]
  rw [exec_tkput, execTkput, if_neg hm]
  exact if_neg hopen
theorem exec_tkput_bad (hst : taskStatus (s.w.s i.a.toNat) ≠ 0) :
    exec (.tkput i) s = .next (s.upd (s.taskMark i (taskStatus (s.w.s i.a.toNat)))) := by
  rw [exec_tkput_open hm ho, if_pos hst]

variable (hst : taskStatus (s.w.s i.a.toNat) = 0)
include hst

theorem exec_tkput_held (hh : s.releaseHolds none = true) : exec (.tkput i) s = .next s.hold := by
  rw [exec_tkput_open hm ho, if_neg (not_not.2 hst), if_pos hh]

variable (hh : s.releaseHolds none = false)
include hh

theorem exec_tkput_full (hq : 1048575 ≤ (s.putQueue i).entries.length) : exec (.tkput i) s = .next (s.park 15) := by
  rw [exec_tkput_open hm ho, if_neg (not_not.2 hst), hh]
  exact if_pos hq
theorem exec_tkput_puts (hq : (s.putQueue i).entries.length < 1048575) : exec (.tkput i) s =
    .next ((s.setTaskq (i.queue.extractLsb' 6 2).toNat (i.queue.extractLsb' 0 6).toNat { s.putQueue i with
      entries := (s.putQueue i).entries ++ [⟨(s.w.s i.a.toNat).extractLsb' 16 48 ++ (0 : BitVec 16), s.w.s (i.a.toNat + 1),
        s.w.s (i.a.toNat + 2), s.w.s (i.a.toNat + 3)⟩] }).upd (s.taskMark i 0)) := by
  rw [exec_tkput_open hm ho, if_neg (not_not.2 hst), hh, hst, clear_low16]
  exact if_neg (Nat.not_le.2 hq)

end

/-! #### The end of a pop -/

/-- An acquire at `.package` leaves the executing warp's die no copy of a line of this package (R195). -/
theorem State.copyByte_acquire (s : State) {a : Nat} (ha : a < 2 ^ 40) : (s.acquire 2).copyByte s.peer a = none := by
  rw [Option.eq_none_iff_forall_ne_some]
  intro x hx
  have hw : (s.acquire 2).w = s.w := rfl
  rw [State.copyByte_eq_some, hw] at hx
  have hcopies : ((s.acquire 2).die s.myDie).copies = (s.die s.myDie).copies.filter (fun e =>
      !(e.2.elim false (fun x => x.1 == s.w.ctx)) || !(false || e.1 / 2 ^ 40 == s.peer.toNat || (s.die s.myDie).older.contains (e.1 / 128))) := by
    rw [State.acquire, State.acquireOf, if_neg (by decide), State.dropCopies]
    exact congrArg Die.copies ((State.die_setDie _ _ _ _).trans (if_pos rfl))
  obtain hnone | hmem := Tab.get_default_or_mem (none : Option (CtxId × Byte × Nat)) ((s.acquire 2).die s.myDie).copies (copyKey s.peer a)
  · exact absurd (hnone.symm.trans hx) nofun
  · rw [show Tab.get none ((s.acquire 2).die s.myDie).copies (copyKey s.peer a) = _ from hx, hcopies] at hmem
    have hkey : copyKey s.peer a / 2 ^ 40 = s.peer.toNat := by rw [copyKey]; omega
    have hkept := (List.mem_filter.1 hmem).2
    rw [hkey] at hkept
    simp at hkept
theorem QueueMoves.fresh1 {s t : State} {d n : Nat} {q : TaskQueue} (h : QueueMoves s t d n q) : QueueMoves s t.fresh1 d n q := h
theorem QueueMoves.acquire {s t : State} {d n : Nat} {q : TaskQueue} (h : QueueMoves s t d n q) (reach : Nat) :
    QueueMoves s (t.acquire reach) d n q := by
  have htask : ∀ e m, (t.acquire reach).taskq e m = t.taskq e m := fun e m => by
    unfold State.acquire State.acquireOf
    split
    · rfl
    · rw [State.taskq, State.dropCopies, State.die_setDie]
      split
      · next he => rw [he]; rfl
      · rfl
  have hcores : (t.acquire reach).cores = t.cores := by
    unfold State.acquire State.acquireOf
    split <;> rfl
  obtain ⟨hmem, hc, hwarps, hown, hothers⟩ := h
  exact ⟨(t.mem_acquire reach).trans hmem, hcores.trans hc, fun k hk => (State.warp_acquireOf _ _ _ _).trans (hwarps k hk),
    (htask d n).trans hown, fun e m hne => (htask e m).trans (hothers e m hne)⟩

@[simp] theorem State.cur_acquire (s : State) (reach : Nat) : (s.acquire reach).cur = s.cur := by
  unfold State.acquire State.acquireOf
  split <;> rfl
@[simp] theorem State.w_acquire (s : State) (reach : Nat) : (s.acquire reach).w = s.w := by
  rw [State.w, State.cur_acquire, State.acquire, State.warp_acquireOf]
  rfl

/-- What a pop does once the queue has given its entry: a long result, an acquire at `.package`, a change `f` of the warp, and retiring. -/
def State.deliverPop (s : State) (m : Mask) (kind : PendKind) (f : Warp → Warp) (len : Nat) (sw : Bool) : State :=
  (((s.addPending m kind).acquire 2).upd f).retire len sw

section
variable {t : State} {m : Mask} (hm : m ≠ 0) (kind : PendKind) (f : Warp → Warp) (len : Nat) (sw : Bool)
include hm

theorem State.w_deliverPop : (t.deliverPop m kind f len sw).w =
    (f { t.w with pending := t.w.pending ++ [⟨t.nextId, m, kind⟩] }).retire len sw := by
  rw [State.deliverPop, State.retire, State.w_upd, State.w_upd, State.w_acquire, State.w_addPending hm]
theorem QueueMoves.deliverPop {s : State} {d n : Nat} {q : TaskQueue} (h : QueueMoves s t d n q) (hcur : t.cur = s.cur) :
    QueueMoves s (t.deliverPop m kind f len sw) d n q := by
  have hadd : QueueMoves s (t.addPending m kind) d n q := by
    rw [State.addPending_eq hm]
    exact h.fresh1.upd hcur _
  have hc : (t.addPending m kind).cur = s.cur := by
    rw [State.addPending_eq hm]
    exact hcur
  exact ((hadd.acquire 2).upd ((State.cur_acquire _ _).trans hc) _).upd ((State.cur_acquire _ _).trans hc) _
theorem State.copyByte_deliverPop (hf : ∀ w, (f w).ctx = w.ctx) {a : Nat} (ha : a < 2 ^ 40) :
    (t.deliverPop m kind f len sw).copyByte t.peer a = none := by
  have hpeer : (t.addPending m kind).peer = t.peer := by
    rw [State.addPending_eq hm]
    rfl
  have hnone := (t.addPending m kind).copyByte_acquire ha
  have hctx : (t.deliverPop m kind f len sw).w.ctx = ((t.addPending m kind).acquire 2).w.ctx := by
    rw [State.w_deliverPop hm, Warp.retire_ctx, hf, State.w_acquire, State.w_addPending hm]
  rw [hpeer, State.copyByte] at hnone
  rw [State.copyByte, hctx]
  exact hnone

end

/-- A retired warp differs in its place and in what an instruction leaves behind. -/
theorem Warp.retire_eq (w : Warp) (len : Nat) (sw : Bool) : w.retire len sw = { w with
    pc := (w.retire len sw).pc, stat := (w.retire len sw).stat, reason := (w.retire len sw).reason, done := 0, waiting := 0, replay := false,
    ir := none, held := false, stored := [], promotes := [], entries := [], counted := [], snapWait := none } := by
  unfold Warp.retire Warp.finish Warp.mark
  split <;> rfl

/-! #### TKGET -/

section
variable {s : State} {i : HD}

theorem warpStep_tkget (h : s.w.parts i.h = 0) : WarpStep (exec (.tkget i) s) s s.w (s.w.pc + BitVec.ofNat 64 8) i.h.sw := by
  rw [exec_tkget, execTkget, if_pos h]
  exact warpStep_retire s 8 i.h.sw

/-- The queue that the draw binding names. -/
def State.drawQueue (s : State) : TaskQueue := s.taskq (qDie s.w.draw) (qQueue s.w.draw)
/-- That queue holds `es` after a pop. -/
def State.popQueue (s : State) (es : List Task) : State :=
  s.setTaskq (qDie s.w.draw) (qQueue s.w.draw) { s.drawQueue with entries := es, outstanding := s.drawQueue.outstanding + 1 }
theorem State.w_popQueue (s : State) (es : List Task) : (s.popQueue es).w = s.w := rfl
theorem State.peer_popQueue (s : State) (es : List Task) : (s.popQueue es).peer = s.peer := rfl
theorem State.nextId_popQueue (s : State) (es : List Task) : (s.popQueue es).nextId = s.nextId := rfl
theorem QueueMoves.popQueue (s : State) (es : List Task) : QueueMoves s (s.popQueue es) (qDie s.w.draw) (qQueue s.w.draw)
    { s.drawQueue with entries := es, outstanding := s.drawQueue.outstanding + 1 } := QueueMoves.setTaskq _ _ _ _

/-- A draw binding, and fewer than 15 entries outstanding. -/
def Warp.Draws (w : Warp) : Prop := qKind w.draw = 5 ∧ w.qids.length < 15
/-- A popped entry on its way to its four scalars. -/
def popResult (d qd qn : Nat) (e : Task) : PendKind :=
  .value [] [(d, e.w0.extractLsb' 16 48 ++ BitVec.ofNat 16 (qd * 64 + qn)), (d + 1, e.w1), (d + 2, e.w2), (d + 3, e.w3)]

variable (hm : s.w.parts i.h ≠ 0)
include hm

theorem trapsWith_tkget (h : ¬s.w.Draws) : TrapsWith (exec (.tkget i) s) s 0x1D3 (s.w.parts i.h) := by
  rw [Warp.Draws] at h
  rw [exec_tkget, execTkget, if_neg hm, if_pos (by omega)]
  exact trapsWith_precise _ _ _ _

variable (h : s.w.Draws)
include h

theorem exec_tkget_empty (hq : s.drawQueue.entries = []) : exec (.tkget i) s = .next (s.park 14) := by
  obtain ⟨hk, hlen⟩ := h
  rw [exec_tkget, execTkget, if_neg hm, if_neg (by omega)]
  rw [State.drawQueue] at hq
  simp only [hq]
theorem exec_tkget_pops {e : Task} {es : List Task} (hq : s.drawQueue.entries = e :: es) : exec (.tkget i) s =
    .next ((s.popQueue es).deliverPop (s.w.parts i.h) (popResult i.d.toNat (qDie s.w.draw) (qQueue s.w.draw) e)
      (fun w => { w with qids := w.qids ++ [qidOf (qDie s.w.draw) (qQueue s.w.draw)] }) 8 i.h.sw) := by
  obtain ⟨hk, hlen⟩ := h
  have hd : qDie s.w.draw < 4 := (s.w.draw.extractLsb' 14 2).isLt
  have hn : qQueue s.w.draw < 64 := (s.w.draw.extractLsb' 8 6).isLt
  rw [exec_tkget, execTkget, if_neg hm, if_neg (by omega)]
  rw [State.drawQueue] at hq
  simp only [hq, setWidth_qidOf hd hn, replace_low16]
  rfl

end

/-! #### TKDONE -/

section
variable {s : State} {i : HA}

/-- The QID that a TKDONE names. -/
def Warp.doneId (w : Warp) (i : HA) : BitVec 8 := (w.s i.a.toNat).setWidth 8

theorem warpStep_tkdone (h : s.w.parts i.h = 0) : WarpStep (exec (.tkdone i) s) s s.w (s.w.pc + BitVec.ofNat 64 8) i.h.sw := by
  rw [exec_tkdone, execTkdone, if_pos h]
  exact warpStep_retire s 8 i.h.sw

variable (hm : s.w.parts i.h ≠ 0)
include hm

theorem trapsWith_tkdone (h : s.w.doneId i ∉ s.w.qids) : TrapsWith (exec (.tkdone i) s) s 0x1D4 (s.w.parts i.h) := by
  rw [Warp.doneId] at h
  rw [exec_tkdone, execTkdone, if_neg hm, if_pos (by simpa using h)]
  exact trapsWith_precise _ _ _ _
theorem exec_tkdone_done (h : s.w.doneId i ∈ s.w.qids) : exec (.tkdone i) s =
    .next ((s.setTaskq ((s.w.doneId i).extractLsb' 6 2).toNat ((s.w.doneId i).extractLsb' 0 6).toNat
      { s.taskq ((s.w.doneId i).extractLsb' 6 2).toNat ((s.w.doneId i).extractLsb' 0 6).toNat with
        outstanding := (s.taskq ((s.w.doneId i).extractLsb' 6 2).toNat ((s.w.doneId i).extractLsb' 0 6).toNat).outstanding - 1 }).upd
      (fun w => Warp.retire { w with qids := w.qids.erase (s.w.doneId i) } 8 i.h.sw)) := by
  rw [Warp.doneId] at h
  rw [exec_tkdone, execTkdone, if_neg hm, if_neg (by simpa using h)]
  rfl

end

end Sys2Proof.Machine
end

section
/-! ### The usher (13_queue.md R254) -/
namespace Sys2Proof.Machine

/-! #### Tables with rising keys -/

theorem Tab.rising_set {α : Type} [DecidableEq α] (d : α) (t : Tab α) (n : Nat) (v : α) (h : Tab.rising none t = true) :
    Tab.rising none (Tab.set d t n v) = true := by
  unfold Tab.set
  split
  · rw [Tab.del_eq_filter]
    exact Tab.rising_filter _ _ _ h
  · exact Tab.rising_put _ _ _ _ h nofun
theorem Tab.keys_above {α : Type} (t : Tab α) (l : Nat) (h : Tab.rising (some l) t = true) : ∀ e ∈ t, l < e.1 := fun e he => by
  by_contra hle
  exact Tab.not_mem_of_le t l e.1 e.2 h (by omega) he
theorem Tab.keys_sorted {α : Type} (t : Tab α) (o : Option Nat) (h : Tab.rising o t = true) :
    (List.map (fun e : Nat × α => e.1) t).Pairwise (· < ·) := by
  induction t generalizing o with
  | nil => exact List.Pairwise.nil
  | cons e t ih =>
    have ht : Tab.rising (some e.1) t = true := by
      cases o with
      | none => exact h
      | some l => exact (Bool.and_eq_true_iff.1 h).2
    refine List.Pairwise.cons (fun k hk => ?_) (ih _ ht)
    obtain ⟨x, hx, rfl⟩ := List.mem_map.1 hk
    exact Tab.keys_above t e.1 ht x hx
/-- The least member of a sorted list is its head. -/
theorem head_of_least {l : List Nat} (hs : l.Pairwise (· < ·)) {k : Nat} (hk : k ∈ l) (hleast : ∀ j ∈ l, k ≤ j) : ∃ ks, l = k :: ks := by
  cases l with
  | nil => cases hk
  | cons a l =>
    obtain rfl | hk := List.mem_cons.1 hk
    · exact ⟨l, rfl⟩
    · have hlt := List.rel_of_pairwise_cons hs hk
      have hle := hleast a List.mem_cons_self
      omega
/-- A number below `n` splits the numbers below `n`. -/
theorem range_split {p n : Nat} (h : p < n) : ∃ l, List.range n = List.range p ++ p :: l := by
  obtain ⟨m, rfl⟩ := Nat.exists_eq_add_of_lt h
  refine ⟨(List.range m).map (fun x => p + (x + 1)), ?_⟩
  rw [Nat.add_assoc, List.range_add, List.range_succ_eq_map, List.map_cons, List.map_map]
  rfl
/-- Steps that change nothing. -/
theorem foldl_stays {σ β : Type} {g : σ → β → σ} {a : σ} {l : List β} (h : ∀ x ∈ l, g a x = a) : l.foldl g a = a := by
  induction l with
  | nil => rfl
  | cons x l ih => rw [List.foldl_cons, h x List.mem_cons_self, ih fun y hy => h y (List.mem_cons_of_mem _ hy)]

/-! #### A pass -/

theorem exec_usherPass (d : Nat) (s : State) : exec (.usherPass d) s = execUsherPass d s := rfl

/-- A governed queue at or above HIGH. -/
def State.congested (s : State) (die n : Nat) : Bool :=
  (s.taskq die n).desc.getLsbD 1 && decide ((s.taskq die n).high ≤ (s.taskq die n).entries.length)
/-- A warp of which the draw binding names queue `n`. -/
def Warp.redrawn (w : Warp) (n : Nat) : Warp := { w with draw := (w.draw &&& ~~~(0x3F00 : Word)) ||| BitVec.ofNat 32 (n * 256) }
/-- Warp `k` moves to queue `n`. -/
def State.redraw (n : Nat) (s : State) (k : Nat) : State := s.setWarp k ((s.warp k).redrawn n)
/-- The usher's visit to queue `n` of a die; the second part lists the warps that it has moved. -/
def usherVisit (die : Nat) (a : State × List Nat) (n : Nat) : State × List Nat :=
  if a.1.congested die n then ((a.1.movers die n a.2).foldl (State.redraw n) a.1, a.2 ++ a.1.movers die n a.2) else a
/-- What a pass over the queues of a die leaves. -/
def State.ushered (s : State) (die : Nat) : State := ((List.range 64).foldl (usherVisit die) (s, [])).1

section
variable {s : State} {d : Nat}

theorem exec_usherPass_early (h : (s.ft - (s.die d).usherAt).toNat < 64000) : exec (.usherPass d) s = .next s := by
  rw [exec_usherPass, execUsherPass, if_pos h]
theorem exec_usherPass_due (h : 64000 ≤ (s.ft - (s.die d).usherAt).toNat) :
    exec (.usherPass d) s = .next ((s.ushered d).setDie d { (s.ushered d).die d with usherAt := s.ft }) := by
  rw [exec_usherPass, execUsherPass, if_neg (by omega)]
  rfl

theorem State.congested_iff (n : Nat) : s.congested d n = true ↔
    (s.taskq d n).desc.getLsbD 1 = true ∧ ((s.taskq d n).desc.extractLsb' 68 20).toNat ≤ (s.taskq d n).entries.length := by
  rw [State.congested, Bool.and_eq_true, decide_eq_true_eq]
  rfl
theorem State.ushered_none (h : ∀ n, n < 64 → ¬s.congested d n = true) : s.ushered d = s := by
  have hstay : (List.range 64).foldl (usherVisit d) (s, []) = (s, []) := foldl_stays fun n hn => if_neg (h n (List.mem_range.1 hn))
  rw [State.ushered, hstay]

end

/-! #### What a pass may change -/

/-- A warp that waits for a task, lets the usher move it and has nothing outstanding. -/
def Warp.Movable (w : Warp) : Prop := w.stat = .parked ∧ w.reason = 14 ∧ w.qids = [] ∧ w.draw.getLsbD 16 = true

/-- From `s` to `t` only draw bindings of movable warps differ. -/
structure Ushered (s t : State) : Prop where
  package : { t with warps := s.warps } = s
  rising : Tab.rising none t.warps = true
  warp : ∀ k, { t.warp k with draw := (s.warp k).draw } = s.warp k
  moved : ∀ k, (t.warp k).draw ≠ (s.warp k).draw → (s.warp k).Movable

/-- Warp `k` is eligible to leave queue `p` of a die. -/
def State.MayLeave (s : State) (die p k : Nat) : Prop :=
  (s.warp k).draw.extractLsb' 0 4 = 5 ∧ (s.warp k).draw.getLsbD 16 = true ∧ ((s.warp k).draw.extractLsb' 14 2).toNat = die ∧
    ((s.warp k).draw.extractLsb' 8 6).toNat = p ∧ (s.warp k).stat = .parked ∧ (s.warp k).reason = 14 ∧ (s.warp k).qids = [] ∧
    (s.ctx (s.warp k).ctx).state = .running

theorem qKind_draws (b : Word) : qKind b = 5 ↔ b.extractLsb' 0 4 = 5 := by
  rw [qKind, ← BitVec.toNat_inj]
  rfl
theorem State.mem_eligible {s : State} (h : Tab.rising none s.warps = true) (die p : Nat) (moved : List Nat) (k : Nat) :
    k ∈ s.eligible die p moved ↔ s.MayLeave die p k ∧ k ∉ moved := by
  have hlisted : s.MayLeave die p k → (k, s.warp k) ∈ s.warps := fun hm => by
    obtain hd | hmem := Tab.get_default_or_mem ({} : Warp) s.warps k
    · have hparked : (s.warp k).stat = .parked := hm.2.2.2.2.1
      rw [State.warp, hd] at hparked
      exact absurd hparked nofun
    · exact hmem
  have hcond : ∀ e ∈ s.warps, (qKind e.2.draw == 5 && e.2.draw.getLsbD 16 && qDie e.2.draw == die && qQueue e.2.draw == p &&
      e.2.stat == .parked && e.2.reason == 14 && e.2.qids == [] && (s.ctx e.2.ctx).state == .running && !moved.contains e.1) = true ↔
      s.MayLeave die p e.1 ∧ e.1 ∉ moved := fun e he => by
    have hw : s.warp e.1 = e.2 := Tab.get_of_mem ({} : Warp) s.warps none h e.1 e.2 he
    rw [State.MayLeave, hw, ← qKind_draws]
    simp only [Bool.and_eq_true, beq_iff_eq, and_assoc, Bool.not_eq_true', List.contains_eq_mem, decide_eq_false_iff_not]
    rfl
  rw [State.eligible, List.mem_map]
  constructor
  · rintro ⟨e, he, rfl⟩
    obtain ⟨hmem, hp⟩ := List.mem_filter.1 he
    exact (hcond e hmem).1 hp
  · rintro ⟨hm, hn⟩
    exact ⟨_, List.mem_filter.2 ⟨hlisted hm, (hcond _ (hlisted hm)).2 ⟨hm, hn⟩⟩, rfl⟩
theorem State.eligible_sorted {s : State} (h : Tab.rising none s.warps = true) (die p : Nat) (moved : List Nat) :
    (s.eligible die p moved).Pairwise (· < ·) := Tab.keys_sorted _ none (Tab.rising_filter _ _ _ h)

/-- A starved governed queue of the context of queue `n`. -/
def State.starved (s : State) (die n p : Nat) : Bool :=
  p != n && (s.taskq die p).owner == (s.taskq die n).owner && (s.taskq die p).desc.getLsbD 1 &&
    decide ((s.taskq die p).entries.length ≤ (s.taskq die p).low)
theorem State.starved_iff (s : State) (die n p : Nat) : s.starved die n p = true ↔ p ≠ n ∧
    (s.taskq die p).desc.extractLsb' 32 12 = (s.taskq die n).desc.extractLsb' 32 12 ∧ (s.taskq die p).desc.getLsbD 1 = true ∧
    (s.taskq die p).entries.length ≤ ((s.taskq die p).desc.extractLsb' 48 20).toNat := by
  rw [State.starved, Bool.and_eq_true, Bool.and_eq_true, Bool.and_eq_true, bne_iff_ne, beq_iff_eq, decide_eq_true_eq, and_assoc, and_assoc]
  rfl
/-- The first eligible warp of a queue, with the others. -/
def State.firstOf (s : State) (die : Nat) (moved : List Nat) (p : Nat) : Option (Nat × List Nat) :=
  match s.eligible die p moved with
  | [] => none
  | k :: ks => some (k, ks)
theorem State.firstOf_eq_some {s : State} {die p : Nat} {moved : List Nat} {e : Nat × List Nat} (h : s.firstOf die moved p = some e) :
    s.eligible die p moved = e.1 :: e.2 := by
  unfold State.firstOf at h
  split at h
  · cases h
  · next k ks hk => cases h; exact hk
/-- The warps that move, from the first warp found. -/
def State.moversOf (s : State) (die n : Nat) (found : List (Nat × List Nat)) : List Nat :=
  match found with
  | [] => []
  | (k, ks) :: _ => k :: (if (s.taskq die n).desc.getLsbD 44 then ks.filter (fun x => coreOf x == coreOf k) else [])
theorem State.movers_eq (s : State) (die n : Nat) (moved : List Nat) : s.movers die n moved =
    s.moversOf die n (((List.range 64).filter (s.starved die n)).filterMap (s.firstOf die moved)) := rfl

/-- Each warp that moves was eligible. -/
theorem State.mayLeave_of_movers {s : State} (h : Tab.rising none s.warps = true) {die n k : Nat} {moved : List Nat}
    (hk : k ∈ s.movers die n moved) : ∃ p, s.MayLeave die p k := by
  rw [State.movers_eq] at hk
  cases hfound : ((List.range 64).filter (s.starved die n)).filterMap (s.firstOf die moved) with
  | nil => rw [hfound] at hk; cases hk
  | cons e es =>
    have hmem : e ∈ ((List.range 64).filter (s.starved die n)).filterMap (s.firstOf die moved) := hfound ▸ List.mem_cons_self
    obtain ⟨p, -, hp⟩ := List.mem_filterMap.1 hmem
    refine ⟨p, ((s.mem_eligible h die p moved k).1 ?_).1⟩
    rw [State.firstOf_eq_some hp]
    rw [hfound] at hk
    obtain rfl | hk := List.mem_cons.1 hk
    · exact List.mem_cons_self
    · split at hk
      · exact List.mem_cons_of_mem _ (List.mem_filter.1 hk).1
      · cases hk

theorem Ushered.refl {s : State} (h : Tab.rising none s.warps = true) : Ushered s s := ⟨rfl, h, fun _ => rfl, fun _ hne => absurd rfl hne⟩

section
variable {s t : State} (h : Ushered s t)
include h

theorem Ushered.redraw {k : Nat} (hk : (s.warp k).Movable) (n : Nat) : Ushered s (t.redraw n k) := by
  have hw := fun j => State.warp_setWarp t k j ((t.warp k).redrawn n)
  refine ⟨h.package, Tab.rising_set _ _ _ _ h.rising, fun j => ?_, fun j hne => ?_⟩
  · rw [State.redraw, hw]
    split
    · next hj => subst hj; exact h.warp j
    · exact h.warp j
  · rw [State.redraw, hw] at hne
    split at hne
    · next hj => exact hj ▸ hk
    · exact h.moved j hne
theorem Ushered.movable {k : Nat} {die p : Nat} (hk : t.MayLeave die p k) : (s.warp k).Movable := by
  obtain ⟨-, hbit, -, -, hstat, hreason, hqids, -⟩ := hk
  have hw := h.warp k
  by_cases hd : (t.warp k).draw = (s.warp k).draw
  · rw [← hw]
    exact ⟨hstat, hreason, hqids, hd ▸ hbit⟩
  · exact h.moved k hd
theorem Ushered.foldl {ks : List Nat} (hks : ∀ k ∈ ks, (s.warp k).Movable) (n : Nat) : Ushered s (ks.foldl (State.redraw n) t) := by
  induction ks generalizing t with
  | nil => exact h
  | cons k ks ih => exact ih (h.redraw (hks k List.mem_cons_self) n) fun j hj => hks j (List.mem_cons_of_mem _ hj)
theorem Ushered.visit (die : Nat) (moved : List Nat) (n : Nat) : Ushered s (usherVisit die (t, moved) n).1 := by
  unfold usherVisit
  split
  · refine h.foldl (fun k hk => ?_) n
    obtain ⟨p, hp⟩ := State.mayLeave_of_movers h.rising hk
    exact h.movable hp
  · exact h
theorem Ushered.visits (die : Nat) (ns : List Nat) (moved : List Nat) : Ushered s (ns.foldl (usherVisit die) (t, moved)).1 := by
  induction ns generalizing t moved with
  | nil => exact h
  | cons n ns ih => exact ih (h.visit die moved n) _

end

theorem State.ushered_spec {s : State} (h : Tab.rising none s.warps = true) (d : Nat) : Ushered s (s.ushered d) :=
  (Ushered.refl h).visits d _ []

/-! #### One congested queue -/

theorem Warp.redrawn_redrawn (w : Warp) (n : Nat) : (w.redrawn n).redrawn n = w.redrawn n := by
  have hbool : ∀ x m c : Bool, ((x && m || c) && m || c) = (x && m || c) := by decide
  have hbits : ∀ x m c : Word, ((x &&& ~~~m ||| c) &&& ~~~m ||| c) = (x &&& ~~~m ||| c) := fun x m c => by
    refine BitVec.eq_of_getLsbD_eq fun k hk => ?_
    simp only [BitVec.getLsbD_or, BitVec.getLsbD_and]
    exact hbool _ _ _
  simp only [Warp.redrawn, hbits]
theorem State.warp_foldl_redraw (s : State) (n : Nat) (ks : List Nat) (j : Nat) :
    (ks.foldl (State.redraw n) s).warp j = if j ∈ ks then (s.warp j).redrawn n else s.warp j :=
  foldl_parts (State.redraw n) State.warp (fun _ w => w.redrawn n) (fun _ w => w.redrawn_redrawn n)
    (fun s k j => State.warp_setWarp s k j _) ks s j
theorem State.congested_foldl_redraw (s : State) (n : Nat) (ks : List Nat) (d m : Nat) :
    (ks.foldl (State.redraw n) s).congested d m = s.congested d m := by
  induction ks generalizing s with
  | nil => rfl
  | cons k ks ih => exact ih _

section
variable {s : State} (h : Tab.rising none s.warps = true) {d n p k : Nat}
include h

/-- The lowest waiting warp of the first starved queue that has one, with those of its core where the fan bit is set. -/
theorem State.mem_movers (hp : p < 64) (hs : s.starved d n p = true) (hk : s.MayLeave d p k)
    (hfirst : ∀ m, m < p → s.starved d n m = true → ∀ j, ¬s.MayLeave d m j) (hleast : ∀ j, j < k → ¬s.MayLeave d p j) (j : Nat) :
    j ∈ s.movers d n [] ↔ j = k ∨ ((s.taskq d n).desc.getLsbD 44 = true ∧ s.MayLeave d p j ∧ coreOf j = coreOf k) := by
  have helig : ∀ m j, j ∈ s.eligible d m [] ↔ s.MayLeave d m j := fun m j => by
    rw [s.mem_eligible h]
    exact and_iff_left (List.not_mem_nil)
  obtain ⟨l, hl⟩ := range_split hp
  obtain ⟨ks, hks⟩ := head_of_least (State.eligible_sorted h d p []) ((helig p k).2 hk) fun j hj => by
    by_contra hlt
    exact hleast j (by omega) ((helig p j).1 hj)
  have hbefore : ((List.range p).filter (s.starved d n)).filterMap (s.firstOf d []) = [] := by
    rw [List.filterMap_eq_nil_iff]
    intro m hm
    obtain ⟨hm, hst⟩ := List.mem_filter.1 hm
    have hnone : s.eligible d m [] = [] := List.eq_nil_iff_forall_not_mem.2 fun j hj =>
      hfirst m (List.mem_range.1 hm) hst j ((helig m j).1 hj)
    rw [State.firstOf, hnone]
  have hhead : s.firstOf d [] p = some (k, ks) := by rw [State.firstOf, hks]
  have hmovers : s.movers d n [] = k :: (if (s.taskq d n).desc.getLsbD 44 then ks.filter (fun x => coreOf x == coreOf k) else []) := by
    rw [State.movers_eq, hl, List.filter_append, List.filterMap_append, hbefore, List.nil_append, List.filter_cons_of_pos hs,
      List.filterMap_cons_some hhead]
    rfl
  have hmem : s.MayLeave d p j ↔ j = k ∨ j ∈ ks := by rw [← helig, hks, List.mem_cons]
  rw [hmovers, List.mem_cons]
  by_cases hfan : (s.taskq d n).desc.getLsbD 44 = true
  · rw [if_pos hfan, List.mem_filter, beq_iff_eq, hmem]
    tauto
  · rw [if_neg hfan]
    exact or_congr Iff.rfl ⟨fun hj => absurd hj List.not_mem_nil, fun hj => absurd hj.1 hfan⟩

omit h in
theorem State.warp_ushered (hn : n < 64) (hfull : s.congested d n = true) (hothers : ∀ m, m < 64 → m ≠ n → ¬s.congested d m = true)
    (j : Nat) :
    (s.ushered d).warp j = if j ∈ s.movers d n [] then (s.warp j).redrawn n else s.warp j := by
  obtain ⟨l, hl⟩ := range_split hn
  have hnodup : (List.range n ++ n :: l).Nodup := hl ▸ List.nodup_range
  have hbefore : (List.range n).foldl (usherVisit d) (s, []) = (s, []) := foldl_stays fun m hm =>
    have hm := List.mem_range.1 hm
    if_neg (hothers m (by omega) (by omega))
  have hafter : ∀ m ∈ l, ¬s.congested d m = true := fun m hm => by
    have hm64 : m < 64 := List.mem_range.1 (hl ▸ List.mem_append_right _ (List.mem_cons_of_mem _ hm))
    have hne : m ≠ n := fun e => (List.nodup_cons.1 (List.nodup_append.1 hnodup).2.1).1 (e ▸ hm)
    exact hothers m hm64 hne
  rw [State.ushered, hl, List.foldl_append, hbefore, List.foldl_cons, usherVisit, if_pos hfull, foldl_stays, State.warp_foldl_redraw]
  exact fun m hm => if_neg (by rw [State.congested_foldl_redraw]; exact hafter m hm)

end

end Sys2Proof.Machine
end

section
open Sys2Proof Sys2Proof.Machine
/-- Settles O42: each instruction by its cases above; a pass of the usher changes draw bindings of movable warps alone (`Ushered`), and with
one congested queue those of its movers (`State.warp_ushered`, `State.mem_movers`). -/
theorem taskQueuesKeepOrderAndDeliverOnce : Obligations.TaskQueuesKeepOrderAndDeliverOnce := by
  unfold Obligations.TaskQueuesKeepOrderAndDeliverOnce
  intro s idle waits moves
  refine ⟨fun i => ⟨warpStep_tkput, fun hm hr => ?_⟩, fun i => ⟨warpStep_tkget, fun hm => ?_⟩, fun i => ⟨warpStep_tkdone, fun hm => ?_⟩,
    fun d => ⟨exec_usherPass_early, fun hdue hnone => ?_, fun n p k hdue hrising hn hp hpn => ?_, fun hrising => ?_⟩⟩
  · have hopen := TaskQueue.openTo_iff (s.putQueue i) s.w.ctx
    refine ⟨fun ho => trapsWith_tkput hm hr (mt hopen.1 ho), fun ho hres => ?_, fun ho hres hbig => ?_, fun ho hres hbig =>
      ⟨fun hh => ?_, fun hh hfull => ?_, fun hh hroom => ?_⟩⟩
    · have hst := taskStatus_reserved hres
      rw [exec_tkput_bad hm (hopen.2 ho) (by omega), hst]
      exact ⟨_, rfl, OnlyWarp.upd _ _, State.taskMark_done (State.w_upd _ _) rfl⟩
    · have hst := taskStatus_big hres hbig
      rw [exec_tkput_bad hm (hopen.2 ho) (by omega), hst]
      exact ⟨_, rfl, OnlyWarp.upd _ _, State.taskMark_done (State.w_upd _ _) rfl⟩
    · exact exec_tkput_held hm (hopen.2 ho) (taskStatus_good hres hbig) hh
    · rw [exec_tkput_full hm (hopen.2 ho) (taskStatus_good hres hbig) hh hfull]
      exact s.park_waits 15
    · rw [exec_tkput_puts hm (hopen.2 ho) (taskStatus_good hres hbig) hh hroom]
      exact ⟨_, rfl, State.taskMark_done (State.w_upd _ _) rfl, (QueueMoves.setTaskq _ _ _ _).upd rfl _⟩
  · intro draws
    have hdraws : draws ↔ s.w.Draws := and_congr (qKind_draws _).symm Iff.rfl
    refine ⟨fun hd => trapsWith_tkget hm (mt hdraws.2 hd), fun hd hq => ?_, fun hd e es hq => ?_⟩
    · rw [exec_tkget_empty hm (hdraws.1 hd) hq]
      exact s.park_waits 14
    · rw [exec_tkget_pops hm (hdraws.1 hd) hq]
      refine ⟨_, rfl, ?_, (QueueMoves.popQueue s es).deliverPop hm _ _ _ _ rfl, fun a ha => ?_, ?_⟩
      · rw [State.w_deliverPop hm]
        exact Warp.at_retire _ 8 _
      · rw [← s.peer_popQueue es]
        refine State.copyByte_deliverPop (t := s.popQueue es) hm _ _ _ _ ?_ ha
        exact fun _ => rfl
      · rw [State.w_deliverPop hm, State.w_popQueue, State.nextId_popQueue]
        exact Warp.retire_eq _ _ _
  · refine ⟨fun hid => trapsWith_tkdone hm hid, fun hid => ?_⟩
    rw [exec_tkdone_done hm hid]
    refine ⟨_, rfl, ?_, ?_, ?_, (QueueMoves.setTaskq _ _ _ _).upd rfl _⟩
    · rw [State.w_upd]
      exact Warp.at_retire _ 8 _
    · rw [State.w_upd]
      exact (congrArg (fun v : Warp => { v with qids := s.w.qids }) (Warp.body_retire _ 8 i.h.sw)).trans rfl
    · rw [State.w_upd, Warp.retire_qids]
      rfl
  · have hcong : ∀ n, n < 64 → ¬s.congested d n = true := fun n hn hc => by
      obtain ⟨hgov, hhigh⟩ := (State.congested_iff n).1 hc
      exact absurd (hnone n hn hgov) (by omega)
    rw [exec_usherPass_due hdue, State.ushered_none hcong]
    exact ⟨_, rfl, rfl, (State.die_setDie _ _ _ _).trans (if_pos rfl), fun e he => (State.die_setDie _ _ _ _).trans (if_neg he), rfl⟩
  · intro q full starved waits hfull hothers hstarved hk hfirst hleast
    rw [exec_usherPass_due hdue]
    have hstarves : ∀ m, s.starved d n m = true ↔ starved m := s.starved_iff d n
    refine ⟨_, rfl, fun j => ?_⟩
    refine (State.warp_ushered hn ((State.congested_iff n).2 hfull) (fun m hm hne => mt (State.congested_iff m).1 (hothers m hm hne)) j).trans ?_
    exact if_congr (State.mem_movers hrising hp ((hstarves p).2 hstarved) hk (fun m hm hs => hfirst m hm ((hstarves m).1 hs)) hleast j) rfl rfl
  · by_cases hdue : (s.ft - (s.die d).usherAt).toNat < 64000
    · exact ⟨s, exec_usherPass_early hdue, rfl, rfl, fun k => ⟨rfl, fun hne => absurd rfl hne⟩⟩
    · have hspec := State.ushered_spec hrising d
      rw [exec_usherPass_due (by omega)]
      exact ⟨_, rfl, (congrArg State.mem hspec.package :), (congrArg State.cores hspec.package :), fun k => ⟨hspec.warp k, hspec.moved k⟩⟩
end
